-- ==== Sys2Proof/Word.lean ====
section
/-! DEFINITION. The word types of the BSN-9720: bytes and fixed-width words (R3, R4). Everything a test
could show wrong (field extraction, byte order) stands in `Machine/Bits.lean`. -/

namespace Sys2Proof

/-- One byte of memory. -/
abbrev Byte := BitVec 8
/-- A 32-bit word: an FP32 or INT32 element, a step number, a TAG. -/
abbrev W32 := BitVec 32
/-- A 64-bit word: an instruction word, a register, a Waymark count. -/
abbrev W64 := BitVec 64

end Sys2Proof
end

