-- ==== Sys2Proof/Syntax.lean ====
section
/-! DEFINITION. The commands of the BSN-9720: one constructor of `Instr` for each row of spec/opcode_table.json.
Tile instructions carry the logical core and the 64-bit word of Table 4.3, whose fields `Decode.lean` reads. -/

namespace Sys2Proof

/-- The header of a host command (R330): the function and command ring it came through, its TAG, its NOREPLY flag and
its CONTEXT field. -/
structure Cmd where
  fn : Nat
  ring : Nat
  tag : Nat
  noReply : Bool
  ctx : Nat
  deriving DecidableEq, Repr

/-- A fabric packet as received by a port die: the header of Table 12.6 and its data. `rsv` says that a reserved bit is
set. -/
structure Packet where
  die : Nat
  op : Nat
  flags : Nat
  src : Nat
  dst : Nat
  epoch : Nat
  sseq : Nat
  tag : Nat
  job : Nat
  length : Nat
  addr : Nat
  rsv : Bool
  data : List Byte
  deriving DecidableEq, Repr

/-- A MANAGER message (Table 12.10): the sender and the fields its subcode carries. -/
structure MgrMsg where
  src : Nat
  term : Nat
  ident : Nat
  epoch : Nat
  role : Nat
  request : Nat
  job : Nat
  step : Nat
  members : Nat
  state : Nat
  dies : Nat
  deriving DecidableEq, Repr

/-- What issues a bulk copy (R369): a cluster's DMA engine for a task, an Evile die for a record, or Thermos for a target. -/
inductive CopyBy where
  | dma (graph task : Nat)
  | evile (ctx record : Nat)
  | thermos (ctx target : Nat)
  deriving DecidableEq, Repr

/-- The path of a Lantern command (R455, R458): BAR0 (`none`), or the JTAG data register with the LNT_CTX, LNT_ADDR and
LNT_DATA values it carries. -/
structure LntVia where
  jtag : Option (Nat × Nat × Nat)
  deriving DecidableEq, Repr

/-- One picture that a decoder delivers (R382): luma size, bit depth, signalling, field order, and the samples of its three
planes in raster order. -/
structure Frame where
  width : Nat
  height : Nat
  depth : Nat
  mono : Bool
  sub420 : Bool
  interlaced : Bool
  topFirst : Bool
  fullRange : Bool
  matrix : Nat
  luma : List Nat
  cb : List Nat
  cr : List Nat
  deriving DecidableEq, Repr, Inhabited

/-- What the picture of an access unit is, as far as a random access point asks (R386). -/
inductive PicKind where
  | intra
  | idr
  | irap
  | key
  | other
  deriving DecidableEq, Repr, Inhabited

/-- What decoding one access unit gives (R381 to R399): the frames it outputs, the luma samples it decodes, what its picture is and
whether a sequence header stands ahead of it, whether it has a syntax error, a missing reference or is truncated, whether its profile or
level lies outside the row of Table 13.1, whether it is a picture of another codec, and, of a transport stream, the offset in the stream
where it ends. -/
structure AuResult where
  frames : List Frame
  samples : Nat
  pic : PicKind
  header : Bool
  err : Bool
  outside : Bool
  foreign : Bool
  upTo : Nat
  deriving DecidableEq, Repr, Inhabited

/-- What the hardware of a core's array finds wrong (R77, R404): a column or a row of the array, another datapath of the core, or a
64-bit word of accumulator memory, 512 to a tile, that is uncorrectable. -/
inductive CoreErr where
  | column (n : Nat)
  | row (n : Nat)
  | path
  | word (n : Nat)
  deriving DecidableEq, Repr

/-- What issued the transfer that a crossing abandons (R27): a core for its unfinished instruction of a place, a cluster's DMA engine
for a task, an Evile die for a record, Thermos for a target, an ingest engine for a stream, a port die for a packet's operation, Lantern,
Trailhead for a task, the command processor for a command that a ring has begun, or PCIe for a host's read of a function's BAR. -/
inductive CdcBy where
  | core (core insn : Nat)
  | dma (graph task : Nat)
  | evile (ctx record : Nat)
  | thermos (ctx target : Nat)
  | ingest (engine stream : Nat)
  | port (die tag : Nat)
  | lantern
  | trailhead (graph task : Nat)
  | host (h : Cmd)
  | pcie (fn : Nat)
  deriving DecidableEq, Repr

/-- On-chip memories that have no address in the local map (Table 14.1): of a core its tile memory, accumulators, tile registers,
program memory and Rambler's queues; a cluster's Waymark bank; an Evile die's landing memory. -/
inductive SramKind where
  | tile
  | acc
  | tregs
  | program
  | queues
  | waymarks
  | landing
  deriving DecidableEq, Repr

/-- Where an error of Table 14.1 is met: a word of the local map; a row of an on-chip memory of a site, cluster or die, for an access
of an issuer; a packet held in a port die's reorder buffer, by its stream and sequence number; a datapath of a site, cluster or die, for
a transfer of an issuer. -/
inductive ErrAt where
  | word (pa : Nat)
  | sram (kind : SramKind) (unit row : Nat) (by_ : CdcBy)
  | held (die src sdie vc sseq : Nat)
  | path (unit : Nat) (by_ : CdcBy)
  deriving DecidableEq, Repr

/-- A JTAG scan: an instruction is loaded, or `n` bits are shifted through the data register that it selects (R454, R458). -/
inductive JtagOp where
  | load (code : Byte)
  | shift (n tdi : Nat)
  deriving DecidableEq, Repr

/-- An MCTP request for a record by SEQ, 0 for the newest, or one that Table 15.12 does not have (R463). -/
inductive McRequest where
  | record (seq : Nat)
  | other (code : Nat)
  deriving DecidableEq, Repr

/-- A run of the boot sequencer (R431, R444): the levels of the straps, the step of Table 15.6 that it has come to, 8 where boot ends,
and the stacks that fail training. -/
structure BootRun where
  mgrSel : Bool
  smbAddr : Bool
  step : Nat
  failed : Nat
  deriving DecidableEq, Repr

/-- A TMM as it runs: its word, and what the hardware of the core finds wrong as it comes. -/
structure TmmRun where
  w : W64
  err : Option CoreErr
  deriving DecidableEq, Repr

/-- What a replica's die is given of an owner's slot (R279): the version that the owner has published, and the local offsets at which the
slot's data and its scales begin there. -/
structure OwnerSlot where
  tag : Nat
  data : Nat
  scales : Nat
  deriving DecidableEq, Repr

/-- A place in a BAR: the BAR, and an offset in it. -/
structure BarPlace where
  bar : Nat
  offset : Nat
  deriving DecidableEq, Repr

/-- A flit on a package link. -/
structure LinkFlit where
  link : Nat
  flit : Nat
  deriving DecidableEq, Repr

/-- The capability in a function's configuration space that a write of the host names beside an enable bit (R317, R329): NumVFs of the PF
with VF Enable, the Function Mask with MSI-X Enable, and two that have no enable bit: the PF's BAR4 size as a power of two of GiB, and
error status bits to clear. -/
inductive CfgWrite where
  | vfs (numVfs : Nat)
  | msix (fn : Nat) (mask : Bool)
  | bar4 (log2Gib : Nat)
  | aer (fn bits : Nat)
  deriving DecidableEq, Repr

/-- The commands: one constructor per row of the table, in the table's order. -/
inductive Instr where
  | nop (core : Nat) (w : W64)
  | tcfg (core : Nat) (w : W64)
  | tcfgClear (core : Nat) (w : W64)
  | tld (core : Nat) (w : W64)
  | tst (core : Nat) (w : W64)
  | twl (core : Nat) (w : W64)
  | tmm (core : Nat) (w : TmmRun)
  | tmv (core : Nat) (w : W64)
  | tmvRow (core : Nat) (w : W64)
  | tdr (core : Nat) (w : W64)
  | tzr (core : Nat) (w : W64)
  | tmov (core : Nat) (w : W64)
  | halo (core : Nat) (w : W64)
  | blr (core : Nat) (w : W64)
  | wait (core : Nat) (w : W64)
  | sig (core : Nat) (w : W64)
  | fence (core : Nat) (w : W64)
  | loop (core : Nat) (w : W64)
  | endl (core : Nat) (w : W64)
  | mova (core : Nat) (w : W64)
  | adda (core : Nat) (w : W64)
  | coreTaskEnd (core : Nat)
  | interrupt (core : Nat)
  | coreResume (core : Nat)
  | ramblerFetch (core steps : Nat)
  | cdcTimeout (crossing : BitVec 24) (by_ : CdcBy)
  | packageLinkRetrain (link : Nat)
  | linkDown (link : Nat)
  | taskDispatch
  | taskCoreReserve (ctx : Nat)
  | preempt (ctx : Nat)
  | blanketFetch (cluster channel : Nat)
  | stashCopy (graph task : Nat)
  | taskComplete (graph task : Nat)
  | waymarkCountAdd (index : Nat)
  | watchPoll (wait : Nat) (remote : Option Nat)
  | versionStallLimit (ctx : Nat) (record : BitVec 64)
  | contributionSend (ctx record : Nat)
  | contributionTake (ctx record : Nat)
  | slotAcquire (ctx record : Nat)
  | phaseC (ctx record : Nat)
  | updateCommit (ctx record : Nat)
  | versionPull (ctx record : Nat) (slotData : OwnerSlot)
  | commandDoorbell (fn ring : Nat) (value : W64)
  | completionDoorbell (fn ring : Nat) (value : W64)
  | commandPacket (fn ring : Nat) (packet : Option (List Byte))
  | msixDelay (fn ring : Nat)
  | ctxCreate (h : Cmd) (seed saveArea prio eventCq : Nat)
  | ctxDestroy (h : Cmd)
  | mapPages (h : Cmd) (va pa count attr : Nat)
  | unmapPages (h : Cmd) (va count size : Nat)
  | resume (h : Cmd)
  | graphSubmit (h : Cmd) (graph : Nat)
  | graphAbort (h : Cmd) (handle : Nat)
  | stepBegin (h : Cmd) (step : Nat)
  | stepCommit (h : Cmd) (step : Nat)
  | stepCommitReady (ctx : Nat)
  | groupWrite (h : Cmd) (group mask : Nat) (words : List W32)
  | waymarkRead (h : Cmd) (id : Nat) (remote : Option (List Byte))
  | waymarkWrite (h : Cmd) (id mode value : Nat) (remote : Bool)
  | checkpoint (h : Cmd) (step targets : Nat)
  | checkpointCopy (ctx target : Nat) (fail : Bool)
  | restore (h : Cmd) (step source addr : Nat) (slot : List Byte)
  | rollcallRun (h : Cmd) (clusters maxpar : Nat)
  | rollcallCluster (cluster : Nat) (misr : List Nat) (rows : List (Nat × Nat × Nat))
  | ingestOpen (h : Cmd) (config start engine : Nat)
  | ingestFeed (h : Cmd) (handle : Nat) (final : Bool) (segment count : Nat)
  | ingestClose (h : Cmd) (handle : Nat)
  | decodeAccessUnit (engine : Nat)
  | clipWrite (engine stream : Nat)
  | fabricJoin (h : Cmd) (role request : Nat)
  | joinTimeout
  | fabricLeave (h : Cmd)
  | meterRead (h : Cmd) (seq dest flags : Nat)
  | attest (h : Cmd) (nonce : List Byte) (dest : Nat)
  | query (h : Cmd) (selector : Nat)
  | bar4Read (fn : Nat) (offset : BarPlace) (length : Nat)
  | bar4Write (fn offset : Nat) (data : List Byte)
  | pciCrWrite (fn ring : Nat) (value : W64)
  | pciCqWrite (fn ring : Nat) (intr : Bool) (value : W64)
  | pciWinWrite (fn : Nat) (value : W64)
  | pciVfLimitsWrite (vf : Nat) (value : W64)
  | hbmIlvWrite (value : W32)
  | sysDvfsWrite (value : W32)
  | nxpJobWrite (ctx : Nat) (value : W64)
  | registerWrite (fn offset size : Nat) (value : W64)
  | functionLevelReset (fn : Nat)
  | regRead (via : LntVia)
  | regWrite (via : LntVia)
  | memRead (via : LntVia)
  | memWrite (via : LntVia)
  | wmkRead (via : LntVia)
  | wmkSet (via : LntVia)
  | siteRead (via : LntVia)
  | jtagInstruction (code : JtagOp)
  | laneFail (port lane : Nat)
  | flitReceive (port : Nat) (flit : List Byte) (fecOk : Bool)
  | flitAckTimeout (port : Nat)
  | portRetrain (port : Nat)
  | portDown (port : Nat)
  | read (p : Packet)
  | write (p : Packet)
  | writeSignal (p : Packet)
  | waymarkAdd (p : Packet)
  | bulkPull (p : Packet)
  | bulkWrite (p : Packet)
  | bulkCopy (ctx : CopyBy) (die : Nat) (source destination : W64) (length : Nat)
  | response (p : Packet)
  | e2eNak (p : Packet)
  | resendTimeout (die tag : Nat)
  | join (m : MgrMsg)
  | grant (m : MgrMsg)
  | heartbeat (m : MgrMsg)
  | heartbeatTimer
  | memberFailed (ident : Nat)
  | managerSilence
  | membership (m : MgrMsg)
  | ready (m : MgrMsg)
  | commit (m : MgrMsg)
  | abandon (m : MgrMsg)
  | mirror (m : MgrMsg) (kind : Nat)
  | takeover (m : MgrMsg)
  | pairBroken
  | stepReplay (ctx : Nat)
  | scrub (address : ErrAt) (outcome : Nat)
  | boot (image0 image1 : List Byte) (failedStacks : BootRun) (lanes : List (Nat × Nat))
  | coldReset
  | warmReset (perst : Bool)
  | pwrBrake
  | thermalSample (readings : List Nat)
  | meterSample (codes : List (Int × Int))
  | meterRecord
  | meterSilent
  | getRecord (seq : McRequest)
  | setChainHead (record : List Byte)
  | getAttestation (nonce : List Byte)
  | getTelemetry
  | memoryResponse (core tag : Nat) (uncorrectable : Bool)
  | clusterDmaTransfer (cluster graph task unit : Nat)
  | packageLinkReplay (link : LinkFlit)
  | packageLinkRetrained (link : Nat)
  | portRetrained (port : Nat) (lane3 : Bool)
  | perstRelease
  | pwrBrakeRelease
  | powerGood
  | vfEnable (numVfs : CfgWrite) (enable : Bool)
  deriving DecidableEq, Repr

end Sys2Proof
end

