-- ==== Sys2Proof/Config.lean ====
section
/-! DEFINITION. What the spec leaves to the part or to another standard: free constants and functions without a body.
No proof can see a value of any of them, so a statement holds whatever they are (log 5, 6, 7). -/

namespace Sys2Proof.Config

/-- A byte that the spec does not state: scratch contents after a task (R236, R239, R272), save-record bytes (R140), the
contents of HBM after an interleave change (R198). The model's counter `tick` and the address select it. -/
opaque freeByte : Nat → Nat → Byte

/-- SHA3-512, named by R417, R420, R451, R452, R460 and defined by its own standard. -/
opaque sha3 : List Byte → BitVec 512

/-- The public identity key that the PUF gives this part (R451), 2,592 bytes. -/
opaque identityKey : List Byte

/-- The root key digest in the mask (Table 15.5 row 2). -/
opaque rootDigest : BitVec 512

/-- ML-DSA-87 signing with the device identity key (R417, R451, R453, R460), 4,627 bytes. -/
opaque sign : List Byte → List Byte

/-- ML-DSA-87 verification of a signature over a message under a public key (R440, R460). -/
opaque verify : (key message signature : List Byte) → Bool

/-- What a decoder of a standard of Table 13.1 gives for access unit `k` of a clip whose source is given in pieces, each with a
mark where the packets before it broke sync or continuity (R382, R385, R386): the standards fix the samples, the spec names
them and does not state them. -/
opaque decodeAu : (codec : Nat) → (source : List (Bool × List Byte)) → (k : Nat) → AuResult

/-- The expected encoding of a save record's size has no free part; its bytes do (R140). -/
opaque recordByte : (core tick offset : Nat) → Byte

/-- The value read by SITE_READ from a site that serves no logical core where the spec states no content. -/
opaque spareRegister : (site offset : Nat) → BitVec 64

/-- A byte of another device's memory, read by an engine of this device within one command (log 24). -/
opaque remoteByte : (tick : Nat) → (address : Nat) → Byte

/-- Whether a source read of video from host memory fails (R400, log 24). -/
opaque sourceFails : (tick : Nat) → (address : Nat) → Bool

/-- Whether a store that is in flight at a warm reset leaves its 64-byte unit new (Table 15.7 allows old and new). -/
opaque landsAtReset : (tick : Nat) → (unit : Nat) → Bool

/-- The status code in a log entry of an event for which the spec names none, by source kind (Table 14.2). -/
opaque eventCode : (kind : Nat) → Nat

/-- The detail field of a log entry whose source kind gives none (Table 14.2). -/
opaque eventDetail : (kind tick : Nat) → Nat

/-- Bits [31:4] of the HBM repair entry of a physical offset (Table 15.24): the controller's address map places rows
and banks, and the spec does not state it. -/
opaque hbmPlace : Nat → Nat

/-- The pseudo-channel of a physical offset (R184): the controller's address map is not stated. -/
opaque hbmChannel : Nat → Nat

/-- The hall of the first manager of a hall (R373): the spec does not say how it is set. -/
opaque hall : Nat

/-- What a measurement register is extended with where R452 lists facts and not their encoding (Table 15.9): by register and
facts. -/
opaque measured : (register : Nat) → (facts : List Nat) → BitVec 512

/-- Symbols that RS(544,514) corrects in the codewords of one flit (R351): the codewords are not bytes of the flit. -/
opaque fecSymbols : (tick : Nat) → Nat

/-- The flit buffers that the far end of a port has for a channel (R354): the spec does not give their number. -/
opaque flitBuffers : (channel : Nat) → Nat

/-- The nominal calibration of the recovery state (Table 15.11 FLAGS [1]): word `k` of Table 15.21. -/
opaque nominalCal : (k : Nat) → W32

/-- Whether a record states an exact energy that is no whole number of µJ as the whole number above it, and not the one below (R459). -/
opaque roundsUp : (num : Int) → (den : Nat) → Bool

/-- Whether the home of a kind-3 binding refuses an operation that Lantern sends it (R455, Table 15.26). -/
opaque remoteRefuses : (tick : Nat) → Bool

/-- How GET_TELEMETRY encodes a supply's latest voltage or current (Table 15.12 does not say). -/
opaque telemetry : (supply : Nat) → (current : Bool) → (num : Int) → (den : Nat) → List Byte

/-- The source kind of the log entry of METER_SILENT, for which Table 14.2 names none. -/
opaque silentKind : Nat

/-- What the PCIe link trains to, which the slot has a part in (R317, Table 11.1): the power of two of its lanes, and the code of its rate
(Table 11.21). -/
opaque linkWidth : (tick : Nat) → Nat
opaque linkRate : (tick : Nat) → Nat

/-- Whether the write of a completion ring's reply to host memory fails on the link (R327, Table 11.18); `serial` numbers the ring's
writes. -/
opaque linkFails : (fn ring serial : Nat) → Bool

/-- The bits that a boundary scan of `n` bits gives at TDO: the cells are not the spec's (R454). -/
opaque boundary : (tick n : Nat) → Nat

end Sys2Proof.Config
end

