-- ==== Sys2Proof/Machine/Bits.lean ====
section
/-! DEFINITION. Bit fields, byte order and the canonical sparse maps that hold every addressed memory of the
model (R3, R4). A map is a list of key and value pairs, keys strictly rising, no entry equal to the default. -/

namespace Sys2Proof.Machine

/-- Bits [hi:lo] of a natural number, both ends included (R4). -/
def bits (w hi lo : Nat) : Nat := (w >>> lo) % 2 ^ (hi + 1 - lo)

/-- Bit `i` of a natural number. -/
def bit (w i : Nat) : Bool := w.testBit i

/-- A Boolean as a bit. -/
def b2n (b : Bool) : Nat := if b then 1 else 0

/-- The two's-complement value of the low `w` bits of `n`. -/
def signed (w n : Nat) : Int :=
  let m := n % 2 ^ w
  if m < 2 ^ (w - 1) then (m : Int) else (m : Int) - (2 ^ w : Nat)

/-- An integer reduced modulo `2 ^ w`. -/
def wrap (w : Nat) (i : Int) : Nat := (i % ((2 ^ w : Nat) : Int)).toNat

/-- The smallest multiple of `k` not below `n`. -/
def roundUp (n k : Nat) : Nat := (n + k - 1) / k * k

/-- `ceil (n / k)`. -/
def cdiv (n k : Nat) : Nat := (n + k - 1) / k

/-- A counter of `w` bits that stays at its largest value (R427). -/
def satAdd (w a b : Nat) : Nat := min (a + b) (2 ^ w - 1)

/-- A counter of `w` bits that wraps to 0 (R427). -/
def wrapAdd (w a b : Nat) : Nat := (a + b) % 2 ^ w

/-- The little-endian bytes of a value (R3). -/
def toBytes : Nat → Nat → List Byte
  | 0, _ => []
  | n + 1, v => BitVec.ofNat 8 v :: toBytes n (v / 256)

/-- The value of little-endian bytes (R3). -/
def fromBytes : List Byte → Nat
  | [] => 0
  | b :: r => b.toNat + 256 * fromBytes r

/-- `n` bytes of a list from offset `o`; bytes past its end are 0. -/
def slice (l : List Byte) (o n : Nat) : List Byte :=
  let t := (l.drop o).take n
  t ++ List.replicate (n - t.length) 0

/-- The little-endian field of `n` bytes at offset `o` of a structure. -/
def field (l : List Byte) (o n : Nat) : Nat := fromBytes (slice l o n)

/-- Whether every byte of `l` in `[o, o + n)` is 0 (R10). -/
def zeroed (l : List Byte) (o n : Nat) : Bool := (slice l o n).all (· == 0)

/-- A sparse map from natural numbers: key and value pairs. -/
abbrev Map (α : Type) := List (Nat × α)

/-- What a sparse map holds at a key; `d` where it lists nothing. -/
def mget {α : Type} (d : α) : Map α → Nat → α
  | [], _ => d
  | (k', v) :: r, k => if k' = k then v else mget d r k

/-- Places an entry before the first larger key. -/
def mins {α : Type} : Map α → Nat → α → Map α
  | [], k, v => [(k, v)]
  | (k', v') :: r, k, v => if k < k' then (k, v) :: (k', v') :: r else (k', v') :: mins r k v

/-- Removes a key. -/
def mdel {α : Type} (m : Map α) (k : Nat) : Map α := m.filter (fun e => e.1 != k)

/-- Writes a key; writing the default removes the entry, so that equal maps are equal lists. -/
def mset {α : Type} [DecidableEq α] (d : α) (m : Map α) (k : Nat) (v : α) : Map α :=
  if v = d then mdel m k else mins (mdel m k) k v

/-- The canonical form: keys strictly rising from `lo`, no entry equal to what its key reads as unlisted. -/
def mwfBy {α : Type} [DecidableEq α] (d : Nat → α) : Nat → Map α → Bool
  | _, [] => true
  | lo, (k, v) :: r => decide (lo ≤ k) && decide (v ≠ d k) && mwfBy d (k + 1) r

/-- The canonical form where every unlisted key reads as one value. -/
abbrev mwf {α : Type} [DecidableEq α] (d : α) (lo : Nat) (m : Map α) : Bool := mwfBy (fun _ => d) lo m

/-- Optional lookup: a key is present exactly when it is listed. -/
def mfind {α : Type} : Map α → Nat → Option α
  | [], _ => none
  | (k', v) :: r, k => if k' = k then some v else mfind r k

/-- Writes a key of a map in which every listed entry is present. -/
def mput {α : Type} (m : Map α) (k : Nat) (v : α) : Map α := mins (mdel m k) k v

/-- Writes consecutive bytes from a key; `d` gives what an unlisted key reads as. -/
def mwriteBy (d : Nat → Byte) (m : Map Byte) (k : Nat) : List Byte → Map Byte
  | [] => m
  | b :: r => mwriteBy d (mset (d k) m k b) (k + 1) r

/-- Reads `n` consecutive bytes from a key; `d` gives what an unlisted key reads as. -/
def mreadBy (d : Nat → Byte) (m : Map Byte) (k : Nat) : Nat → List Byte
  | 0 => []
  | n + 1 => mget (d k) m k :: mreadBy d m (k + 1) n

/-- Writes consecutive bytes from a key. -/
abbrev mwrite (d : Byte) (m : Map Byte) (k : Nat) (bs : List Byte) : Map Byte := mwriteBy (fun _ => d) m k bs

/-- Reads `n` consecutive bytes from a key. -/
abbrev mread (d : Byte) (m : Map Byte) (k n : Nat) : List Byte := mreadBy (fun _ => d) m k n

/-- Element `i` of a list, or a default. -/
def nth {α : Type} (d : α) (l : List α) (i : Nat) : α := l.getD i d

/-- Replaces element `i` of a list. -/
def upd {α : Type} (l : List α) (i : Nat) (f : α → α) : List α := l.mapIdx (fun j x => if j = i then f x else x)

/-- The first element that satisfies `p`, with its index. -/
def findIdx {α : Type} (p : α → Bool) (l : List α) : Option (Nat × α) :=
  (l.mapIdx (fun i x => (i, x))).find? (fun e => p e.2)

/-- `0, …, n − 1`. -/
def range (n : Nat) : List Nat := List.range n

/-- Folds a state through `f` over a list, left to right. -/
def sfold {α σ : Type} (l : List α) (s : σ) (f : σ → α → σ) : σ := l.foldl f s

/-- The sum of a list. -/
def total (l : List Nat) : Nat := l.foldl (· + ·) 0

/-- The product of a list. -/
def prod (l : List Nat) : Nat := l.foldl (· * ·) 1

end Sys2Proof.Machine
end

