-- ==== Sys2Proof/Machine/Num.lean ====
section
/-! DEFINITION. Number formats, conversion, rounding, block scales, the exact pass sum, row reductions and the
stochastic-rounding generator (chapter 02, R35 to R64). Every value is an exact rational until it is rounded once. -/

namespace Sys2Proof.Machine

/-- An exact rational: numerator over a positive denominator. -/
structure Q where
  num : Int
  den : Nat
  deriving DecidableEq, Repr

/-- The rational `n / d` in lowest terms. -/
def Q.mk' (n : Int) (d : Nat) : Q :=
  let g := Nat.gcd n.natAbs d
  if g = 0 then ⟨0, 1⟩ else ⟨n / (g : Int), d / g⟩

/-- An integer as a rational. -/
def Q.int (i : Int) : Q := ⟨i, 1⟩
/-- The exact sum. -/
def Q.add (a b : Q) : Q := Q.mk' (a.num * b.den + b.num * a.den) (a.den * b.den)
/-- The negation. -/
def Q.neg (a : Q) : Q := ⟨-a.num, a.den⟩
/-- The exact product. -/
def Q.mul (a b : Q) : Q := Q.mk' (a.num * b.num) (a.den * b.den)
/-- The exact quotient; the divisor is not 0 where it is used. -/
def Q.div (a b : Q) : Q :=
  if b.num < 0 then Q.mk' (-(a.num * b.den)) (a.den * b.num.natAbs) else Q.mk' (a.num * b.den) (a.den * b.num.natAbs)
/-- `a ≤ b`. -/
def Q.le (a b : Q) : Bool := decide (a.num * b.den ≤ b.num * a.den)
/-- `a < b`. -/
def Q.lt (a b : Q) : Bool := decide (a.num * b.den < b.num * a.den)
/-- The magnitude. -/
def Q.abs (a : Q) : Q := ⟨(a.num.natAbs : Int), a.den⟩
/-- The largest integer not above the value. -/
def Q.floor (a : Q) : Int := a.num / (a.den : Int)
/-- `2 ^ e`. -/
def pow2 (e : Int) : Q := if 0 ≤ e then ⟨((2 ^ e.toNat : Nat) : Int), 1⟩ else ⟨1, 2 ^ (-e).toNat⟩
/-- `floor (log₂ x)` of a positive rational. -/
def floorLog2 (x : Q) : Int :=
  let g : Int := (Nat.log2 x.num.natAbs : Int) - (Nat.log2 x.den : Int)
  if Q.le (pow2 g) x.abs then g else g - 1
/-- `ceil (log₂ x)` of a positive rational. -/
def ceilLog2 (x : Q) : Int := let g := floorLog2 x; if pow2 g = Q.mk' x.num x.den then g else g + 1

/-- A value of a floating-point or integer type: NaN, an infinity, or a finite rational. `nz` is the sign of a zero
and is meaningful only where the rational is 0 (R37, R57). -/
inductive FV where
  | nan
  | inf (neg : Bool)
  | fin (nz : Bool) (q : Q)
  deriving DecidableEq, Repr

/-- +0. -/
def FV.zero : FV := .fin false ⟨0, 1⟩
/-- A rational as a value; a zero is +0. -/
def FV.ofQ (q : Q) : FV := .fin false q
/-- Whether the value is NaN. -/
def FV.isNan : FV → Bool | .nan => true | _ => false
/-- Whether the value is NaN or infinite. -/
def FV.nonfinite : FV → Bool | .fin _ _ => false | _ => true
/-- The rational of a finite value, 0 otherwise. -/
def FV.q : FV → Q | .fin _ q => q | _ => ⟨0, 1⟩
/-- The sign of the value, a zero's sign included. -/
def FV.sgn : FV → Bool
  | .nan => false
  | .inf n => n
  | .fin nz q => if q.num = 0 then nz else decide (q.num < 0)
/-- The exact sum, with the specials of R57 and IEEE 754; an exact 0 is +0 unless both addends are −0. -/
def FV.add : FV → FV → FV
  | .nan, _ | _, .nan => .nan
  | .inf a, .inf b => if a = b then .inf a else .nan
  | .inf a, _ | _, .inf a => .inf a
  | .fin a p, .fin b q => .fin (a && b && p.num = 0 && q.num = 0) (Q.add p q)
/-- The negation. -/
def FV.neg : FV → FV
  | .nan => .nan
  | .inf a => .inf (!a)
  | .fin a q => .fin (!a) q.neg
/-- The exact product; 0 × ∞ is NaN (R57). -/
def FV.mul : FV → FV → FV
  | .nan, _ | _, .nan => .nan
  | .inf a, .inf b => .inf (a != b)
  | .inf a, .fin z q | .fin z q, .inf a => if q.num = 0 then .nan else .inf (a != (FV.fin z q).sgn)
  | .fin a p, .fin b q => .fin ((FV.fin a p).sgn != (FV.fin b q).sgn) (Q.mul p q)
/-- The exact quotient with IEEE 754 specials. -/
def FV.div : FV → FV → FV
  | .nan, _ | _, .nan => .nan
  | .inf _, .inf _ => .nan
  | .inf a, .fin z q => .inf (a != (FV.fin z q).sgn)
  | .fin a p, .inf b => .fin ((FV.fin a p).sgn != b) ⟨0, 1⟩
  | .fin a p, .fin b q =>
    let s := (FV.fin a p).sgn != (FV.fin b q).sgn
    if q.num = 0 then (if p.num = 0 then .nan else .inf s) else .fin s (Q.div p q)
/-- The magnitude. -/
def FV.abs : FV → FV
  | .nan => .nan
  | .inf _ => .inf false
  | .fin _ q => .fin false q.abs
/-- Ordering of two values that are not NaN: `a < b`. -/
def FV.lt : FV → FV → Bool
  | .nan, _ | _, .nan => false
  | .inf a, .inf b => a && !b
  | .inf a, .fin _ _ => a
  | .fin _ _, .inf b => !b
  | .fin _ p, .fin _ q => Q.lt p q

/-- How a format spends its all-ones exponent (Table 2.3). -/
inductive Special where
  | ieee
  | e4m3
  | none
  deriving DecidableEq, Repr

/-- A floating-point layout (Table 2.1). -/
structure Fmt where
  e : Nat
  m : Nat
  bias : Nat
  sp : Special
  deriving DecidableEq, Repr

/-- The layout of an element-type code; integer codes have none (R35). -/
def fmtOf : Nat → Option Fmt
  | 0 => some ⟨8, 23, 127, .ieee⟩
  | 1 => some ⟨8, 7, 127, .ieee⟩
  | 2 => some ⟨5, 10, 15, .ieee⟩
  | 3 => some ⟨4, 3, 7, .e4m3⟩
  | 4 => some ⟨5, 2, 15, .ieee⟩
  | 5 => some ⟨3, 2, 3, .none⟩
  | 6 => some ⟨2, 3, 1, .none⟩
  | 7 => some ⟨2, 1, 1, .none⟩
  | _ => Option.none

/-- Bits per element of a type code (Tables 2.1 and 2.2); 0 for a reserved code. -/
def typeBits : Nat → Nat
  | 0 | 11 => 32
  | 1 | 2 => 16
  | 3 | 4 | 8 | 10 | 12 => 8
  | 5 | 6 => 6
  | 7 | 9 => 4
  | _ => 0

/-- Whether the code names a tensor element type: defined and not E8M0 (R36, Table 2.5). -/
def typeOk (t : Nat) : Bool := decide (t ≤ 11)
/-- Whether the code is an integer type. -/
def typeInt (t : Nat) : Bool := decide (8 ≤ t ∧ t ≤ 11)
/-- The range of an integer type (Table 2.2). -/
def intRange : Nat → Int × Int
  | 8 => (-128, 127)
  | 9 => (-8, 7)
  | 10 => (0, 255)
  | _ => (-2147483648, 2147483647)

/-- Elements per block of a block-format code (Table 2.4); 0 for none and reserved codes. -/
def blockLen : Nat → Nat
  | 1 | 3 => 32
  | 2 => 16
  | _ => 0

/-- Whether a block format may be paired with a type (R44, Table 2.5). -/
def pairOk (blk t : Nat) : Bool :=
  match blk with
  | 0 => typeOk t
  | 1 => decide (3 ≤ t ∧ t ≤ 7)
  | 2 => decide (5 ≤ t ∧ t ≤ 7)
  | 3 => decide (t = 3)
  | _ => false

/-- The value of an encoding of a floating-point layout (R35, R37, R38). -/
def Fmt.decode (f : Fmt) (w : Nat) : FV :=
  let m := w % 2 ^ f.m
  let e := (w >>> f.m) % 2 ^ f.e
  let s := (w >>> (f.m + f.e)) % 2 = 1
  let sign : Int := if s then -1 else 1
  let ones := e = 2 ^ f.e - 1
  if f.sp = .ieee ∧ ones then (if m = 0 then .inf s else .nan)
  else if f.sp = .e4m3 ∧ ones ∧ m = 2 ^ f.m - 1 then .nan
  else
    let ex : Int := (if e = 0 then 1 else (e : Int)) - f.bias - f.m
    let k : Nat := if e = 0 then m else m + 2 ^ f.m
    .fin s (Q.mul (Q.int (sign * k)) (pow2 ex))

/-- The value of an element encoding of any type code; reserved codes read as NaN and are never stored (R36). -/
def decodeElem (t w : Nat) : FV :=
  match fmtOf t with
  | some f => f.decode w
  | Option.none =>
    match t with
    | 8 => .ofQ (Q.int (signed 8 w))
    | 9 => .ofQ (Q.int (signed 4 w))
    | 10 => .ofQ (Q.int ((w % 256 : Nat) : Int))
    | 11 => .ofQ (Q.int (signed 32 w))
    | 12 => if w % 256 = 255 then .nan else .ofQ (pow2 (((w % 256 : Nat) : Int) - 127))
    | _ => .nan

/-- The canonical NaN of a layout (R39). -/
def Fmt.nan (f : Fmt) : Nat :=
  match f.sp with
  | .e4m3 => 0x7F
  | _ => ((2 ^ f.e - 1) <<< f.m) + 2 ^ (f.m - 1)

/-- The infinity of a layout, positive. -/
def Fmt.inf (f : Fmt) : Nat := (2 ^ f.e - 1) <<< f.m

/-- The largest finite encoding of a layout, positive (Table 2.1). -/
def Fmt.maxEnc (f : Fmt) : Nat :=
  match f.sp with
  | .ieee => ((2 ^ f.e - 1) <<< f.m) - 1
  | .e4m3 => 0x7E
  | .none => 2 ^ (f.e + f.m) - 1

/-- The largest finite value of a layout. -/
def Fmt.maxVal (f : Fmt) : Q := (f.decode f.maxEnc).q

/-- The integer nearest to a non-negative rational, ties to even (R51). -/
def rneNat (x : Q) : Nat :=
  let n := (x.num / (x.den : Int)).toNat
  let r := x.num.toNat % x.den
  if 2 * r > x.den ∨ (2 * r = x.den ∧ n % 2 = 1) then n + 1 else n

/-- Rounds a non-negative rational to an integer count of quanta: RNE (R51), or stochastically with the
element's 16-bit value (R52). -/
def roundQuanta (sr : Option Nat) (x : Q) : Nat :=
  match sr with
  | Option.none => rneNat x
  | some rnd =>
    let n := x.floor.toNat
    let d := (Q.mul ⟨65536, 1⟩ (Q.add x (Q.int (-(n : Int))))).floor.toNat
    if rnd < d then n + 1 else n

/-- The sign bit of a layout in place. -/
def Fmt.signBit (f : Fmt) (s : Bool) : Nat := if s then 2 ^ (f.e + f.m) else 0

/-- Rounds a finite value once onto a layout's grid, the exponent range unbounded above (R48); the encoding of
the magnitude, or none beyond the largest finite value. -/
def Fmt.roundMag (f : Fmt) (sr : Option Nat) (x : Q) : Option Nat :=
  if x.num = 0 then some 0
  else
    let lo : Int := 1 - (f.bias : Int)
    let e := max (floorLog2 x) lo
    let n := roundQuanta sr (Q.mul x (pow2 ((f.m : Int) - e)))
    let v := Q.mul (Q.int n) (pow2 (e - f.m))
    if Q.lt f.maxVal v then Option.none
    else
      let (n, e) := if n ≥ 2 ^ (f.m + 1) then (n / 2, e + 1) else (n, e)
      if n < 2 ^ f.m then some n
      else some (((e + f.bias).toNat <<< f.m) + (n - 2 ^ f.m))

/-- The arithmetic flags as bits of CORE_ARITH_FLAGS (Table 2.11). -/
def fSat : Nat := 1
/-- NONFINITE_IN. -/
def fNonfinite : Nat := 2
/-- NAN_LOST. -/
def fNanLost : Nat := 4
/-- NAN_BLOCK. -/
def fNanBlock : Nat := 8

/-- Converts a value to a type under an overflow mode and a rounding (R48, R49, Table 2.6); the encoding and the flags
it sets. -/
def convert (t ovf : Nat) (sr : Option Nat) (v : FV) : Nat × Nat :=
  match fmtOf t with
  | some f =>
    match v with
    | .nan => if f.sp = .none then (0, fNanLost) else (f.nan, 0)
    | .inf s =>
      if t = 0 then (f.signBit s + f.inf, 0)
      else if f.sp = .none ∨ ovf = 0 then (f.signBit s + f.maxEnc, fSat)
      else if f.sp = .e4m3 then (f.nan, 0)
      else (f.signBit s + f.inf, 0)
    | .fin z q =>
      let s := (FV.fin z q).sgn
      match f.roundMag sr q.abs with
      | some m => (f.signBit s + m, 0)
      | Option.none =>
        if t = 0 then (f.signBit s + f.inf, 0)
        else if f.sp = .none ∨ ovf = 0 then (f.signBit s + f.maxEnc, fSat)
        else if f.sp = .e4m3 then (f.nan, 0)
        else (f.signBit s + f.inf, 0)
  | Option.none =>
    let (lo, hi) := intRange t
    let w := typeBits t
    match v with
    | .nan => (0, fNanLost)
    | .inf s => (wrap w (if s then lo else hi), fSat)
    | .fin _ q =>
      let n : Int := roundQuanta sr q.abs
      let n := if q.num < 0 then -n else n
      if n < lo then (wrap w lo, fSat) else if hi < n then (wrap w hi, fSat) else (wrap w n, 0)

/-- RNE_FP32 of an exact value (R53). -/
def toF32 (v : FV) : Nat := (convert 0 0 Option.none v).1
/-- The value of an FP32 encoding. -/
def ofF32 (w : Nat) : FV := decodeElem 0 w
/-- An FP32 encoding as the device writes it: a NaN is canonical (R39). -/
def f32canon (w : Nat) : Nat := toF32 (ofF32 w)
/-- FP32 sum, one rounding. -/
def f32add (a b : Nat) : Nat := toF32 ((ofF32 a).add (ofF32 b))
/-- FP32 difference, one rounding. -/
def f32sub (a b : Nat) : Nat := toF32 ((ofF32 a).add (ofF32 b).neg)
/-- FP32 product, one rounding. -/
def f32mul (a b : Nat) : Nat := toF32 ((ofF32 a).mul (ofF32 b))
/-- FP32 quotient, one rounding. -/
def f32div (a b : Nat) : Nat := toF32 ((ofF32 a).div (ofF32 b))
/-- An integer as FP32. -/
def f32nat (n : Nat) : Nat := toF32 (.ofQ (Q.int n))
/-- The larger of two FP32 values: NaN if either is NaN, +0 for +0 and −0 (R64, Table 3.10). -/
def f32max (a b : Nat) : Nat :=
  let x := ofF32 a; let y := ofF32 b
  if x.isNan ∨ y.isNan then 0x7FC00000
  else if x.lt y then b else if y.lt x then a
  else if x.sgn then b else a
/-- The smaller of two FP32 values: NaN if either is NaN, −0 for +0 and −0 (Table 3.10). -/
def f32min (a b : Nat) : Nat :=
  let x := ofF32 a; let y := ofF32 b
  if x.isNan ∨ y.isNan then 0x7FC00000
  else if x.lt y then a else if y.lt x then b
  else if x.sgn then a else b
/-- Whether an FP32 encoding is NaN or infinite. -/
def f32bad (a : Nat) : Bool := (ofF32 a).nonfinite

/-- `floor (sqrt n)` by bits from `2 ^ (k − 1)` down. -/
def isqrtFrom : Nat → Nat → Nat → Nat
  | 0, _, r => r
  | k + 1, n, r => if (r + 2 ^ k) * (r + 2 ^ k) ≤ n then isqrtFrom k n (r + 2 ^ k) else isqrtFrom k n r
/-- `floor (sqrt n)`. -/
def isqrt (n : Nat) : Nat := isqrtFrom (Nat.log2 n / 2 + 1) n 0

/-- The correctly rounded FP32 square root; NaN for a negative operand (R257). -/
def f32sqrt (a : Nat) : Nat :=
  match ofF32 a with
  | .nan => 0x7FC00000
  | .inf s => if s then 0x7FC00000 else 0x7F800000
  | .fin z q =>
    if q.num = 0 then (if z then 0x80000000 else 0)
    else if q.num < 0 then 0x7FC00000
    else
      let n := q.num.natAbs * q.den * 2 ^ 640
      let r := isqrt n
      let v : Q := if r * r = n then Q.mk' r (q.den * 2 ^ 320) else Q.mk' (2 * r + 1) (q.den * 2 ^ 321)
      toF32 (.ofQ v)

/-- The power of R257, every product one rounding. -/
def pwFrom : Nat → Nat → Nat → Nat → Nat
  | 0, _, _, p => p
  | k + 1, x, n, p =>
    let p := f32mul p p
    pwFrom k x n (if n.testBit k then f32mul p x else p)
/-- `pw (x, n)` of R257. -/
def f32pw (x n : Nat) : Nat := pwFrom 32 x n 0x3F800000

/-- The value of a UE5M3 scale byte (R46). -/
def ue5m3 (b : Nat) : FV :=
  if b % 256 = 255 then .nan
  else
    let e := (b >>> 3) % 32; let m := b % 8
    if e = 0 then .ofQ (Q.mul (Q.int m) (pow2 (-17))) else .ofQ (Q.mul (Q.int (8 + m : Nat)) (pow2 ((e : Int) - 18)))

/-- The value of a block's scale byte (R46); 1 without a block format. -/
def scaleVal (blk b : Nat) : FV :=
  match blk with
  | 0 => .ofQ ⟨1, 1⟩
  | 2 => ue5m3 b
  | _ => decodeElem 12 b

/-- Whether a per-tensor FB16 scale is positive and finite (R46). -/
def tScaleOk (t : Nat) : Bool := match ofF32 t with | .fin _ q => decide (0 < q.num) | _ => false

/-- The value of an element of a tensor under its block format (R46). -/
def elemValue (t blk w sc tscale : Nat) : FV :=
  match blk with
  | 0 => decodeElem t w
  | 2 => if tScaleOk tscale then ((decodeElem t w).mul (ue5m3 sc)).mul (ofF32 tscale) else .nan
  | _ => (decodeElem t w).mul (scaleVal blk sc)

/-- `emax` of R54. -/
def emaxOf : Nat → Int
  | 3 => 8
  | 4 => 15
  | 5 => 4
  | _ => 2

/-- The largest magnitude of a list of finite values (R54). -/
def amaxOf (vs : List FV) : Q := vs.foldl (fun m v => if Q.lt m v.q.abs then v.q.abs else m) ⟨0, 1⟩

/-- The smallest UE5M3 byte not below a positive value, capped at 114,688 (R54). -/
def ue5m3Ceil (s : Q) : Nat := ((List.range 255).find? (fun b => Q.le s (ue5m3 b).q)).getD 254

/-- Computes a block's scale byte and its elements (R54); `rnd` gives the stochastic value of each element.
The scale byte, the encodings and the flags. -/
def quantBlock (blk t tOut : Nat) (rnd : Nat → Option Nat) (vs : List FV) : Nat × List Nat × Nat :=
  let bad := vs.any FV.nonfinite
  if bad ∨ (blk = 2 ∧ ¬ tScaleOk tOut) then (255, vs.map (fun _ => 0), fNanBlock)
  else
    let amax := amaxOf vs
    let conv (d : Q) :=
      vs.mapIdx (fun i v => if d.num = 0 then (0, 0) else convert t 0 (rnd i) (v.div (.ofQ d)))
    let out (sc : Nat) (l : List (Nat × Nat)) := (sc, l.map Prod.fst, l.foldl (fun f e => f ||| e.2) 0)
    if blk = 2 then
      if amax.num = 0 then out 0 (conv ⟨0, 1⟩)
      else
        let tq := (ofF32 tOut).q
        let f := (fmtOf t).getD ⟨2, 1, 1, .none⟩
        let b := ue5m3Ceil (Q.div amax (Q.mul tq f.maxVal))
        out b (conv (Q.mul (ue5m3 b).q tq))
    else
      let e : Int :=
        if amax.num = 0 then -127
        else if blk = 3 then ceilLog2 (Q.div amax ⟨448, 1⟩) else floorLog2 amax - emaxOf t
      let e := max (-127) (min 127 e)
      out (e + 127).toNat (conv (pow2 e))

/-- The operand class of a pairing (Table 2.9): 0 16-bit, 1 FP32, 2 FP8, 3 FP6/FP4, 4 integer. -/
def pairClass (t1 b1 t2 b2 : Nat) : Option Nat :=
  let f8 (t b : Nat) : Bool := (t = 3 || t = 4) && (b = 0 || b = 1)
  let f6 (t : Nat) : Bool := decide (5 ≤ t ∧ t ≤ 7)
  let i8 (t : Nat) : Bool := decide (8 ≤ t ∧ t ≤ 10)
  if b1 = 0 ∧ b2 = 0 ∧ t1 = t2 ∧ (t1 = 1 ∨ t1 = 2) then some 0
  else if b1 = 0 ∧ b2 = 0 ∧ t1 = 0 ∧ t2 = 0 then some 1
  else if f8 t1 b1 && f8 t2 b2 then some 2
  else if f6 t1 && f6 t2 && decide (b1 = b2) && (decide (b1 = 1) || decide (b1 = 2)) then some 3
  else if b1 = 0 && b2 = 0 && i8 t1 && i8 t2 then some 4
  else Option.none

/-- One operand element of a pass: its value and the value of its block scale; `none` where it is masked (R56). -/
abbrev Operand := Option (FV × FV)

/-- The exact sum S of a pass over unmasked terms (R56, R57). -/
def passSum (ts : List (Operand × Operand)) : FV :=
  ts.foldl (fun s t =>
    match t with
    | (some (a, sa), some (b, sb)) => s.add ((a.mul b).mul (sa.mul sb))
    | _ => s) FV.zero

/-- Whether an unmasked term holds a NaN or infinite element or a NaN scale (R57). -/
def passNonfinite (ts : List (Operand × Operand)) : Bool :=
  ts.any (fun t =>
    match t with
    | (some (a, sa), some (b, sb)) => a.nonfinite || b.nonfinite || sa.isNan || sb.isNan
    | _ => false)

/-- One FP32 pass: acc ← RNE_FP32 (acc + S), an exact 0 being +0 (R56, R57). -/
def passF32 (acc : Nat) (ts : List (Operand × Operand)) : Nat × Nat :=
  let v := (ofF32 acc).add (passSum ts)
  let v := match v with | .fin _ q => if q.num = 0 then FV.zero else v | _ => v
  (toF32 v, if passNonfinite ts then fNonfinite else 0)

/-- One integer pass: acc ← acc + S, saturated to INT32 (R59). -/
def passInt (acc : Nat) (ts : List (Operand × Operand)) : Nat × Nat :=
  let v : Int := signed 32 acc + (passSum ts).q.floor
  if v < -2147483648 then (0x80000000, fSat)
  else if 2147483647 < v then (0x7FFFFFFF, fSat) else (wrap 32 v, 0)

/-- `hi` of R60: RNE_BF16 in overflow mode 0; a NaN or infinity is itself. -/
def splitHi (v : FV) : FV := match v with | .fin _ _ => decodeElem 1 (convert 1 0 Option.none v).1 | _ => v
/-- `lo` of R60. -/
def splitLo (v : FV) : FV :=
  match v with
  | .fin _ _ => decodeElem 1 (convert 1 0 Option.none (v.add (splitHi v).neg)).1
  | _ => FV.zero

/-- The three passes of an FP32 product, in order (R60). -/
def passSplit (acc : Nat) (ts : List (Operand × Operand)) : Nat × Nat :=
  let on (f g : FV → FV) := ts.map (fun t => (t.1.map (fun e => (f e.1, e.2)), t.2.map (fun e => (g e.1, e.2))))
  let nf := if passNonfinite ts then fNonfinite else 0
  let a := (passF32 acc (on splitLo splitHi)).1
  let a := (passF32 a (on splitHi splitLo)).1
  ((passF32 a (on splitHi splitHi)).1, nf)

/-- One pass of an operand class on one accumulator element (R56 to R60). -/
def passClass (cls acc : Nat) (ts : List (Operand × Operand)) : Nat × Nat :=
  match cls with
  | 4 => passInt acc ts
  | 1 => passSplit acc ts
  | _ => passF32 acc ts

/-- Cuts a list into pieces of `n`; `fuel` bounds the pieces. -/
def chunksOf {α : Type} (n : Nat) : Nat → List α → List (List α)
  | 0, _ => []
  | k + 1, l => if l.isEmpty then [] else l.take n :: chunksOf n k (l.drop n)

/-- All the pieces of `n` elements of a list. -/
def chunks {α : Type} (n : Nat) (l : List α) : List (List α) := chunksOf n (l.length + 1) l

/-- The partial of one segment: each run of 32 summed exactly and added with one rounding (R64). -/
def segSum (l : List FV) : Nat :=
  (chunks 32 l).foldl (fun p run => toF32 ((ofF32 p).add (run.foldl FV.add FV.zero))) 0

/-- A row sum: segments of 8,192, their partials added in ascending order (R64). -/
def rowSum (l : List FV) : Nat :=
  match (chunks 8192 l).map segSum with
  | [] => 0
  | p :: r => r.foldl f32add p

/-- A row sum of squares; each square is exact (R64). -/
def rowSumSq (l : List FV) : Nat := rowSum (l.map (fun v => v.mul v))

/-- A row maximum as FP32: NaN if any element is NaN (R64); −∞ for no element. -/
def rowMax (l : List FV) : Nat := l.foldl (fun m v => f32max m (toF32 v)) 0xFF800000

/-- `rotl` on 32 bits. -/
def rotl (x : W32) (k : Nat) : W32 := (x <<< k) ||| (x >>> (32 - k))

/-- One round of the generator (R63). -/
def srRound (k0 k1 : W32) (s : W32 × W32 × W32 × W32) (i : Nat) : W32 × W32 × W32 × W32 :=
  let (x0, x1, x2, x3) := s
  let x0 := x0 + x1 + (if i % 2 = 0 then k0 else k1)
  let x3 := rotl (x3 ^^^ x0) 16
  let x2 := x2 + x3
  let x1 := rotl (x1 ^^^ x2) 12
  let x0 := x0 + x1
  let x3 := rotl (x3 ^^^ x0) 8
  let x2 := x2 + x3 + 0x9E3779B9#32 * BitVec.ofNat 32 (i + 1)
  let x1 := rotl (x1 ^^^ x2) 7
  (x0, x1, x2, x3)

/-- The 32-bit value `out` of R63. -/
def srOut (seed step tensor index : Nat) : W32 :=
  let k0 := BitVec.ofNat 32 seed; let k1 := BitVec.ofNat 32 (seed / 2 ^ 32)
  let s := (List.range 4).foldl (srRound k0 k1)
    (BitVec.ofNat 32 index, BitVec.ofNat 32 (index / 2 ^ 32), BitVec.ofNat 32 step, BitVec.ofNat 32 tensor)
  s.1 ^^^ s.2.1 ^^^ s.2.2.1 ^^^ s.2.2.2

/-- The 16-bit value `rnd` of one element (R61, R63). -/
def srRnd (seed step tensor index : Nat) : Nat := (srOut seed step tensor index).toNat % 65536

/-- The global element index of R62: coordinates against the global shape, dimension 0 fastest, modulo 2⁶⁴. -/
def globalIndex (coords shape : List Nat) : Nat :=
  ((coords.zip shape).foldl (fun (a : Nat × Nat) e => (a.1 + e.1 * a.2, a.2 * e.2)) (0, 1)).1 % 2 ^ 64

/-- Element `i` of a packed row (R40 to R42): the `b` bits at bit offset `b × i`, little-endian. -/
def rowGet (b : Nat) (byteAt : Nat → Byte) (i : Nat) : Nat :=
  let o := b * i
  let w := (byteAt (o / 8)).toNat + 256 * (byteAt (o / 8 + 1)).toNat + 65536 * (byteAt (o / 8 + 2)).toNat
    + 16777216 * (byteAt (o / 8 + 3)).toNat
  (w >>> (o % 8)) % 2 ^ b

end Sys2Proof.Machine
end

