-- ==== Sys2Proof/Machine/State.lean ====
section
/-! DEFINITION. The state of the BSN-9720 as plain data, and the state right after a cold reset. INVENTORY.md lists every
piece with the rule that names it. Registers that only show other state (counts, masks) are computed where they are read. -/

namespace Sys2Proof.Machine

/-- Why the model could stop a command: nothing raises it but exec's own arms for rows without a meaning. -/
inductive Refusal where
  /-- Raised by exec's arm of a row that has no meaning yet; safe (the model stops). -/
  | notModelled (mnemonic : String)
  deriving DecidableEq, Repr

/-- Faults of the model. The part answers every failure with a code, a register or a reply (Tables 4.6, 11.6, 15.13), so
no behaviour of the spec ends a run. -/
inductive Fault where
  /-- Raised by nothing: kept so that the type is inhabited; safe. -/
  | halted
  deriving DecidableEq, Repr

/-- The outcome of a command. -/
abbrev Out (σ : Type) := Host.Outcome σ Fault Refusal

/-! ## Cores -/

/-- CORE_SEQ.STATE (Table 4.9). -/
inductive SeqState where
  | idle
  | issuing
  | atWait
  | atFence
  | interrupting
  | faulted
  deriving DecidableEq, Repr

/-- A tile register (R99, R101): configuration, in-use flag, rows of PITCH bytes, and scale bytes row after row. -/
structure TReg where
  inUse : Bool := false
  type : Nat := 0
  blk : Nat := 0
  rows : Nat := 0
  cols : Nat := 0
  data : Map Byte := []
  scales : Map Byte := []
  deriving DecidableEq, Repr

/-- The class of an accumulator tile (R79). -/
inductive AccClass where
  | unset
  | fp32
  | int32
  deriving DecidableEq, Repr

/-- The orientation of an accumulator tile (R70). -/
inductive Orient where
  | unset
  | normal
  | transposed
  deriving DecidableEq, Repr

/-- An accumulator tile (R78, R79): element [s][j] is entry 32 × s + j. -/
structure AccTile where
  inUse : Bool := false
  cls : AccClass := .unset
  orient : Orient := .unset
  elems : Map W32 := []
  deriving DecidableEq, Repr

/-- A stationary block (R112): W[k][j] is entry 32 × k + j, an encoding with its scale byte, or masked (R113). -/
structure StatBlock where
  trans : Bool
  type : Nat
  blk : Nat
  elems : List (Option (Nat × Nat))
  deriving DecidableEq, Repr

/-- One carried row of the drain (R92, R120): the unconverted FP32 values, the addresses of the carried block, and the
generator index of its first element. -/
structure CarryRow where
  vals : List Nat
  dataAddr : Nat
  scaleAddr : Nat
  index : Nat
  deriving DecidableEq, Repr

/-- The drain carry (R92, R120). -/
structure Carry where
  record : Nat
  origin : Nat
  rowStep : Nat
  nrows : Nat
  ncols : Nat
  rows : List CarryRow
  deriving DecidableEq, Repr

/-- An active loop (R125): counter, index of its LOOP, index of its ENDL. -/
structure Loop where
  counter : Nat
  start : Nat
  stop : Nat
  deriving DecidableEq, Repr

/-- An instruction that has issued and is unfinished (R128), kept as a pending record when the task is interrupted (R135):
its index, its word, its captured address registers, for a TDR the captured drain record (R129), and how far it has come: the units of a
store that Rambler has taken (R182), or the rows of a load that stand in its register (R107). -/
structure Pending where
  pc : Nat
  word : W64
  regs : Map (BitVec 48)
  drain : List Byte
  done : Nat := 0
  deriving DecidableEq, Repr

/-- The live state of a task on a core: what Table 4.7 saves. `pendings` holds the unfinished instructions (R128, R135). -/
structure Live where
  pc : Nat := 0
  a : Map (BitVec 48) := []
  c : Map W32 := []
  loops : List Loop := []
  tregs : Map TReg := []
  acc : Map AccTile := []
  active : Option StatBlock := none
  shadow : Option StatBlock := none
  carry : Option Carry := none
  tmem : Map Byte := []
  lines : List Nat := []
  pendings : List Pending := []
  deriving DecidableEq, Repr

/-- Where a request of Rambler stands: in the sort window (R184), issued and held back at the cluster port (R200), or on its way. -/
inductive ReqState where
  | window
  | held
  | sent
  deriving DecidableEq, Repr

/-- A request of Rambler that is unanswered (R182 to R184): a read of a unit, or a store with its bytes. `unit` is Rambler's name of
the unit and `pa` its physical offset (for a store, of its first byte). `void` marks data that is no longer wanted, `served` what the
coalescer serves, `merged` a read merged with another (R194). `scope` is 0 for this cluster's stores, 1 for the device, 2 for another
device (R310); `spec` says that no instruction has asked for a read's data yet (R188); `age` is the cycle in which it entered; `low` is 0, or how many
bits of a store's last byte are written (R118); `mask` names the bytes of its unit that a read asks for; `pc` and `word` name a
store's instruction. -/
structure Req where
  unit : Nat
  pa : Nat
  load : Bool
  mask : Nat := 2 ^ 256 - 1
  spec : Bool := false
  void : Bool := false
  st : ReqState := .sent
  age : Nat := 0
  served : Option (List Byte) := none
  merged : Bool := false
  scope : Nat := 1
  data : List Byte := []
  low : Nat := 0
  pc : Nat := 0
  word : W64 := 0
  deriving DecidableEq, Repr

/-- A load-queue entry (R182): a fetched 256-byte unit, its physical offset, which of its bytes were asked for, and its data. -/
structure LqEntry where
  unit : Nat
  pa : Nat
  mask : Nat
  data : List Byte
  deriving DecidableEq, Repr

/-- A Waymark-queue entry (R182): a signal held behind as many of the core's oldest stores on this device as `behind`
counts, or (`far`) one that goes to another device behind the writes that have left for it (R368); `pc` and `word` name its instruction. -/
structure WqEntry where
  id : Nat
  inc : Nat
  behind : Nat
  pc : Nat
  word : W64
  far : Bool := false
  deriving DecidableEq, Repr

/-- Why Rambler has stopped stepping (Table 6.9 STOP). -/
inductive RStop where
  | stepping
  | wait
  | fence
  | ahead
  | full
  | ended
  | noTask
  deriving DecidableEq, Repr

/-- Rambler (R182, R185). `ahead` counts the TLDs it has stepped past that have not issued, `late` those issued that it has
not reached; `at_` counts the units asked for of the TLD it stands at. `cfgs` holds its own view of the tile registers' shapes where
it runs ahead of a TCFG; `replay` the pending records it steps first after a resume (R189). `again` holds units to fetch again once
a store of theirs is acknowledged (R191); `cycle` counts issues, `last` the row last issued to each pseudo-channel (R184). -/
structure Rambler where
  reqs : List Req := []
  lq : List LqEntry := []
  wq : List WqEntry := []
  pc : Nat := 0
  a : Map (BitVec 48) := []
  c : Map W32 := []
  loops : List Loop := []
  ahead : Nat := 0
  late : Nat := 0
  at_ : Nat := 0
  cfgs : Map TReg := []
  replay : List Pending := []
  again : List LqEntry := []
  cycle : Nat := 0
  last : Map Nat := []
  stop : RStop := .stepping
  refetch : Nat := 0
  dropped : Nat := 0
  deriving DecidableEq, Repr

/-- CORE_FAULT and CORE_FAULT_INSN (Tables 4.10, 4.11). -/
structure CoreFault where
  code : Nat := 0
  pc : Nat := 0
  valid : Bool := false
  ctx : Nat := 0
  insn : W64 := 0
  deriving DecidableEq, Repr

/-- The task a core runs: graph slot, task index, context, step captured at dispatch (R341), hand-mapped or mapped. -/
structure CoreTask where
  graph : Nat
  task : Nat
  ctx : Nat
  step : Nat
  hand : Bool
  deriving DecidableEq, Repr

/-- A logical core (R68, R98). -/
structure Core where
  seq : SeqState := .idle
  task : Option CoreTask := none
  prog : List W64 := []
  live : Live := {}
  ramb : Rambler := {}
  flags : BitVec 4 := 0
  fault : CoreFault := {}
  wide : Bool := false
  t1 : Nat := 0
  t1off : Nat := 0
  t2 : Nat := 0
  t2off : Nat := 0
  deliveries : List (Nat × List Byte) := []
  parity : Option CoreErr := none
  badAcc : List Nat := []
  deriving DecidableEq, Repr

/-! ## Clusters -/

/-- Whether a cluster serves or is under Roll Call, which closes its crossings (R28). -/
inductive ClusterMode where
  | service
  | rollcall
  deriving DecidableEq, Repr

/-- A unit the coalescer holds for a task (R194); `mask` names the bytes of it that were read. -/
structure Held where
  graph : Nat
  task : Nat
  unit : Nat
  mask : Nat
  data : List Byte
  deriving DecidableEq, Repr

/-- A Blanket chunk in a staging slot and the members that have not taken it (R216); one discarded by an interruption holds no
bytes until it is fetched again. -/
structure Chunk where
  channel : Nat
  slot : Nat
  number : Nat
  data : List Byte
  members : List Nat
  deriving DecidableEq, Repr

/-- A cluster. `fetched` counts the chunks that the DMA engine has fetched, by task and channel; `staging` holds the graph, the task
and the first offset of a staged copy (R171). -/
structure Cluster where
  mode : ClusterMode := .service
  held : List Held := []
  coalesced : Nat := 0
  chunks : List Chunk := []
  fetched : Map Nat := []
  deliveries : Nat := 0
  adds : Nat := 0
  staging : Option (Nat × Nat × Nat) := none
  deriving DecidableEq, Repr

/-! ## System control, errors, repair, boot, power -/

/-- SYS_CDC_LOG (Table 1.8). -/
structure CdcLog where
  crossing : BitVec 24 := 0
  closed : Bool := false
  valid : Bool := false
  deriving DecidableEq, Repr

/-- A package-internal link (R15). -/
inductive LinkState where
  | up
  | training
  | down
  deriving DecidableEq, Repr

/-- State of a link: the flit that failed last, its CRC failures in succession, failed retrains (R15). -/
structure PLink where
  state : LinkState := .up
  flit : Nat := 0
  fails : Nat := 0
  retrains : Nat := 0
  deriving DecidableEq, Repr

/-- An error-log entry (Table 14.2). -/
structure ErrEntry where
  time : Nat := 0
  code : Nat := 0
  kind : Nat := 0
  ctx : Nat := 0
  source : Nat := 0
  detail : Nat := 0
  count : Nat := 0
  deriving DecidableEq, Repr

/-- The error log and its registers (R406, Tables 14.10, 14.11). -/
structure ErrLog where
  entries : Map ErrEntry := []
  wr : Nat := 0
  full : Bool := false
  rd : Nat := 0
  ovf : Nat := 0
  sel : Nat := 0
  deriving DecidableEq, Repr

/-- A column record of a physical slot (Table 15.23): bad columns, their count, ROW_FAULT and FAILED. -/
structure ColRec where
  cols : List Nat := []
  count : Nat := 0
  rowFault : Bool := false
  failed : Bool := false
  deriving DecidableEq, Repr

/-- A repair decision that waits for its event (R415, R416). -/
inductive Decision where
  | column (site column : Nat)
  | row (memory cluster slot row : Nat)
  | core (site : Nat)
  | arrayRow (site : Nat)
  | hbmRow (entry : Nat)
  deriving DecidableEq, Repr

/-- The repair map (R417, R438). `known` says that the security block holds one, not the identity that a part has before its first boot;
`slots` lists the clusters whose logical cores do not sit in slots 0 to 17 in order. -/
structure Repair where
  gen : Nat := 0
  known : Bool := false
  retired : Nat := 0
  slots : Map (List Nat) := []
  cols : Map ColRec := []
  rows : List Nat := []
  hbm : List Nat := []
  signature : List Byte := []
  waiting : List Decision := []
  deriving DecidableEq, Repr

/-- SYS_BOOT.STATE (Table 15.14). -/
inductive BootState where
  | booting
  | ready
  | recovery
  deriving DecidableEq, Repr

/-- What the security block keeps of the booted image (R434 to R439). -/
structure Image where
  sections : List Byte := []
  identity : List Byte := []
  endorsement : List Byte := []
  hbmRate : Nat := 0
  flags : Nat := 0
  volt : List Nat := []
  calId : Nat := 0
  cal : List Nat := []
  sigs : List Nat := []
  deriving DecidableEq, Repr

/-- Boot, identity and measurement (Tables 15.14, 15.15, R451, R452). -/
structure Boot where
  state : BootState := .booting
  copy : Nat := 0
  step : Nat := 0
  code : Nat := 0
  gen : Nat := 0
  cause : Nat := 0
  image : Image := {}
  measure : Map (BitVec 512) := []
  debugUsed : Bool := false
  lanternUsed : Bool := false
  deriving DecidableEq, Repr

/-- Clocks, thermal state and pins (R430, R431, R448, R450). `good` is PWR_GOOD, `stopped` says that every clock stands, and `sampled` that
the straps have been sampled since PWR_GOOD rose. -/
structure Power where
  good : Bool := true
  resetN : Bool := true
  perst : Bool := false
  brakeN : Bool := true
  tripN : Bool := true
  mgrSel : Bool := false
  smbAddr : Bool := false
  sampled : Bool := false
  stopped : Bool := false
  target : Nat := 1750
  current : Nat := 1750
  thermal : Nat := 1750
  waiting : Option Nat := none
  vout : Nat := 0
  cool : Nat := 0
  hottest : Nat := 0
  sensor : Nat := 0
  throttleMs : Nat := 0
  halved : Nat := 0
  deriving DecidableEq, Repr

/-- The SYS_ block's own registers, the log, and the rows that gave a corrected error with its time (R415). -/
structure Sys where
  cdc : CdcLog := {}
  cdcCount : Nat := 0
  quarantine : List (BitVec 24) := []
  links : Map PLink := []
  clampCtx : W64 := 0
  clampCount : Nat := 0
  demoted : Nat := 0
  time : Nat := 0
  log : ErrLog := {}
  corrected : List (Nat × Nat) := []
  deriving DecidableEq, Repr

/-- The HBM_ block (Tables 6.13 to 6.15) and the stacks in service. `undef` selects what a byte of HBM reads as that nothing has
written since the last change of mode (R198); none before the first. -/
structure Hbm where
  ilv : Nat := 0
  tableGib : Nat := 4
  service : Nat := 0xFF
  occupancy : Map Nat := []
  stopped : Nat := 0
  stopNs : Map Nat := []
  undef : Option Nat := none
  deriving DecidableEq, Repr

/-! ## Contexts, graphs, tasks, Waymarks -/

/-- A run of equal pages that follow one another in a context's mapping (R175, R177): virtual and physical address of
the first, number of pages, size code, attribute word. -/
structure Page where
  va : Nat
  pa : Nat
  count : Nat
  size : Nat
  attr : Nat
  deriving DecidableEq, Repr

/-- A group generation (R260): the step that tagged it and the 64-byte entries that differ from zero. -/
structure Gen where
  step : Nat
  entries : Map (List Nat)
  deriving DecidableEq, Repr

/-- A STEP_COMMIT that has not replied (R377, R414). -/
structure CommitWait where
  cmd : Cmd
  step : Nat
  sent : Bool
  deriving DecidableEq, Repr

/-- A copy on its way to a target at another device: what is still to be sent, each part once the one before it is complete there, and
whether no packet has failed (R420, R421). -/
structure Flight where
  target : Nat
  parts : List (List (Nat × List Byte))
  ok : Bool
  deriving DecidableEq, Repr

/-- A checkpoint in progress (R419, R420): targets still to copy, targets committed, the command that asked, whether a target
failed, and the copies on their way to other devices. -/
structure Ckpt where
  step : Nat
  left : Nat
  done : Nat
  cmd : Option Cmd
  bad : Bool
  flights : List Flight := []
  deriving DecidableEq, Repr

/-- A graph recorded for replay (R408): its descriptor's address, TAG, function and completion ring, its handle, and
whether it has ended and ended well. -/
structure Recorded where
  addr : Nat
  tag : Nat
  fn : Nat
  cq : Nat
  handle : Nat
  ended : Bool
  ok : Bool
  deriving DecidableEq, Repr

/-- A context (R338): its tables, its step and its suspension. `cause` is the code for which a replay of its step is due and `causes` counts
the failures that ask for it (R409); `told` says that the manager was told of a failure of the step and its ABANDON has not come back (R410). `bound` holds the counts by identifier that the boundary record of
the latched step holds (R407). `leaving` says that its CTX_DESTROY has begun (R339); `latching` holds the entries as they stood when a
STEP_BEGIN that has not replied began (R260), and `older` the repair decisions that waited when the step was latched (R410). -/
structure Ctx where
  fn : Nat
  seed : Nat
  saveArea : Nat
  prio : Nat
  eventCq : Nat
  pages : List Page := []
  groups : Map (List Nat) := []
  gens : List Gen := []
  step : Option Nat := none
  suspended : Bool := false
  faultVa : Nat := 0
  recorded : List Recorded := []
  overflowed : Bool := false
  clean : Bool := true
  committed : Bool := false
  bound : List (Nat × Nat) := []
  replays : Nat := 0
  stashReplay : Bool := false
  replaying : Bool := false
  cause : Option Nat := none
  causes : Nat := 0
  told : Bool := false
  used : Bool := false
  failed : Nat := 0
  commit : Option CommitWait := none
  ckpt : Option Ckpt := none
  ckptQueue : List (Option Cmd × Nat × Nat) := []
  leaving : Bool := false
  latching : List (Cmd × Map (List Nat)) := []
  older : List Decision := []
  deriving DecidableEq, Repr

/-- Registers of a context number (Tables 12.16, 14.15 to 14.18), its checkpoint count (R420), and its meter serial and active time (R461). -/
structure CtxRegs where
  job : Nat := 0
  export_ : Bool := false
  members : Nat := 0
  boundary : Nat := 0
  localAt : Nat := 0
  slotSize : Nat := 0
  mirrorAt : Nat := 0
  remoteAt : Nat := 0
  policy : Nat := 0
  valid : Nat := 0
  last : Nat := 0
  count : Nat := 0
  serial : Nat := 0
  active : Nat := 0
  deriving DecidableEq, Repr

/-- Where a task of a graph stands (R288, R289). -/
inductive Phase where
  | idle
  | window
  | spilled
  | running
  | interrupted
  | done
  | failed
  deriving DecidableEq, Repr

/-- A task of a graph. `copy` is the task descriptor the device read; `op`, `descs` and `succ` are the operation block or
core table, the structures it names by slot, and the successor list, as the loader read them (R144, R224). `widths` lists the
widths its cores presented at dispatch (R214), `left` the cores that have not finished, and `handed` the units of further segments
whose partials stand with the owner of their rows (R82). `checked` says that the loader has checked the task and keeps the copies (R144). -/
structure Task where
  phase : Phase := .idle
  copy : List Byte := []
  op : List Byte := []
  descs : Map (List Byte) := []
  succ : List Nat := []
  checked : Bool := false
  cores : List Nat := []
  widths : List Nat := []
  left : List Nat := []
  units : List (Nat × List Nat) := []
  dmaLeft : List Nat := []
  handed : List Nat := []
  grants : List (Nat × Nat) := []
  saves : Map Live := []
  resumed : List Nat := []
  interruptReq : Bool := false
  version : Option (Nat × Nat) := none
  counted : Bool := false
  slot : Nat := 0
  info : Nat := 0
  failing : Nat := 0
  step : Nat := 0
  dispatched : Nat := 0
  stalled : Bool := false
  deriving DecidableEq, Repr

/-- A stash reservation of a layer and micro-batch (R243): granules (tier, index), 0 core store, 1 cluster store, 2 HBM. -/
structure Stash where
  layer : Nat
  mbatch : Nat
  granules : List (Nat × Nat)
  copied : Bool
  lost : Bool
  deriving DecidableEq, Repr

/-- A graph (R283, R285). `areas` holds the first offsets of its on-chip stash areas in a core and a cluster store, `header` the layer
table's header as it was read when they were taken (R242). `spill` lists the tasks in its spill ring, `spilled` counts all that ever
entered it (R284, R289). -/
structure Graph where
  gen : Nat
  ctx : Nat
  tag : Nat
  fn : Nat
  cq : Nat
  addr : Nat
  desc : List Byte
  order : Nat
  step : Option Nat
  tasks : Map Task := []
  spill : List Nat := []
  spilled : Nat := 0
  doneCount : Nat := 0
  stopping : Bool := false
  failCode : Nat := 0
  failTask : Nat := 0
  infoCount : Nat := 0
  infoCode : Nat := 0
  infoTask : Nat := 0
  distance : Nat := 3
  areas : Option (Nat × Nat) := none
  header : List Byte := []
  stash : List Stash := []
  demoted : List (Nat × Nat) := []
  deriving DecidableEq, Repr

/-- Trailhead (Tables 10.9 to 10.12). -/
structure Trailhead where
  graphs : Map Graph := []
  gens : Map Nat := []
  order : Nat := 0
  rr : Nat := 0
  sel : Nat := 0
  dispatched : Nat := 0
  reserved : List (Nat × Nat × Nat) := []
  owners : List (Nat × Nat × Nat) := []
  deriving DecidableEq, Repr

/-- A Waymark binding (Table 10.6, R304, R305). `home` is the cluster of an effective kind 1; `away` says that Trailhead serves it while
the cluster is under Roll Call (R307). -/
structure Binding where
  kind : Nat
  eff : Nat
  target : Nat
  exported : Bool
  remoteId : Nat
  init : Nat
  home : Nat
  count : Nat
  away : Bool
  deriving DecidableEq, Repr

/-- Who waits on a Waymark: a core, a task for one of its waits, or an Evile die for a record on one of the record's Waymarks. -/
inductive Waiter where
  | core (c : Nat)
  | task (graph task slot : Nat)
  | evile (ctx record mark : Nat)
  deriving DecidableEq, Repr

/-- How a wait is served (R308): at the home itself, by a watch at the home, or by reading the count every 1 µs. -/
inductive WaitHow where
  | home
  | watch
  | poll
  deriving DecidableEq, Repr

/-- A wait (R302, R308): the Waymark's key, the threshold, the waiter, how it is served, and whether it is released. -/
structure Wait where
  key : Nat
  threshold : Nat
  who : Waiter
  how : WaitHow
  released : Bool
  deriving DecidableEq, Repr

/-- Who sends an add: the source of its packet on the control plane (R32). -/
inductive Agent where
  | core (c : Nat)
  | trailhead
  | evile (die : Nat)
  | ingest (engine : Nat)
  | thermos
  deriving DecidableEq, Repr

/-- An add on its way to a Waymark's home (R300): its source, the key, the increment, and the task that made it: the graph's handle
and the task's index. -/
structure Add where
  src : Agent
  key : Nat
  inc : Nat
  by_ : Option (Nat × Nat)
  deriving DecidableEq, Repr

/-- Waymarks (R300 to R308). A key is context × 2²⁰ + logical identifier. -/
structure Waymarks where
  binds : Map Binding := []
  waits : List Wait := []
  adds : List Add := []
  sat : W64 := 0
  handset : W64 := 0
  deriving DecidableEq, Repr

/-! ## Evile dies -/

/-- Where a record's round stands: contributions being taken; computed and waiting for phase C; computed; withheld. -/
inductive UpPhase where
  | taking
  | phaseB
  | computed
  deriving DecidableEq, Repr

/-- A parameter record that has passed R263. `index` is its place in its update table; `sent` and `taken` count contributions, `rounds` the rounds finished; `step` is
the version v that the update in progress consumes, `slot` the slot j it writes; `committed` is the last v that was committed;
`layers` counts Layer-rule updates; `thermos` names the slot that a
checkpoint refers to (R419); `unapplied` says that the journal of the last commit waits for a checkpoint to copy the bank (R419);
`discard` says that the next round's contributions are discarded (R412); `verdict` says whether the group's update is withheld, once that is known (R277);
`named` is the step latched when a graph last named it in its update table (R260), and `pulling` the version that a pull in progress copies (R279). -/
structure Rec where
  ctx : Nat
  bytes : List Byte
  index : Nat
  die : Nat
  owner : Bool
  sent : Nat := 0
  taken : Nat := 0
  rounds : Nat := 0
  present : List Nat := []
  phase : UpPhase := .taking
  step : Nat := 0
  slot : Nat := 0
  committed : Option Nat := none
  nonfinite : Bool := false
  journalFull : Bool := false
  verdict : Option Bool := none
  published : Nat := 0
  pulled : Nat := 0
  layers : Nat := 0
  stalled : Bool := false
  failed : Bool := false
  discard : Bool := false
  thermos : Option Nat := none
  unapplied : Bool := false
  named : Option Nat := none
  pulling : Option Nat := none
  deriving DecidableEq, Repr

/-- The Evile dies (Tables 9.7 to 9.10). `lost` lists the lost dies; `landing` is the landing memory by window slot (R267);
`committed` and `withheld` count by die (Table 9.8). -/
structure Evile where
  lost : List Nat := []
  landing : Map Byte := []
  recs : Map Rec := []
  committed : Map Nat := []
  withheld : Map Nat := []
  ctx0 : Nat := 0
  ctx1 : Nat := 0
  deriving DecidableEq, Repr

/-! ## Host interface -/

/-- A status reply (Table 11.7) before PHASE is written. -/
structure Reply where
  tag : Nat
  status : Nat
  opcode : Nat
  ctx : Nat
  kind : Nat
  result : List Byte
  ring : Nat
  deriving DecidableEq, Repr

/-- A command that a ring has begun and that has not finished (R332), with its packet (R330). -/
structure Begun where
  opcode : Nat
  tag : Nat
  long : Bool
  packet : List Byte
  acted : Bool := false
  deriving DecidableEq, Repr

/-- A command ring (Tables 11.15, 11.16). -/
structure CRing where
  enable : Bool := false
  loc : Bool := false
  log2 : Nat := 0
  cq : Nat := 0
  base : Nat := 0
  head : Nat := 0
  tail : Nat := 0
  error : Bool := false
  begun : List Begun := []
  deriving DecidableEq, Repr

/-- A completion ring (Tables 11.17 to 11.19), the replies it holds (R327) and those not yet signalled (R329). `serial` is the model's own:
it numbers the ring's writes to host memory, each of which may fail on the link (log 65). -/
structure CQueue where
  enable : Bool := false
  loc : Bool := false
  log2 : Nat := 0
  vector : Nat := 0
  base : Nat := 0
  tail : Nat := 0
  head : Nat := 0
  phase : Bool := false
  error : Bool := false
  count : Nat := 1
  delay : Nat := 0
  held : List Reply := []
  lost : Nat := 0
  unsignalled : Nat := 0
  serial : Nat := 0
  deriving DecidableEq, Repr

/-- A PCIe function: rings, window, status and MSI-X state, the capability's Enable and Function Mask among it, and the uncorrectable
error status of its AER capability (R317 to R329). -/
structure Fn where
  cr : Map CRing := []
  cq : Map CQueue := []
  win : W64 := 0
  eventsLost : Nat := 0
  badAccess : Nat := 0
  msix : Map Byte := [(12, 1), (28, 1), (44, 1), (60, 1)]
  pba : Nat := 0
  msixOn : Bool := false
  msixMask : Bool := false
  aer : Nat := 0
  deriving DecidableEq, Repr

/-- The PCIe interface. `bar4` is the size of the PF's BAR4 as a power of two of GiB (R318). -/
structure Pci where
  fns : Map Fn := []
  limits : Map W64 := []
  numVfs : Nat := 0
  vfEnable : Bool := false
  bar4 : Nat := 4
  width : Nat := 16
  rate : Nat := 5
  training : Bool := false
  deriving DecidableEq, Repr

/-! ## Nunex -/

/-- A Nunex port (Table 12.15) and its link layer (R350 to R354). By channel, `tx` holds the packet bytes that no flit carries yet,
`starts` where packets begin in them, `used` the far end's buffers that its flits occupy, and `owed` the credits to return. `turn`
names the channel of VC1 to VC3 whose turn follows; `nakDue` says that the next flit carries NAK, and `rx` holds by channel the received
bytes of a packet that is not whole yet. -/
structure Port where
  state : Nat := 0
  spare : Nat := 4
  failed : Nat := 0
  replays : Nat := 0
  fec : Nat := 0
  txSeq : Nat := 0
  unacked : List (Nat × List Byte) := []
  tx : Map (List Byte) := []
  starts : Map (List Nat) := []
  used : Map Nat := []
  owed : Map Nat := []
  turn : Nat := 0
  rxSeq : Nat := 0
  discarding : Bool := false
  nak : Bool := false
  nakDue : Bool := false
  rx : Map (List Byte) := []
  resends : Nat := 0
  retrains : Nat := 0
  deriving DecidableEq, Repr

/-- A bulk copy in progress: its issuer, and the code of the first packet of it that failed (R369). -/
structure Copy where
  by_ : CopyBy
  code : Nat := 0
  deriving DecidableEq, Repr

/-- Who issued a remote operation: `trail` is Trailhead for a graph, by its handle, `ingest` a stream, and nobody waits for an operation of
`nobody`. `discard` is a core's read whose data it no longer wants and `orphan` one of a task that has left the core; both still hold the
core's tag (R183). -/
inductive OpOwner where
  | core (c unit : Nat)
  | discard (c unit : Nat)
  | orphan (c : Nat)
  | task (graph task : Nat)
  | record (key : Nat)
  | pull (p : Packet)
  | wmk (src : Agent) (key : Nat) (by_ : Option (Nat × Nat))
  | thermos (ctx target : Nat)
  | copy (id : Nat)
  | trail (graph handle : Nat)
  | ingest (stream : Nat)
  | nobody
  deriving DecidableEq, Repr

/-- An operation that holds a tag, or waits for one, and the port it was last sent through (R362, R365). `stale` marks a read sent
before a dependency point of its task in its cluster: no later read is served with it (R192, R194). -/
structure Op where
  packet : Packet
  owner : OpOwner
  resends : Nat
  sent : Bool
  port : Nat
  stale : Bool := false
  deriving DecidableEq, Repr

/-- A receive stream (R364). -/
structure Stream where
  src : Nat
  sdie : Nat
  ddie : Nat
  vc : Nat
  epoch : Nat
  next : Nat
  held : List Packet
  answers : List (Nat × Packet)
  deriving DecidableEq, Repr

/-- A member's record (R375, R376). -/
structure Member where
  epoch : Nat
  dies : Nat
  state : Nat
  spare : Bool
  deriving DecidableEq, Repr

/-- READY(J, s) from a member (R377). -/
structure ReadyRec where
  job : Nat
  step : Nat
  members : Nat
  from_ : Nat
  deriving DecidableEq, Repr

/-- The record of a commit that awaits acknowledgement by the standby and the other hall (R377). -/
structure CommitRec where
  job : Nat
  step : Nat
  standbyAck : Bool
  pairAck : Bool
  deriving DecidableEq, Repr

/-- A change that the active manager has recorded and acts on once the standby acknowledges it (R375): the record, with its subcode in
`role`, the messages to send, the event to post, and for a READY or a change of the pairing what takes effect then. -/
structure Change where
  msg : MgrMsg
  send : List (Nat × Nat × MgrMsg)
  event : Option (Nat × Nat × Nat)
  ready : Option ReadyRec := none
  pair : Option Bool := none
  deriving DecidableEq, Repr

/-- Nunex (Tables 12.12 to 12.17). Members are keyed by identifier with the hall in bit 15; `jobs` lists the members that have
reported READY for a job; `left_` says that a FABRIC_LEAVE has ended and no FABRIC_JOIN followed; `recorded` holds the commits recorded at this
manager, by hall, job and step (R377, R378); `inbox` holds manager messages placed from flits and not yet acted on. -/
structure Fabric where
  device : Nat := 0x7FFF
  hall : Nat := 0
  epoch : Nat := 0
  role : Nat := 0
  leaving : Bool := false
  joining : Option (Cmd × Nat × Nat) := none
  leaveCmd : Option Cmd := none
  eventCq : Nat := 0
  resendUs : Nat := 100
  ports : Map Port := []
  ops : List Op := []
  rx : List Stream := []
  txSeqs : Map Nat := []
  drops0 : Nat := 0
  drops1 : Nat := 0
  members : Map Member := []
  epochs : Map Nat := []
  mgr : Nat := 0
  pair : Bool := false
  term : Nat := 0
  standby : Bool := false
  ready : List ReadyRec := []
  jobs : List (Nat × Nat) := []
  left_ : Bool := false
  commits : List CommitRec := []
  changes : List Change := []
  recorded : List (Nat × Nat × Nat) := []
  copies : Map Copy := []
  nextCopy : Nat := 0
  inbox : List (Nat × MgrMsg) := []
  diesLost : Nat := 0
  deriving DecidableEq, Repr

/-! ## Video ingest, Thermos, Roll Call, meter, Lantern -/

/-- A clip in progress (R381, R396, R399): its number, list position, reference, next access unit, the output frames so far, and
the state of its groups of pictures. `source` holds the pieces the decoder sees, each with a mark where packets broke sync or
continuity before it (R385); `frames` holds the selected frames with the part of the picture they show, none where a group was
dropped; `gopStart` counts the frames before the group; `place` is the offset in the source where its next access unit begins, and
`header` says that a sequence header has stood in it (R386). -/
structure Clip where
  n : Nat
  pos : Nat
  ref : List Byte
  source : List (Bool × List Byte)
  au : Nat
  place : Nat
  header : Bool
  seen : Nat
  frames : List (Option (Frame × Nat))
  gopStart : Nat
  gopBad : Bool
  started : Bool
  dropped : Nat
  unsupported : Bool
  finished : Bool
  deriving DecidableEq, Repr

/-- A FEED that waits for room, or for its references to be read (R387); `checked` says that they keep Table 13.2. -/
structure Feed where
  cmd : Cmd
  final : Bool
  segment : Nat
  count : Nat
  checked : Bool := false
  deriving DecidableEq, Repr

/-- The source of a clip that another device holds, while it is read (R384): the reference, whether these are the AU entries, the ranges,
the READs not yet answered (none: not sent yet) and the bytes that have come, by global address. -/
structure Fetch where
  ref : List Byte
  list : Bool
  ranges : List (Nat × Nat)
  waits : Option Nat := none
  data : Map (List Byte) := []
  deriving DecidableEq, Repr

/-- An open stream (R391, R393). `fed` counts list positions from the opening position; `paused` says that a replay has stopped it from
producing until it is rewound (R410). -/
structure IStream where
  ctx : Nat
  cfg : List Byte
  cfgAddr : Nat
  start : Nat
  fed : Nat := 0
  final : Bool := false
  next : Nat
  clip : Option Clip := none
  feeds : List Feed := []
  fetch : Option Fetch := none
  stopped : Bool := false
  paused : Bool := false
  deriving DecidableEq, Repr

/-- An ingest engine (Tables 13.5 to 13.7). -/
structure Engine where
  state : Nat := 0
  streams : Map IStream := []
  rr : Nat := 0
  gops : Nat := 0
  unsupported : Nat := 0
  samples : Nat := 0
  deriving DecidableEq, Repr

/-- A Roll Call run (R424). -/
structure RollRun where
  cmd : Cmd
  left : List Nat
  tested : Nat
  failed : Nat
  maxpar : Nat
  deriving DecidableEq, Repr

/-- Roll Call (Tables 14.19, 14.20). -/
structure RollCall where
  results : Map W64 := []
  sel : Nat := 0
  misr : Map Nat := []
  run : Option RollRun := none
  saved : Map (List Host.Cell × List Nat) := []
  deriving DecidableEq, Repr

/-- The energy meter and the records the security block holds (R459 to R462). `extra` is what a continued chain's ENERGY exceeds its
rails by (R460). -/
structure Meter where
  energy : List Q := []
  elapsed : Nat := 0
  interval : Nat := 0
  seq : Nat := 0
  flags : Nat := 0
  newest : Nat := 0
  newestFlags : Nat := 0
  chained : Bool := false
  emitted : Bool := false
  handedBack : List Byte := []
  prev : List Byte := []
  records : List (Nat × List Byte) := []
  volts : List Q := []
  amps : List Q := []
  silent : Bool := false
  extra : Int := 0
  deriving DecidableEq, Repr

/-- Lantern (Tables 15.27 to 15.31) and the JTAG instruction register (R454). -/
structure Lantern where
  addr : W64 := 0
  data : W64 := 0
  ctx : W32 := 0
  state : Nat := 0
  jtag : Bool := false
  code : Nat := 0
  ir : Byte := 1
  deriving DecidableEq, Repr

/-- What the device emits at its boundary: a fabric packet or manager message, an MSI-X message, a PMBus voltage, BAR read
data, a failed BAR read, an MCTP answer, a flit resent, or the end of a bulk copy with its code, for the engine that issued it. -/
inductive Emit where
  | packet (port : Nat) (p : Packet)
  | manager (port dst subcode : Nat) (m : MgrMsg)
  | msix (fn vector addr data : Nat)
  | pmbus (mv : Nat)
  | barData (fn : Nat) (data : List Byte)
  | barUr (fn : Nat)
  | mctp (address : Nat) (data : List Byte)
  | mctpError (address : Nat)
  | cfgRetry
  | tdo (n value : Nat)
  | flits (port : Nat) (seqs : List Nat)
  | copyEnds (by_ : CopyBy) (code : Nat)
  deriving DecidableEq, Repr

/-- The state of the BSN-9720. -/
structure State where
  pending : List Instr
  tick : Nat
  mem : List Host.Cell
  hostMem : List Host.Cell
  bad : List Nat
  cores : Map Core
  clusters : Map Cluster
  sys : Sys
  repair : Repair
  boot : Boot
  power : Power
  hbm : Hbm
  ctxs : Map Ctx
  ctxRegs : Map CtxRegs
  thmSel : Nat
  trh : Trailhead
  wmk : Waymarks
  evl : Evile
  pci : Pci
  nxp : Fabric
  ing0 : Engine
  ing1 : Engine
  rcl : RollCall
  mtr : Meter
  lnt : Lantern
  out : List Emit
  deriving DecidableEq, Repr

/-- The machine right after a cold reset: every field at the value the spec states for reset, or at the value that
INVENTORY.md and the log name; no program, no image and no command in it. -/
def State.reset : State where
  pending := []
  tick := 0
  mem := []
  hostMem := []
  bad := []
  cores := []
  clusters := []
  sys := {}
  repair := {}
  boot := {}
  power := {}
  hbm := {}
  ctxs := []
  ctxRegs := []
  thmSel := 0
  trh := {}
  wmk := {}
  evl := {}
  pci := {}
  nxp := {}
  ing0 := {}
  ing1 := {}
  rcl := {}
  mtr := {}
  lnt := {}
  out := []

/-- The logical core `c`. -/
def State.core (s : State) (c : Nat) : Core := mget {} s.cores c
/-- Cluster `n`. -/
def State.cluster (s : State) (n : Nat) : Cluster := mget {} s.clusters n
/-- The registers of context number `n`. -/
def State.creg (s : State) (n : Nat) : CtxRegs := mget {} s.ctxRegs n
/-- The context `n`, if it exists. -/
def State.ctx (s : State) (n : Nat) : Option Ctx := mfind s.ctxs n
/-- The graph in slot `g`, if unfinished. -/
def State.graph (s : State) (g : Nat) : Option Graph := mfind s.trh.graphs g
/-- Function `f`. -/
def State.fnOf (s : State) (f : Nat) : Fn := mget {} s.pci.fns f
/-- Task `i` of a graph. -/
def Graph.task (g : Graph) (i : Nat) : Task := mget {} g.tasks i
/-- Port `p`, device-wide. -/
def State.port (s : State) (p : Nat) : Port := mget {} s.nxp.ports p
/-- Ingest engine 0 or 1. -/
def State.engine (s : State) (e : Nat) : Engine := if e = 0 then s.ing0 else s.ing1

end Sys2Proof.Machine
end

