-- ==== Sys2Proof/Decode.lean ====
section
/-! DEFINITION. The encodings of tile programs (Table 4.3): the fields of a 64-bit instruction word, the checks made at
issue (R103), and the encoder. The rows of the command table give no bits, so `decodeTableWord` reads none. -/

namespace Sys2Proof

open Machine (bits bit b2n)

/-- A tile instruction: one constructor per row of Table 4.3, every field as the word holds it. -/
inductive TileInsn where
  | nop
  | tcfg (t type blk rows1 cols1 : Nat) (clear : Bool)
  | tld (t base stride : Nat) (space remote : Bool) (pfx offset : Nat)
  | tst (t base stride : Nat) (space remote : Bool) (pfx offset : Nat)
  | twl (t rb cb : Nat) (tr : Bool)
  | tmm (form t rb cb acc : Nat)
  | tmv (mode t w stride wtype wblk n1 acc : Nat) (init srcTm : Bool)
  | tdr (acc record dst stride idx : Nat) (space release : Bool) (nrows1 ncols1 : Nat) (remote : Bool) (pfx : Nat)
      (rowEnd : Bool)
  | tzr (acc count1 : Nat)
  | tmov (mode td ts acc : Nat) (orient : Bool)
  | halo (t side n1 dst stride wmk : Nat)
  | blr (t ch : Nat)
  | wait (wmk thr imm : Nat)
  | sig (wmk inc : Nat) (reg : Bool) (a : Nat)
  | fence (scope : Nat) (loads : Bool)
  | loop (c stop : Nat) (reg : Bool) (a count : Nat)
  | endl (c : Nat)
  | mova (ad src as imm : Nat)
  | adda (ad : Nat) (src : Bool) (as imm : Nat)
  deriving DecidableEq, Repr

/-- The fields of a word by its opcode (Table 4.3), and the first bit above its highest field; none for a reserved
opcode. -/
def tileFields (w : Nat) : Option (TileInsn × Nat) :=
  match bits w 7 0 with
  | 0x00 => some (.nop, 8)
  | 0x01 => some (.tcfg (bits w 10 8) (bits w 14 11) (bits w 17 15) (bits w 25 18) (bits w 40 26) (bit w 41), 42)
  | 0x02 => some (.tld (bits w 10 8) (bits w 13 11) (bits w 17 14) (bit w 18) (bit w 19) (bits w 23 20) (bits w 47 24), 48)
  | 0x03 => some (.tst (bits w 10 8) (bits w 13 11) (bits w 17 14) (bit w 18) (bit w 19) (bits w 23 20) (bits w 47 24), 48)
  | 0x04 => some (.twl (bits w 10 8) (bits w 13 11) (bits w 23 14) (bit w 24), 25)
  | 0x05 => some (.tmm (bits w 9 8) (bits w 12 10) (bits w 15 13) (bits w 25 16) (bits w 31 26), 32)
  | 0x06 => some (.tmv (bits w 9 8) (bits w 12 10) (bits w 15 13) (bits w 19 16) (bits w 23 20) (bits w 26 24)
      (bits w 34 27) (bits w 40 35) (bit w 41) (bit w 42), 43)
  | 0x07 => some (.tdr (bits w 13 8) (bits w 25 14) (bits w 28 26) (bits w 32 29) (bits w 35 33) (bit w 36) (bit w 37)
      (bits w 42 38) (bits w 47 43) (bit w 48) (bits w 52 49) (bit w 53), 54)
  | 0x08 => some (.tzr (bits w 13 8) (bits w 19 14), 20)
  | 0x09 => some (.tmov (bits w 9 8) (bits w 12 10) (bits w 15 13) (bits w 21 16) (bit w 22), 23)
  | 0x0A => some (.halo (bits w 10 8) (bits w 12 11) (bits w 17 13) (bits w 21 18) (bits w 25 22) (bits w 45 26), 46)
  | 0x0B => some (.blr (bits w 10 8) (bits w 12 11), 13)
  | 0x0C => some (.wait (bits w 27 8) (bits w 30 28) (bits w 46 31), 47)
  | 0x0D => some (.sig (bits w 27 8) (bits w 43 28) (bit w 44) (bits w 48 45), 49)
  | 0x0E => some (.fence (bits w 9 8) (bit w 10), 11)
  | 0x0F => some (.loop (bits w 9 8) (bits w 19 10) (bit w 20) (bits w 24 21) (bits w 56 25), 57)
  | 0x10 => some (.endl (bits w 9 8), 10)
  | 0x11 => some (.mova (bits w 11 8) (bits w 13 12) (bits w 17 14) (bits w 63 18), 64)
  | 0x12 => if bit w 17 then none else some (.adda (bits w 11 8) (bit w 12) (bits w 16 13) (bits w 63 18), 64)
  | _ => none

/-- The conditions on fields that Table 4.3, the list below it and R101, R108, R116, R121, R127 set at issue. -/
def TileInsn.legal : TileInsn → Bool
  | .tcfg _ type blk rows1 cols1 clear =>
    !clear || (decide (type = 0) && decide (blk = 0) && decide (rows1 = 0) && decide (cols1 = 0))
  | .tld _ _ _ space remote pfx _ => !space || (!remote && decide (pfx = 0))
  | .tst _ _ _ space remote pfx _ => !space || (!remote && decide (pfx = 0))
  | .tmm form _ _ _ _ => decide (form < 3)
  | .tmv mode _ _ _ _ _ n1 acc init srcTm =>
    if mode = 0 then !init && !srcTm && decide (acc + n1 / 32 ≤ 63) else decide (n1 < 32)
  | .tzr acc count1 => decide (acc + count1 ≤ 63)
  | .tmov mode _ _ _ orient => decide (mode < 3) && (decide (mode = 2) || !orient)
  | .sig _ inc reg _ => !reg || decide (inc = 0)
  | .fence scope _ => decide (scope < 3)
  | .loop _ _ reg _ count => !reg || decide (count = 0)
  | .mova _ src as imm =>
    (decide (src = 0) || decide (imm = 0)) && (decide (src ≠ 2) || decide (as < 6)) && (decide (src ≠ 3) || decide (as < 4))
  | .adda _ src _ imm => !src || decide (imm = 0)
  | _ => true

/-- The width of every field (Table 4.3). -/
def TileInsn.fits : TileInsn → Bool
  | .nop => true
  | .tcfg t type blk rows1 cols1 _ =>
    decide (t < 8) && decide (type < 16) && decide (blk < 8) && decide (rows1 < 256) && decide (cols1 < 32768)
  | .tld t base stride _ _ pfx offset =>
    decide (t < 8) && decide (base < 8) && decide (stride < 16) && decide (pfx < 16) && decide (offset < 16777216)
  | .tst t base stride _ _ pfx offset =>
    decide (t < 8) && decide (base < 8) && decide (stride < 16) && decide (pfx < 16) && decide (offset < 16777216)
  | .twl t rb cb _ => decide (t < 8) && decide (rb < 8) && decide (cb < 1024)
  | .tmm form t rb cb acc => decide (form < 4) && decide (t < 8) && decide (rb < 8) && decide (cb < 1024) && decide (acc < 64)
  | .tmv mode t w stride wtype wblk n1 acc _ _ =>
    decide (mode < 4) && decide (t < 8) && decide (w < 8) && decide (stride < 16) && decide (wtype < 16)
      && decide (wblk < 8) && decide (n1 < 256) && decide (acc < 64)
  | .tdr acc record dst stride idx _ _ nrows1 ncols1 _ pfx _ =>
    decide (acc < 64) && decide (record < 4096) && decide (dst < 8) && decide (stride < 16) && decide (idx < 8)
      && decide (nrows1 < 32) && decide (ncols1 < 32) && decide (pfx < 16)
  | .tzr acc count1 => decide (acc < 64) && decide (count1 < 64)
  | .tmov mode td ts acc _ => decide (mode < 4) && decide (td < 8) && decide (ts < 8) && decide (acc < 64)
  | .halo t side n1 dst stride wmk =>
    decide (t < 8) && decide (side < 4) && decide (n1 < 32) && decide (dst < 16) && decide (stride < 16)
      && decide (wmk < 1048576)
  | .blr t ch => decide (t < 8) && decide (ch < 4)
  | .wait wmk thr imm => decide (wmk < 1048576) && decide (thr < 8) && decide (imm < 65536)
  | .sig wmk inc _ a => decide (wmk < 1048576) && decide (inc < 65536) && decide (a < 16)
  | .fence scope _ => decide (scope < 4)
  | .loop c stop _ a count => decide (c < 4) && decide (stop < 1024) && decide (a < 16) && decide (count < 4294967296)
  | .endl c => decide (c < 4)
  | .mova ad src as imm => decide (ad < 16) && decide (src < 4) && decide (as < 16) && decide (imm < 70368744177664)
  | .adda ad _ as imm => decide (ad < 16) && decide (as < 16) && decide (imm < 70368744177664)

/-- A tile instruction that Table 4.3 can encode and R103 lets issue. -/
def TileInsn.wf (i : TileInsn) : Bool := i.fits && i.legal

/-- What the sequencer reads from a word at issue; `none` is TILE_ILLEGAL_INSTRUCTION (R103). -/
def decodeTile (w : W64) : Option TileInsn :=
  match tileFields w.toNat with
  | none => none
  | some (i, hi) => if w.toNat < 2 ^ hi && i.legal then some i else none

/-- The value of a word's fields, least significant first: widths and values. -/
def packFields : List (Nat × Nat) → Nat
  | [] => 0
  | (width, v) :: r => v + 2 ^ width * packFields r

/-- The fields of an instruction with their widths, from bit 0 (Table 4.3). -/
def TileInsn.fields : TileInsn → List (Nat × Nat)
  | .nop => [(8, 0x00)]
  | .tcfg t type blk rows1 cols1 clear => [(8, 0x01), (3, t), (4, type), (3, blk), (8, rows1), (15, cols1), (1, b2n clear)]
  | .tld t base stride space remote pfx offset =>
    [(8, 0x02), (3, t), (3, base), (4, stride), (1, b2n space), (1, b2n remote), (4, pfx), (24, offset)]
  | .tst t base stride space remote pfx offset =>
    [(8, 0x03), (3, t), (3, base), (4, stride), (1, b2n space), (1, b2n remote), (4, pfx), (24, offset)]
  | .twl t rb cb tr => [(8, 0x04), (3, t), (3, rb), (10, cb), (1, b2n tr)]
  | .tmm form t rb cb acc => [(8, 0x05), (2, form), (3, t), (3, rb), (10, cb), (6, acc)]
  | .tmv mode t w stride wtype wblk n1 acc init srcTm =>
    [(8, 0x06), (2, mode), (3, t), (3, w), (4, stride), (4, wtype), (3, wblk), (8, n1), (6, acc), (1, b2n init),
      (1, b2n srcTm)]
  | .tdr acc record dst stride idx space release nrows1 ncols1 remote pfx rowEnd =>
    [(8, 0x07), (6, acc), (12, record), (3, dst), (4, stride), (3, idx), (1, b2n space), (1, b2n release), (5, nrows1),
      (5, ncols1), (1, b2n remote), (4, pfx), (1, b2n rowEnd)]
  | .tzr acc count1 => [(8, 0x08), (6, acc), (6, count1)]
  | .tmov mode td ts acc orient => [(8, 0x09), (2, mode), (3, td), (3, ts), (6, acc), (1, b2n orient)]
  | .halo t side n1 dst stride wmk => [(8, 0x0A), (3, t), (2, side), (5, n1), (4, dst), (4, stride), (20, wmk)]
  | .blr t ch => [(8, 0x0B), (3, t), (2, ch)]
  | .wait wmk thr imm => [(8, 0x0C), (20, wmk), (3, thr), (16, imm)]
  | .sig wmk inc reg a => [(8, 0x0D), (20, wmk), (16, inc), (1, b2n reg), (4, a)]
  | .fence scope loads => [(8, 0x0E), (2, scope), (1, b2n loads)]
  | .loop c stop reg a count => [(8, 0x0F), (2, c), (10, stop), (1, b2n reg), (4, a), (32, count)]
  | .endl c => [(8, 0x10), (2, c)]
  | .mova ad src as imm => [(8, 0x11), (4, ad), (2, src), (4, as), (46, imm)]
  | .adda ad src as imm => [(8, 0x12), (4, ad), (1, b2n src), (4, as), (1, 0), (46, imm)]

/-- The word of a tile instruction (Table 4.3); every bit that no field has is 0 (R103). -/
def encodeTile (i : TileInsn) : W64 := BitVec.ofNat 64 (packFields i.fields)

/-- The command a word spells by the table's bits: no row gives bits, so no word spells one. -/
def decodeTableWord (_nbits _w : Nat) : Option Instr := none

end Sys2Proof
end

