-- ==== Sys2Proof/WellFormed.lean ====
section
/-! DEFINITION. Well-formed commands: every operand in the range its field or its numbering has (Tables 1.4, 4.3, 11.3,
11.5, 12.6). The machine runs a command whatever its operands are; an ill-formed one names nothing the part has. -/

namespace Sys2Proof

/-- A host command's header is in range (Table 11.5, R324). -/
def Cmd.wf (h : Cmd) : Bool := decide (h.fn < 64) && decide (h.ring < 4) && decide (h.tag < 2 ^ 32) && decide (h.ctx < 64)

/-- A fabric packet's header is in range (Table 12.6). -/
def Packet.wf (p : Packet) : Bool :=
  decide (p.die < 2) && decide (p.op < 256) && decide (p.src < 65536) && decide (p.dst < 65536) && decide (p.epoch < 65536)
    && decide (p.sseq < 65536) && decide (p.tag < 65536) && decide (p.job < 65536) && decide (p.addr < 2 ^ 64)
    && decide (p.data.length ≤ 4096)

/-- A manager message's fields are in range (Table 12.10). -/
def MgrMsg.wf (m : MgrMsg) : Bool :=
  decide (m.src < 65536) && decide (m.term < 2 ^ 32) && decide (m.ident < 65536) && decide (m.epoch < 65536)
    && decide (m.job < 65536) && decide (m.step < 2 ^ 32) && decide (m.members < 32768)

/-- The core of a tile command exists and its word's opcode is the row's. -/
def tileWf (core : Nat) (w : W64) (opcode : Nat) : Bool := decide (core < 648) && decide (w.toNat % 256 = opcode)

/-- An error names a column, a row or an accumulator word that a core has. -/
def CoreErr.wf : CoreErr → Bool
  | .column n => decide (n < 33)
  | .row n => decide (n < 32)
  | .path => true
  | .word n => decide (n < 32768)

/-- The issuer of a transfer is one that the part has. -/
def CdcBy.wf : CdcBy → Bool
  | .core c _ => decide (c < 648)
  | .dma g _ | .trailhead g _ => decide (g < 256)
  | .evile x _ => decide (x < 64)
  | .thermos x t => decide (x < 64) && decide (t < 3)
  | .ingest e _ | .port e _ => decide (e < 2)
  | .pcie f => decide (f < 64)
  | .host h => h.wf
  | .lantern => true

/-- An error is met where the part has a memory or a datapath. -/
def ErrAt.wf : ErrAt → Bool
  | .word pa => decide (pa < 2 ^ 48)
  | .sram .waymarks u _ b => decide (u < 36) && b.wf
  | .sram .landing u _ b => decide (u < 2) && b.wf
  | .sram _ u _ b => decide (u < 684) && b.wf
  | .held d _ e v _ => decide (d < 2 ∧ e < 2 ∧ v < 4)
  | .path u b => decide (u < 684) && b.wf

/-- The issuer of a bulk copy is one that the part has. -/
def CopyBy.wf : CopyBy → Bool
  | .dma g _ => decide (g < 256)
  | .evile x _ => decide (x < 64)
  | .thermos x t => decide (x < 64) && decide (t < 3)

/-- A configuration write names a function and a value of its capability. -/
def CfgWrite.wf : CfgWrite → Bool
  | .vfs n => decide (n < 64)
  | .msix f _ => decide (f < 64)
  | .bar4 n => decide (n ≤ 6)
  | .aer f _ => decide (f < 64)

/-- A command names only what the part has. -/
def Instr.wf : Instr → Bool
  | .nop c w => tileWf c w 0x00
  | .tcfg c w => tileWf c w 0x01 && !w.toNat.testBit 41
  | .tcfgClear c w => tileWf c w 0x01 && w.toNat.testBit 41
  | .tld c w => tileWf c w 0x02
  | .tst c w => tileWf c w 0x03
  | .twl c w => tileWf c w 0x04
  | .tmm c r => tileWf c r.w 0x05 && (r.err.map CoreErr.wf).getD true
  | .tmv c w => tileWf c w 0x06 && decide (w.toNat / 256 % 4 = 0)
  | .tmvRow c w => tileWf c w 0x06 && decide (w.toNat / 256 % 4 ≠ 0)
  | .tdr c w => tileWf c w 0x07
  | .tzr c w => tileWf c w 0x08
  | .tmov c w => tileWf c w 0x09
  | .halo c w => tileWf c w 0x0A
  | .blr c w => tileWf c w 0x0B
  | .wait c w => tileWf c w 0x0C
  | .sig c w => tileWf c w 0x0D
  | .fence c w => tileWf c w 0x0E
  | .loop c w => tileWf c w 0x0F
  | .endl c w => tileWf c w 0x10
  | .mova c w => tileWf c w 0x11
  | .adda c w => tileWf c w 0x12
  | .coreTaskEnd c | .interrupt c | .coreResume c | .ramblerFetch c _ => decide (c < 648)
  | .memoryResponse c tag _ => decide (c < 648) && decide (tag < 256)
  | .cdcTimeout _ b => b.wf
  | .packageLinkRetrain l | .linkDown l | .packageLinkReplay ⟨l, _⟩ | .packageLinkRetrained l => decide (l < 4)
  | .taskCoreReserve x | .preempt x | .stepReplay x | .stepCommitReady x => decide (x < 64)
  | .versionStallLimit x _ => decide (x < 64)
  | .contributionSend x _ | .contributionTake x _ | .slotAcquire x _ | .phaseC x _ | .updateCommit x _
  | .versionPull x _ _ => decide (x < 64)
  | .blanketFetch n ch => decide (n < 36) && decide (ch < 4)
  | .stashCopy g _ | .taskComplete g _ => decide (g < 256)
  | .clusterDmaTransfer n g _ _ => decide (n < 36) && decide (g < 256)
  | .commandDoorbell f r _ | .completionDoorbell f r _ | .msixDelay f r | .pciCrWrite f r _ | .pciCqWrite f r _ _ =>
    decide (f < 64) && decide (r < 4)
  | .commandPacket f r p => decide (f < 64) && decide (r < 4) && p.all (fun b => decide (b.length = 64))
  | .ctxCreate h seed area prio cq =>
    h.wf && decide (seed < 2 ^ 64) && decide (area < 2 ^ 64) && decide (prio < 4) && decide (cq < 4)
  | .ctxDestroy h | .resume h | .fabricLeave h => h.wf
  | .mapPages h va pa count attr =>
    h.wf && decide (va < 2 ^ 64) && decide (pa < 2 ^ 64) && decide (count < 2 ^ 32) && decide (attr < 65536)
  | .unmapPages h va count size => h.wf && decide (va < 2 ^ 64) && decide (count < 2 ^ 32) && decide (size < 4)
  | .graphSubmit h g => h.wf && decide (g < 2 ^ 64)
  | .graphAbort h x | .stepBegin h x | .stepCommit h x | .query h x => h.wf && decide (x < 2 ^ 32)
  | .groupWrite h g m ws => h.wf && decide (g < 256) && decide (m < 65536) && decide (ws.length = 12)
  | .waymarkRead h i _ => h.wf && decide (i < 2 ^ 20)
  | .waymarkWrite h i m v _ => h.wf && decide (i < 2 ^ 20) && decide (m < 4) && decide (v < 2 ^ 64)
  | .checkpoint h s t => h.wf && decide (s < 2 ^ 32) && decide (t < 2 ^ 32)
  | .checkpointCopy x t _ => decide (x < 64) && decide (t < 3)
  | .restore h s src a _ => h.wf && decide (s < 2 ^ 32) && decide (src < 2 ^ 32) && decide (a < 2 ^ 64)
  | .rollcallRun h m p => h.wf && decide (m < 2 ^ 64) && decide (p < 2 ^ 32)
  | .rollcallCluster n _ _ => decide (n < 36)
  | .ingestOpen h c s e => h.wf && decide (c < 2 ^ 64) && decide (s < 2 ^ 64) && decide (e < 256)
  | .ingestFeed h n _ s c => h.wf && decide (n < 65536) && decide (s < 2 ^ 64) && decide (c < 2 ^ 32)
  | .ingestClose h n => h.wf && decide (n < 65536)
  | .decodeAccessUnit e | .clipWrite e _ => decide (e < 2)
  | .fabricJoin h r q => h.wf && decide (r < 256) && decide (q < 65536)
  | .meterRead h s d f => h.wf && decide (s < 2 ^ 64) && decide (d < 2 ^ 64) && decide (f < 2 ^ 32)
  | .attest h n d => h.wf && decide (n.length = 32) && decide (d < 2 ^ 64)
  | .bar4Read f p n => decide (f < 64) && decide (p.bar = 0 ∨ p.bar = 2 ∨ p.bar = 4) && decide (n ≤ 512)
  | .bar4Write f _ d => decide (f < 64) && decide (d.length ≤ 512)
  | .pciWinWrite f _ | .functionLevelReset f => decide (f < 64)
  | .pciVfLimitsWrite v _ => decide (1 ≤ v) && decide (v < 64)
  | .nxpJobWrite x _ => decide (x < 64)
  | .registerWrite f o n _ => decide (f < 64) && decide (o < 2 ^ 26) && decide (n ≤ 64)
  | .laneFail p l => decide (p < 18) && decide (l < 5)
  | .flitReceive p f _ => decide (p < 18) && decide (f.length ≤ 256)
  | .flitAckTimeout p | .portRetrain p | .portDown p | .portRetrained p _ => decide (p < 18)
  | .read p | .write p | .writeSignal p | .waymarkAdd p | .bulkPull p | .bulkWrite p | .response p | .e2eNak p => p.wf
  | .bulkCopy x d _ _ _ => x.wf && decide (d < 2)
  | .resendTimeout d _ => decide (d < 2)
  | .join m | .grant m | .heartbeat m | .membership m | .ready m | .commit m | .abandon m | .mirror m _ | .takeover m => m.wf
  | .memberFailed i => decide (i < 32768)
  | .scrub e o => e.wf && decide (o < 3)
  | .boot _ _ r _ => decide (1 ≤ r.step ∧ r.step ≤ 8)
  | .jtagInstruction (.shift n tdi) => decide (tdi < 2 ^ n)
  | .thermalSample t => decide (t.length = 60)
  | .meterSample c => decide (c.length = 5)
  | .getAttestation n => decide (n.length = 32)
  | .vfEnable c _ => c.wf
  | _ => true

end Sys2Proof
end

