-- ==== Sys2Proof/Machine/Ops.lean ====
section
/-! DEFINITION. The named operations over registers and memory that every command uses: record updates by number, the
local map and its checks (R172 to R178), reads and writes of memory (R174, R180, R193, R405), the error log (R406), the
crossing log (R27 to R29) and repair decisions (R415). -/

namespace Sys2Proof.Machine

/-! ## Updates by number -/

/-- Replaces logical core `c`. -/
def State.setCore (s : State) (c : Nat) (k : Core) : State := { s with cores := mset {} s.cores c k }
/-- Changes logical core `c`. -/
def State.modCore (s : State) (c : Nat) (f : Core → Core) : State := s.setCore c (f (s.core c))
/-- Replaces cluster `n`. -/
def State.setCluster (s : State) (n : Nat) (k : Cluster) : State := { s with clusters := mset {} s.clusters n k }
/-- Changes cluster `n`. -/
def State.modCluster (s : State) (n : Nat) (f : Cluster → Cluster) : State := s.setCluster n (f (s.cluster n))
/-- Changes the registers of context number `n`. -/
def State.modCreg (s : State) (n : Nat) (f : CtxRegs → CtxRegs) : State :=
  { s with ctxRegs := mset {} s.ctxRegs n (f (s.creg n)) }
/-- Replaces context `n`. -/
def State.setCtx (s : State) (n : Nat) (x : Ctx) : State := { s with ctxs := mput s.ctxs n x }
/-- Changes context `n`, if it exists. -/
def State.modCtx (s : State) (n : Nat) (f : Ctx → Ctx) : State :=
  match s.ctx n with
  | some x => s.setCtx n (f x)
  | none => s
/-- Replaces the graph in slot `g`. -/
def State.setGraph (s : State) (g : Nat) (x : Graph) : State :=
  { s with trh := { s.trh with graphs := mput s.trh.graphs g x } }
/-- Changes the graph in slot `g`, if unfinished. -/
def State.modGraph (s : State) (g : Nat) (f : Graph → Graph) : State :=
  match s.graph g with
  | some x => s.setGraph g (f x)
  | none => s
/-- Replaces task `i` of a graph. -/
def Graph.setTask (g : Graph) (i : Nat) (t : Task) : Graph := { g with tasks := mset {} g.tasks i t }
/-- Changes task `i` of the graph in slot `g`. -/
def State.modTask (s : State) (g i : Nat) (f : Task → Task) : State :=
  s.modGraph g (fun x => x.setTask i (f (x.task i)))
/-- Task `i` of the graph in slot `g`; an idle task where the slot is free. -/
def State.taskOf (s : State) (g i : Nat) : Task :=
  match s.graph g with
  | some x => x.task i
  | none => {}
/-- Changes function `f`. -/
def State.modFn (s : State) (f : Nat) (g : Fn → Fn) : State :=
  { s with pci := { s.pci with fns := mset {} s.pci.fns f (g (s.fnOf f)) } }
/-- Changes port `p`. -/
def State.modPort (s : State) (p : Nat) (f : Port → Port) : State :=
  { s with nxp := { s.nxp with ports := mset {} s.nxp.ports p (f (s.port p)) } }
/-- Changes ingest engine `e`. -/
def State.modEngine (s : State) (e : Nat) (f : Engine → Engine) : State :=
  if e = 0 then { s with ing0 := f s.ing0 } else { s with ing1 := f s.ing1 }
/-- Emits something at the device's boundary. -/
def State.emit (s : State) (e : Emit) : State := { s with out := e :: s.out }

/-! ## Numbering (Table 1.4) -/

/-- The cluster of a logical core. -/
def clusterOf (c : Nat) : Nat := c / 18
/-- The quadrant of a cluster (R16). -/
def quadrantOf (n : Nat) : Nat := 2 * b2n (decide (n / 6 ≥ 3)) + b2n (decide (n % 6 ≥ 3))
/-- Whether cluster `n` is retired (R19, R20). -/
def State.retired (s : State) (n : Nat) : Bool := bit s.repair.retired n
/-- SYS_CLUSTER_PRESENT (Table 1.6): the clusters in service. -/
def State.present (s : State) : Nat := total ((range 36).map (fun n => if s.retired n then 0 else 2 ^ n))
/-- The physical slots behind the logical cores of a cluster (R438). -/
def State.slotsOf (s : State) (n : Nat) : List Nat := mget (range 18) s.repair.slots n
/-- The physical site behind a logical core (Table 1.4). -/
def State.siteOf (s : State) (c : Nat) : Nat := clusterOf c * 19 + nth 0 (s.slotsOf (clusterOf c)) (c % 18)
/-- The column record of a site (Table 15.23). -/
def State.colRec (s : State) (site : Nat) : ColRec := mget {} s.repair.cols site
/-- CORE_ARRAY.WIDTH of a logical core (R74): 32 with at most one bad column, then one narrower for each. -/
def State.width (s : State) (c : Nat) : Nat := 33 - max 1 (min 3 (s.colRec (s.siteOf c)).count)
/-- Spare rows of a memory (Table 14.4). -/
def spareRows (memory : Nat) : Nat := match memory with | 0 => 8 | 1 => 4 | 2 => 16 | 3 => 192 | _ => 64

/-- A row-repair entry (Table 15.24). -/
def rowEntry (memory n slot row : Nat) : Nat := memory + 8 * n + 2 ^ 9 * slot + 2 ^ 14 * row

/-- Whether a memory of a site has more waiting rows than spare rows left, in the memory or in the map, which has room for 8,192
(Table 14.4, R438). -/
def State.rowsExhausted (s : State) (memory n slot : Nat) : Bool :=
  let used := (s.repair.rows.filter (fun x => decide (x % 2 ^ 14 = rowEntry memory n slot 0))).length
  let more := (s.repair.waiting.filter (fun d => match d with
    | .row m a b _ => decide (m = memory ∧ a = n ∧ b = slot)
    | _ => false)).length
  decide (more ≠ 0) && decide (spareRows memory < used + more ∨ 8192 < s.repair.rows.length + more)

/-- Whether a core retirement is pending on a logical core (R416): a decision for the core or a row of its array, or more rows of a
memory of it than it has spares. -/
def State.retiring (s : State) (c : Nat) : Bool :=
  let site := s.siteOf c
  s.repair.waiting.any (fun d => decide (d = .core site ∨ d = .arrayRow site))
    || (range 3).any (fun m => s.rowsExhausted m (site / 19) (site % 19))
/-- Whether a logical core is in service: its cluster is present and serves. -/
def State.inService (s : State) (c : Nat) : Bool :=
  decide (c < 648) && !s.retired (clusterOf c) && decide ((s.cluster (clusterOf c)).mode = .service)

/-! ## The local map (R172, R173) -/

/-- Regions of the local map, register space and what is unassigned (Table 6.1). -/
inductive Region where
  | hbm
  | slow
  | clusterStore
  | coreStore
  | registers
  | unassigned
  deriving DecidableEq, Repr

/-- The HBM region's size. -/
def hbmBytes : Nat := 0x009000000000
/-- The slow tier's first offset. -/
def slowBase : Nat := 0x010000000000
/-- The slow tier's end. -/
def slowEnd : Nat := 0x020000000000
/-- The first cluster store. -/
def clusterBase : Nat := 0xF00000000000
/-- The first core store. -/
def coreBase : Nat := 0xF10000000000

/-- The region of a local offset (Table 6.1). -/
def regionOf (o : Nat) : Region :=
  if o < hbmBytes then .hbm
  else if o < slowBase then .unassigned
  else if o < slowEnd then .slow
  else if o < clusterBase then .unassigned
  else if o < clusterBase + 36 * 0x2000000 then .clusterStore
  else if o < coreBase then .unassigned
  else if o < coreBase + 648 * 0x200000 then .coreStore
  else if o < 0xFF0000000000 then .unassigned
  else .registers

/-- Whether a region counts as a region of the local map (R172). -/
def Region.mapped : Region → Bool
  | .hbm | .slow | .clusterStore | .coreStore => true
  | _ => false

/-- Whether `[o, o + n)` lies within one region of the local map (R172). -/
def oneRegion (o n : Nat) : Bool :=
  (regionOf o).mapped && (n = 0 || (decide (regionOf (o + n - 1) = regionOf o) && decide (o + n ≤ 2 ^ 48)))

/-- The local offset of a global address. -/
def localOf (a : Nat) : Nat := a % 2 ^ 48
/-- Hall and identifier of a global address (R356), as bits [63:48]. -/
def deviceOf (a : Nat) : Nat := a / 2 ^ 48 % 65536
/-- Whether a global address names this device (R356, R358). -/
def State.isHere (s : State) (a : Nat) : Bool :=
  decide (deviceOf a % 32768 = 0x7FFF) ||
    (decide (s.nxp.device ≠ 0x7FFF) && decide (deviceOf a = s.nxp.device + 32768 * s.nxp.hall))

/-- The cluster whose store an offset names, and the offset within the store; none in an unassigned part (R173). -/
def storeOf (o : Nat) : Option (Nat × Nat) :=
  match regionOf o with
  | .clusterStore =>
    let r := o - clusterBase
    if r % 0x2000000 < 0x1800000 then some (r / 0x2000000, r % 0x2000000) else none
  | .coreStore => let r := o - coreBase; some (r / 0x200000 / 18, r % 0x200000)
  | _ => none

/-- The HBM stack of a physical offset (R197). -/
def State.stackOf (s : State) (pa : Nat) : Nat :=
  if s.hbm.ilv = 0 then 2 * (pa / 0x002400000000) + bits pa 12 12 else bits pa 14 12

/-- The Evile die of a slow-tier physical offset (Table 6.1). -/
def evileOf (pa : Nat) : Nat := if pa < 0x018000000000 then 0 else 1

/-- Whether a physical offset lies on a lost Evile die or an HBM stack out of service (Table 6.2). -/
def State.lostTarget (s : State) (pa : Nat) : Bool :=
  match regionOf pa with
  | .hbm => !bit s.hbm.service (s.stackOf pa)
  | .slow => s.evl.lost.contains (evileOf pa)
  | _ => false

/-- Whether a physical range of the HBM region meets the table area (R176). -/
def State.inTableArea (s : State) (pa n : Nat) : Bool :=
  (range 4).any (fun q =>
    let hi := (q + 1) * 0x002400000000
    decide (pa < hi) && decide (hi - s.hbm.tableGib / 4 * 2 ^ 30 < pa + n) && decide (0 < n))

/-- Bytes of a page of a size code (Table 6.3). -/
def pageBytes (size : Nat) : Nat := match size with | 0 => 0x10000 | 1 => 0x200000 | _ => 0x40000000

/-- Bytes that a run of pages maps. -/
def Page.bytes (p : Page) : Nat := p.count * pageBytes p.size

/-- The mapping of a virtual offset in a list of runs: the physical offset and the attribute word (R175). -/
def lookupPage : List Page → Nat → Option (Nat × Nat)
  | [], _ => none
  | p :: r, va => if p.va ≤ va ∧ va < p.va + p.bytes then some (p.pa + (va - p.va), p.attr) else lookupPage r va

/-- Entries of the translation pool (Table 6.16). -/
def State.poolSize (s : State) : Nat := (s.hbm.tableGib * 2 ^ 30 - 1280 * 2 ^ 20) / 16
/-- Entries of the pool in use: one for each mapped page (R465). -/
def State.poolUsed (s : State) : Nat := total (s.ctxs.map (fun e => total (e.2.pages.map Page.count)))

/-! ## Access checks (Table 6.2) -/

/-- On whose behalf an access is made: the context, the store grants that bound it (none: not checked), and the island that it comes
from, where one is known. -/
structure Who where
  ctx : Nat
  grants : Option (List (Nat × Nat))
  island : Option Nat
  deriving DecidableEq, Repr

/-- The result of checking one unit; `closed` names the crossing that does not serve. -/
inductive Acc where
  | ok (pa : Nat)
  | fail (code : Nat)
  | bad (pa : Nat)
  | closed (crossing : BitVec 24)
  | miss (va : Nat)
  deriving DecidableEq, Repr

/-- The data crossing, index 0, from one island into another (R24, log 76). -/
def crossingOf (a b : Nat) : BitVec 24 := BitVec.ofNat 24 (a * 65536 + b * 256)
/-- A crossing's ends (R24): the sending and the receiving domain. -/
def crossingEnds (x : BitVec 24) : Nat × Nat := (x.toNat / 65536, x.toNat / 256 % 256)

/-- The data crossing into a cluster from the mesh quadrant island of its quadrant (R20, R24). -/
def crossingInto (n : Nat) : BitVec 24 := crossingOf (0x24 + quadrantOf n) n

/-- The islands that an island's traffic passes on its way to the mesh, itself first: a companion die's link and its interface on the
compute die (Tables 1.1, 1.3 and 1.5). -/
def stem (i : Nat) : List Nat :=
  if i < 0x40 then [i]
  else
    let die := i / 4 % 2; let link := if i < 0x48 then 0x42 + 4 * die else 0x49 + 4 * die
    (if i = link then [i] else [i, link]) ++ [(if i < 0x48 then 0x30 else 0x32) + die]

/-- The quadrant whose island an island of the compute die meets, for traffic with quadrant `other` (R16, R17, R31): an interface has two
attachments, one in each half by row. -/
def entryQuad (i other : Nat) : Nat :=
  if i < 36 then quadrantOf i
  else if i < 0x28 then i - 0x24
  else if i < 0x30 then (i - 0x28) / 2
  else if i < 0x34 then 2 * (other / 2) + i % 2
  else match i with
    | 0x34 => 2
    | 0x35 => 1
    | 0x37 => 3
    | _ => 0

/-- The mesh quadrant islands between two quadrants: along a row, then along a column (R31). -/
def meshRoute (a b : Nat) : List Nat :=
  if a = b then [0x24 + a] else if a / 2 = b / 2 ∨ a % 2 = b % 2 then [0x24 + a, 0x24 + b] else [0x24 + a, 0x24 + (2 * (a / 2) + b % 2), 0x24 + b]

/-- The islands that a transfer between two islands passes, in order (R17, R31, log 76). -/
def route (a b : Nat) : List Nat :=
  let sa := stem a; let sb := stem b
  if sa.contains b then sa.takeWhile (fun i => decide (i ≠ b)) ++ [b]
  else if sb.contains a then ((sb.takeWhile (fun i => decide (i ≠ a))) ++ [a]).reverse
  else
    let ia := nth a sa (sa.length - 1); let ib := nth b sb (sb.length - 1)
    let qa := entryQuad ia (entryQuad ib 0)
    sa ++ meshRoute qa (entryQuad ib qa) ++ sb.reverse

/-- The data crossings along a route, a request's and its answer's. -/
def crossingsOf : List Nat → List (BitVec 24)
  | a :: b :: r => crossingOf a b :: crossingOf b a :: crossingsOf (b :: r)
  | _ => []

/-- Whether an island is that of a port die or its interface, whose accesses are another device's. -/
def portIsland (i : Nat) : Bool := decide (i = 0x30 ∨ i = 0x31) || decide (0x40 ≤ i ∧ i < 0x48)

/-- Whether the crossings into a cluster are closed: its island is off or under Roll Call (R28). -/
def State.clusterClosed (s : State) (n : Nat) : Bool := s.retired n || decide ((s.cluster n).mode ≠ .service)

/-- Whether a power domain is on (Table 1.5, R23): off where its block is retired, where the image disables it, and while the part has no
power or a cold reset is in progress. -/
def State.domainOn (s : State) (d : Nat) : Bool :=
  s.power.good &&
    (if d < 36 then !s.retired d
     else if d = 0x41 then !bit s.boot.image.flags 1
     else if d = 0x45 then !bit s.boot.image.flags 2
     else decide (d ≤ 0x38) || ([0x40, 0x42, 0x44, 0x46, 0x48, 0x49, 0x4C, 0x4D] : List Nat).contains d)

/-- Whether a crossing is closed: its receiving island is off or under Roll Call (R28). -/
def State.crossingShut (s : State) (x : BitVec 24) : Bool :=
  let n := (crossingEnds x).2
  !s.domainOn n || (decide (n < 36) && s.clusterClosed n)

/-- The crossing that does not serve a transfer from an island to island `t`: the one into a closed cluster (R20, R28), or the first
quarantined one of those that it and its answer pass (R29); of an issuer of no known island only the last into a cluster counts. -/
def State.barred (s : State) (from_ : Option Nat) (t : Nat) : Option (BitVec 24) :=
  if t < 36 ∧ s.clusterClosed t then some (crossingInto t)
  else if s.sys.quarantine = [] then none
  else match from_ with
    | some i => (crossingsOf (route i t)).find? (fun x => s.sys.quarantine.contains x)
    | none => if t < 36 ∧ s.sys.quarantine.contains (crossingInto t) then some (crossingInto t) else none

/-- The island that holds a physical offset of memory (Table 1.5): an HBM controller, an Evile die's LPDDR5X controllers, a cluster. -/
def State.islandOf (s : State) (pa : Nat) : Nat :=
  match regionOf pa with
  | .hbm => 0x28 + s.stackOf pa
  | .slow => 0x48 + 4 * evileOf pa
  | _ => ((storeOf pa).map Prod.fst).getD 0

/-- A transfer that its checks let through, unless a crossing on its way does not serve (R28, R29). -/
def State.cross (s : State) (w : Who) (pa : Nat) : Acc :=
  match s.barred w.island (s.islandOf pa) with
  | some x => .closed x
  | none => .ok pa

/-- The physical offset that a context's mapping gives an offset of HBM or the slow tier, rows 5 and 6 of Table 6.2. -/
def State.mapped (s : State) (x o : Nat) (store : Bool) : Acc :=
  match (s.ctx x).bind (fun c => lookupPage c.pages o) with
  | none => .miss o
  | some (pa, attr) => if bit attr (b2n store) then .ok pa else .fail 0x402

/-- The check of one unit at a local offset, first row of Table 6.2 that applies; for another device's access Table 12.7, which has no row
for a retired cluster. A unit that passes gives its physical offset, if its crossings serve. -/
def State.check (s : State) (w : Who) (o : Nat) (store : Bool) : Acc :=
  match regionOf o with
  | .unassigned | .registers => .fail 0x402
  | .clusterStore | .coreStore =>
    match storeOf o with
    | none => .fail 0x402
    | some (n, _) =>
      if s.retired n && !(w.island.map portIsland).getD false then .closed (crossingInto n)
      else if (w.grants.map (fun gs => gs.any (fun g => decide (g.1 ≤ o ∧ o < g.1 + g.2)))).getD true then s.cross w o
      else .fail 0x402
  | _ =>
    match s.mapped w.ctx o store with
    | .ok pa => if s.lostTarget pa then .fail 0x405 else s.cross w pa
    | a => a

/-- Cuts `[o, o + n)` at multiples of 256 (R174); `fuel` bounds the pieces. -/
def unitsOf : Nat → Nat → Nat → List (Nat × Nat)
  | 0, _, _ => []
  | k + 1, o, n =>
    if n = 0 then [] else let m := min n (256 - o % 256); (o, m) :: unitsOf k (o + m) (n - m)

/-- The units that a range of a local offset meets: start and length of each part. -/
def units (o n : Nat) : List (Nat × Nat) := unitsOf (n / 256 + 2) o n

/-! ## Physical reads and writes -/

/-- What a byte that nothing has written reads as (log 3). -/
def memDefault : Byte := 0

/-- What an unlisted byte at a physical offset reads as: a free byte of HBM after a change of its mode (R198), else what nothing has
written reads as. -/
def Hbm.unlisted (h : Hbm) (pa : Nat) : Byte :=
  match h.undef with
  | some t => if pa < hbmBytes then Config.freeByte t pa else memDefault
  | none => memDefault

/-- The canonical form of memory: addresses strictly rising, no entry equal to what an unlisted address reads as. -/
def Memory.wf (d : Nat → Byte) (m : List Host.Cell) : Bool := mwfBy d 0 m

/-- The byte at a physical offset. -/
def State.byteAt (s : State) (pa : Nat) : Byte := mget (s.hbm.unlisted pa) s.mem pa

/-- Bytes of a protected word at a physical offset (R405). -/
def wordBytes (pa : Nat) : Nat := if pa < hbmBytes then 32 else 8

/-- Whether `[pa, pa + n)` meets an uncorrectable word (R405). -/
def State.uncorrectable (s : State) (pa n : Nat) : Bool :=
  s.bad.any (fun b => decide (b < pa + n) && decide (pa < b + wordBytes b) && decide (0 < n))

/-- Whether a write of `[pa, pa + n)` merges into an uncorrectable word: it covers only part of one (R405). -/
def State.mergesBad (s : State) (pa n : Nat) : Bool :=
  s.bad.any (fun b => decide (b < pa + n) && decide (pa < b + wordBytes b) && decide (0 < n)
    && !(decide (pa ≤ b) && decide (b + wordBytes b ≤ pa + n)))

/-- Discards the coalescer's units that a write meets (R194). -/
def Cluster.dropHeld (k : Cluster) (pa n : Nat) : Cluster :=
  { k with held := k.held.filter (fun h => !(decide (h.unit < pa + n) && decide (pa < h.unit + 256))) }

/-- Writes bytes at a physical offset: memory, the words made good (R405), the coalescer's units (R194). -/
def State.put (s : State) (pa : Nat) (bs : List Byte) : State :=
  { s with
    mem := mwriteBy s.hbm.unlisted s.mem pa bs
    bad := s.bad.filter (fun b => !(decide (pa ≤ b) && decide (b + wordBytes b ≤ pa + bs.length)))
    clusters := (s.clusters.map (fun e => (e.1, e.2.dropHeld pa bs.length))).filter (fun e => decide (e.2 ≠ {})) }

/-- Reads bytes at a physical offset. -/
def State.get (s : State) (pa n : Nat) : List Byte := mreadBy s.hbm.unlisted s.mem pa n

/-! ## Reads and writes by local offset -/

/-- The result of a read. -/
inductive Rd where
  | data (bs : List Byte)
  | stop (a : Acc)
  deriving DecidableEq, Repr

/-- Reads the units of a range in order and stops at the first that fails (R174). -/
def State.readUnits (s : State) (w : Who) : List (Nat × Nat) → Rd
  | [] => .data []
  | (o, n) :: r =>
    match s.check w o false with
    | .ok pa =>
      if s.uncorrectable pa n then .stop (.bad pa)
      else match s.readUnits w r with
        | .data bs => .data (s.get pa n ++ bs)
        | x => x
    | a => .stop a

/-- Reads `n` bytes at a local offset. -/
def State.read (s : State) (w : Who) (o n : Nat) : Rd := s.readUnits w (units o n)

/-- Writes the units of a range in order and stops at the first that fails; the units before it stay written (R174). -/
def State.writeUnits (s : State) (w : Who) (bs : List Byte) : List (Nat × Nat) → State × Option Acc
  | [] => (s, none)
  | (o, n) :: r =>
    match s.check w o true with
    | .ok pa =>
      if s.mergesBad pa n then (s, some (.bad pa))
      else (s.put pa (bs.take n)).writeUnits w (bs.drop n) r
    | a => (s, some a)

/-- Writes bytes at a local offset. -/
def State.write (s : State) (w : Who) (o : Nat) (bs : List Byte) : State × Option Acc :=
  s.writeUnits w bs (units o bs.length)

/-! ## The error log, crossings and repairs -/

/-- Appends an entry to the error log (R406, Table 14.10). -/
def ErrLog.push (l : ErrLog) (e : ErrEntry) : ErrLog :=
  let rd := if l.full then (l.rd + 1) % 4096 else l.rd
  let wr := (l.wr + 1) % 4096
  { l with
    entries := mset {} l.entries l.wr e
    rd := rd
    ovf := if l.full then satAdd 32 l.ovf 1 else l.ovf
    wr := wr
    full := decide (wr = rd) }

/-- The status code in a log entry of an event for which the spec names none, by source kind: free, but of no reserved range (R345,
Table 14.2, log 27). -/
def eventCode (kind : Nat) : Nat := Config.eventCode kind % 0x0B00

/-- Logs an event (Table 14.2). -/
def State.log (s : State) (code kind : Nat) (ctx : Option Nat) (closed : Bool) (source detail : Nat) : State :=
  let c := match ctx with | some x => x + 64 | none => 0
  let e : ErrEntry := ⟨s.sys.time, code, kind, c + 128 * b2n closed, source, detail, 1⟩
  { s with sys := { s.sys with log := s.sys.log.push e } }

/-- Logs a corrected error, merging it with an entry of the same location of the second before (R406). -/
def State.logCorrected (s : State) (kind source detail : Nat) : State :=
  let same (e : Nat × ErrEntry) : Bool := e.2.code = eventCode kind && e.2.kind = kind && e.2.source = source
    && e.2.detail = detail && decide (s.sys.time ≤ e.2.time + 1000000000)
  match s.sys.log.entries.find? same with
  | some (i, e) =>
    { s with sys := { s.sys with log := { s.sys.log with
      entries := mset {} s.sys.log.entries i { e with count := satAdd 32 e.count 1 } } } }
  | none => s.log (eventCode kind) kind none false source detail

/-- Records a crossing timeout (R27, R28): SYS_CDC_LOG, SYS_CDC_COUNT and the error log; an open crossing is quarantined
(R29). -/
def State.cdc (s : State) (x : BitVec 24) (closed : Bool) (ctx : Option Nat) : State :=
  let log : CdcLog := if s.sys.cdc.valid then s.sys.cdc else ⟨x, closed, true⟩
  let s := { s with sys := { s.sys with
    cdc := log
    cdcCount := satAdd 32 s.sys.cdcCount 1
    quarantine := if closed ∨ s.sys.quarantine.contains x then s.sys.quarantine else s.sys.quarantine ++ [x] } }
  s.log 0x702 6 ctx closed x.toNat x.toNat

/-- The kind and source of a log entry for a physical offset (Table 14.2). -/
def State.placeOf (s : State) (pa : Nat) : Nat × Nat :=
  match regionOf pa with
  | .hbm => (1, s.stackOf pa)
  | .slow => (2, evileOf pa)
  | .coreStore => (0, s.siteOf ((pa - coreBase) / 0x200000))
  | _ => (0, (pa - clusterBase) / 0x2000000)

/-- A repair decision waits for its event (R416); a decision made already is not made twice, and each is logged. -/
def State.addDecision (s : State) (d : Decision) : State :=
  if s.repair.waiting.contains d then s
  else
    let src := match d with
      | .column site _ => site
      | .row _ n _ _ => n
      | .core site | .arrayRow site => site
      | .hbmRow e => e % 8
    let s := s.log (eventCode 7) 7 none false src (Config.eventDetail 7 s.tick)
    { s with repair := { s.repair with waiting := s.repair.waiting ++ [d] } }

/-- Records a memory location for repair (R415): a row of HBM, of a core store or of a cluster store; the slow tier has
no spare in Table 14.4. -/
def State.recordPa (s : State) (pa : Nat) : State :=
  match regionOf pa with
  | .hbm => s.addDecision (.hbmRow (s.stackOf pa + 16 * (Config.hbmPlace pa % 2 ^ 28)))
  | .coreStore =>
    let c := (pa - coreBase) / 0x200000
    s.addDecision (.row 2 (clusterOf c) (s.siteOf c % 19) ((pa - coreBase) % 0x200000 / 1024))
  | .clusterStore => s.addDecision (.row 3 ((pa - clusterBase) / 0x2000000) 0 ((pa - clusterBase) % 0x2000000 / 1024))
  | _ => s

/-- The status code of a failed access. -/
def Acc.code : Acc → Nat
  | .ok _ => 0
  | .fail c => c
  | .bad _ => 0x701
  | .closed _ => 0x702
  | .miss _ => 0x401

/-- The marks that a failed access leaves: a crossing timeout is recorded, with the closed flag unless the crossing is open and
quarantined (R28, R29); an uncorrectable word is logged and its location recorded for repair (R405, R415). -/
def State.markAcc (s : State) (w : Who) (a : Acc) : State :=
  match a with
  | .closed x => s.cdc x (s.crossingShut x) (some w.ctx)
  | .bad pa => (s.log 0x701 (s.placeOf pa).1 (some w.ctx) false (s.placeOf pa).2 pa).recordPa pa
  | _ => s

/-- The next index of a free value. -/
def State.advance (s : State) : State := { s with tick := s.tick + 1 }

/-- `n` bytes that the spec does not state (log 5). -/
def State.freeBytes (s : State) (n : Nat) : List Byte := (range n).map (Config.freeByte s.tick)

/-- Whether a request stands in the queue of HBM controller `n`: a new request on its way (R183, R194, R200). -/
def State.queues (s : State) (n : Nat) (q : Req) : Bool :=
  decide (q.st = .sent) && !q.merged && q.served.isNone && decide (q.scope ≤ 1) && decide (regionOf q.pa = .hbm)
    && decide (s.stackOf q.pa = n)

/-- Requests in the queue of HBM controller `n` (R200). -/
def State.queuedAt (s : State) (n : Nat) : Nat :=
  total (s.cores.map (fun (e : Nat × Core) => (e.2.ramb.reqs.filter (s.queues n)).length))

/-- A controller's queue at this moment, and whether it has sent stop: from 1,536 entries until it falls below 1,280 (R200). -/
def Hbm.queue (h : Hbm) (n len : Nat) : Hbm :=
  let on := if 1536 ≤ len then true else if len < 1280 then false else bit h.stopped n
  { h with
    occupancy := mset 0 h.occupancy n (min 2048 len)
    stopped := h.stopped - 2 ^ n * b2n (bit h.stopped n) + 2 ^ n * b2n on }

/-- The controllers' queues as the cores' requests now stand (R200, Table 6.14). -/
def State.countQueues (s : State) : State := { s with hbm := (range 8).foldl (fun h n => h.queue n (s.queuedAt n)) s.hbm }

/-- Whether the HBM controller of a physical offset has sent stop (R200). -/
def State.stoppedAt (s : State) (pa : Nat) : Bool := decide (regionOf pa = .hbm) && bit s.hbm.stopped (s.stackOf pa)

/-- Whether an access to ranges of this device is held back at its cluster port: an HBM controller that it needs has sent stop (R200). -/
def State.heldBack (s : State) (w : Who) (store : Bool) (l : List (Nat × Nat)) : Bool :=
  decide (s.hbm.stopped ≠ 0) && l.any (fun p => s.isHere p.1 && (units (localOf p.1) p.2).any (fun q =>
    match s.check w q.1 store with
    | .ok pa => s.stoppedAt pa
    | _ => false))

/-- A request held back at its cluster port goes once its controller has sent go (R200). -/
def State.goReq (s : State) (q : Req) : Req := if q.st = .held ∧ s.stoppedAt q.pa = false then { q with st := .sent } else q

/-- The controllers' queues, then the requests that a go lets through (R200). -/
def State.settleQueues (s : State) : State :=
  let s := s.countQueues
  let held := s.cores.any (fun (e : Nat × Core) => e.2.ramb.reqs.any (fun q => decide (q.st = .held)))
  if held then
    State.countQueues { s with cores := s.cores.map (fun (e : Nat × Core) =>
      (e.1, { e.2 with ramb := { e.2.ramb with reqs := e.2.ramb.reqs.map s.goReq } })) }
  else s

/-- One nanosecond passes on an empty queue (log 2): SYS_TIME counts unless the thermal stop holds every clock (Table 14.9,
R448), and each stopped HBM controller counts its stopped time (R200, Table 6.14). -/
def State.passNs (s : State) : State :=
  if s.power.stopped then s
  else
    { s with
      sys := { s.sys with time := wrapAdd 64 s.sys.time 1 }
      hbm := { s.hbm with stopNs := (range 8).foldl (fun m n =>
        if bit s.hbm.stopped n then mset 0 m n (wrapAdd 48 (mget 0 m n) 1) else m) s.hbm.stopNs } }

/-! ## Stores that a core has not had acknowledged (R182, R190) -/

/-- The bytes of a store as they lie over the old last byte: only its low bits are written where the element ends inside it
(R118). -/
def mergeLast (m : Nat) (old : Byte) (bs : List Byte) : List Byte :=
  if m = 0 then bs
  else
    let k := BitVec.ofNat 8 (2 ^ m - 1)
    upd bs (bs.length - 1) (fun b => (b &&& k) ||| (old &&& ~~~k))

/-- A store on this device takes effect. -/
def State.landStore (s : State) (q : Req) : State :=
  s.put q.pa (mergeLast q.low (s.byteAt (q.pa + q.data.length - 1)) q.data)

/-- A request is a store on this device. -/
def Req.localStore (q : Req) : Bool := !q.load && decide (q.scope ≤ 1)

/-- Every store on this device that a core has not had acknowledged takes effect, oldest first. -/
def State.flushStores (s : State) (c : Nat) : State := ((s.core c).ramb.reqs.filter Req.localStore).foldl State.landStore s

/-- Bytes of a physical range with a store laid over them. -/
def Req.over (q : Req) (pa : Nat) (bs : List Byte) : List Byte :=
  bs.mapIdx (fun i b =>
    if q.pa ≤ pa + i ∧ pa + i < q.pa + q.data.length then
      let k := pa + i - q.pa
      if k + 1 = q.data.length then (mergeLast q.low b [nth 0 q.data k]).headD 0 else nth 0 q.data k
    else b)

/-- What a core reads at a physical range: memory with its own stores, in program order, laid over it (R190). -/
def State.ownGet (s : State) (c pa n : Nat) : List Byte :=
  ((s.core c).ramb.reqs.filter Req.localStore).foldl (fun bs q => q.over pa bs) (s.get pa n)

end Sys2Proof.Machine
end

