-- ==== Sys2Proof/Machine/Replies.lean ====
section
/-! DEFINITION. Status replies and completion rings (R323 to R334): writing, holding and discarding replies, EVENTS_LOST,
MSI-X, and the end of a host command. -/

namespace Sys2Proof.Machine

/-- Whether a status code is informational (Tables 5.9, 8.10, 9.6, 10.8, 11.13, 12.11, 13.4, 14.8, 15.13). -/
def informational (c : Nat) : Bool :=
  [0x0001, 0x0207, 0x0403, 0x0506, 0x0601, 0x0602, 0x0704, 0x070A, 0x0805, 0x0901, 0x0A05, 0x0A06].contains c

/-- Whether an operation that returns this code has completed (R13). -/
def succeeded (c : Nat) : Bool := decide (c = 0) || informational c

/-- Completion ring `q` of a function. -/
def Fn.cqOf (f : Fn) (q : Nat) : CQueue := mget {} f.cq q
/-- Command ring `r` of a function. -/
def Fn.crOf (f : Fn) (r : Nat) : CRing := mget {} f.cr r
/-- Changes completion ring `q` of function `f`. -/
def State.modCq (s : State) (f q : Nat) (g : CQueue → CQueue) : State :=
  s.modFn f (fun x => { x with cq := mset {} x.cq q (g (x.cqOf q)) })
/-- Changes command ring `r` of function `f`. -/
def State.modCr (s : State) (f r : Nat) (g : CRing → CRing) : State :=
  s.modFn f (fun x => { x with cr := mset {} x.cr r (g (x.crOf r)) })

/-- Whether a completion ring is full (R327). -/
def CQueue.isFull (q : CQueue) : Bool := decide ((q.tail + 1) % 2 ^ q.log2 = q.head)

/-- The bytes of a reply with the ring's pass value (Table 11.7). -/
def Reply.bytes (r : Reply) (phase : Bool) : List Byte :=
  toBytes 4 r.tag ++ toBytes 2 r.status ++ toBytes 1 r.opcode ++ toBytes 1 (r.ctx + 128 * b2n phase)
    ++ toBytes 4 r.kind ++ slice r.result 0 20

/-- Writes bytes where a ring lies: host memory, or a physical offset of HBM (R324). -/
def State.ringWrite (s : State) (loc : Bool) (a : Nat) (bs : List Byte) : State :=
  if loc then s.put a bs else { s with hostMem := mwrite memDefault s.hostMem a bs }

/-- A field of entry `v` of a function's MSI-X table. -/
def Fn.vectorField (x : Fn) (v o n : Nat) : Nat := fromBytes (mread 0 x.msix (16 * v + o) n)

/-- Whether the function mask or the vector's own mask holds its messages back (R329). -/
def Fn.vectorMasked (x : Fn) (v : Nat) : Bool := x.msixMask || bit (x.vectorField v 12 4) 0

/-- Sends a vector's message. -/
def State.sendMsix (s : State) (f v : Nat) : State :=
  s.emit (.msix f v ((s.fnOf f).vectorField v 0 8) ((s.fnOf f).vectorField v 8 4))

/-- Signals a completion ring's vector, by the PCIe MSI-X rules (R329): a message; its pending bit where the vector or the function is
masked; nothing while MSI-X Enable is 0. -/
def State.signal (s : State) (f q : Nat) : State :=
  let x := s.fnOf f
  let v := (x.cqOf q).vector
  let s := s.modCq f q (fun c => { c with unsignalled := 0 })
  if !x.msixOn then s
  else if x.vectorMasked v then s.modFn f (fun y => { y with pba := y.pba ||| 2 ^ v })
  else s.sendMsix f v

/-- Sends the message of every vector of a function that is pending and no longer masked (R329). -/
def State.sendPending (s : State) (f : Nat) : State :=
  (range 4).foldl (fun (s : State) v =>
    let x := s.fnOf f
    if x.msixOn && bit x.pba v && !x.vectorMasked v then
      (s.sendMsix f v).modFn f (fun y => { y with pba := y.pba &&& (15 - 2 ^ v) })
    else s) s

/-- Discards a reply and counts it (R327). -/
def State.discardReply (s : State) (f q : Nat) : State :=
  (s.modCq f q (fun c => { c with lost := satAdd 32 c.lost 1 })).modFn f
    (fun x => { x with eventsLost := satAdd 32 x.eventsLost 1 })

/-- Whether a ring's entry in HBM can be reached: inside the region, on a stack in service, without an uncorrectable word, and behind
crossings that serve (R29, R324). -/
def State.ringHolds (s : State) (a n : Nat) : Bool := decide (a + n ≤ hbmBytes) && !s.lostTarget a && !s.uncorrectable a n
  && (s.barred (some 0x34) (s.islandOf a)).isNone

/-- Whether the write of the next entry of a function's ring fails: HBM does not hold it, or in host memory it lies past the end of the
64-bit PCIe address space or fails on the link, which is free (log 65). -/
def State.entryLost (s : State) (f q : Nat) (c : CQueue) : Bool :=
  if c.loc then !s.ringHolds (c.base + 32 * c.tail) 32
  else decide (2 ^ 64 < c.base + 32 * c.tail + 32) || Config.linkFails f q c.serial

/-- Writes one reply at a ring's TAIL and advances it; the pass value changes at the end of a pass (R328); the vector is
signalled when COUNT is reached or DELAY is 0 (R329). A write that fails stops the ring, which
discards that reply and all it holds (R327). -/
def State.writeReply (s : State) (f q : Nat) (r : Reply) : State :=
  let c := (s.fnOf f).cqOf q
  if s.entryLost f q c then
    (r :: c.held).foldl (fun (s : State) _ => s.discardReply f q) (s.modCq f q (fun c => { c with error := true, held := [], serial := c.serial + 1 }))
  else
  let s := s.ringWrite c.loc (c.base + 32 * c.tail) (r.bytes c.phase)
  let t := (c.tail + 1) % 2 ^ c.log2
  let s := s.modCq f q (fun c => { c with
    tail := t
    phase := if t = 0 then !c.phase else c.phase
    unsignalled := c.unsignalled + 1
    serial := c.serial + b2n (!c.loc) })
  if max 1 c.count ≤ c.unsignalled + 1 ∨ c.delay = 0 then s.signal f q else s

/-- The EVENTS_LOST reply (R327, Table 11.10). -/
def lostReply (n : Nat) : Reply := ⟨0, 1, 0, 0, 3, toBytes 4 (min n 0xFFFFFFFF), 0⟩

/-- Writes what a ring holds while it has room: first EVENTS_LOST if replies were discarded, then the held replies in
order (R327). -/
def State.drainCq (s : State) (f q : Nat) : Nat → State
  | 0 => s
  | k + 1 =>
    let c := (s.fnOf f).cqOf q
    if !c.enable || c.error || c.isFull then s
    else if c.lost ≠ 0 then
      let t := s.writeReply f q (lostReply c.lost)
      (if ((t.fnOf f).cqOf q).error then t else t.modCq f q (fun c => { c with lost := 0 })).drainCq f q k
    else
      match c.held with
      | [] => s
      | r :: rest => ((s.modCq f q (fun c => { c with held := rest })).writeReply f q r).drainCq f q k

/-- Posts a reply: written, held while the ring is full, or discarded (R327). -/
def State.post (s : State) (f q : Nat) (r : Reply) : State :=
  let c := (s.fnOf f).cqOf q
  if !c.enable || c.error then s.discardReply f q
  else if c.isFull ∨ c.held ≠ [] ∨ c.lost ≠ 0 then
    if 2 ≤ r.kind ∧ 256 ≤ (c.held.filter (fun h => decide (2 ≤ h.kind))).length then s.discardReply f q
    else (s.modCq f q (fun c => { c with held := c.held ++ [r] })).drainCq f q (c.held.length + 2)
  else s.writeReply f q r

/-- Posts an event to the ring that CTX_CREATE named for the context (R334). -/
def State.event (s : State) (x code : Nat) (result : List Byte) : State :=
  match s.ctx x with
  | some c => s.post c.fn c.eventCq ⟨0, code, 0, x, 3, result, 0⟩
  | none => s

/-- Posts an event to the PF's event ring NXP_CTL.EVENT_CQ with context 0 (R379, R417). -/
def State.pfEvent (s : State) (code : Nat) (result : List Byte) : State :=
  s.post 0 s.nxp.eventCq ⟨0, code, 0, 0, 3, result, 0⟩

/-- FABRIC_CHANGE: kind, port or die, identifier with its hall (R379). -/
def State.fabricChange (s : State) (kind item ident : Nat) : State :=
  s.pfEvent 0x506 (toBytes 1 kind ++ toBytes 1 item ++ toBytes 2 ident)

/-- The header of a packet that function `f`'s command ring `r` has begun (Table 11.5). -/
def packetCmd (f r : Nat) (p : List Byte) : Cmd := ⟨f, r, field p 4 4, bit (field p 1 1) 0, field p 2 1 % 64⟩

/-- Whether an entry of a ring's begun list is the command of header `h` and opcode `op`. -/
def Begun.matches_ (h : Cmd) (op : Nat) (b : Begun) : Bool := decide (b.opcode = op ∧ packetCmd h.fn h.ring b.packet = h)

/-- Changes the first entry that satisfies `p`. -/
def markFirst (p : Begun → Bool) (g : Begun → Begun) : List Begun → List Begun
  | [] => []
  | b :: l => if p b then g b :: l else b :: markFirst p g l

/-- Takes a command off a list of begun ones, one that has acted before one that has not. -/
def takeBegun (h : Cmd) (op : Nat) (l : List Begun) : List Begun :=
  let gone := fun (b : Begun) => b.matches_ h op && b.acted
  if l.any gone then l.eraseP gone else l.eraseP (Begun.matches_ h op)

/-- Takes the command off the list of those its ring has begun (R332). -/
def State.endBegun (s : State) (h : Cmd) (opcode : Nat) : State :=
  s.modCr h.fn h.ring (fun c => { c with begun := takeBegun h opcode c.begun })

/-- The end of a host command: its reply, which NOREPLY suppresses only on success (R330, R331). -/
def State.finish (s : State) (h : Cmd) (opcode code : Nat) (result : List Byte) : State :=
  let s := s.endBegun h opcode
  if h.noReply && succeeded code then s
  else
    s.post h.fn ((s.fnOf h.fn).crOf h.ring).cq ⟨h.tag, code, opcode, h.ctx, 0, result, h.ring⟩

/-- Counts a failed access of a function (Table 11.21). -/
def State.badAccess (s : State) (f : Nat) : State := s.modFn f (fun x => { x with badAccess := satAdd 16 x.badAccess 1 })

/-- A read completes with Unsupported Request, which AER records (R317, R320, R322). -/
def State.unsupported (s : State) (f : Nat) : State := (s.modFn f (fun x => { x with aer := x.aer ||| 2 ^ 20 })).emit (.barUr f)

end Sys2Proof.Machine
end

