-- ==== Sys2Proof/Machine/Net.lean ====
section
/-! DEFINITION. The sending side of Nunex (R350 to R365): ports, flits, tags, streams, requests and answers. -/

namespace Sys2Proof.Machine

/-- Whether a port carries traffic: up on 4 or on 3 lanes (Table 12.15). -/
def Port.serves (p : Port) : Bool := decide (p.state = 1 ∨ p.state = 2)

/-- The ports of a port die (R347). -/
def portsOf (die : Nat) : List Nat := (range 9).map (fun i => 9 * die + i)

/-- A port whose link layer holds nothing. -/
def Port.emptied (p : Port) : Port := { p with unacked := [], tx := [], starts := [], used := [], owed := [], rx := [], nakDue := false }

/-- The whole payloads that wait in a port. -/
def Port.waiting (p : Port) : Nat := total ((range 4).map (fun v => (mget [] p.tx v).length / 244))

/-- The flits queued in a port: those not acknowledged and the whole payloads that wait (R363). -/
def Port.queued (p : Port) : Nat := p.unacked.length + p.waiting

/-- The port that a packet is sent over, of those of a die that are in service and that a test accepts: fewest flits queued, lowest
number on a tie (R363). -/
def State.choosePortIf (s : State) (die : Nat) (ok : Nat → Bool) : Option Nat :=
  ((portsOf die).filter (fun p => (s.port p).serves && ok p)).foldl
    (fun b p => match b with
      | none => some p
      | some q => if (s.port p).queued < (s.port q).queued then some p else some q) none

/-- The port of a die that a packet is sent over (R363). -/
def State.choosePort (s : State) (die : Nat) : Option Nat := s.choosePortIf die (fun _ => true)

/-- The port that a packet is sent again over: another one than before if one is in service (R365). -/
def State.otherPort (s : State) (die before : Nat) : Option Nat :=
  (s.choosePortIf die (fun p => decide (p ≠ before))).or (s.choosePort die)

/-- The die that an agent's traffic leaves by: its own, or the other one if its own has no port in service (R363, R365,
R371). -/
def State.sendDie (s : State) (die : Nat) : Option Nat :=
  if (s.choosePort die).isSome then some die
  else if (s.choosePort (1 - die)).isSome then some (1 - die)
  else none

/-- The port die of a logical core's column (R363). -/
def dieOfCluster (n : Nat) : Nat := if n % 6 < 3 then 0 else 1

/-- The virtual channel of a packet (Table 12.5). -/
def vcOf (op : Nat) : Nat := match op with | 4 | 0x10 => 0 | 6 => 3 | 8 | 9 => 2 | _ => 1

/-- The bytes of a packet (Table 12.6). -/
def packetBytes (p : Packet) : List Byte :=
  toBytes 1 p.op ++ toBytes 1 p.flags ++ toBytes 2 p.src ++ toBytes 2 p.dst ++ toBytes 2 p.epoch ++ toBytes 2 p.sseq
    ++ toBytes 2 p.tag ++ toBytes 2 p.job ++ toBytes 2 p.length ++ toBytes 8 p.addr ++ p.data

/-- One step of CRC-32 of IEEE 802.3, reflected, over 8 bits; `fuel` counts the bits. -/
def crcBits : Nat → Nat → Nat
  | 0, c => c
  | k + 1, c => crcBits k (if c % 2 = 1 then (c / 2) ^^^ 0xEDB88320 else c / 2)

/-- CRC-32 of IEEE 802.3 over bytes (Table 12.2). -/
def crc32 (bs : List Byte) : Nat := (bs.foldl (fun c b => crcBits 8 (c ^^^ b.toNat)) 0xFFFFFFFF) ^^^ 0xFFFFFFFF

/-- A flit of a channel's payload (Table 12.2); `back` is CVC + 4 × CREDITS, and `start` the offset of its first packet start in
4-byte units. -/
def flitBytes (seq ack : Nat) (nak : Bool) (vc back start : Nat) (payload : List Byte) : List Byte :=
  let b := toBytes 8 (seq + 2 ^ 12 * ack + 2 ^ 24 * b2n nak + 2 ^ 25 * vc + 2 ^ 27 * back + 2 ^ 41 * start) ++ slice payload 0 244
  b ++ toBytes 4 (crc32 b)

/-- Whether a flit of channel `v` can go (R350, R352, R354): its payload is full (log 23), fewer than 4,095 flits are unacknowledged,
and the far end has a buffer free. -/
def Port.canSend (p : Port) (v : Nat) : Bool :=
  decide (244 ≤ (mget [] p.tx v).length) && decide (p.unacked.length < 4095) && decide (mget 0 p.used v < Config.flitBuffers v)

/-- The channel whose flit goes next: VC0 ahead of the others, which take turns (R354). -/
def Port.nextChannel (p : Port) : Option Nat :=
  if p.canSend 0 then some 0 else ((range 3).map (fun k => (p.turn + k) % 3 + 1)).find? p.canSend

/-- Sends one flit of channel `v`, with the NAK that is due and the credits owed of one channel, into the replay buffer (R350, R352, R354). -/
def Port.sendFlit (p : Port) (v : Nat) : Port :=
  let starts := mget [] p.starts v
  let first := ((starts.find? (fun o => decide (o < 244))).map (· / 4)).getD 0xFF
  let cvc := ((range 4).find? (fun c => decide (mget 0 p.owed c ≠ 0))).getD 0
  let credits := min (mget 0 p.owed cvc) 4095
  { p with
    unacked := p.unacked ++ [(p.txSeq, flitBytes p.txSeq ((p.rxSeq + 4095) % 4096) p.nakDue v (cvc + 4 * credits) first (mget [] p.tx v))]
    nakDue := false
    txSeq := (p.txSeq + 1) % 4096
    tx := mset [] p.tx v ((mget [] p.tx v).drop 244)
    starts := mset [] p.starts v ((starts.filter (fun o => decide (244 ≤ o))).map (· - 244))
    used := mset 0 p.used v (mget 0 p.used v + 1)
    owed := mset 0 p.owed cvc (mget 0 p.owed cvc - credits)
    turn := if v = 0 then p.turn else v % 3 }

/-- Sends flits while any can go; `fuel` bounds their number. -/
def Port.sendFlits : Nat → Port → Port
  | 0, p => p
  | k + 1, p => match p.nextChannel with | none => p | some v => (p.sendFlit v).sendFlits k

/-- Sends the flits that can go. -/
def Port.pump (p : Port) : Port := p.sendFlits p.waiting

/-- Puts a packet behind its channel's earlier packets, without a gap, and sends the flits that can go (R350). -/
def Port.send (p : Port) (k : Packet) : Port :=
  let v := vcOf k.op
  let old := mget [] p.tx v
  Port.pump { p with tx := mset [] p.tx v (old ++ packetBytes k), starts := mset [] p.starts v (mget [] p.starts v ++ [old.length]) }

/-- Sends a packet over a port, if there is one. -/
def State.transmitOver (s : State) (port : Option Nat) (k : Packet) : State :=
  match port with
  | some p => (s.modPort p (fun x => x.send k)).emit (.packet p k)
  | none => s

/-- Sends a packet over a port of a die that has one in service. -/
def State.transmit (s : State) (k : Packet) : State := s.transmitOver (s.choosePort k.die) k

/-- This device's identifier with its hall (R356). -/
def State.me (s : State) : Nat := s.nxp.device + 32768 * s.nxp.hall

/-- The next stream sequence number towards a destination on a channel (R364); channel 2 has none. -/
def State.nextSseq (s : State) (sdie ddie vc dst : Nat) : State × Nat :=
  if vc = 2 then (s, 0)
  else
    let k := dst * 16 + sdie * 8 + ddie * 4 + vc
    let n := mget 0 s.nxp.txSeqs k
    ({ s with nxp := { s.nxp with txSeqs := mset 0 s.nxp.txSeqs k ((n + 1) % 65536) } }, n)

/-- DDIE towards a destination: SDIE unless the destination's record shows that die lost (R363). -/
def State.ddieOf (s : State) (dst sdie : Nat) : Nat :=
  match mfind s.nxp.members dst with
  | some m => if bit m.dies sdie then 1 - sdie else sdie
  | none => sdie

/-- Builds a packet from this device and numbers it in its stream (R360, R364). -/
def State.build (s : State) (die op dst tag job len addr : Nat) (spec : Bool) (data : List Byte) : State × Packet :=
  let dd := s.ddieOf dst die
  let (s, n) := s.nextSseq die dd (vcOf op) dst
  (s, ⟨die, op, b2n spec + 2 * die + 4 * dd, s.me, dst, s.nxp.epoch, n, tag, job, len, addr, false, data⟩)

/-- The lowest free tag of a die (R362). -/
def State.freeTag (s : State) (die : Nat) : Option Nat :=
  let used := (s.nxp.ops.filter (fun o => o.sent && decide (o.packet.die = die))).map (fun o => o.packet.tag)
  (range 4608).find? (fun t => !used.contains t)

/-- The Evile die that issued an operation, and so holds one of its own tags for it (R256). -/
def State.evileOfOp (s : State) (o : OpOwner) : Option Nat :=
  match o with
  | .record k => (mfind s.evl.recs k).map Rec.die
  | .wmk (.evile d) _ _ => some d
  | _ => none

/-- Whether an operation of an owner may be sent: each Evile die has 4,096 requests outstanding, whichever port die they leave by (R256). -/
def State.maySend (s : State) (owner : OpOwner) : Bool :=
  match s.evileOfOp owner with
  | none => true
  | some d => decide ((s.nxp.ops.filter (fun o => o.sent && decide (s.evileOfOp o.owner = some d))).length < 4096)

/-- Tags in use on a die (Table 12.14). -/
def State.tagsUsed (s : State) (die : Nat) : Nat :=
  (s.nxp.ops.filter (fun o => o.sent && decide (o.packet.die = die))).length

/-- Addresses of tile memory stand above every global address. -/
def tmBase : Nat := 2 ^ 64

/-- The coalescers drop what they hold of the bytes of another device that this device writes (R194). -/
def State.dropHeldFar (s : State) (a n : Nat) : State :=
  let keep (h : Held) : Bool :=
    !(decide (tmBase ≤ h.unit) && decide (h.unit - tmBase < a + n) && decide (a < h.unit - tmBase + 256))
  let l := s.clusters.map (fun (e : Nat × Cluster) => (e.1, { e.2 with held := e.2.held.filter keep }))
  { s with clusters := l.filter (fun e => decide (e.2 ≠ {})) }

/-- Whether an opcode writes memory at the destination. -/
def writesFar (op : Nat) : Bool := decide (op = 2 ∨ op = 3 ∨ op = 6)

/-- An operation goes to another device through a die, or waits there where no tag is free (R362, R365). -/
def State.sendOp (s : State) (owner : OpOwner) (d op dst job len addr : Nat) (spec : Bool) (data : List Byte) : State :=
  match (if s.maySend owner then s.freeTag d else none) with
  | some t =>
    let b := s.build d op dst t job len addr spec data
    let port := (b.1.choosePort d).getD 0
    let s := b.1.transmit b.2
    { s with nxp := { s.nxp with ops := s.nxp.ops ++ [⟨b.2, owner, 0, true, port, false⟩] } }
  | none =>
    let k : Packet := ⟨d, op, b2n spec, s.me, dst, s.nxp.epoch, 0, 0, job, len, addr, false, data⟩
    { s with nxp := { s.nxp with ops := s.nxp.ops ++ [⟨k, owner, 0, false, 0, false⟩] } }

/-- The island from which an operation's transfer starts, where its issuer tells it (log 76). -/
def OpOwner.island : OpOwner → Option Nat
  | .core c _ | .discard c _ | .orphan c => some (clusterOf c)
  | .trail _ _ => some 0x34
  | .ingest h => some (0x41 + 4 * (h / 256))
  | .record _ | .pull _ | .task _ _ | .wmk .. | .thermos _ _ | .copy _ | .nobody => none

/-- Issues an operation to another device (R358, R361): the state, or the code with which it fails locally, CDC_TIMEOUT where a
crossing on the way to the port die does not serve (R29). -/
def State.request (s : State) (owner : OpOwner) (die ctx op dst len addr : Nat) (spec : Bool) (data : List Byte) :
    State × Nat :=
  let job := (s.creg ctx).job
  if s.nxp.device = 0x7FFF then (s, 0x501)
  else if op ≠ 4 ∧ job = 0 then (s, 0x504)
  else if ((mfind s.nxp.members dst).map Member.state).getD 1 ≠ 0 then (s, 0x501)
  else
    match s.sendDie die with
    | none => (s, 0x501)
    | some d =>
    match s.barred owner.island (0x42 + 4 * d) with
    | some x => (s.cdc x (s.crossingShut x) (some ctx), 0x702)
    | none =>
      let s := if writesFar op then s.dropHeldFar (dst * 2 ^ 48 + addr) len else s
      (s.sendOp owner d op dst (if op = 4 then 0 else job) len addr spec data, 0)

/-- Lets operations that wait for a tag of a die go, in order, as tags free (R362). -/
def State.sendWaiting (s : State) (die : Nat) : Nat → State
  | 0 => s
  | n + 1 =>
    match findIdx (fun o : Op => !o.sent && decide (o.packet.die = die) && s.maySend o.owner) s.nxp.ops, s.freeTag die with
    | some (i, o), some t =>
      let (s, k) := s.build die o.packet.op o.packet.dst t o.packet.job o.packet.length o.packet.addr
        (bit o.packet.flags 0) o.packet.data
      let port := (s.choosePort die).getD 0
      let s := s.transmit k
      let s := { s with nxp := { s.nxp with ops := upd s.nxp.ops i (fun _ => ⟨k, o.owner, 0, true, port, o.stale⟩) } }
      s.sendWaiting die n
    | _, _ => s

/-- Ends the operation that holds a tag of a die (R362). -/
def State.endOp (s : State) (die tag : Nat) : State :=
  let s := { s with nxp := { s.nxp with
    ops := s.nxp.ops.filter (fun o => !(o.sent && decide (o.packet.die = die ∧ o.packet.tag = tag))) } }
  s.sendWaiting die s.nxp.ops.length

/-- Answers a packet with RESPONSE: status in ADDR [15:0], read data if any (Table 12.5). -/
def State.respond (s : State) (p : Packet) (status : Nat) (data : List Byte) : State :=
  match s.sendDie p.die with
  | some d =>
    let (s, k) := s.build d 8 p.src p.tag 0 data.length status false data
    s.transmit k
  | none => s

/-- The device identity digest (R451). -/
def identityDigest : List Byte := toBytes 64 (Config.sha3 Config.identityKey).toNat

/-- The payload of a MANAGER packet: its subcode, then the fields of Table 12.10, whose widths are the model's (log 49). -/
def mgrPayload (m : MgrMsg) (sub : Nat) : List Byte :=
  toBytes 1 sub ++ match sub with
    | 1 => toBytes 1 m.role ++ toBytes 2 m.request ++ identityDigest
    | 2 => toBytes 2 m.ident ++ toBytes 2 m.epoch ++ toBytes 4 m.term
    | 3 => toBytes 4 m.term ++ toBytes 1 m.dies
    | 4 => toBytes 4 m.term ++ toBytes 2 m.ident ++ toBytes 2 m.epoch ++ toBytes 1 m.dies ++ toBytes 1 m.state
    | 5 => toBytes 2 m.job ++ toBytes 4 m.step ++ toBytes 4 m.members
    | 6 => toBytes 2 m.job ++ toBytes 4 m.step
    | 7 => toBytes 2 m.job ++ toBytes 4 m.step ++ (if m.state = 0 then [] else toBytes 2 m.state)
    | 8 => toBytes 4 m.term ++ toBytes 1 m.role ++ toBytes 1 m.request ++ toBytes 2 m.ident ++ toBytes 2 m.epoch ++ toBytes 1 m.dies
        ++ toBytes 1 m.state ++ toBytes 2 m.job ++ toBytes 4 m.step ++ toBytes 4 m.members
    | _ => toBytes 4 m.term

/-- The subcode and the message that a MANAGER packet of a source carries; what its subcode does not carry reads 0, and a message with no
term has that of the receiver, `term`. -/
def mgrRead (src term : Nat) (b : List Byte) : Nat × MgrMsg :=
  let k : MgrMsg := ⟨src, term, 0, 0, 0, 0, 0, 0, 0, 0, 0⟩
  (field b 0 1, match field b 0 1 with
    | 1 => { k with role := field b 1 1, request := field b 2 2 }
    | 2 => { k with ident := field b 1 2, epoch := field b 3 2, term := field b 5 4 }
    | 3 => { k with term := field b 1 4, dies := field b 5 1 }
    | 4 => { k with term := field b 1 4, ident := field b 5 2, epoch := field b 7 2, dies := field b 9 1, state := field b 0xA 1 }
    | 5 => { k with job := field b 1 2, step := field b 3 4, members := field b 7 4 }
    | 6 => { k with job := field b 1 2, step := field b 3 4 }
    | 7 => { k with job := field b 1 2, step := field b 3 4, state := field b 7 2 }
    | 8 => { k with
        term := field b 1 4, role := field b 5 1, request := field b 6 1, ident := field b 7 2, epoch := field b 9 2
        dies := field b 0xB 1, state := field b 0xC 1, job := field b 0xD 2, step := field b 0xF 4, members := field b 0x13 4 }
    | _ => { k with term := field b 1 4 })

/-- Sends a MANAGER packet over a port: on channel 0 of the stream to its destination (R360, R364, Table 12.10). -/
def State.sendManagerOver (s : State) (p dst subcode : Nat) (m : MgrMsg) : State :=
  let bs := mgrPayload m subcode
  let (s, k) := s.build (p / 9) 0x10 dst 0 0 bs.length 0 false bs
  (s.modPort p (fun x => x.send k)).emit (.manager p dst subcode m)

/-- Sends a manager message over a port of P0, or of P1 where P0 has none in service (log 49). -/
def State.sendManager (s : State) (dst subcode : Nat) (m : MgrMsg) : State :=
  match (s.choosePort 0).or (s.choosePort 1) with
  | some p => s.sendManagerOver p dst subcode m
  | none => s

/-- Sends a JOIN to the manager's alias on every port in service (R373). -/
def State.sendJoin (s : State) (m : MgrMsg) : State :=
  ((range 18).filter (fun p => (s.port p).serves)).foldl (fun (s : State) p => s.sendManagerOver p 0x7FFE 1 m) s

end Sys2Proof.Machine
end

