-- ==== Sys2Proof/Machine/Shapes.lean ====
section
/-! DEFINITION. The geometry of tile registers (R99, R100), and Rambler's view of their shapes, of its place in a tile program and of
what it may keep at a dependency point (R185, R189, R192). -/

namespace Sys2Proof.Machine

/-- PITCH of a row (R99). -/
def pitchOf (type cols : Nat) : Nat := roundUp (cdiv (cols * typeBits type) 8) 64
/-- Bytes of a row (R107). -/
def rowBytes (type cols : Nat) : Nat := cdiv (cols * typeBits type) 8
/-- Scale bytes of a row (R99). -/
def scaleBytes (blk cols : Nat) : Nat := if blk = 0 then 0 else cdiv cols (blockLen blk)
/-- The footprint of a configuration (R99). -/
def footprintOf (type blk rows cols : Nat) : Nat := rows * pitchOf type cols + roundUp (rows * scaleBytes blk cols) 64

/-- Whether TCFG accepts a configuration (R100). -/
def cfgOk (type blk rows cols : Nat) : Bool :=
  typeOk type && decide (blk < 3) && pairOk blk type && decide (footprintOf type blk rows cols ≤ 16384)

/-- The shape of a register: its configuration without its contents. -/
def TReg.shape (t : TReg) : TReg := { t with data := [], scales := [] }

/-- The shapes of the tile registers after an instruction that configures one (R99, R101, R108). -/
def shapeStep (m : Map TReg) (i : TileInsn) : Map TReg :=
  match i with
  | .tcfg t type blk rows1 cols1 clear =>
    if clear then mdel m t
    else if cfgOk type blk (rows1 + 1) (cols1 + 1) then mset {} m t ⟨true, type, blk, rows1 + 1, cols1 + 1, [], []⟩ else m
  | .tmov mode td ts _ _ =>
    match mode with
    | 0 => mset {} m td (mget {} m ts)
    | 1 => mset {} m td ⟨true, 0, 0, 32, 32, [], []⟩
    | _ => m
  | _ => m

/-- The instruction of an unfinished record; its word passed the checks at issue. -/
def Pending.insn (p : Pending) : TileInsn := (decodeTile p.word).getD .nop

/-- A read whose data is not wanted any more: one in the sort window ends, one on its way keeps its tag (R183). -/
def Rambler.dropReads (m : Rambler) (p : Req → Bool) : Rambler :=
  { m with
    reqs := (m.reqs.filter (fun q => !(q.load && p q && decide (q.st = .window)))).map (fun (q : Req) =>
      if q.load && p q then { q with void := true } else q) }

/-- Rambler stands where the sequencer stands, at a start, a restart or a dependency point (R186, R189, R192): nothing fetched before
is kept. `first` lists the pending records that it steps first; the others have configured their registers as it sees them (log 17). -/
def Rambler.resync (m : Rambler) (l : Live) (first : List Pending) : Rambler :=
  { m.dropReads (fun q => q.spec) with
    pc := l.pc, a := l.a, c := l.c, loops := l.loops, ahead := 0, late := 0, at_ := 0
    cfgs := ((if first = [] then l.pendings else []).map Pending.insn).foldl shapeStep
      (l.tregs.map (fun (e : Nat × TReg) => (e.1, e.2.shape)))
    replay := first, lq := [], again := []
    stop := if m.stop = .noTask then .noTask else .stepping }

end Sys2Proof.Machine
end

