-- ==== Sys2Proof/Machine/Marks.lean ====
section
/-! DEFINITION. Waymarks (R300 to R315): bindings and homes, waits and their release, adds, hand-set values. -/

namespace Sys2Proof.Machine

/-- The key of a context's logical identifier. -/
def wkey (ctx id : Nat) : Nat := ctx * 2 ^ 20 + id
/-- The context of a key. -/
def keyCtx (k : Nat) : Nat := k / 2 ^ 20
/-- The identifier of a key. -/
def keyId (k : Nat) : Nat := k % 2 ^ 20

/-- The binding of a key. -/
def State.binding (s : State) (k : Nat) : Option Binding := mfind s.wmk.binds k

/-- The device that a kind-3 binding names, with its hall (Table 10.6). -/
def Binding.device (b : Binding) : Nat := bits b.target 15 0
/-- The context on that device (Table 10.6). -/
def Binding.remoteCtx (b : Binding) : Nat := bits b.target 21 16
/-- The ADDR field of a remote Waymark operation (Table 12.5). -/
def Binding.remoteAddr (b : Binding) : Nat := b.remoteId + 2 ^ 20 * b.remoteCtx

/-- Where the operations on an identifier are applied (R300, R305): nowhere, since it is unbound; at a count on this device; on another
device; or refused, since an alias names this device and the context it names has no exported binding of kind 1 or 2. -/
inductive Home where
  | unbound
  | here (key : Nat) (b : Binding)
  | far (b : Binding)
  | refused
  deriving DecidableEq, Repr

/-- The binding that an operation from another device finds: of kind 1 or 2, exported, its context not being destroyed (R305, R339). -/
def State.exported (s : State) (k : Nat) : Option Binding :=
  match s.binding k, s.ctx (keyCtx k) with
  | some b, some c => if b.kind ≠ 3 && b.exported && !c.leaving then some b else none
  | _, _ => none

/-- The home of a key (R305, R356): an alias of this device, by 0x7FFF or by its own identifier, leads to a count here. -/
def State.home (s : State) (k : Nat) : Home :=
  match s.binding k with
  | none => .unbound
  | some b =>
    if b.kind ≠ 3 then .here k b
    else if s.isHere (b.device * 2 ^ 48) then
      match s.exported (wkey b.remoteCtx b.remoteId) with
      | some x => .here (wkey b.remoteCtx b.remoteId) x
      | none => .refused
    else .far b

/-- Whether an identifier has a usable binding: the home of an alias of another device is not known here (R299, R305, R306). -/
def State.usable (s : State) (k : Nat) : Bool :=
  match s.home k with
  | .unbound | .refused => false
  | _ => true

/-- Where a binding's count lives: a cluster's bank, or Trailhead (36). -/
def Binding.site (b : Binding) : Nat := if b.eff = 1 then b.home else 36
/-- Whether a cluster's bank serves the Waymark now: not while Trailhead does for a cluster under Roll Call (R307). -/
def Binding.inBank (b : Binding) : Bool := decide (b.eff = 1) && !b.away

/-- Changes the Waymarks' state. -/
def State.modWmk (s : State) (f : Waymarks → Waymarks) : State := { s with wmk := f s.wmk }

/-- Slots in use in a cluster's bank (Table 10.13). -/
def bankUsed (b : Map Binding) (n : Nat) : Nat := (b.filter (fun e => decide (e.2.eff = 1 ∧ e.2.home = n))).length

/-- Links between two clusters on the control plane (R31, R305). -/
def linksBetween (a b : Nat) : Nat :=
  (a / 6 - b / 6) + (b / 6 - a / 6) + (a % 6 - b % 6) + (b % 6 - a % 6)

/-- The home of a kind-1 binding: the in-service cluster with a free slot nearest to the preferred one, the lower number
on a tie; none when no bank has a free slot (R305). -/
def State.homeFor (s : State) (b : Map Binding) (pref : Nat) : Option Nat :=
  ((range 36).filter (fun n => !s.retired n && decide (bankUsed b n < 4096))).foldl
    (fun best n => match best with
      | none => some n
      | some m => if linksBetween pref n < linksBetween pref m then some n else some m) none

/-- Makes a binding that does not exist yet (R304, R305). -/
def State.bindNew (s : State) (b : Map Binding) (k kind target : Nat) (exported : Bool) (rid init : Nat) : Map Binding :=
  let home := if kind = 1 then s.homeFor b target else none
  let eff := if kind = 1 ∧ home = none then 2 else kind
  mput b k ⟨kind, eff, target, exported, rid, init, home.getD 0, init, false⟩

/-- The fields of a binding entry (Table 10.6), or none where it breaks the table's rules. -/
def bindFields (e : List Byte) : Option (Nat × Nat × Nat × Bool × Nat × Nat) :=
  let w := field e 0 4
  let t := field e 4 4
  let i := field e 8 8
  let kind := bits w 23 20
  let ok := decide (bits w 31 25 = 0) && match kind with
    | 1 => decide (t < 36)
    | 2 => decide (t = 0)
    | 3 => decide (t < 2 ^ 22) && decide (i < 2 ^ 20)
    | _ => false
  if ok then some (bits w 19 0, kind, t, bit w 24, if kind = 3 then i else 0, if kind = 3 then 0 else i) else none

/-- Applies binding entries in list order; none where an entry breaks the rules or conflicts (R304). -/
def State.bindAll (s : State) (ctx : Nat) : Map Binding → List (List Byte) → Option (Map Binding)
  | b, [] => some b
  | b, e :: r =>
    match bindFields e with
    | none => none
    | some (id, kind, t, ex, rid, init) =>
      match mfind b (wkey ctx id) with
      | none => s.bindAll ctx (s.bindNew b (wkey ctx id) kind t ex rid init) r
      | some x =>
        if x.kind = kind ∧ x.target = t ∧ x.exported = ex ∧ x.remoteId = rid then s.bindAll ctx b r else none

/-- Records an informational event of a graph (R297). -/
def Graph.inform (g : Graph) (code task : Nat) : Graph :=
  { g with
    infoCount := g.infoCount + 1
    infoCode := if g.infoCount = 0 then code else g.infoCode
    infoTask := if g.infoCount = 0 then task else g.infoTask }

/-- Records an informational event of every unfinished graph of a context (R301, R315). -/
def State.informCtx (s : State) (x code : Nat) : State :=
  { s with trh := { s.trh with
    graphs := s.trh.graphs.map (fun e => if e.2.ctx = x then (e.1, e.2.inform code 0) else e) } }

/-- Speculative reads of a core at other devices whose data it does not want any more; they keep its tags (R183, R192). -/
def State.discardReads (s : State) (c : Nat) (p : Nat → Bool) : State :=
  { s with nxp := { s.nxp with ops := s.nxp.ops.map (fun (o : Op) => match o.owner with
    | .core d u => if d = c ∧ o.packet.op = 1 ∧ bit o.packet.flags 0 ∧ p u then { o with owner := .discard c u } else o
    | _ => o) } }

/-- A core of a task passes a dependency point: the coalescer of its cluster drops what it holds for the task, and serves no later read
with one that the task's cores have sent to another device before (R192, R194). -/
def State.freshReads (s : State) (n g i : Nat) : State :=
  let s := s.modCluster n (fun q => { q with held := q.held.filter (fun h => !decide (h.graph = g ∧ h.task = i)) })
  let theirs (d : Nat) : Bool := decide (clusterOf d = n) &&
    decide ((s.core d).task.map (fun t => (t.graph, t.task)) = some (g, i))
  { s with nxp := { s.nxp with ops := s.nxp.ops.map (fun (o : Op) => match o.owner with
    | .core d _ => if o.packet.op = 1 && theirs d then { o with stale := true } else o
    | _ => o) } }

/-- A dependency point of a core (R186, R192): Rambler keeps nothing it fetched before, on this device or at another. -/
def State.syncRamb (s : State) (c : Nat) : State :=
  let k := s.core c
  (s.setCore c { k with ramb := k.ramb.resync k.live [] }).discardReads c (fun _ => true)

/-- What a core does when its WAIT is satisfied: issue goes on, Rambler steps on from here (R186, R192), and the coalescer
drops what it holds for the task in the cluster (R122, R194). -/
def State.passWait (s : State) (c : Nat) : State :=
  let k := s.core c
  let l : Live := { k.live with pc := k.live.pc + 1 }
  let s := (s.setCore c { k with seq := .issuing, live := l }).syncRamb c
  match k.task with
  | some t => s.freshReads (clusterOf c) t.graph t.task
  | none => s

/-- Releases one wait: a core goes on and its wait ends; the wait of a task or of an Evile die stays released (R302). -/
def State.releaseWait (s : State) (w : Wait) : State :=
  match w.who with
  | .core c => (s.modWmk (fun m => { m with waits := m.waits.erase w })).passWait c
  | .task _ _ _ | .evile _ _ _ => s.modWmk (fun m => { m with
      waits := m.waits.map (fun v => if v = w then { v with released := true } else v) })

/-- Releases every wait of a key that its count meets and that the home serves (R302, R308, R315). -/
def State.releaseMet (s : State) (key count : Nat) : State :=
  (s.wmk.waits.filter (fun w =>
    decide (w.key = key) && decide (w.threshold ≤ count) && decide (w.how ≠ .poll) && !w.released)).foldl State.releaseWait s

/-- Sets the count of a bound Waymark at its home. -/
def State.setCount (s : State) (key count : Nat) : State :=
  match s.binding key with
  | some b => s.modWmk (fun m => { m with binds := mput m.binds key { b with count := count } })
  | none => s

/-- An add at the home: saturating, counted in the bank, releasing the waits it satisfies (R300 to R302). -/
def State.applyAdd (s : State) (key inc : Nat) : State :=
  match s.binding key with
  | none => s
  | some b =>
    let n := satAdd 64 b.count inc
    let s := s.setCount key n
    let s := if b.inBank then s.modCluster b.home (fun q => { q with adds := wrapAdd 32 q.adds 1 }) else s
    let s :=
      if b.count + inc > 2 ^ 64 - 1 then
        (s.modWmk (fun m => { m with sat := m.sat ||| BitVec.ofNat 64 (2 ^ keyCtx key) })).informCtx (keyCtx key) 0xA05
      else s
    s.releaseMet key n

/-- A hand-set value at the home (R314, R315): the count, the releases, the context's mark. -/
def State.handSet (s : State) (key value : Nat) : State :=
  let s := s.setCount key value
  let s := s.modWmk (fun m => { m with handset := m.handset ||| BitVec.ofNat 64 (2 ^ keyCtx key) })
  (s.informCtx (keyCtx key) 0xA06).releaseMet key value

/-- The port die through which an agent reaches other devices (R347). -/
def Agent.die : Agent → Nat
  | .core c => dieOfCluster (clusterOf c)
  | .evile d => d
  | .ingest e => e
  | .trailhead | .thermos => 0

/-- Sends an add to a Waymark's home (R123, R300, R305): 0 sends nothing; an alias of another device's Waymark is forwarded; the code is
not 0 where the add fails on this device. -/
def State.sendAdd (s : State) (src : Agent) (key inc : Nat) (by_ : Option (Nat × Nat)) : State × Nat :=
  if inc = 0 then (s, 0)
  else
    match s.home key with
    | .unbound => (s, 0xA04)
    | .far b => s.request (.wmk src key by_) src.die (keyCtx key) 4 b.device 8 b.remoteAddr false (toBytes 8 inc)
    | .here _ _ | .refused => (s.modWmk (fun m => { m with adds := m.adds ++ [⟨src, key, inc, by_⟩] }), 0)

/-- Where an add in flight goes: none where its home is not on this device. -/
def State.siteFor (s : State) (a : Add) : Option Nat :=
  match s.home a.key with
  | .here _ b => some (if b.inBank then b.site else 36)
  | _ => none

/-- Whether the add at a place may reach its home: none that its source sent earlier to the same home is still on its way (R32). -/
def State.addFirst (s : State) (n : Nat) (a : Add) : Bool :=
  !(s.wmk.adds.take n).any (fun e => decide (e.src = a.src) && decide (s.siteFor e = s.siteFor a))

/-- Watches in use at a home (R308, Table 10.13). -/
def State.watches (s : State) (site : Nat) : Nat :=
  (s.wmk.waits.filter (fun w => decide (w.how = .watch) && !w.released && match s.binding w.key with
    | some b => decide (b.kind ≠ 3 ∧ b.site = site)
    | none => false)).length

/-- How a new wait on a count of this device is served (R308): at its home if the waiter is there, else by a watch while the home has
one free. -/
def State.waitHow (s : State) (b : Binding) (who : Waiter) : WaitHow :=
  let local_ := match who with
    | .core c => decide (b.eff = 1 ∧ clusterOf c = b.home)
    | .task _ _ _ => decide (b.eff = 2) || b.away
    | .evile _ _ _ => false
  if local_ then .home
  else if s.watches b.site < (if b.eff = 1 then 256 else 16384) then .watch
  else .poll

/-- Whether a wait on a key is met now: its home is on this device and the count is at or above the threshold (R302). -/
def State.metNow (s : State) (key threshold : Nat) : Bool :=
  match s.home key with
  | .here _ b => decide (threshold ≤ b.count)
  | _ => false

/-- Makes a wait at its home, released at once where it is met (R302, R308); one at another device polls. -/
def State.addWait (s : State) (key threshold : Nat) (who : Waiter) : State :=
  match s.home key with
  | .here k b => s.modWmk (fun m => { m with waits := m.waits ++ [⟨k, threshold, who, s.waitHow b who, decide (threshold ≤ b.count)⟩] })
  | .far _ => s.modWmk (fun m => { m with waits := m.waits ++ [⟨key, threshold, who, .poll, false⟩] })
  | .unbound | .refused => s

/-- Ends every wait of a core. -/
def State.dropCoreWaits (s : State) (c : Nat) : State :=
  s.modWmk (fun m => { m with waits := m.waits.filter (fun w => decide (w.who ≠ .core c)) })

/-- Ends every wait of a task of a graph slot. -/
def State.dropTaskWaits (s : State) (g t : Nat) : State :=
  s.modWmk (fun m => { m with waits := m.waits.filter (fun w => match w.who with
    | .task g' t' _ => !decide (g' = g ∧ t' = t)
    | _ => true) })

/-- Ends every wait of an Evile die for records that satisfy `p`. -/
def State.dropEvileWaits (s : State) (p : Nat → Nat → Bool) : State :=
  s.modWmk (fun m => { m with waits := m.waits.filter (fun w => match w.who with
    | .evile x a _ => !p x a
    | _ => true) })

/-- Ends every wait of the tasks of a graph slot. -/
def State.dropGraphWaits (s : State) (g : Nat) : State :=
  s.modWmk (fun m => { m with waits := m.waits.filter (fun w => match w.who with
    | .task g' _ _ => !decide (g' = g)
    | _ => true) })

end Sys2Proof.Machine
end

