-- ==== Sys2Proof/Machine/Tasks.lean ====
section
/-! DEFINITION. Tasks and graphs as Trailhead keeps them (R283 to R298): fields of their structures, readiness and spill,
version references (R250), stash reservations (R242 to R247), completion, failure, abort and the end of a graph. -/

namespace Sys2Proof.Machine

/-! ## Structures read by global address -/

/-- The device acting for a context from an island, with no store grant. -/
def agentAt (i x : Nat) : Who := ⟨x, some [], some i⟩
/-- Trailhead or the command processor acting for a context (Table 1.5). -/
def agentOf (x : Nat) : Who := agentAt 0x34 x

/-- Reads bytes at a global address: this device's memory, or another device's (R172, R356, R358, R361; log 24). -/
def State.readG (s : State) (w : Who) (a n : Nat) : Rd :=
  if s.isHere a then s.read w (localOf a) n
  else if s.nxp.device = 0x7FFF then .stop (.fail 0x501)
  else if (s.creg w.ctx).job = 0 then .stop (.fail 0x504)
  else if ((mfind s.nxp.members (deviceOf a)).map Member.state).getD 1 ≠ 0 then .stop (.fail 0x501)
  else .data ((range n).map (fun i => Config.remoteByte s.tick (a + i)))

/-- Cuts a remote transfer into packets of at most 4,096 bytes. -/
def packets (a : Nat) (bs : List Byte) : List (Nat × List Byte) :=
  (chunks 4096 bs).mapIdx (fun i b => (a + 4096 * i, b))

/-- Writes bytes at a global address: this device's memory, or WRITE packets to another device. -/
def State.writeG (s : State) (w : Who) (owner : OpOwner) (die a : Nat) (bs : List Byte) : State × Option Acc :=
  if s.isHere a then s.write w (localOf a) bs
  else
    (packets (localOf a) bs).foldl
      (fun (r : State × Option Acc) e =>
        match r.2 with
        | some _ => r
        | none =>
          let (t, c) := r.1.request owner die w.ctx 2 (deviceOf a) e.2.length e.1 false e.2
          (t, if c = 0 then none else some (.fail c)))
      (s, none)

/-- Bytes at a global address, zeros where the read fails. -/
def State.peek (s : State) (x a n : Nat) : List Byte :=
  match s.readG (agentOf x) a n with
  | .data bs => bs
  | .stop _ => List.replicate n 0

/-! ## Fields of graph and task descriptors -/

/-- Number of tasks (Table 10.1). -/
def Graph.count (g : Graph) : Nat := field g.desc 0x08 4
/-- Address of task descriptor `i` (Table 10.1). -/
def Graph.taskAt (g : Graph) (i : Nat) : Nat := field g.desc 0 8 + 128 * i
/-- Address of word `k` of the work area: counters first, then the spill ring (Table 10.1, R284). -/
def Graph.workAt (g : Graph) (k : Nat) : Nat := field g.desc 0x18 8 + 4 * k
/-- Address of the layer table; 0 if none. -/
def Graph.layers (g : Graph) : Nat := field g.desc 0x20 8
/-- Address of the update table; 0 if none. -/
def Graph.updates (g : Graph) : Nat := field g.desc 0x28 8
/-- The graph's STEP. -/
def Graph.stepNo (g : Graph) : Nat := field g.desc 0x3C 4
/-- The graph's WBIAS. -/
def Graph.bias (g : Graph) : Nat := field g.desc 0x40 8
/-- The handle of a graph in a slot (Table 11.10). -/
def Graph.handle (g : Graph) (slot : Nat) : Nat := slot + 256 * (g.gen % 2 ^ 24)

/-- The descriptor of task `i`: the device's copy, or memory where it has none yet. -/
def State.taskDesc (s : State) (g : Graph) (i : Nat) : List Byte :=
  if (g.task i).copy.isEmpty then s.peek g.ctx (g.taskAt i) 128 else (g.task i).copy

/-- CONTROL (Table 10.3). -/
def tdControl (d : List Byte) : Nat := field d 0 4
/-- KIND: 0 mapped, 1 hand-mapped, 2 null. -/
def tdKind (d : List Byte) : Nat := bits (tdControl d) 1 0
/-- PRIO. -/
def tdPrio (d : List Byte) : Nat := bits (tdControl d) 3 2
/-- HAS_LAYER. -/
def tdHasLayer (d : List Byte) : Bool := bit (tdControl d) 4
/-- HAS_VERSION. -/
def tdHasVersion (d : List Byte) : Bool := bit (tdControl d) 5
/-- NWAIT. -/
def tdNwait (d : List Byte) : Nat := bits (tdControl d) 8 7
/-- NSIG. -/
def tdNsig (d : List Byte) : Nat := bits (tdControl d) 10 9
/-- REPLY. -/
def tdReply (d : List Byte) : Bool := bit (tdControl d) 11
/-- NPRED. -/
def tdNpred (d : List Byte) : Nat := field d 4 4 % 2 ^ 25
/-- WORK. -/
def tdWork (d : List Byte) : Nat := field d 8 8
/-- LAYER. -/
def tdLayer (d : List Byte) : Nat := field d 0x1C 4 % 4096
/-- MBATCH. -/
def tdMbatch (d : List Byte) : Nat := field d 0x20 4
/-- The identifier of wait `k`. -/
def tdWaitId (d : List Byte) (k : Nat) : Nat := field d (0x38 + 16 * k) 4 % 2 ^ 20
/-- The threshold of wait `k`: plus WBIAS if REL is 1 (R288). -/
def tdThreshold (g : Graph) (d : List Byte) (k : Nat) : Nat :=
  (field d (0x40 + 16 * k) 8 + (if bit (field d (0x38 + 16 * k) 4) 31 then g.bias else 0)) % 2 ^ 64
/-- The identifier and increment of signal `k`. -/
def tdSignal (d : List Byte) (k : Nat) : Nat × Nat :=
  (field d (0x58 + 8 * k) 4 % 2 ^ 20, field d (0x5C + 8 * k) 4)
/-- The version the task names (Table 10.2). -/
def tdVersion (g : Graph) (d : List Byte) : Nat :=
  if bit (tdControl d) 6 then (g.stepNo + field d 0x24 4) % 2 ^ 32 else field d 0x24 4

/-- Step `a` is newer than step `b` (R403). -/
def newer (a b : Nat) : Bool := let d := (a + 2 ^ 32 - b % 2 ^ 32) % 2 ^ 32; decide (1 ≤ d ∧ d ≤ 2 ^ 31 - 1)

/-! ## Layers and versions -/

/-- The record of layer `n` (Table 8.2). -/
def State.layerRec (s : State) (g : Graph) (n : Nat) : List Byte := s.peek g.ctx (g.layers + 64 * (n + 1)) 64

/-- The record of the layer that task `i` names: the loader's copy, or memory. -/
def State.layerOf (s : State) (g : Graph) (i : Nat) : List Byte :=
  let r := mget [] (g.task i).descs 49
  if r = [] then s.layerRec g (tdLayer (s.taskDesc g i)) else r

/-- Whether task `i` lies in the range at an offset of a layer record (FWD or RCP). -/
def inRange (r : List Byte) (o i : Nat) : Bool :=
  let first := field r o 4 % 2 ^ 24; let n := field r (o + 4) 4 % 2 ^ 25
  decide (first ≤ i ∧ i < first + n)

/-- STATE of slot `i` of a version record (Table 8.7). -/
def vrState (v : List Byte) (i : Nat) : Nat := bits (field v 0x18 4) (2 * i + 1) (2 * i)
/-- TAG of slot `i`. -/
def vrTag (v : List Byte) (i : Nat) : Nat := field v (0x10 + 4 * i) 4
/-- The identifier of slot `i`'s version Waymark. -/
def vrMark (v : List Byte) (i : Nat) : Nat := field v (0x20 + 4 * i) 4 % 2 ^ 20
/-- ACQ of slot `i`. -/
def vrAcq (v : List Byte) (i : Nat) : Nat := field v (0x28 + 8 * i) 8
/-- The valid slot that holds a version (R249). -/
def vrHolds (v : List Byte) (tag : Nat) : Option Nat :=
  (range 2).find? (fun i => decide (vrState v i = 1 ∧ vrTag v i = tag))
/-- Whether a version is newer than every valid tag (R250). -/
def vrFuture (v : List Byte) (tag : Nat) : Bool := (range 2).all (fun i => !decide (vrState v i = 1) || newer tag (vrTag v i))

/-- Device writes into a context's memory: a field of a structure it keeps. -/
def State.poke (s : State) (x a : Nat) (bs : List Byte) : State := (s.write (agentOf x) (localOf a) bs).1

/-- Counts a task against the slot that holds its version: ACQ rises by 1 (R250). -/
def State.countTask (s : State) (g i : Nat) : State :=
  match s.graph g with
  | none => s
  | some x =>
    let t := x.task i
    match t.version with
    | some (a, v) =>
      if t.counted then s
      else
        let r := s.peek x.ctx a 64
        match vrHolds r v with
        | some k =>
          (s.poke x.ctx (a + 0x28 + 8 * k) (toBytes 8 (vrAcq r k + 1))).modTask g i
            (fun t => { t with counted := true, slot := k })
        | none => s
    | none => s

/-- Names the version of a task with its descriptor, and counts the task where a slot holds that version (R249, R250): the state, or
the read of the layer record or of the version record that failed. -/
def State.nameVersion (s : State) (g i : Nat) (x : Graph) (d : List Byte) : Except Acc State :=
  if !tdHasVersion d || decide (x.layers = 0) || (x.task i).version.isSome then .ok s
  else
    match s.readG (agentOf x.ctx) (x.layers + 64 * (tdLayer d + 1)) 64 with
    | .stop e => .error e
    | .data r =>
      let a := field r 0x10 8
      if a = 0 then .ok s
      else
        match s.readG (agentOf x.ctx) a 64 with
        | .stop e => .error e
        | .data _ => .ok ((s.modTask g i (fun t => { t with version := some (a, tdVersion x d) })).countTask g i)

/-- Names the versions of a graph's tasks at GRAPH_SUBMIT and counts those whose version is held (R250); a task whose structures cannot
be read yet is left until it is ready. -/
def State.countGraph (s : State) (g : Nat) : State :=
  match s.graph g with
  | none => s
  | some x =>
    if x.layers = 0 then s
    else (range x.count).foldl (fun s i =>
      match s.readG (agentOf x.ctx) (x.taskAt i) 128 with
      | .data d => (s.nameVersion g i x d).toOption.getD s
      | .stop _ => s) s

/-- Counts the tasks that wait for a version committed into a record of a context (R250). -/
def State.countWaiting (s : State) (x a : Nat) : State :=
  s.trh.graphs.foldl (fun s e =>
    if e.2.ctx = x then
      e.2.tasks.foldl (fun s t => match t.2.version with
        | some (a', _) => if a' = a ∧ t.2.phase ≠ .done ∧ t.2.phase ≠ .failed then s.countTask e.1 t.1 else s
        | none => s) s
    else s) s

/-- Releases a task's version reference: 1 is added to the slot's version Waymark (R250, R295). -/
def State.releaseVersion (s : State) (g i : Nat) : State :=
  match s.graph g with
  | none => s
  | some x =>
    let t := x.task i
    match t.version, t.counted with
    | some (a, _), true =>
      let id := vrMark (s.peek x.ctx a 64) t.slot
      (s.sendAdd .trailhead (wkey x.ctx id) 1 none).1.modTask g i (fun t => { t with counted := false })
    | _, _ => s

/-! ## Stash reservations -/

/-- The slots of an operation block, as addresses (Table 7.1). -/
def opSlots (b : List Byte) : List Nat := (range 8).map (fun k => field b (0x20 + 8 * k) 8)

/-- The operation block of a mapped task: the loader's copy, or memory. -/
def State.opBlock (s : State) (g : Graph) (i : Nat) : List Byte :=
  let t := g.task i
  if t.op.isEmpty then s.peek g.ctx (tdWork (s.taskDesc g i)) 320 else t.op

/-- Whether task `i` reads the saved tensor of a layer and micro-batch outside the FWD range (R245, R247). -/
def State.readsSave (s : State) (g : Graph) (layer mb i : Nat) : Bool :=
  let d := s.taskDesc g i
  let r := s.layerRec g layer
  tdHasLayer d && decide (tdLayer d = layer ∧ tdMbatch d = mb ∧ tdKind d = 0) && !inRange r 0x18 i
    && (opSlots (s.opBlock g i)).contains (field r 8 8)

/-- Whether a structure can be read now. -/
def State.readable (s : State) (x a n : Nat) : Bool :=
  match s.readG (agentOf x) a n with
  | .data _ => true
  | .stop _ => false

/-- Whether task `i` reads that saved tensor, or may, since its descriptor or operation block cannot be read yet (R247). -/
def State.mayReadSave (s : State) (g : Graph) (layer mb i : Nat) : Bool :=
  let t := g.task i
  if t.copy.isEmpty && !s.readable g.ctx (g.taskAt i) 128 then true
  else
    let d := s.taskDesc g i
    if tdHasLayer d && decide (tdLayer d = layer ∧ tdMbatch d = mb ∧ tdKind d = 0) && t.op.isEmpty
        && !s.readable g.ctx (tdWork d) 320 then true
    else s.readsSave g layer mb i

/-- The reservation of a layer and micro-batch (R243). -/
def Graph.stashOf (g : Graph) (layer mb : Nat) : Option Stash :=
  g.stash.find? (fun h => decide (h.layer = layer ∧ h.mbatch = mb))

/-- Whether a task has ended. -/
def Task.ended (t : Task) : Bool := decide (t.phase = .done ∨ t.phase = .failed)

/-- Releases the reservation that task `i` reads, if no unfinished task reads it (R247). -/
def State.releaseStash (s : State) (g i : Nat) : State :=
  match s.graph g with
  | none => s
  | some x =>
    let d := s.taskDesc x i
    let l := tdLayer d; let mb := tdMbatch d
    match (if tdHasLayer d && decide (x.layers ≠ 0) then x.stashOf l mb else none) with
    | none => s
    | some _ =>
      if s.readsSave x l mb i && !(range x.count).any (fun j =>
          decide (j ≠ i) && !(x.task j).ended && s.mayReadSave x l mb j) then
        s.setGraph g { x with stash := x.stash.filter (fun h => !decide (h.layer = l ∧ h.mbatch = mb)) }
      else s

/-! ## Cores of a task -/

/-- A core when no task runs on it (R139): its flags, its fault record, Rambler's counters and its next parity error stay; reads on
their way keep their tags, their data unwanted (R183, R189). -/
def Core.cleared (k : Core) : Core :=
  { flags := k.flags, fault := k.fault, wide := k.wide, parity := k.parity
    t1 := k.t1, t1off := k.t1off, t2 := k.t2, t2off := k.t2off
    live := { pc := k.live.pc }
    ramb := {
      reqs := (k.ramb.reqs.filter (fun q => q.load && decide (q.st ≠ .window))).map (fun (q : Req) => { q with void := true })
      cycle := k.ramb.cycle, last := k.ramb.last, refetch := k.ramb.refetch, dropped := k.ramb.dropped, stop := .noTask } }

/-- Operations that a core issued to other devices go on without it; its reads keep their tags (R183). -/
def State.orphanOps (s : State) (c : Nat) : State :=
  { s with nxp := { s.nxp with ops := s.nxp.ops.map (fun (o : Op) => match o.owner with
    | .core d _ => if d = c then { o with owner := if o.packet.op = 1 then .orphan c else .nobody } else o
    | .discard d _ => if d = c then { o with owner := .orphan c } else o
    | _ => o) } }

/-- Takes the task off a core: the stores it had made take effect (R133). -/
def State.clearCore (s : State) (c : Nat) : State :=
  (((s.flushStores c).modCore c Core.cleared).dropCoreWaits c).orphanOps c

/-- Takes a task off all its cores and ends what the cluster engines hold for it. -/
def State.clearTask (s : State) (g i : Nat) : State :=
  let t := s.taskOf g i
  let mine (k : Nat) : Bool := match (s.core k).task with
    | some x => decide (x.graph = g ∧ x.task = i)
    | none => false
  let s := (t.cores.filter mine).foldl State.clearCore s
  let s := (t.cores.map clusterOf).dedup.foldl (fun s n => s.modCluster n (fun q =>
    { q with
      held := q.held.filter (fun h => !decide (h.graph = g ∧ h.task = i))
      chunks := q.chunks.filter (fun h => !(t.cores.any (fun c => h.members.contains c)))
      fetched := q.fetched.filter (fun e => !decide (e.1 / 4 = g * 2 ^ 24 + i))
      staging := if q.staging.map (fun e => (e.1, e.2.1)) = some (g, i) then none else q.staging })) s
  s.modTask g i (fun t => { t with cores := [], widths := [], left := [], grants := [], saves := [], resumed := [], dmaLeft := [], handed := [] })

/-! ## Readiness -/

/-- Whether a task is ready, waiting or in flight (R289). -/
def Phase.active (p : Phase) : Bool := decide (p = .window ∨ p = .running ∨ p = .interrupted)

/-- Tasks of a graph that are ready, waiting or in flight. -/
def Graph.activeCount (g : Graph) : Nat := (g.tasks.filter (fun e => e.2.phase.active)).length
/-- Tasks of all contexts that are ready, waiting or in flight (Table 10.9). -/
def State.activeCount (s : State) : Nat := total (s.trh.graphs.map (fun e => e.2.activeCount))

/-- The graph fails: no further task is dispatched; the first failure is kept (R296). -/
def State.graphFail (s : State) (g code i : Nat) : State :=
  s.modGraph g (fun x => if x.stopping then x else { x with stopping := true, failCode := code, failTask := i })

/-! ## The end of a graph -/

/-- Releases every reference that a graph's unfinished tasks hold (R250, R298). -/
def State.releaseGraph (s : State) (g : Nat) : State :=
  match s.graph g with
  | none => s
  | some x => x.tasks.foldl (fun s e => if e.2.ended then s else s.releaseVersion g e.1) s

/-- Whether a failure code is replayable (R409). -/
def replayable (c : Nat) : Bool := [0x701, 0x705, 0x702, 0x703, 0x405, 0x208, 0x206, 0x501, 0x502].contains c

/-- Whether the step of a context may be replayed for a cause (R409). -/
def State.mayReplay (s : State) (x : Nat) (c : Ctx) (cause : Nat) : Bool :=
  decide ((s.creg x).boundary ≠ 0) && c.clean && !c.overflowed && decide (c.replays < bits (s.creg x).policy 22 19)
    && !(decide (cause = 0x206) && c.stashReplay) && !c.committed

/-- A graph of a step has failed with a code: a replay of the step is due, or is refused with an event (R409). -/
def State.replayCause (s : State) (x : Nat) (step : Option Nat) (code : Nat) : State :=
  match step, s.ctx x with
  | some v, some c =>
    if !replayable code || c.leaving then s
    else if c.step = some v ∧ s.mayReplay x c code = true then
      s.setCtx x { c with cause := if c.cause.isNone then some code else c.cause, causes := c.causes + 1 }
    else s.event x 0x709 (toBytes 4 v)
  | _, _ => s

/-- The graph ends: waiting and ready tasks are discarded, running ones taken off their cores, references, reservations and
areas released, the reply posted, the context's record of the step kept (R296 to R298, R408, R409). -/
def State.endGraph (s : State) (g code : Nat) : State :=
  match s.graph g with
  | none => s
  | some x =>
    let s := x.tasks.foldl (fun s e => if e.2.cores = [] then s else s.clearTask g e.1) s
    let s := (s.releaseGraph g).dropGraphWaits g
    match s.graph g with
    | none => s
    | some x =>
      let h := x.handle g
      let bad := !succeeded code
      let s := { s with trh := { s.trh with
        graphs := mdel s.trh.graphs g
        reserved := s.trh.reserved.filter (fun r => decide (r.2.1 ≠ g)) } }
      let s := s.modCtx x.ctx (fun c => { c with
        failed := if bad then satAdd 32 c.failed 1 else c.failed
        recorded := c.recorded.map (fun r => if r.handle = h then { r with ended := true, ok := !bad } else r) })
      (s.post x.fn x.cq ⟨x.tag, code, 0x08, x.ctx, 1,
        toBytes 4 h ++ toBytes 4 (if bad then x.failTask else x.infoTask) ++ toBytes 4 x.infoCount
          ++ toBytes 2 x.infoCode, 0⟩).replayCause x.ctx x.step code

/-- Whether a graph has a task in flight. -/
def Graph.inFlight (g : Graph) : Bool := g.tasks.any (fun e => decide (e.2.phase = .running ∨ e.2.phase = .interrupted))

/-- Ends a graph that has failed and has no task in flight, that has completed all its tasks, or that can make no further
progress (R296, R297). -/
def State.settle (s : State) (g : Nat) : State :=
  match s.graph g with
  | none => s
  | some x =>
    if x.stopping then (if x.inFlight then s else s.endGraph g x.failCode)
    else if x.doneCount = x.count then s.endGraph g 0
    else if x.activeCount = 0 ∧ x.spill = [] then (s.graphFail g 0xA03 0).endGraph g 0xA03
    else s

/-! ## Completion and failure of a task -/

/-- Counts an informational event of a task (R295, R297). -/
def State.informTask (s : State) (g i code : Nat) : State :=
  (s.modTask g i (fun t => { t with info := if t.info = 0 then code else t.info })).modGraph g (fun x => x.inform code i)

/-- A context is suspended (R180): one PAGE_FAULT reply, its tasks that have work left on cores are asked to interrupt, no dispatch. -/
def State.suspend (s : State) (x va : Nat) (store : Bool) : State :=
  match s.ctx x with
  | none => s
  | some c =>
    if c.suspended then s
    else
      let s := s.setCtx x { c with suspended := true, faultVa := va }
      let s := { s with trh := { s.trh with graphs := s.trh.graphs.map (fun (e : Nat × Graph) =>
        if e.2.ctx = x then
          (e.1, { e.2 with tasks := e.2.tasks.map (fun (t : Nat × Task) =>
            if t.2.phase = Phase.running ∧ t.2.left ≠ [] then (t.1, { t.2 with interruptReq := true }) else t) })
        else e) } }
      s.event x 0x401 (toBytes 8 va ++ toBytes 1 (b2n store))

/-- A task that has not ended fails and frees its place in the window (R296): its version reference and stash are released, it adds no signal and counts no
successor, its graph dispatches no further task, and ends once its tasks in flight have ended. -/
def State.taskFails (s : State) (g i code : Nat) : State :=
  if (s.taskOf g i).phase = .failed ∨ (s.taskOf g i).phase = .done then s
  else
  let s := s.clearTask g i
  let s := s.dropTaskWaits g i
  let s := s.releaseVersion g i
  let s := s.modTask g i (fun t => { t with phase := .failed })
  let s : State := { s with trh := { s.trh with reserved := s.trh.reserved.filter (fun r => !decide (r.2.1 = g ∧ r.2.2 = i)) } }
  let s := s.releaseStash g i
  (s.graphFail g code i).settle g

/-! ## Ready tasks and the window (R288, R289) -/

/-- Reads a ready task's descriptor, names its version, and makes its waits (R285, R288, R302); a wait with no usable binding is left
for the dispatch checks. A miss suspends the context, and the task is read again on RESUME; another failure fails it (R224). -/
def State.loadTask (s : State) (g i : Nat) : State :=
  match s.graph g with
  | none => s
  | some x =>
    if (x.task i).phase = .window ∧ (x.task i).copy = [] then
      match s.readG (agentOf x.ctx) (x.taskAt i) 128 with
      | .stop (.miss va) => s.suspend x.ctx va false
      | .stop a => (s.markAcc (agentOf x.ctx) a).taskFails g i a.code
      | .data d =>
        match s.nameVersion g i x d with
        | .error (.miss va) => s.suspend x.ctx va false
        | r =>
          let s := (r.toOption.getD s).modTask g i (fun t => { t with copy := d })
          (range (min 2 (tdNwait d))).foldl (fun s k =>
            s.addWait (wkey x.ctx (tdWaitId d k)) (tdThreshold x d k) (.task g i k)) s
    else s

/-- A task goes to its graph's spill ring (R284, R289): Trailhead keeps the order, and the ring in the work area holds the index. -/
def State.spillTask (s : State) (g i : Nat) : State :=
  match s.graph g with
  | none => s
  | some x =>
    let s := (s.modTask g i (fun t => { t with phase := .spilled })).modGraph g (fun x =>
      { x with spill := x.spill ++ [i], spilled := x.spilled + 1 })
    let w := agentOf x.ctx
    match s.writeG w (.trail g (x.handle g)) 0 (x.workAt (x.count + x.spilled % x.count)) (toBytes 4 i) with
    | (s, none) => s
    | (s, some (.miss va)) => s.suspend x.ctx va true
    | (s, some a) => (s.markAcc w a).graphFail g a.code i

/-- A task enters the window, or its graph's spill ring while the window is full or an earlier task of the graph is spilled (R289). -/
def State.enterWindow (s : State) (g i : Nat) : State :=
  if s.activeCount < 16384 ∧ ((s.graph g).map Graph.spill).getD [] = [] then
    (s.modTask g i (fun t => { t with phase := .window })).loadTask g i
  else s.spillTask g i

/-- Spilled tasks re-enter the window in order while it has room (R289); `fuel` bounds them. -/
def State.unspillSome (s : State) : Nat → State
  | 0 => s
  | k + 1 =>
    if 16384 ≤ s.activeCount then s
    else
      match s.trh.graphs.find? (fun e => decide (e.2.spill ≠ [])) with
      | some (g, x) =>
        let i := x.spill.headD 0
        let s := s.setGraph g { x with spill := x.spill.drop 1 }
        ((s.modTask g i (fun t => { t with phase := .window })).loadTask g i).unspillSome k
      | none => s

/-- Spilled tasks re-enter the window while it has room (R289). -/
def State.unspill (s : State) : State := s.unspillSome (total (s.trh.graphs.map (fun e => e.2.spill.length)))

/-- A task becomes ready; one that becomes ready twice fails the graph with LOAD_COUNT (R288, R297). -/
def State.makeReady (s : State) (g i : Nat) : State :=
  if (s.taskOf g i).phase = .idle then s.enterWindow g i else s.graphFail g 0x204 i

/-- Reads again the descriptors that a context's ready tasks lack, once it is resumed (R180, R288); spilled tasks take the place of those
that fail (R289). -/
def State.loadAgain (s : State) (x : Nat) : State :=
  (s.trh.graphs.foldl (fun s e => if e.2.ctx = x then e.2.tasks.foldl (fun s t => s.loadTask e.1 t.1) s else s) s).unspill

/-- A task fails, and spilled tasks take its place (R289, R296). -/
def State.failTask (s : State) (g i code : Nat) : State := (s.taskFails g i code).unspill

/-- One successor is counted (R284, R295): its counter in the work area rises by 1; above its NPRED the graph fails with LOAD_COUNT, at
it the task is ready (R288). An access that fails fails the graph. -/
def State.countSuccessor (s : State) (g j : Nat) : State :=
  match s.graph g with
  | none => s
  | some x =>
    let w := agentOf x.ctx
    let stop (s : State) (a : Acc) : State := (s.markAcc w a).graphFail g a.code j
    match s.readG w (x.workAt j) 4 with
    | .stop a => stop s a
    | .data c =>
      match s.readG w (x.taskAt j) 128 with
      | .stop a => stop s a
      | .data d =>
        let n := wrapAdd 32 (fromBytes c) 1
        match s.writeG w (.trail g (x.handle g)) 0 (x.workAt j) (toBytes 4 n) with
        | (s, some a) => stop s a
        | (s, none) =>
          let p := tdNpred (if (x.task j).copy.isEmpty then d else (x.task j).copy)
          if p < n then s.graphFail g 0x204 j else if n = p then s.makeReady g j else s

/-- The first miss that counting a task's successors would meet, and whether it is a store's (R180, R295). -/
def State.countMiss (s : State) (g i : Nat) : Option (Nat × Bool) :=
  match s.graph g with
  | none => none
  | some x =>
    let w := agentOf x.ctx
    let miss (r : Rd) : Option (Nat × Bool) := match r with
      | .stop (.miss va) => some (va, false)
      | _ => none
    (x.task i).succ.findSome? (fun j =>
      (miss (s.readG w (x.workAt j) 4)).or ((miss (s.readG w (x.taskAt j) 128)).or
        (match (s.writeG w (.trail g (x.handle g)) 0 (x.workAt j) (toBytes 4 0)).2 with
        | some (.miss va) => some (va, true)
        | _ => none)))

/-- Steps 2 to 6 of task completion (R295); a task to which a refused add was reported fails instead (R305). -/
def State.completeTask (s : State) (g i : Nat) : State :=
  let t := s.taskOf g i
  if t.failing ≠ 0 then s.failTask g i t.failing
  else
    match s.graph g with
    | none => s
    | some x =>
      let d := s.taskDesc x i
      let s := (s.clearTask g i).dropTaskWaits g i
      let s := s.releaseVersion g i
      let me := some (x.handle g, i)
      let s := (range (min 2 (tdNsig d))).foldl
        (fun s k => (s.sendAdd .trailhead (wkey x.ctx (tdSignal d k).1) (tdSignal d k).2 me).1) s
      let s := s.modTask g i (fun t => { t with phase := .done })
      let s := s.modGraph g (fun x => { x with doneCount := x.doneCount + 1 })
      let s := t.succ.foldl (fun s j => s.countSuccessor g j) s
      let s := s.releaseStash g i
      let s := if tdReply d then
          s.post x.fn x.cq ⟨x.tag, t.info, 0x08, x.ctx, 2, toBytes 4 (x.handle g) ++ toBytes 4 i, 0⟩
        else s
      (s.settle g).unspill

/-- Aborts an unfinished graph (R298): no save; its reply carries GRAPH_ABORTED. -/
def State.abortGraph (s : State) (g : Nat) : State := (s.endGraph g 0xA02).unspill

/-- A refused or failed add: an event names the identifier; the task that made it fails, at its end if it still runs (R305). -/
def State.addFailed (s : State) (key code : Nat) (by_ : Option (Nat × Nat)) : State :=
  let s := if code = 0xA04 then s.event (keyCtx key) 0xA04 (toBytes 4 (keyId key)) else s
  match by_ with
  | none => s
  | some (h, i) =>
    match s.graph (h % 256) with
    | none => s
    | some x =>
      if x.handle (h % 256) ≠ h then s
      else if (x.task i).ended then ((s.graphFail (h % 256) code i).settle (h % 256)).unspill
      else s.modTask (h % 256) i (fun t => { t with failing := if t.failing = 0 then code else t.failing })

/-- Records a fault of a core, unless an earlier one is held (Table 4.10). -/
def Core.recordFault (k : Core) (code pc ctx : Nat) (insn : W64) : Core :=
  if k.fault.valid then k else { k with fault := ⟨code, pc, true, ctx, insn⟩ }

/-- A core stops on a fault and fails its task (R133). -/
def State.failCore (s : State) (c code pc : Nat) (insn : W64) : State :=
  let k := s.core c
  match k.task with
  | none => s
  | some t =>
    let s := s.setCore c (k.recordFault code pc t.ctx insn)
    let s := s.failTask t.graph t.task code
    s.modCore c (fun k => { k with seq := .faulted, live := { k.live with pc := pc } })

end Sys2Proof.Machine
end

