-- ==== Sys2Proof/Machine/Retire.lean ====
section
/-! DEFINITION. The repair map and the retirement of a cluster, which takes effect at once (R19, R415, R417, R438, Table 14.4). -/

namespace Sys2Proof.Machine

/-! ## Measurement registers (R451, R452) -/

/-- The bytes of a digest. -/
def digestBytes (d : BitVec 512) : List Byte := toBytes 64 d.toNat
/-- Extends measurement register `r`. -/
def State.extend (s : State) (r : Nat) (new : BitVec 512) : State :=
  { s with boot := { s.boot with
    measure := mset 0 s.boot.measure r (Config.sha3 (digestBytes (mget 0 s.boot.measure r) ++ digestBytes new)) } }

/-! ## The repair map (R417, R438) -/

/-- A column record's word (Table 15.23). -/
def ColRec.word (r : ColRec) : Nat :=
  let c (k : Nat) : Nat := (r.cols[k]?).getD 0x3F
  c 0 + 64 * c 1 + 4096 * c 2 + 2 ^ 18 * min 3 r.count + 2 ^ 20 * b2n r.rowFault + 2 ^ 21 * b2n r.failed

/-- The slot of a cluster that serves no logical core. -/
def State.unusedSlot (s : State) (n : Nat) : Nat := ((range 19).find? (fun k => !(s.slotsOf n).contains k)).getD 0

/-- A cluster record (Table 15.23); zeros for a retired cluster. -/
def State.clusterRecord (s : State) (n : Nat) : List Byte :=
  if s.retired n then List.replicate 128 0
  else
    (s.slotsOf n).flatMap (fun k => toBytes 1 k) ++ toBytes 1 (s.unusedSlot n) ++ [0]
      ++ (range 19).flatMap (fun k => toBytes 4 (s.colRec (19 * n + k)).word) ++ List.replicate 32 0

/-- The current repair map in the layout of R438. -/
def State.repairMap (s : State) : List Byte :=
  let r := s.repair
  toBytes 4 r.gen ++ toBytes 4 r.rows.length ++ toBytes 4 r.hbm.length ++ toBytes 4 0 ++ toBytes 8 r.retired ++ List.replicate 40 0
    ++ (range 36).flatMap s.clusterRecord ++ r.rows.flatMap (fun e => toBytes 4 e) ++ r.hbm.flatMap (fun e => toBytes 4 e)

/-- A decision has come into effect: a new generation, signed, measured and announced (R417, R452). -/
def State.newGeneration (s : State) : State :=
  let s : State := { s with repair := { s.repair with gen := wrapAdd 32 s.repair.gen 1 } }
  let d := Config.sha3 s.repairMap
  let s : State := { s with repair := { s.repair with signature := Config.sign (digestBytes d) } }
  (s.extend 1 d).pfEvent 0x70A (toBytes 4 s.repair.gen)

/-! ## Retirement (Table 14.4) -/

/-- Whether a decision waits for a reset or Roll Call of a cluster. -/
def Decision.inCluster (d : Decision) (n : Nat) : Bool :=
  match d with
  | .column site _ => decide (site / 19 = n)
  | .row m k _ _ => decide (m ≤ 3 ∧ k = n)
  | .core site | .arrayRow site => decide (site / 19 = n)
  | .hbmRow _ => false

/-- Zeros a store range: memory, the words made good, the coalescers' units. -/
def State.zeroRange (s : State) (o n : Nat) : State :=
  { s with
    mem := s.mem.filter (fun e => !(decide (o ≤ e.1) && decide (e.1 < o + n)))
    bad := s.bad.filter (fun b => !(decide (o ≤ b) && decide (b + wordBytes b ≤ o + n)))
    clusters := (s.clusters.map (fun e => (e.1, e.2.dropHeld o n))).filter (fun e => decide (e.2 ≠ {})) }

/-- Whether a task holds a core or a grant in a cluster. -/
def Task.holds (t : Task) (n : Nat) : Bool :=
  t.cores.any (fun c => decide (clusterOf c = n)) || t.grants.any (fun g => match storeOf g.1 with
    | some (m, _) => decide (m = n)
    | none => false)

/-- Running or interrupted tasks that hold a core or a grant in a cluster. -/
def State.holders (s : State) (n : Nat) (running : Bool) : List (Nat × Nat) :=
  s.trh.graphs.flatMap (fun (e : Nat × Graph) => (e.2.tasks.filter (fun (t : Nat × Task) =>
    (decide (t.2.phase = Phase.running) || (!running && decide (t.2.phase = Phase.interrupted))) && t.2.holds n)).map
      (fun (t : Nat × Task) => (e.1, t.1)))

/-- Fails tasks in flight, running or interrupted, with a code. -/
def State.failAll (s : State) (l : List (Nat × Nat)) (code : Nat) : State :=
  if s.power.stopped then s
  else l.foldl (fun (s : State) e =>
    if (s.taskOf e.1 e.2).phase = .running ∨ (s.taskOf e.1 e.2).phase = .interrupted then s.failTask e.1 e.2 code else s) s

/-- Stash reservations with a granule in a cluster's stores are lost (R247). -/
def State.loseStash (s : State) (n : Nat) : State :=
  let one (e : Nat × Graph) : Nat × Graph :=
    let h := e.2.header
    let nc := max 1 (field h 4 4 / 64); let nl := max 1 (field h 8 4 / 64)
    let hit (q : Stash) : Bool := q.granules.any (fun g => decide ((g.1 = 0 ∧ g.2 / nc / 18 = n) ∨ (g.1 = 1 ∧ g.2 / nl = n)))
    (e.1, { e.2 with stash := e.2.stash.map (fun (q : Stash) => { q with lost := q.lost || hit q }) })
  { s with trh := { s.trh with graphs := s.trh.graphs.map (fun e => if e.2.stash = [] then e else one e) } }

/-- The contents of a cluster's stores are lost (Table 15.7). -/
def State.loseStores (s : State) (n : Nat) : State :=
  let s := (range 18).foldl (fun (s : State) k => s.zeroRange (coreBase + (18 * n + k) * 0x200000) 0x200000) s
  s.zeroRange (clusterBase + n * 0x2000000) 0x1800000

/-- The value of a Waymark at the last step boundary of its context; its INIT where it has been bound since (R307). -/
def State.boundaryCount (s : State) (key : Nat) (b : Binding) : Nat :=
  let bound := ((s.ctx (keyCtx key)).map Ctx.bound).getD []
  ((bound.find? (fun e => decide (e.1 = keyId key))).map Prod.snd).getD b.init

/-- Moves the Waymarks of a retired cluster to other homes, with the values of the last step boundary (R305, R307, log 47). -/
def State.rehome (s : State) (n : Nat) : State :=
  s.wmk.binds.foldl (fun (s : State) e =>
    if e.2.eff = 1 ∧ e.2.home = n then
      let h := s.homeFor s.wmk.binds e.2.target
      let v := s.boundaryCount e.1 e.2
      let b : Binding := { e.2 with eff := if h = none then 2 else 1, home := h.getD 0, count := v, away := false }
      (s.modWmk (fun m => { m with binds := mput m.binds e.1 b })).releaseMet e.1 v
    else s) s

/-- A cluster is retired at once, a decision that is logged: tasks with a core or grant there fail with CORE_RETIRED (Table 14.4, R19,
R307, R406). -/
def State.retire (s : State) (n : Nat) : State :=
  if s.retired n then s
  else
    let s := s.failAll (s.holders n false) 0x703
    let s : State := { s with repair := { s.repair with
      retired := s.repair.retired + 2 ^ n
      slots := mdel s.repair.slots n
      cols := s.repair.cols.filter (fun e => decide (e.1 / 19 ≠ n)) } }
    let s := ((s.loseStash n).loseStores n).rehome n
    let s := s.log (eventCode 7) 7 none false n (Config.eventDetail 7 s.tick)
    { s with
      cores := s.cores.filter (fun e => decide (clusterOf e.1 ≠ n))
      clusters := mdel s.clusters n
      rcl := { s.rcl with saved := mdel s.rcl.saved n } }

/-- Whether a cluster must be retired now (Table 14.4): a core of it must be replaced while its spare is in use, or its store has no spare
row left. -/
def State.doomed (s : State) (n : Nat) : Bool :=
  !s.retired n && (((s.colRec (19 * n + s.unusedSlot n)).failed && (range 18).any (fun k => s.retiring (18 * n + k)))
    || s.rowsExhausted 3 n 0)

/-- A decision that retires a cluster takes effect at once; what else waited for the cluster waits no more (R415, R417, Table 14.4). -/
def State.retireDoomed (s : State) : State :=
  if s.repair.waiting = [] then s
  else
    (range 36).foldl (fun (s : State) n =>
      if s.doomed n then
        let s := s.retire n
        ({ s with repair := { s.repair with waiting := s.repair.waiting.filter (fun d => !d.inCluster n) } } : State).newGeneration
      else s) s

/-- Records a repair decision, with the retirement that it may bring (R415). -/
def State.decideOn (s : State) (d : Decision) : State := (s.addDecision d).retireDoomed

/-- What a failed access leaves, and the retirement that a recorded row may bring (R28, R405, R415). -/
def State.noteAcc (s : State) (w : Who) (a : Acc) : State :=
  match a with
  | .bad _ => (s.markAcc w a).retireDoomed
  | _ => s.markAcc w a

end Sys2Proof.Machine
end

