-- ==== Sys2Proof/Machine/Operands.lean ====
section
/-! DEFINITION. Operand forms of tile instructions: tile-register geometry and elements (R40 to R46, R99), addresses (R104
to R106), tile memory (R95, R138), and loads and stores through Rambler (R107, R174, R183, R190, R191, R194). -/

namespace Sys2Proof.Machine

/-! ## Results -/

/-- How an instruction or an access of a core ends: done, failed with a code, missed in translation, or unfinished because
it waits for data. The state is the one reached. -/
inductive Res (α : Type) where
  | ok (s : State) (a : α)
  | fail (s : State) (code : Nat)
  | miss (s : State) (va : Nat) (store : Bool)
  | wait (s : State)
  deriving DecidableEq, Repr

/-- Goes on after an access that is done. -/
def Res.bind {α β : Type} (r : Res α) (f : State → α → Res β) : Res β :=
  match r with
  | .ok s a => f s a
  | .fail s c => .fail s c
  | .miss s v w => .miss s v w
  | .wait s => .wait s

/-- Runs an action for each element of a list, in order, keeping the results. -/
def Res.each {α β : Type} (f : State → α → Res β) : List α → State → Res (List β)
  | [], s => .ok s []
  | a :: r, s => (f s a).bind (fun s b => (Res.each f r s).bind (fun s bs => .ok s (b :: bs)))

/-- The result of a failed check: a miss, or a failure with its marks (Table 6.2, R28, R405). -/
def accRes {α : Type} (s : State) (w : Who) (a : Acc) (store : Bool) : Res α :=
  match a with
  | .miss va => .miss s va store
  | a => .fail (s.noteAcc w a) a.code

/-! ## Tile registers -/

/-- The footprint of a register. -/
def TReg.footprint (t : TReg) : Nat := footprintOf t.type t.blk t.rows t.cols
/-- The encoding of an element. -/
def TReg.enc (t : TReg) (r c : Nat) : Nat :=
  rowGet (typeBits t.type) (fun k => mget 0 t.data (r * pitchOf t.type t.cols + k)) c
/-- The scale byte of an element's block; 0 where the register has no block format. -/
def TReg.scaleOf (t : TReg) (r c : Nat) : Nat :=
  if t.blk = 0 then 0 else (mget 0 t.scales (r * scaleBytes t.blk t.cols + c / blockLen t.blk)).toNat
/-- The value of an element, without scale. -/
def TReg.val (t : TReg) (r c : Nat) : FV := decodeElem t.type (t.enc r c)
/-- An element as an array operand; masked beyond ROWS or COLS (R56, R113). -/
def TReg.operand (t : TReg) (r c : Nat) : Operand :=
  if r < t.rows ∧ c < t.cols then some (t.val r c, scaleVal t.blk (t.scaleOf r c)) else none

/-- Clears the bits of a row's bytes above its last element (R42). -/
def zeroPad (nbits : Nat) (bs : List Byte) : List Byte :=
  if nbits % 8 = 0 then bs else upd bs (nbits / 8) (fun b => b &&& BitVec.ofNat 8 (2 ^ (nbits % 8) - 1))

/-- The bytes of row `r` as they are stored (R107). -/
def TReg.row (t : TReg) (r : Nat) : List Byte :=
  mread 0 t.data (r * pitchOf t.type t.cols) (rowBytes t.type t.cols)
/-- The scale bytes of row `r`. -/
def TReg.scaleRow (t : TReg) (r : Nat) : List Byte :=
  mread 0 t.scales (r * scaleBytes t.blk t.cols) (scaleBytes t.blk t.cols)
/-- Fills row `r` and its scales. -/
def TReg.setRow (t : TReg) (r : Nat) (data scales : List Byte) : TReg :=
  { t with
    data := mwrite 0 t.data (r * pitchOf t.type t.cols) (zeroPad (t.cols * typeBits t.type) data)
    scales := mwrite 0 t.scales (r * scaleBytes t.blk t.cols) scales }

/-- Packs encodings of `b` bits into bytes (R40, R41). -/
def packBits (b : Nat) (es : List Nat) : List Byte :=
  toBytes (cdiv (es.length * b) 8) (es.foldr (fun e acc => e % 2 ^ b + 2 ^ b * acc) 0)

/-- Tile register `t` of a core. -/
def Core.treg (k : Core) (t : Nat) : TReg := mget {} k.live.tregs t
/-- Accumulator tile `n` of a core; a tile that is not in use holds +0 with class and orientation unset (R79). -/
def Core.accTile (k : Core) (n : Nat) : AccTile :=
  let a : AccTile := mget {} k.live.acc n
  if a.inUse then a else {}
/-- Changes a core's live state. -/
def Core.modLive (k : Core) (f : Live → Live) : Core := { k with live := f k.live }
/-- Replaces tile register `t` of a core. -/
def State.setTreg (s : State) (c t : Nat) (r : TReg) : State :=
  s.modCore c (fun k => k.modLive (fun l => { l with tregs := mset {} l.tregs t r }))
/-- Replaces accumulator tile `n` of a core. -/
def State.setAcc (s : State) (c n : Nat) (a : AccTile) : State :=
  s.modCore c (fun k => { k with
    live := { k.live with acc := mset {} k.live.acc n a }
    badAcc := if (k.accTile n).inUse then k.badAcc else k.badAcc.filter (fun w => decide (w / 512 ≠ n)) })
/-- Writes the whole of accumulator tile `n` of a core: its words read correctly again (R405). -/
def State.fillAcc (s : State) (c n : Nat) (a : AccTile) : State :=
  (s.setAcc c n a).modCore c (fun k => { k with badAcc := k.badAcc.filter (fun w => decide (w / 512 ≠ n)) })
/-- Element [r][j] of an accumulator tile, as its bits. -/
def AccTile.get (a : AccTile) (r j : Nat) : Nat := (mget 0 a.elems (32 * r + j)).toNat
/-- Writes element [r][j]. -/
def AccTile.put (a : AccTile) (r j v : Nat) : AccTile :=
  { a with elems := mset 0 a.elems (32 * r + j) (BitVec.ofNat 32 v) }

/-! ## Addresses (R104 to R106) -/

/-- The value of an address register. -/
def areg (r : Map (BitVec 48)) (n : Nat) : Nat := (mget 0 r n).toNat
/-- The data row stride of a STRIDE register, signed (R105). -/
def dataStride (r : Map (BitVec 48)) (n : Nat) : Int := signed 32 (areg r n)
/-- The scale row stride of a STRIDE register (R105). -/
def scaleStride (r : Map (BitVec 48)) (n : Nat) : Nat := bits (areg r n) 47 32
/-- The local offset of row `i` from a base, modulo 2⁴⁸. -/
def rowAt (base off : Int) (i : Nat) (stride : Int) : Nat := wrap 48 (base + off + (i : Int) * stride)

/-- The place of a local offset: tile memory, this device, or the device that a prefix register names (R104). -/
def placeAt (r : Map (BitVec 48)) (space remote : Bool) (pfx o : Nat) : Nat :=
  if space then tmBase + o
  else if remote then areg r pfx % 65536 * 2 ^ 48 + o
  else 0x7FFF * 2 ^ 48 + o

/-- Whether a row's data offset is aligned for its type (R106). -/
def alignedFor (type o : Nat) : Bool :=
  match typeBits type with
  | 32 => decide (o % 4 = 0)
  | 16 => decide (o % 2 = 0)
  | _ => true

/-- Whether `n` bytes at a place lie wholly below the end of tile memory (R106); true of every other place. -/
def fitsTile (a n : Nat) : Bool := decide (a < tmBase) || decide (a - tmBase + n ≤ 524288)

/-! ## Tile memory (R95, R138) -/

/-- Reads tile memory of a core. -/
def Core.tileRead (k : Core) (o n : Nat) : List Byte := mread 0 k.live.tmem o n

/-- Whether a loaded image at an offset in 64-byte units meets a written range (R91). -/
def imageMeets (off o n : Nat) : Bool := decide (off * 64 < o + n) && decide (o < off * 64 + 4160) && decide (0 < n)

/-- Adds the lines of a written range to the valid lines. -/
def addLines (ls : List Nat) (o n : Nat) : List Nat :=
  if n = 0 then ls
  else
    let new := (range ((o + n - 1) / 64 - o / 64 + 1)).map (fun i => o / 64 + i)
    (ls ++ new.filter (fun l => !ls.contains l))

/-- Writes tile memory of a core: lines become valid (R138), and a slot whose image the write meets is emptied (R91). -/
def Core.tileWrite (k : Core) (o : Nat) (bs : List Byte) : Core :=
  let hit1 := k.t1 = 0xF && imageMeets k.t1off o bs.length
  let hit2 := k.t2 = 0xF && imageMeets k.t2off o bs.length
  { k with
    t1 := if hit1 then 0 else k.t1
    t1off := if hit1 then 0 else k.t1off
    t2 := if hit2 then 0 else k.t2
    t2off := if hit2 then 0 else k.t2off
    live := { k.live with
      tmem := mwrite 0 k.live.tmem o bs
      lines := addLines k.live.lines o bs.length } }

/-! ## Global memory through Rambler -/

/-- On whose behalf a core accesses memory: its task's context, store grants and cluster. -/
def State.whoCore (s : State) (c : Nat) : Who :=
  match (s.core c).task with
  | some t => ⟨t.ctx, some (s.taskOf t.graph t.task).grants, some (clusterOf c)⟩
  | none => ⟨0, some [], some (clusterOf c)⟩

/-- Rambler's name of the 256-byte unit of a place: a local offset, or an address of another device above every one. -/
def State.unitKey (s : State) (a : Nat) : Nat :=
  if s.isHere a then localOf a / 256 * 256 else tmBase + a / 256 * 256

/-- Changes a core's Rambler. -/
def State.modRamb (s : State) (c : Nat) (f : Rambler → Rambler) : State :=
  s.modCore c (fun k => { k with ramb := f k.ramb })

/-- Whether the page of a local offset has NOSPEC set for a context (R177, R188). -/
def State.nospec (s : State) (x o : Nat) : Bool :=
  match s.ctx x with
  | some c => match lookupPage c.pages o with
    | some (_, attr) => bit attr 2
    | none => false
  | none => false

/-- Whether reads of a physical offset leave the cluster for HBM, the slow tier or another device (R184, R194). -/
def leavesCluster (pa : Nat) : Bool := decide (regionOf pa = .hbm ∨ regionOf pa = .slow ∨ tmBase ≤ pa)

/-- The bytes of its 256-byte unit that a range takes, as a mask. -/
def unitMask (o n : Nat) : Nat := (2 ^ n - 1) <<< (o % 256)

/-- The first byte that a mask takes in. -/
def maskFirst (mask : Nat) : Nat := ((range 256).find? (bit mask)).getD 0

/-- The bytes from the first that a mask takes in to its last. -/
def maskBytes (mask : Nat) : Nat := ((range 256).filter (bit mask)).getLastD 0 + 1 - maskFirst mask

/-- Whether a mask takes in another. -/
def covers (m n : Nat) : Bool := decide (m &&& n = n)

/-! ### The cluster's coalescer (R194) -/

/-- The bytes of its unit that a read of another device asks for. -/
def Op.mask (o : Op) : Nat := unitMask o.packet.addr o.packet.length

/-- Whether a read of bytes of a unit by a task is outstanding in a cluster: at a stack or a slow-tier die, or at another device since
the task's last dependency point in the cluster (R192). -/
def State.outstanding (s : State) (n g i pu mask : Nat) : Bool :=
  (range 18).any (fun j =>
    let d := 18 * n + j
    decide ((s.core d).task.map (fun t => (t.graph, t.task)) = some (g, i)) &&
      ((s.core d).ramb.reqs.any (fun q => q.load && decide (q.st ≠ .window ∧ q.scope ≠ 2) && decide (q.pa / 256 * 256 = pu))
        || s.nxp.ops.any (fun o => decide (o.packet.op = 1 ∧ o.owner = .core d pu) && !o.stale && covers o.mask mask)))

/-- How a read fares at the coalescer of its cluster: served with a unit's data, merged with a read that is outstanding, or new. -/
inductive Path where
  | served (data : List Byte)
  | merged
  | new
  deriving DecidableEq, Repr

/-- Where a read of a unit by a task goes in its cluster. -/
def State.pathOf (s : State) (n g i pu mask : Nat) : Path :=
  match (s.cluster n).held.find? (fun h => decide (h.graph = g ∧ h.task = i ∧ h.unit = pu) && covers h.mask mask) with
  | some h => .served h.data
  | none => if s.outstanding n g i pu mask then .merged else .new

/-- A served read counts in CLS_COALESCED; a held unit was used last. -/
def State.countServed (s : State) (n g i pu : Nat) : State :=
  s.modCluster n (fun k => { k with
    coalesced := wrapAdd 48 k.coalesced 1
    held := k.held.filter (fun h => !decide (h.graph = g ∧ h.task = i ∧ h.unit = pu))
      ++ k.held.filter (fun h => decide (h.graph = g ∧ h.task = i ∧ h.unit = pu)) })

/-- The coalescer holds a unit for a task in the place of the least recently used of 512. -/
def State.hold (s : State) (n g i pu mask : Nat) (data : List Byte) : State :=
  s.modCluster n (fun k =>
    let l := k.held.filter (fun h => !decide (h.graph = g ∧ h.task = i ∧ h.unit = pu)) ++ [⟨g, i, pu, mask, data⟩]
    { k with held := l.drop (l.length - 512) })

/-- All 256 bytes of a unit. -/
def wholeUnit : Nat := 2 ^ 256 - 1

/-- The coalescer takes in a unit that was read; a unit with an uncorrectable word is not held, and the word is logged and recorded for
repair (R194, R405). -/
def State.holdUnit (s : State) (w : Who) (n g i pu : Nat) : State :=
  match s.bad.find? (fun b => decide (b < pu + 256) && decide (pu < b + wordBytes b)) with
  | some b => s.noteAcc w (.bad b)
  | none => s.hold n g i pu wholeUnit (s.get pu 256)

/-- A read of a unit at a physical offset by a task passes the coalescer of its cluster and is answered at once; a new one is held
unless its page has NOSPEC. -/
def State.coalesce (s : State) (w : Who) (n g i pu : Nat) (keep : Bool) : State :=
  match s.pathOf n g i pu wholeUnit with
  | .new => if keep then s.holdUnit w n g i pu else s
  | _ => s.countServed n g i pu

/-- A read of bytes of a unit of another device by a task passes the coalescer of its cluster and is answered at once (log 15). -/
def State.coalesceFar (s : State) (n g i u mask : Nat) : State :=
  let key := tmBase + u
  match s.pathOf n g i key mask with
  | .new => s.hold n g i key mask ((range 256).map (fun k => Config.remoteByte s.tick (u + k)))
  | _ => s.countServed n g i key

/-- The reads of a range of global addresses by an engine of a cluster for a task pass the coalescer. -/
def State.coalesceRange (s : State) (n g i : Nat) (w : Who) (p : Nat × Nat) : State :=
  if s.isHere p.1 then
    (units (localOf p.1) p.2).foldl (fun s q =>
      match s.check w q.1 false with
      | .ok pa => if leavesCluster pa then s.coalesce w n g i (pa / 256 * 256) (!s.nospec w.ctx q.1) else s
      | _ => s) s
  else (units p.1 p.2).foldl (fun s q => s.coalesceFar n g i (q.1 / 256 * 256) (unitMask q.1 q.2)) s

/-! ### Tags, queues and the sort window (R182 to R184) -/

/-- Tags that a core holds: requests that Rambler has issued and reads at another device (R183). -/
def State.tagsOf (s : State) (c : Nat) : Nat :=
  ((s.core c).ramb.reqs.filter (fun q => decide (q.st ≠ .window))).length + (s.nxp.ops.filter (fun o => match o.owner with
    | .core d _ => decide (d = c ∧ o.packet.op = 1)
    | .discard d _ | .orphan d => decide (d = c)
    | _ => false)).length

/-- Requests in the sort window (R184). -/
def Rambler.windowed (m : Rambler) : Nat := (m.reqs.filter (fun q => decide (q.st = .window))).length

/-- Whether the next request finds a tag free (R183). -/
def State.tagFree (s : State) (c : Nat) : Bool := decide (s.tagsOf c + (s.core c).ramb.windowed < 128)

/-- Load-queue entries in use: data held, and an entry reserved for each read (R183). -/
def State.lqUsed (s : State) (c : Nat) : Nat :=
  (s.core c).ramb.lq.length + ((s.core c).ramb.reqs.filter Req.load).length + (s.nxp.ops.filter (fun o => match o.owner with
    | .core d _ => decide (d = c ∧ o.packet.op = 1)
    | .discard d _ | .orphan d => decide (d = c)
    | _ => false)).length

/-- The requests of the window that may issue, oldest first, with their places: a load not while an earlier store to its unit waits
there (R184). -/
def Rambler.ready (m : Rambler) : List (Nat × Req) :=
  (m.reqs.mapIdx (fun i q => (i, q))).filter (fun e => decide (e.2.st = .window) &&
    !(e.2.load && (m.reqs.take e.1).any (fun q => !q.load && decide (q.st = .window) && decide (q.pa / 256 = e.2.pa / 256))))

/-- Whether a request targets the row last issued to its pseudo-channel (R184). -/
def Rambler.sameRow (m : Rambler) (q : Req) : Bool :=
  decide (regionOf q.pa = .hbm) && decide (mfind m.last (Config.hbmChannel q.pa) = some (Config.hbmPlace q.pa))

/-- The request that the window issues next (R184): one that has waited 256 cycles, else one of the same row, else the oldest. A cycle
is one issue (log 17). -/
def Rambler.pick (m : Rambler) : Option (Nat × Req) :=
  match m.ready with
  | [] => none
  | [e] => some e
  | e :: r => (((e :: r).find? (fun x => decide (x.2.age + 256 ≤ m.cycle))).or ((e :: r).find? (fun x => m.sameRow x.2))).or (some e)

/-- Issues one request of the window: a read passes the coalescer (R194); a request to a stopped controller is held back at the
cluster port (R200). -/
def State.issueReq (s : State) (c i : Nat) (q : Req) : State :=
  let go : Req := { q with st := if s.stoppedAt q.pa then .held else .sent }
  let (s, q) : State × Req :=
    match (if q.load then (s.core c).task else none) with
    | none => (s, go)
    | some t =>
      let pu := q.pa / 256 * 256
      match s.pathOf (clusterOf c) t.graph t.task pu q.mask with
      | .served d => (s.countServed (clusterOf c) t.graph t.task pu, { q with st := .sent, served := some d })
      | .merged => (s.countServed (clusterOf c) t.graph t.task pu, { q with st := .sent, merged := true })
      | .new => (s, go)
  s.modRamb c (fun m => { m with
    reqs := upd m.reqs i (fun _ => q)
    cycle := m.cycle + 1
    last := if regionOf q.pa = .hbm then mput m.last (Config.hbmChannel q.pa) (Config.hbmPlace q.pa) else m.last })

/-- Issues requests of the window while tags are free; `fuel` bounds them. -/
def State.issueReqs (s : State) (c : Nat) : Nat → State
  | 0 => s
  | n + 1 =>
    match (if s.tagsOf c < 128 then (s.core c).ramb.pick else none) with
    | none => s
    | some (i, q) => (s.issueReq c i q).issueReqs c n

/-- Issues what the window can issue, and the controllers count it (R184, R200). -/
def State.issueWindow (s : State) (c : Nat) : State := (s.issueReqs c (s.core c).ramb.windowed).settleQueues

/-! ### Speculative reads (R183, R185, R188) -/

/-- A speculative fetch that is dropped counts in CORE_RMB_DROPPED (R188). -/
def State.dropFetch (s : State) (c : Nat) : State := s.modRamb c (fun m => { m with dropped := wrapAdd 48 m.dropped 1 })

/-- Whether Rambler has asked for bytes of a unit: a read of them is on its way, or follows the acknowledgement of a store of the unit
(R191). -/
def State.coming (s : State) (c key mask : Nat) : Bool :=
  let m := (s.core c).ramb
  m.reqs.any (fun q => q.load && !q.void && decide (q.unit = key) && covers q.mask mask)
    || s.nxp.ops.any (fun o => decide (o.owner = .core c key ∧ o.packet.op = 1) && covers o.mask mask)
    || m.again.any (fun e => decide (e.unit = key) && m.reqs.any (fun q => !q.load && decide (q.pa / 256 = e.pa / 256)))

/-- The entry of the load queue that holds bytes of a unit. -/
def Rambler.entry (m : Rambler) (key o n : Nat) : Option LqEntry :=
  m.lq.find? (fun e => decide (e.unit = key) && covers e.mask (unitMask o n))

/-- Whether a read can be entered: a tag and a load-queue entry are free, and the sort window has a place (R182 to R184). -/
def State.mayAsk (s : State) (c : Nat) : Bool :=
  s.tagFree c && decide (s.lqUsed c < 384) && decide ((s.core c).ramb.windowed < 64)

/-- A request for a read enters the window, merging with one of its unit that waits there (R184); one for a store of this device's
clusters and cores goes at once. -/
def State.enterRead (s : State) (c key pa mask : Nat) (spec : Bool) : State :=
  s.modRamb c (fun m =>
    match findIdx (fun (q : Req) => q.load && decide (q.unit = key ∧ q.st = .window)) m.reqs with
    | some (i, _) => { m with reqs := upd m.reqs i (fun q => { q with mask := q.mask ||| mask, spec := q.spec && spec }) }
    | none => { m with reqs := m.reqs ++ [{
        unit := key, pa := pa / 256 * 256, load := true, mask := mask, spec := spec, age := m.cycle
        st := if leavesCluster pa then .window else .sent }] })

/-- A read of bytes of a unit at another device, speculative or on demand (R187, R188, R361): from the coalescer, merged, or sent; the
code is not 0 where it fails on this device. -/
def State.readRemote (s : State) (c : Nat) (w : Who) (p : Nat × Nat) (spec : Bool) : State × Nat :=
  let key := tmBase + p.1 / 256 * 256
  let mask := unitMask p.1 p.2
  let n := clusterOf c
  match (s.core c).task with
  | none => (s, 0)
  | some t =>
    match s.pathOf n t.graph t.task key mask with
    | .served d => ((s.countServed n t.graph t.task key).modRamb c (fun m => { m with lq := m.lq ++ [⟨key, key, mask, d⟩] }), 0)
    | .merged => ((s.countServed n t.graph t.task key).modRamb c (fun m => { m with reqs := m.reqs ++ [{
        unit := key, pa := key, load := true, mask := mask, spec := spec, merged := true, scope := 2 }] }), 0)
    | .new => s.request (.core c key) (dieOfCluster n) w.ctx 1 (deviceOf p.1) p.2 (localOf p.1) spec []

/-- The speculative fetch of bytes of one unit (R183, R187, R188): dropped where it misses, fails a check, meets an uncorrectable word
or lies on a NOSPEC page; a read of another device carries the speculative flag. -/
def State.prefetch (s : State) (c : Nat) (w : Who) (p : Nat × Nat) : State :=
  let key := s.unitKey p.1
  let mask := unitMask p.1 p.2
  if ((s.core c).ramb.entry key p.1 p.2).isSome || s.coming c key mask then s
  else if s.isHere p.1 then
    match s.check w (localOf p.1) false with
    | .ok pa =>
      if s.nospec w.ctx (localOf p.1) then s.dropFetch c
      else if s.uncorrectable pa p.2 then (s.noteAcc w (.bad pa)).dropFetch c
      else s.enterRead c key pa mask true
    | _ => s.dropFetch c
  else
    match s.readRemote c w p true with
    | (t, 0) => t
    | (t, _) => t.dropFetch c

/-- Fetches parts of units in order while tags and load-queue entries are free, a full window issuing as it goes; the state and how
many parts it has dealt with. -/
def State.prefetchAll (s : State) (c : Nat) (w : Who) : List (Nat × Nat) → State × Nat
  | [] => (s, 0)
  | p :: r =>
    let s := if 64 ≤ (s.core c).ramb.windowed then s.issueWindow c else s
    if !s.mayAsk c then (s, 0)
    else let f := (s.prefetch c w p).prefetchAll c w r; (f.1, f.2 + 1)

/-! ### Demand loads (R174, R184, R188, R192) -/

/-- Makes room for a demand read: a full window issues, and where the load queue is full, the newest unit in it that the row does not
need is given up; its own load asks for it again (log 85). -/
def State.entryFor (s : State) (c : Nat) (need : List Nat) : State :=
  let s := if 64 ≤ (s.core c).ramb.windowed then s.issueWindow c else s
  if s.lqUsed c < 384 then s
  else s.modRamb c (fun m => match m.lq.reverse.find? (fun e => !need.contains e.unit) with
    | some e => { m with lq := m.lq.erase e }
    | none => m)

/-- A read that Rambler has asked for serves an instruction that has begun: it is a demand fetch from now on (R188). -/
def State.onDemand (s : State) (c key : Nat) : State :=
  s.modRamb c (fun m => { m with reqs := m.reqs.map (fun (q : Req) => if q.load ∧ q.unit = key then { q with spec := false } else q) })

/-- A unit that was to be fetched again is asked for (R191). -/
def State.takeAgain (s : State) (c key : Nat) : State :=
  s.modRamb c (fun m => { m with
    again := m.again.filter (fun e => decide (e.unit ≠ key))
    refetch := wrapAdd 48 m.refetch (m.again.filter (fun e => decide (e.unit = key))).length })

/-- Asks on demand for part of a unit that the load queue does not hold: whether the bytes are at hand. A store of this device's clusters
and cores is read when the row is. -/
def State.demandUnit (s : State) (c : Nat) (w : Who) (need : List Nat) (p : Nat × Nat) : Res Bool :=
  let key := s.unitKey p.1
  let mask := unitMask p.1 p.2
  let held := ((s.core c).ramb.entry key p.1 p.2).isSome
  if s.isHere p.1 then
    match s.check w (localOf p.1) false with
    | .ok pa =>
      if held || !leavesCluster pa then .ok s true
      else if s.uncorrectable pa p.2 then .fail (s.noteAcc w (.bad pa)) 0x701
      else if s.coming c key mask then .ok (s.onDemand c key) false
      else
        let s := s.entryFor c need
        .ok (if s.mayAsk c then (s.takeAgain c key).enterRead c key pa mask false else s) false
    | a => accRes s w a false
  else if held then .ok s true
  else if s.coming c key mask then .ok (s.onDemand c key) false
  else
    let s := s.entryFor c need
    if !s.mayAsk c then .ok s false
    else
      match (s.takeAgain c key).readRemote c w p false with
      | (t, 0) => .ok t ((t.core c).ramb.entry key p.1 p.2).isSome
      | (t, code) => .fail t code

/-- Asks on demand for what ranges need; waits while something is missing, and the window issues (R183, R184, R361). -/
def State.demand (s : State) (c : Nat) (w : Who) (l : List (Nat × Nat)) : Res Unit :=
  let parts := (l.filter (fun p => decide (p.1 < tmBase))).flatMap (fun p => units p.1 p.2)
  (Res.each (fun s p => s.demandUnit c w (parts.map (fun q => s.unitKey q.1)) p) parts s).bind (fun s got =>
    if got.all (fun b => b) then .ok s () else .wait (s.issueWindow c))

/-- Reads part of a unit for a core: from the load queue if it holds it, else from a store of this device under the core's own stores
(R190). -/
def State.loadUnit (s : State) (c : Nat) (w : Who) (p : Nat × Nat) : Res (List Byte) :=
  match (s.core c).ramb.entry (s.unitKey p.1) p.1 p.2 with
  | some e => .ok s (slice e.data (p.1 % 256) p.2)
  | none =>
    if !s.isHere p.1 then .wait s
    else
      match s.check w (localOf p.1) false with
      | .ok pa => if s.uncorrectable pa p.2 then .fail (s.noteAcc w (.bad pa)) 0x701 else .ok s (s.ownGet c pa p.2)
      | a => accRes s w a false

/-- Reads bytes at a place for a core: tile memory, or memory unit by unit. -/
def State.loadAt (s : State) (c : Nat) (w : Who) (p : Nat × Nat) : Res (List Byte) :=
  if tmBase ≤ p.1 then .ok s ((s.core c).tileRead (p.1 - tmBase) p.2)
  else (Res.each (fun s q => s.loadUnit c w q) (units p.1 p.2) s).bind (fun s l => .ok s l.flatten)

/-- Rambler's names of the units that ranges meet in memory. -/
def State.keysOf (s : State) (l : List (Nat × Nat)) : List Nat :=
  l.flatMap (fun p => if tmBase ≤ p.1 then [] else (units p.1 p.2).map (fun q => s.unitKey q.1))

/-- Drops from Rambler what was fetched for ranges that an instruction has read, but for the units that `later` ranges of it need; a read
of theirs on its way keeps its tag (R183). -/
def State.consume (s : State) (c : Nat) (l later : List (Nat × Nat)) : State :=
  let rest := s.keysOf later
  let us := (s.keysOf l).filter (fun u => !rest.contains u)
  s.modRamb c (fun m => { m.dropReads (fun q => us.contains q.unit) with
    lq := m.lq.filter (fun e => !us.contains e.unit) })

/-! ### Stores (R182, R183, R190, R191) -/

/-- The scope that a store of a core to a local offset belongs to (R124): 0 the stores of its cluster, 1 the device. -/
def storeScope (c o : Nat) : Nat :=
  match storeOf o with
  | some (n, _) => if n = clusterOf c then 0 else 1
  | none => 1

/-- One store of an instruction: whether it keeps R106, its place, how many bits of its last byte are written (0: all), and its
bytes. -/
structure Store where
  ok : Bool
  at_ : Nat
  m : Nat
  bytes : List Byte
  deriving DecidableEq, Repr

/-- The stores of single units that a store makes (R174); tile memory takes one whole. -/
def Store.cut (x : Store) : List Store :=
  if !x.ok || decide (tmBase ≤ x.at_) then [x]
  else (units x.at_ x.bytes.length).map (fun q =>
    ⟨true, q.1, if q.1 + q.2 = x.at_ + x.bytes.length then x.m else 0, (x.bytes.drop (q.1 - x.at_)).take q.2⟩)

/-- Whether the store queue has no entry free (R182). -/
def Rambler.storesFull (m : Rambler) : Bool := decide (112 ≤ (m.reqs.filter (fun q => !q.load)).length)

/-- A store of a core enters the store queue. What Rambler holds of its unit, or has asked for, is not wanted any more and is fetched
again once the store is acknowledged (R183, R190, R191). -/
def State.noteStore (s : State) (c : Nat) (q : Req) : State :=
  let k := s.core c
  let pu := q.pa / 256
  let mine := (k.ramb.lq.filter (fun e => decide (e.pa / 256 = pu))).map (fun (e : LqEntry) => (⟨e.unit, e.pa, e.mask, []⟩ : LqEntry))
  let asked := (k.ramb.reqs.filter (fun r => r.load && !r.void && decide (r.pa / 256 = pu))).map
    (fun (r : Req) => (⟨r.unit, r.pa, r.mask, []⟩ : LqEntry))
  let far := (s.nxp.ops.filter (fun o => decide (o.owner = .core c (pu * 256) ∧ o.packet.op = 1))).map
    (fun (o : Op) => (⟨pu * 256, pu * 256, o.mask, []⟩ : LqEntry))
  let s := s.modRamb c (fun m =>
    let m := m.dropReads (fun r => decide (r.pa / 256 = pu))
    { m with
      reqs := m.reqs ++ [q]
      lq := m.lq.filter (fun e => decide (e.pa / 256 ≠ pu))
      again := m.again ++ mine ++ asked ++ far })
  s.discardReads c (fun u => decide (u = pu * 256))

/-- One unit of a store on this device: into the store queue, by way of the sort window for HBM and the slow tier; it waits for a
place and a tag (R182 to R184). -/
def State.storeUnit (s : State) (c : Nat) (w : Who) (p : Pending) (o m : Nat) (bs : List Byte) : Res Unit :=
  match s.check w o true with
  | .ok pa =>
    let k := s.core c
    let far := leavesCluster pa
    if s.mergesBad pa bs.length then .fail (s.noteAcc w (.bad pa)) 0x701
    else if k.ramb.storesFull || (if far then decide (64 ≤ k.ramb.windowed) else !s.tagFree c) then .wait s
    else
      let s := s.noteStore c {
        unit := o / 256 * 256, pa := pa, load := false, scope := storeScope c o, data := bs, low := m, age := k.ramb.cycle
        st := if far then .window else .sent, pc := p.pc, word := p.word }
      .ok (if far then s.issueWindow c else s) ()
  | a => accRes s w a true

/-- One unit of a store to another device (R358, R361). -/
def State.storeRemote (s : State) (c : Nat) (w : Who) (p : Pending) (a m : Nat) (bs : List Byte) : Res Unit :=
  if (s.core c).ramb.storesFull || !s.tagFree c then .wait s
  else
    let bs := mergeLast m (Config.remoteByte s.tick (a + bs.length - 1)) bs
    let key := tmBase + a / 256 * 256
    let (s, code) := s.request (.core c key) (dieOfCluster (clusterOf c)) w.ctx 2 (deviceOf a) bs.length (localOf a) false bs
    if code ≠ 0 then .fail s code
    else .ok (s.noteStore c { unit := key, pa := tmBase + a, load := false, scope := 2, data := bs, pc := p.pc, word := p.word }) ()

/-- Makes one store of a single unit. -/
def State.storeOne (s : State) (c : Nat) (w : Who) (p : Pending) (x : Store) : Res Unit :=
  if !x.ok then .fail s 0x402
  else if tmBase ≤ x.at_ then
    let o := x.at_ - tmBase
    let old := ((s.core c).tileRead (o + x.bytes.length - 1) 1).headD 0
    .ok (s.modCore c (fun k => k.tileWrite o (mergeLast x.m old x.bytes))) ()
  else if s.isHere x.at_ then s.storeUnit c w p (localOf x.at_) x.m x.bytes
  else s.storeRemote c w p x.at_ x.m x.bytes

/-- An unfinished instruction has handed stores to Rambler. -/
def State.handed (s : State) (c : Nat) (p : Pending) (n : Nat) : State :=
  s.modCore c (fun k => k.modLive (fun l => { l with
    pendings := l.pendings.map (fun x => if x = p then { x with done := p.done + n } else x) }))

/-- Makes stores of single units in order; where one waits, those before it stay made (R174, R182). `n` counts them. -/
def State.storeList (s : State) (c : Nat) (w : Who) (p : Pending) : Nat → List Store → Res Unit
  | _, [] => .ok s ()
  | n, x :: r =>
    match s.storeOne c w p x with
    | .ok s _ => s.storeList c w p (n + 1) r
    | .wait s => .wait (s.handed c p n)
    | .fail s code => .fail s code
    | .miss s va store => .miss s va store

/-- Makes the stores of an instruction that it has not made yet. -/
def State.storeAll (s : State) (c : Nat) (p : Pending) (l : List Store) : Res Unit :=
  s.storeList c (s.whoCore c) p 0 ((l.flatMap Store.cut).drop p.done)

end Sys2Proof.Machine
end

