-- ==== Sys2Proof/Machine/Descriptors.lean ====
section
/-! DEFINITION. Tensor descriptors, shard descriptors and coordinate lists (chapter 05): their fields, layouts, footprints and
checks, and tensors as operands of mapped tasks. -/

namespace Sys2Proof.Machine

/-! ## The tensor descriptor (Tables 5.1, 5.2) -/

/-- BASE. -/
def dsBase (d : List Byte) : Nat := field d 0 8
/-- TENSOR_ID. -/
def dsId (d : List Byte) : Nat := field d 8 4
/-- CONTROL. -/
def dsCtl (d : List Byte) : Nat := field d 0xC 4
/-- TYPE. -/
def dsType (d : List Byte) : Nat := bits (dsCtl d) 3 0
/-- BLK. -/
def dsBlk (d : List Byte) : Nat := bits (dsCtl d) 6 4
/-- RANK. -/
def dsRank (d : List Byte) : Nat := bits (dsCtl d) 11 8
/-- NBLOCKED. -/
def dsNblk (d : List Byte) : Nat := bits (dsCtl d) 13 12
/-- STRICT. -/
def dsStrict (d : List Byte) : Bool := bit (dsCtl d) 14
/-- SIZE of a dimension. -/
def dsSize (d : List Byte) (i : Nat) : Nat := field d (0x10 + 4 * i) 4
/-- STRIDE of a dimension. -/
def dsStride (d : List Byte) (i : Nat) : Int := signed 48 (field d (0x30 + 6 * i) 6)
/-- SCALE_BASE. -/
def dsScale (d : List Byte) : Nat := field d 0x60 8
/-- T_SCALE. -/
def dsTscale (d : List Byte) : Nat := field d 0x68 4
/-- BLOCK entry `j`. -/
def dsBlock (d : List Byte) (j : Nat) : Nat := field d (0x6C + 4 * j) 4
/-- Block size of BLOCK entry `j`. -/
def dsB (d : List Byte) (j : Nat) : Nat := dsBlock d j % 65536 + 1
/-- Dimension of BLOCK entry `j`. -/
def dsDim (d : List Byte) (j : Nat) : Nat := bits (dsBlock d j) 18 16
/-- SHARD. -/
def dsShard (d : List Byte) : Nat := field d 0x78 8
/-- Bits per element. -/
def dsBits (d : List Byte) : Nat := typeBits (dsType d)
/-- The extents below RANK. -/
def dsSizes (d : List Byte) : List Nat := (range (dsRank d)).map (dsSize d)
/-- Number of rows: runs along dimension 0 (R145, R148). -/
def dsRows (d : List Byte) : Nat := prod ((dsSizes d).drop 1)
/-- Number of elements. -/
def dsCountAll (d : List Byte) : Nat := prod (dsSizes d)
/-- The block size of a dimension, if it is blocked (R146). -/
def dsBlocked (d : List Byte) (i : Nat) : Option Nat :=
  ((range (min 3 (dsNblk d))).find? (fun j => decide (dsDim d j = i))).map (dsB d)
/-- Positions along a dimension: elements, or blocks where it is blocked (R149). -/
def dsCount (d : List Byte) (i : Nat) : Nat :=
  match dsBlocked d i with
  | some b => cdiv (dsSize d i) b
  | none => dsSize d i
/-- Bytes of a dense row. -/
def dsRowBytes (d : List Byte) : Nat := cdiv (dsSize d 0 * dsBits d) 8
/-- Scale bytes of a row. -/
def dsRowScales (d : List Byte) : Nat := scaleBytes (dsBlk d) (dsSize d 0)
/-- The unit of R149: a row, or a block. -/
def dsUnit (d : List Byte) : Nat :=
  if dsNblk d = 0 then dsRowBytes d else prod ((range (min 3 (dsNblk d))).map (dsB d)) * dsBits d / 8
/-- The dimensions of R149. -/
def dsDims (d : List Byte) : List Nat := if dsNblk d = 0 then (range (dsRank d)).drop 1 else range (dsRank d)
/-- The dense size of R169. -/
def dsDense (d : List Byte) : Nat := dsRows d * dsRowBytes d + dsRows d * dsRowScales d

/-- The first and the last local offset of the data footprint (R149). -/
def dsFoot (d : List Byte) : Int × Int :=
  let reach (neg : Bool) : Int :=
    ((dsDims d).filter (fun i => decide (dsStride d i < 0) == neg)).foldl
      (fun a i => a + ((dsCount d i : Int) - 1) * dsStride d i) 0
  let b : Int := localOf (dsBase d)
  (b + reach true, b + reach false + dsUnit d - 1)

/-- The first and the last local offset of the scale footprint (R149). -/
def dsScaleFoot (d : List Byte) : Int × Int :=
  let b : Int := localOf (dsScale d)
  (b, b + dsRows d * dsRowScales d - 1)

/-- Whether both ends of a footprint lie in the local offset range and in one region of the local map. -/
def footOk (f : Int × Int) : Bool :=
  decide (0 ≤ f.1) && decide (f.2 < 2 ^ 48) && oneRegion f.1.toNat (f.2 - f.1 + 1).toNat

/-- The footprints of a descriptor as global ranges: device bits, first and last offset. -/
def dsFoots (d : List Byte) : List (Nat × Int × Int) :=
  (deviceOf (dsBase d), dsFoot d) :: (if dsBlk d = 0 then [] else [(deviceOf (dsScale d), dsScaleFoot d)])

/-- Whether the device bits of two addresses name one device (R356, R358). -/
def State.sameDevice (s : State) (a b : Nat) : Bool :=
  decide (a = b) || (s.isHere (a * 2 ^ 48) && s.isHere (b * 2 ^ 48))

/-- Whether two lists of footprints meet. -/
def State.footsMeet (s : State) (a b : List (Nat × Int × Int)) : Bool :=
  a.any (fun x => b.any (fun y => s.sameDevice x.1 y.1 && decide (x.2.1 ≤ y.2.2) && decide (y.2.1 ≤ x.2.2)))

/-- The test of R150 on a destination. -/
def dsNoAlias (d : List Byte) : Bool :=
  let l := ((dsDims d).filter (fun i => decide (1 < dsCount d i))).map (fun i => ((dsStride d i).natAbs, dsCount d i))
  let sorted := l.mergeSort (fun a b => decide (a.1 ≤ b.1))
  (sorted.foldl (fun (r : Bool × Nat) e => (r.1 && decide (r.2 ≤ e.1), r.2 + (e.2 - 1) * e.1)) (true, dsUnit d)).1

/-- Whether the byte at a local offset belongs to a row or block of a tensor that does not alias (R149, R150): the strides are taken from
the largest down. -/
def dsHolds (d : List Byte) (a : Nat) : Bool :=
  let l := ((dsDims d).filter (fun i => decide (1 < dsCount d i))).map (fun i => ((dsStride d i).natAbs, dsCount d i))
  let rest := (l.mergeSort (fun a b => decide (b.1 ≤ a.1))).foldl (fun r e => r - min (r / e.1) (e.2 - 1) * e.1)
    (((a : Int) - (dsFoot d).1).toNat)
  decide ((dsFoot d).1 ≤ (a : Int)) && decide (rest < dsUnit d)

/-! ## Shard descriptors (R152 to R155) -/

/-- GLOBAL of a dimension. -/
def shGlobal (h : List Byte) (i : Nat) : Nat := field h (4 * i) 4
/-- The split word of a dimension. -/
def shSplit (h : List Byte) (i : Nat) : Nat := field h (0x20 + 2 * i) 2
/-- Split count of a dimension. -/
def shS (h : List Byte) (i : Nat) : Nat := shSplit h i % 4096 + 1
/-- Axis of a dimension. -/
def shAxis (h : List Byte) (i : Nat) : Nat := bits (shSplit h i) 13 12
/-- Placement of a dimension. -/
def shPlace (h : List Byte) (i : Nat) : Nat := bits (shSplit h i) 15 14
/-- FIRST. -/
def shFirst (h : List Byte) : Nat := field h 0x30 2
/-- EXTENT of a group axis. -/
def shExtent (h : List Byte) (a : Nat) : Nat := field h (0x32 + 2 * a) 2
/-- Devices of the group. -/
def shDevices (h : List Byte) : Nat := prod ((range 4).map (shExtent h))

/-- The shard index of this device along a dimension (R153, R154). -/
def State.shIndex (s : State) (h : List Byte) (i : Nat) : Nat :=
  let a := shAxis h i
  if shS h i = 1 then 0
  else (s.nxp.device - shFirst h % 32768) / prod ((range a).map (shExtent h)) % shExtent h a

/-- The local extent of a dimension (Table 5.5). -/
def shLocal (h : List Byte) (i idx : Nat) : Nat :=
  let g := shGlobal h i; let n := shS h i
  if n = 1 then g
  else if shPlace h i = 0 then (let c := cdiv g n; min c (g - idx * c)) else cdiv (g - idx) n

/-- The global coordinate of a local index, which may lie outside the shard (Table 5.5). -/
def shCoord (h : List Byte) (i idx : Nat) (local_ : Int) : Int :=
  if shS h i = 1 then local_
  else if shPlace h i = 0 then (idx * cdiv (shGlobal h i) (shS h i) : Nat) + local_
  else (idx : Int) + local_ * shS h i

/-- The checks of R152 to R155. -/
def State.shardOk (s : State) (d h : List Byte) : Bool :=
  let r := dsRank d
  let split := (range r).filter (fun i => decide (shS h i ≠ 1))
  (range 8).all (fun i => decide (i < r) || (decide (shGlobal h i = 0) && decide (shSplit h i = 0)))
    && (range r).all (fun i => decide (1 ≤ shGlobal h i ∧ shGlobal h i < 2 ^ 31) && decide (shPlace h i < 2)
      && (if shS h i = 1 then decide (shSplit h i = 0) else decide (shExtent h (shAxis h i) = shS h i)))
    && decide ((split.map (shAxis h)).Nodup)
    && (range 4).all (fun a => decide (1 ≤ shExtent h a ∧ shExtent h a ≤ 4096))
    && decide (shDevices h ≤ 16384) && decide (shFirst h % 32768 + shDevices h - 1 ≤ 0x7FFE) && zeroed h 0x3A 6
    && decide (s.nxp.device ≠ 0x7FFF ∧ s.nxp.hall = shFirst h / 32768 ∧ shFirst h % 32768 ≤ s.nxp.device
      ∧ s.nxp.device < shFirst h % 32768 + shDevices h)
    && (range r).all (fun i =>
      let g := shGlobal h i; let n := shS h i
      (if n = 1 then true else if shPlace h i = 0 then decide ((n - 1) * cdiv g n + 1 ≤ g) else decide (n ≤ g))
        && decide (dsSize d i = shLocal h i (s.shIndex h i)))

/-! ## Descriptor checks (Table 5.3) -/

/-- Rows 2 to 9 of Table 5.3 on a descriptor; `shard` says whether its shard descriptor passes row 8. 0 where all pass. -/
def descCode (d : List Byte) (shard dest : Bool) : Nat :=
  let r := dsRank d; let n := dsNblk d; let b := dsBlk d; let t := dsType d
  let below := range r
  let align := if typeBits t = 32 then 4 else if typeBits t = 16 then 2 else 1
  if !(!bit (dsCtl d) 7 && decide (bits (dsCtl d) 31 15 = 0) && typeOk t && decide (b ≤ 3) && pairOk b t
      && decide (1 ≤ r ∧ r ≤ 8) && decide (n ≤ 3 ∧ n ≤ r) && (decide (b = 2) || decide (dsTscale d = 0))
      && (range 3).all (fun j => decide (bits (dsBlock d j) 31 19 = 0))) then 0x204
  else if !(below.all (fun i => decide (1 ≤ dsSize d i ∧ dsSize d i < 2 ^ 31))
      && (range 8).all (fun i => decide (i < r) || (decide (dsSize d i = 0) && decide (dsStride d i = 0)))
      && (range 3).all (fun j => decide (j < n) || decide (dsBlock d j = 0))
      && (decide (n ≠ 0) || decide (dsStride d 0 = 0))) then 0x204
  else if !(decide (n = 0) || (decide (dsDim d 0 = 0)
      && (range n).all (fun j => decide (dsDim d j < r) && (decide (j + 1 = n) || decide (dsDim d j < dsDim d (j + 1))))
      && decide (dsB d 0 * dsBits d % 8 = 0) && (decide (b = 0) || decide (dsB d 0 % blockLen b = 0)))) then 0x204
  else if decide (b ≠ 0) != decide (dsScale d ≠ 0) then 0x204
  else if !(decide (dsBase d % align = 0) && below.all (fun i =>
      (decide (i = 0) && (dsBlocked d 0).isNone) || decide (dsStride d i % (align : Int) = 0))) then 0x202
  else if !(footOk (dsFoot d) && (decide (b = 0) || footOk (dsScaleFoot d))) then 0x201
  else if !shard then 0x204
  else if dest && !dsNoAlias d then 0x205
  else 0

/-! ## Elements of tensors -/

/-- A tensor as a task uses it: the descriptor's copy with its shard descriptor, and the granules that hold it where it is
read from the stash (R245). -/
structure Src where
  d : List Byte
  shard : List Byte
  gran : Option (List Nat)
  deriving DecidableEq, Repr

/-- A place reached from a base by an offset, in the 48-bit local offset of the base (R147). -/
def fromBase (base : Nat) (off : Int) : Nat := deviceOf base * 2 ^ 48 + wrap 48 ((localOf base : Int) + off)

/-- The byte at which the row of a tensor, or of its block, starts for an element, and the element's bit position from it
(R145 to R147). `c` lists the coordinates. -/
def elemPlace (d : List Byte) (c : List Nat) : Nat × Nat :=
  let i (k : Nat) := nth 0 c k
  if dsNblk d = 0 then
    (fromBase (dsBase d) (((range (dsRank d)).drop 1).foldl (fun a k => a + (i k : Int) * dsStride d k) 0), i 0 * dsBits d)
  else
    let inner := (range (dsNblk d)).foldl (fun (a : Nat × Nat) j =>
      (a.1 + i (dsDim d j) % dsB d j * a.2, a.2 * dsB d j)) (0, 1)
    let off := (range (dsRank d)).foldl (fun (a : Int) k => a + (match dsBlocked d k with
      | some b => ((i k / b : Nat) : Int)
      | none => (i k : Int)) * dsStride d k) 0
    (fromBase (dsBase d) off, inner.1 * dsBits d)

/-- The linear number of the row of an element (R148). -/
def rowOf (d : List Byte) (c : List Nat) : Nat :=
  (((range (dsRank d)).drop 1).foldl (fun (a : Nat × Nat) k => (a.1 + nth 0 c k * a.2, a.2 * dsSize d k)) (0, 1)).1

/-- The coordinates of the element at column `k` of row `r`. -/
def coordsOf (d : List Byte) (r k : Nat) : List Nat :=
  k :: (((range (dsRank d)).drop 1).foldl (fun (a : List Nat × Nat) i => (a.1 ++ [a.2 % dsSize d i], a.2 / dsSize d i)) ([], r)).1

/-- The byte at a global address as a context's mapping places it; no check is made here. A byte of another device that Rambler has
fetched stands in a view of memory above every physical offset. -/
def State.byteG (s : State) (x a : Nat) : Byte :=
  if s.isHere a then
    let o := localOf a
    match regionOf o with
    | .hbm | .slow =>
      match (s.ctx x).bind (fun c => lookupPage c.pages o) with
      | some (pa, _) => s.byteAt pa
      | none => 0
    | _ => s.byteAt o
  else (mfind s.mem (tmBase + a)).getD (Config.remoteByte s.tick a)

/-- The byte at a dense offset of a stashed tensor. -/
def stashByte (s : State) (x : Nat) (g : List Nat) (o : Nat) : Byte := s.byteG x (nth 0 g (o / 65536) + o % 65536)

/-- The encoding of an element. -/
def Src.enc (t : Src) (s : State) (x : Nat) (c : List Nat) : Nat :=
  match t.gran with
  | none =>
    let p := elemPlace t.d c
    let w := fromBytes ((range 5).map (fun k => s.byteG x (p.1 + p.2 / 8 + k)))
    (w >>> (p.2 % 8)) % 2 ^ dsBits t.d
  | some g => rowGet (dsBits t.d) (fun k => stashByte s x g (rowOf t.d c * dsRowBytes t.d + k)) (nth 0 c 0)

/-- The scale byte of an element's block; 0 where the tensor has none. -/
def Src.scale (t : Src) (s : State) (x : Nat) (c : List Nat) : Nat :=
  if dsBlk t.d = 0 then 0
  else
    let k := rowOf t.d c * dsRowScales t.d + nth 0 c 0 / blockLen (dsBlk t.d)
    match t.gran with
    | none => (s.byteG x (fromBase (dsScale t.d) k)).toNat
    | some g => (stashByte s x g (dsRows t.d * dsRowBytes t.d + k)).toNat

/-- Whether coordinates lie inside the extents (R156). -/
def inside (d : List Byte) (c : List Nat) : Bool := (range (dsRank d)).all (fun i => decide (nth 0 c i < dsSize d i))

/-- An element as an array operand; masked outside the extents (R56, R156). -/
def Src.operand (t : Src) (s : State) (x : Nat) (c : List Nat) : Operand :=
  if inside t.d c then some (decodeElem (dsType t.d) (t.enc s x c), scaleVal (dsBlk t.d) (t.scale s x c)) else none

/-- The exact value of an element (R46). -/
def Src.value (t : Src) (s : State) (x : Nat) (c : List Nat) : FV :=
  elemValue (dsType t.d) (dsBlk t.d) (t.enc s x c) (t.scale s x c) (dsTscale t.d)

/-- The global element index of an element (R62, R155). -/
def State.indexOf (s : State) (t : Src) (c : List Nat) : Nat :=
  if dsShard t.d = 0 then globalIndex c (dsSizes t.d)
  else globalIndex (c.mapIdx (fun i k => (shCoord t.shard i (s.shIndex t.shard i) k).toNat))
    ((range (dsRank t.d)).map (shGlobal t.shard))

/-! ## Ranges of rows and their checks -/

/-- The stored pieces of a row: place, first element, number of elements (R145, R146). -/
def rowPieces (d : List Byte) (r : Nat) : List (Nat × Nat × Nat) :=
  let n := dsSize d 0
  match dsBlocked d 0 with
  | none => [((elemPlace d (coordsOf d r 0)).1, 0, n)]
  | some b => (range (cdiv n b)).map (fun k =>
      let p := elemPlace d (coordsOf d r (k * b))
      (p.1 + p.2 / 8, k * b, min b (n - k * b)))

/-- Cuts a dense range at the granules that hold it. -/
def stashCuts (g : List Nat) (o n : Nat) : List (Nat × Nat) :=
  (range (cdiv (o % 65536 + n) 65536)).map (fun j =>
    let a := if j = 0 then o else (o / 65536 + j) * 65536
    let e := min (o + n) ((o / 65536 + j + 1) * 65536)
    (nth 0 g (a / 65536) + a % 65536, e - a))

/-- The ranges that a row and its scales occupy. -/
def Src.rowRanges (t : Src) (r : Nat) : List (Nat × Nat) :=
  let ns := dsRowScales t.d
  match t.gran with
  | none => (rowPieces t.d r).map (fun p => (p.1, cdiv (p.2.2 * dsBits t.d) 8))
      ++ (if ns = 0 then [] else [(fromBase (dsScale t.d) (r * ns : Nat), ns)])
  | some g => stashCuts g (r * dsRowBytes t.d) (dsRowBytes t.d)
      ++ (if ns = 0 then [] else stashCuts g (dsRows t.d * dsRowBytes t.d + r * ns) ns)

/-- The bytes of elements `[lo, lo + n)` of a row and of the scales of their blocks, none beyond the extents (R156, R187). -/
def Src.partRanges (t : Src) (r lo n : Nat) : List (Nat × Nat) :=
  let n := min (lo + n) (dsSize t.d 0) - lo
  let b := dsBits t.d
  let l := blockLen (dsBlk t.d)
  let s0 := lo / max 1 l; let s1 := if dsBlk t.d = 0 then s0 else cdiv (lo + n) l
  if n = 0 then []
  else
    match t.gran with
    | none =>
      (rowPieces t.d r).filterMap (fun p =>
          let a := max lo p.2.1; let e := min (lo + n) (p.2.1 + p.2.2)
          let b0 := (a - p.2.1) * b / 8
          if e ≤ a then none else some (p.1 + b0, cdiv ((e - p.2.1) * b) 8 - b0))
        ++ (if s1 = s0 then [] else [(fromBase (dsScale t.d) (r * dsRowScales t.d + s0 : Nat), s1 - s0)])
    | some g =>
      stashCuts g (r * dsRowBytes t.d + lo * b / 8) (cdiv ((lo + n) * b) 8 - lo * b / 8)
        ++ (if s1 = s0 then [] else stashCuts g (dsRows t.d * dsRowBytes t.d + r * dsRowScales t.d + s0) (s1 - s0))

/-- The first check that fails among ranges, in order (R174, R405); `none` where all pass. -/
def State.firstBad (s : State) (w : Who) (store : Bool) : List (Nat × Nat) → Option Acc
  | [] => none
  | (a, n) :: r =>
    if !s.isHere a then
      if s.nxp.device = 0x7FFF then some (.fail 0x501)
      else if (s.creg w.ctx).job = 0 then some (.fail 0x504)
      else if ((mfind s.nxp.members (deviceOf a)).map Member.state).getD 1 ≠ 0 then some (.fail 0x501)
      else s.firstBad w store r
    else
      match (units (localOf a) n).findSome? (fun u => match s.check w u.1 store with
        | .ok pa => if (if store then s.mergesBad pa u.2 else s.uncorrectable pa u.2) then some (Acc.bad pa) else none
        | b => some b) with
      | some b => some b
      | none => s.firstBad w store r

/-- The first check that fails among rows that a task reads. -/
def Src.badRow (t : Src) (s : State) (w : Who) (rows : List Nat) : Option Acc :=
  s.firstBad (if t.gran.isSome then { w with grants := none } else w) false (rows.flatMap t.rowRanges)

/-! ## Coordinate lists (R163 to R168) -/

/-- ENTRIES. -/
def clEntries (h : List Byte) : Nat := field h 0 8
/-- COUNT. -/
def clCount (h : List Byte) : Nat := field h 8 4
/-- MASK. -/
def clMask (h : List Byte) : Nat := field h 0xC 1
/-- MODE: overwrite. -/
def clOver (h : List Byte) : Bool := bit (field h 0xC 4) 8
/-- GBLOCK of a dimension. -/
def clG (h : List Byte) (i : Nat) : Nat := field h (0x10 + 4 * i) 4
/-- Dimensions that entries name, ascending. -/
def clDims (h : List Byte) : List Nat := (range 8).filter (bit (clMask h))
/-- Bytes of the entries. -/
def clBytes (h : List Byte) : Nat := 4 * (clDims h).length * clCount h

/-- Whether sum mode takes a table and a list side (R167). -/
def sumOk (table side : List Byte) : Bool :=
  decide (dsBlk table = 0) && decide (dsBlk side = 0) &&
    (if dsType table = 11 then decide (8 ≤ dsType side ∧ dsType side ≤ 11)
     else decide (dsType table ≤ 2) && decide (dsType side ≤ 2))

/-- The checks of Table 5.10 after its address row: 0, or the first code. -/
def listCode (h table side : List Byte) : Nat :=
  let r := dsRank table
  if clEntries h % 4 ≠ 0 then 0x202
  else if !(decide (bits (field h 0xC 4) 31 9 = 0) && zeroed h 0x30 16 && decide (1 ≤ clCount h ∧ clCount h ≤ 2 ^ 24)
      && decide (clMask h ≠ 0) && (clDims h).all (fun i => decide (i < r))
      && (range 8).all (fun i => if i < r then decide (1 ≤ clG h i ∧ clG h i ≤ dsSize table i) else decide (clG h i = 0)))
    then 0x204
  else if !(decide (r < 8) && decide (dsRank side = r + 1) && (range r).all (fun i => decide (dsSize side i = clG h i))
      && decide (dsSize side r = clCount h) && (clOver h || sumOk table side)
      && (decide (dsBlk table = 0) || decide (clG h 0 % blockLen (dsBlk table) = 0))) then 0x204
  else if !oneRegion (localOf (clEntries h)) (clBytes h) then 0x201
  else 0

/-- The block coordinates of an entry, unclamped (R164). -/
def State.clRaw (s : State) (x : Nat) (h : List Byte) (r e : Nat) : List Int :=
  let p := (clDims h).length
  (range r).map (fun i =>
    match (clDims h).findIdx? (· = i) with
    | some k => signed 32 (fromBytes ((range 4).map (fun b => s.byteG x (fromBase (clEntries h) (4 * (p * e + k) + b : Nat)))))
    | none => 0)

/-- An entry's block coordinates clamped to the table (R158), and whether a clamp was needed (R160). -/
def State.clBlock (s : State) (x : Nat) (h table : List Byte) (e : Nat) : List Nat × Bool :=
  let raw := s.clRaw x h (dsRank table) e
  let hi (i : Nat) : Int := (cdiv (dsSize table i) (clG h i) : Nat) - 1
  (raw.mapIdx (fun i c => (max 0 (min c (hi i))).toNat), (raw.mapIdx (fun i c => decide (c < 0 ∨ hi i < c))).any id)

end Sys2Proof.Machine
end

