-- ==== Sys2Proof/Machine/Tables.lean ====
section
/-! DEFINITION. The drain's function tables (R87 to R91, R468). The coefficients of the built-in tables are computed
from their functions in fixed-point arithmetic of 2⁻³⁸⁴ and rounded once to FP32 (R89; log 8). -/

namespace Sys2Proof.Machine

/-- Fraction bits of the fixed-point values. -/
def fxP : Nat := 384
/-- 1 in fixed point. -/
def fxOne : Int := 2 ^ fxP
/-- A rational in fixed point, rounded down. -/
def fxQ (q : Q) : Int := q.num * fxOne / (q.den : Int)
/-- The product. -/
def fxMul (a b : Int) : Int := a * b / fxOne
/-- The quotient. -/
def fxDiv (a b : Int) : Int := a * fxOne / b
/-- A fixed-point value rounded to FP32. -/
def fxF32 (a : Int) : Nat := toF32 (.ofQ (Q.mk' a (2 ^ fxP)))

/-- Sums a series: term `n + 1` is `next n term`; `fuel` terms. -/
def series (next : Nat → Int → Int) : Nat → Nat → Int → Int → Int
  | 0, _, _, s => s
  | k + 1, n, t, s => if t = 0 then s else series next k (n + 1) (next n t) (s + t)

/-- `exp x` for `x ≥ 0`. -/
def fxExpPos (x : Int) : Int := series (fun n t => fxMul t x / ((n : Int) + 1)) 600 0 fxOne 0
/-- `exp x`. -/
def fxExp (x : Int) : Int := if x < 0 then fxDiv fxOne (fxExpPos (-x)) else fxExpPos x
/-- `atanh z = Σ z^(2n+1) / (2n+1)` for `0 ≤ z ≤ 1/3`: the powers are carried, each divided as it is added. -/
def fxAtanh (z : Int) : Int :=
  ((List.range 140).foldl (fun (a : Int × Int) n => (fxMul (fxMul a.1 z) z, a.2 + a.1 / (2 * (n : Int) + 1))) (z, 0)).2
/-- `ln y` for `1 ≤ y ≤ 2`. -/
def fxLn (y : Int) : Int := 2 * fxAtanh (fxDiv (y - fxOne) (y + fxOne))
/-- `ln 2`. -/
def fxLn2 : Int := fxLn (2 * fxOne)
/-- `atan (1 / k)`. -/
def fxAtanInv (k : Int) : Int :=
  ((List.range 200).foldl (fun (a : Int × Int) n =>
    (-(a.1 / (k * k)), a.2 + a.1 / (2 * (n : Int) + 1))) (fxOne / k, 0)).2
/-- π, by Machin's formula. -/
def fxPi : Int := 16 * fxAtanInv 5 - 4 * fxAtanInv 239
/-- `sqrt a` for `a ≥ 0`. -/
def fxSqrt (a : Int) : Int := (isqrt (a.toNat * 2 ^ fxP) : Int)

/-- The standard normal density φ. -/
def fxPhi (x : Int) : Int := fxDiv (fxExp (-(fxMul x x / 2))) (fxSqrt (2 * fxPi))
/-- The standard normal distribution function Φ: 1/2 + φ(x) Σ x^(2n+1) / (2n+1)!!. -/
def fxPhiCdf (x : Int) : Int :=
  let s := series (fun n t => fxMul (fxMul t x) x / (2 * (n : Int) + 3)) 600 0 x 0
  fxOne / 2 + fxMul (fxPhi x) s
/-- σ(x) = 1 / (1 + e^(−x)). -/
def fxSigma (x : Int) : Int := if x < 0 then let e := fxExp x; fxDiv e (fxOne + e) else fxDiv fxOne (fxOne + fxExp (-x))
/-- tanh. -/
def fxTanh (x : Int) : Int := 2 * fxSigma (2 * x) - fxOne
/-- ln(1 + eˣ). -/
def fxSoftplus (x : Int) : Int := if 0 < x then x + fxLn (fxOne + fxExp (-x)) else fxLn (fxOne + fxExp x)

/-- The function of a built-in table and its derivative at a fixed-point argument (Table 3.17). -/
def fxTable (id : Nat) (x : Int) : Int × Int :=
  let s := fxSigma x
  let ds := fxMul s (fxOne - s)
  match id with
  | 1 => let p := fxPhiCdf x; let d := fxPhi x; (fxMul x p, p + fxMul x d)
  | 2 => (fxMul x s, fxMul s (fxOne + fxMul x (fxOne - s)))
  | 3 => let t := fxTanh x; (t, fxOne - fxMul t t)
  | 4 => (s, ds)
  | 5 => let e := fxExp (fxMul x fxLn2); (e, fxMul fxLn2 e)
  | 6 => (fxSoftplus x, s)
  | 7 => let r := fxDiv fxOne (fxSqrt x); (r, -(fxDiv r x / 2))
  | 8 => let p := fxPhiCdf x; let d := fxPhi x; (p + fxMul x d, fxMul d (2 * fxOne - fxMul x x))
  | 9 => (fxMul s (fxOne + fxMul x (fxOne - s)), fxMul ds (2 * fxOne + fxMul x (fxOne - 2 * s)))
  | 10 => let t := fxTanh x; let d := fxOne - fxMul t t; (d, -(2 * fxMul t d))
  | _ => (ds, fxMul ds (fxOne - 2 * s))

/-- Start and width exponent of a built-in table (Table 3.17). -/
def tableGrid (id : Nat) : Int × Int :=
  match id with
  | 1 | 3 | 8 | 10 => (-8, -4)
  | 5 => (0, -8)
  | 7 => (1, -6)
  | _ => (-16, -3)

/-- The four coefficients of segment `i` of a built-in table: the Hermite interpolant, each rounded once (R89). -/
def builtinCoef (id i : Nat) : Nat × Nat × Nat × Nat :=
  let (lo, p) := tableGrid id
  let h := fxQ (pow2 p)
  let x0 := lo * fxOne + (i : Int) * h
  let (g0, d0) := fxTable id x0
  let (g1, d1) := fxTable id (x0 + h)
  let d0 := fxMul h d0; let d1 := fxMul h d1
  (fxF32 g0, fxF32 d0, fxF32 (3 * (g1 - g0) - (2 * d0 + d1)), fxF32 (2 * (g0 - g1) + (d0 + d1)))

/-- The cubic of a segment in FP32, each product and sum rounded (R88). -/
def evalCubic (c : Nat × Nat × Nat × Nat) (t : Nat) : Nat :=
  f32add c.1 (f32mul t (f32add c.2.1 (f32mul t (f32add c.2.2.1 (f32mul t c.2.2.2)))))

/-- The tails of a built-in segmented table below and above its domain (Table 3.11). -/
def builtinTail (id : Nat) (below : Bool) (x : Nat) : Nat :=
  match id, below with
  | 1, true | 2, true | 4, true | 6, true | 8, true | 9, true | 10, _ | 11, _ => 0
  | 3, true => 0xBF800000
  | 1, false | 2, false | 6, false => x
  | _, _ => 0x3F800000

/-- The exp table (0x5) with its range reduction (R468). -/
def tableExp (x : Nat) : Nat :=
  match ofF32 x with
  | .nan => 0x7FC00000
  | .inf s => if s then 0 else 0x7F800000
  | .fin _ q =>
    if Q.lt ⟨200, 1⟩ q then 0x7F800000
    else if Q.lt q ⟨-300, 1⟩ then 0
    else
      let y := Q.mul q ⟨fxDiv fxOne fxLn2, 2 ^ fxP⟩
      let n := y.floor
      let f := Q.mul ⟨256, 1⟩ (Q.add y (Q.int (-n)))
      let i := f.floor
      let t := toF32 (.ofQ (Q.add f (Q.int (-i))))
      toF32 ((ofF32 (evalCubic (builtinCoef 5 i.toNat) t)).mul (.ofQ (pow2 n)))

/-- The reciprocal-square-root table (0x7) with its range reduction (R468). -/
def tableRsqrt (x : Nat) : Nat :=
  match ofF32 x with
  | .nan => 0x7FC00000
  | .inf s => if s then 0x7FC00000 else 0
  | .fin _ q =>
    if q.num = 0 then 0x7F800000
    else if q.num < 0 then 0x7FC00000
    else
      let e := floorLog2 q
      let n := e / 2
      let m := Q.mul q (pow2 (-(2 * n)))
      let s := Q.mul (Q.add m ⟨-1, 1⟩) ⟨64, 1⟩
      let i := s.floor
      let t := toF32 (.ofQ (Q.add s (Q.int (-i))))
      toF32 ((ofF32 (evalCubic (builtinCoef 7 i.toNat) t)).mul (.ofQ (pow2 (-n))))

/-- A built-in table on an FP32 value (R87, R88, R468). -/
def builtinTable (id x : Nat) : Nat :=
  if id = 5 then tableExp x
  else if id = 7 then tableRsqrt x
  else
    let (lo, p) := tableGrid id
    match ofF32 x with
    | .nan => 0x7FC00000
    | .inf s => builtinTail id s x
    | .fin _ q =>
      let d := Q.mul (Q.add q (Q.int (-lo))) (pow2 (-p))
      if d.num < 0 then builtinTail id true x
      else if Q.le ⟨256, 1⟩ d then builtinTail id false x
      else
        let i := d.floor
        evalCubic (builtinCoef id i.toNat) (toF32 (.ofQ (Q.add d (Q.int (-i)))))

/-- Whether the header of a loaded table image holds no reserved value (R90, Table 3.12). -/
def imageHeaderOk (im : List Byte) : Bool :=
  !f32bad (field im 0 4) && decide (-20 ≤ signed 8 (field im 4 1) ∧ signed 8 (field im 4 1) ≤ 20)
    && decide (field im 5 1 ≤ 2) && decide (field im 6 1 ≤ 2) && zeroed im 7 1 && zeroed im 0x18 40

/-- A tail of a loaded table (Table 3.12): constant, linear rounded once, or the argument. In mode 1 an infinite argument gives the
infinity of the sign of A × x, or B where A is 0 (R90); a NaN is written canonical (R39). -/
def imageTail (mode a b x : Nat) : Nat :=
  match mode with
  | 0 => f32canon b
  | 1 =>
    match ofF32 x, ofF32 a with
    | .inf s, .fin z q => if q.num = 0 then f32canon b else toF32 ((FV.inf s).mul (.fin z q))
    | .inf s, w => toF32 ((FV.inf s).mul w)
    | v, w => toF32 ((w.mul v).add (ofF32 b))
  | _ => x

/-- A loaded table image on an FP32 value (R88, R90). -/
def loadedTable (im : List Byte) (x : Nat) : Nat :=
  let lo := ofF32 (field im 0 4)
  let p := signed 8 (field im 4 1)
  let left := imageTail (field im 5 1) (field im 8 4) (field im 0xC 4) x
  let right := imageTail (field im 6 1) (field im 0x10 4) (field im 0x14 4) x
  match ofF32 x with
  | .nan => 0x7FC00000
  | .inf s => if s then left else right
  | .fin _ q =>
    let d := Q.mul (Q.add q lo.q.neg) (pow2 (-p))
    if d.num < 0 then left
    else if Q.le ⟨256, 1⟩ d then right
    else
      let i := d.floor.toNat
      let c (k : Nat) := field im (0x40 + 16 * i + 4 * k) 4
      evalCubic (c 0, c 1, c 2, c 3) (toF32 (.ofQ (Q.add d (Q.int (-(i : Int))))))

/-- A table identifier names no reserved table (Table 3.11). -/
def tableIdOk (id : Nat) : Bool := decide (id ≤ 0xB ∨ id = 0xF)

/-- A table of the drain on an FP32 value: built in, or the loaded image (R87). -/
def tableEval (id : Nat) (im : List Byte) (x : Nat) : Nat := if id = 0xF then loadedTable im x else builtinTable id x

end Sys2Proof.Machine
end

