-- ==== Sys2Proof/Machine/Flags.lean ====
section
/-! DEFINITION. CORE_ARITH_FLAGS (R49, R57, R59, R67) and the class and orientation of accumulator tiles (R70, R79). -/

namespace Sys2Proof.Machine

/-- Sets arithmetic flags of a core; set flags stay set (R67). -/
def State.setFlags (s : State) (c f : Nat) : State := s.modCore c (fun k => { k with flags := k.flags ||| BitVec.ofNat 4 f })

/-- Whether an operation of a class and an orientation may add into a tile (R70, R79). -/
def AccTile.accepts (a : AccTile) (cls : AccClass) (o : Orient) : Bool :=
  (decide (a.cls = .unset) || decide (a.cls = cls)) && (decide (a.orient = .unset) || decide (a.orient = o))

/-- A tile that an operation of a class and an orientation takes: in use, its class set once, its orientation set. -/
def AccTile.take (a : AccTile) (cls : AccClass) (o : Orient) : AccTile :=
  { a with inUse := true, cls := if a.cls = .unset then cls else a.cls, orient := o }

/-- The class that an operand class of Table 2.9 sets. -/
def accClassOf (cls : Nat) : AccClass := if cls = 4 then .int32 else .fp32

end Sys2Proof.Machine
end

