-- ==== Sys2Proof/Machine/Tile.lean ====
section
/-! DEFINITION. What the units do for TCFG, TLD, TST, TWL, TMM, TMV, TZR, TMOV, HALO and BLR (chapters 03 and 04). Every
operation takes the address registers captured at issue (R128). -/

namespace Sys2Proof.Machine

/-- Address registers as an instruction captured them. -/
abbrev Regs := Map (BitVec 48)

/-- Runs an operation on tile register `t` if it is in use (Table 4.6). -/
def State.withTreg {α : Type} (s : State) (c t : Nat) (f : TReg → Res α) : Res α :=
  let r := (s.core c).treg t
  if r.inUse then f r else .fail s 0x302

/-! ## Configuration -/

/-- TCFG (R99 to R101). -/
def runTcfg (s : State) (c t type blk rows cols : Nat) : Res Unit :=
  if cfgOk type blk rows cols then .ok (s.setTreg c t ⟨true, type, blk, rows, cols, [], []⟩) () else .fail s 0x301

/-- TCFG with CLEAR (R101). -/
def runTcfgClear (s : State) (c t : Nat) : Res Unit := .ok (s.setTreg c t {}) ()

/-! ## TLD and TST -/

/-- A transfer of TLD, TST or TDR: where row `i` of a register lies (R104, R105). -/
structure Xfer where
  base : Nat
  stride : Nat
  space : Bool
  remote : Bool
  pfx : Nat
  offset : Int
  deriving DecidableEq, Repr

/-- The local offset of a row's data. -/
def Xfer.dataOff (x : Xfer) (r : Regs) (i : Nat) : Nat := rowAt (areg r (2 * x.base)) x.offset i (dataStride r x.stride)
/-- The local offset of a row's scales. -/
def Xfer.scaleOff (x : Xfer) (r : Regs) (i : Nat) : Nat := rowAt (areg r (2 * x.base + 1)) 0 i (scaleStride r x.stride)
/-- The place of a row's data. -/
def Xfer.dataAt (x : Xfer) (r : Regs) (i : Nat) : Nat := placeAt r x.space x.remote x.pfx (x.dataOff r i)
/-- The place of a row's scales. -/
def Xfer.scaleAt (x : Xfer) (r : Regs) (i : Nat) : Nat := placeAt r x.space x.remote x.pfx (x.scaleOff r i)

/-- Whether row `i` keeps R106: alignment, and the end of tile memory. -/
def Xfer.rowOk (x : Xfer) (r : Regs) (t : TReg) (i : Nat) : Bool :=
  alignedFor t.type (x.dataOff r i) && fitsTile (x.dataAt r i) (rowBytes t.type t.cols)
    && (decide (t.blk = 0) || fitsTile (x.scaleAt r i) (scaleBytes t.blk t.cols))

/-- The ranges that row `i` takes: its bytes, then its scale bytes. -/
def Xfer.rowRanges (x : Xfer) (r : Regs) (t : TReg) (i : Nat) : List (Nat × Nat) :=
  (x.dataAt r i, rowBytes t.type t.cols) :: (if t.blk = 0 then [] else [(x.scaleAt r i, scaleBytes t.blk t.cols)])

/-- The ranges that a transfer touches. -/
def Xfer.ranges (x : Xfer) (r : Regs) (t : TReg) : List (Nat × Nat) := (range t.rows).flatMap (x.rowRanges r t)

/-- Loads row `i` once what it needs is at hand: its bytes and its scale bytes. -/
def loadRow (s : State) (c : Nat) (w : Who) (x : Xfer) (r : Regs) (t : TReg) (i : Nat) : Res (List Byte × List Byte) :=
  if x.rowOk r t i then
    (s.demand c w (x.rowRanges r t i)).bind (fun s _ =>
      (s.loadAt c w (x.dataAt r i, rowBytes t.type t.cols)).bind (fun s d =>
        if t.blk = 0 then .ok s (d, [])
        else (s.loadAt c w (x.scaleAt r i, scaleBytes t.blk t.cols)).bind (fun s e => .ok s (d, e))))
  else .fail s 0x402

/-- Loads rows in order; a row fills its place in the register as its bytes are at hand, and where one waits, those before it stay
(R107, R132, R174). `n` counts them. -/
def loadRows (s : State) (c t : Nat) (x : Xfer) (r : Regs) (q : TReg) (p : Pending) : Nat → List Nat → Res Unit
  | _, [] => .ok s ()
  | n, i :: rest =>
    match loadRow s c (s.whoCore c) x r q i with
    | .ok s d =>
      loadRows ((s.consume c (x.rowRanges r q i) (rest.flatMap (x.rowRanges r q))).setTreg c t
        (((s.core c).treg t).setRow i d.1 d.2)) c t x r q p (n + 1) rest
    | .wait s => .wait (s.handed c p n)
    | .fail s code => .fail s code
    | .miss s va store => .miss s va store

/-- TLD (R107): the rows that do not stand in the register yet. -/
def runTld (s : State) (c t : Nat) (x : Xfer) (r : Regs) (p : Pending) : Res Unit :=
  s.withTreg c t (fun q => loadRows s c t x r q p 0 ((range q.rows).drop p.done))

/-- The stores of row `i`: its bytes, then its scale bytes. -/
def Xfer.storesOf (x : Xfer) (r : Regs) (t : TReg) (i : Nat) : List Store :=
  let ok := x.rowOk r t i
  ⟨ok, x.dataAt r i, 0, t.row i⟩ :: (if t.blk = 0 then [] else [⟨ok, x.scaleAt r i, 0, t.scaleRow i⟩])

/-- TST (R107). -/
def runTst (s : State) (c t : Nat) (x : Xfer) (r : Regs) (p : Pending) : Res Unit :=
  s.withTreg c t (fun q => s.storeAll c p ((range q.rows).flatMap (x.storesOf r q)))

/-! ## Stationary blocks and products -/

/-- Whether a window lies at least partly inside a register (R113). -/
def windowOk (t : TReg) (rb cb : Nat) : Bool := decide (32 * rb < t.rows) && decide (32 * cb < t.cols)

/-- TWL: the window goes to the shadow buffer; columns at or beyond the width are not read (R72, R75, R112). -/
def runTwl (s : State) (c t rb cb : Nat) (tr : Bool) : Res Unit :=
  s.withTreg c t (fun q =>
    if windowOk q rb cb then
      let at_ (k j : Nat) : Option (Nat × Nat) :=
        let p := if tr then (32 * rb + j, 32 * cb + k) else (32 * rb + k, 32 * cb + j)
        if j < s.width c ∧ p.1 < q.rows ∧ p.2 < q.cols then some (q.enc p.1 p.2, q.scaleOf p.1 p.2) else none
      let b : StatBlock := ⟨tr, q.type, q.blk, (range 1024).map (fun e => at_ (e / 32) (e % 32))⟩
      .ok (s.modCore c (fun k => k.modLive (fun l => { l with shadow := some b }))) ()
    else .fail s 0x301)

/-- Element W[k][j] of a stationary block as an array operand. -/
def StatBlock.operand (b : StatBlock) (k j : Nat) : Operand :=
  (nth none b.elems (32 * k + j)).map (fun e => (decodeElem b.type e.1, scaleVal b.blk e.2))

/-- The terms of vector `v` and column `j`: the factors of A and B in each product (R60, Table 3.2). -/
def tmmTerms (q : TReg) (b : StatBlock) (form rb cb v j : Nat) : List (Operand × Operand) :=
  (range 32).map (fun k =>
    if form = 2 then (b.operand k j, q.operand (32 * rb + k) (32 * cb + v))
    else (q.operand (32 * rb + v) (32 * cb + k), b.operand k j))

/-- Adds the pass sums of 32 vectors into columns 0 to `w` − 1 of a tile; the tile and the flags (R69, R75). -/
def tmmSums (q : TReg) (b : StatBlock) (cls form rb cb w : Nat) (a : AccTile) : AccTile × Nat :=
  (range 32).foldl (fun (r : AccTile × Nat) v =>
    (range w).foldl (fun (r : AccTile × Nat) j =>
      let p := passClass cls (r.1.get v j) (tmmTerms q b form rb cb v j)
      (r.1.put v j p.1, r.2 ||| p.2)) r) (a, 0)

/-- Records a bad array column of a site: the spare, a narrower width, or the core (Table 14.4). -/
def State.recordColumn (s : State) (site col : Nat) : State :=
  let r := s.colRec site
  let waiting := (s.repair.waiting.filter (fun d => match d with
    | .column a _ => decide (a = site)
    | _ => false)).length
  if r.cols.contains col || s.repair.waiting.contains (.column site col) then s
  else if 3 ≤ r.count + waiting then s.decideOn (.core site) else s.decideOn (.column site col)

/-- A parity error of a core: logged, its column or row recorded for repair (R77, R406, R415); the detail is free (log 27). -/
def State.arrayParity (s : State) (c : Nat) (e : CoreErr) : State :=
  let site := s.siteOf c
  let s := s.log 0x705 3 ((s.core c).task.map CoreTask.ctx) false site (Config.eventDetail 3 s.tick)
  let s := s.modCore c (fun k => { k with parity := none })
  match e with
  | .column n => s.recordColumn site n
  | .row _ => s.decideOn (.arrayRow site)
  | _ => s

/-- Whether an in-use accumulator tile holds an uncorrectable word among those that `p` picks by row and first column (R78, R404). -/
def Core.accBad (k : Core) (acc : Nat) (p : Nat → Nat → Bool) : Bool :=
  (k.accTile acc).inUse && k.badAcc.any (fun w => decide (w / 512 = acc) && p (w % 512 / 16) (2 * (w % 16)))

/-- A core meets an uncorrectable word of its accumulators: logged, its row recorded for repair (R405, R406, R415). -/
def State.noteAccBad (s : State) (c : Nat) : State :=
  let site := s.siteOf c
  (s.log 0x701 0 ((s.core c).task.map CoreTask.ctx) false site (Config.eventDetail 0 s.tick)).decideOn
    (.row 1 (clusterOf c) (site % 19) ((s.core c).badAcc.headD 0 / 128))

/-- Work that reads words of accumulator tiles: it fails at an uncorrectable one (R405). -/
def State.withAccs (s : State) (c : Nat) (tiles : List Nat) (p : Nat → Nat → Bool) (f : Res Unit) : Res Unit :=
  if tiles.any (fun a => (s.core c).accBad a p) then .fail (s.noteAccBad c) 0x701 else f

/-- TMM (R69 to R75, R113 to R115). -/
def runTmm (s : State) (c form t rb cb acc : Nat) : Res Unit :=
  s.withTreg c t (fun q =>
    let k := s.core c
    let l : Live := match k.live.shadow with
      | some b => { k.live with active := some b, shadow := none }
      | none => k.live
    if windowOk q rb cb then
      match l.active with
      | none => .fail s 0x302
      | some b =>
        match pairClass q.type q.blk b.type b.blk with
        | none => .fail s 0x301
        | some cls =>
          let o : Orient := if form = 2 then .transposed else .normal
          let a := k.accTile acc
          if b.trans = decide (form = 1) ∧ a.accepts (accClassOf cls) o then
            match k.parity with
            | some e => .fail (s.arrayParity c e) 0x705
            | none => s.withAccs c [acc] (fun _ j => decide (j < s.width c)) <|
              let r := tmmSums q b cls form rb cb (s.width c) (a.take (accClassOf cls) o)
              .ok (((s.setCore c { k with live := l }).setAcc c acc r.1).setFlags c r.2) ()
          else .fail s 0x301
    else .fail s 0x301)

/-! ## The vector lane -/

/-- Whether a range lies in a core's own core store and in a store grant of its task (R80, Table 6.2). -/
def ownStore (c : Nat) (w : Who) (o n : Nat) : Bool :=
  let b := coreBase + c * 0x200000
  decide (b ≤ o) && decide (o + n ≤ b + 0x200000) &&
    (match w.grants with
      | some gs => gs.any (fun g => decide (g.1 ≤ o) && decide (o + n ≤ g.1 + g.2))
      | none => true)

/-- Reads weights from a core's own core store, past Rambler, under the core's own stores (R80, R190). -/
def weightsAt (s : State) (c : Nat) (w : Who) (p : Nat × Nat) : Res (List Byte) :=
  if !ownStore c w p.1 p.2 then .fail s 0x402
  else if s.uncorrectable p.1 p.2 then .fail (s.noteAcc w (.bad p.1)) 0x701
  else .ok s (s.ownGet c p.1 p.2)

/-- Row `k` of the weights: encodings and scale bytes (R116). -/
def weightRow (s : State) (c : Nat) (w : Who) (x : Xfer) (r : Regs) (wtype wblk n k : Nat) :
    Res (List Nat × List Nat) :=
  let size := typeBits wtype / 8
  if alignedFor wtype (x.dataOff r k) then
    (weightsAt s c w (x.dataOff r k, n * size)).bind (fun s d =>
      let es := (range n).map (fun j => field d (j * size) size)
      if wblk = 0 then .ok s (es, [])
      else (weightsAt s c w (x.scaleOff r k, cdiv n 32)).bind (fun s e => .ok s (es, e.map BitVec.toNat)))
  else .fail s 0x402

/-- A weight as an operand. -/
def weightOperand (wtype wblk : Nat) (row : List Nat × List Nat) (j : Nat) : Operand :=
  some (decodeElem wtype (nth 0 row.1 j), scaleVal wblk (nth 0 row.2 (j / 32)))

/-- Accumulates one output of the vector lane: passes of 32 contraction indices, ascending (R80). -/
def laneElem (q : TReg) (cls wtype wblk : Nat) (ws : List (List Nat × List Nat)) (i j a : Nat) : Nat × Nat :=
  (range (cdiv q.cols 32)).foldl (fun (r : Nat × Nat) p =>
    let p := passClass cls r.1 ((range 32).map (fun d =>
      let k := 32 * p + d
      (q.operand i k, if k < q.cols then weightOperand wtype wblk (nth ([], []) ws k) j else none)))
    (p.1, r.2 ||| p.2)) (a, 0)

/-- Adds the vector lane's products into rows of one tile: columns `32 t` to `32 t + 31` of `n`. -/
def laneTile (q : TReg) (cls wtype wblk n t : Nat) (ws : List (List Nat × List Nat)) (a : AccTile) : AccTile × Nat :=
  (range q.rows).foldl (fun (r : AccTile × Nat) i =>
    (range (min 32 (n - 32 * t))).foldl (fun (r : AccTile × Nat) j =>
      let p := laneElem q cls wtype wblk ws i (32 * t + j) (r.1.get i j)
      (r.1.put i j p.1, r.2 ||| p.2)) r) (a, 0)

/-- TMV with MODE 0 (R80, R116). -/
def runTmv (s : State) (c t pair stride wtype wblk n acc : Nat) (r : Regs) : Res Unit :=
  s.withTreg c t (fun q =>
    match (if wblk ≤ 1 ∧ 1 ≤ q.rows ∧ q.rows ≤ 8 then pairClass q.type q.blk wtype wblk else none) with
    | none => .fail s 0x301
    | some cls =>
      let tiles := range (cdiv n 32)
      let k := s.core c
      if (cls = 0 ∨ cls = 2) ∧ tiles.all (fun i => (k.accTile (acc + i)).accepts .fp32 .normal) then
        let x : Xfer := ⟨pair, stride, false, false, 0, 0⟩
        let w := s.whoCore c
        (Res.each (fun s i => weightRow s c w x r wtype wblk n i) (range q.cols) s).bind (fun s ws =>
          s.withAccs c (tiles.map (acc + ·)) (fun i _ => decide (i < q.rows)) <| .ok (tiles.foldl (fun s i =>
            let p := laneTile q cls wtype wblk n i ws (((s.core c).accTile (acc + i)).take .fp32 .normal)
            (s.setAcc c (acc + i) p.1).setFlags c p.2) s) ())
      else .fail s 0x301)

/-- An element as the row unit and the drain take it: FP32, exact for every type but INT32, which is rounded once (R47,
R48). -/
def asF32 (type enc : Nat) : Nat := toF32 (decodeElem type enc)

/-- The elements of row `i` that the row unit reads: of the register, or of tile memory with its shape and type (R117). -/
def rowElems (k : Core) (q : TReg) (srcTm : Bool) (o i : Nat) : List FV :=
  if srcTm then
    let bs := k.tileRead (wrap 48 ((o : Int) + (i : Int) * (pitchOf q.type q.cols : Int))) (rowBytes q.type q.cols)
    (range q.cols).map (fun j => ofF32 (asF32 q.type (rowGet (typeBits q.type) (fun x => nth 0 bs x) j)))
  else (range q.cols).map (fun j => ofF32 (asF32 q.type (q.enc i j)))

/-- The row unit's result for a row (R64, R82). -/
def rowReduce (mode : Nat) (l : List FV) : Nat :=
  match mode with
  | 1 => rowMax l
  | 2 => rowSum l
  | _ => rowSumSq l

/-- The result combined with the element that INIT 0 keeps (R117). -/
def rowCombine (mode : Nat) (init : Bool) (old new : Nat) : Nat :=
  if init then new else if mode = 1 then f32max old new else f32add old new

/-- TMV with MODE 1, 2 or 3 (R82, R117). -/
def runTmvRow (s : State) (c mode t pair col acc : Nat) (init srcTm : Bool) (r : Regs) : Res Unit :=
  s.withTreg c t (fun q =>
    let k := s.core c
    let o := areg r (2 * pair)
    if q.blk = 0 ∧ q.rows ≤ 32 ∧ q.cols ≤ 8192 ∧ (k.accTile acc).accepts .fp32 .normal then
      if !srcTm || (range q.rows).all (fun i =>
          let a := wrap 48 ((o : Int) + (i : Int) * (pitchOf q.type q.cols : Int))
          alignedFor q.type a && fitsTile (tmBase + a) (rowBytes q.type q.cols)) then
        let a := (range q.rows).foldl (fun (a : AccTile) i =>
          a.put i col (rowCombine mode init (a.get i col) (rowReduce mode (rowElems k q srcTm o i))))
          ((k.accTile acc).take .fp32 .normal)
        s.withAccs c [acc] (fun i j => decide (i < q.rows ∧ j / 2 = col / 2)) (.ok (s.setAcc c acc a) ())
      else .fail s 0x402
    else .fail s 0x301)

/-! ## Accumulator tiles and moves -/

/-- TZR: in use, +0 everywhere, class and orientation unset (R70, R79, R121). -/
def runTzr (s : State) (c acc count : Nat) : Res Unit :=
  .ok ((range count).foldl (fun s i => s.fillAcc c (acc + i) { inUse := true }) s) ()

/-- TMOV mode 0: configuration and contents of another register (R108). -/
def runTmovReg (s : State) (c td ts : Nat) : Res Unit := s.withTreg c ts (fun q => .ok (s.setTreg c td q) ())

/-- TMOV mode 1: a tile's bits into a register of 32 × 32 (R108). -/
def runTmovOut (s : State) (c td acc : Nat) : Res Unit :=
  let a := (s.core c).accTile acc
  let q : TReg := ⟨true, if a.cls = .int32 then 11 else 0, 0, 32, 32, [], []⟩
  let q := (range 32).foldl (fun (q : TReg) i => q.setRow i ((range 32).flatMap (fun j => toBytes 4 (a.get i j))) []) q
  s.withAccs c [acc] (fun _ _ => true) (.ok (s.setTreg c td q) ())

/-- TMOV mode 2: a register's bits into a tile (R108). -/
def runTmovIn (s : State) (c ts acc : Nat) (orient : Bool) : Res Unit :=
  s.withTreg c ts (fun q =>
    if (q.type = 0 ∨ q.type = 11) ∧ q.blk = 0 ∧ q.rows = 32 ∧ q.cols = 32 then
      let a : AccTile := ⟨true, if q.type = 11 then .int32 else .fp32, if orient then .transposed else .normal, []⟩
      let a := (range 1024).foldl (fun (a : AccTile) e => a.put (e / 32) (e % 32) (q.enc (e / 32) (e % 32))) a
      .ok (s.fillAcc c acc a) ()
    else .fail s 0x301)

/-! ## HALO and BLR -/

/-- The rows of a border strip: full rows, or N elements of every row (R110). -/
def haloStrip (q : TReg) (side n : Nat) : List (List Byte) :=
  let cols (from_ : Nat) := (range q.rows).map (fun i =>
    packBits (typeBits q.type) ((range n).map (fun j => q.enc i (from_ + j))))
  match side with
  | 0 => (range n).map q.row
  | 1 => (range n).map (fun i => q.row (q.rows - n + i))
  | 2 => cols 0
  | _ => cols (q.cols - n)

/-- Whether a strip is inside its register and of whole bytes (R110). -/
def haloOk (q : TReg) (side n : Nat) : Bool :=
  decide (q.blk = 0) &&
    (if side < 2 then decide (n ≤ q.rows) else decide (n * typeBits q.type % 8 = 0) && decide (n ≤ q.cols))

/-- Whether a range lies in a core or cluster store of this device (R110). -/
def inStore (o n : Nat) : Bool := oneRegion o n && decide (regionOf o = .clusterStore ∨ regionOf o = .coreStore)

/-- The store of one row of a strip. -/
def haloRow (type a : Nat) (bs : List Byte) : Store := ⟨alignedFor type a && inStore a bs.length, 0x7FFF * 2 ^ 48 + a, 0, bs⟩

/-- How many stores of a core on this device are unacknowledged. -/
def Rambler.stores (m : Rambler) (scope : Nat) : Nat :=
  (m.reqs.filter (fun q => !q.load && decide (q.scope ≤ scope))).length

/-- Sends a core's add (R123); an add that fails on this device fails the instruction. -/
def State.coreAdd (s : State) (c id inc : Nat) : Res Unit :=
  match (s.core c).task with
  | none => .ok s ()
  | some t =>
    let by_ := (s.graph t.graph).map (fun g => (g.handle t.graph, t.task))
    let (s, code) := s.sendAdd (.core c) (wkey t.ctx id) inc by_
    if code = 0 then .ok s () else .fail s code

/-- Whether an instruction writes memory beyond tile memory (R124). -/
def storesOf : TileInsn → Bool
  | .tst _ _ _ space .. => !space
  | .tdr _ _ _ _ _ space .. => !space
  | .halo .. => true
  | _ => false

/-- Whether an instruction issued before another is unfinished and still stores to global memory. -/
def Core.storingBefore (k : Core) (p : Pending) : Bool :=
  (k.live.pendings.takeWhile (fun x => decide (x.pc ≠ p.pc ∨ x.word ≠ p.word))).any (fun x => storesOf x.insn)

/-- HALO (R110): the strip, then 1 is added to the Waymark once every earlier write to this device is acknowledged. An identifier that is
not bound faults with WAYMARK_UNBOUND when the strip is written; R306 gives no moment (log 16). -/
def runHalo (s : State) (c t side n dst stride id : Nat) (r : Regs) (p : Pending) : Res Unit :=
  s.withTreg c t (fun q =>
    if haloOk q side n then
      let l := (haloStrip q side n).mapIdx (fun i b => haloRow q.type (rowAt (areg r dst) 0 i (dataStride r stride)) b)
      (s.storeAll c p l).bind (fun s _ =>
          match (s.core c).task.map CoreTask.ctx with
          | none => .ok s ()
          | some x =>
            if (s.binding (wkey x id)).isNone then .fail s 0xA04
            else if (s.core c).storingBefore p || decide (128 ≤ (s.core c).ramb.wq.length) then
              .wait (s.handed c p ((l.flatMap Store.cut).length - p.done))
            else
              let b := (s.core c).ramb.stores 1
              if b = 0 then s.coreAdd c id 1
              else .ok (s.modRamb c (fun m => { m with wq := m.wq ++ [⟨id, 1, b, p.pc, p.word, false⟩] })) ())
    else .fail s 0x301)

/-- Places a delivery's bytes in a register: the rows of PITCH bytes, then the scale bytes (R99, R109). -/
def TReg.fill (q : TReg) (bs : List Byte) : TReg :=
  let n := q.rows * pitchOf q.type q.cols
  { q with data := mwrite 0 [] 0 (bs.take n), scales := mwrite 0 [] 0 ((bs.drop n).take (q.rows * scaleBytes q.blk q.cols)) }

/-- BLR (R109): takes the next delivery of a channel, or waits for one. -/
def runBlr (s : State) (c t ch : Nat) : Res Unit :=
  s.withTreg c t (fun q =>
    match (s.core c).deliveries.find? (fun d => decide (d.1 = ch)) with
    | none => .wait s
    | some d =>
      let s := s.modCore c (fun k => { k with deliveries := k.deliveries.erase d })
      if d.2.length = q.footprint then .ok (s.setTreg c t (q.fill d.2)) () else .fail s 0x301)

end Sys2Proof.Machine
end

