-- ==== Sys2Proof/Machine/Drain.lean ====
section
/-! DEFINITION. The drain (R83 to R93, R118 to R120): the drain record, its checks, the element-wise steps, conversion, block
scales and the carry. -/

namespace Sys2Proof.Machine

/-! ## The drain record (Tables 3.7 to 3.9) -/

/-- CONTROL. -/
def drCtl (d : List Byte) : Nat := field d 0 4
/-- OUT_TYPE. -/
def drType (d : List Byte) : Nat := bits (drCtl d) 3 0
/-- OUT_BLOCK. -/
def drBlk (d : List Byte) : Nat := bits (drCtl d) 6 4
/-- OVF. -/
def drOvf (d : List Byte) : Nat := bits (drCtl d) 7 7
/-- RND. -/
def drRnd (d : List Byte) : Nat := bits (drCtl d) 9 8
/-- NOPS. -/
def drNops (d : List Byte) : Nat := bits (drCtl d) 13 10
/-- TBL1 or TBL2. -/
def drTbl (d : List Byte) (k : Nat) : Nat := if k = 0 then bits (drCtl d) 17 14 else bits (drCtl d) 21 18
/-- TBL1_IMAGE or TBL2_IMAGE. -/
def drImage (d : List Byte) (k : Nat) : Nat := field d (0x18 + 2 * k) 2
/-- T2_SRC. -/
def drT2Src (d : List Byte) : Nat := bits (drCtl d) 24 22
/-- SCALE_SRC. -/
def drScaleSrc (d : List Byte) : Nat := bits (drCtl d) 26 25
/-- BIAS_SRC. -/
def drBiasSrc (d : List Byte) : Nat := bits (drCtl d) 28 27
/-- VEC_REG. -/
def drVec (d : List Byte) : Nat := bits (drCtl d) 31 29
/-- Operation `i`. -/
def drOp (d : List Byte) (i : Nat) : Nat := field d (0x20 + 8 * i) 8
/-- SRC of an operation. -/
def opSrc (o : Nat) : Nat := bits o 12 11
/-- REG of an operation. -/
def opReg (o : Nat) : Nat := bits o 10 8

/-- The operations that the record runs. -/
def drOps (d : List Byte) : List Nat := (range (min 8 (drNops d))).map (drOp d)

/-- The tile registers that the record names (R85). -/
def drRegs (d : List Byte) : List Nat :=
  (if drTbl d 1 = 0 then [] else [drT2Src d])
    ++ (if drScaleSrc d = 1 ∨ drScaleSrc d = 2 ∨ 2 ≤ drBiasSrc d then [drVec d] else [])
    ++ ((drOps d).filter (fun o => decide (opSrc o ≠ 0))).map opReg

/-- Whether a loaded table that the record names lies in tile memory and has a header without reserved values (R85, R91). -/
def drTableOk (k : Core) (d : List Byte) (i : Nat) : Bool :=
  tableIdOk (drTbl d i) &&
    (decide (drTbl d i ≠ 0xF) || (decide (drImage d i ≤ 8127) && imageHeaderOk (k.tileRead (64 * drImage d i) 64)))

/-- The checks of R85: 0, or the code the TDR faults with. -/
def drCheck (k : Core) (d : List Byte) : Nat :=
  if (drRegs d).any (fun t => !(k.treg t).inUse) then 0x302
  else if zeroed d 0x1C 4 && zeroed d 0x60 32 && typeOk (drType d) && pairOk (drBlk d) (drType d) && decide (drRnd d < 2)
      && decide (drNops d ≤ 8) && decide (drScaleSrc d < 3) && drTableOk k d 0 && drTableOk k d 1
      && (drOps d).all (fun o => decide (1 ≤ bits o 7 0 ∧ bits o 7 0 ≤ 0xA) && decide (bits o 31 13 = 0))
      && (drRegs d).all (fun t => let q := k.treg t
        decide (q.rows = 32 ∧ q.cols = 32 ∧ q.blk = 0) && decide (q.type ≤ 2)) then 0
  else 0x301

/-! ## The steps on one element (R83) -/

/-- An element of a register at [row][column], as FP32. -/
def Core.at32 (k : Core) (t i c : Nat) : Nat := let q := k.treg t; asF32 q.type (q.enc i c)

/-- Step 1: scale and bias, computed exactly and rounded once. -/
def drScale (k : Core) (d : List Byte) (a : FV) (i c : Nat) : Nat :=
  let s := match drScaleSrc d with
    | 0 => field d 8 4
    | 1 => k.at32 (drVec d) 0 c
    | _ => k.at32 (drVec d) i 0
  let b := match drBiasSrc d with
    | 0 => 0
    | 1 => field d 0xC 4
    | 2 => k.at32 (drVec d) 1 c
    | _ => k.at32 (drVec d) i 1
  toF32 (((a.mul (ofF32 (field d 0x10 4))).mul (ofF32 s)).add (ofF32 b))

/-- One chain operation (Table 3.10). -/
def drOne (op v o : Nat) : Nat :=
  match op with
  | 1 => f32add v o
  | 2 => f32sub v o
  | 3 => f32sub o v
  | 4 => f32mul v o
  | 5 => f32max v o
  | 6 => f32min v o
  | 7 => toF32 (ofF32 v).abs
  | 8 => toF32 (ofF32 v).neg
  | 9 => f32mul v v
  | _ => if (ofF32 o).isNan then 0x7FC00000 else if FV.zero.lt (ofF32 o) then toF32 (ofF32 v) else 0

/-- Step 2: the chain (R86). -/
def drChain (k : Core) (ops : List Nat) (i c v : Nat) : Nat :=
  ops.foldl (fun v o =>
    let x := match opSrc o with
      | 0 => bits o 63 32
      | 1 => k.at32 (opReg o) i c
      | 2 => k.at32 (opReg o) 0 c
      | _ => k.at32 (opReg o) i 0
    drOne (bits o 7 0) v x) v

/-- The image of a loaded table in tile memory. -/
def Core.image (k : Core) (d : List Byte) (i : Nat) : List Byte :=
  if drTbl d i = 0xF then k.tileRead (64 * drImage d i) 4160 else []

/-- Steps 1 to 4 on the element at output row `i`, column `c` (R83). -/
def drValue (k : Core) (d : List Byte) (a : FV) (i c : Nat) : Nat :=
  let v := drChain k (drOps d) i c (drScale k d a i c)
  let v := if drTbl d 0 = 0 then v else tableEval (drTbl d 0) (k.image d 0) v
  if drTbl d 1 = 0 then v else f32mul v (tableEval (drTbl d 1) (k.image d 1) (k.at32 (drT2Src d) i c))

/-- The value of accumulator element [r][j]: FP32, or an exact integer (R83, R79). -/
def AccTile.value (a : AccTile) (r j : Nat) : FV := if a.cls = .int32 then decodeElem 11 (a.get r j) else ofF32 (a.get r j)

/-! ## Writing the rows (R92, R118 to R120) -/

/-- What a TDR works with: its record, its transfer, its output rows and columns, whether it ends the rows, its generator
inputs, and the carry it continues. -/
structure Tdr where
  record : List Byte
  recNo : Nat
  x : Xfer
  orows : Nat
  ocols : Nat
  rowEnd : Bool
  origin : Nat
  rowStep : Nat
  seed : Nat
  step : Nat
  carry : Option Carry
  deriving DecidableEq, Repr

/-- The random value of an element (R61, R63, R119); none under RNE. -/
def Tdr.rnd (t : Tdr) (index : Nat) : Option Nat :=
  if drRnd t.record = 1 then some (srRnd t.seed t.step (field t.record 4 4) (index % 2 ^ 64)) else none

/-- The global index of the first element of output row `i`. -/
def Tdr.rowIndex (t : Tdr) (i : Nat) : Nat := t.origin + i * t.rowStep

/-- The bytes of elements and how many bits of the last byte they fill; 0 where they fill it or where it is zero-filled at a
row end (R42, R118). -/
def tdrBytes (type : Nat) (rowEnd : Bool) (es : List Nat) : List Byte × Nat :=
  let b := typeBits type
  let n := es.length * b
  let unit := if b = 6 then 3 else 1
  let d := packBits b es
  if rowEnd then (slice d 0 (roundUp d.length unit), 0) else (d, n % 8)

/-- One piece of a row that a TDR writes: a place, bytes and the bits of the last byte. -/
structure Piece where
  at_ : Nat
  bytes : List Byte
  m : Nat
  deriving DecidableEq, Repr

/-- An unscaled row: its piece and its flags (R48, R118). -/
def Tdr.plainRow (t : Tdr) (r : Regs) (i : Nat) (vs : List Nat) : List Piece × Nat :=
  let ty := drType t.record
  let es := vs.mapIdx (fun c v => if ty = 0 then (f32canon v, 0) else convert ty (drOvf t.record) (t.rnd (t.rowIndex i + c)) (ofF32 v))
  let (d, m) := tdrBytes ty t.rowEnd (es.map Prod.fst)
  ([⟨t.x.dataAt r i, d, m⟩], es.foldl (fun f e => f ||| e.2) 0)

/-- A block-scaled row: pieces, flags, and what it carries (R54, R92, R120). -/
def Tdr.blockRow (t : Tdr) (r : Regs) (i : Nat) (vs : List Nat) : List Piece × Nat × Option CarryRow :=
  let ty := drType t.record; let bk := drBlk t.record
  let n := blockLen bk
  let pre : Option CarryRow := t.carry.bind (fun c => c.rows[i]?)
  let all := (pre.map CarryRow.vals).getD [] ++ vs
  let start := (pre.map CarryRow.index).getD (t.rowIndex i)
  (chunks n all).mapIdx (fun b l => (b, l)) |>.foldl
    (fun (a : List Piece × Nat × Option CarryRow) (e : Nat × List Nat) =>
      let own := if pre.isSome then e.1 - 1 else e.1
      let place := fun (o : Nat) => placeAt r t.x.space t.x.remote t.x.pfx (o % 2 ^ 48)
      let (da, sa) := match pre, e.1 with
        | some p, 0 => (p.dataAddr, p.scaleAddr)
        | _, _ => (place (t.x.dataOff r i + own * n * typeBits ty / 8), place (t.x.scaleOff r i + own))
      if e.2.length = n ∨ t.rowEnd then
        let q := quantBlock bk ty (field t.record 0x14 4) (fun k => t.rnd (start + e.1 * n + k)) (e.2.map ofF32)
        (a.1 ++ [⟨da, (tdrBytes ty true q.2.1).1, 0⟩, ⟨sa, toBytes 1 q.1, 0⟩], a.2.1 ||| q.2.2, a.2.2)
      else (a.1, a.2.1, some ⟨e.2, da, sa, start + e.1 * n⟩))
    ([], 0, none)

/-- The stores of the pieces of one row, which keep R106 together. -/
def pieceStores (type : Nat) (ps : List Piece) : List Store :=
  let ok := ps.all (fun p => alignedFor type p.at_ && fitsTile p.at_ p.bytes.length)
  ps.map (fun p => ⟨ok, p.at_, p.m, p.bytes⟩)

/-- Whether a TDR continues the carried rows (R92, R120). -/
def Tdr.continues (t : Tdr) (c : Carry) : Bool :=
  decide (drBlk t.record ≠ 0) && decide (t.recNo = c.record) && decide (t.rowStep = c.rowStep) && decide (t.orows = c.nrows)
    && decide (t.origin = c.origin + c.ncols)

/-- Fills the drain's table slots as a TDR names tables (R87, R91). -/
def Core.slots (k : Core) (d : List Byte) : Core :=
  { k with
    t1 := if drTbl d 0 = 0 then k.t1 else drTbl d 0
    t1off := if drTbl d 0 = 0 then k.t1off else if drTbl d 0 = 0xF then drImage d 0 else 0
    t2 := if drTbl d 1 = 0 then k.t2 else drTbl d 1
    t2off := if drTbl d 1 = 0 then k.t2off else if drTbl d 1 = 0xF then drImage d 1 else 0 }

/-- The values of output row `i`, in FP32, after steps 1 to 4. -/
def Tdr.values (t : Tdr) (k : Core) (a : AccTile) (i : Nat) : List Nat :=
  (range t.ocols).map (fun c =>
    drValue k t.record (if a.orient = .transposed then a.value c i else a.value i c) i c)

/-- Pieces, flags and carry of output row `i`. -/
def Tdr.row (t : Tdr) (k : Core) (a : AccTile) (r : Regs) (i : Nat) : List Piece × Nat × Option CarryRow :=
  if drBlk t.record = 0 then let p := t.plainRow r i (t.values k a i); (p.1, p.2, none)
  else t.blockRow r i (t.values k a i)

/-- The drain of a tile under a checked record: the rows, then what changes when the TDR finishes (R79, R92, R136). -/
def drain (s : State) (c acc : Nat) (release : Bool) (t : Tdr) (r : Regs) (p : Pending) : Res Unit :=
  let k := s.core c
  let rows := (range t.orows).map (t.row k (k.accTile acc) r)
  let s := s.modCore c (fun k => k.slots t.record)
  (s.storeAll c p (rows.flatMap (fun e => pieceStores (drType t.record) e.1))).bind (fun s _ =>
    let kept := rows.filterMap (fun p => p.2.2)
    let carry : Option Carry := if kept = [] then none else some ⟨t.recNo, t.origin, t.rowStep, t.orows, t.ocols, kept⟩
    let s := s.setFlags c (rows.foldl (fun f p => f ||| p.2.1) 0)
    let s := s.modCore c (fun k => k.modLive (fun l => { l with carry := carry }))
    .ok (if release then s.setAcc c acc {} else s) ())

/-- TDR (R83 to R93, R118 to R120), with the record captured at issue (R129). -/
def runTdr (s : State) (c acc recNo : Nat) (x : Xfer) (idx : Nat) (release : Bool) (nrows ncols : Nat) (rowEnd : Bool)
    (r : Regs) (p : Pending) : Res Unit :=
  let k := s.core c
  let d := p.drain
  let code := drCheck k d
  if code ≠ 0 then .fail s code
  else
    let tr := decide ((k.accTile acc).orient = .transposed)
    let x0 := (k.task.bind (fun t => s.ctx t.ctx))
    let t : Tdr :=
      { record := d, recNo := recNo, x := x
        orows := if tr then ncols else nrows
        ocols := if tr then nrows else ncols
        rowEnd := rowEnd
        origin := areg r (2 * idx), rowStep := areg r (2 * idx + 1)
        seed := (x0.map Ctx.seed).getD 0
        step := (k.task.map CoreTask.step).getD 0
        carry := k.live.carry }
    if (k.live.carry.map t.continues).getD true then
      s.withAccs c [acc] (fun i j => decide (i < nrows ∧ j < ncols)) (drain s c acc release t r p)
    else .fail s 0x301

end Sys2Proof.Machine
end

