-- ==== Sys2Proof/Machine/Loader.lean ====
section
/-! DEFINITION. The loader (R202 to R209, R219 to R227, R254, R299): the checks of Tables 10.5, 7.7, 7.8, 8.9, 5.3 and 5.10 in
the order of their rows, each structure read once (R144, R224). -/

namespace Sys2Proof.Machine

/-- Why a check stops: a code, or a read that did not succeed (R224). -/
inductive LdErr where
  | code (c : Nat)
  | acc (a : Acc)
  deriving DecidableEq, Repr

/-- A check's result. -/
abbrev Ld (α : Type) := Except LdErr α

/-- A condition with the code of its failure. -/
def Ld.need (b : Bool) (c : Nat) : Ld Unit := if b then .ok () else .error (.code c)
/-- A check that gives its own code, 0 for none. -/
def Ld.code0 (c : Nat) : Ld Unit := if c = 0 then .ok () else .error (.code c)
/-- Reads a structure. -/
def State.ld (s : State) (w : Who) (a n : Nat) : Ld (List Byte) :=
  match s.readG w a n with
  | .data bs => .ok bs
  | .stop a => .error (.acc a)

/-! ## The operation block (Tables 7.1, 7.2) -/

/-- OP. -/
def obOp (b : List Byte) : Nat := field b 0 2
/-- REUSE. -/
def obReuse (b : List Byte) : Nat := bits (field b 2 1) 1 0
/-- ZERO_PAD. -/
def obZeroPad (b : List Byte) : Bool := bit (field b 3 1) 0
/-- TABLE1 or TABLE2. -/
def obTable (b : List Byte) (k : Nat) : Nat := field b (8 + 8 * k) 8
/-- The address in a slot: OUT, IN0 to IN3, AUX0 to AUX2. -/
def obSlot (b : List Byte) (k : Nat) : Nat := field b (0x20 + 8 * k) 8
/-- Parameter word `k`. -/
def obP (b : List Byte) (k : Nat) : Nat := field b (0x60 + 8 * k) 8
/-- The DRAIN record. -/
def obDrain (b : List Byte) : List Byte := slice b 0xC0 128
/-- FORM. -/
def obForm (b : List Byte) : Nat := bits (obP b 0) 1 0
/-- KSPLIT. -/
def obKsplit (b : List Byte) : Nat := bits (obP b 1) 6 0

/-- What each slot must hold: 0 nothing, 1 a descriptor, 2 optional (Tables 7.2, 8.4, R272). -/
def slotNeeds (b : List Byte) : List Nat :=
  let kind0 := !bit (obP b 0) 0
  match obOp b with
  | 1 | 2 => [1, 1, 1, 0, 0, 0, 0, 0]
  | 3 => [1, 1, 1, 1, 0, 0, 0, 0]
  | 4 => [1, 1, 1, 1, 1, 1, 1, 1]
  | 5 => [1, 1, 2, 2, 0, 0, 0, 0]
  | 6 | 7 | 0xA | 0xB => [1, 1, 0, 0, 0, 0, 0, 0]
  | 8 | 9 | 0xC => [1, 1, 1, 0, 0, 0, 0, 0]
  | 0xD => [1, 1, 0, 0, 0, 1, 1, 0]
  | 0xE => [1, 1, 1, 2, 0, 2, if kind0 then 2 else 0, if obSlot b 5 ≠ 0 ∨ (kind0 ∧ obSlot b 6 ≠ 0) then 1 else 2]
  | _ => [1, 1, 1, 0, 0, 0, 0, 0]

/-- The bits of P0 to P7 that Table 7.2 assigns; QPOS and KPOS are checked in row 5. -/
def paramMask (op : Nat) : List Nat :=
  match op with
  | 1 | 2 => [3, 0x7F, 0, 0, 0, 0, 0, 0]
  | 3 | 4 => [0x1FFFFFFFF, 2 ^ 64 - 1, 2 ^ 64 - 1, 0, 0, 0, 0, 0]
  | 5 | 0xE => [0xFFFFFFFF00000001, 0, 0, 0, 0, 0, 0, 0]
  | 6 | 0xF => [0xFFFFFFFF, 0, 0, 0, 0, 0, 0, 0]
  | 0xA => [0xFFFFFF, 0, 0, 0, 0, 0, 0, 0]
  | 0xB => [0x37, 0, 0, 0, 0, 0, 0, 0]
  | 0xC => [0xFFFFFFFFFFFF, 0x7F, 0, 0, 0, 0, 0, 0]
  | 0xD => [0xFF, 0, 0, 0, 0, 0, 0, 0]
  | _ => [0, 0, 0, 0, 0, 0, 0, 0]

/-- The AUX slots that DRAIN names (R219). -/
def drainAux (d : List Byte) : List Nat := drRegs d

/-- The slots that a task writes: OUT, its further outputs and its scratch; an AUX slot of NORM_BWD is one only where Table 8.4 makes
it so. -/
def outSlots (b : List Byte) : List Nat :=
  match obOp b with
  | 4 => [0, 5, 6, 7]
  | 0xE =>
    let beta := !bit (obP b 0) 0 && decide (obSlot b 6 ≠ 0)
    let gamma := decide (obSlot b 5 ≠ 0)
    [0] ++ (if gamma then [5] else []) ++ (if beta then [6] else []) ++ (if gamma || beta then [7] else [])
  | 0xD => [0, 5, 6]
  | _ => [0]

/-- The AUX slots that hold what Table 8.4 names them for: column sums and scratch, not a source of DRAIN alone (R236, R239). -/
def sumSlots (b : List Byte) : List Nat :=
  [5, 6, 7].filter (fun k => (outSlots b).contains k || !(drainAux (obDrain b)).contains (k - 5))

/-- Rows 2 and 3 of Table 7.7. -/
def opBlockOk (b : List Byte) : Bool :=
  let d := obDrain b
  decide (1 ≤ obOp b ∧ obOp b ≤ 0xF) && decide (obReuse b < 3) && decide (field b 2 1 < 4) && decide (field b 3 1 < 2)
    && zeroed b 4 4 && zeroed b 0x18 8 && zeroed b 0xA0 32
    && ((range 8).zip (paramMask (obOp b))).all (fun e => decide (obP b e.1 &&& e.2 = obP b e.1))
    && (range 2).all (fun k => decide (obTable b k ≠ 0) == decide (drTbl d k = 0xF))
    && ((range 8).zip (slotNeeds b)).all (fun e =>
      let z := decide (obSlot b e.1 = 0)
      if e.2 = 1 then !z else if e.2 = 2 then true else z || (decide (5 ≤ e.1) && (drainAux d).contains (e.1 - 5)))

/-! ## Structures of a checked task -/

/-- The copies that a checked task keeps (R144): slot `k` at key `k`, its shard descriptor at `16 + k`, the list header in slot
2's place, table images at 32 and 33, the layer table's header at 48, the layer record at 49, the version record at 50, the
SAVE descriptor at 51 and its shard at 52. -/
abbrev Copies := Map (List Byte)

/-- A copy. -/
def Copies.at_ (m : Copies) (k : Nat) : List Byte := mget [] m k
/-- The descriptor in a slot. -/
def Copies.desc (m : Copies) (k : Nat) : List Byte := mget [] m k

/-- Reads and checks one descriptor, and the shard descriptor that it names once the rows before row 8 have passed (Table 5.3, R224). -/
def State.ldDesc (s : State) (w : Who) (a : Nat) (dest : Bool) : Ld (List Byte × List Byte) := do
  Ld.need (a % 128 = 0) 0x202
  let d ← s.ld w a 128
  Ld.need (dsShard d % 64 = 0) 0x202
  Ld.code0 (descCode d true false)
  let h ← if dsShard d = 0 then pure [] else s.ld w (dsShard d) 64
  Ld.code0 (descCode d (decide (dsShard d = 0) || s.shardOk d h) dest)
  pure (d, h)

/-- Whether slot `k` holds a coordinate-list header. -/
def isList (op k : Nat) : Bool := (decide (op = 8) || decide (op = 9)) && decide (k = 2)

/-- The table and the list side of a GATHER or SCATTER. -/
def tableSide (op : Nat) (m : Copies) : List Byte × List Byte :=
  if op = 8 then (m.desc 1, m.desc 0) else (m.desc 0, m.desc 1)

/-- Row 4 of Table 7.7: every named descriptor, in ascending slot order (log 77), then the list header. -/
def State.ldSlots (s : State) (w : Who) (b : List Byte) : Ld Copies := do
  let op := obOp b
  let m ← (range 8).foldlM (fun (m : Copies) k =>
    if obSlot b k = 0 || isList op k then pure m
    else do
      let (d, h) ← s.ldDesc w (obSlot b k) ((outSlots b).contains k)
      pure (mset [] (mset [] m k d) (16 + k) h)) []
  if op = 8 || op = 9 then do
    Ld.need (obSlot b 2 % 64 = 0) 0x202
    let h ← s.ld w (obSlot b 2) 64
    Ld.code0 (listCode h (tableSide op m).1 (tableSide op m).2)
    pure (mset [] m 2 h)
  else pure m

/-- A finite FP32 value. -/
def finite32 (v : Nat) : Bool := !f32bad v

/-- The contraction length of a product: MATMUL, BATCHED_MATMUL, CONV3D. -/
def contraction (b : List Byte) (m : Copies) : Nat :=
  if obOp b = 0xC then prod ((dsSizes (m.desc 2)).drop 1)
  else if obForm b = 2 then dsSize (m.desc 1) 1 else dsSize (m.desc 1) 0

/-- Ranks that an operation requires of its slots. -/
def rankOk (b : List Byte) (m : Copies) : Bool :=
  let r (l : List Nat) (n : Nat) := l.all (fun k => decide (dsRank (m.desc k) = n))
  match obOp b with
  | 1 => r [0, 1, 2] 2
  | 2 => r [0, 1, 2] 3
  | 3 => r [0, 1, 2, 3] 3
  | 4 => r [0, 1, 2, 3, 4, 5, 6] 3
  | 0xC => r [0, 1, 2] 5
  | 0xD => r [0, 1] 2
  | _ => true

/-- p[d] of PERM. -/
def permAt (b : List Byte) (d : Nat) : Nat := bits (obP b 0) (3 * d + 2) (3 * d)

/-- Row 5 of Table 7.7. -/
def paramsOk (b : List Byte) (m : Copies) : Bool :=
  let op := obOp b
  let split := decide (1 ≤ obKsplit b ∧ obKsplit b ≤ min 64 (cdiv (contraction b m) 32))
  rankOk b m && (obZeroPad b == false || decide (op = 0xC))
    && (match obReuse b with
      | 0 => true
      | 1 => [1, 2, 3, 4, 0xC, 0xD].contains op
      | _ => decide (op = 0xC))
    && (match op with
      | 1 | 2 => decide (obForm b < 3) && split
      | 3 | 4 => finite32 (bits (obP b 0) 31 0) && decide (obP b 1 < 2 ^ 24) && decide (obP b 2 < 2 ^ 24)
      | 5 | 0xE => finite32 (bits (obP b 0) 63 32) && !(ofF32 (bits (obP b 0) 63 32)).lt FV.zero
      | 6 | 0xF => finite32 (bits (obP b 0) 31 0)
      | 0xA =>
        let r := dsRank (m.desc 1)
        let p := (range 8).map (permAt b)
        (p.drop r).all (· == 0) && decide ((p.take r).Nodup) && (p.take r).all (fun x => decide (x < r))
      | 0xB => decide (bits (obP b 0) 2 0 < dsRank (m.desc 1)) && decide (bits (obP b 0) 5 4 < 3)
      | 0xC => split && (range 3).all (fun k => let v := bits (obP b 0) (8 * k + 7) (8 * k); decide (1 ≤ v ∧ v ≤ 16))
      | _ => true)

/-- Row 6 of Table 7.7. -/
def typesOk (b : List Byte) (m : Copies) : Bool :=
  let pair (i j : Nat) := (pairClass (dsType (m.desc i)) (dsBlk (m.desc i)) (dsType (m.desc j)) (dsBlk (m.desc j))).isSome
  let plain (l : List Nat) := l.all (fun k => decide (m.desc k = []) || (decide (dsType (m.desc k) ≤ 2) && decide (dsBlk (m.desc k) = 0)))
  let f32 (l : List Nat) := l.all (fun k => decide (m.desc k = []) || (decide (dsType (m.desc k) = 0) && decide (dsBlk (m.desc k) = 0)))
  let same := decide (dsType (m.desc 0) = dsType (m.desc 1) ∧ dsBlk (m.desc 0) = dsBlk (m.desc 1))
  match obOp b with
  | 1 | 2 | 0xC => pair 1 2
  | 3 => pair 1 2 && pair 3 3
  | 4 => pair 1 2 && pair 4 3 && pair 2 2 && pair 1 1 && pair 4 4
  | 5 => plain [1, 2, 3]
  | 6 | 0xB => plain [1]
  | 8 => same
  | 9 => !clOver (m.at_ 2) || same
  | 0xA => same && (decide (dsBlk (m.desc 1) = 0) || decide (permAt b 0 = 0))
  | 0xD => f32 [0, 1, 5, 6]
  | 0xE => plain [1, 2, 3] && f32 (sumSlots b)
  | 0xF => plain [1, 2]
  | _ => true

/-- The output extent of CONV3D on one axis; 0 where there is none. -/
def convOut (w pad k stride : Nat) : Nat := if w + 2 * pad < k then 0 else (w + 2 * pad - k) / stride + 1

/-- Row 7 of Table 7.7. -/
def shapesOk (b : List Byte) (m : Copies) : Bool :=
  let z (k : Nat) := dsSizes (m.desc k)
  let sz (k i : Nat) := dsSize (m.desc k) i
  let one (k : Nat) := decide (m.desc k = []) || decide (z k = [sz 1 0])
  match obOp b with
  | 1 | 2 =>
    let (mm, kk) := if obForm b = 2 then (sz 1 0, sz 1 1) else (sz 1 1, sz 1 0)
    let (nn, kb) := if obForm b = 1 then (sz 2 1, sz 2 0) else (sz 2 0, sz 2 1)
    decide (kk = kb) && decide (sz 0 0 = nn) && decide (sz 0 1 = mm)
      && (decide (obOp b = 1) || [1, 2].all (fun k => decide (sz k 2 = sz 0 2) || decide (sz k 2 = 1)))
  | 3 => decide (sz 1 0 = sz 2 0) && decide (sz 2 1 = sz 3 1) && decide (sz 1 2 = sz 2 2 ∧ sz 2 2 = sz 3 2)
      && decide (z 0 = [sz 3 0, sz 1 1, sz 1 2])
  | 4 => decide (sz 1 0 = sz 2 0) && decide (sz 2 1 = sz 3 1) && decide (sz 1 2 = sz 2 2 ∧ sz 2 2 = sz 3 2)
      && decide (sz 3 0 = sz 1 0) && decide (z 0 = z 1) && decide (z 4 = [sz 3 0, sz 1 1, sz 1 2]) && decide (z 5 = z 2)
      && decide (z 6 = z 3) && decide (z 7 = [3, sz 1 1, sz 1 2]) && decide (dsType (m.desc 7) = 0 ∧ dsBlk (m.desc 7) = 0)
  | 5 => decide (z 0 = z 1) && one 2 && one 3
  | 6 | 7 => decide (z 0 = z 1)
  | 0xA => decide (dsRank (m.desc 0) = dsRank (m.desc 1)) && (range (dsRank (m.desc 1))).all (fun d => decide (sz 0 d = sz 1 (permAt b d)))
  | 0xB =>
    let dim := bits (obP b 0) 2 0
    decide (z 0 = (z 1).mapIdx (fun i n => if i = dim then 1 else n))
  | 0xC =>
    let f (k : Nat) := bits (obP b 0) (8 * k + 7) (8 * k)
    decide (sz 2 1 = sz 1 0) && decide (sz 0 0 = sz 2 0) && decide (sz 0 4 = sz 1 4)
      && (range 3).all (fun a =>
        let o := convOut (sz 1 (a + 1)) (f (a + 3)) (sz 2 (a + 2)) (f a)
        decide (1 ≤ o ∧ sz 0 (a + 1) = o))
  | 0xD =>
    let r := min (sz 1 0) (sz 1 1)
    decide (z 0 = z 1) && decide (z 5 = [r, 2 * r]) && decide (z 6 = z 1)
  | 0xE => decide (z 0 = z 1) && decide (z 2 = z 1) && one 3 && (sumSlots b).all (fun k =>
      if k = 7 then decide (m.desc 7 = []) || decide (z 7 = [2, dsRows (m.desc 1)]) else one k)
  | 0xF => decide (z 0 = z 1) && decide (z 2 = z 1)
  | _ => true

/-- Rows of an output: runs along dimension 0 (R220). -/
def outRows (m : Copies) : Nat := dsRows (m.desc 0)

/-- The shape that each use of an AUX slot requires (Table 7.5). -/
def auxOk (d : List Byte) (m : Copies) : Bool :=
  let n := dsSize (m.desc 0) 0; let r := outRows m
  let has (reg : Nat) (sizes : List Nat) : Bool :=
    let a := m.desc (5 + reg)
    decide (reg < 3) && decide (a ≠ []) && decide (dsType a ≤ 2 ∧ dsBlk a = 0) && decide (dsSizes a = sizes)
  let colSrc := decide (drScaleSrc d = 1) || decide (drBiasSrc d = 2) || (drOps d).any (fun o => decide (opSrc o = 2))
  let rowSrc := decide (drScaleSrc d = 2) || decide (drBiasSrc d = 3) || (drOps d).any (fun o => decide (opSrc o = 3))
  !(colSrc && rowSrc)
    && (decide (drTbl d 1 = 0) || has (drT2Src d) (dsSizes (m.desc 0)))
    && (!(decide (drScaleSrc d = 1) || decide (drBiasSrc d = 2)) || has (drVec d) [n, 2])
    && (!(decide (drScaleSrc d = 2) || decide (drBiasSrc d = 3)) || has (drVec d) [2, r])
    && (drOps d).all (fun o => match opSrc o with
      | 0 => true
      | 1 => has (opReg o) (dsSizes (m.desc 0))
      | 2 => has (opReg o) [n]
      | _ => has (opReg o) [r])

/-- Row 8 of Table 7.7 on DRAIN: R85, R219 and R220. -/
def drainOk (b : List Byte) (m : Copies) : Bool :=
  let d := obDrain b; let op := obOp b
  let move := [8, 9, 0xA].contains op
  let sum := decide (op = 9) && !clOver (m.at_ 2)
  decide (drType d = dsType (m.desc 0) ∧ drBlk d = dsBlk (m.desc 0)) && zeroed d 4 4 && zeroed d 0x10 12 && zeroed d 0x1C 4
    && zeroed d 0x60 32 && decide (drRnd d < 2)
    && (if move then
        decide (drCtl d / 1024 = 0) && zeroed d 8 8 && zeroed d 0x20 64 && (sum || decide (drCtl d / 128 = 0))
      else if op = 0xD then (d.all (· == 0))
      else
        decide (drNops d ≤ 8) && decide (drScaleSrc d < 3) && tableIdOk (drTbl d 0) && tableIdOk (drTbl d 1)
          && (drOps d).all (fun o => decide (1 ≤ bits o 7 0 ∧ bits o 7 0 ≤ 0xA) && decide (bits o 31 13 = 0))
          && auxOk d m
          && (drainAux d).all (fun r => decide (r < 3) && !((outSlots b).contains (5 + r)))
          && (decide (op ≠ 4) || (decide (drNops d = 0 ∧ drTbl d 0 = 0 ∧ drTbl d 1 = 0 ∧ drScaleSrc d = 0 ∧ drBiasSrc d = 0)
            && decide (field d 8 4 = 0x3F800000 ∧ field d 0xC 4 = 0))))

/-- Whether a table image lies within one region of the local map (row 9 of Table 7.7). -/
def imageIn (b : List Byte) (k : Nat) : Bool := decide (obTable b k = 0) || oneRegion (localOf (obTable b k)) 4160

/-- Reads the table images that lie in one region and checks their headers (row 8 of Table 7.7). -/
def State.ldImages (s : State) (w : Who) (b : List Byte) (m : Copies) : Ld Copies :=
  (range 2).foldlM (fun (m : Copies) k =>
    if obTable b k = 0 || !imageIn b k then pure m
    else do
      let im ← s.ld w (obTable b k) 4160
      Ld.need (imageHeaderOk im) 0x204
      pure (mset [] m (32 + k) im)) m

/-- A byte range as a footprint. -/
def rangeFoot (a n : Nat) : Nat × Int × Int := (deviceOf a, ((localOf a : Nat) : Int), (localOf a : Int) + n - 1)

/-- Whether two descriptors match in every field that Table 5.11's first row lists. -/
def sameLayout (a b : List Byte) : Bool :=
  decide (slice a 0 8 = slice b 0 8 ∧ dsType a = dsType b ∧ dsBlk a = dsBlk b ∧ dsRank a = dsRank b)
    && decide (slice a 0x10 0x68 = slice b 0x10 0x68)

/-- Whether PERM is the identity. -/
def permId (b : List Byte) (r : Nat) : Bool := (range r).all (fun d => decide (permAt b d = d))

/-- Whether a PERMUTE_COPY's operands overlap (R169). -/
def State.copyOverlaps (s : State) (m : Copies) : Bool := s.footsMeet (dsFoots (m.desc 0)) (dsFoots (m.desc 1))

/-- Whether a PERMUTE_COPY does nothing (Table 5.11, first row). -/
def State.copyNoop (s : State) (b : List Byte) (m : Copies) : Bool :=
  s.copyOverlaps m && permId b (dsRank (m.desc 1)) && sameLayout (m.desc 0) (m.desc 1)

/-- Whether a PERMUTE_COPY is staged (Table 5.11, second row). -/
def State.copyStaged (s : State) (b : List Byte) (m : Copies) : Bool :=
  decide (obOp b = 0xA) && s.copyOverlaps m && !s.copyNoop b m && decide (dsDense (m.desc 1) ≤ 16777216)

/-- Row 10 of Table 7.7 (R226, R170). -/
def State.overlapOk (s : State) (b : List Byte) (m : Copies) : Bool :=
  let op := obOp b
  let used := (range 8).filter (fun k => decide (obSlot b k ≠ 0) && !isList op k)
  let outs := used.filter (fun k => (outSlots b).contains k)
  let list := if op = 8 ∨ op = 9 then
    [rangeFoot (obSlot b 2) 64, rangeFoot (clEntries (m.at_ 2)) (clBytes (m.at_ 2))] else []
  if op = 0xA then !s.copyOverlaps m || s.copyNoop b m || s.copyStaged b m
  else
    outs.all (fun o =>
      used.all (fun k => decide (k = o) || !s.footsMeet (dsFoots (m.desc o)) (dsFoots (m.desc k))
        || (decide (op = 7 ∧ o = 0 ∧ k = 1) && sameLayout (m.desc 0) (m.desc 1)))
      && !s.footsMeet (dsFoots (m.desc o)) list)

/-- Row 11 of Table 7.7 (R223, Table 7.6). -/
def capacityOk (b : List Byte) (m : Copies) : Bool :=
  match obOp b with
  | 3 => decide (dsSize (m.desc 3) 0 ≤ 4064)
  | 4 => decide (dsSize (m.desc 1) 0 ≤ 1344)
  | _ => true

/-- The checks of Table 7.7 on a mapped task whose operation block lies at `a`: the block and the copies. -/
def State.ldMapped (s : State) (w : Who) (a : Nat) : Ld (List Byte × Copies) := do
  Ld.need (a % 64 = 0) 0x202
  let b ← s.ld w a 320
  Ld.need ((range 2).all (fun k => decide (obTable b k % 64 = 0))) 0x202
  Ld.need (opBlockOk b) 0x204
  let m ← s.ldSlots w b
  Ld.need (paramsOk b m) 0x204
  Ld.need (typesOk b m) 0x204
  Ld.need (shapesOk b m) 0x201
  Ld.need (drainOk b m) 0x204
  let m ← s.ldImages w b m
  Ld.need (imageIn b 0 && imageIn b 1) 0x201
  Ld.need (s.overlapOk b m) 0x205
  Ld.need (capacityOk b m) 0x203
  pure (b, m)

/-! ## Hand-mapped tasks (Tables 7.8, 10.4) -/

/-- Entry `e` of a core table. -/
def ctEntry (t : List Byte) (e : Nat) : List Byte := slice t (128 * e) 128
/-- PROGRAM. -/
def ctProgram (e : List Byte) : Nat := field e 0 8
/-- LENGTH. -/
def ctLength (e : List Byte) : Nat := field e 8 2
/-- WIDTHS. -/
def ctWidths (e : List Byte) : Nat := field e 0xA 1
/-- Initial value of an address register. -/
def ctReg (e : List Byte) (n : Nat) : Nat := field e (0x10 + 6 * n) 6
/-- Whether a width is in the entry's width set. -/
def ctHas (e : List Byte) (w : Nat) : Bool := bit (ctWidths e) (32 - w)
/-- Whether an entry's reserved bits are 0 (row 4 of Table 10.5). -/
def ctClean (e : List Byte) : Bool :=
  decide (ctLength e < 2048) && decide (ctWidths e < 8) && zeroed e 0xB 5 && zeroed e 0x70 16

/-- The checks of Table 7.8 on a core table of `n` entries, each row over every entry; the width set of an entry is held to its core
once the task has its cores. -/
def State.ldHand (s : State) (t : List Byte) (n : Nat) (cores : List Nat) : Ld Unit := do
  let es := (range n).map (ctEntry t)
  Ld.need (es.all (fun e => decide (ctProgram e % 8 = 0))) 0x202
  Ld.need (es.all (fun e => decide (1 ≤ ctLength e ∧ ctLength e ≤ 1024))) 0x204
  Ld.need (es.all (fun e => oneRegion (localOf (ctProgram e)) (8 * ctLength e))) 0x201
  Ld.need (decide (cores.length < n) || (es.zip cores).all (fun e => ctHas e.1 (s.width e.2))) 0x208

/-! ## Layers (Tables 8.1, 8.2, 8.7, 8.9) -/

/-- SAVE of a layer record. -/
def lrSave (r : List Byte) : Nat := field r 8 8
/-- KEEP. -/
def lrKeep (r : List Byte) : Bool := bit (field r 0 4) 0
/-- DEMOTABLE. -/
def lrDemotable (r : List Byte) : Bool := bit (field r 0 4) 1
/-- TRIAD. -/
def lrTriad (r : List Byte) : Bool := bit (field r 0 4) 2
/-- VERSION of a layer record. -/
def lrVersion (r : List Byte) : Nat := field r 0x10 8
/-- FWD_COUNT or RCP_COUNT at an offset. -/
def lrCount (r : List Byte) (o : Nat) : Nat := field r o 4

/-- The header's values and reserved bits (Table 8.1). -/
def layerHeaderOk (h : List Byte) : Bool :=
  let n := field h 0 4; let cs := field h 4 4; let ls := field h 8 4; let hb := field h 0x10 8; let hs := field h 0x18 8
  decide (1 ≤ n ∧ n ≤ 4096) && decide (cs % 64 = 0 ∧ cs ≤ 1792) && decide (ls % 64 = 0 ∧ ls ≤ 24320) && zeroed h 0xC 4
    && decide (hb % 0x200000 = 0 ∧ hs % 0x200000 = 0) && (decide (hs ≠ 0) || decide (hb = 0)) && zeroed h 0x20 32

/-- A layer record's reserved bits and R230. A record with SAVE 0 has KEEP 0 and RCP_COUNT 0, which the third bullet of R230 would refuse: it
is exempt from that bullet (log 43). -/
def layerRecOk (r : List Byte) (tasks : Nat) : Bool :=
  let fwd := lrCount r 0x1C; let rcp := lrCount r 0x24
  decide (field r 0 4 < 8) && zeroed r 4 4 && zeroed r 0x28 24 && decide (field r 0x18 4 < 2 ^ 24 ∧ field r 0x20 4 < 2 ^ 24)
    && decide (fwd ≤ 2 ^ 24 ∧ rcp ≤ 2 ^ 24)
    && (if lrSave r = 0 then !lrKeep r && !lrDemotable r && decide (fwd = 0 ∧ rcp = 0) else decide (1 ≤ fwd))
    && (decide (lrSave r = 0) || lrKeep r || (!lrDemotable r && decide (1 ≤ rcp)))
    && (!lrDemotable r || decide (1 ≤ rcp))
    && decide (field r 0x18 4 + fwd ≤ tasks ∧ field r 0x20 4 + rcp ≤ tasks)

/-- A version record's reserved bits and values (Table 8.7). -/
def versionRecOk (v : List Byte) : Bool :=
  decide (field v 0x18 4 < 16) && (range 2).all (fun i => decide (vrState v i < 3) && decide (field v (0x20 + 4 * i) 4 < 2 ^ 20))
    && decide (1 ≤ field v 0x1C 4 ∧ field v 0x1C 4 ≤ 600000) && zeroed v 0x38 8

/-- Whether a range lies within the HBM region. -/
def inHbm (o n : Nat) : Bool := decide (o + n ≤ hbmBytes)

/-- The slots of a mapped task that hold weight operands: those whose BASE is SLOT_BASE[0] (R249). -/
def weightSlots (m : Copies) (v : List Byte) : List Nat :=
  (range 8).filter (fun k => decide (m.desc k ≠ []) && decide (dsBase (m.desc k) % 2 ^ 48 = field v 0 8))

/-- Whether a weight operand's footprint lies in the HBM region in both slots (row 14 of Table 8.9). -/
def slotsInHbm (m : Copies) (v : List Byte) : Bool :=
  (range 2).all (fun i => inHbm (field v (8 * i) 8) 1)
    && (weightSlots m v).all (fun k =>
      let d := m.desc k
      (dsFoot d :: (if dsBlk d = 0 then [] else [dsScaleFoot d])).all (fun f => (range 2).all (fun i =>
        let d : Int := (field v (8 * i) 8 : Int) - (field v 0 8 : Int)
        decide (0 ≤ f.1 + d) && decide (f.2 + d < hbmBytes))))

/-- Rows 12 to 15 of Table 8.9 on a task that names a layer: the copies with the layer's structures. -/
def State.ldLayer (s : State) (w : Who) (g : Graph) (t : Task) (d : List Byte) (m : Copies) : Ld Copies := do
  let n := tdLayer d
  Ld.need (g.layers % 64 = 0) 0x202
  let h ← s.ld w g.layers 64
  let r ← (if n < field h 0 4 then s.ld w (g.layers + 64 * (n + 1)) 64 else pure [])
  Ld.need (lrVersion r % 64 = 0) 0x202
  let v ← (if lrVersion r = 0 then pure [] else s.ld w (lrVersion r) 64)
  Ld.need (decide (n < field h 0 4) && layerHeaderOk h && layerRecOk r g.count && (decide (v = []) || versionRecOk v)) 0x204
  let (sv, sh) ← (if lrSave r = 0 then pure ([], []) else s.ldDesc w (lrSave r) false)
  Ld.need (inHbm (field h 0x10 8) (field h 0x18 8) && (decide (v = []) || slotsInHbm m v)) 0x201
  Ld.need (match t.version with
    | some _ => t.counted
    | none => true) 0x209
  pure (mset [] (mset [] (mset [] (mset [] (mset [] m 48 h) 49 r) 50 v) 51 sv) 52 sh)

/-- Moves the weight operands of a counted task to the slot of its version (R249). -/
def resolveWeights (m : Copies) (t : Task) : Copies :=
  let v := m.at_ 50
  if v = [] ∨ t.counted = false then m
  else
    let delta : Int := (field v (8 * t.slot) 8 : Int) - (field v 0 8 : Int)
    (weightSlots m v).foldl (fun m k =>
      let d := m.desc k
      let move (o : Nat) : List Byte := toBytes 8 (let a := field d o 8; if a = 0 then 0 else fromBase a delta)
      mset [] m k (move 0 ++ slice d 8 0x58 ++ move 0x60 ++ slice d 0x68 24)) m

/-! ## Dispatch checks (Table 10.5) -/

/-- Entry `k` of a task's grants: local offset and length in bytes. -/
def tdGrant (d : List Byte) (k : Nat) : Nat × Nat := (field d (0x68 + 8 * k) 6, field d (0x6E + 8 * k) 2 * 4096)
/-- NSUCC. -/
def tdNsucc (d : List Byte) : Nat := field d 0x30 4 % 2 ^ 25
/-- SUCC. -/
def tdSucc (d : List Byte) : Nat := field d 0x28 8
/-- CORES. -/
def tdCores (d : List Byte) : Nat := field d 0x18 4 % 1024
/-- CLUSTER_MASK. -/
def tdMask (d : List Byte) : Nat := field d 0x10 8 % 2 ^ 36

/-- Row 1 of Table 10.5. -/
def alignOk (d : List Byte) : Bool :=
  decide (tdKind d ≠ 0 ∨ tdWork d % 64 = 0) && decide (tdKind d ≠ 1 ∨ tdWork d % 128 = 0) && decide (tdSucc d % 4 = 0)
    && (range 2).all (fun k => decide ((tdGrant d k).1 % 4096 = 0))

/-- Row 2 of Table 10.5, without the successor indices. -/
def countsOk (g : Graph) (d : List Byte) (root : Bool) : Bool :=
  let kind := tdKind d; let cores := tdCores d; let c := tdControl d
  let layer := tdHasLayer d; let version := tdHasVersion d
  decide (c < 4096) && decide (kind ≠ 3) && decide (field d 4 4 < 2 ^ 24) && decide (field d 0x10 8 < 2 ^ 36)
    && decide (field d 0x18 4 < 1024) && decide (field d 0x1C 4 < 4096) && decide (field d 0x30 4 < 2 ^ 25)
    && zeroed d 0x34 4 && zeroed d 0x78 8
    && (if kind = 2 then decide (cores = 0 ∧ tdWork d = 0) else decide (1 ≤ cores ∧ cores ≤ 648))
    && (!version || layer) && (!layer || decide (g.layers ≠ 0))
    && (layer || (zeroed d 0x1C 8)) && (version || zeroed d 0x24 4)
    && (decide (tdNsucc d ≠ 0) || decide (tdSucc d = 0))
    && decide (tdNwait d < 3) && decide (tdNsig d < 3)
    && (range 2).all (fun k => if k < tdNwait d then decide (bits (field d (0x38 + 16 * k) 4) 30 20 = 0) && zeroed d (0x3C + 16 * k) 4
      else zeroed d (0x38 + 16 * k) 16)
    && (range 2).all (fun k => if k < tdNsig d then decide (field d (0x58 + 8 * k) 4 < 2 ^ 20) && decide (1 ≤ (tdSignal d k).2)
      else zeroed d (0x58 + 8 * k) 8)
    && (!root || decide (tdNpred d = 0))
    && (range 2).all (fun k => let (o, n) := tdGrant d k; (decide (n ≠ 0) || decide (o = 0)) && decide (n ≤ 6144 * 4096))

/-- Whether a grant lies within one store (row 3 of Table 10.5). -/
def grantInStore (o n : Nat) : Bool :=
  match regionOf o with
  | .coreStore => decide ((o - coreBase) % 0x200000 + n ≤ 0x200000)
  | .clusterStore => decide ((o - clusterBase) % 0x2000000 + n ≤ 0x1800000)
  | _ => false

/-- Whether `[a, a + n)` and `[b, b + m)` meet. -/
def rangesMeet (a n b m : Nat) : Bool := decide (a < b + m) && decide (b < a + n) && decide (0 < n) && decide (0 < m)

/-- The on-chip stash areas that graphs hold in a store (R242): offsets within the store and lengths. -/
def State.areasIn (s : State) (cluster : Bool) : List (Nat × Nat) :=
  s.trh.graphs.filterMap (fun (e : Nat × Graph) => e.2.areas.map (fun a =>
    let h := e.2.header
    if cluster then (a.2, 1024 * field h 8 4) else (a.1, 1024 * field h 4 4)))

/-- The excluded ranges of R292 in the store of an offset: offsets within the store and lengths. -/
def State.excludedIn (s : State) (o : Nat) : List (Nat × Nat) :=
  match regionOf o with
  | .coreStore => (0x1C0000, 0x40000) :: s.areasIn false
  | .clusterStore =>
    let n := (o - clusterBase) / 0x2000000
    (0x17C0000, 0x40000) :: s.areasIn true ++ ((s.cluster n).staging.map (fun e => (e.2.2, 0x1000000))).toList
  | _ => []

/-- The offset of a local offset within its store. -/
def withinStore (o : Nat) : Nat :=
  match regionOf o with
  | .coreStore => (o - coreBase) % 0x200000
  | _ => (o - clusterBase) % 0x2000000

/-- Rows 1 to 3 and 5 of Table 10.5: the successor list. -/
def State.ldDispatch (s : State) (w : Who) (g : Graph) (d : List Byte) (root : Bool) : Ld (List Nat) := do
  Ld.need (alignOk d) 0x202
  Ld.need (countsOk g d root) 0x204
  let n := tdNsucc d
  let listOk := decide (n = 0) || oneRegion (localOf (tdSucc d)) (4 * n)
  let raw ← (if n = 0 || !listOk then pure [] else s.ld w (tdSucc d) (4 * n))
  let succ := (range (raw.length / 4)).map (fun i => field raw (4 * i) 4)
  Ld.need (succ.all (fun j => decide (j < g.count))) 0x204
  Ld.need ((range 2).all (fun k =>
    let (o, n) := tdGrant d k
    decide (n = 0) || (grantInStore o n && !(s.excludedIn o).any (fun e => rangesMeet (withinStore o) n e.1 e.2)))) 0x201
  Ld.need (listOk && (decide (tdKind d ≠ 1) || oneRegion (localOf (tdWork d)) (128 * tdCores d))) 0x201
  pure succ

/-- Row 5 of Table 10.5: every wait and signal names an identifier with a usable binding. -/
def State.bindsOk (s : State) (g : Graph) (d : List Byte) : Bool :=
  (range (tdNwait d)).all (fun k => s.usable (wkey g.ctx (tdWaitId d k)))
    && (range (tdNsig d)).all (fun k => s.usable (wkey g.ctx (tdSignal d k).1))

end Sys2Proof.Machine
end

