-- ==== Sys2Proof/Machine/Issue.lean ====
section
/-! DEFINITION. Issue (R103, R128, R129): what each instruction reads and writes, the unfinished instructions of a core and how
they run, faults and misses at their end (R132, R133, R180), and the meaning of every row that a unit executes. -/

namespace Sys2Proof.Machine

/-! ## What an instruction touches (R128 to R130) -/

/-- The unit of an instruction (Table 4.3): 0 the sequencer, 1 the register file, 2 loads, 3 stores, 4 the array, 5 the vector
lane, 6 the drain, 7 the accumulators. -/
def unitOf : TileInsn → Nat
  | .tcfg .. | .tmov .. | .blr .. => 1
  | .tld .. => 2
  | .tst .. | .halo .. => 3
  | .twl .. | .tmm .. => 4
  | .tmv .. => 5
  | .tdr .. => 6
  | .tzr .. => 7
  | _ => 0

/-- The tile registers that an instruction reads; a TDR reads those its captured record names (R129). -/
def readsOf (i : TileInsn) (record : List Byte) : List Nat :=
  match i with
  | .tst t .. | .twl t .. | .tmm _ t .. | .tmv _ t .. | .halo t .. => [t]
  | .tmov mode _ ts .. => if mode = 1 then [] else [ts]
  | .tdr .. => drRegs record
  | _ => []

/-- The tile registers that an instruction writes. -/
def writesOf : TileInsn → List Nat
  | .tcfg t .. | .tld t .. | .blr t _ => [t]
  | .tmov mode td .. => if mode = 2 then [] else [td]
  | _ => []

/-- The accumulator tiles that an instruction reaches (R73). -/
def accsOf : TileInsn → List Nat
  | .tmm _ _ _ _ acc => [acc]
  | .tmv mode _ _ _ _ _ n1 acc _ _ => if mode = 0 then (range (n1 / 32 + 1)).map (acc + ·) else [acc]
  | .tzr acc count1 => (range (count1 + 1)).map (acc + ·)
  | .tmov mode _ _ acc _ => if mode = 0 then [] else [acc]
  | .tdr acc .. => [acc]
  | _ => []

/-- Whether an instruction reaches tile memory (R130). -/
def tmemOf : TileInsn → Bool
  | .tld _ _ _ space .. | .tst _ _ _ space .. => space
  | .tmv _ _ _ _ _ _ _ _ _ srcTm => srcTm
  | .tdr .. => true
  | _ => false

/-- Whether an instruction writes tile memory (R129). -/
def tmemWrites : TileInsn → Bool
  | .tst _ _ _ space .. => space
  | .tdr _ _ _ _ _ space .. => space
  | _ => false

/-- Whether two lists meet. -/
def meets (a b : List Nat) : Bool := a.any (fun x => b.contains x)

/-- Whether a later instruction waits for an earlier one that is unfinished (R72, R73, R102, R128 to R130). -/
def conflicts (a b : Pending) : Bool :=
  let x := a.insn; let y := b.insn
  decide (unitOf x = unitOf y) || meets (writesOf x) (readsOf y b.drain ++ writesOf y)
    || meets (readsOf x a.drain) (writesOf y) || meets (accsOf x) (accsOf y) || (tmemOf x && tmemOf y)

/-- The bytes that a TDR may write in its transfer, which turns `nrows` and `ncols` round where the tile is transposed: rows of its
output type and their scales. -/
def tdrRows (x : Xfer) (nrows ncols : Nat) (r : Regs) (d : List Byte) : List (Nat × Nat) :=
  (range nrows).flatMap (fun i => (x.dataAt r i, cdiv ((ncols + 32) * typeBits (drType d)) 8) ::
    (if drBlk d = 0 then [] else [(x.scaleAt r i, cdiv ncols 16 + 1)]))

/-- Whether an instruction may set the orientation of an accumulator tile (R70, R108, R121). -/
def turns (acc : Nat) (i : TileInsn) : Bool := match i with
  | .tdr .. => false
  | i => (accsOf i).contains acc

/-- The bytes that a TDR may write (R118, R120): its rows by the tile's orientation, or by either where an unfinished instruction may
still set it, and the places of the rows that it continues. -/
def tdrRanges (k : Core) (acc : Nat) (x : Xfer) (nrows ncols : Nat) (r : Regs) (d : List Byte) : List (Nat × Nat) :=
  let open_ := k.live.pendings.any (fun p => turns acc p.insn)
  let tr := decide ((k.accTile acc).orient = .transposed)
  (if open_ || !tr then tdrRows x nrows ncols r d else [])
    ++ (if open_ || tr then tdrRows x ncols nrows r d else [])
    ++ (match k.live.carry with
      | some y => y.rows.flatMap (fun e => [(e.dataAddr, 4 * typeBits (drType d)), (e.scaleAddr, 1)])
      | none => [])

/-- The places that an unfinished instruction reaches in memory, with the shapes of the tile registers as it sees them. -/
def Core.rangesOf (k : Core) (shapes : Map TReg) (p : Pending) : List (Nat × Nat) :=
  match p.insn with
  | .tld t base stride space remote pfx offset | .tst t base stride space remote pfx offset =>
    Xfer.ranges ⟨base, stride, space, remote, pfx, signed 24 offset⟩ p.regs (mget {} shapes t)
  | .tdr acc _ dst stride _ space _ nrows1 ncols1 remote pfx _ =>
    tdrRanges k acc ⟨dst, stride, space, remote, pfx, 0⟩ (nrows1 + 1) (ncols1 + 1) p.regs p.drain
  | .tmv 0 t pair stride wtype wblk n1 _ _ _ =>
    let x : Xfer := ⟨pair, stride, false, false, 0, 0⟩
    (range (mget {} shapes t).cols).flatMap (fun i => (x.dataAt p.regs i, (n1 + 1) * (typeBits wtype / 8)) ::
      (if wblk = 0 then [] else [(x.scaleAt p.regs i, cdiv (n1 + 1) 32)]))
  | .halo t side n1 dst stride _ =>
    ((haloStrip (mget {} shapes t) side (n1 + 1)).mapIdx (fun i b =>
      (0x7FFF * 2 ^ 48 + rowAt (areg p.regs dst) 0 i (dataStride p.regs stride), b.length)))
  | _ => []

/-- Ranges by physical offset, where they are translated; tile memory from 2⁶⁴ and other devices from 2⁶⁵ stand above. -/
def State.touched (s : State) (c : Nat) (l : List (Nat × Nat)) : List (Nat × Nat) :=
  l.flatMap (fun p =>
    if tmBase ≤ p.1 then [p]
    else if s.isHere p.1 then (units (localOf p.1) p.2).map (fun q =>
      match s.check (s.whoCore c) q.1 false with
      | .ok pa => (pa, q.2)
      | _ => q)
    else [(2 * tmBase + p.1, p.2)])

/-- Whether what two instructions reach meets. -/
def reachMeets (a b : List (Nat × Nat)) : Bool :=
  a.any (fun x => b.any (fun y => decide (x.1 < y.1 + y.2) && decide (y.1 < x.1 + x.2)))

/-- The shapes of a core's tile registers once unfinished instructions have run. -/
def Core.shapes (k : Core) (l : List Pending) : Map TReg := (l.map Pending.insn).foldl shapeStep k.live.tregs

/-- The memory that an unfinished instruction reaches, behind others. -/
def State.reach (s : State) (c : Nat) (before : List Pending) (p : Pending) : List (Nat × Nat) :=
  s.touched c ((s.core c).rangesOf ((s.core c).shapes before) p)

/-- Every unfinished instruction of a core with the memory that it reaches. -/
def State.reachesOf (s : State) (c : Nat) : List Pending → List Pending → List (Pending × List (Nat × Nat))
  | _, [] => []
  | before, p :: r => (p, s.reach c before p) :: s.reachesOf c (before ++ [p]) r

/-- Whether an instruction waits for an earlier one for what the core orders in its own memory: one of them stores and they meet
(R190). -/
def memoryHolds (a : Pending) (ra : List (Nat × Nat)) (b : Pending) (rb : List (Nat × Nat)) : Bool :=
  (storesOf a.insn || storesOf b.insn) && reachMeets ra rb

/-! ## Running -/

/-- The bytes of the drain record that a TDR names (R118); nothing for another instruction. -/
def Core.recordOf (k : Core) (i : TileInsn) : List Byte :=
  match i with
  | .tdr _ record .. => k.tileRead (128 * record) 128
  | _ => []

/-- Runs an instruction in its unit with its captured operands. -/
def runInsn (s : State) (c : Nat) (i : TileInsn) (p : Pending) : Res Unit :=
  let r := p.regs
  match i with
  | .tcfg t type blk rows1 cols1 clear =>
    if clear then runTcfgClear s c t else runTcfg s c t type blk (rows1 + 1) (cols1 + 1)
  | .tld t base stride space remote pfx offset => runTld s c t ⟨base, stride, space, remote, pfx, signed 24 offset⟩ r p
  | .tst t base stride space remote pfx offset => runTst s c t ⟨base, stride, space, remote, pfx, signed 24 offset⟩ r p
  | .twl t rb cb tr => runTwl s c t rb cb tr
  | .tmm form t rb cb acc => runTmm s c form t rb cb acc
  | .tmv mode t w stride wtype wblk n1 acc init srcTm =>
    if mode = 0 then runTmv s c t w stride wtype wblk (n1 + 1) acc r else runTmvRow s c mode t w n1 acc init srcTm r
  | .tdr acc recNo dst stride idx space release nrows1 ncols1 remote pfx rowEnd =>
    runTdr s c acc recNo ⟨dst, stride, space, remote, pfx, 0⟩ idx release (nrows1 + 1) (ncols1 + 1) rowEnd r p
  | .tzr acc count1 => runTzr s c acc (count1 + 1)
  | .tmov mode td ts acc orient =>
    match mode with
    | 0 => runTmovReg s c td ts
    | 1 => runTmovOut s c td acc
    | _ => runTmovIn s c ts acc orient
  | .halo t side n1 dst stride wmk => runHalo s c t side (n1 + 1) dst stride wmk r p
  | .blr t ch => runBlr s c t ch
  | _ => .ok s ()

/-- Takes a finished instruction off the list of unfinished ones. -/
def State.dropPending (s : State) (c : Nat) (p : Pending) : State :=
  s.modCore c (fun k => k.modLive (fun l => { l with pendings := l.pendings.erase p }))

/-- Whether the task of a core has been asked to interrupt: nothing more begins (R135). -/
def State.interrupting (s : State) (c : Nat) : Bool :=
  match (s.core c).task with
  | some t => (s.taskOf t.graph t.task).interruptReq
  | none => true

/-- Begins the unfinished instructions of a core in order, each unless an earlier one holds it; a fault fails the task, a miss
suspends the context and keeps the instruction (R129, R133, R180, R190). `held` lists those passed over with what they reach. -/
def State.runPendings (s : State) (c : Nat) : List Pending → List (Pending × List (Nat × Nat)) → State
  | [], _ => s
  | p :: rest, held =>
    let mine := if held = [] then [] else s.reach c (held.map Prod.fst) p
    let keep (s : State) : List (Pending × List (Nat × Nat)) := held ++ [(p, s.reach c (held.map Prod.fst) p)]
    if held.any (fun h => conflicts h.1 p || memoryHolds h.1 h.2 p mine) then s.runPendings c rest (keep s)
    else
      match runInsn s c p.insn p with
      | .ok t _ => (t.dropPending c p).runPendings c rest held
      | .wait t => t.runPendings c rest (keep t)
      | .fail t code => t.failCore c code p.pc p.word
      | .miss t va store =>
        match (t.core c).task with
        | some x => t.suspend x.ctx va store
        | none => t

/-- Lets a core's unfinished instructions go on. -/
def State.progress (s : State) (c : Nat) : State :=
  if s.interrupting c then s else s.runPendings c (s.core c).live.pendings []

/-- Lets every core with unfinished instructions go on. -/
def State.progressAll (s : State) : State :=
  ((s.cores.filter (fun (e : Nat × Core) => decide (e.2.live.pendings ≠ []))).map Prod.fst).foldl State.progress s

/-! ## Issue -/

/-- The row of the command table that a word belongs to: its opcode, 0x101 for a TCFG with CLEAR, 0x106 for a TMV on the row
unit. -/
def rowNo (w : W64) : Nat :=
  let n := w.toNat
  let o := bits n 7 0
  if o = 1 ∧ bit n 41 then 0x101 else if o = 6 ∧ bits n 9 8 ≠ 0 then 0x106 else o

/-- Whether the next instruction that a core issues is `w`: a hand-mapped task runs on it, it issues, it is in service, its
clock runs, and nothing asks it to interrupt (R128, R135). -/
def State.issues (s : State) (c : Nat) (w : W64) : Bool :=
  let k := s.core c
  !s.power.stopped && s.inService c && decide (k.seq = .issuing) && (k.task.map CoreTask.hand).getD false
    && !s.interrupting c && decide (k.prog[k.live.pc]? = some w)

/-- Issues what a core's next word says; the word is checked at issue (R103). `row` is the row's number: a word of another
row, or a word that is not the core's next, issues nothing. An illegal word faults at once, also while 8 instructions are unfinished or
its unit holds 4 (R128): the spec does not say whether it is decoded before it may issue (log 10). -/
def atIssue (row c : Nat) (w : W64) (s : State) (f : TileInsn → State → State) : Out State :=
  if !s.issues c w then .next s
  else if 0x13 ≤ bits w.toNat 7 0 then .next (s.failCore c 0x303 (s.core c).live.pc w)
  else if rowNo w ≠ row then .next s
  else
    match decodeTile w with
    | none => .next (s.failCore c 0x303 (s.core c).live.pc w)
    | some i => .next (f i s)

/-- A core's index moves past the issued instruction. -/
def State.stepPc (s : State) (c n : Nat) : State := s.modCore c (fun k => k.modLive (fun l => { l with pc := l.pc + n }))

/-- Whether an instruction can issue now: fewer than 8 unfinished, fewer than 4 in its unit, and for a TDR no unfinished
instruction that may write a byte of its record in tile memory (R128, R129). -/
def State.room (s : State) (c : Nat) (i : TileInsn) : Bool :=
  let l := (s.core c).live.pendings
  decide (l.length < 8) && decide ((l.filter (fun x => decide (unitOf x.insn = unitOf i))).length < 4) &&
    (match i with
      | .tdr _ recNo .. => !(s.reachesOf c [] l).any (fun e =>
          tmemWrites e.1.insn && reachMeets e.2 [(tmBase + 128 * recNo, 128)])
      | _ => true)

/-- Whether an instruction is a TLD from global memory. -/
def isFetch : TileInsn → Bool
  | .tld _ _ _ space .. => !space
  | _ => false

/-- Rambler hears of a TLD with SPACE 0 that issues (Table 6.5). -/
def Rambler.tldIssued (m : Rambler) : Rambler :=
  if m.ahead = 0 then { m with late := m.late + 1 }
  else { m with ahead := m.ahead - 1, stop := if m.stop = .ahead then .stepping else m.stop }

/-- Issues an instruction to its unit, operands captured; it begins at once unless an unfinished one holds it. -/
def issueUnit (c : Nat) (w : W64) (i : TileInsn) (s : State) : State :=
  let s := if s.room c i then s else s.progress c
  if !s.issues c w || !s.room c i then s
  else
    let k := s.core c
    let p : Pending := ⟨k.live.pc, w, k.live.a, k.recordOf i, 0⟩
    let s := s.modCore c (fun k => k.modLive (fun l => { l with pendings := l.pendings ++ [p] }))
    let s := s.stepPc c 1
    let s := if isFetch i then s.modRamb c Rambler.tldIssued else s
    s.progress c

/-- NOP (R103): an issue cycle and nothing else. -/
def execNop (c : Nat) (w : W64) (s : State) : Out State := atIssue 0x00 c w s (fun _ s => s.stepPc c 1)
/-- TCFG (R99 to R102). -/
def execTcfg (c : Nat) (w : W64) (s : State) : Out State := atIssue 0x01 c w s (issueUnit c w)
/-- TCFG with CLEAR (R101). -/
def execTcfgClear (c : Nat) (w : W64) (s : State) : Out State := atIssue 0x101 c w s (issueUnit c w)
/-- TLD (R107). -/
def execTld (c : Nat) (w : W64) (s : State) : Out State := atIssue 0x02 c w s (issueUnit c w)
/-- TST (R107). -/
def execTst (c : Nat) (w : W64) (s : State) : Out State := atIssue 0x03 c w s (issueUnit c w)
/-- TWL (R112). -/
def execTwl (c : Nat) (w : W64) (s : State) : Out State := atIssue 0x04 c w s (issueUnit c w)
/-- What the hardware of a core finds wrong stays until the core's next pass, or until the word is written (R77, R404). -/
def State.meetErr (s : State) (c : Nat) : Option CoreErr → State
  | none => s
  | some (.word n) => s.modCore c (fun k => { k with badAcc := if k.badAcc.contains n then k.badAcc else n :: k.badAcc })
  | some e => s.modCore c (fun k => { k with parity := some e })

/-- TMM (R69, R77, R114); `r.err` is what the hardware of the core finds wrong as the command comes (log 59). -/
def execTmm (c : Nat) (r : TmmRun) (s : State) : Out State :=
  let s := if s.inService c then s.meetErr c r.err else s
  atIssue 0x05 c r.w s (issueUnit c r.w)
/-- TMV in product mode (R116). -/
def execTmv (c : Nat) (w : W64) (s : State) : Out State := atIssue 0x06 c w s (issueUnit c w)
/-- TMV on the row unit (R117). -/
def execTmvRow (c : Nat) (w : W64) (s : State) : Out State := atIssue 0x106 c w s (issueUnit c w)
/-- TDR (R118). -/
def execTdr (c : Nat) (w : W64) (s : State) : Out State := atIssue 0x07 c w s (issueUnit c w)
/-- TZR (R121). -/
def execTzr (c : Nat) (w : W64) (s : State) : Out State := atIssue 0x08 c w s (issueUnit c w)
/-- TMOV (R108). -/
def execTmov (c : Nat) (w : W64) (s : State) : Out State := atIssue 0x09 c w s (issueUnit c w)
/-- HALO (R110). -/
def execHalo (c : Nat) (w : W64) (s : State) : Out State := atIssue 0x0A c w s (issueUnit c w)
/-- BLR (R109). -/
def execBlr (c : Nat) (w : W64) (s : State) : Out State := atIssue 0x0B c w s (issueUnit c w)

end Sys2Proof.Machine
end

