-- ==== Sys2Proof/Machine/Sequencer.lean ====
section
/-! DEFINITION. The sequencer's own instructions: WAIT, SIG, FENCE, LOOP, ENDL, MOVA and ADDA (R122 to R127, R303, R306,
R368). -/

namespace Sys2Proof.Machine

/-- Writes an address register. -/
def State.setA (s : State) (c n v : Nat) : State :=
  s.modCore c (fun k => k.modLive (fun l => { l with a := mset 0 l.a n (BitVec.ofNat 48 v) }))

/-! ## MOVA and ADDA -/

/-- The special value that a selector names (Table 4.4). -/
def State.special (s : State) (c sel : Nat) : Nat :=
  match sel with
  | 0 => c
  | 1 => clusterOf c
  | 2 => c % 18
  | 3 => s.width c
  | 4 => ((s.core c).task.map CoreTask.ctx).getD 0
  | _ => ((s.core c).task.map CoreTask.step).getD 0

/-- The value that MOVA moves, of 48 bits (R127). -/
def State.movaValue (s : State) (c src as imm : Nat) : Nat :=
  let l := (s.core c).live
  match src with
  | 0 => wrap 48 (signed 46 imm)
  | 1 => areg l.a as
  | 2 => s.special c as
  | _ => (mget 0 l.c as).toNat

/-- MOVA (R127). -/
def doMova (c ad src as imm : Nat) (s : State) : State := (s.setA c ad (s.movaValue c src as imm)).stepPc c 1

/-- ADDA (R127). -/
def doAdda (c ad : Nat) (src : Bool) (as imm : Nat) (s : State) : State :=
  let a := (s.core c).live.a
  let v : Int := if src then (areg a as : Int) else signed 46 imm
  (s.setA c ad (wrap 48 ((areg a ad : Int) + v))).stepPc c 1

/-- MOVA. -/
def execMova (c : Nat) (w : W64) (s : State) : Out State :=
  atIssue 0x11 c w s (fun i s => match i with
    | .mova ad src as imm => doMova c ad src as imm s
    | _ => s)

/-- ADDA. -/
def execAdda (c : Nat) (w : W64) (s : State) : Out State :=
  atIssue 0x12 c w s (fun i s => match i with
    | .adda ad src as imm => doAdda c ad src as imm s
    | _ => s)

/-! ## Loops -/

/-- Whether the word at an index is an ENDL on a counter. -/
def isEndl (prog : List W64) (n c : Nat) : Bool :=
  match prog[n]? with
  | some w => decide (decodeTile w = some (.endl c))
  | none => false

/-- The checks of R126 on a LOOP at index `p`. -/
def loopOk (prog : List W64) (loops : List Loop) (p cnt stop : Nat) : Bool :=
  decide (p < stop) && decide (stop < prog.length) && isEndl prog stop cnt
    && loops.all (fun l => decide (l.counter ≠ cnt) && decide (stop < l.stop))

/-- The program counter, the counters and the loop stack after a LOOP that R126 accepts (R125). -/
def loopStep (pc : Nat) (c : Map W32) (loops : List Loop) (cnt stop n : Nat) : Nat × Map W32 × List Loop :=
  if n = 0 then (stop + 1, c, loops) else (pc + 1, mset 0 c cnt (BitVec.ofNat 32 n), ⟨cnt, pc, stop⟩ :: loops)

/-- The program counter, the counters and the loop stack after an ENDL of the innermost loop (R125). -/
def endlStep (c : Map W32) (l : Loop) (outer : List Loop) : Nat × Map W32 × List Loop :=
  let v := mget 0 c l.counter - 1
  if v = 0 then (l.stop + 1, mset 0 c l.counter v, outer) else (l.start + 1, mset 0 c l.counter v, l :: outer)

/-- Puts a program counter, counters and a loop stack into a core. -/
def State.setFlow (s : State) (c : Nat) (f : Nat × Map W32 × List Loop) : State :=
  s.modCore c (fun k => k.modLive (fun l => { l with pc := f.1, c := f.2.1, loops := f.2.2 }))

/-- LOOP (R125, R126). -/
def doLoop (c : Nat) (w : W64) (cnt stop : Nat) (reg : Bool) (a count : Nat) (s : State) : State :=
  let k := s.core c
  if loopOk k.prog k.live.loops k.live.pc cnt stop then
    s.setFlow c (loopStep k.live.pc k.live.c k.live.loops cnt stop (if reg then areg k.live.a a % 2 ^ 32 else count))
  else s.failCore c 0x303 k.live.pc w

/-- ENDL (R125, R126). -/
def doEndl (c : Nat) (w : W64) (cnt : Nat) (s : State) : State :=
  let k := s.core c
  match k.live.loops with
  | l :: outer =>
    if l.counter = cnt ∧ l.stop = k.live.pc then s.setFlow c (endlStep k.live.c l outer)
    else s.failCore c 0x303 k.live.pc w
  | [] => s.failCore c 0x303 k.live.pc w

/-- LOOP. -/
def execLoop (c : Nat) (w : W64) (s : State) : Out State :=
  atIssue 0x0F c w s (fun i s => match i with
    | .loop cnt stop reg a count => doLoop c w cnt stop reg a count s
    | _ => s)

/-- ENDL. -/
def execEndl (c : Nat) (w : W64) (s : State) : Out State :=
  atIssue 0x10 c w s (fun i s => match i with
    | .endl cnt => doEndl c w cnt s
    | _ => s)

/-! ## WAIT -/

/-- The threshold of a WAIT (R122). -/
def waitThreshold (r : Regs) (thr imm : Nat) : Nat :=
  (areg r (2 * thr) + areg r (2 * thr + 1) % 65536 * 2 ^ 48 + imm) % 2 ^ 64

/-- WAIT (R122, R302, R306, R308). -/
def doWait (c : Nat) (w : W64) (id thr imm : Nat) (s : State) : State :=
  let k := s.core c
  match k.task with
  | none => s
  | some t =>
    let key := wkey t.ctx id
    let n := waitThreshold k.live.a thr imm
    if !s.usable key then s.failCore c 0xA04 k.live.pc w
    else if s.metNow key n then s.passWait c
    else (s.addWait key n (.core c)).modCore c (fun k => { k with seq := .atWait })

/-- WAIT. -/
def execWait (c : Nat) (w : W64) (s : State) : Out State :=
  atIssue 0x0C c w s (fun i s => match i with
    | .wait id thr imm => doWait c w id thr imm s
    | _ => s)

/-! ## SIG -/

/-- Whether an earlier TLD, TMV or BLR of the core has not taken its data (R303). -/
def Core.reading (k : Core) : Bool :=
  k.live.pendings.any (fun p => match p.insn with
    | .tld .. | .tmv .. | .blr .. => true
    | _ => false)

/-- What a SIG adds (R123). -/
def sigInc (r : Regs) (inc : Nat) (reg : Bool) (a : Nat) : Nat := if reg then areg r a else inc

/-- SIG (R123, R303, R306). -/
def doSig (c : Nat) (w : W64) (id inc : Nat) (reg : Bool) (a : Nat) (s : State) : State :=
  let k := s.core c
  if k.reading then s
  else
    match s.coreAdd c id (sigInc k.live.a inc reg a) with
    | .ok t _ => t.stepPc c 1
    | .fail t code => t.failCore c code k.live.pc w
    | .miss t _ _ | .wait t => t

/-- SIG. -/
def execSig (c : Nat) (w : W64) (s : State) : Out State :=
  atIssue 0x0D c w s (fun i s => match i with
    | .sig id inc reg a => doSig c w id inc reg a s
    | _ => s)

/-! ## FENCE -/

/-- The scope of a store to a physical place (R124): 0 this cluster's stores, 1 this device, 2 another device, 3 tile memory. -/
def scopeAt (c pa : Nat) : Nat := if pa < tmBase then storeScope c pa else if pa < 2 * tmBase then 3 else 2

/-- Whether every write that a core issued has completed within a scope (R124, R310): none in Rambler, and none that an unfinished
instruction still makes. -/
def State.fenced (s : State) (c scope : Nat) : Bool :=
  let k := s.core c
  decide (k.ramb.stores scope = 0) && !(s.reachesOf c [] k.live.pendings).any (fun e =>
    storesOf e.1.insn && e.2.any (fun r => decide (scopeAt c r.1 ≤ scope)))

/-- A FENCE is complete: issue goes on; with LOADS 1 what was fetched before it is discarded by Rambler and by the coalescer
(R124, R186, R194). -/
def State.passFence (s : State) (c : Nat) (loads : Bool) : State :=
  let s := s.modCore c (fun k => { k with seq := .issuing, live := { k.live with pc := k.live.pc + 1 } })
  if !loads then s
  else
    let s := s.syncRamb c
    match (s.core c).task with
    | some t => (s.freshReads (clusterOf c) t.graph t.task).progress c
    | none => s

/-- The key and increment of the next instruction's SIG where a FENCE may fuse with it (R368): the Waymark queue has room for
the compound (R182). -/
def State.fusable (s : State) (c scope : Nat) (loads : Bool) : Option (Nat × Nat) :=
  let k := s.core c
  match k.task, k.prog[k.live.pc + 1]?.bind decodeTile with
  | some t, some (.sig id inc reg a) =>
    let key := wkey t.ctx id
    match s.home key with
    | .far b =>
      let n := sigInc k.live.a inc reg a
      let far := k.ramb.reqs.filter (fun q => !q.load && decide (q.scope = 2))
      let left := (s.reachesOf c [] k.live.pendings).any (fun e => storesOf e.1.insn && e.2.any (fun r => decide (2 * tmBase ≤ r.1)))
      if scope = 2 ∧ loads = false ∧ k.reading = false ∧ left = false ∧ k.ramb.wq.length < 128
          ∧ far.all (fun q => decide (deviceOf (q.unit - tmBase) = b.device)) then some (key, n) else none
    | _ => none
  | _, _ => none

/-- The signal trailer of a WRITE_SIGNAL (Table 12.5). -/
def signalTrailer (b : Binding) (inc : Nat) : List Byte := toBytes 8 b.remoteAddr ++ toBytes 8 inc

/-- Sends a signal of the Waymark queue: an add, or a WRITE_SIGNAL of LENGTH 0 on the stream of the writes before it (R110, R368). -/
def State.sendEntry (s : State) (c : Nat) (e : WqEntry) : Res Unit :=
  match (s.core c).task, e.far with
  | some t, true =>
    let key := wkey t.ctx e.id
    match s.binding key with
    | none => .fail s 0xA04
    | some b =>
      let by_ := (s.graph t.graph).map (fun g => (g.handle t.graph, t.task))
      let (s, code) := s.request (.wmk (.core c) key by_) (dieOfCluster (clusterOf c)) t.ctx 3 b.device 0 0 false (signalTrailer b e.inc)
      if code = 0 then .ok s () else .fail s code
  | _, _ => s.coreAdd c e.id e.inc

/-- Signals held behind a core's stores go, in order, once those are acknowledged (R110, R182); `fuel` bounds them. -/
def State.sendHeld (s : State) (c : Nat) : Nat → State
  | 0 => s
  | n + 1 =>
    match (s.core c).ramb.wq with
    | e :: rest =>
      if e.behind ≠ 0 then s
      else
        match (s.modRamb c (fun m => { m with wq := rest })).sendEntry c e with
        | .ok t _ => t.sendHeld c n
        | .fail t code => t.failCore c code e.pc e.word
        | .miss t _ _ | .wait t => t
    | [] => s

/-- FENCE (R124, R310, R368): it completes, or fuses with the SIG behind it, which goes through the Waymark queue (R182), or blocks
issue. -/
def doFence (c : Nat) (w : W64) (scope : Nat) (loads : Bool) (s : State) : State :=
  let k := s.core c
  match s.fusable c scope loads, s.fenced c 1 with
  | some (key, n), true =>
    let e : WqEntry := ⟨keyId key, n, 0, k.live.pc + 1, k.prog.getD (k.live.pc + 1) w, true⟩
    let s := (s.modCore c (fun k => { k with seq := .issuing })).stepPc c 2
    (s.modRamb c (fun m => { m with wq := m.wq ++ [e] })).sendHeld c (k.ramb.wq.length + 1)
  | _, _ =>
    if s.fenced c scope then s.passFence c loads else s.modCore c (fun k => { k with seq := .atFence })

/-- FENCE. -/
def execFence (c : Nat) (w : W64) (s : State) : Out State :=
  atIssue 0x0E c w s (fun i s => match i with
    | .fence scope loads => doFence c w scope loads s
    | _ => s)

/-- Completes a FENCE at which a core is blocked, if its writes have completed. -/
def State.fenceCheck (s : State) (c : Nat) : State :=
  let k := s.core c
  if k.seq = .atFence ∧ s.interrupting c = false then
    match k.prog[k.live.pc]?.bind decodeTile with
    | some (.fence scope loads) =>
      match k.prog[k.live.pc]? with
      | some w => if s.fenced c scope ∨ ((s.fusable c scope loads).isSome ∧ s.fenced c 1 = true) then doFence c w scope loads s else s
      | none => s
    | _ => s
  else s

/-- Fetches a unit again that was discarded for a store, once no store of it is unacknowledged (R191), where nothing else brings it and
a tag and an entry are free; else it waits (R182, R183). -/
def State.refetchOne (s : State) (c : Nat) (e : LqEntry) : State :=
  let m := (s.core c).ramb
  let done (s : State) : State := s.modRamb c (fun m => { m with again := m.again.erase e })
  if m.reqs.any (fun q => !q.load && decide (q.pa / 256 = e.pa / 256)) then s
  else if m.reqs.any (fun q => q.load && !q.void && decide (q.unit = e.unit) && covers q.mask e.mask) then done s
  else if !s.mayAsk c then s
  else
    let s := s.modRamb c (fun m => { m with again := m.again.erase e, refetch := wrapAdd 48 m.refetch 1 })
    if e.unit < tmBase then s.enterRead c e.unit e.pa e.mask true
    else
      let first := maskFirst e.mask
      match s.readRemote c (s.whoCore c) (e.unit - tmBase + first, maskBytes e.mask) true with
      | (t, 0) => t
      | (t, _) => t.dropFetch c

/-- Fetches again what can be (R191). -/
def State.refetch (s : State) (c : Nat) : State := (s.core c).ramb.again.foldl (fun s e => s.refetchOne c e) s

/-- A core goes on: units to fetch again are asked for, its unfinished instructions go on, then a FENCE at which it is blocked. -/
def State.goOn (s : State) (c : Nat) : State :=
  let s := if (s.core c).ramb.again = [] then s else (s.refetch c).issueWindow c
  (s.progress c).fenceCheck c

/-- A store of a core is acknowledged: its request ends, units to fetch again are requested (R183, R191), the signals behind it go,
and the core goes on. -/
def State.acked (s : State) (c i : Nat) : State :=
  match (s.core c).ramb.reqs[i]? with
  | none => s
  | some q =>
    let before := (((s.core c).ramb.reqs.take i).filter (fun r => !r.load && decide (r.scope ≤ 1))).length
    let s := s.modRamb c (fun m => { m with
      reqs := m.reqs.eraseIdx i
      wq := m.wq.map (fun e => if q.scope ≤ 1 ∧ before < e.behind then { e with behind := e.behind - 1 } else e) })
    ((s.issueWindow c).sendHeld c (s.core c).ramb.wq.length).goOn c

end Sys2Proof.Machine
end

