-- ==== Sys2Proof/Machine/Mapped.lean ====
section
/-! DEFINITION. Mapped tasks (R203 to R223, R236 to R239, R272): units, their dealing and their groups, operation values, the drain of
an output row, the writing of output rows and of the mapper reserve, and the tile streams. -/

namespace Sys2Proof.Machine

/-! ## A task's work -/

/-- A mapped task as its engines see it: the block and the copies of its structures (R224), the granules of the saved tensor it
reads from the stash (R245), its generator inputs (Table 2.10). -/
structure Job where
  g : Nat
  i : Nat
  ctx : Nat
  who : Who
  b : List Byte
  m : Copies
  saved : Option (Nat × List Nat)
  step : Nat
  seed : Nat
  deriving DecidableEq, Repr

/-- The address of a granule: tier and index within the tier (R242, R243). -/
def granuleAt (g : Graph) (e : Nat × Nat) : Nat :=
  let a := g.areas.getD (0, 0); let h := g.header
  let here := 0x7FFF * 2 ^ 48
  match e.1 with
  | 0 => let n := max 1 (field h 4 4 / 64); here + coreBase + e.2 / n * 0x200000 + a.1 + e.2 % n * 65536
  | 1 => let n := max 1 (field h 8 4 / 64); here + clusterBase + e.2 / n * 0x2000000 + a.2 + e.2 % n * 65536
  | _ => here + field h 0x10 8 % 2 ^ 48 + e.2 * 65536

/-- The reservation that task `i` reads its saved tensor from (R245): it names the layer and micro-batch, lies outside the
FWD range, and the tensor has been copied. -/
def State.stashRead (s : State) (g i : Nat) : Option (Nat × List Nat × Stash) :=
  match s.graph g with
  | none => none
  | some x =>
    let d := s.taskDesc x i
    if tdHasLayer d && decide (x.layers ≠ 0) then
      let r := s.layerOf x i
      if inRange r 0x18 i then none
      else (x.stashOf (tdLayer d) (tdMbatch d)).map (fun h =>
        (lrSave r, h.granules.map (granuleAt x), h))
    else none

/-- Whether a task would read a lost reservation (R247). -/
def State.readsLost (s : State) (g i : Nat) (op : List Byte) : Bool :=
  match s.stashRead g i with
  | some (a, _, h) => h.lost && decide (a ≠ 0) && (opSlots op).contains a
  | none => false

/-- The job of a task whose checks have passed. -/
def State.jobOf (s : State) (g i : Nat) : Job :=
  let t := s.taskOf g i
  let x := ((s.graph g).map Graph.ctx).getD 0
  { g := g, i := i, ctx := x
    who := ⟨x, some t.grants, none⟩
    b := t.op, m := t.descs
    saved := (s.stashRead g i).bind (fun e => if e.2.2.copied then some (e.1, e.2.1) else none)
    step := t.step
    seed := ((s.ctx x).map Ctx.seed).getD 0 }

/-- The tensor in slot `k`. -/
def Job.src (j : Job) (k : Nat) : Src :=
  ⟨j.m.desc k, j.m.at_ (16 + k), match j.saved with
    | some (a, g) => if obSlot j.b k = a ∧ a ≠ 0 then some g else none
    | none => none⟩

/-- Whether slot `k` holds a tensor. -/
def Job.has (j : Job) (k : Nat) : Bool := decide (j.m.desc k ≠ [])
/-- The operation. -/
def Job.op (j : Job) : Nat := obOp j.b
/-- The output. -/
def Job.out (j : Job) : List Byte := j.m.desc 0
/-- SIZE of a dimension of the tensor in a slot. -/
def Job.sz (j : Job) (k i : Nat) : Nat := dsSize (j.m.desc k) i

/-- Whether the operation moves bits on the cluster DMA engines. -/
def Job.moves (j : Job) : Bool := decide (8 ≤ j.op ∧ j.op ≤ 0xA)

/-- Segments of a row of an operation on the row unit (Table 7.4). -/
def Job.segments (j : Job) : Nat :=
  match j.op with
  | 5 | 6 | 0xE | 0xF => cdiv (j.sz 1 0) 8192
  | 0xB => cdiv (j.sz 1 (bits (obP j.b 0) 2 0)) 8192
  | _ => 1

/-- Units of work of phase 1 (Table 7.4). A SCATTER is dealt by table block instead (R210). -/
def Job.unitCount (j : Job) : Nat :=
  match j.op with
  | 1 | 0xC => cdiv (dsRows j.out) 32 * max 1 (obKsplit j.b)
  | 2 => cdiv (j.sz 0 1) 32 * j.sz 0 2 * max 1 (obKsplit j.b)
  | 3 | 4 => cdiv (j.sz 0 1) 32 * j.sz 0 2
  | 8 => cdiv (clCount (j.m.at_ 2)) 32
  | 9 => 0
  | 0xB => cdiv (dsCountAll j.out) 32 * j.segments
  | 0xD => cdiv (min (j.sz 1 0) (j.sz 1 1)) 32
  | _ => cdiv (dsRows j.out) 32 * j.segments

/-- The cost of a unit on a core of width `w` (R210). Of a CONV3D unit it is the tiles that cover the unit, ceil(Cout / W): the rule's
definition says so and its list does not name the operation (log 79). -/
def Job.cost (j : Job) (w : Nat) : Nat :=
  let n := j.sz 0 0
  match j.op with
  | 1 | 2 | 0xC =>
    if j.op ≠ 0xC ∧ obForm j.b = 2 then (if w = 32 then 1 else 2) * cdiv n 32 else cdiv n w
  | _ => 1

/-- The smallest `l` at or above `lo` whose shares reach the units; `fuel` bounds it (R210). -/
def dealLevel (costs : List Nat) (units : Nat) : Nat → Nat → Nat
  | 0, lo => lo
  | k + 1, lo => if units ≤ total (costs.map (fun c => lo / max 1 c)) then lo else dealLevel costs units k (lo + 1)

/-- Takes the surplus back, highest logical core first, in repeated passes (R210). -/
def dealSurplus : Nat → List Nat → Nat → List Nat
  | 0, n, _ => n
  | k + 1, n, surplus =>
    if surplus = 0 then n
    else
      let r := n.reverse.foldl (fun (a : List Nat × Nat) v =>
        if 0 < a.2 ∧ 0 < v then ((v - 1) :: a.1, a.2 - 1) else (v :: a.1, a.2)) ([], surplus)
      dealSurplus k r.1 r.2

/-- How many units each core gets (R210); `costs` in ascending logical core order. -/
def dealCounts (costs : List Nat) (units : Nat) : List Nat :=
  let l := dealLevel costs units (units * costs.foldl max 1 + 1) 0
  let n := costs.map (fun c => l / max 1 c)
  dealSurplus (units + total n + 1) n (total n - units)

/-- Deals consecutive units in ascending core order (R210). -/
def dealRuns : List Nat → Nat → List (List Nat)
  | [], _ => []
  | n :: r, u => (range n).map (u + ·) :: dealRuns r (u + n)

/-- Deals in rounds, ascending in even and descending in odd rounds, skipping cores that hold their share (R210). -/
def dealRounds (counts : List Nat) : Nat → Nat → Nat → List (List Nat) → List (List Nat)
  | 0, _, _, a => a
  | k + 1, round, u, a =>
    let order := if round % 2 = 0 then range counts.length else (range counts.length).reverse
    let open_ := order.filter (fun c => decide ((nth [] a c).length < nth 0 counts c))
    if open_ = [] then a
    else
      let a := (open_.mapIdx (fun p c => (c, u + p))).foldl (fun a e => upd a e.1 (· ++ [e.2])) a
      dealRounds counts k (round + 1) (u + open_.length) a

/-- The units of each core of the task (R210). -/
def Job.deal (j : Job) (cores widths : List Nat) (units : Nat) : List (Nat × List Nat) :=
  let counts := dealCounts (widths.map j.cost) units
  let causal := (decide (j.op = 3) || decide (j.op = 4)) && bit (obP j.b 0) 32
  cores.zip (if causal then dealRounds counts (units + 1) 0 0 (counts.map (fun _ => [])) else dealRuns counts 0)

/-- The core of the task in whose own core store slice `u` of 256 columns of B lies whole (R213). -/
def Job.sliceOwner (j : Job) (s : State) (cores : List Nat) (u : Nat) : Option Nat :=
  let l := (range (j.sz 2 1)).flatMap (fun k => (j.src 2).partRanges k (256 * u) 256)
  cores.find? (fun c =>
    let b := coreBase + c * 0x200000
    l.all (fun p => s.isHere p.1 && decide (b ≤ localOf p.1 ∧ localOf p.1 + p.2 ≤ b + 0x200000)))

/-- Where the vector lane does a product, the core of each slice of 256 columns (R213). -/
def Job.lane (j : Job) (s : State) (cores : List Nat) : Option (List Nat) :=
  let a := j.m.desc 1; let b := j.m.desc 2
  let cls := pairClass (dsType a) (dsBlk a) (dsType b) (dsBlk b)
  if j.op = 1 ∧ obForm j.b = 0 ∧ j.sz 1 1 ≤ 8 ∧ (cls = some 0 ∨ cls = some 2) then
    (range (cdiv (j.sz 0 0) 256)).mapM (j.sliceOwner s cores)
  else none

/-- The units of each core of a task at dispatch: by columns on the vector lane, else by rows (R210, R213). -/
def Job.dealTask (j : Job) (s : State) (cores widths : List Nat) : List (Nat × List Nat) :=
  match j.lane s cores with
  | some o => cores.map (fun c => (c, (range o.length).filter (fun u => decide (nth 0 o u = c))))
  | none => j.deal cores widths j.unitCount

/-- The core that holds a unit. -/
def unitCore (deal : List (Nat × List Nat)) (u : Nat) : Nat := ((deal.find? (fun e => e.2.contains u)).map Prod.fst).getD 0

/-- Whether the operation is a product. -/
def Job.isProduct (j : Job) : Bool := [1, 2, 0xC].contains j.op

/-- Output rows of phase-1 unit `u` and the KSPLIT range or segment it covers (Table 7.4); the range varies fastest (log 79). -/
def Job.unitRows (j : Job) (u : Nat) : List Nat × Nat :=
  let cut (n from_ : Nat) (k : Nat) : List Nat := (range (min 32 (n - 32 * k))).map (fun i => from_ + 32 * k + i)
  match j.op with
  | 1 | 0xC => let ks := max 1 (obKsplit j.b); (cut (dsRows j.out) 0 (u / ks), u % ks)
  | 2 =>
    let ks := max 1 (obKsplit j.b); let m := j.sz 0 1; let per := cdiv m 32
    (cut m (u / ks / per * m) (u / ks % per), u % ks)
  | 3 | 4 => let m := j.sz 0 1; let per := cdiv m 32; (cut m (u / per * m) (u % per), 0)
  | 0xB | 0xD => ([], 0)
  | _ => let n := max 1 j.segments; (cut (dsRows j.out) 0 (u / n), u % n)

/-! ## Groups (R211, R212, R215, R223) -/

/-- Columns of a column tile on a core of width `w` (R210, R221). -/
def Job.colWidth (j : Job) (w : Nat) : Nat := if j.op ≠ 0xC ∧ obForm j.b = 2 then 32 else w

/-- The row tiles and the column tiles of a group on a core of width `w` with `left` row tiles left (R211): fewer where the partials
must fit the reserve (R223), and whole runs of column tiles where a block-scaled output needs them (R212, log 80). `gc` is a Blanket
group's. -/
def Job.groupSize (j : Job) (w left : Nat) (gc : Option Nat) : Nat × Nat :=
  let tiles := cdiv (j.sz 0 0) (j.colWidth w)
  let ks := max 1 (obKsplit j.b)
  let cap := if ks = 1 then 64 else min 64 (64 / (ks - 1))
  let gr := max 1 (min (min 8 left) cap)
  match gc with
  | some n => (max 1 (min gr (cap / max 1 n)), n)
  | none =>
    let n := max 1 (min (cap / gr) tiles)
    let m := Nat.lcm w 32 / w
    if w < 32 ∧ dsBlk j.out ≠ 0 ∧ n < tiles ∧ m ≤ cap then
      let k := if n < m then min m tiles else n / m * m
      (max 1 (min gr (cap / k)), k)
    else (gr, n)

/-- The batch of a unit of a product; the units of a row group share it. -/
def Job.batchOf (j : Job) (u : Nat) : Nat := if j.op = 2 then u / max 1 (obKsplit j.b) / max 1 (cdiv (j.sz 0 1) 32) else 0

/-- The row groups of a core's units in order, each with its number of column tiles; `fuel` bounds them. -/
def Job.rowGroups (j : Job) (w : Nat) (gc : Option Nat) : Nat → List Nat → List (List Nat × Nat)
  | 0, _ => []
  | k + 1, us =>
    match us with
    | [] => []
    | u :: _ =>
      let same := us.takeWhile (fun v => decide (j.batchOf v = j.batchOf u))
      let g := j.groupSize w same.length gc
      (same.take g.1, g.2) :: j.rowGroups w gc k (us.drop g.1)

/-- The operand slots that Blanket brings (R215). -/
def Job.shared (j : Job) : List Nat :=
  match j.op with
  | 1 | 2 | 0xC => [2]
  | 3 | 4 => [2, 3]
  | 0xD => [1]
  | _ => []

/-- The Blanket groups of a task in a cluster: presented width, and in attention the head of a core's first unit; two cores or
more each, in descending width (R215). -/
def Job.groups (j : Job) (t : Task) (n : Nat) : List (List Nat) :=
  let per := cdiv (j.sz 0 1) 32
  let head (c : Nat) : Nat := if j.op = 3 ∨ j.op = 4 then ((mfind t.units c).getD []).headD 0 / max 1 per else 0
  let mine := (t.cores.zip t.widths).filter (fun e => decide (clusterOf e.1 = n))
  [32, 31, 30].flatMap (fun w =>
    let l := (mine.filter (fun e => decide (e.2 = w))).map Prod.fst
    ((l.map head).dedup.map (fun h => l.filter (fun c => decide (head c = h)))).filter (fun g => decide (2 ≤ g.length)))

/-- The channels of a task in a cluster: operand slot and members (R215). -/
def Job.channels (j : Job) (t : Task) (n : Nat) : List (Nat × List Nat) :=
  if obReuse j.b = 1 then (j.shared.flatMap (fun k => (j.groups t n).map (fun g => (k, g)))).take 4 else []

/-- The width that a core presented at dispatch. -/
def Task.widthOf (t : Task) (c : Nat) : Nat := (mfind (t.cores.zip t.widths) c).getD 32

/-- The units of a core. -/
def Task.unitsOf (t : Task) (c : Nat) : List Nat := (mfind t.units c).getD []

/-- The most row tiles that one row group of units can take: the longest run of one batch (R211). -/
def Job.longestRun (j : Job) (us : List Nat) : Nat :=
  (us.map (fun u => (us.filter (fun v => decide (j.batchOf v = j.batchOf u))).length)).foldl max 0

/-- The member of a list of cores with the most units, the lowest on a tie. -/
def Task.longest (t : Task) (l : List Nat) : Nat :=
  l.foldl (fun b c => if (t.unitsOf b).length < (t.unitsOf c).length then c else b) (l.headD 0)

/-- The row groups of a core of a task: in a Blanket group with the column tiles of the member whose row groups have most row tiles
(R211). -/
def Job.groupsOf (j : Job) (t : Task) (c : Nat) : List (List Nat × Nat) :=
  let us := t.unitsOf c; let w := t.widthOf c
  let gc := ((j.channels t (clusterOf c)).find? (fun e => e.2.contains c)).map (fun e =>
    (j.groupSize w ((e.2.map (fun d => j.longestRun (t.unitsOf d))).foldl max 0) none).2)
  if j.isProduct then j.rowGroups w gc us.length us else us.map (fun u => ([u], 1))

/-! ## Arithmetic on operands -/

/-- An operand of a product; a FB16 tensor whose T_SCALE is not positive and finite holds NaN (R46). -/
def Job.factor (j : Job) (s : State) (k : Nat) (c : List Nat) : Operand :=
  let t := j.src k
  match t.operand s j.ctx c with
  | some (v, e) => if dsBlk t.d = 2 ∧ tScaleOk (dsTscale t.d) = false then some (.nan, e) else some (v, e)
  | none => none

/-- The operand class of a product of the tensors in two slots. -/
def Job.cls (j : Job) (a b : Nat) : Nat :=
  (pairClass (dsType (j.m.desc a)) (dsBlk (j.m.desc a)) (dsType (j.m.desc b)) (dsBlk (j.m.desc b))).getD 0

/-- A contraction in passes of 32 from +0 over `[lo, hi)` passes of `n` terms (R64): accumulator bits and flags. -/
def contract (cls n lo hi : Nat) (term : Nat → Operand × Operand) : Nat × Nat :=
  (range (hi - lo)).foldl (fun (r : Nat × Nat) p =>
    let k0 := 32 * (lo + p)
    let q := passClass cls r.1 ((range (min 32 (n - k0))).map (fun k => term (k0 + k)))
    (q.1, r.2 ||| q.2)) (0, 0)

/-- A whole contraction. -/
def contractAll (cls n : Nat) (term : Nat → Operand × Operand) : Nat × Nat := contract cls n 0 (cdiv n 32) term

/-- The exact value of accumulator bits of a class (R83, R203). -/
def accVal (cls v : Nat) : FV := if cls = 4 then decodeElem 11 v else ofF32 v

/-- A value as the row unit takes it, FP32 (R47). -/
def Job.f32At (j : Job) (s : State) (k : Nat) (c : List Nat) : Nat :=
  let t := j.src k; asF32 (dsType t.d) (t.enc s j.ctx c)

/-- A row along dimension 0 of the tensor in a slot, as FP32. -/
def Job.row32 (j : Job) (s : State) (k r : Nat) : List Nat :=
  (range (j.sz k 0)).map (fun i => j.f32At s k (coordsOf (j.m.desc k) r i))

/-- Values converted to a type and block format under RNE and overflow mode 0, as operands of a contraction, with the flags of
the conversion (R205, R239). -/
def convertVec (d : List Byte) (vs : List Nat) : List Operand × Nat :=
  let ty := dsType d; let bk := dsBlk d
  if bk = 0 then
    let es := vs.map (fun v => convert ty 0 none (ofF32 v))
    (es.map (fun e => some (decodeElem ty e.1, scaleVal 0 0)), es.foldl (fun f e => f ||| e.2) 0)
  else
    (chunks (blockLen bk) vs).foldl (fun (r : List Operand × Nat) l =>
      let q := quantBlock bk ty (dsTscale d) (fun _ => none) (l.map ofF32)
      (r.1 ++ q.2.1.map (fun e => some (decodeElem ty e, scaleVal bk q.1)), r.2 ||| q.2.2)) ([], 0)

/-! ## Products (R203, R204, R207, R209) -/

/-- A position on one axis of a CONV3D input: the index in its shard, the shard's index, whether it is clamped, and whether it lies in
the zero padding (R158, R159, R218). -/
structure ConvPos where
  at_ : Nat
  shard : Nat
  clamped : Bool
  pad : Bool
  deriving DecidableEq, Repr

/-- The shard index of this device on an axis of a CONV3D input; 0 where the tensor is whole. -/
def Job.convShard (j : Job) (s : State) (a : Nat) : Nat :=
  let t := j.src 1
  if dsShard t.d = 0 then 0 else s.shIndex t.shard (a + 1)

/-- The position on one axis of a CONV3D input that a local position names. -/
def Job.convPos (j : Job) (s : State) (a : Nat) (p : Int) : ConvPos :=
  let t := j.src 1
  let dim := a + 1
  let whole := decide (dsShard t.d = 0)
  let n := if whole then 1 else shS t.shard dim
  let size := if whole then dsSize t.d dim else shGlobal t.shard dim
  let g := if whole then p else shCoord t.shard dim (j.convShard s a) p
  let out := decide (g < 0 ∨ (size : Int) ≤ g)
  if out && obZeroPad j.b then ⟨0, j.convShard s a, false, true⟩
  else
    let g := (max 0 (min g ((size : Int) - 1))).toNat
    let c := cdiv size n
    if n = 1 then ⟨g, 0, out, false⟩
    else if shPlace t.shard dim = 0 then ⟨g % c, g / c, out, false⟩
    else ⟨g / n, g % n, out, false⟩

/-- Stride, padding or filter extent of an axis of a CONV3D. -/
def Job.convParam (j : Job) (a : Nat) : Nat × Nat × Nat :=
  let f (k : Nat) := bits (obP j.b 0) (8 * k + 7) (8 * k)
  (f a, f (a + 3), j.sz 2 (a + 2))

/-- The filter tap on an axis and the input channel of contraction index `k` (R207). -/
def Job.convTap (j : Job) (k a : Nat) : Nat :=
  (k / j.sz 1 0 / prod ((range a).map (fun i => (j.convParam i).2.2))) % (j.convParam a).2.2

/-- The input positions of contraction index `k` at output row coordinates `o`. -/
def Job.convAt (j : Job) (s : State) (o : List Nat) (k : Nat) : List ConvPos :=
  (range 3).map (fun a =>
    let (st, pad, _) := j.convParam a
    j.convPos s a ((nth 0 o (a + 1) * st : Nat) - (pad : Int) + (j.convTap k a : Nat)))

/-- The tensor of CONV3D's input on the device that holds the shard of indices `idx` on the three axes: laid out by the same descriptor
at the same local offset (log 78), with that shard's extents (R155, R159). -/
def Job.convSrc (j : Job) (s : State) (idx : List Nat) : Src :=
  let t := j.src 1
  let own := (range 3).map (j.convShard s)
  if dsShard t.d = 0 ∨ idx = own then t
  else
    let h := t.shard
    let coord (x : Nat) : Nat :=
      match (range 3).find? (fun a => decide (shS h (a + 1) ≠ 1 ∧ shAxis h (a + 1) = x)) with
      | some a => nth 0 idx a
      | none => (s.nxp.device - shFirst h % 32768) / prod ((range x).map (shExtent h)) % max 1 (shExtent h x)
    let dev := shFirst h + total ((range 4).map (fun x => coord x * prod ((range x).map (shExtent h))))
    let move (a : Nat) : List Byte := toBytes 8 (if a = 0 then 0 else dev * 2 ^ 48 + localOf a)
    let sizes := (range 8).flatMap (fun i => toBytes 4 (if 1 ≤ i ∧ i ≤ 3 then shLocal h i (nth 0 idx (i - 1)) else dsSize t.d i))
    { t with d := move (dsBase t.d) ++ slice t.d 8 8 ++ sizes ++ slice t.d 0x30 0x30 ++ move (dsScale t.d) ++ slice t.d 0x68 24 }

/-- The input operand of a CONV3D at output row coordinates `o` and contraction index `κ` (R207, R218). -/
def Job.convIn (j : Job) (s : State) (o : List Nat) (k : Nat) : Operand :=
  let pos := j.convAt s o k
  if pos.any ConvPos.pad then some (FV.zero, scaleVal 0 0)
  else
    let t := j.convSrc s (pos.map ConvPos.shard)
    match t.operand s j.ctx ((k % j.sz 1 0) :: (pos.map ConvPos.at_ ++ [nth 0 o 4])) with
    | some (v, e) => if dsBlk t.d = 2 ∧ tScaleOk (dsTscale t.d) = false then some (.nan, e) else some (v, e)
    | none => none

/-- The row of an input tensor of a CONV3D that holds contraction index `k` for an output row, none in the zero padding. -/
def Job.convRow (j : Job) (s : State) (r k : Nat) : Option (Src × Nat) :=
  let o := coordsOf j.out r 0
  let pos := j.convAt s o k
  if pos.any ConvPos.pad then none
  else
    let t := j.convSrc s (pos.map ConvPos.shard)
    some (t, rowOf t.d (0 :: (pos.map ConvPos.at_ ++ [nth 0 o 4])))

/-- The ranges at other devices that output rows of a CONV3D take elements from (R218). -/
def Job.convFar (j : Job) (s : State) (rows : List Nat) : List (Nat × Nat) :=
  if j.op ≠ 0xC ∨ dsShard (j.m.desc 1) = 0 then []
  else
    let cin := j.sz 1 0
    let far := rows.flatMap (fun r => (range (contraction j.b j.m / max 1 cin)).filterMap (fun tap => j.convRow s r (tap * cin)))
    ((far.filter (fun e => decide (e.1.d ≠ j.m.desc 1))).dedup).flatMap (fun e => e.1.rowRanges e.2)

/-- The clamped input rows and columns of a CONV3D that output rows meet: distinct positions on each axis (R160). -/
def Job.convClamps (j : Job) (s : State) (rows : List Nat) : List (Nat × Int) :=
  ((rows.flatMap (fun r =>
    let o := coordsOf j.out r 0
    (range 3).flatMap (fun a =>
      let (st, pad, n) := j.convParam a
      (range n).filterMap (fun t =>
        let p : Int := (nth 0 o (a + 1) * st : Nat) - (pad : Int) + (t : Nat)
        if (j.convPos s a p).clamped then some (a, p) else none)))).dedup)

/-- Length of the contraction of a product. -/
def Job.depth (j : Job) : Nat := contraction j.b j.m

/-- The terms of element `n` of output row `r` of a product, A first (R60). -/
def Job.term (j : Job) (s : State) (r n k : Nat) : Operand × Operand :=
  if j.op = 0xC then
    (j.convIn s (coordsOf j.out r 0) k, j.factor s 2 [n, k % j.sz 1 0, j.convTap k 0, j.convTap k 1, j.convTap k 2])
  else
    let m := r % j.sz 0 1
    let bat := r / j.sz 0 1
    let at_ (slot : Nat) := if j.op = 2 then [if j.sz slot 2 = 1 then 0 else bat] else []
    let a := if obForm j.b = 2 then [m, k] else [k, m]
    let w := if obForm j.b = 1 then [k, n] else [n, k]
    (j.factor s 1 (a ++ at_ 1), j.factor s 2 (w ++ at_ 2))

/-- The partial of range `q` of element `n` of row `r`, and its flags (R209). -/
def Job.part (j : Job) (s : State) (r n q : Nat) : Nat × Nat :=
  let np := cdiv j.depth 32; let ks := max 1 (obKsplit j.b)
  contract (j.cls 1 2) j.depth (q * np / ks) ((q + 1) * np / ks) (j.term s r n)

/-- The accumulator element of a product and the flags of its additions (R209). -/
def Job.product (j : Job) (s : State) (r n : Nat) : FV × Nat :=
  let cls := j.cls 1 2
  let parts := (range (max 1 (obKsplit j.b))).map (fun q => (j.part s r n q).1)
  let v := (parts.drop 1).foldl (fun (a : Nat × Nat) p =>
    if cls = 4 then
      let q := passInt a.1 [(some (decodeElem 11 p, scaleVal 0 0), some (FV.ofQ ⟨1, 1⟩, scaleVal 0 0))]
      (q.1, a.2 ||| q.2)
    else (f32add a.1 p, a.2)) (parts.headD 0, 0)
  (accVal cls v.1, v.2)

/-! ## Attention (R205, R239) -/

/-- Whether key `k` is masked for query `q`. -/
def Job.masked (j : Job) (q k : Nat) : Bool := bit (obP j.b 0) 32 && decide (obP j.b 1 + q < obP j.b 2 + k)

/-- The row of t for query `q` of head `h`, and its flags (R205 steps 1 and 2). -/
def Job.tRow (j : Job) (s : State) (q h : Nat) : List Nat × Nat :=
  let cls := j.cls 1 2; let sc := ofF32 (bits (obP j.b 0) 31 0)
  (range (j.sz 2 1)).foldl (fun (r : List Nat × Nat) k =>
    let v := contractAll cls (j.sz 1 0) (fun d => (j.factor s 1 [d, q, h], j.factor s 2 [d, k, h]))
    (r.1 ++ [if j.masked q k then 0xFF800000 else toF32 (sc.mul (ofF32 (toF32 (accVal cls v.1))))], r.2 ||| v.2)) ([], 0)

/-- The row of e from the row of t and its maximum (R205 step 4). -/
def Job.eRow (j : Job) (q m : Nat) (t : List Nat) : List Nat :=
  t.mapIdx (fun k v => if j.masked q k then 0 else builtinTable 5 (f32sub v m))

/-- m, e, l and flags of a query (R205 steps 1 to 5). -/
def Job.soft (j : Job) (s : State) (q h : Nat) : Nat × List Nat × Nat × Nat :=
  let t := j.tRow s q h
  let m := rowMax (t.1.map ofF32)
  let e := j.eRow q m t.1
  (m, e, rowSum (e.map ofF32), t.2)

/-- The operation values of query `q` of head `h` of ATTENTION_FWD, and the flags (R205). -/
def Job.attend (j : Job) (s : State) (q h : Nat) : List FV × Nat :=
  let (_, e, l, f) := j.soft s q h
  let p := convertVec (j.m.desc 3) e
  let cls := j.cls 3 3
  let all := (range (j.sz 2 1)).all (j.masked q)
  (range (j.sz 3 0)).foldl (fun (r : List FV × Nat) d =>
    let o := contractAll cls (j.sz 3 1) (fun k => (nth none p.1 k, j.factor s 3 [d, k, h]))
    (r.1 ++ [if all then FV.zero else ofF32 (toF32 ((accVal cls o.1).div (ofF32 l)))], r.2 ||| o.2)) ([], f ||| p.2)

/-- Δ, the rows of π and δ, and the flags of a query from m, l and, where phase 1 has formed it, Δ (R239). -/
def Job.bwdWith (j : Job) (s : State) (q h : Nat) (m l : Nat) (given : Option Nat) : Nat × List Nat × List Nat × Nat :=
  let t := j.tRow s q h
  let e := j.eRow q m t.1
  let dead (k : Nat) := decide (l = 0) || j.masked q k
  let pi := e.mapIdx (fun k v => if dead k then 0 else f32div v l)
  let cls := j.cls 4 3
  let g := (range (j.sz 3 1)).map (fun k =>
    contractAll cls (j.sz 3 0) (fun d => (j.factor s 4 [d, q, h], j.factor s 3 [d, k, h])))
  let g32 := g.map (fun v => toF32 (accVal cls v.1))
  let delta := given.getD (rowSum (((pi.zip g32).map (fun e => f32mul e.1 e.2)).map ofF32))
  let sc := bits (obP j.b 0) 31 0
  let dl := (pi.zip g32).mapIdx (fun k e => if dead k then 0 else f32mul sc (f32mul e.1 (f32sub e.2 delta)))
  (delta, pi, dl, g.foldl (fun a v => a ||| v.2) t.2)

/-- m, l, Δ, the rows of π and δ, and the flags of a query (R239 step 1). -/
def Job.bwdRow (j : Job) (s : State) (q h : Nat) : Nat × Nat × Nat × List Nat × List Nat × Nat :=
  let (m, _, l, _) := j.soft s q h
  (m, l, j.bwdWith s q h m l none)

/-- The rows of π and δ and the flags of a query, from the m, l and Δ that phase 1 wrote to the scratch (R239 step 2). -/
def Job.bwdAgain (j : Job) (s : State) (q h : Nat) : List Nat × List Nat × Nat :=
  let v := j.row32 s 7 (h * j.sz 1 1 + q)
  (j.bwdWith s q h (nth 0 v 0) (nth 0 v 1) (some (nth 0 v 2))).2

/-- dQ of a query (R239 step 1). -/
def Job.dQ (j : Job) (s : State) (q h : Nat) : List FV × Nat :=
  let (_, _, _, _, dl, f) := j.bwdRow s q h
  let p := convertVec (j.m.desc 2) dl
  let cls := j.cls 2 2
  (range (j.sz 1 0)).foldl (fun (r : List FV × Nat) d =>
    let o := contractAll cls (j.sz 2 1) (fun k => (nth none p.1 k, j.factor s 2 [d, k, h]))
    (r.1 ++ [accVal cls o.1], r.2 ||| o.2)) ([], f ||| p.2)

/-- dK (slot 1 as the other factor, δ) or dV (slot 4, π) of a key, from the query rows of the head (R239 step 2). -/
def Job.dKV (j : Job) (s : State) (v : Bool) (rows : List (List Nat × List Nat)) (k h : Nat) : List FV × Nat :=
  let slot := if v then 4 else 1
  let col := rows.map (fun e => nth 0 (if v then e.1 else e.2) k)
  let p := convertVec (j.m.desc slot) col
  let cls := j.cls slot slot
  (range (j.sz (if v then 3 else 2) 0)).foldl (fun (r : List FV × Nat) d =>
    let o := contractAll cls (j.sz 1 1) (fun q => (nth none p.1 q, j.factor s slot [d, q, h]))
    (r.1 ++ [accVal cls o.1], r.2 ||| o.2)) ([], p.2)

/-! ## Rows (R206, R207, R237, R238) -/

/-- A value divided by the length of a row, with one rounding (R206). -/
def overLength (v n : Nat) : Nat := toF32 ((ofF32 v).div (FV.ofQ (Q.int n)))

/-- Where the owner of rows finds the partial of segment `q` of row `i` of a tile: in its cluster store, in the area that no grant
includes and in which an operation on the row unit does not stage (R82, log 82). -/
def segAt (o i q : Nat) : Nat := clusterBase + clusterOf o * 0x2000000 + 0x17C0000 + 14336 * (o % 18) + 4 * (32 * (q - 1) + i)

/-- The unit of segment `q` of output row `r` (Table 7.4). -/
def Job.segUnit (j : Job) (r q : Nat) : Nat := r / 32 * j.segments + q

/-- The row unit's partials joined in ascending segment order (R64, R82). -/
def rowJoin (mode : Nat) : List Nat → Nat
  | [] => 0
  | p :: r => r.foldl (fun a v => if mode = 1 then f32max a v else f32add a v) p

/-- The last reduction along row `r`: a row of one segment is reduced whole; the owner of a longer one reduces the segments that it holds
and reads the partials that other cores have handed over (R82, log 82). -/
def Job.rowTotal (j : Job) (s : State) (r mode : Nat) (l : List FV) : Nat :=
  if j.segments ≤ 1 then rowReduce mode l
  else
    let t := s.taskOf j.g j.i
    let o := unitCore t.units (j.segUnit r 0)
    rowJoin mode ((chunks 8192 l).mapIdx (fun q x =>
      if t.handed.contains (j.segUnit r q) && decide (q ≤ 112) then fromBytes (s.get (segAt o (r % 32) q) 4) else rowReduce mode x))

/-- μ (+0 for RMS norm), d, and r of a row (R206); `squares` takes the row sum of squares. -/
def normRow (rms : Bool) (eps : Nat) (squares : List FV → Nat) (xs : List Nat) : Nat × List Nat × Nat :=
  let n := xs.length
  let rs (v : Nat) := builtinTable 7 (f32add v eps)
  if rms then (0, xs, rs (overLength (squares (xs.map ofF32)) n))
  else
    let mu := overLength (rowSum (xs.map ofF32)) n
    let d := xs.map (fun x => f32sub x mu)
    (mu, d, rs (overLength (squares (d.map ofF32)) n))

/-- e of a SOFTMAX row (R206). -/
def softExp (scale : Nat) (xs : List Nat) : List Nat :=
  let t := xs.map (f32mul scale)
  let m := rowMax (t.map ofF32)
  t.map (fun v => builtinTable 5 (f32sub v m))

/-- y of a SOFTMAX row (R206); `sum` takes the row sum. -/
def softRow (scale : Nat) (sum : List FV → Nat) (xs : List Nat) : List Nat :=
  let e := softExp scale xs
  let l := sum (e.map ofF32)
  e.map (fun v => f32div v l)

/-- A vector in a slot (γ or β), or none. -/
def Job.vec (j : Job) (s : State) (k : Nat) : Option (List Nat) := if j.has k then some (j.row32 s k 0) else none

/-- NORM's row (R206). -/
def Job.norm (j : Job) (s : State) (r : Nat) : List Nat :=
  let (_, d, rs) := normRow (bit (obP j.b 0) 0) (bits (obP j.b 0) 63 32) (j.rowTotal s r 3) (j.row32 s 1 r)
  let y := d.map (fun v => f32mul v rs)
  let y := match j.vec s 2 with | some g => (y.zip g).map (fun e => f32mul e.1 e.2) | none => y
  match j.vec s 3 with | some b => (y.zip b).map (fun e => f32add e.1 e.2) | none => y

/-- μ, r, x̂ of a row of NORM_BWD (R237). -/
def Job.hat (j : Job) (s : State) (r : Nat) : Nat × Nat × List Nat :=
  let (mu, d, rs) := normRow (bit (obP j.b 0) 0) (bits (obP j.b 0) 63 32) rowSumSq (j.row32 s 1 r)
  (mu, rs, d.map (fun v => f32mul v rs))

/-- x̂ of a row of NORM_BWD from the μ and r that the first phase wrote to the scratch (R237). -/
def Job.hatAgain (j : Job) (s : State) (r : Nat) : List Nat :=
  let mr := j.row32 s 7 r
  let xs := j.row32 s 1 r
  (if bit (obP j.b 0) 0 then xs else xs.map (fun x => f32sub x (nth 0 mr 0))).map (fun d => f32mul d (nth 0 mr 1))

/-- g of a row of NORM_BWD (R237). -/
def Job.gRow (j : Job) (s : State) (r : Nat) : List Nat :=
  let dy := j.row32 s 2 r
  match j.vec s 3 with
  | some v => (dy.zip v).map (fun (e : Nat × Nat) => f32mul e.1 e.2)
  | none => dy

/-- dx of a row of NORM_BWD (R237). -/
def Job.normBwd (j : Job) (s : State) (r : Nat) : List Nat :=
  let (_, rs, xh) := j.hat s r
  let g := j.gRow s r
  let n := xh.length
  let b := overLength (j.rowTotal s r 2 ((g.zip xh).map (fun (e : Nat × Nat) => ofF32 (f32mul e.1 e.2)))) n
  if bit (obP j.b 0) 0 then (g.zip xh).map (fun (e : Nat × Nat) => f32mul rs (f32sub e.1 (f32mul e.2 b)))
  else
    let a := overLength (rowSum (g.map ofF32)) n
    (g.zip xh).map (fun (e : Nat × Nat) => f32mul rs (f32sub (f32sub e.1 a) (f32mul e.2 b)))

/-- dx of a row of SOFTMAX_BWD (R238). -/
def Job.softBwd (j : Job) (s : State) (r : Nat) : List Nat :=
  let sc := bits (obP j.b 0) 31 0
  let y := softRow sc rowSum (j.row32 s 1 r)
  let dy := j.row32 s 2 r
  let dl := j.rowTotal s r 2 ((y.zip dy).map (fun e => ofF32 (f32mul e.1 e.2)))
  (y.zip dy).map (fun e => f32mul sc (f32mul e.1 (f32sub e.2 dl)))

/-- The values that REDUCE takes for an element at coordinates of Y, and the row unit's mode (R207). -/
def Job.reduced (j : Job) (s : State) (c : List Nat) : Nat × List FV :=
  let dim := bits (obP j.b 0) 2 0
  (match bits (obP j.b 0) 5 4 with | 0 => 2 | 1 => 1 | _ => 3,
    (range (j.sz 1 dim)).map (fun k => ofF32 (j.f32At s 1 (upd c dim (fun _ => k)))))

/-- REDUCE's element at coordinates of Y (R207); `r` is its number in Y. -/
def Job.reduce (j : Job) (s : State) (r : Nat) (c : List Nat) : Nat := j.rowTotal s r (j.reduced s c).1 (j.reduced s c).2

/-! ## UPDATE_MATRIX (R272) -/

/-- An entry of the generation tagged with a step, as 12 words; free where no held generation has the tag (R260, R261). -/
def State.genEntry (s : State) (x step group : Nat) : List Nat :=
  match (s.ctx x).bind (fun c => c.gens.find? (fun g => decide (g.step = step))) with
  | some g => mget [] g.entries group
  | none => (range 12).map (fun k => fromBytes ((range 4).map (fun i => Config.freeByte s.tick (4 * k + i))))

/-- A product of two matrices of FP32 values, given by rows of the first and columns of the second (R272). -/
def matMul (prec : Bool) (a bT : List (List Nat)) : List (List (Nat × Nat)) :=
  let cv (v : Nat) : FV × Nat := if prec then (ofF32 v, 0) else let e := convert 1 0 none (ofF32 v); (decodeElem 1 e.1, e.2)
  a.map (fun r => bT.map (fun c =>
    let f := (r ++ c).foldl (fun f v => f ||| (cv v).2) 0
    let v := contractAll (if prec then 1 else 0) r.length (fun k =>
      (some ((cv (nth 0 r k)).1, scaleVal 0 0), some ((cv (nth 0 c k)).1, scaleVal 0 0)))
    (v.1, v.2 ||| f)))

/-- The transpose of a matrix of `n` columns. -/
def transpose (n : Nat) (a : List (List Nat)) : List (List Nat) := (range n).map (fun k => a.map (fun r => nth 0 r k))

/-- One iteration of R272: the new x and the flags of each row. -/
def muonStep (prec : Bool) (a b c : Nat) (x : List (List Nat)) : List (List Nat) × List Nat :=
  let r := x.length; let n := (x.headD []).length
  let p := matMul prec x x
  let g := p.map (fun l => l.map Prod.fst)
  let p2 := matMul prec g (transpose r g)
  let bm := (g.zip p2).map (fun e => (e.1.zip e.2).map (fun v => f32add (f32mul b v.1) (f32mul c v.2.1)))
  let p3 := matMul prec bm (transpose n x)
  let fl := (range r).map (fun i => ((nth [] p i) ++ (nth [] p2 i) ++ (nth [] p3 i)).foldl (fun f v => f ||| v.2) 0)
  ((x.zip p3).map (fun e => (e.1.zip e.2).map (fun v => f32add (f32mul a v.1) v.2.1)), fl)

/-- The step whose generation UPDATE_MATRIX reads (R261, R272): that of the update that waits for it, whose record names U; the task's own
step where none does. -/
def Job.muonStepNo (j : Job) (s : State) : Nat :=
  let u := obSlot j.b 1
  ((s.evl.recs.find? (fun (e : Nat × Rec) =>
    let a := field e.2.bytes 0x30 8
    decide (e.2.ctx = j.ctx ∧ e.2.phase = .phaseB ∧ localOf a = localOf u) && s.sameDevice (deviceOf a) (deviceOf u))).map
      (fun e => e.2.step)).getD j.step

/-- The rows of O and the flags of each row of X (R272). -/
def Job.orthogonal (j : Job) (s : State) : List (List Nat) × List Nat :=
  let e := s.genEntry j.ctx (j.muonStepNo s) (obP j.b 0 % 256)
  let ctl := nth 0 e 0
  let u := (range (j.sz 1 1)).map (fun r => j.row32 s 1 r)
  let tr := decide (j.sz 1 0 < j.sz 1 1)
  let sum := rowSumSq (u.flatten.map ofF32)
  let k := f32div 0x3F800000 (f32sqrt sum)
  let x0 := (if tr then transpose (j.sz 1 0) u else u).map (fun r => r.map (fun v => if sum = 0 then 0 else f32mul v k))
  let r := (range (bits ctl 6 3)).foldl (fun (a : List (List Nat) × List Nat) _ =>
    let n := muonStep (bit ctl 7) (nth 0 e 6) (nth 0 e 7) (nth 0 e 8) a.1
    (n.1, (a.2.zip n.2).map (fun f => f.1 ||| f.2))) (x0, x0.map (fun _ => 0))
  (if tr then transpose (j.sz 1 1) r.1 else r.1, r.2)

/-! ## The drain of a mapped task (R219 to R221) -/

/-- P: the product of the T_SCALE values of FB16 operands, else 1 (R219). -/
def Job.p (j : Job) : FV :=
  if [1, 2, 3, 4, 0xC].contains j.op && decide (dsBlk (j.m.desc 1) = 2) && decide (dsBlk (j.m.desc 2) = 2) then
    ofF32 (toF32 ((ofF32 (dsTscale (j.m.desc 1))).mul (ofF32 (dsTscale (j.m.desc 2)))))
  else .ofQ ⟨1, 1⟩

/-- Steps 1 to 4 of R83 on the operation value at column `n` of output row `r`, in FP32. -/
def Job.drained (j : Job) (s : State) (a : FV) (r n : Nat) : Nat :=
  let d := obDrain j.b
  let aux (reg : Nat) (c : List Nat) : Nat := j.f32At s (5 + reg) c
  let here := coordsOf j.out r n
  let sc := match drScaleSrc d with
    | 0 => field d 8 4
    | 1 => aux (drVec d) [n, 0]
    | _ => aux (drVec d) [0, r]
  let bs := match drBiasSrc d with
    | 0 => 0
    | 1 => field d 0xC 4
    | 2 => aux (drVec d) [n, 1]
    | _ => aux (drVec d) [1, r]
  let v := toF32 (((a.mul j.p).mul (ofF32 sc)).add (ofF32 bs))
  let v := (drOps d).foldl (fun v o =>
    drOne (bits o 7 0) v (match opSrc o with
      | 0 => bits o 63 32
      | 1 => aux (opReg o) here
      | 2 => aux (opReg o) [n]
      | _ => aux (opReg o) [r])) v
  let v := if drTbl d 0 = 0 then v else tableEval (drTbl d 0) (j.m.at_ 32) v
  if drTbl d 1 = 0 then v else f32mul v (tableEval (drTbl d 1) (j.m.at_ 33) (aux (drT2Src d) here))

/-! ## Output rows -/

/-- The encodings and scale bytes of a row of a tensor from its FP32 values, and the flags of each element; a block's stand at
its first (R48, R54, R61). -/
def Job.encodeRow (j : Job) (s : State) (t : Src) (ovf rnd r : Nat) (vs : List Nat) : List Nat × List Nat × List Nat :=
  let ty := dsType t.d; let bk := dsBlk t.d
  let sr (n : Nat) : Option Nat :=
    if rnd = 1 then some (srRnd j.seed j.step (dsId t.d) (s.indexOf t (coordsOf t.d r n) % 2 ^ 64)) else none
  if bk = 0 then
    let es := vs.mapIdx (fun n v => if ty = 0 then (f32canon v, 0) else convert ty ovf (sr n) (ofF32 v))
    (es.map Prod.fst, [], es.map Prod.snd)
  else
    let l := blockLen bk
    ((chunks l vs).mapIdx (fun b v => (b, v))).foldl (fun (a : List Nat × List Nat × List Nat) e =>
      let q := quantBlock bk ty (dsTscale t.d) (fun k => sr (e.1 * l + k)) (e.2.map ofF32)
      (a.1 ++ q.2.1, a.2.1 ++ [q.1], a.2.2 ++ e.2.mapIdx (fun k _ => if k = 0 then q.2.2 else 0))) ([], [], [])

/-- The union of flags. -/
def orAll (l : List Nat) : Nat := l.foldl (· ||| ·) 0

/-- The bytes of the rest of a final six-bit group, from local offset `a` up to `n`, that lie inside the tensor's footprint and in none of
its rows (R42, R149, log 81). -/
def padFits (d : List Byte) (a n : Nat) : Nat :=
  ((range n).takeWhile (fun k => decide (((a + k : Nat) : Int) ≤ (dsFoot d).2) && !dsHolds d (a + k))).length

/-- Where elements from column `first` of a row go in one stored piece, and the bytes there: the bits of neighbours in a shared byte
stay, and the bits above the last element of a dense row are 0 (R42, R145, R156, R208). -/
def partBytes (s : State) (x : Nat) (t : Src) (p : Nat × Nat × Nat) (first : Nat) (es : List Nat) : Option (Nat × List Byte) :=
  let b := dsBits t.d
  let lo := max first p.2.1; let hi := min (first + es.length) (p.2.1 + p.2.2)
  if hi ≤ lo then none
  else
    let bit0 := (lo - p.2.1) * b; let bit1 := (hi - p.2.1) * b
    let byte0 := bit0 / 8; let byte1 := cdiv bit1 8
    let old := fromBytes ((range (byte1 - byte0)).map (fun k => s.byteG x (p.1 + byte0 + k)))
    let new := fromBytes (packBits b ((es.drop (lo - first)).take (hi - lo))) <<< (bit0 % 8)
    let ends := decide (hi = p.2.1 + p.2.2) && (dsBlocked t.d 0).isNone
    let keepLow := old % 2 ^ (bit0 % 8)
    let keepHigh := if ends then 0 else old / 2 ^ (bit1 - 8 * byte0) * 2 ^ (bit1 - 8 * byte0)
    let pad := if ends && decide (b = 6) then padFits t.d (localOf p.1 + byte1) (roundUp byte1 3 - byte1) else 0
    some (p.1 + byte0, toBytes (byte1 - byte0 + pad) (keepLow + new + keepHigh))

/-- What Rambler holds of a stored range is discarded and fetched again (R191). -/
def State.ownStore (s : State) (c : Nat) (w : Who) (a n : Nat) : State :=
  (units (localOf a) n).foldl (fun s q =>
    match s.check w q.1 true with
    | .ok pa =>
      let hit := (s.core c).ramb.lq.filter (fun e => decide (e.pa / 256 = pa / 256))
      if hit = [] then s
      else (s.modRamb c (fun m => { m with
        lq := m.lq.filter (fun e => decide (e.pa / 256 ≠ pa / 256))
        again := m.again ++ hit.map (fun (e : LqEntry) => (⟨e.unit, e.pa, e.mask, []⟩ : LqEntry)) })).refetch c
    | _ => s) s

/-- Writes bytes of an output for a core of a mapped task: on this device, or by packets whose answers the task waits for. -/
def storeNow (s : State) (j : Job) (c : Nat) (w : Who) (a : Nat) (bs : List Byte) : Res Unit :=
  if bs = [] then .ok s ()
  else if s.heldBack w true [(a, bs.length)] then .wait s
  else
    match s.writeG w (.task j.g j.i) (dieOfCluster (clusterOf c)) a bs with
    | (s, none) => .ok (if s.isHere a then s.ownStore c w a bs.length else s) ()
    | (s, some x) => accRes s w x true

/-- Stores elements of a row of a tensor from column `first`, with the scale bytes of the blocks that begin in them. -/
def storePart (s : State) (j : Job) (c : Nat) (w : Who) (t : Src) (r first : Nat) (es scales : List Nat) : Res Unit :=
  (Res.each (fun s p => match partBytes s j.ctx t p first es with
    | some (a, bs) => storeNow s j c w a bs
    | none => .ok s ()) (rowPieces t.d r) s).bind (fun s _ =>
      storeNow s j c w (fromBase (dsScale t.d) (r * dsRowScales t.d + first / max 1 (blockLen (dsBlk t.d)) : Nat))
        (scales.map (BitVec.ofNat 8 ·)))

/-- The operation values of output row `r`, and the flags of the arithmetic that produced them (R203). -/
def Job.values (j : Job) (s : State) (r : Nat) : List FV × Nat :=
  let all (l : List Nat) : List FV × Nat := (l.map ofF32, 0)
  match j.op with
  | 1 | 2 | 0xC =>
    let vs := (range (j.sz 0 0)).map (j.product s r)
    (vs.map Prod.fst, vs.foldl (fun f v => f ||| v.2) 0)
  | 3 => j.attend s (r % j.sz 0 1) (r / j.sz 0 1)
  | 4 => j.dQ s (r % j.sz 0 1) (r / j.sz 0 1)
  | 5 => all (j.norm s r)
  | 6 => all (softRow (bits (obP j.b 0) 31 0) (j.rowTotal s r 2) (j.row32 s 1 r))
  | 7 => ((range (j.sz 0 0)).map (fun n => (j.src 1).value s j.ctx (coordsOf j.out r n)), 0)
  | 0xB => all ((range (j.sz 0 0)).map (fun n => j.reduce s (r * j.sz 0 0 + n) (coordsOf j.out r n)))
  | 0xE => all (j.normBwd s r)
  | _ => all (j.softBwd s r)

/-- The partial flags of range `q` over an output row (R67, R209). -/
def Job.partFlags (j : Job) (s : State) (r q : Nat) : Nat :=
  (range (j.sz 0 0)).foldl (fun f n => f ||| (j.part s r n q).2) 0

/-- Drains and stores one row of values into a tensor: the state and the flags of each element. -/
def Job.emit (j : Job) (s : State) (c : Nat) (w : Who) (t : Src) (r : Nat) (vs : List Nat) : Res (List Nat) :=
  let d := obDrain j.b
  let (es, sc, f) := j.encodeRow s t (drOvf d) (drRnd d) r vs
  (storePart s j c w t r 0 es sc).bind (fun s _ => .ok s f)

/-! ## Rambler's data and the mapper reserve (R187, R209, R217, R222, R223, R82) -/

/-- Memory as a core's execute side sees it: what its load queue holds stands in the place of what memory holds (R187). -/
def State.view (s : State) (c : Nat) : State :=
  { s with mem := (s.core c).ramb.lq.foldl (fun m e =>
    (range 256).foldl (fun m i => if bit e.mask i then mput m (e.pa + i) (nth 0 e.data i) else m) m) s.mem }

/-- The mapper reserve of a core (R222). -/
def reserveOf (c : Nat) : Nat := coreBase + c * 0x200000 + 0x1C0000

/-- An accumulator tile's bits, as TMOV mode 1 moves them (R108). -/
def tileBytes (f : Nat → Nat → Nat) : List Byte := (range 32).flatMap (fun i => (range 32).flatMap (fun k => toBytes 4 (f i k)))

/-- Writes tile `k` of a core's reserve. -/
def State.putReserve (s : State) (c k : Nat) (bs : List Byte) : State := s.put (reserveOf c + 4096 * k) bs

/-- The column tiles of a core, cut into column groups (R211). -/
def Job.colGroups (j : Job) (w gc : Nat) : List (List Nat) :=
  let n := cdiv (j.sz 0 0) (j.colWidth w)
  (range (cdiv n (max 1 gc))).map (fun g => ((range n).drop (g * gc)).take gc)

/-- A unit of a further KSPLIT range hands its partial tiles to the owner of its output tile, in the owner's reserve (R209): tile (i, k)
of range `q` stands at (q − 1) × gr × gc + i × gc + k (log 80). -/
def Job.handPartials (j : Job) (s v : State) (t : Task) (c u : Nat) : State :=
  let (rows, q) := j.unitRows u
  let o := unitCore t.units (u - q)
  if o = c then s
  else
    match (j.groupsOf t o).find? (fun g => g.1.contains (u - q)) with
    | none => s
    | some (g, gc) =>
      let cw := j.colWidth (t.widthOf o)
      let i := (g.findIdx? (fun x => decide (x = u - q))).getD 0
      (j.colGroups (t.widthOf o) gc).foldl (fun s cols =>
        (cols.mapIdx (fun k tile => (k, tile))).foldl (fun s e =>
          s.putReserve o ((q - 1) * g.length * gc + i * gc + e.1) (tileBytes (fun a b =>
            let n := cw * e.2 + b
            if a < rows.length ∧ b < cw ∧ n < j.sz 0 0 then (j.part v (nth 0 rows a) n q).1 else 0))) s) s

/-- The tiles of o that ATTENTION_FWD spills for a unit: those beyond 63, as they stand before the last pass over the keys (R223). -/
def Job.spillFwd (j : Job) (s v : State) (c u : Nat) : State :=
  let rows := (j.unitRows u).1
  let n := cdiv (j.sz 3 0) 32; let passes := cdiv (j.sz 3 1) 32
  if n ≤ 63 ∨ passes ≤ 1 then s
  else
    let cls := j.cls 3 3
    let ps := rows.map (fun r =>
      let q := r % j.sz 0 1; let h := r / j.sz 0 1
      (h, (convertVec (j.m.desc 3) (j.soft v q h).2.1).1))
    (range (n - 63)).foldl (fun s k => s.putReserve c k (tileBytes (fun a b =>
      let d := 32 * (63 + k) + b
      match ps[a]? with
      | some (h, p) => if d < j.sz 3 0 then (contract cls (j.sz 3 1) 0 (passes - 1) (fun x => (nth none p x, j.factor v 3 [d, x, h]))).1 else 0
      | none => 0))) s

/-- The tiles of dK and dV that ATTENTION_BWD spills for 32 keys of a head: those of dQ, dK, dV in this order beyond 62, as they stand
before the last pass over the queries (R223). -/
def Job.spillBwd (j : Job) (s v : State) (c h k0 : Nat) (rows : List (List Nat × List Nat)) : State :=
  let n := cdiv (j.sz 1 0) 32; let passes := cdiv (j.sz 1 1) 32
  if passes ≤ 1 then s
  else
    (range (3 * n - 62)).foldl (fun s e =>
      let t := 62 + e
      if t < n then s
      else
        let dv := decide (2 * n ≤ t)
        let slot := if dv then 4 else 1
        s.putReserve c e (tileBytes (fun a b =>
          let d := 32 * (t % n) + b; let k := k0 + a
          let p := (convertVec (j.m.desc slot) (rows.map (fun r => nth 0 (if dv then r.1 else r.2) k))).1
          if d < j.sz slot 0 ∧ k < j.sz 2 1 then
            (contract (j.cls slot slot) (j.sz 1 1) 0 (passes - 1) (fun q => (nth none p q, j.factor v slot [d, q, h]))).1
          else 0))) s

/-- The terms of the last reduction along output row `r` of an operation on the row unit, and its mode (R82). -/
def Job.lastRow (j : Job) (s : State) (r : Nat) : Nat × List FV :=
  match j.op with
  | 5 => (3, (normRow (bit (obP j.b 0) 0) (bits (obP j.b 0) 63 32) rowSumSq (j.row32 s 1 r)).2.1.map ofF32)
  | 6 => (2, (softExp (bits (obP j.b 0) 31 0) (j.row32 s 1 r)).map ofF32)
  | 0xB => j.reduced s (coordsOf j.out (r / max 1 (j.sz 0 0)) (r % max 1 (j.sz 0 0)))
  | 0xE => (2, ((j.gRow s r).zip (j.hat s r).2.2).map (fun e => ofF32 (f32mul e.1 e.2)))
  | _ => (2, ((softRow (bits (obP j.b 0) 31 0) rowSum (j.row32 s 1 r)).zip (j.row32 s 2 r)).map (fun e => ofF32 (f32mul e.1 e.2)))

/-- The output rows of a unit on the row unit, those of REDUCE by their number in Y, and the unit's segment. -/
def Job.segRows (j : Job) (u : Nat) : List Nat × Nat :=
  let n := max 1 j.segments
  let all := if j.op = 0xB then dsCountAll j.out else dsRows j.out
  ((range (min 32 (all - 32 * (u / n)))).map (fun i => 32 * (u / n) + i), u % n)

/-- A unit of a further segment writes its partials to the cluster store of the core that owns the rows (R82). -/
def Job.handSegment (j : Job) (s v : State) (t : Task) (u : Nat) : State :=
  let (rows, q) := j.segRows u
  let o := unitCore t.units (u - q)
  (rows.mapIdx (fun i r => (i, r))).foldl (fun s e =>
    let (mode, l) := j.lastRow v e.2
    if 112 < q then s else s.put (segAt o e.1 q) (toBytes 4 (rowReduce mode ((l.drop (8192 * q)).take 8192)))) s

/-- The units of a core that belong to rows another core owns, and that it has not handed over. -/
def Job.toHand (j : Job) (t : Task) (c : Nat) : List Nat :=
  if j.segments ≤ 1 then []
  else (t.unitsOf c).filter (fun u => decide (u % j.segments ≠ 0 ∧ unitCore t.units (u - u % j.segments) ≠ c) && !t.handed.contains u)

/-- Whether the owner has every partial of its rows that another core hands over; one that an interruption has taken away after its core
had finished is computed again (R82, log 82). -/
def Job.segmentsIn (j : Job) (t : Task) (c : Nat) : Bool :=
  decide (j.segments ≤ 1) || ((t.unitsOf c).filter (fun u => decide (u % j.segments = 0))).all (fun u =>
    (range j.segments).all (fun q =>
      let o := unitCore t.units (u + q)
      decide (q = 0 ∨ o = c) || t.handed.contains (u + q) || !t.left.contains o))

/-- Where the partials stand that a core reads. -/
def Job.segPlaces (j : Job) (t : Task) (c : Nat) : List Nat :=
  if j.segments ≤ 1 then []
  else ((t.unitsOf c).filter (fun u => decide (u % j.segments = 0))).flatMap (fun u =>
    ((range (min 113 j.segments)).filter (fun q => t.handed.contains (u + q))).flatMap (fun q =>
      (range (j.segRows u).1.length).map (fun i => segAt c i q)))

/-! ## Running units (R203, R211, R213) -/

/-- The first element not yet written once column tile `k` is drained: whole blocks only, and all of the row at its end (R92, R212). -/
def Job.colCut (j : Job) (cw k : Nat) : Nat :=
  let n := j.sz 0 0; let l := max 1 (blockLen (dsBlk j.out))
  if n ≤ cw * k then n else if dsBlk j.out = 0 then cw * k else cw * k / l * l

/-- An output row that has been computed: its number, encodings, scale bytes and flags. -/
structure OutRow where
  row : Nat
  es : List Nat
  scales : List Nat
  flags : Nat
  deriving DecidableEq, Repr

/-- Output row `r` computed from memory as `v` shows it (R203, R219). -/
def Job.outRow (j : Job) (v : State) (r : Nat) : OutRow :=
  let d := obDrain j.b
  let x := j.values v r
  let e := j.encodeRow v (j.src 0) (drOvf d) (drRnd d) r (x.1.mapIdx (fun n a => j.drained v a r n))
  ⟨r, e.1, e.2.1, x.2 ||| orAll e.2.2⟩

/-- Stores elements `[lo, hi)` of a computed row; `lo` begins a block. -/
def storeSlice (s : State) (j : Job) (c : Nat) (w : Who) (x : OutRow) (lo hi : Nat) : Res Unit :=
  let l := max 1 (blockLen (dsBlk j.out))
  storePart s j c w (j.src 0) x.row lo ((x.es.drop lo).take (hi - lo)) ((x.scales.drop (lo / l)).take (cdiv hi l - lo / l))

/-- Runs a row group of a product on a core: the drains go column group by column group, then row tile by row tile, then column tile by
column tile (R211); further KSPLIT ranges are handed to their owners. The flags of the group's arithmetic. -/
def Job.runGroup (j : Job) (s : State) (t : Task) (c : Nat) (w : Who) (g : List Nat × Nat) : Res Nat :=
  let v := s.view c
  let cw := j.colWidth (t.widthOf c)
  let pf := orAll (g.1.map (fun u => let (rows, q) := j.unitRows u; orAll (rows.map (fun r => j.partFlags v r q))))
  let own := g.1.filter (fun u => decide ((j.unitRows u).2 = 0))
  let tiles := own.map (fun u => (j.unitRows u).1.map (j.outRow v))
  let s := (g.1.filter (fun u => decide ((j.unitRows u).2 ≠ 0))).foldl (fun s u => j.handPartials s v t c u) s
  let work := (j.colGroups (t.widthOf c) g.2).flatMap (fun cols => tiles.flatMap (fun rows => cols.flatMap (fun k => rows.map (fun x => (k, x)))))
  (Res.each (fun s (e : Nat × OutRow) => storeSlice s j c w e.2 (j.colCut cw e.1) (j.colCut cw (e.1 + 1))) work s).bind (fun s _ =>
    .ok s (pf ||| orAll (tiles.flatten.map OutRow.flags)))

/-- Runs a slice of 256 columns of a product on the vector lane: every row, without the array (R213). -/
def Job.runSlice (j : Job) (s : State) (c : Nat) (w : Who) (u : Nat) : Res Nat :=
  let v := s.view c
  let lo := 256 * u; let hi := min (lo + 256) (j.sz 0 0)
  let d := obDrain j.b
  let out := (range (dsRows j.out)).map (fun r =>
    let vs := (range (hi - lo)).map (fun n => j.product v r (lo + n))
    let f := orAll ((range (hi - lo)).map (fun n => orAll ((range (max 1 (obKsplit j.b))).map (fun q => (j.part v r (lo + n) q).2))))
    let e := j.encodeRow v (j.src 0) (drOvf d) (drRnd d) r
      (List.replicate lo 0 ++ vs.mapIdx (fun n a => j.drained v a.1 r (lo + n)))
    let l := max 1 (blockLen (dsBlk j.out))
    (⟨r, e.1.drop lo, e.2.1.drop (lo / l), f ||| orAll (vs.map Prod.snd) ||| orAll (e.2.2.drop lo)⟩ : OutRow))
  (Res.each (fun s (x : OutRow) => storePart s j c w (j.src 0) x.row lo x.es x.scales) out s).bind (fun s _ =>
    .ok s (orAll (out.map OutRow.flags)))

/-- What the first phase writes to the scratch for an output row: μ and r (R237), or m, l and Δ (R239). -/
def Job.phaseRow (j : Job) (v : State) (r : Nat) : Option (List Nat) :=
  match j.op with
  | 0xE => if (outSlots j.b).contains 7 then let h := j.hat v r; some [h.1, h.2.1] else none
  | 4 => let b := j.bwdRow v (r % j.sz 0 1) (r / j.sz 0 1); some [b.1, b.2.1, b.2.2.1]
  | _ => none

/-- Runs one unit of an operation that is no product: its output rows are computed from the inputs, drained and stored, with what the
first phase writes to the scratch; a unit of a further segment is the row owner's work (R82). -/
def Job.unit (j : Job) (s : State) (c : Nat) (w : Who) (u : Nat) : Res Nat :=
  let (rows, q) := j.unitRows u
  let v := s.view c
  if q ≠ 0 then .ok s 0
  else
    let out := rows.map (j.outRow v)
    let s := if j.op = 3 then j.spillFwd s v c u else s
    (Res.each (fun s (x : OutRow) => (storePart s j c w (j.src 0) x.row 0 x.es x.scales).bind (fun s _ =>
      match j.phaseRow v x.row with
      | some l => storePart s j c w (j.src 7) x.row 0 l []
      | none => .ok s ())) out s).bind (fun s _ => .ok s (orAll (out.map OutRow.flags)))

/-- Runs the units of a core in order (R210, R211, R213): the flags of each group, slice or unit. -/
def Job.runAll (j : Job) (s : State) (t : Task) (c : Nat) (w : Who) : Res (List Nat) :=
  if (j.lane s t.cores).isSome then Res.each (fun s u => j.runSlice s c w u) (t.unitsOf c) s
  else if j.isProduct then Res.each (fun s g => j.runGroup s t c w g) (j.groupsOf t c) s
  else Res.each (fun s u => j.unit s c w u) (t.unitsOf c) s

/-- The slots that a task reads as tensors. -/
def Job.inputs (j : Job) : List Nat :=
  (range 8).filter (fun k => j.has k && !isList j.op k && !((outSlots j.b).contains k))

/-- The first failed access among the operands of the task, row by row in slot order, and among what a core takes from other shards
(R174, R181, R218). -/
def Job.badInput (j : Job) (s : State) (w : Who) (rows : List Nat) : Option Acc :=
  (j.inputs.findSome? (fun k => (j.src k).badRow s w (range (dsRows (j.m.desc k))))).or (s.firstBad w false (j.convFar s rows))

/-! ## Halo (R217) -/

/-- The input rows that a core's output rows of a CONV3D map to, without kernel reach or with it; rows of this device's shard. R217 does not
say which input rows are a core's own: output row o has o S, not o S - P (log 80). -/
def Job.convRows (j : Job) (s : State) (t : Task) (c : Nat) (reach : Bool) : List Nat :=
  let out := ((t.unitsOf c).map j.unitRows).flatMap Prod.fst
  let cin := max 1 (j.sz 1 0)
  (out.flatMap (fun r =>
    if reach then
      (range (contraction j.b j.m / cin)).filterMap (fun tap => (j.convRow s r (tap * cin)).bind (fun e =>
        if e.1.d = j.m.desc 1 then some e.2 else none))
    else
      let o := coordsOf j.out r 0
      let pos := (range 3).map (fun a => j.convPos s a (nth 0 o (a + 1) * (j.convParam a).1 : Nat))
      if pos.any ConvPos.pad || decide (pos.map ConvPos.shard ≠ (range 3).map (j.convShard s)) then []
      else [rowOf (j.m.desc 1) (0 :: (pos.map ConvPos.at_ ++ [nth 0 o 4]))])).dedup

/-- The border rows that a core receives from its neighbours on this device, in ascending order. -/
def Job.border (j : Job) (s : State) (t : Task) (c : Nat) : List Nat :=
  let own := j.convRows s t c false
  let others := (t.cores.filter (fun d => decide (d ≠ c))).flatMap (fun d => j.convRows s t d false)
  (range (dsRows (j.m.desc 1))).filter (fun r => (j.convRows s t c true).contains r && !own.contains r && others.contains r)

/-- Bytes of an input row with its scales. -/
def Job.rowSize (j : Job) : Nat := dsRowBytes (j.m.desc 1) + dsRowScales (j.m.desc 1)

/-- Whether the cores of a CONV3D exchange border strips: REUSE 2, and the strips of every core fit the reserve. -/
def Job.halo (j : Job) (s : State) (t : Task) : Bool :=
  decide (j.op = 0xC ∧ obReuse j.b = 2) && t.cores.all (fun c => decide ((j.border s t c).length * j.rowSize ≤ 0x40000))

/-- A core hands the border rows that it loads to the reserves of the cores that reach them. The spec lays the reserve out nowhere: strips
start at its offset 0, as KSPLIT's partials do, and each overwrites the other (R222, log 80). -/
def Job.handHalo (j : Job) (s : State) (t : Task) (c : Nat) : State :=
  if !j.halo s t then s
  else
    let own := j.convRows s t c false
    let v := s.view c
    let bytes (r : Nat) : List Byte := ((j.src 1).rowRanges r).flatMap (fun p => (range p.2).map (fun k => v.byteG j.ctx (p.1 + k)))
    (t.cores.filter (fun d => decide (d ≠ c))).foldl (fun s d =>
      ((j.border s t d).mapIdx (fun i r => (i, r))).foldl (fun s e =>
        if own.contains e.2 then s.put (reserveOf d + j.rowSize * e.1) (bytes e.2) else s) s) s

/-! ## Tile streams (R187, R211, R215) -/

/-- A tile load of a core: the slot it belongs to and the ranges it takes. -/
abbrev Load := Nat × List (Nat × Nat)

/-- The loads of pass `p` of a product for a row group: A's tile of every row tile, then the stationary block of every column tile
(R211). -/
def Job.passLoads (j : Job) (s : State) (t : Task) (c p : Nat) (g : List Nat) (cols : List Nat) : List Load :=
  let k0 := 32 * p; let kn := min 32 (contraction j.b j.m - k0)
  let ks := max 1 (obKsplit j.b); let np := cdiv (contraction j.b j.m) 32
  let us := g.filter (fun u => let q := (j.unitRows u).2; decide (q * np / ks ≤ p ∧ p < (q + 1) * np / ks))
  let at_ (slot bat : Nat) (k : Nat) : Nat := (if j.op = 2 then (if j.sz slot 2 = 1 then 0 else bat) * j.sz slot 1 else 0) + k
  let cw := j.colWidth (t.widthOf c)
  let a := us.map (fun u =>
    let rows := (j.unitRows u).1
    (1, if j.op = 0xC then
        rows.flatMap (fun r => ((range kn).filterMap (fun k => (j.convRow s r (k0 + k)).map (fun e => (e.1, e.2, (k0 + k) % j.sz 1 0)))).flatMap
          (fun e => e.1.partRanges e.2.1 e.2.2 1))
      else
        let m := max 1 (j.sz 0 1); let bat := rows.headD 0 / m
        if obForm j.b = 2 then (range kn).flatMap (fun k => (j.src 1).partRanges (at_ 1 bat (k0 + k)) (rows.headD 0 % m) rows.length)
        else rows.flatMap (fun r => (j.src 1).partRanges (at_ 1 bat (r % m)) k0 kn)))
  let bat := (g.map j.batchOf).headD 0
  let b := if us = [] then [] else cols.map (fun n =>
    (2, if j.op = 0xC then
        (range kn).flatMap (fun k =>
          let x := k0 + k
          (j.src 2).partRanges (rowOf (j.m.desc 2) [0, x % j.sz 1 0, j.convTap x 0, j.convTap x 1, j.convTap x 2]) (cw * n) cw)
      else if obForm j.b = 1 then (range (min cw (j.sz 0 0 - cw * n))).flatMap (fun i => (j.src 2).partRanges (at_ 2 bat (cw * n + i)) k0 kn)
      else (range kn).flatMap (fun k => (j.src 2).partRanges (at_ 2 bat (k0 + k)) (cw * n) cw)))
  a ++ b

/-- Whole rows of a tensor. -/
def Job.rowsLoad (j : Job) (slot : Nat) (rows : List Nat) : Load := (slot, rows.flatMap (fun r => (j.src slot).rowRanges r))

/-- The coordinates within a gather block above dimension 0, by number. -/
def blockSub (h : List Byte) (r q : Nat) : List Nat :=
  (((range r).drop 1).foldl (fun (a : List Nat × Nat) i => (a.1 ++ [a.2 % clG h i], a.2 / clG h i)) ([], q)).1

/-- How many runs along dimension 0 a gather block has. -/
def blockRuns (h : List Byte) (r : Nat) : Nat := prod (((range r).drop 1).map (clG h))

/-- The table coordinates of a run of a block: its first element, and how many of its elements lie inside (R156). -/
def runAt (h table : List Byte) (blk sub : List Nat) : List Nat × Nat :=
  let c := blk.mapIdx (fun i b => b * clG h i + (if i = 0 then 0 else nth 0 sub (i - 1)))
  let ok := ((range (dsRank table)).drop 1).all (fun i => decide (nth 0 c i < dsSize table i))
  (c, if ok then min (clG h 0) (dsSize table 0 - nth 0 c 0) else 0)

/-- The part of a table block that an entry names, after clamping (R158, R187). -/
def Job.blockRanges (j : Job) (s : State) (e : Nat) : List (Nat × Nat) :=
  let h := j.m.at_ 2; let d := j.m.desc 1
  let blk := (s.clBlock j.ctx h d e).1
  (range (blockRuns h (dsRank d))).flatMap (fun q =>
    let (c, k) := runAt h d blk (blockSub h (dsRank d) q)
    (j.src 1).partRanges (rowOf d c) (nth 0 c 0) k)

/-- The loads of a unit of an operation that is no product, in the order of its passes. -/
def Job.unitLoads (j : Job) (s : State) (u : Nat) : List Load :=
  let (rows, q) := j.unitRows u
  match j.op with
  | 3 | 4 =>
    let h := rows.headD 0 / max 1 (j.sz 0 1); let lk := j.sz 2 1
    let keys (slot : Nat) (k : Nat) : Load := j.rowsLoad slot ((range (min 32 (lk - 32 * k))).map (fun i => h * lk + 32 * k + i))
    let tiles := range (cdiv lk 32)
    (if j.op = 4 then [j.rowsLoad 1 rows, j.rowsLoad 4 rows] else [j.rowsLoad 1 rows]) ++ tiles.map (keys 2)
      ++ tiles.flatMap (fun k => [keys 2 k, keys 3 k])
  | 8 =>
    let h := j.m.at_ 2; let n := 4 * (clDims h).length
    let es := (range (min 32 (clCount h - 32 * u))).map (fun k => 32 * u + k)
    [(2, [(clEntries h + n * 32 * u, n * es.length)]), (1, es.flatMap (fun e => j.blockRanges s e))]
  | 0xB =>
    let dim := bits (obP j.b 0) 2 0; let n := max 1 j.segments; let d := j.m.desc 1
    let ys := (range (min 32 (dsCountAll j.out - 32 * (u / n)))).map (fun i => 32 * (u / n) + i)
    [(1, ys.flatMap (fun y =>
      let c := coordsOf j.out (y / max 1 (j.sz 0 0)) (y % max 1 (j.sz 0 0))
      let lo := 8192 * (u % n)
      if dim = 0 then (j.src 1).partRanges (rowOf d c) lo 8192
      else ((range (j.sz 1 dim)).drop lo).take 8192 |>.flatMap (fun k => (j.src 1).partRanges (rowOf d (upd c dim (fun _ => k))) (nth 0 c 0) 1)))]
  | 0xD => [j.rowsLoad 1 (range (dsRows (j.m.desc 1)))]
  | _ =>
    (j.inputs.filter (fun k => decide (1 ≤ k ∧ k ≤ 4))).map (fun k =>
      (k, (if dsRows (j.m.desc k) = dsRows j.out then rows else [0]).flatMap (fun r => (j.src k).partRanges r (8192 * q) 8192)))

/-- The loads of a core of a mapped task in the order in which its execute side takes them (R187, R211). On the vector lane the weights
pass Rambler by (R80, R213); with REUSE 2 the border rows come by HALO (R217). -/
def Job.loads (j : Job) (s : State) (t : Task) (c : Nat) : List Load :=
  let aux (rows : List Nat) : List Load := (j.inputs.filter (5 ≤ ·)).map (fun k =>
    j.rowsLoad k (if dsSizes (j.m.desc k) = dsSizes j.out then rows else range (dsRows (j.m.desc k))))
  let rowsOf (g : List Nat) : List Nat := (g.map j.unitRows).flatMap (fun e => if e.2 = 0 then e.1 else [])
  if (j.lane s t.cores).isSome then
    [j.rowsLoad 1 (range (dsRows (j.m.desc 1)))] ++ (if t.unitsOf c = [] then [] else aux (range (dsRows j.out)))
  else if j.isProduct then
    let l := (j.groupsOf t c).flatMap (fun g => (j.colGroups (t.widthOf c) g.2).flatMap (fun cols =>
      (range (cdiv (contraction j.b j.m) 32)).flatMap (fun p => j.passLoads s t c p g.1 cols) ++ aux (rowsOf g.1)))
    if j.halo s t then
      let strips := (j.border s t c).flatMap (fun r => (j.src 1).rowRanges r)
      l.map (fun e => if e.1 = 1 then (1, e.2.filter (fun p => !strips.any (fun x => decide (x.1 ≤ p.1 ∧ p.1 < x.1 + x.2)))) else e)
    else l
  else (t.unitsOf c).flatMap (fun u => j.unitLoads s u ++ aux (rowsOf [u]))

/-- Whether a slot of a core comes by Blanket and not through its Rambler (R215). -/
def Job.blanketed (j : Job) (t : Task) (c slot : Nat) : Bool :=
  (j.channels t (clusterOf c)).any (fun e => decide (e.1 = slot) && e.2.contains c)

/-- The tile streams that a core's Rambler runs ahead through (R187, R215). -/
def Job.streams (j : Job) (s : State) (t : Task) (c : Nat) : List Load := (j.loads s t c).filter (fun l => !j.blanketed t c l.1)

/-- The ranges of an operand in the order in which a core consumes them (R216). -/
def Job.stream (j : Job) (s : State) (t : Task) (c slot : Nat) : List (Nat × Nat) :=
  ((j.loads s t c).filter (fun l => decide (l.1 = slot))).flatMap Prod.snd

/-- The bytes of ranges. -/
def rangeBytes (l : List (Nat × Nat)) : Nat := total (l.map Prod.snd)

/-- The part `[o, o + n)` of ranges laid end to end. -/
def cutRanges : List (Nat × Nat) → Nat → Nat → List (Nat × Nat)
  | [], _, _ => []
  | (a, m) :: r, o, n =>
    if n = 0 then []
    else if m ≤ o then cutRanges r (o - m) n
    else let k := min n (m - o); (a + o, k) :: cutRanges r 0 (n - k)

end Sys2Proof.Machine
end

