-- ==== Sys2Proof/Machine/Records.lean ====
section
/-! DEFINITION. Parameter records (R256 to R268): fields, chunks, landing windows, banks, and the waits of the Evile dies. -/

namespace Sys2Proof.Machine

/-! ## Fields (Tables 9.2, 9.3) -/

/-- VERSION of a parameter record. -/
def prVersion (b : List Byte) : Nat := field b 0 8
/-- WEIGHT. -/
def prWeight (b : List Byte) : Nat := field b 8 8
/-- GRAD. -/
def prGrad (b : List Byte) : Nat := field b 0x10 8
/-- STATE. -/
def prState (b : List Byte) : Nat := field b 0x18 8
/-- GSUM. -/
def prGsum (b : List Byte) : Nat := field b 0x20 8
/-- JOURNAL. -/
def prJournal (b : List Byte) : Nat := field b 0x28 8
/-- UMAT (0) or OMAT (1). -/
def prMat (b : List Byte) (k : Nat) : Nat := field b (0x30 + 8 * k) 8
/-- GROUP. -/
def prGroup (b : List Byte) : Nat := field b 0x40 4 % 256
/-- SPARSE. -/
def prSparse (b : List Byte) : Bool := bit (field b 0x40 4) 8
/-- S: slots of the landing window. -/
def prSlots (b : List Byte) : Nat := 2 ^ bits (field b 0x40 4) 12 9
/-- FIRST. -/
def prFirst (b : List Byte) : Nat := field b 0x44 2
/-- R: devices of the group. -/
def prR (b : List Byte) : Nat := field b 0x46 2 % 16384 + 1
/-- OWNER. -/
def prOwner (b : List Byte) : Nat := field b 0x48 2 % 16384
/-- JROWS. -/
def prJrows (b : List Byte) : Nat := field b 0x4C 4
/-- GRAD_INC. -/
def prInc (b : List Byte) : Nat := field b 0x50 4
/-- A Waymark of the record: 0 GRAD, 1 CREDIT, 2 FILL, 3 READY, 4 PULLED, 5 XREADY, 6 ODONE. -/
def prMark (b : List Byte) (k : Nat) : Nat := field b (0x54 + 4 * k) 4 % 2 ^ 20

/-- RULE of a group entry. -/
def geRule (e : List Nat) : Nat := bits (nth 0 e 0) 1 0
/-- VALID. -/
def geValid (e : List Nat) : Bool := bit (nth 0 e 0) 2
/-- An FP32 value of a group entry by its word. -/
def geVal (e : List Nat) (k : Nat) : Nat := nth 0 e k

/-- The rank of this device in a record's group (Table 9.3). -/
def State.rankOf (s : State) (b : List Byte) : Nat := s.nxp.device - prFirst b % 32768

/-- The key of a record: its context and its version record's address. -/
def recKey (x a : Nat) : Nat := x * 2 ^ 64 + a

/-- A record. -/
def State.record (s : State) (x a : Nat) : Option Rec := mfind s.evl.recs (recKey x a)
/-- Replaces a record. -/
def State.setRec (s : State) (x a : Nat) (r : Rec) : State := { s with evl := { s.evl with recs := mput s.evl.recs (recKey x a) r } }
/-- Changes a record. -/
def State.modRec (s : State) (x a : Nat) (f : Rec → Rec) : State :=
  match s.record x a with
  | some r => s.setRec x a (f r)
  | none => s

/-! ## Memory of a record -/

/-- Bytes of a context's memory as the dies reach it; translations were made when the record passed R263. -/
def State.bytesG (s : State) (x a n : Nat) : List Byte := (range n).map (fun k => s.byteG x (a + k))
/-- A word of 4 bytes. -/
def State.word (s : State) (x a : Nat) : Nat := fromBytes (s.bytesG x a 4)
/-- The physical offset of an offset in a context's mapping; no check is made. -/
def State.placeG (s : State) (x o : Nat) : Option Nat := ((s.ctx x).bind (fun c => lookupPage c.pages o)).map Prod.fst
/-- Writes of a die, unit by unit: no access check is made again. -/
def State.putG (s : State) (x a : Nat) (bs : List Byte) : State :=
  ((units (localOf a) bs.length).foldl (fun (r : State × List Byte) u =>
    (match s.placeG x u.1 with
      | some pa => r.1.put pa (r.2.take u.2)
      | none => r.1, r.2.drop u.2)) (s, bs)).1
/-- Writes 4-byte words. -/
def State.putWords (s : State) (x a : Nat) (vs : List Nat) : State := s.putG x a (vs.flatMap (fun v => toBytes 4 v))

/-- Writes a row of a tensor: its elements and the scale bytes of its blocks. -/
def State.putRow (s : State) (x : Nat) (t : Src) (r : Nat) (es scales : List Nat) : State :=
  let s := (rowPieces t.d r).foldl (fun (s : State) p => match partBytes s x t p 0 es with
    | some (a, bs) => s.putG x a bs
    | none => s) s
  s.putG x (fromBase (dsScale t.d) (r * dsRowScales t.d : Nat)) (scales.map (BitVec.ofNat 8 ·))

/-- The weight's descriptor. -/
def State.weightOf (s : State) (x : Nat) (b : List Byte) : List Byte := s.peek x (prWeight b) 128
/-- Elements of a chunk: 16,384, or whole rows of a sparse record (R266). -/
def chunkLen (d : List Byte) (sparse : Bool) : Nat :=
  if sparse then 16384 / max 1 (dsSize d 0) * dsSize d 0 else 16384
/-- NC: chunks of a round (R266). -/
def chunkCount (d : List Byte) (sparse : Bool) : Nat := cdiv (dsCountAll d) (max 1 (chunkLen d sparse))

/-! ## Uncorrectable words (R405) -/

/-- The first uncorrectable word that ranges of a context's memory meet. -/
def State.metBad (s : State) (x : Nat) (l : List (Nat × Nat)) : Option Nat :=
  if s.bad = [] then none
  else l.findSome? (fun r => (units (localOf r.1) r.2).findSome? (fun u =>
    (s.placeG x u.1).bind (fun pa => s.bad.find? (fun b => decide (b < pa + u.2) && decide (pa < b + wordBytes b)))))

/-! ## Landing memory (R256, R267) -/

/-- Where a byte of a landing slot stands: a slot is known by the Waymark that its signal adds to (log 44). -/
def landingKey (x fill k off : Nat) : Nat := (x * 2 ^ 20 + (fill + k) % 2 ^ 20) * 2 ^ 17 + off
/-- The ADDR of a packet into a landing slot of the owner's window: no offset of the local map. -/
def landingAddr (fill k off : Nat) : Nat := 2 ^ 63 + ((fill + k) % 2 ^ 20) * 2 ^ 17 + off

/-- Slots of a die's landing memory that windows hold (Table 9.7). -/
def State.landingUsed (s : State) (die : Nat) : Nat :=
  total ((s.evl.recs.filter (fun e => e.2.owner && decide (e.2.die = die))).map (fun e => prSlots e.2.bytes))

/-- Whether a landing slot belongs to a window of a context. -/
def State.landingHeld (s : State) (x id : Nat) : Bool :=
  s.evl.recs.any (fun e => decide (e.2.ctx = x) && e.2.owner
    && decide (prMark e.2.bytes 2 ≤ id ∧ id < prMark e.2.bytes 2 + prSlots e.2.bytes))

/-! ## The check of an update table (R263) -/

/-- A word of the group entry that the check uses: of the generation tagged with the latched step, else of the pending entry. -/
def State.checkEntry (s : State) (x group : Nat) : List Nat :=
  match s.ctx x with
  | none => []
  | some c =>
    match c.step.bind (fun v => c.gens.find? (fun g => decide (g.step = v))) with
    | some g => mget [] g.entries group
    | none => mget [] c.groups group

/-- Whether an address and `n` bytes lie in the slow tier of this device. -/
def State.inSlow (s : State) (a n : Nat) : Bool :=
  s.isHere a && oneRegion (localOf a) n && decide (regionOf (localOf a) = .slow)

/-- The sizes of a bank's arrays in bytes, in order (Table 9.4). -/
def bankArrays (rule : Nat) (sparse : Bool) (d : List Byte) : List Nat :=
  let n := dsCountAll d; let rows := dsRows d
  let l := if sparse then [4 * rows] else []
  match rule with
  | 0 => [4 * n, 4 * n] ++ l
  | 1 => [4 * n, 4 * n, 4 * n]
  | _ => [4 * n, n, rows * cdiv (dsSize d 0) 32, n, rows * cdiv (dsSize d 0) 32] ++ l

/-- The offset of array `k` in a bank: after the header, each on a 64-byte boundary (R265). That an FB32 array's scales start on their own
boundary, and that a bank's size is rounded up to 64 bytes, is the model's choice (log 44). -/
def bankOff (l : List Nat) (k : Nat) : Nat := (l.take k).foldl (fun a n => a + roundUp n 64) 64
/-- The size of a bank. -/
def bankSize (l : List Nat) : Nat := bankOff l l.length

/-! ## Chunks of a contribution and slots of a version record (R266, R249) -/

/-- The elements of chunk `c`: first and number. -/
def chunkAt (d : List Byte) (sparse : Bool) (c : Nat) : Nat × Nat :=
  let l := chunkLen d sparse; (c * l, min l (dsCountAll d - c * l))

/-- The coordinates of element `e` of a tensor in element order. -/
def coordsAt (d : List Byte) (e : Nat) : List Nat := coordsOf d (e / max 1 (dsSize d 0)) (e % max 1 (dsSize d 0))

/-- Sets STATE of slot `j` of a version record, and its TAG where one is given. -/
def State.setSlot (s : State) (x a j st : Nat) (tag : Option Nat) : State :=
  let s := match tag with
    | some t => s.poke x (a + 0x10 + 4 * j) (toBytes 4 t)
    | none => s
  let w := field (s.peek x (a + 0x18) 4) 0 4
  let old := bits w (2 * j + 1) (2 * j)
  s.poke x (a + 0x18) (toBytes 4 (w - old * 4 ^ j + st * 4 ^ j))

/-! ## The waits of the Evile dies (R267, R268, R271, R278, R279, R300, R302) -/

/-- The valid slot of a version record with the newer tag; none where none is valid. -/
def vrNewest (v : List Byte) : Option Nat :=
  match (range 2).filter (fun i => decide (vrState v i = 1)) with
  | [] => none
  | i0 :: rest => some (rest.foldl (fun c i => if newer (vrTag v i) (vrTag v c) then i else c) i0)
/-- The slot that the next version goes to: an empty one, or the one with the older tag (R251). -/
def vrNext (v : List Byte) : Nat :=
  match vrNewest v with
  | some c => 1 - c
  | none => 0

/-- The waits that a record's die makes now: which Waymark (0 GRAD, 1 CREDIT, 2 FILL, 3 READY, 4 PULLED, 6 ODONE of Table 9.3, 7 the
version Waymark of the slot to be written), its identifier, and the threshold; none for 0, which every count meets. -/
def State.waitsOf (s : State) (x : Nat) (r : Rec) : List (Nat × Nat × Nat) :=
  let b := r.bytes
  let nc := chunkCount (s.weightOf x b) (prSparse b)
  let v := s.peek x (prVersion b) 64
  let i := r.sent * prR b + s.rankOf b
  let slot := (7, vrMark v (vrNext v), vrAcq v (vrNext v))
  let full := decide (r.taken = (r.rounds + 1) * nc * prR b)
  ([(0, prMark b 0, prInc b * (r.sent / max 1 nc + 1)), (1, prMark b 1, i + 1)]
    ++ (if !r.owner then [(3, prMark b 3, r.pulled + 1), slot]
      else match r.phase with
        | .taking => if full then [slot, (4, prMark b 4, (prR b - 1) * (r.published - 1))]
            else [(2, prMark b 2 + r.taken % prSlots b, r.taken / prSlots b + 1)]
        | .phaseB => [(6, prMark b 6, r.layers)]
        | .computed => [])).filter (fun n => decide (n.2.2 ≠ 0))

/-- The key under which a wait on an identifier of a context stands: at its home where that is on this device. -/
def State.waitKey (s : State) (x id : Nat) : Nat :=
  match s.home (wkey x id) with
  | .here k _ => k
  | _ => wkey x id

/-- Makes the waits that a record needs and has not made, and ends those it needs no more; a record that has failed waits for nothing. -/
def State.armRecord (s : State) (x a : Nat) : State :=
  match s.record x a with
  | none => s
  | some r =>
    let need := if r.failed then [] else s.waitsOf x r
    let keep (w : Wait) : Bool := match w.who with
      | .evile x' a' m => !decide (x' = x ∧ a' = a)
          || need.any (fun n => decide (n.1 = m ∧ w.key = s.waitKey x n.2.1 ∧ w.threshold = n.2.2))
      | _ => true
    let s := s.modWmk (fun m => { m with waits := m.waits.filter keep })
    need.foldl (fun s n =>
      if s.wmk.waits.any (fun w => decide (w.who = .evile x a n.1)) then s
      else s.addWait (wkey x n.2.1) n.2.2 (.evile x a n.1)) s

/-- Whether a record's wait on one of its Waymarks is released, or is met now (R302). -/
def State.dieMet (s : State) (x : Nat) (r : Rec) (mark : Nat) : Bool :=
  ((s.waitsOf x r).filter (fun n => decide (n.1 = mark))).all (fun n =>
    s.metNow (wkey x n.2.1) n.2.2 || s.wmk.waits.any (fun w => w.released
      && decide (w.who = .evile x (prVersion r.bytes) mark ∧ w.key = s.waitKey x n.2.1 ∧ w.threshold = n.2.2)))

/-- The count of a Waymark of a context at its home on this device. -/
def State.countHere (s : State) (x id : Nat) : Nat :=
  match s.home (wkey x id) with
  | .here _ b => b.count
  | _ => 0

/-- Adds of an Evile die to a Waymark of a record (R264, R267, R268, R271, R279). -/
def State.dieAdd (s : State) (x : Nat) (r : Rec) (id inc : Nat) : State := (s.sendAdd (.evile r.die) (wkey x id) inc none).1

/-- A record's update fails with a code: it commits no version, and its reply names it (R281, R365, R405). -/
def State.failRecord (s : State) (x a code : Nat) : State :=
  if (s.record x a).isNone then s
  else ((s.modRec x a (fun r => { r with failed := true, pulling := none })).armRecord x a).event x code (toBytes 8 a)

/-- A die's work for a record, on ranges that it reads and ranges that it writes: where a word it reads, or one that it writes only in
part, is uncorrectable, nothing of the work is done, the word is logged and recorded, and the record's update fails (R405). -/
def State.dieWork (s : State) (x a : Nat) (reads writes : State → List (Nat × Nat)) (f : State → State) : State :=
  if s.bad = [] then f s
  else
    match (s.metBad x (reads s)).or ((f s).metBad x (writes s)) with
    | some b => (s.noteAcc (agentOf x) (.bad b)).failRecord x a 0x701
    | none => f s

/-- Publication: 1 is added to READY_WMK of every rank but the owner's (Table 9.5 step 7, R280). -/
def State.publish (s : State) (x : Nat) (r : Rec) : State :=
  let b := r.bytes
  ((range (prR b)).filter (fun k => decide (k ≠ prOwner b))).foldl (fun s k =>
    (s.request (.record (recKey x (prVersion b))) r.die x 4 (prFirst b + k) 8 (prMark b 3 + 2 ^ 20 * x) false (toBytes 8 1)).1) s

end Sys2Proof.Machine
end

