-- ==== Sys2Proof/Machine/Rules.lean ====
section
/-! DEFINITION. The update rules (R257, R265, R269 to R276): the values of one update, its arithmetic, what it writes, the journal. -/

namespace Sys2Proof.Machine

/-! ## The update rules (R257, R269 to R275) -/

/-- The values of one update: the generation's entry, the count t, and the offsets it works at. -/
structure Upd where
  x : Nat
  r : Rec
  d : List Byte
  v : List Byte
  e : List Nat
  tag : Nat
  cur : Nat
  new_ : Nat
  t : Nat
  deriving DecidableEq, Repr

/-- The bytes of the record. -/
def Upd.b (u : Upd) : List Byte := u.r.bytes
/-- Arrays of a bank. -/
def Upd.arrays (u : Upd) : List Nat := bankArrays (geRule u.e) (prSparse u.b) u.d
/-- The address of bank `j`; a sparse record has one (R265). -/
def Upd.bank (u : Upd) (j : Nat) : Nat := prState u.b + (if prSparse u.b then 0 else j * bankSize u.arrays)
/-- The address of array `k` of bank `j`. -/
def Upd.arr (u : Upd) (j k : Nat) : Nat := u.bank j + bankOff u.arrays k
/-- Row length. -/
def Upd.s0 (u : Upd) : Nat := max 1 (dsSize u.d 0)
/-- The rows that the update computes: those present, or all (R274). -/
def Upd.rows (u : Upd) : List Nat := if prSparse u.b then (u.r.present.mergeSort (fun a b => decide (a ≤ b))) else range (dsRows u.d)

/-- The weight's descriptor at slot `j` of its version record (R249). -/
def Upd.slot (u : Upd) (j : Nat) : List Byte :=
  let delta : Int := (field u.v (8 * j) 8 : Int) - (field u.v 0 8 : Int)
  let move (o : Nat) : List Byte := toBytes 8 (let a := field u.d o 8; if a = 0 then 0 else fromBase a delta)
  move 0 ++ slice u.d 8 0x58 ++ move 0x60 ++ slice u.d 0x68 24

/-- FP32 values of a row of an array of words. -/
def Upd.wordsOf (u : Upd) (s : State) (j k r : Nat) : List Nat :=
  (range u.s0).map (fun c => s.word u.x (u.arr j k + 4 * (r * u.s0 + c)))
/-- FP32 values of a row of an FB32 array whose elements are array `k` and whose scales are array `k + 1` (R273). -/
def Upd.fbOf (u : Upd) (s : State) (j k r : Nat) : List Nat :=
  (range u.s0).map (fun c =>
    let e := (s.byteG u.x (u.arr j k + r * u.s0 + c)).toNat
    let sc := (s.byteG u.x (u.arr j (k + 1) + r * cdiv u.s0 32 + c / 32)).toNat
    toF32 (elemValue 3 3 e sc 0))

/-- A row's w, m, v before the update: 0 for v where the rule has none. -/
def Upd.old (u : Upd) (s : State) (r : Nat) : List Nat × List Nat × List Nat :=
  let w := u.wordsOf s u.cur 0 r
  match geRule u.e with
  | 0 => (w, u.wordsOf s u.cur 1 r, w.map (fun _ => 0))
  | 1 => (w, u.wordsOf s u.cur 1 r, u.wordsOf s u.cur 2 r)
  | _ => (w, u.fbOf s u.cur 1 r, u.fbOf s u.cur 3 r)

/-- The address of a row's last-touch word. -/
def Upd.touchAt (u : Upd) (r : Nat) : Nat := u.arr u.cur (u.arrays.length - 1) + 4 * r
/-- Δ of a row (R274). -/
def Upd.delta (u : Upd) (s : State) (r : Nat) : Nat :=
  if prSparse u.b then (u.t + 2 ^ 32 - s.word u.x (u.touchAt r)) % 2 ^ 32 else 1

/-- g of the computed rows: scaled, then clipped (R269). -/
def Upd.grads (u : Upd) (s : State) : List (Nat × List Nat) :=
  let gs := geVal u.e 11; let clip := geVal u.e 9
  let g := u.rows.map (fun r => (r, (range u.s0).map (fun c => f32mul (s.word u.x (prGsum u.b + 4 * (r * u.s0 + c))) gs)))
  if FV.zero.lt (ofF32 clip) then
    let nrm := f32sqrt (rowSumSq ((g.flatMap Prod.snd).map ofF32))
    if (ofF32 clip).lt (ofF32 nrm) then
      let f := f32div clip nrm
      g.map (fun e => (e.1, e.2.map (fun v => f32mul v f)))
    else g
  else g

/-- One element of rule 0, of rule 2, or of phase A of rule 1: m, v, u and w after it (R270, R271, R273). -/
def Upd.elem (u : Upd) (dl m v w g : Nat) : Nat × Nat × Nat × Nat :=
  let one := 0x3F800000
  let eta := geVal u.e 1; let lam := geVal u.e 2; let b1 := geVal u.e 3; let b2 := geVal u.e 4; let eps := geVal u.e 5
  let gain := geVal u.e 10
  let q := f32pw (f32sub one (f32mul eta lam)) dl
  let eg := f32mul eta gain
  if geRule u.e = 0 then
    let m' := f32add (f32mul (f32pw b1 dl) m) g
    (m', 0, 0, f32sub (f32mul q w) (f32mul eg m'))
  else
    let p1 := if geRule u.e = 1 then b1 else f32pw b1 dl
    let p2 := if geRule u.e = 1 then b2 else f32pw b2 dl
    let m' := f32add (f32mul p1 m) (f32mul (f32sub one b1) g)
    let v' := f32add (f32mul p2 v) (f32mul (f32sub one b2) (f32mul g g))
    let mh := f32div m' (f32sub one (f32pw b1 u.t))
    let vh := f32div v' (f32sub one (f32pw b2 u.t))
    let uu := f32div mh (f32add (f32sqrt vh) eps)
    (m', v', uu, f32sub (f32mul q w) (f32mul eg uu))

/-- sf of phase C (R271). -/
def Upd.shape (u : Upd) : Nat :=
  let a := f32nat (dsSize u.d 0); let b := f32nat (dsSize u.d 1)
  match bits (nth 0 u.e 0) 9 8 with
  | 0 => 0x3F800000
  | 1 => f32sqrt (f32max 0x3F800000 (f32div b a))
  | _ => f32sqrt (f32max a b)

/-- w of phase C (R271). -/
def Upd.phaseC (u : Upd) (w o : Nat) : Nat :=
  let eta := geVal u.e 1
  let es := f32mul (f32mul eta (geVal u.e 10)) u.shape
  f32sub (f32mul (f32sub 0x3F800000 (f32mul eta (geVal u.e 2))) w) (f32mul es o)

/-- The FB32 bytes of a row: elements and scales (R54, R273). -/
def fbRow (vs : List Nat) : List Byte × List Byte :=
  (chunks 32 vs).foldl (fun (a : List Byte × List Byte) l =>
    let q := quantBlock 3 3 0 (fun _ => none) (l.map ofF32)
    (a.1 ++ q.2.1.map (BitVec.ofNat 8 ·), a.2 ++ [BitVec.ofNat 8 q.1])) ([], [])

/-- Writes w into slot `j` through WEIGHT's layout, converted (R275). -/
def Upd.writeSlot (u : Upd) (s : State) (r : Nat) (w : List Nat) : State :=
  let t : Src := ⟨u.slot u.new_, if dsShard u.d = 0 then [] else s.peek u.x (dsShard u.d) 64, none⟩
  let c := nth 0 u.e 0
  let j : Job := { g := 0, i := 0, ctx := u.x, who := agentOf u.x, b := [], m := [], saved := none
                   step := (u.tag + 1) % 2 ^ 32, seed := ((s.ctx u.x).map Ctx.seed).getD 0 }
  let (es, sc, _) := j.encodeRow s t (bits c 11 11) (bits c 10 10) r w
  s.putRow u.x t r es sc

/-- Bytes of an entry of the journal: the row number, the row's arrays in order, the last touch, to a 64-byte boundary (R276, log 47). -/
def journalEntry (rule s0 : Nat) : Nat := roundUp (8 + (if rule = 0 then 8 * s0 else 4 * s0 + 2 * (s0 + cdiv s0 32))) 64
/-- The address of the journal's entry `k`. -/
def Upd.entry (u : Upd) (k : Nat) : Nat := prJournal u.b + 64 + k * journalEntry (geRule u.e) u.s0

/-- The bytes of a row's arrays in the order of Table 9.4. -/
def Upd.rowArrays (u : Upd) (m v w : List Nat) : List (List Byte) :=
  let words (l : List Nat) := l.flatMap (fun v => toBytes 4 v)
  match geRule u.e with
  | 0 => [words w, words m]
  | 1 => [words w, words m, words v]
  | _ => [words w, (fbRow m).1, (fbRow m).2, (fbRow v).1, (fbRow v).2]

/-- Writes a row's arrays into bank `j`, each at the row's place. -/
def Upd.writeBank (u : Upd) (s : State) (j r : Nat) (l : List (List Byte)) : State :=
  (l.mapIdx (fun k bs => (k, bs))).foldl (fun s e => s.putG u.x (u.arr j e.1 + r * e.2.length) e.2) s

/-- Writes a row's new state: to bank j, or to the journal (R276). -/
def Upd.writeRow (u : Upd) (s : State) (k r : Nat) (m v w : List Nat) : State :=
  let l := u.rowArrays m v w
  if prSparse u.b then s.putG u.x (u.entry k) (toBytes 4 r ++ l.flatten ++ toBytes 4 u.t)
  else u.writeBank s u.new_ r l

/-- Bytes of a row of each of a bank's arrays but the last touches, in order (Table 9.4). -/
def Upd.rowLens (u : Upd) : List Nat :=
  match geRule u.e with
  | 0 => [4 * u.s0, 4 * u.s0]
  | 1 => [4 * u.s0, 4 * u.s0, 4 * u.s0]
  | _ => [4 * u.s0, u.s0, cdiv u.s0 32, u.s0, cdiv u.s0 32]

/-- The ranges of the updated rows in bank `j`. -/
def Upd.bankRanges (u : Upd) (j : Nat) : List (Nat × Nat) :=
  u.rows.flatMap (fun r => u.rowLens.mapIdx (fun k n => (u.arr j k + r * n, n)))

/-- The ranges of whole tensors' rows in slot `j`. -/
def Upd.slotRanges (u : Upd) (j : Nat) (rows : List Nat) : List (Nat × Nat) := rows.flatMap (⟨u.slot j, [], none⟩ : Src).rowRanges

/-- The ranges of the updated rows of U or O. -/
def Upd.matRanges (u : Upd) (s : State) (k : Nat) : List (Nat × Nat) :=
  u.rows.flatMap (⟨s.peek u.x (prMat u.b k) 128, [], none⟩ : Src).rowRanges

/-- What the computation of an update reads: the version record, the sum, the bank, and a sparse record's slot and last touches (R269 to
R274). -/
def Upd.reads (u : Upd) (_ : State) : List (Nat × Nat) :=
  [(prVersion u.b, 64), (u.bank u.cur, 4)] ++ u.rows.map (fun r => (prGsum u.b + 4 * (r * u.s0), 4 * u.s0)) ++ u.bankRanges u.cur
    ++ (if prSparse u.b then u.rows.map (fun r => (u.touchAt r, 4)) ++ u.slotRanges u.cur (range (dsRows u.d)) else [])

/-- What the computation of an update writes (R270 to R276). -/
def Upd.writes (u : Upd) (s : State) : List (Nat × Nat) :=
  (if prSparse u.b then (prJournal u.b, 64) :: u.rows.mapIdx (fun k _ => (u.entry k, journalEntry (geRule u.e) u.s0))
      ++ u.slotRanges u.new_ (range (dsRows u.d))
    else (u.bank u.new_, 64) :: u.bankRanges u.new_)
    ++ (if geRule u.e = 1 then u.matRanges s 0 else if prSparse u.b then [] else u.slotRanges u.new_ u.rows)

/-- Bytes of a range copied within the context's memory. -/
def State.copyG (s : State) (x src dst n : Nat) : State := s.putG x dst (s.bytesG x src n)

/-- Copies slot cur into slot j, unchanged: data footprint and scales. -/
def Upd.copySlot (u : Upd) (s : State) : State :=
  let a := u.slot u.cur; let b := u.slot u.new_
  let f := dsFoot a; let h := dsFoot b
  let s := s.copyG u.x (deviceOf (dsBase a) * 2 ^ 48 + f.1.toNat) (deviceOf (dsBase b) * 2 ^ 48 + h.1.toNat) (f.2 - f.1 + 1).toNat
  if dsBlk u.d = 0 then s else s.copyG u.x (dsScale a) (dsScale b) (dsRows u.d * dsRowScales u.d)

/-- The update of a record, from its version record and the held generation (R251, R261, R268). -/
def State.updOf (s : State) (x a : Nat) (r : Rec) : Option Upd :=
  let v := s.peek x a 64
  match vrNewest v with
  | none => none
  | some cur =>
    let tag := vrTag v cur
    match (s.ctx x).bind (fun c => c.gens.find? (fun g => decide (g.step = tag))) with
    | none => none
    | some g =>
      let u : Upd := ⟨x, r, s.weightOf x r.bytes, v, mget [] g.entries (prGroup r.bytes), tag, cur, 1 - cur, 0⟩
      some { u with t := (s.word x (u.bank cur) + 1) % 2 ^ 32 }

/-- The journal's header: the count of rows, the version, and the count t of the update (R276, log 47). -/
def Upd.journalHeader (u : Upd) (n t : Nat) : List Byte := toBytes 4 n ++ toBytes 4 ((u.tag + 1) % 2 ^ 32) ++ toBytes 4 t ++ List.replicate 52 0

/-- Applies the journal to the bank (Table 9.5 step 6); an empty one changes nothing. -/
def Upd.applyJournal (u : Upd) (s : State) : State :=
  let n := s.word u.x (prJournal u.b)
  if n = 0 then s
  else
    let s := (range n).foldl (fun (s : State) k =>
      let e := u.entry k
      let r := s.word u.x e
      let (s, o) := (u.rowLens.mapIdx (fun i l => (i, l))).foldl (fun (a : State × Nat) il =>
        (a.1.putG u.x (u.arr u.cur il.1 + r * il.2) (a.1.bytesG u.x a.2 il.2), a.2 + il.2)) (s, e + 4)
      s.putG u.x (u.touchAt r) (s.bytesG u.x o 4)) s
    s.putG u.x (u.bank u.cur) (s.bytesG u.x (prJournal u.b + 8) 4)

end Sys2Proof.Machine
end

