-- ==== Sys2Proof/Machine/Opening.lean ====
section
/-! DEFINITION. The check of an update table and what a record does when it first passes (R262 to R264, R280). -/

namespace Sys2Proof.Machine

/-! ## The check of an update table (R263) -/

/-- The size of a journal of `n` rows. -/
def journalSize (rule : Nat) (d : List Byte) (n : Nat) : Nat := 64 + n * journalEntry rule (max 1 (dsSize d 0))

/-- Whether a record keeps the rules of Table 9.3 and R263 that need no translation, with the structures it names read: weight,
gradient, version record, U and O. -/
def State.recordOk (s : State) (x : Nat) (b w g v : List Byte) (um om : List Byte) : Bool :=
  let e := s.checkEntry x (prGroup b)
  let rule := geRule e; let sp := prSparse b
  let dev := s.nxp.device
  let own := decide (s.rankOf b = prOwner b)
  let log2 := bits (field b 0x40 4) 12 9
  let arr := bankArrays rule sp w
  decide (prVersion b % 64 = 0) && s.isHere (prVersion b) && inHbm (localOf (prVersion b)) 64
    && (range 2).all (fun k => inHbm (field v (8 * k) 8) 1) && decide (dev ≠ 0x7FFF) && decide (s.nxp.hall = prFirst b / 32768) && decide (prFirst b % 32768 ≤ dev) && decide (s.rankOf b < prR b)
    && decide (prOwner b < prR b) && decide (field b 0x46 2 < 16384 ∧ field b 0x48 2 < 16384) && zeroed b 0x4A 2 && zeroed b 0x70 16
    && decide (bits (field b 0x40 4) 31 13 = 0) && decide (4 ≤ log2 ∧ log2 ≤ 9) && decide (1 ≤ prInc b)
    && (range 7).all (fun k => decide (field b (0x54 + 4 * k) 4 < 2 ^ 20))
    && decide (dsBase w % 2 ^ 48 = field v 0 8 % 2 ^ 48) && versionRecOk v
    && !typeInt (dsType w) && decide (dsBlk w ≠ 3) && pairOk (dsBlk w) (dsType w)
    && decide (dsType g = 0 ∨ dsType g = 1) && decide (dsBlk g = 0) && decide (dsSizes g = dsSizes w)
    && (decide (rule ≠ 1) || decide (dsRank w = 2)) && (!sp || decide (rule ≠ 1 ∧ dsType g = 1 ∧ dsSize w 0 ≤ 16384))
    && (if own then
        decide (prState b % 64 = 0) && s.inSlow (prState b) ((if sp then 1 else 2) * bankSize arr) && s.inSlow (prGsum b) (4 * dsCountAll w)
          && (if sp then s.inSlow (prJournal b) (journalSize rule w (prJrows b)) else decide (prJournal b = 0 ∧ prJrows b = 0))
          && (if rule = 1 then decide (dsType um = 0 ∧ dsBlk um = 0 ∧ dsType om = 0 ∧ dsBlk om = 0 ∧ dsRank um = 2 ∧ dsRank om = 2)
              && decide (dsSizes um = dsSizes w ∧ dsSizes om = dsSizes w)
            else decide (prMat b 0 = 0 ∧ prMat b 1 = 0))
      else zeroed b 0x18 40 && decide (prJrows b = 0))

/-- Reads a structure, or nothing at address 0. -/
def State.ldOpt (s : State) (w : Who) (a n : Nat) : Ld (List Byte) := if a = 0 then pure [] else s.ld w a n

/-- The local ranges of an owner's banks, sum and journal, which lie on one die (R263, R264). -/
def State.stateRanges (s : State) (x : Nat) (b w : List Byte) : List (Nat × Nat × Bool) :=
  let rule := geRule (s.checkEntry x (prGroup b)); let sp := prSparse b
  [(localOf (prState b), (if sp then 1 else 2) * bankSize (bankArrays rule sp w), true), (localOf (prGsum b), 4 * dsCountAll w, true)]
    ++ (if sp then [(localOf (prJournal b), journalSize rule w (prJrows b), true)] else [])

/-- The local ranges that a record's die reaches, each with whether it writes them: slot data and scales, gradient, U and O, and in the slow
tier the banks, the sum and the journal. -/
def State.recordRanges (s : State) (x : Nat) (b w g v um om : List Byte) : List (Nat × Nat × Bool) :=
  let foot (st : Bool) (d : List Byte) : List (Nat × Nat × Bool) :=
    (dsFoot d :: (if dsBlk d = 0 then [] else [dsScaleFoot d])).map (fun f => (f.1.toNat, (f.2 - f.1 + 1).toNat, st))
  let slot (k : Nat) : List (Nat × Nat × Bool) :=
    (foot true w).map (fun f => ((f.1 : Int) + (field v (8 * k) 8 % 2 ^ 48 : Nat) - (field v 0 8 % 2 ^ 48 : Nat)).toNat |> (·, f.2))
  slot 0 ++ slot 1 ++ foot false g ++
    (if s.rankOf b ≠ prOwner b then []
    else s.stateRanges x b w
      ++ (if geRule (s.checkEntry x (prGroup b)) = 1 then foot true um ++ foot false om else []))

/-- Translates a range, page by page: the physical offsets, or the access that fails. -/
def State.translate (s : State) (w : Who) (r : Nat × Nat × Bool) : Ld (List Nat) :=
  ((r.1 :: (range (r.2.1 / 65536 + 1)).map (fun k => (r.1 / 65536 + k + 1) * 65536)).filter (fun o => decide (o < r.1 + r.2.1))).mapM (fun o =>
    match s.check w o r.2.2 with
    | .ok pa => .ok pa
    | a => .error (.acc a))

/-- The Evile dies that hold physical offsets of the slow tier. -/
def diesOf (pas : List Nat) : List Nat := ((pas.filter (fun pa => decide (regionOf pa = .slow))).map evileOf).dedup

/-- One record of the table is checked and its translations are made: its bytes and its die (R263, R264). -/
def State.checkRecord (s : State) (x : Nat) (b : List Byte) : Ld (List Byte × Nat) := do
  let w := agentOf x
  let tensor (a : Nat) : Ld (List Byte) :=
    match s.ldDesc w a false with
    | .ok (d, _) => .ok d
    | .error (.code _) => .error (.code 0x604)
    | .error e => .error e
  let opt (a : Nat) : Ld (List Byte) := if a = 0 then pure [] else tensor a
  let wt ← tensor (prWeight b)
  let g ← tensor (prGrad b)
  let v ← s.ld w (prVersion b) 64
  let um ← opt (prMat b 0)
  let om ← opt (prMat b 1)
  Ld.need (s.recordOk x b wt g v um om) 0x604
  let _ ← (s.recordRanges x b wt g v um om).mapM (s.translate w)
  let own := decide (s.rankOf b = prOwner b)
  let pas ← (if own then (s.stateRanges x b wt).mapM (s.translate w) else pure [])
  let dies := diesOf pas.flatten
  Ld.need (!own || decide (dies.length = 1)) 0x604
  pure (b, if own then dies.headD 0 else if s.evl.lost.contains 0 then 1 else 0)

/-- A journal left by an update that committed is applied again before anything else of its record (R280). -/
def State.replayJournal (s : State) (x : Nat) (r : Rec) : State :=
  let b := r.bytes; let v := s.peek x (prVersion b) 64
  let tag := s.word x (prJournal b + 4)
  match (if prSparse b && r.owner then vrHolds v tag else none) with
  | none => s
  | some cur =>
    (⟨x, r, s.weightOf x b, v, s.checkEntry x (prGroup b), tag, cur, 1 - cur, 0⟩ : Upd).applyJournal s

/-- A record that has passed: a new one takes its window and publishes its newer tag; one that passed before goes on (R263,
R264, R280). -/
def State.openRecord (s : State) (x index : Nat) (e : List Byte × Nat) : State :=
  let a := prVersion e.1
  let own := decide (s.rankOf e.1 = prOwner e.1)
  let step := (s.ctx x).bind Ctx.step
  match s.record x a with
  | some r => (s.setRec x a { r with bytes := e.1, index := index, named := step }).armRecord x a
  | none =>
    let r : Rec := { ctx := x, bytes := e.1, index := index, die := e.2, owner := own, published := b2n own, named := step }
    let s := s.setRec x a r
    if own then (((s.replayJournal x r).dieAdd x r (prMark e.1 1) (prSlots e.1)).publish x r).armRecord x a
    else s.armRecord x a

/-- The check of a graph's update table: every record passes, or none starts (R262, R263). -/
def State.openUpdates (s : State) (x : Graph) : Ld State := do
  if x.updates = 0 then pure s
  else
    let w := agentOf x.ctx
    Ld.need (x.updates % 64 = 0) 0x604
    let h ← s.ld w x.updates 64
    let n := field h 0 4
    Ld.need (decide (1 ≤ n ∧ n ≤ 4096) && zeroed h 4 60) 0x604
    let rows ← (range n).mapM (fun k => do s.checkRecord x.ctx (← s.ld w (x.updates + 64 + 128 * k) 128))
    let new := rows.filter (fun e => decide (s.rankOf e.1 = prOwner e.1) && (s.record x.ctx (prVersion e.1)).isNone)
    Ld.need ((range 2).all (fun d =>
      decide (s.landingUsed d + total ((new.filter (fun e => decide (e.2 = d))).map (fun e => prSlots e.1)) ≤ 1024))) 0x604
    pure ((rows.mapIdx (fun k e => (k, e))).foldl (fun s e => s.openRecord x.ctx e.1 e.2) s)

end Sys2Proof.Machine
end

