-- ==== Sys2Proof/Machine/TaskEnd.lean ====
section
/-! DEFINITION. The end of a task on a core, and interruption and restart (R133 to R142, R214, R294): CORE_TASK_END, INTERRUPT
and CORE_RESUME. -/

namespace Sys2Proof.Machine

/-! ## The last phase of a mapped task (R237, R239, R272) -/

/-- Stores FP32 values as a row of a tensor. -/
def storeF32 (s : State) (j : Job) (c : Nat) (w : Who) (t : Src) (r : Nat) (vs : List Nat) : Res Unit := storePart s j c w t r 0 vs []

/-- The contents of a scratch tensor after the task, which the spec leaves undefined: free bytes in every row (log 5). -/
def freeScratch (s : State) (j : Job) (c : Nat) (w : Who) (t : Src) : Res Unit :=
  if t.d = [] then .ok s ()
  else
    (Res.each (fun s r =>
      let n := dsSize t.d 0
      storeF32 s.advance j c w t r ((range n).map (fun k =>
        fromBytes ((range 4).map (fun b => Config.freeByte s.tick (4 * k + b)))))) (range (dsRows t.d)) s).bind (fun s _ => .ok s ())

/-- Sets flags of cores. -/
def State.flagAll (s : State) (l : List (Nat × Nat)) : State := l.foldl (fun s e => s.setFlags e.1 e.2) s

/-- REDUCE: every element of Y (R207). -/
def Job.finishReduce (j : Job) (s : State) (c : Nat) (w : Who) (deal : List (Nat × List Nat)) : Res Unit :=
  let n := j.sz 0 0
  let rows := (range (dsRows j.out)).map (fun r =>
    (r, (range n).map (fun k => j.drained s (ofF32 (j.reduce s (r * n + k) (coordsOf j.out r k))) r k)))
  (Res.each (fun s (e : Nat × List Nat) => j.emit s c w (j.src 0) e.1 e.2) rows s).bind (fun s fs =>
    .ok (s.flagAll (fs.flatten.mapIdx (fun k f => (unitCore deal (k / 32 * j.segments), f)))) ())

/-- Reads the scratch that the first phase has written: the first check that fails (R181, R405). -/
def Job.readScratch (j : Job) (s : State) (w : Who) : Res Unit :=
  match (j.src 7).badRow s w (range (dsRows (j.m.desc 7))) with
  | some a => accRes s w a false
  | none => .ok s ()

/-- The second phase of NORM_BWD: dγ and dβ as column sums of what the scratch gives, then the scratch (R237). -/
def Job.finishNorm (j : Job) (s : State) (c : Nat) (w : Who) : Res Unit :=
  let rows := range (dsRows (j.m.desc 1))
  let hats := rows.map (j.hatAgain s)
  let dys := rows.map (fun r => j.row32 s 2 r)
  let col (f : List Nat → List Nat → Nat → Nat) : List Nat := (range (j.sz 1 0)).map (fun i =>
    rowSum ((hats.zip dys).map (fun e => ofF32 (f e.1 e.2 i))))
  let outs := outSlots j.b
  let put (s : State) (k : Nat) (vs : List Nat) : Res Unit := if outs.contains k then storeF32 s j c w (j.src k) 0 vs else .ok s ()
  let g := col (fun h y i => f32mul (nth 0 y i) (nth 0 h i))
  let b := col (fun _ y i => nth 0 y i)
  if !outs.contains 7 then .ok s ()
  else (j.readScratch s w).bind (fun s _ => (put s 5 g).bind (fun s _ => (put s 6 b).bind (fun s _ => freeScratch s j c w (j.src 7))))

/-- The second phase of ATTENTION_BWD: dK and dV by units of 32 keys of one head, then the scratch; each unit's core computes the rows
of its head again from the scratch (R239, R67). -/
def Job.finishAttn (j : Job) (s : State) (c : Nat) (w : Who) (cores widths : List Nat) : Res Unit :=
  let lk := j.sz 2 1; let per := cdiv lk 32
  let deal := j.deal cores widths (per * j.sz 2 2)
  let work := (range (j.sz 2 2)).flatMap (fun h =>
    let all := (range (j.sz 1 1)).map (fun q => j.bwdAgain s q h)
    let rows := all.map (fun b => (b.1, b.2.1))
    let rf := orAll (all.map (fun b => b.2.2))
    (range lk).flatMap (fun k => [false, true].map (fun v =>
      let x := j.dKV s v rows k h
      let r := h * lk + k
      (unitCore deal (h * per + k / 32), if v then 6 else 5, r, x.1.mapIdx (fun n a => j.drained s a r n), rf ||| x.2))))
  let t := (range (j.sz 2 2)).foldl (fun t h =>
    let rows := (range (j.sz 1 1)).map (fun q => let b := j.bwdAgain s q h; (b.1, b.2.1))
    (range per).foldl (fun t k => j.spillBwd t s (unitCore deal (h * per + k)) h (32 * k) rows) t) s
  (j.readScratch t w).bind (fun t _ => (Res.each (fun s (e : Nat × Nat × Nat × List Nat × Nat) =>
      (j.emit s c w (j.src e.2.1) e.2.2.1 e.2.2.2.1).bind (fun s f =>
        .ok (s.setFlags e.1 (e.2.2.2.2 ||| orAll f)) ())) work t).bind (fun s _ => freeScratch s j c w (j.src 7)))

/-- UPDATE_MATRIX (R272): O, then both scratch tensors. -/
def Job.finishMuon (j : Job) (s : State) (c : Nat) (w : Who) (deal : List (Nat × List Nat)) : Res Unit :=
  let o := j.orthogonal s
  (Res.each (fun s (e : Nat × List Nat) => storeF32 s j c w (j.src 0) e.1 e.2) (o.1.mapIdx (fun r l => (r, l))) s).bind (fun s _ =>
    let s := s.flagAll (o.2.mapIdx (fun r f => (unitCore deal (r / 32), f)))
    (freeScratch s j c w (j.src 5)).bind (fun s _ => freeScratch s j c w (j.src 6)))

/-- What a mapped task does once its first phase has completed on every core. -/
def Job.finish (j : Job) (s : State) (c : Nat) (w : Who) (t : Task) : Res Unit :=
  match j.op with
  | 0xB => j.finishReduce s c w t.units
  | 0xE => j.finishNorm s c w
  | 4 => j.finishAttn s c w t.cores t.widths
  | 0xD => j.finishMuon s c w t.units
  | _ => .ok s ()

/-! ## Clamps (R160, R161) -/

/-- Counts clamps of a task: its context's bit, the device's count, the task's informational event. -/
def State.noteClamps (s : State) (g i n : Nat) : State :=
  if n = 0 then s
  else
    match s.graph g with
    | none => s
    | some x =>
      let s := { s with sys := { s.sys with
        clampCtx := s.sys.clampCtx ||| BitVec.ofNat 64 (2 ^ x.ctx)
        clampCount := satAdd 32 s.sys.clampCount n } }
      if (x.task i).info = 0x403 then s else s.informTask g i 0x403

/-- Clamps that work is about to meet: a strict tensor fails at the first (R161). -/
def strictRes (s : State) (g n : Nat) (strict : Bool) : Res Unit :=
  if n = 0 || !strict then .ok s ()
  else
    match s.graph g with
    | none => .ok s ()
    | some x => .fail { s with sys := { s.sys with
        clampCtx := s.sys.clampCtx ||| BitVec.ofNat 64 (2 ^ x.ctx)
        clampCount := satAdd 32 s.sys.clampCount 1 } } 0x404

/-- Work that meets clamps: each counts once, when the work is done (R160, R161, R181). -/
def clampRes (s : State) (g i n : Nat) (strict : Bool) (f : State → Res Unit) : Res Unit :=
  (strictRes s g n strict).bind (fun s _ => (f s).bind (fun s _ => .ok (s.noteClamps g i n) ()))

/-! ## The end of a task on a core -/

/-- The outcome of work for a task on a core: a failure fails the task and is recorded in the core, a miss suspends the
context. -/
def State.taskRes (s : State) (c : Nat) (r : Res Unit) (f : State → State) : State :=
  match r with
  | .ok t _ => f t
  | .fail t code => t.failCore c code 0 0
  | .miss t va store =>
    match (t.core c).task with
    | some x => t.suspend x.ctx va store
    | none => s
  | .wait _ => s

/-- A core when its task has finished on it: state discarded (R139); signals and stores on their way stay, and the core stays
with the task until the task completes. -/
def Core.finished (k : Core) : Core :=
  { k with
    seq := .idle, prog := [], live := { pc := k.live.pc }, deliveries := []
    ramb := { k.ramb.dropReads (fun _ => true) with lq := [], again := [], replay := [], cfgs := [], stop := .ended } }

/-- A core takes every chunk that is staged for it; one that an interruption has emptied is not taken, and one that all members have taken
leaves its slot (R216). -/
def Cluster.take (q : Cluster) (c : Nat) : Cluster :=
  let takes (h : Chunk) : Bool := h.members.contains c && decide (h.data ≠ [])
  let mine := (q.chunks.filter takes).length
  { q with
    chunks := (q.chunks.map (fun (h : Chunk) => if takes h then { h with members := h.members.filter (· ≠ c) } else h)).filter (fun h => decide (h.members ≠ []))
    deliveries := wrapAdd 48 q.deliveries mine }

/-- A task has finished on a core. -/
def State.coreDone (s : State) (c : Nat) (t : CoreTask) : State :=
  (((s.modCore c Core.finished).discardReads c (fun _ => true)).modCluster (clusterOf c) (fun q => q.take c)).modTask t.graph t.task
    (fun x => { x with left := x.left.filter (· ≠ c) })

/-- The demand reads of a core's tile loads that its Rambler has not fetched pass the coalescer (R187, R194); the core waits while one of
them is held back (R200). -/
def State.demandLoads (s : State) (c : Nat) (t : CoreTask) (w : Who) (l : List Load) : Res Unit :=
  let asked (q : Nat × Nat) : Bool := ((s.core c).ramb.entry (s.unitKey q.1) q.1 q.2).isSome
    || s.coming c (s.unitKey q.1) (unitMask q.1 q.2)
  let open_ := ((l.flatMap Prod.snd).flatMap (fun p => units p.1 p.2)).filter (fun q => !asked q)
  if s.heldBack w false open_ then .wait s
  else .ok (open_.foldl (fun s q => s.coalesceRange (clusterOf c) t.graph t.task w q) s) ()

/-- Whether the operation runs on the array, whose parity covers it (R77, R213). -/
def Job.onArray (j : Job) (s : State) (t : Task) : Bool := [1, 2, 3, 4, 0xC, 0xD].contains j.op && (j.lane s t.cores).isNone

/-- The clamped positions that a core's output rows meet and that no core that has finished has met (R160). -/
def Job.newClamps (j : Job) (s : State) (t : Task) (c : Nat) : Nat :=
  if j.op ≠ 0xC then 0
  else
    let of (d : Nat) := j.convClamps s (((t.unitsOf d).map j.unitRows).flatMap Prod.fst)
    let before := ((t.cores.filter (fun d => !t.left.contains d)).flatMap of)
    ((of c).filter (fun p => !before.contains p)).length

/-- Whether Blanket has fetched every chunk that a core takes (R216). -/
def State.blanketed (s : State) (c : Nat) (t : CoreTask) : Bool :=
  let j := s.jobOf t.graph t.task; let x := s.taskOf t.graph t.task
  let q := s.cluster (clusterOf c)
  ((j.channels x (clusterOf c)).mapIdx (fun ch e => (ch, e))).all (fun e => !e.2.2.contains c ||
    (decide (cdiv (rangeBytes (j.stream s x c e.2.1)) 16384 ≤ mget 0 q.fetched (4 * (t.graph * 2 ^ 24 + t.task) + e.1))
      && !q.chunks.any (fun h => decide (h.channel = e.1 ∧ h.data = []) && h.members.contains c)))

/-- The output rows that a core's units take elements for. -/
def Job.rowsOf (j : Job) (t : Task) (c : Nat) : List Nat := ((t.unitsOf c).map j.unitRows).flatMap Prod.fst

/-- A core hands the partials of further segments to the owners of their rows, which wait on a Waymark of the mapper's for them (R82). -/
def State.handUnits (s : State) (c : Nat) (t : CoreTask) : Res Unit :=
  let j := s.jobOf t.graph t.task
  let x := s.taskOf t.graph t.task
  let w := s.whoCore c
  match j.toHand x c with
  | [] => .ok s ()
  | us =>
    if s.readsLost t.graph t.task j.b then .fail s 0x701
    else
      match j.badInput s w (j.rowsOf x c) with
      | some a => accRes s w a false
      | none =>
        let v := s.view c
        .ok ((us.foldl (fun s u => j.handSegment s v x u) s).modTask t.graph t.task (fun x => { x with handed := x.handed ++ us })) ()

/-- The units of a mapped task on a core, in order, then the task's last phase if no other core is left (R203, R210). The bits that the
cluster DMA engines move are not a core's work. -/
def State.runUnits (s : State) (c : Nat) (t : CoreTask) : Res Unit :=
  let j := s.jobOf t.graph t.task
  let x := s.taskOf t.graph t.task
  let w := s.whoCore c
  if j.moves then .ok s ()
  else if s.readsLost t.graph t.task j.b then .fail s 0x701
  else
    match (j.badInput s w (j.rowsOf x c)).or (((j.segPlaces x c).find? (fun a => s.uncorrectable a 4)).map Acc.bad), (if j.onArray s x then (s.core c).parity else none) with
    | some a, _ => accRes s w a false
    | none, some bad => .fail (s.arrayParity c bad) 0x705
    | none, none =>
      if (s.core c).badAcc ≠ [] then .fail (s.noteAccBad c) 0x701 else
      clampRes s t.graph t.task (j.newClamps s x c) (dsStrict (j.m.desc 1)) (fun s =>
        (s.demandLoads c t w (j.streams s x c)).bind (fun s _ => (j.runAll s x c w).bind (fun s fs =>
          let s := j.handHalo (s.setFlags c (orAll fs)) x c
          if x.left = [c] then j.finish s c w x else .ok s ())))

/-- Whether a task runs on a core that has not finished it, serves and is not asked to interrupt. -/
def State.runs (s : State) (c : Nat) : Bool :=
  match (s.core c).task with
  | some t => !s.power.stopped && s.inService c && !s.interrupting c && decide ((s.core c).seq = .issuing)
      && (s.taskOf t.graph t.task).left.contains c
  | none => false

/-- CORE_TASK_END (R139): issue has passed a tile program's last instruction and none is unfinished; or the units of a mapped
task on the core are done. -/
def execCoreTaskEnd (c : Nat) (s : State) : Out State :=
  match (s.core c).task with
  | none => .next s
  | some t =>
    let k := s.core c
    if !s.runs c then .next s
    else if t.hand then
      if k.prog = [] ∨ k.live.pc ≠ k.prog.length then .next s
      else if k.live.pendings ≠ [] then .next (s.goOn c)
      else if k.live.carry.isSome then .next (s.failCore c 0x301 (k.prog.length - 1) (k.prog.getD (k.prog.length - 1) 0))
      else .next (s.coreDone c t)
    else if (s.taskOf t.graph t.task).dmaLeft ≠ [] || !s.blanketed c t then .next s
    else
      .next (s.taskRes c (s.handUnits c t) (fun s =>
        if (s.jobOf t.graph t.task).segmentsIn (s.taskOf t.graph t.task) c then s.taskRes c (s.runUnits c t) (fun s => s.coreDone c t)
        else s))

/-! ## Interruption (R134, R135, R140, R294) -/

/-- Bytes of the save record of a live state (Table 4.7). -/
def Live.recordSize (l : Live) : Nat :=
  2048 + total (l.tregs.map (fun e => if e.2.inUse then e.2.footprint else 0))
    + 4096 * (l.acc.filter (fun e => e.2.inUse)).length + 4096 * b2n l.active.isSome + 4096 * b2n l.shadow.isSome
    + 4096 * b2n l.carry.isSome + 64 * l.lines.length

/-- The record's bytes, which the spec does not state (R140). -/
def State.recordBytes (s : State) (c : Nat) : List Byte :=
  (range (s.core c).live.recordSize).map (Config.recordByte c s.tick)

/-- The local offset of a core's record in its context's save area (R294). -/
def Ctx.recordAt (x : Ctx) (c : Nat) : Nat := x.saveArea % 2 ^ 48 + c * 2 ^ 20

/-- Whether every store of a core is acknowledged and no signal is held behind one. -/
def Core.quiet (k : Core) : Bool := k.ramb.wq.isEmpty && !k.ramb.reqs.any (fun q => !q.load)

/-- Takes a saved core off its task, the state of one that has not been restored since it was saved standing (R141); when every
unfinished core is saved, the task is interrupted and the cores that it still has are free. -/
def State.saved (s : State) (c : Nat) (t : CoreTask) : State :=
  let live := (s.core c).live
  let theirs (x : Task) (u : Nat) : Bool := let n := max 1 (s.jobOf t.graph t.task).segments
    unitCore x.units u = c || unitCore x.units (u - u % n) = c
  let s := s.modTask t.graph t.task (fun x => { x with
    saves := mput x.saves c ((mfind x.saves c).getD live), handed := x.handed.filter (fun u => !theirs x u) })
  let s := s.clearCore c
  let x := s.taskOf t.graph t.task
  let s := s.modCluster (clusterOf c) (fun q => { q with
    held := q.held.filter (fun h => !decide (h.graph = t.graph ∧ h.task = t.task))
    chunks := q.chunks.map (fun (h : Chunk) => if h.members.contains c then { h with data := [] } else h) })
  if x.left.all (fun c => (mfind x.saves c).isSome) then
    ((x.cores.filter (fun d => decide ((s.core d).task = some t))).foldl State.clearCore s).modTask t.graph t.task
      (fun x => { x with phase := .interrupted, interruptReq := false })
  else s

/-- INTERRUPT (R134, R135, R140, R294): the core of a task that has been asked to interrupt saves its live state. Where the save meets an
uncorrectable accumulator word, CORE_FAULT and CORE_FAULT_INSN hold the index and the word of the next instruction to issue: R133 names no
faulting instruction there (log 40). -/
def execInterrupt (c : Nat) (s : State) : Out State :=
  match (s.core c).task with
  | none => .next s
  | some t =>
    let x := s.taskOf t.graph t.task
    let others := (x.cores.filter (fun d => !x.left.contains d)).all (fun d => (s.core d).quiet)
    if s.power.stopped || !s.inService c || !x.interruptReq || !x.left.contains c || !(s.core c).quiet || !others
        || decide ((s.core c).seq = .faulted) then .next s
    else
      match s.ctx t.ctx with
      | none => .next s
      | some cx =>
        let w := agentOf t.ctx
        if (mfind x.saves c).isSome then .next (s.saved c t)
        else if (range 64).any (fun n => (s.core c).accBad n (fun _ _ => true)) then
          .next ((s.noteAccBad c).failCore c 0x701 (s.core c).live.pc ((s.core c).prog.getD (s.core c).live.pc 0))
        else
        match s.write w (cx.recordAt c) (s.recordBytes c) with
        | (u, none) => .next (u.advance.saved c t)
        | (u, some (.miss va)) => .next (u.advance.suspend t.ctx va true)
        | (u, some a) => .next ((u.noteAcc w a).advance.failTask t.graph t.task a.code)

/-! ## Restart (R136, R141, R142) -/

/-- Loads the program of core `c`, entry by entry of the core table's copy (R142, R287): the state with the program, or the
failed access. -/
def State.loadProgram (s : State) (c : Nat) (t : CoreTask) : State × Option Acc :=
  let x := s.taskOf t.graph t.task
  let e := ctEntry x.op ((x.cores.findIdx? (· = c)).getD 0)
  match s.readG (s.whoCore c) (ctProgram e) (8 * ctLength e) with
  | .data bs => (s.modCore c (fun k => { k with
      prog := (range (ctLength e)).map (fun i => BitVec.ofNat 64 (field bs (8 * i) 8)) }), none)
  | .stop a => (s, some a)

/-- Begins a core's task with its program loaded, or suspends or fails it where the program cannot be read (R142, R133). -/
def State.startCore (s : State) (c : Nat) (t : CoreTask) : State :=
  if !t.hand then s.modCore c (fun k => { k with seq := .issuing, ramb := { k.ramb with pc := 0, at_ := 0, ahead := 0, stop := .stepping } })
  else
    match s.loadProgram c t with
    | (s, none) => s.modCore c (fun k => { k with
        seq := .issuing
        ramb := { k.ramb.resync k.live k.live.pendings with stop := .stepping } })
    | (s, some (.miss va)) => s.suspend t.ctx va false
    | (s, some a) => (s.noteAcc (s.whoCore c) a).failCore c a.code 0 0

/-- Puts a saved live state back into a core: both table slots are empty (R141). -/
def State.restoreCore (s : State) (c : Nat) (t : CoreTask) (l : Live) : State :=
  let l : Live := { l with pendings := l.pendings.map (fun p => { p with done := 0 }) }
  (s.modCore c (fun k => { k with live := l, t1 := 0, t1off := 0, t2 := 0, t2off := 0 })).modTask t.graph t.task
    (fun x => { x with saves := mdel x.saves c })

/-- CORE_RESUME (R136, R141, R142, R294): a core of a task that has been given its cores again restores its record, loads its
program, and begins its pending instructions again; a core whose program could not be read at dispatch loads it. -/
def execCoreResume (c : Nat) (s : State) : Out State :=
  match (s.core c).task with
  | none => .next s
  | some t =>
    let x := s.taskOf t.graph t.task
    let susp := ((s.ctx t.ctx).map Ctx.suspended).getD true
    if s.power.stopped || !s.inService c || susp || x.interruptReq || !x.left.contains c
        || decide ((s.core c).seq ≠ .idle) then .next s
    else
      match mfind x.saves c, s.ctx t.ctx with
      | some l, some cx =>
        let w := agentOf t.ctx
        match s.read w (cx.recordAt c) l.recordSize with
        | .data _ => .next (((s.restoreCore c t l).startCore c t).progress c)
        | .stop (.miss va) => .next (s.suspend t.ctx va false)
        | .stop a => .next ((s.noteAcc w a).failTask t.graph t.task a.code)
      | _, _ => .next (s.startCore c t)

end Sys2Proof.Machine
end

