-- ==== Sys2Proof/Machine/Dma.lean ====
section
/-! DEFINITION. The cluster DMA engines (R163 to R171, R208, R210, R215, R216, R245): CLUSTER_DMA_TRANSFER, BLANKET_FETCH and
STASH_COPY. -/

namespace Sys2Proof.Machine

/-! ## Moving bits -/

/-- The work of a cluster's DMA engine for a task: the task's job with its accesses made from the cluster. -/
def Job.on (j : Job) (n : Nat) : Who := { j.who with island := some n }

/-- Writes bytes at a global address for a task's DMA engine. -/
def dmaWrite (s : State) (j : Job) (n a : Nat) (bs : List Byte) : Res Unit :=
  if s.heldBack (j.on n) true [(a, bs.length)] then .wait s
  else
    match s.writeG (j.on n) (.task j.g j.i) (dieOfCluster n) a bs with
    | (s, none) => .ok s ()
    | (s, some x) => accRes s (j.on n) x true

/-- Writes elements of a row from column `first`. -/
def dmaRow (s : State) (j : Job) (n : Nat) (t : Src) (r first : Nat) (es : List Nat) : Res Unit :=
  (Res.each (fun s p => match partBytes s j.ctx t p first es with
    | some (a, bs) => dmaWrite s j n a bs
    | none => .ok s ()) (rowPieces t.d r) s).bind (fun s _ => .ok s ())

/-- Writes scale bytes of a row from block `first`. -/
def dmaScales (s : State) (j : Job) (n : Nat) (t : Src) (r first : Nat) (bs : List Nat) : Res Unit :=
  if bs = [] then .ok s ()
  else dmaWrite s j n (fromBase (dsScale t.d) (r * dsRowScales t.d + first : Nat)) (bs.map (BitVec.ofNat 8 ·))

/-! ## GATHER and SCATTER -/

/-- The list side's row of a run of entry `e`. -/
def sideRow (side : List Byte) (sub : List Nat) (e : Nat) : Nat := rowOf side (0 :: (sub ++ [e]))

/-- The elements of a run with the scale bytes of its blocks. -/
def readRun (s : State) (j : Job) (t : Src) (c : List Nat) (n : Nat) : List Nat × List Nat :=
  let at_ (k : Nat) := upd c 0 (· + k)
  ((range n).map (fun k => t.enc s j.ctx (at_ k)),
    if dsBlk t.d = 0 then [] else (range (cdiv n (blockLen (dsBlk t.d)))).map (fun b => t.scale s j.ctx (at_ (b * blockLen (dsBlk t.d)))))

/-- A check of ranges that a task's DMA engine reads or writes (R174, R405). -/
def dmaCheck (s : State) (j : Job) (n : Nat) (store : Bool) (l : List (Nat × Nat)) : Res Unit :=
  match s.firstBad (j.on n) store l with
  | some a => accRes s (j.on n) a store
  | none => .ok s ()

/-- A task's DMA engine reads ranges: the checks, then the coalescer of its cluster (R194); it waits for a controller that has sent stop
(R200). -/
def dmaLoad (s : State) (j : Job) (n : Nat) (l : List (Nat × Nat)) : Res Unit :=
  (dmaCheck s j n false l).bind (fun s _ => if s.heldBack (j.on n) false l then .wait s else .ok (l.foldl (fun s p => s.coalesceRange n j.g j.i (j.on n) p) s) ())

/-- The range of a list's entries. -/
def listRange (h : List Byte) : List (Nat × Nat) := [(clEntries h, clBytes h)]

/-- One run of a GATHER's entry: the table's elements, masked ones as 0, under the copied scales (R165, R208). -/
def gatherRun (s : State) (j : Job) (n : Nat) (blk : List Nat) (e q : Nat) : Res Unit :=
  let h := j.m.at_ 2; let tab := j.src 1; let side := j.src 0
  let sub := blockSub h (dsRank tab.d) q
  let (c, k) := runAt h tab.d blk sub
  (dmaLoad s j n (if k = 0 then [] else tab.partRanges (rowOf tab.d c) (nth 0 c 0) k)).bind (fun s _ =>
    let (es, sc) := readRun s j tab c k
    let g := clG h 0
    let r := sideRow side.d sub e
    (dmaRow s j n side r 0 (es ++ List.replicate (g - k) 0)).bind (fun s _ =>
      dmaScales s j n side r 0 (sc ++ List.replicate (dsRowScales side.d - sc.length) 0)))

/-- A unit of a GATHER: 32 list entries (Table 7.4). -/
def gatherUnit (s : State) (j : Job) (n u : Nat) : Res Unit :=
  let h := j.m.at_ 2; let tab := j.src 1
  let es := (range (min 32 (clCount h - 32 * u))).map (fun k => 32 * u + k)
  (dmaLoad s j n (listRange h)).bind (fun s _ =>
    let bs := es.map (fun e => (e, s.clBlock j.ctx h tab.d e))
    clampRes s j.g j.i (bs.filter (fun b => b.2.2)).length (dsStrict tab.d) (fun s =>
      (Res.each (fun s (p : (Nat × List Nat × Bool) × Nat) => gatherRun s j n p.1.2.1 p.1.1 p.2)
        (bs.flatMap (fun b => (range (blockRuns h (dsRank tab.d))).map (fun q => (b, q)))) s).bind (fun s _ => .ok s ())))

/-- The linear number of a table block. -/
def blockNo (h table : List Byte) (blk : List Nat) : Nat :=
  globalIndex blk ((range (dsRank table)).map (fun i => cdiv (dsSize table i) (clG h i)))

/-- The entries that name table block `b`, in list order, with their clamps. -/
def namers (s : State) (j : Job) (b : Nat) : List (Nat × List Nat × Bool) :=
  let h := j.m.at_ 2; let tab := j.src 0
  ((range (clCount h)).map (fun e => (e, s.clBlock j.ctx h tab.d e))).filter (fun x => decide (blockNo h tab.d x.2.1 = b))

/-- An element of a sum-mode SCATTER: the table's element, then the contributions in list order, then the conversion (R167). -/
def scatterSum (s : State) (j : Job) (c : List Nat) (vs : List Nat) (old : Nat) : Nat × Nat :=
  let t := j.src 0; let d := obDrain j.b; let ty := dsType t.d; let side := dsType (j.m.desc 1)
  if ty = 11 then
    vs.foldl (fun (a : Nat × Nat) v =>
      let q := passInt a.1 [(some (decodeElem side v, scaleVal 0 0), some (FV.ofQ ⟨1, 1⟩, scaleVal 0 0))]
      (q.1, a.2 ||| q.2)) (old, 0)
  else
    let v := vs.foldl (fun a v => f32add a (asF32 side v)) (asF32 ty old)
    let sr := if drRnd d = 1 then some (srRnd j.seed j.step (dsId t.d) (s.indexOf t c % 2 ^ 64)) else none
    if ty = 0 then (v, 0) else convert ty (drOvf d) sr (ofF32 v)

/-- The entries that a SCATTER applies to a block: the last in overwrite mode, all of them in sum mode (R167). -/
def applied (h : List Byte) (es : List (Nat × List Nat × Bool)) : List Nat :=
  ((if clOver h then es.drop (es.length - 1) else es).map Prod.fst)

/-- Where run `q` of a SCATTER's block lies in the table, with how many elements the table holds of it (R165). -/
def scatterAt (j : Job) (es : List (Nat × List Nat × Bool)) (q : Nat) : List Nat × Nat :=
  let h := j.m.at_ 2; let tab := j.src 0
  runAt h tab.d ((es.headD (0, [], false)).2.1) (blockSub h (dsRank tab.d) q)

/-- What run `q` of a SCATTER reads, and what it writes: the list side, in sum mode the table too; and the table (R167). -/
def scatterReach (j : Job) (es : List (Nat × List Nat × Bool)) (q : Nat) : List (Nat × Nat) × List (Nat × Nat) :=
  let h := j.m.at_ 2; let tab := j.src 0; let side := j.src 1
  let (c, k) := scatterAt j es q
  if k = 0 then ([], [])
  else
    let out := tab.partRanges (rowOf tab.d c) (nth 0 c 0) k
    ((applied h es).flatMap (fun e => side.partRanges (sideRow side.d (blockSub h (dsRank tab.d) q) e) 0 k)
      ++ (if clOver h then [] else out), out)

/-- One run of a SCATTER into its block (R167, R208): state and flags. -/
def scatterRun (s : State) (j : Job) (n : Nat) (es : List (Nat × List Nat × Bool)) (q : Nat) : Res Nat :=
  let h := j.m.at_ 2; let tab := j.src 0; let side := j.src 1
  let sub := blockSub h (dsRank tab.d) q
  let (c, k) := scatterAt j es q
  let at_ (e : Nat) : List Nat := 0 :: (sub ++ [e])
  let r := rowOf tab.d c
  if k = 0 then .ok s 0
  else if clOver h then
    let (vs, sc) := readRun s j side (at_ ((applied h es).headD 0)) k
    (dmaRow s j n tab r (nth 0 c 0) vs).bind (fun s _ =>
      (dmaScales s j n tab r (nth 0 c 0 / max 1 (blockLen (dsBlk tab.d))) sc).bind (fun s _ => .ok s 0))
  else
    let out := (range k).map (fun i =>
      let ct := upd c 0 (· + i)
      scatterSum s j ct ((applied h es).map (fun e => side.enc s j.ctx (upd (at_ e) 0 (fun _ => i)))) (tab.enc s j.ctx ct))
    (dmaRow s j n tab r (nth 0 c 0) (out.map Prod.fst)).bind (fun s _ => .ok s (orAll (out.map Prod.snd)))

/-- The unit of a SCATTER: one table block (Table 7.4). Every access is checked before the first write, so that work done again after a
miss adds nothing twice (R167, R181); its flags go to the core that the block is dealt to (R67, R210). -/
def scatterUnit (s : State) (j : Job) (n core : Nat) (es : List (Nat × List Nat × Bool)) : Res Unit :=
  let h := j.m.at_ 2; let tab := j.src 0
  let qs := range (blockRuns h (dsRank tab.d))
  (dmaLoad s j n (listRange h)).bind (fun s _ =>
    clampRes s j.g j.i (es.filter (fun b => b.2.2)).length (dsStrict tab.d) (fun s =>
      (dmaLoad s j n (qs.flatMap (fun q => (scatterReach j es q).1))).bind (fun s _ =>
        (dmaCheck s j n true (qs.flatMap (fun q => (scatterReach j es q).2))).bind (fun s _ =>
          (Res.each (fun s q => scatterRun s j n es q) qs s).bind (fun s fs =>
            .ok (s.setFlags core (orAll fs)) ())))))

/-! ## PERMUTE_COPY (R169 to R171, R208) -/

/-- The dense copy of a tensor: rows, then scale bytes (R169). -/
def Src.dense (t : Src) (s : State) (x : Nat) : List Byte :=
  (range (dsRows t.d)).flatMap (fun r =>
      packBits (dsBits t.d) ((range (dsSize t.d 0)).map (fun k => t.enc s x (coordsOf t.d r k))))
    ++ (if dsBlk t.d = 0 then [] else (range (dsRows t.d)).flatMap (fun r =>
      (range (dsRowScales t.d)).map (fun b => BitVec.ofNat 8 (t.scale s x (coordsOf t.d r (b * blockLen (dsBlk t.d)))))))

/-- The source of a PERMUTE_COPY: IN0, or its staged copy in a cluster store (R171). -/
def Job.copySrc (j : Job) (staged : Option Nat) : Src :=
  match staged with
  | some a => { j.src 1 with gran := some ((range 256).map (fun k => 0x7FFF * 2 ^ 48 + a + 65536 * k)) }
  | none => j.src 1

/-- One destination row of a PERMUTE_COPY. -/
def permuteRow (s : State) (j : Job) (n : Nat) (src : Src) (r : Nat) : Res Unit :=
  let out := j.src 0; let rk := dsRank out.d
  let from_ (k : Nat) : List Nat :=
    let c := coordsOf out.d r k
    (range rk).map (fun a => ((range rk).find? (fun d => decide (permAt j.b d = a))).elim 0 (nth 0 c))
  let size := dsSize out.d 0
  let rows := ((range size).map (fun k => rowOf src.d (from_ k))).dedup
  (if src.gran.isSome then Res.ok s () else dmaLoad s j n (rows.flatMap src.rowRanges)).bind (fun s _ =>
    (dmaRow s j n out r 0 ((range size).map (fun k => src.enc s j.ctx (from_ k)))).bind (fun s _ =>
      dmaScales s j n out r 0 (if dsBlk out.d = 0 then [] else
        (range (dsRowScales out.d)).map (fun b => src.scale s j.ctx (from_ (b * blockLen (dsBlk out.d)))))))

/-- Rows of a PERMUTE_COPY. -/
def permuteRows (s : State) (j : Job) (n : Nat) (src : Src) (rows : List Nat) : Res Unit :=
  (Res.each (fun s r => permuteRow s j n src r) rows s).bind (fun s _ => .ok s ())

/-- Where the source of a staged copy stands in a cluster store (R171). -/
def State.stagedAt (s : State) (n : Nat) : Nat := clusterBase + n * 0x2000000 + ((s.cluster n).staging.map (fun e => e.2.2)).getD 0

/-- A unit of an unstaged copy, or a pass of a staged one: 0 reads the whole source, 1 writes the destination (R171). -/
def permuteUnit (s : State) (j : Job) (n u : Nat) : Res Unit :=
  let all := range (dsRows j.out)
  if s.copyStaged j.b j.m then
    if u = 0 then
      (dmaLoad s j n ((range (dsRows (j.m.desc 1))).flatMap (j.src 1).rowRanges)).bind (fun s _ =>
        .ok (s.put (s.stagedAt n) ((j.src 1).dense s j.ctx)) ())
    else permuteRows s j n (j.copySrc (some (s.stagedAt n))) all
  else permuteRows s j n (j.copySrc none) ((range (min 32 (dsRows j.out - 32 * u))).map (fun k => 32 * u + k))

/-! ## CLUSTER_DMA_TRANSFER -/

/-- Whether a task runs and is not asked to interrupt. -/
def State.going (s : State) (g i : Nat) : Bool :=
  let t := s.taskOf g i
  !s.power.stopped && decide (t.phase = .running) && !t.interruptReq

/-- The outcome of work of a DMA engine for a task. -/
def State.dmaRes (s : State) (g i x : Nat) (r : Res Unit) (f : State → State) : State :=
  match r with
  | .ok t _ => f t
  | .fail t code => t.failTask g i code
  | .miss t va store => t.suspend x va store
  | .wait _ => s

/-- CLUSTER_DMA_TRANSFER (R210): the engine of a cluster completes one unit of a GATHER, SCATTER or PERMUTE_COPY. -/
def execClusterDmaTransfer (n g i u : Nat) (s : State) : Out State :=
  let t := s.taskOf g i
  let j := s.jobOf g i
  if !s.going g i || !j.moves || decide (t.dmaLeft = []) || decide ((s.cluster n).mode ≠ .service) || s.retired n then .next s
  else
    let dealt := if j.op = 9 then nth 0 t.cores (u % max 1 t.cores.length) else unitCore t.units u
    let es := if j.op = 9 then namers s j u else []
    let mine := if j.op = 9 then es.any (fun e => t.dmaLeft.contains e.1)
      else t.dmaLeft.contains u && (decide (j.op ≠ 0xA ∨ s.copyStaged j.b j.m = false) || decide (t.dmaLeft.headD 0 = u))
    let here := if s.copyStaged j.b j.m then decide ((s.cluster n).staging.map (fun e => (e.1, e.2.1)) = some (g, i)) else decide (clusterOf dealt = n)
    if !mine || !here then .next s
    else
      let r := if s.readsLost g i j.b then .fail s 0x701 else match j.op with
        | 8 => gatherUnit s j n u
        | 9 => scatterUnit s j n dealt es
        | _ => permuteUnit s j n u
      let done := if j.op = 9 then es.map (fun e => e.1) else [u]
      .next (s.dmaRes g i j.ctx r (fun s => s.modTask g i (fun t => { t with
        dmaLeft := t.dmaLeft.filter (fun v => !done.contains v) })))

/-! ## BLANKET_FETCH (R215, R216) -/

/-- A chunk that a channel of a cluster fetches next for a task: the task, the operand slot, the channel's group, the chunk's number,
the members that take it, and whether it was fetched before. -/
structure NextChunk where
  graph : Nat
  task : Nat
  operand : Nat
  group : List Nat
  number : Nat
  members : List Nat
  again : Bool
  deriving DecidableEq, Repr

/-- The ranges of a chunk: 16 KiB of the operand as the group consumes it (R216). -/
def Job.chunkRanges (j : Job) (s : State) (t : Task) (group : List Nat) (k no : Nat) : List (Nat × Nat) :=
  cutRanges (j.stream s t (t.longest group) k) (16384 * no) 16384

/-- The next chunk of a channel for one task: the earliest that an interruption discarded, else the one after the last (R216). -/
def State.nextChunk (s : State) (n ch g i : Nat) : Option NextChunk :=
  let q := s.cluster n
  let t := s.taskOf g i; let j := s.jobOf g i
  if !s.going g i || !t.cores.any (fun c => decide (clusterOf c = n)) then none
  else
    match (j.channels t n)[ch]? with
    | none => none
    | some (k, group) =>
      match q.chunks.find? (fun h => decide (h.channel = ch ∧ h.data = []) && h.members.any group.contains) with
      | some h => some ⟨g, i, k, group, h.number, h.members, true⟩
      | none =>
        let d := mget 0 q.fetched (4 * (g * 2 ^ 24 + i) + ch)
        let m := group.filter (fun c => t.left.contains c && decide (16384 * d < rangeBytes (j.stream s t c k)))
        if m = [] then none else some ⟨g, i, k, group, d, m, false⟩

/-- A staging slot of a channel that no chunk has (R216). -/
def Cluster.freeSlot (q : Cluster) (ch : Nat) : Option Nat :=
  (range 4).find? (fun k => !q.chunks.any (fun h => decide (h.channel = ch ∧ h.slot = k)))

/-- The slot that a chunk goes to: its own where it was fetched before. -/
def Cluster.slotFor (q : Cluster) (ch : Nat) (x : NextChunk) : Option Nat :=
  if x.again then (q.chunks.find? (fun h => decide (h.channel = ch ∧ h.number = x.number) && h.members.any x.group.contains)).map Chunk.slot
  else q.freeSlot ch

/-- The address of a staging slot: the highest 256 KiB of a cluster store, 16 KiB each (R216). -/
def stagingAt (n ch slot : Nat) : Nat := clusterBase + n * 0x2000000 + 0x17C0000 + (4 * ch + slot) * 0x4000

/-- A chunk stands in its slot, and its members take it from there. -/
def State.stageChunk (s : State) (n ch slot : Nat) (x : NextChunk) (data : List Byte) : State :=
  (s.put (stagingAt n ch slot) data).modCluster n (fun q =>
    if x.again then { q with chunks := q.chunks.map (fun (h : Chunk) =>
      if h.channel = ch ∧ h.slot = slot then { h with data := data } else h) }
    else { q with
      chunks := q.chunks ++ [⟨ch, slot, x.number, data, x.members⟩]
      fetched := mset 0 q.fetched (4 * (x.graph * 2 ^ 24 + x.task) + ch) (x.number + 1) })

/-- BLANKET_FETCH (R216): the next chunk of a channel goes to a free slot, for every member that has not taken it; a chunk that
an interruption discarded is fetched again first. -/
def execBlanketFetch (n ch : Nat) (s : State) : Out State :=
  let q := s.cluster n
  let tasks := s.trh.graphs.flatMap (fun (e : Nat × Graph) => e.2.tasks.map (fun t => (e.1, t.1)))
  if s.retired n || decide (q.mode ≠ .service) || decide (4 ≤ ch) then .next s
  else
    match tasks.findSome? (fun e => s.nextChunk n ch e.1 e.2) with
    | none => .next s
    | some x =>
      match q.slotFor ch x with
      | none => .next s
      | some slot =>
        let j := s.jobOf x.graph x.task
        let l := j.chunkRanges s (s.taskOf x.graph x.task) x.group x.operand x.number
        .next (s.dmaRes x.graph x.task j.ctx (dmaLoad s j n l) (fun u => u.stageChunk n ch slot x
          (l.flatMap (fun p => (range p.2).map (fun k => s.byteG j.ctx (p.1 + k))))))

/-! ## STASH_COPY (R245) -/

/-- The reservation that the stash copy of a task fills: the task lies in the FWD range of a kept layer whose reservation
exists, and no other task of the range and micro-batch is unfinished. -/
def State.stashFill (s : State) (g i : Nat) : Option Stash :=
  match s.graph g with
  | none => none
  | some x =>
    let d := s.taskDesc x i
    if tdHasLayer d && decide (x.layers ≠ 0) then
      let r := s.layerOf x i
      let others := (range (lrCount r 0x1C)).any (fun k =>
        let t := field r 0x18 4 + k; let e := s.taskDesc x t
        decide (t ≠ i) && tdHasLayer e && decide (tdLayer e = tdLayer d ∧ tdMbatch e = tdMbatch d) && !(x.task t).ended)
      if inRange r 0x18 i && !others then (x.stashOf (tdLayer d) (tdMbatch d)).bind (fun h => if h.copied then none else some h)
      else none
    else none

/-- The first miss that finding the other tasks of a task's FWD range meets, where that range fills a reservation (R245). -/
def State.fillMiss (s : State) (g i : Nat) : Option Nat :=
  match s.graph g with
  | none => none
  | some x =>
    let d := s.taskDesc x i; let r := s.layerOf x i
    if tdHasLayer d && decide (x.layers ≠ 0) && inRange r 0x18 i
        && ((x.stashOf (tdLayer d) (tdMbatch d)).map (fun h => !h.copied)).getD false then
      (range (lrCount r 0x1C)).findSome? (fun k =>
        let t := field r 0x18 4 + k
        if (x.task t).copy ≠ [] then none
        else match s.readG (agentOf x.ctx) (x.taskAt t) 128 with
          | .stop (.miss va) => some va
          | _ => none)
    else none

/-- Writes one granule of the stash: a store, or the HBM region through the context's mapping (R242). -/
def stashWrite (s : State) (j : Job) (a : Nat) (bs : List Byte) : Res Unit :=
  match storeOf (localOf a) with
  | some (n, _) =>
    match s.barred j.who.island n with
    | some x => accRes s j.who (.closed x) true
    | none => .ok (s.put (localOf a) bs) ()
  | none =>
    if s.heldBack (agentOf j.ctx) true [(a, bs.length)] then .wait s
    else
      match s.write (agentOf j.ctx) (localOf a) bs with
      | (s, none) => .ok s ()
      | (s, some x) => accRes s (agentOf j.ctx) x true

/-- STASH_COPY (R245): once the cores of the last task of a kept layer's FWD range have finished, the saved tensor is copied
from its home buffer into its granules, dense, bits unchanged. -/
def execStashCopy (g i : Nat) (s : State) : Out State :=
  let t := s.taskOf g i
  match s.graph g, s.stashFill g i with
  | some x, some h =>
    if !s.going g i || decide (t.left ≠ [] ∨ t.dmaLeft ≠ []) then .next s
    else
      let j := s.jobOf g i
      let src : Src := ⟨j.m.desc 51, j.m.at_ 52, none⟩
      let r : Res Unit := match src.badRow s j.who (range (dsRows src.d)) with
        | some a => accRes s j.who a false
        | none =>
          (Res.each (fun s (e : Nat × List Byte) => stashWrite s j e.1 e.2)
            ((h.granules.map (granuleAt x)).zip (chunks 65536 (src.dense s j.ctx))) s).bind (fun s _ => .ok s ())
      .next (s.dmaRes g i j.ctx r (fun s => s.modGraph g (fun x => { x with
        stash := x.stash.map (fun (v : Stash) => if v.layer = h.layer ∧ v.mbatch = h.mbatch then { v with copied := true } else v) })))
  | _, _ => .next s

end Sys2Proof.Machine
end

