-- ==== Sys2Proof/Machine/Rambler.lean ====
section
/-! DEFINITION. Rambler (R182 to R194): RAMBLER_FETCH, stepping ahead through a tile program or a mapped task's tile streams,
and MEMORY_RESPONSE. -/

namespace Sys2Proof.Machine

/-- Stops Rambler. -/
def State.stopRamb (s : State) (c : Nat) (r : RStop) : State := s.modRamb c (fun m => { m with stop := r })

/-- The value that Rambler's MOVA moves (R127, R185). -/
def State.rambMova (s : State) (c : Nat) (m : Rambler) (src as imm : Nat) : Nat :=
  match src with
  | 0 => wrap 48 (signed 46 imm)
  | 1 => areg m.a as
  | 2 => s.special c as
  | _ => (mget 0 m.c as).toNat

/-- The parts of units that a TLD's rows take, in the order of its row requests (R105, R107). -/
def tldParts (x : Xfer) (r : Regs) (q : TReg) : List (Nat × Nat) := (x.ranges r q).flatMap (fun p => units p.1 p.2)

/-- Rambler asks for the parts of a tile load from where it stands in them; where all are dealt with it goes on by `f`, else it has
stopped for a tag or a load-queue entry (R183, R186). -/
def State.rambParts (s : State) (c : Nat) (w : Who) (l : List (Nat × Nat)) (f : Rambler → Rambler) : State :=
  let at_ := (s.core c).ramb.at_
  match s.prefetchAll c w (l.drop at_) with
  | (s, n) =>
    if at_ + n < l.length then s.modRamb c (fun m => { m with at_ := at_ + n, stop := .full })
    else s.modRamb c (fun m => { f m with at_ := 0, stop := .stepping })

/-- Rambler steps a pending record first after a resume (R189). -/
def State.rambReplay (s : State) (c : Nat) (w : Who) (p : Pending) (rest : List Pending) : State :=
  let past (m : Rambler) : Rambler := { m with replay := rest, cfgs := shapeStep m.cfgs p.insn }
  match p.insn with
  | .tld t base stride false remote pfx offset =>
    s.rambParts c w (tldParts ⟨base, stride, false, remote, pfx, signed 24 offset⟩ p.regs (mget {} (s.core c).ramb.cfgs t)) past
  | _ => s.modRamb c (fun m => { past m with stop := .stepping })

/-- One step of Rambler through a tile program (R185, R186). -/
def State.rambStep (s : State) (c : Nat) (w : Who) : State :=
  let k := s.core c
  let m := k.ramb
  let next (f : Rambler → Rambler) : State := s.modRamb c (fun m => { f m with pc := m.pc + 1, at_ := 0, stop := .stepping })
  match k.prog[m.pc]? with
  | none => s.stopRamb c .ended
  | some word =>
    match decodeTile word with
    | some (.wait ..) => s.stopRamb c .wait
    | some (.fence _ true) => s.stopRamb c .fence
    | some (.mova ad src as imm) => next (fun m => { m with a := mset 0 m.a ad (BitVec.ofNat 48 (s.rambMova c m src as imm)) })
    | some (.adda ad src as imm) =>
      let v : Int := if src then (areg m.a as : Int) else signed 46 imm
      next (fun m => { m with a := mset 0 m.a ad (BitVec.ofNat 48 (wrap 48 ((areg m.a ad : Int) + v))) })
    | some (.loop cnt stop reg a count) =>
      if loopOk k.prog m.loops m.pc cnt stop then
        let f := loopStep m.pc m.c m.loops cnt stop (if reg then areg m.a a % 2 ^ 32 else count)
        s.modRamb c (fun m => { m with pc := f.1, c := f.2.1, loops := f.2.2, stop := .stepping })
      else s.stopRamb c .ended
    | some (.endl cnt) =>
      match m.loops with
      | l :: outer =>
        if l.counter = cnt ∧ l.stop = m.pc then
          let f := endlStep m.c l outer
          s.modRamb c (fun m => { m with pc := f.1, c := f.2.1, loops := f.2.2, stop := .stepping })
        else s.stopRamb c .ended
      | [] => s.stopRamb c .ended
    | some (.tld t base stride space remote pfx offset) =>
      if space then next id
      else if m.late ≠ 0 then next (fun m => { m with late := m.late - 1 })
      else if 64 ≤ m.ahead then s.stopRamb c .ahead
      else s.rambParts c w (tldParts ⟨base, stride, space, remote, pfx, signed 24 offset⟩ m.a (mget {} m.cfgs t))
        (fun m => { m with pc := m.pc + 1, ahead := m.ahead + 1 })
    | some i => next (fun m => { m with cfgs := shapeStep m.cfgs i })
    | none => next id

/-- One step of Rambler through a mapped task's tile streams, 64 loads ahead at most (R187). -/
def State.rambMapped (s : State) (c : Nat) (t : CoreTask) (w : Who) : State :=
  let j := s.jobOf t.graph t.task
  let m := (s.core c).ramb
  match (if j.moves then [] else j.streams s (s.taskOf t.graph t.task) c)[m.pc]? with
  | none => s.stopRamb c .ended
  | some l =>
    if 64 ≤ m.ahead then s.stopRamb c .ahead
    else s.rambParts c w (l.2.flatMap (fun p => units p.1 p.2)) (fun m => { m with pc := m.pc + 1, ahead := m.ahead + 1 })

/-- Steps Rambler until it has made the steps or stops. -/
def State.rambRun (s : State) (c : Nat) (t : CoreTask) (w : Who) : Nat → State
  | 0 => s
  | n + 1 =>
    let m := (s.core c).ramb
    if m.stop = .stepping ∨ m.stop = .full then
      let s' := match m.replay with
        | p :: rest => s.rambReplay c w p rest
        | [] => if t.hand then s.rambStep c w else s.rambMapped c t w
      if (s'.core c).ramb.stop = .stepping then s'.rambRun c t w n else s'
    else s

/-- RAMBLER_FETCH (R184 to R188): Rambler steps; the sort window issues; the core's unfinished instructions go on. A core of a mapped
task takes the Blanket chunks handed to it (R216). On a core without a task the window issues what is left of its stores. -/
def execRamblerFetch (c steps : Nat) (s : State) : Out State :=
  if s.power.stopped || !s.inService c then .next s
  else
    match (s.core c).task with
    | none => .next (s.issueWindow c)
    | some t =>
      if s.interrupting c || decide ((s.core c).seq = .idle ∨ (s.core c).seq = .faulted) then .next (s.issueWindow c)
      else
        let s := if t.hand then s else s.modCluster (clusterOf c) (fun q => q.take c)
        .next (((s.rambRun c t (s.whoCore c) steps).issueWindow c).goOn c)

/-- Reads of a cluster that merged with one that is answered get its data, or go on their own where it brings none (R194). -/
def State.answerMerged (s : State) (n g i pu : Nat) (data : Option (List Byte)) : State :=
  (range 18).foldl (fun (s : State) j =>
    let d := 18 * n + j
    if (s.core d).task.map (fun t => (t.graph, t.task)) = some (g, i) then
      s.modRamb d (fun m => { m with reqs := m.reqs.map (fun (q : Req) =>
        if q.load ∧ q.merged ∧ q.pa / 256 * 256 = pu then { q with merged := false, served := data } else q) })
    else s) s

/-- Whether a byte that a read asks for lies in an uncorrectable word. -/
def State.unitBad (s : State) (pu mask : Nat) : Bool := (range 256).any (fun k => bit mask k && s.uncorrectable (pu + k) 1)

/-- The data of a read of a unit returns: into the load queue under the core's own stores, and into the coalescer; it is dropped where
it is not wanted any more or is uncorrectable: a demand read then fails its instruction, which meets the word (R183, R188, R190, R194,
R405). -/
def State.loadReturns (s : State) (c i : Nat) (q : Req) (bad : Bool) : State :=
  let s := s.modRamb c (fun m => { m with reqs := m.reqs.eraseIdx i })
  let n := clusterOf c
  let pu := q.pa / 256 * 256
  match (s.core c).task with
  | none => s
  | some t =>
    let enter (s : State) (d : List Byte) : State := s.modRamb c (fun m => { m with lq := m.lq ++
      [⟨q.unit, q.pa, q.mask, ((m.reqs.filter Req.localStore).foldl (fun bs r => r.over pu bs) d)⟩] })
    match q.served with
    | some d => if q.void then s else enter s d
    | none =>
      let w := pu + maskFirst q.mask
      let s : State := if bad then { s with bad := if s.bad.contains w then s.bad else w :: s.bad } else s
      if s.unitBad pu q.mask then
        let s := (if q.spec then s.noteAcc (s.whoCore c) (.bad w) else s).answerMerged n t.graph t.task pu none
        if q.void || !q.spec then s else s.dropFetch c
      else
        let d := s.get pu 256
        let s := s.answerMerged n t.graph t.task pu (some d)
        let keep := leavesCluster pu && !q.void && !s.nospec t.ctx q.unit
        let s := if keep then s.holdUnit (s.whoCore c) n t.graph t.task pu else s
        if q.void then s else enter s d

/-- A store of a core on this device takes effect and is acknowledged; one that would merge into an uncorrectable word fails its
instruction (R183, R191, R405). -/
def State.storeReturns (s : State) (c i : Nat) (q : Req) : State :=
  if s.mergesBad q.pa q.data.length then ((s.noteAcc (s.whoCore c) (.bad q.pa)).acked c i).failCore c 0x701 q.pc q.word
  else (s.landStore q).acked c i

/-- The controllers' queues as an answer leaves them; cores that waited for a stopped one go on (R200). -/
def State.queuesSettled (s : State) : State :=
  let t := s.settleQueues
  if t.hbm.stopped = s.hbm.stopped then t else t.progressAll

/-- MEMORY_RESPONSE (R183, R191): the request of a core at position `tag` is answered: the data of a read, or the
acknowledgement of a store on this device. One that still waits for issue, or behind an earlier store to its unit, or for the read that
it merged with, or at another device, is not answered. -/
def execMemoryResponse (c tag : Nat) (bad : Bool) (s : State) : Out State :=
  if s.power.stopped then .next s
  else
    match (s.core c).ramb.reqs[tag]? with
    | none => .next s
    | some q =>
      if q.st ≠ .sent ∨ q.scope = 2 ∨ q.merged then .next s
      else if q.load then .next (((s.loadReturns c tag q bad).queuesSettled.issueWindow c).goOn c)
      else if ((s.core c).ramb.reqs.take tag).any (fun r => r.localStore && decide (r.pa / 256 = q.pa / 256)) then .next s
      else .next (s.storeReturns c tag q).queuesSettled

end Sys2Proof.Machine
end

