-- ==== Sys2Proof/Machine/Trailhead.lean ====
section
/-! DEFINITION. Trailhead (R288 to R299, R234, R242 to R246, R302, R308): choice and dispatch of tasks, core reservation,
preemption, completion, adds at a Waymark's home, and polled waits. -/

namespace Sys2Proof.Machine

/-! ## Dispatchable tasks (R234, R246, R288) -/

/-- Whether every wait of a task is satisfied (R288, R302). -/
def State.waitsMet (s : State) (g i : Nat) : Bool :=
  s.wmk.waits.all (fun w => match w.who with
    | .task g' i' _ => !decide (g' = g ∧ i' = i) || w.released
    | _ => true)

/-- Whether the version a task names is counted, or is neither held nor to come (R250). -/
def State.versionReady (s : State) (x : Graph) (t : Task) : Bool :=
  match t.version with
  | some (a, v) => t.counted || !vrFuture (s.peek x.ctx a 64) v
  | none => true

/-- The FORM of a task that is a triad task: a MATMUL or BATCHED_MATMUL of a layer with TRIAD set (R232). -/
def State.triadForm (s : State) (x : Graph) (i : Nat) : Option Nat :=
  let d := s.taskDesc x i
  if tdHasLayer d && decide (x.layers ≠ 0) && decide (tdKind d = 0) && lrTriad (s.layerRec x (tdLayer d)) then
    let b := s.opBlock x i
    if obOp b = 1 ∨ obOp b = 2 then some (obForm b) else none
  else none

/-- The triad distance (R234): a lead task of micro-batch j waits for the partner tasks of its layer for j − distance. -/
def State.triadReady (s : State) (x : Graph) (i : Nat) : Bool :=
  match s.triadForm x i with
  | some 0 =>
    let d := s.taskDesc x i
    if tdMbatch d < x.distance then true
    else (range x.count).all (fun k =>
      let e := s.taskDesc x k
      !(tdHasLayer e && decide (tdLayer e = tdLayer d ∧ tdMbatch e + x.distance = tdMbatch d)
        && ((s.triadForm x k).map (fun f => decide (f ≠ 0))).getD false) || decide ((x.task k).phase = .done))
  | _ => true

/-- Whether the layer and micro-batch of a task is held (R246). -/
def State.held (s : State) (x : Graph) (i : Nat) : Bool :=
  let d := s.taskDesc x i
  tdHasLayer d && decide (x.layers ≠ 0) && (x.stashOf (tdLayer d) (tdMbatch d)).isSome

/-- Whether a task lies in the RCP range of a layer that is held for its micro-batch (R246). -/
def State.spared (s : State) (x : Graph) (i : Nat) : Bool :=
  let d := s.taskDesc x i
  tdHasLayer d && decide (x.layers ≠ 0)
    && x.stash.any (fun h => decide (h.mbatch = tdMbatch d) && inRange (s.layerRec x h.layer) 0x20 i)

/-- Whether a task lies in the RCP range of its layer (R246). -/
def State.recompute (s : State) (x : Graph) (i : Nat) : Bool :=
  let d := s.taskDesc x i
  tdHasLayer d && decide (x.layers ≠ 0) && inRange (s.layerRec x (tdLayer d)) 0x20 i

/-- Whether the recompute tasks that a reader of SAVE needs have run (R246). -/
def State.recomputed (s : State) (x : Graph) (i : Nat) : Bool :=
  let d := s.taskDesc x i
  if s.readsSave x (tdLayer d) (tdMbatch d) i && !s.held x i && !s.recompute x i then
    let r := s.layerRec x (tdLayer d)
    (range (lrCount r 0x24)).all (fun k =>
      let t := field r 0x20 4 + k
      decide (tdMbatch (s.taskDesc x t) ≠ tdMbatch d) || decide ((x.task t).phase = .done))
  else true

/-- The first miss among the structures on which a ready task's conditions rest (R180, R234, R246): the layer table's header and record,
the operation block, and the tasks that it waits for. -/
def State.readinessMiss (s : State) (x : Graph) (i : Nat) : Option Nat :=
  let t := x.task i; let d := t.copy
  let rd (a n : Nat) : Option Nat := match s.readG (agentOf x.ctx) a n with
    | .stop (.miss va) => some va
    | _ => none
  let block (d : List Byte) : Option Nat := if tdKind d = 0 then rd (tdWork d) 320 else none
  if t.phase = .window ∧ d ≠ [] ∧ tdHasLayer d ∧ x.layers ≠ 0 ∧ ((s.ctx x.ctx).map Ctx.suspended) = some false then
    (rd x.layers 64).or (if field (s.peek x.ctx x.layers 64) 0 4 ≤ tdLayer d then none
    else (rd (x.layers + 64 * (tdLayer d + 1)) 64).or ((block d).or (
      let r := s.layerRec x (tdLayer d)
      let ks := if lrTriad r then range x.count else (range (lrCount r 0x24)).map (field r 0x20 4 + ·)
      ks.findSome? (fun k => if k < x.count ∧ (x.task k).ended = false ∧ (x.task k).copy = [] then
        (rd (x.taskAt k) 128).or (let e := s.taskDesc x k
          if tdHasLayer e && decide (tdLayer e = tdLayer d) then block e else none) else none))))
  else none

/-- Whether a task is dispatchable (R180, R288, R296). -/
def State.dispatchable (s : State) (g : Nat) (x : Graph) (i : Nat) : Bool :=
  let t := x.task i
  !((s.ctx x.ctx).map Ctx.suspended).getD true &&
    (match t.phase with
    | .interrupted => true
    | .window => !x.stopping && decide (t.copy ≠ []) && s.waitsMet g i && s.versionReady x t && s.triadReady x i && s.recomputed x i
    | _ => false)

/-! ## Order (R290) -/

/-- A candidate for dispatch: slot, task, and its sort key. -/
structure Cand where
  g : Nat
  i : Nat
  key : List Nat
  deriving DecidableEq, Repr

/-- Whether one key comes before another or equals it. -/
def keyLe : List Nat → List Nat → Bool
  | [], _ => true
  | _, [] => false
  | a :: r, b :: t => decide (a < b) || (decide (a = b) && keyLe r t)

/-- The dispatchable tasks of a context in R290's order: interrupted ones first, then PRIO, the oldest graph, the index. -/
def State.candidates (s : State) (x : Nat) : List Cand :=
  (s.trh.graphs.flatMap (fun (e : Nat × Graph) =>
    if e.2.ctx ≠ x then []
    else (e.2.tasks.filter (fun t => s.dispatchable e.1 e.2 t.1)).map (fun (t : Nat × Task) =>
      (⟨e.1, t.1, [if t.2.phase = Phase.interrupted then 0 else 1, 3 - tdPrio t.2.copy, e.2.order, t.1]⟩ : Cand)))).mergeSort
        (fun a b => keyLe a.key b.key)

/-! ## Cores, grants and areas (R291, R292, R242) -/

/-- The eligible cores of a task (R291, R232): in service, in the clusters of its mask, of its role. -/
def State.eligible (s : State) (x : Graph) (i : Nat) : List Nat :=
  let m := tdMask (s.taskDesc x i)
  let role := s.triadForm x i
  (range 648).filter (fun c => s.inService c && !s.retiring c && (decide (m = 0) || bit m (clusterOf c))
    && decide (role = none ∨ role = some (c % 18 % 3)))

/-- The cores that a task reserves: its own where it is interrupted, else the eligible ones (R290). -/
def State.reserves (s : State) (g i : Nat) : List Nat :=
  match s.graph g with
  | some y => if (y.task i).phase = .interrupted then (y.task i).cores else s.eligible y i
  | none => []

/-- Whether another task of the context has reserved a core, before this task did (R290). -/
def State.reservedBy (s : State) (x g i c : Nat) : Bool :=
  (s.trh.reserved.takeWhile (fun r => decide (r ≠ (x, g, i)))).any (fun r => decide (r.1 = x) && (s.reserves r.2.1 r.2.2).contains c)

/-- The free eligible cores of a task, ascending. -/
def State.freeCores (s : State) (x : Graph) (g i : Nat) : List Nat :=
  (s.eligible x i).filter (fun c => decide ((s.core c).task = none) && !s.reservedBy x.ctx g i c)

/-- How many cores a task takes (R291). -/
def State.coresWanted (s : State) (x : Graph) (i : Nat) : Nat :=
  let d := s.taskDesc x i
  match tdKind d with
  | 0 => min (tdCores d) (s.eligible x i).length
  | 1 => tdCores d
  | _ => 0

/-- Takes a hole out of ranges of offset and length. -/
def cutRange (l : List (Nat × Nat)) (h : Nat × Nat) : List (Nat × Nat) :=
  l.flatMap (fun r =>
    if rangesMeet r.1 r.2 h.1 h.2 then
      ([(r.1, h.1 - r.1), (h.1 + h.2, r.1 + r.2 - (h.1 + h.2))]).filter (fun p => decide (p.2 ≠ 0))
    else [r])

/-- The grantable part of a store whose first local offset is `base` (R292). -/
def State.grantable (s : State) (base size : Nat) : List (Nat × Nat) :=
  ((s.excludedIn base).foldl cutRange [(0, size)]).map (fun r => (base + r.1, r.2))

/-- The grants of a task on its cores (R292). -/
def State.grantsFor (s : State) (d : List Byte) (cores : List Nat) : List (Nat × Nat) :=
  cores.flatMap (fun c => s.grantable (coreBase + c * 0x200000) 0x200000)
    ++ (cores.map clusterOf).dedup.flatMap (fun n => s.grantable (clusterBase + n * 0x2000000) 0x1800000)
    ++ ((range 2).map (tdGrant d)).filter (fun g => decide (g.2 ≠ 0))

/-- Whether a running task of another context holds a grant that meets one of these (R292). -/
def State.grantsClash (s : State) (x : Nat) (l : List (Nat × Nat)) : Bool :=
  s.trh.graphs.any (fun (e : Nat × Graph) => decide (e.2.ctx ≠ x) && e.2.tasks.any (fun t =>
    decide (t.2.phase = Phase.running) && t.2.grants.any (fun a => l.any (fun b => rangesMeet a.1 a.2 b.1 b.2))))

/-- A grant passes to a context: what another context held last is zeroed (R292). -/
def State.own (s : State) (x : Nat) (g : Nat × Nat) : State :=
  let s := s.trh.owners.foldl (fun s (e : Nat × Nat × Nat) =>
    if e.2.2 ≠ x ∧ rangesMeet e.1 e.2.1 g.1 g.2 then
      let lo := max e.1 g.1; let hi := min (e.1 + e.2.1) (g.1 + g.2)
      s.zeroRange lo (hi - lo)
    else s) s
  let rest := s.trh.owners.flatMap (fun (e : Nat × Nat × Nat) => (cutRange [(e.1, e.2.1)] g).map (fun r => (r.1, r.2, e.2.2)))
  { s with trh := { s.trh with owners := rest ++ [(g.1, g.2, x)] } }

/-- The highest place of `size` bytes below `limit` beside ranges in use. -/
def fitBelow (limit size : Nat) (used : List (Nat × Nat)) : Option Nat :=
  if size = 0 then some limit
  else
    ((limit :: used.map Prod.fst).filter (fun e => decide (size ≤ e) && decide (e ≤ limit)
      && !used.any (fun u => rangesMeet (e - size) size u.1 u.2))).foldl
        (fun b e => match b with
          | none => some (e - size)
          | some v => some (max v (e - size))) none

/-- Whether a task that runs, or will resume, holds a grant that meets an area at an offset of every store of a kind. -/
def State.areaGranted (s : State) (cluster : Bool) (o n : Nat) : Bool :=
  s.trh.graphs.any (fun (e : Nat × Graph) => e.2.tasks.any (fun t =>
    decide (t.2.phase = Phase.running ∨ t.2.phase = Phase.interrupted) && t.2.grants.any (fun a =>
      decide (regionOf a.1 = if cluster then .clusterStore else .coreStore) && rangesMeet (withinStore a.1) a.2 o n)))

/-- Takes a graph's stash areas when its first task is dispatched; none where they do not fit beside other areas and staging, or a
grant still includes them (R242). A table whose header breaks Table 8.1 gives none. -/
def State.takeAreas (s : State) (g : Nat) (x : Graph) : Ld (Option State) :=
  if x.layers = 0 ∨ x.areas.isSome then .ok (some s)
  else do
    let h ← s.ld (agentOf x.ctx) x.layers 64
    if !layerHeaderOk h then pure (some s)
    else
      let nc := 1024 * field h 4 4; let nl := 1024 * field h 8 4
      let staging := s.clusters.filterMap (fun (e : Nat × Cluster) => e.2.staging.map (fun x => (x.2.2, 0x1000000)))
      match fitBelow 0x1C0000 nc (s.areasIn false), fitBelow 0x17C0000 nl (s.areasIn true ++ staging) with
      | some a, some b =>
        if s.areaGranted false a nc || s.areaGranted true b nl then pure none
        else pure (some (s.setGraph g { x with areas := some (a, b), header := h }))
      | _, _ => pure none

/-- The lowest place of `size` bytes at or above 0 and below `limit` beside ranges in use. -/
def fitAbove (limit size : Nat) (used : List (Nat × Nat)) : Option Nat :=
  ((0 :: used.map (fun u => u.1 + u.2)).filter (fun o => decide (o + size ≤ limit) && !used.any (fun u => rangesMeet o size u.1 u.2))).foldl
    (fun b o => match b with
      | none => some o
      | some v => some (min v o)) none

/-- Where a cluster can take the staging of a copy: 16 MiB of its store outside the stash and every running task's grants (R171). -/
def State.stagingPlace (s : State) (n : Nat) : Option Nat :=
  let at_ := clusterBase + n * 0x2000000
  let granted := s.trh.graphs.flatMap (fun (e : Nat × Graph) => e.2.tasks.flatMap (fun t =>
    if t.2.phase = Phase.running then (t.2.grants.filter (fun a => rangesMeet a.1 a.2 at_ 0x1800000)).map (fun a => (a.1 - at_, a.2)) else []))
  if (s.cluster n).staging.isSome then none else fitAbove 0x17C0000 0x1000000 (s.areasIn true ++ granted)

/-! ## The loader's checks in order (R224, R225, R254, R299) -/

/-- What the checks leave: successors, the operation block or core table, the copies of structures. -/
structure Loaded where
  succ : List Nat
  op : List Byte
  m : Copies
  deriving DecidableEq, Repr

/-- Whether a task stands in its graph's root list (Table 10.1). -/
def State.isRoot (s : State) (x : Graph) (i : Nat) : Bool :=
  let n := field x.desc 0x0C 4
  (range n).any (fun k => decide (fromBytes (s.peek x.ctx (field x.desc 0x10 8 + 4 * k) 4) = i))

/-- Who reads a task's structures: its context, under the grants of the cores it can have now. -/
def State.loader (s : State) (x : Graph) (i : Nat) (cores : List Nat) : Who :=
  ⟨x.ctx, some (s.grantsFor (s.taskDesc x i) (if cores.length < s.coresWanted x i then s.eligible x i else cores)), some 0x34⟩

/-- Table 10.5 in row order: the successors and the core table of a hand-mapped task (R299). -/
def State.dispatchChecks (s : State) (w : Who) (x : Graph) (i : Nat) : Ld (List Nat × List Byte) := do
  let d := s.taskDesc x i
  let succ ← s.ldDispatch w x d (s.isRoot x i)
  let tab ← (if tdKind d = 1 then do
      Ld.need (tdCores d ≤ (s.eligible x i).length) 0x204
      let t ← s.ld w (tdWork d) (128 * tdCores d)
      Ld.need ((range (tdCores d)).all (fun e => ctClean (ctEntry t e))) 0x204
      pure t
    else pure [])
  Ld.need (s.bindsOk x d) 0xA04
  pure (succ, tab)

/-- Table 10.5, then Table 7.7 or 7.8, then rows 12 to 15 of Table 8.9; `cores` are the cores that the task can have now (R224, R299). A
task that has passed keeps its copies, and only what rests on its cores and on the stash is looked at again (R144). -/
def State.loadChecks (s : State) (g : Nat) (x : Graph) (i : Nat) (cores : List Nat) : Ld Loaded := do
  let d := s.taskDesc x i
  let w := s.loader x i cores
  let t := x.task i
  if t.checked then do
    if tdKind d = 1 then s.ldHand t.op (tdCores d) cores else pure ()
    Ld.need (!s.readsLost g i t.op) 0x701
    pure ⟨t.succ, t.op, t.descs⟩
  else do
    let (succ, tab) ← s.dispatchChecks w x i
    let (op, m) ← (match tdKind d with
      | 0 => s.ldMapped w (tdWork d)
      | 1 => do
          s.ldHand tab (tdCores d) cores
          pure (tab, [])
      | _ => pure ([], []))
    let m ← (if tdHasLayer d then s.ldLayer w x t d m else pure m)
    Ld.need (!s.readsLost g i op) 0x701
    pure ⟨succ, op, resolveWeights m t⟩

/-- The task keeps what its checks have read (R144). -/
def State.keepLoaded (s : State) (g i : Nat) (l : Loaded) : State :=
  s.modTask g i (fun t => { t with checked := true, op := l.op, descs := l.m, succ := l.succ })

/-! ## The stash reservation (R243, R244) -/

/-- Free granules of a graph's stash in order of their tiers (R243). -/
def State.freeGranules (s : State) (x : Graph) (h : List Byte) : List (Nat × Nat) :=
  let used := x.stash.flatMap Stash.granules
  let nc := field h 4 4 / 64; let nl := field h 8 4 / 64
  let core := ((range 648).filter (fun c => !s.retired (clusterOf c))).flatMap (fun c => (range nc).map (fun k => (0, c * nc + k)))
  let clus := ((range 36).filter (fun n => !s.retired n)).flatMap (fun n => (range nl).map (fun k => (1, n * nl + k)))
  let hbm := (range (field h 0x18 8 / 65536)).map (fun k => (2, k))
  (core ++ clus ++ hbm).filter (fun e => !used.contains e)

/-- The reservation made when the first task of a kept layer's FWD range is checked for a micro-batch: the state and the code
of a failure for a layer that cannot be demoted (R243, R244). -/
def State.reserve (s : State) (g i : Nat) (m : Copies) : State × Nat :=
  match s.graph g with
  | none => (s, 0)
  | some x =>
    let d := s.taskDesc x i; let r := m.at_ 49
    let l := tdLayer d; let mb := tdMbatch d
    if tdHasLayer d && lrKeep r && inRange r 0x18 i && (x.stashOf l mb).isNone && !x.demoted.contains (l, mb) then
      let n := cdiv (dsDense (m.at_ 51)) 65536
      let free := (s.freeGranules x (m.at_ 48)).take n
      if free.length = n then (s.setGraph g { x with stash := x.stash ++ [⟨l, mb, free, false, false⟩] }, 0)
      else if lrDemotable r then
        let s := s.setGraph g { x with demoted := x.demoted ++ [(l, mb)] }
        let s := { s with sys := { s.sys with demoted := satAdd 32 s.sys.demoted 1 } }
        (s.informTask g i 0x207, 0)
      else (s, 0x206)
    else (s, 0)

/-! ## Starting a task -/

/-- Puts a task on a core; a table slot that held a loaded image is emptied (R138). -/
def State.placeCore (s : State) (g i x step : Nat) (hand : Bool) (entry : List Byte) (c : Nat) : State :=
  s.modCore c (fun k => { k with
    seq := .idle
    task := some ⟨g, i, x, step, hand⟩
    prog := []
    live := { a := (range 16).foldl (fun m n => mset 0 m n (BitVec.ofNat 48 (ctReg entry n))) [] }
    ramb := { reqs := k.ramb.reqs, cycle := k.ramb.cycle, last := k.ramb.last, refetch := k.ramb.refetch, dropped := k.ramb.dropped
              stop := .stepping }
    deliveries := []
    t1 := if k.t1 = 0xF then 0 else k.t1, t1off := if k.t1 = 0xF then 0 else k.t1off
    t2 := if k.t2 = 0xF then 0 else k.t2, t2off := if k.t2 = 0xF then 0 else k.t2off })

/-- Starts every core of a task, in order, until one suspends or fails it (R142). -/
def State.startCores (s : State) (cores : List Nat) : State :=
  cores.foldl (fun s c => match (s.core c).task with
    | some t => if (s.taskOf t.graph t.task).interruptReq then s else s.startCore c t
    | none => s) s

/-- The units of the cluster DMA engines of a task (R210, R170). -/
def Job.dmaUnits (j : Job) (s : State) : List Nat :=
  match j.op with
  | 8 => range j.unitCount
  | 9 => range (clCount (j.m.at_ 2))
  | 0xA => if s.copyNoop j.b j.m then [] else if s.copyStaged j.b j.m then [0, 1] else range j.unitCount
  | _ => []

/-- Starts a task that has passed its checks on its cores (R290 to R292, R138). -/
def State.startTask (s : State) (g i : Nat) (x : Graph) (cores : List Nat) (l : Loaded) (staging : Option (Nat × Nat)) : State :=
  let d := s.taskDesc x i
  let step := ((s.ctx x.ctx).bind Ctx.step).getD 0
  let s := match staging with
    | some (n, o) => s.modCluster n (fun q => { q with staging := some (g, i, o) })
    | none => s
  let grants := s.grantsFor d cores
  let s := grants.foldl (fun s e => s.own x.ctx e) s
  let s := s.modTask g i (fun t => { t with
    phase := .running, op := l.op, descs := l.m, succ := l.succ, cores := cores, widths := cores.map s.width, left := cores
    grants := grants, saves := [], interruptReq := false, step := step, dispatched := s.trh.dispatched })
  let j := s.jobOf g i
  let mapped := decide (tdKind d = 0)
  let s := s.modTask g i (fun t => { t with
    units := if mapped then j.dealTask s cores (cores.map s.width) else []
    dmaLeft := if mapped then j.dmaUnits s else [] })
  let s := (cores.mapIdx (fun e c => (e, c))).foldl (fun s e =>
    s.placeCore g i x.ctx step (!mapped) (ctEntry l.op e.1) e.2) s
  s.startCores cores

/-- Notes a dispatch: the count, the context served, the reservation that ends. -/
def State.noteDispatch (s : State) (x g i : Nat) : State :=
  { s with trh := { s.trh with
    dispatched := wrapAdd 48 s.trh.dispatched 1
    rr := x
    reserved := s.trh.reserved.filter (fun r => !decide (r.2.1 = g ∧ r.2.2 = i)) } }

/-- The update table is checked when the first task of its graph is dispatched (R263). -/
def State.updateChecks (s : State) (x : Graph) : Ld State :=
  if x.tasks.any (fun t => decide (t.2.phase ≠ .idle ∧ t.2.phase ≠ .window ∧ t.2.phase ≠ .spilled)) then pure s
  else s.openUpdates x

/-- What a failed check does: the task fails, or the context is suspended with the read reported (R224). -/
def State.loadFails (s : State) (g i x : Nat) (e : LdErr) : State :=
  match e with
  | .code c => s.failTask g i c
  | .acc (.miss va) => s.suspend x va false
  | .acc a => (s.noteAcc (agentOf x) a).failTask g i a.code

/-- The cores and the staging cluster that a checked task can have now: none where it lacks some (R171, R291, R292). A staged copy runs
on the eligible cores of one cluster. -/
def State.placeFor (s : State) (g i : Nat) (x : Graph) (l : Loaded) : Option (List Nat × Option (Nat × Nat)) :=
  let d := s.taskDesc x i
  let free := s.freeCores x g i
  let some_ (cores : List Nat) (n : Nat) : Bool :=
    decide (n ≠ 0) && decide (cores.length = n) && !s.grantsClash x.ctx (s.grantsFor d cores)
  if tdKind d = 2 then some ([], none)
  else if decide (tdKind d = 0) && s.copyStaged l.op l.m then
    (range 36).findSome? (fun k =>
      let here (c : Nat) : Bool := decide (clusterOf c = k)
      let n := min (tdCores d) ((s.eligible x i).filter here).length
      let cores := (free.filter here).take n
      if some_ cores n then (s.stagingPlace k).map (fun o => (cores, some (k, o))) else none)
  else
    let n := s.coresWanted x i
    if some_ (free.take n) n then some (free.take n, none) else none

/-- Whether every write of a task is complete (R295 step 1). -/
def State.writesDone (s : State) (g i : Nat) : Bool :=
  let t := s.taskOf g i
  t.cores.all (fun c => (s.core c).quiet)
    && !s.nxp.ops.any (fun o => match o.owner with
      | .task g' i' => decide (g' = g ∧ i' = i)
      | .core c _ => t.cores.contains c && decide (o.packet.op ≠ 1)
      | _ => false)

/-- Completes a task whose work has ended once its writes are complete, its stash copy among them, and counting its successors meets no
miss (R245, R295). -/
def State.tryComplete (s : State) (g i : Nat) : State :=
  let t := s.taskOf g i
  match s.graph g with
  | none => s
  | some x =>
    if t.phase ≠ .running ∨ t.left ≠ [] ∨ t.dmaLeft ≠ [] ∨ s.writesDone g i = false then s
    else
      match s.fillMiss g i with
      | some va => s.suspend x.ctx va false
      | none =>
        if (s.stashFill g i).isSome then s
        else
          match s.countMiss g i with
          | some (va, store) => s.suspend x.ctx va store
          | none => s.completeTask g i

/-- A task that takes no core ends as soon as its writes are complete (R291). -/
def State.runNull (s : State) (g i : Nat) (l : Loaded) : State :=
  (s.modTask g i (fun t => { t with phase := .running, succ := l.succ, op := l.op, descs := l.m, left := [], dmaLeft := [] })).tryComplete g i

/-- What trying a task leaves: the state, and whether the task was dispatched, or failed, or suspended its context. -/
abbrev Tried := State × Bool

/-- A task of the RCP range of a held layer passes Table 10.5 and completes without running (R246, R299). -/
def State.trySpared (s : State) (g i : Nat) (x : Graph) : Tried :=
  match s.dispatchChecks (s.loader x i []) x i with
  | .error e => (s.loadFails g i x.ctx e, true)
  | .ok (succ, _) => (s.runNull g i ⟨succ, [], []⟩, true)

/-- Starts a task that has passed its checks, if it can have its cores and its staging (R263, R290). -/
def State.tryStart (s : State) (g i : Nat) (x : Graph) (l : Loaded) : Option State :=
  match s.placeFor g i x l with
  | none => none
  | some (cores, staging) =>
    match s.updateChecks x with
    | .error e => some (s.loadFails g i x.ctx e)
    | .ok s =>
      let (s, code) := s.reserve g i l.m
      if code ≠ 0 then some (s.failTask g i code)
      else
        let s := s.noteDispatch x.ctx g i
        some (if tdKind (s.taskDesc x i) = 2 then s.runNull g i l else s.startTask g i x cores l staging)

/-- Tries to dispatch a ready task: it is checked first, beside the stash areas that its graph would take (R242, R299); it waits with its
copies where it lacks cores, stores, staging or the areas (R144, R290). -/
def State.tryReady (s : State) (g i : Nat) (x : Graph) : Tried :=
  if s.spared x i then s.trySpared g i x
  else
    let areas := s.takeAreas g x
    let beside := match areas with
      | .ok (some u) => u
      | _ => s
    match beside.loadChecks g x i ((s.freeCores x g i).take (s.coresWanted x i)), areas with
    | .error e, _ => (s.loadFails g i x.ctx e, true)
    | .ok _, .error e => (s.loadFails g i x.ctx e, true)
    | .ok l, .ok none => (s.keepLoaded g i l, false)
    | .ok l, .ok (some u) =>
      match u.tryStart g i x l with
      | some v => (v, true)
      | none => (s.keepLoaded g i l, false)

/-- Whether the widths of an interrupted task's cores are still ones it can run on (R214, R227). -/
def State.widthsOk (s : State) (t : Task) : Bool :=
  if tdKind t.copy = 1 then (t.cores.mapIdx (fun e c => ctHas (ctEntry t.op e) (s.width c))).all id
  else decide (t.cores.map s.width = t.widths)

/-- Tries to resume an interrupted task on its cores (R293, R214): none while one is not free. -/
def State.tryResume (s : State) (g i : Nat) (x : Graph) : Option State :=
  let t := x.task i
  let ok := t.cores.all (fun c => s.inService c && decide ((s.core c).task = none) && !s.reservedBy x.ctx g i c)
  if !ok || s.grantsClash x.ctx t.grants then none
  else
    let s := s.noteDispatch x.ctx g i
    if !s.widthsOk t then some (s.failTask g i 0x208)
    else
      let s := t.grants.foldl (fun s e => s.own x.ctx e) s
      let s := s.modTask g i (fun t => { t with phase := .running, dispatched := s.trh.dispatched })
      some (t.cores.foldl (fun s c =>
        let s := s.placeCore g i x.ctx t.step (decide (tdKind t.copy = 1)) [] c
        if t.left.contains c then s else s.modCore c Core.finished) s)

/-- Tries a candidate. -/
def State.tryCand (s : State) (c : Cand) : Tried :=
  match s.graph c.g with
  | some x =>
    if (x.task c.i).phase = .interrupted then
      match s.tryResume c.g c.i x with
      | some t => (t, true)
      | none => (s, false)
    else s.tryReady c.g c.i x
  | none => (s, false)

/-- Tries the candidates of a context in order until one is served (R290). -/
def State.tryAll (s : State) : List Cand → Tried
  | [] => (s, false)
  | c :: r =>
    match s.tryCand c with
    | (t, true) => (t, true)
    | (t, false) => t.tryAll r

/-- Tries contexts in order until one is served (R290). -/
def State.tryTurns (s : State) : List Nat → Tried
  | [] => (s, false)
  | x :: r =>
    match s.tryAll (s.candidates x) with
    | (t, true) => (t, true)
    | (t, false) => t.tryTurns r

/-- The contexts in round-robin order after the one served last (R290). -/
def State.turns (s : State) : List Nat := (range 64).map (fun k => (s.trh.rr + 1 + k) % 64)

/-- TASK_DISPATCH (R290 to R292, R299): a structure that Trailhead needs and that misses in translation suspends its context first. -/
def execTaskDispatch (s : State) : Out State :=
  if s.power.stopped then .next s
  else
    match s.trh.graphs.findSome? (fun e => (e.2.tasks.findSome? (fun t => s.readinessMiss e.2 t.1)).map (fun va => (e.2.ctx, va))) with
    | some (x, va) => .next (s.suspend x va false)
    | none => .next (s.tryTurns s.turns).1

/-- TASK_CORE_RESERVE (R290): the task that is first in a context's order reserves each eligible core as it frees. -/
def execTaskCoreReserve (x : Nat) (s : State) : Out State :=
  match s.candidates x with
  | c :: _ =>
    if s.power.stopped || s.trh.reserved.contains (x, c.g, c.i) then .next s
    else .next { s with trh := { s.trh with reserved := s.trh.reserved ++ [(x, c.g, c.i)] } }
  | [] => .next s

/-! ## Preemption (R293) -/

/-- Asks a running task to interrupt; one whose cores have all finished completes instead. -/
def State.askInterrupt (s : State) (g i : Nat) : State := s.modTask g i (fun t => { t with interruptReq := decide (t.left ≠ []) })

/-- The running tasks of contexts of lower priority: lowest priority first, the most recently dispatched first. -/
def State.victims (s : State) (prio : Nat) : List Cand :=
  (s.trh.graphs.flatMap (fun (e : Nat × Graph) =>
    let p := ((s.ctx e.2.ctx).map Ctx.prio).getD 0
    if prio ≤ p then []
    else (e.2.tasks.filter (fun t => decide (t.2.phase = Phase.running))).map (fun (t : Nat × Task) =>
      (⟨e.1, t.1, [p, 2 ^ 64 - t.2.dispatched]⟩ : Cand)))).mergeSort (fun a b => keyLe a.key b.key)

/-- Interrupts victims until enough of the cores a task needs are free or will be. -/
def State.preempt (s : State) (want : List Nat) (need : Nat) : Nat → List Cand → State
  | _, [] => s
  | got, v :: r =>
    if need ≤ got then s
    else
      let n := ((s.taskOf v.g v.i).cores.filter want.contains).length
      if n = 0 then s.preempt want need got r else (s.askInterrupt v.g v.i).preempt want need (got + n) r

/-- The eligible cores a candidate needs, and how many it needs. -/
def State.needs (s : State) (c : Cand) : List Nat × Nat :=
  match s.graph c.g with
  | none => ([], 0)
  | some x =>
    if (x.task c.i).phase = .interrupted then ((x.task c.i).cores, (x.task c.i).cores.length)
    else (s.eligible x c.i, s.coresWanted x c.i)

/-- PREEMPT (R293): a task of context `x` has been dispatchable for 200 µs and lacks cores that lower-priority contexts hold. -/
def execPreempt (x : Nat) (s : State) : Out State :=
  let prio := ((s.ctx x).map Ctx.prio).getD 0
  let lacking := (s.candidates x).find? (fun c =>
    let (want, n) := s.needs c
    decide ((want.filter (fun k => decide ((s.core k).task = none))).length < n))
  match lacking with
  | none => .next s
  | some c =>
    if s.power.stopped then .next s
    else
      let (want, n) := s.needs c
      .next (s.preempt want n (want.filter (fun k => decide ((s.core k).task = none))).length (s.victims prio))

/-! ## Completion (R295) -/

/-- TASK_COMPLETE (R295): all cores of the task have finished and every write of it is complete, the stash copy included. -/
def execTaskComplete (g i : Nat) (s : State) : Out State := if s.power.stopped then .next s else .next (s.tryComplete g i)

/-! ## Waymarks at their home (R300 to R302, R308) -/

/-- An add reaches its home (R300), or is refused (R305); an alias that no longer names this device is forwarded. -/
def State.deliver (s : State) (a : Add) : State :=
  match s.home a.key with
  | .here k _ => s.applyAdd k a.inc
  | .refused | .unbound => s.addFailed a.key 0xA04 a.by_
  | .far _ =>
    match s.sendAdd a.src a.key a.inc a.by_ with
    | (t, 0) => t
    | (t, c) => t.addFailed a.key c a.by_

/-- WAYMARK_COUNT_ADD (R300): the add at a position of those in flight reaches its home, unless one that its source sent earlier to the
same home has yet to (R32). -/
def execWaymarkCountAdd (n : Nat) (s : State) : Out State :=
  if s.power.stopped then .next s
  else
    match s.wmk.adds[n]? with
    | none => .next s
    | some a =>
      if s.addFirst n a then .next ((s.modWmk (fun m => { m with adds := m.adds.eraseIdx n })).deliver a) else .next s

/-- A wait that its home refuses fails what waits (R305, R306); an Evile die's wait goes on. -/
def State.waitRefused (s : State) (w : Wait) : State :=
  let done (s : State) : State := s.modWmk (fun m => { m with waits := m.waits.erase w })
  match w.who with
  | .core c => (done s).failCore c 0xA04 (s.core c).live.pc ((s.core c).prog.getD (s.core c).live.pc 0)
  | .task g i _ => (done s).failTask g i 0xA04
  | .evile _ _ _ => s

/-- WATCH_POLL (R308): a wait without a watch reads the count; `remote` is what another device answered, none where it refused. -/
def execWatchPoll (n : Nat) (remote : Option Nat) (s : State) : Out State :=
  match s.wmk.waits[n]? with
  | none => .next s
  | some w =>
    if s.power.stopped || decide (w.how ≠ .poll) || w.released then .next s
    else
      match s.home w.key, remote with
      | .unbound, _ => .next s
      | .refused, _ | .far _, none => .next (s.waitRefused w)
      | .far _, some v => .next (if w.threshold ≤ v then s.releaseWait w else s)
      | .here _ b, _ => .next (if w.threshold ≤ b.count then s.releaseWait w else s)

end Sys2Proof.Machine
end

