-- ==== Sys2Proof/Machine/Update.lean ====
section
/-! DEFINITION. The parameter update (R252, R257, R266 to R279): contributions, the update rules, commit, publication and pulls. -/

namespace Sys2Proof.Machine

/-! ## Contributions (R266 to R268) -/

/-- The bytes of a chunk as a device sends it: its gradient elements, and for a sparse record the presence bits, which the spec
does not define further, as free bytes (log 46). -/
def State.contribution (s : State) (x : Nat) (b : List Byte) (c : Nat) : List Byte :=
  let g : Src := ⟨s.peek x (prGrad b) 128, [], none⟩
  let sp := prSparse b
  let (first, n) := chunkAt (s.weightOf x b) sp c
  let data := packBits (dsBits g.d) ((range n).map (fun k => g.enc s x (coordsAt g.d (first + k))))
  if sp then slice data 0 65536 ++ (range (cdiv (n / max 1 (dsSize g.d 0)) 8)).map (Config.freeByte s.tick) else data

/-- The ranges of the gradient that a chunk reads. -/
def State.contributionAt (s : State) (x : Nat) (b : List Byte) (c : Nat) : List (Nat × Nat) :=
  let g := s.peek x (prGrad b) 128
  let (first, n) := chunkAt (s.weightOf x b) (prSparse b) c
  (range n).map (fun k => ((elemPlace g (coordsAt g (first + k))).1, dsBits g / 8))

/-- The owner's device with its hall. -/
def prOwnerDev (b : List Byte) : Nat := prFirst b + prOwner b

/-- Sends a chunk to another device: WRITE packets, the last a WRITE_SIGNAL on FILL_WMK + k (R267, R367). -/
def State.sendChunk (s : State) (x : Nat) (r : Rec) (k : Nat) (bs : List Byte) : State :=
  let b := r.bytes
  let pieces := (chunks 4096 bs).mapIdx (fun i c => (landingAddr (prMark b 2) k (4096 * i), c))
  let last := pieces.length - 1
  (pieces.mapIdx (fun i p => (i, p))).foldl (fun (s : State) e =>
    let id := (s.binding (wkey x (prMark b 2 + k))).map Binding.remoteAddr |>.getD (prMark b 2 + k + 2 ^ 20 * x)
    let trailer := if e.1 = last then toBytes 8 id ++ toBytes 8 1 else []
    (s.request (.record (recKey x (prVersion b))) r.die x (if e.1 = last then 3 else 2) (prOwnerDev b) e.2.2.length e.2.1 false
      (e.2.2 ++ trailer)).1) s

/-- CONTRIBUTION_SEND (R267): the next chunk of this device's gradient goes into its slot of the owner's window. -/
def execContributionSend (x a : Nat) (s : State) : Out State :=
  match s.record x a with
  | none => .next s
  | some r =>
    let b := r.bytes; let d := s.weightOf x b
    let nc := chunkCount d (prSparse b)
    let c := r.sent % nc
    let i := r.sent * prR b + s.rankOf b
    if s.power.stopped || r.failed then .next s
    else if !s.dieMet x r 0 || !s.dieMet x r 1 then .next (s.armRecord x a)
    else
      let k := i % prSlots b
      .next (s.dieWork x a (fun s => s.contributionAt x b c) (fun _ => []) (fun s =>
        let bs := s.contribution x b c
        let s := (s.modRec x a (fun r => { r with sent := r.sent + 1 })).advance
        if r.owner then
          let s := { s with evl := { s.evl with landing := mwrite 0 s.evl.landing (landingKey x (prMark b 2) k 0) bs } }
          (s.dieAdd x r (prMark b 2 + k) 1).armRecord x a
        else (s.sendChunk x r k bs).armRecord x a))

/-- Whether a row of a chunk is present in a landing slot. -/
def landedRow (s : State) (base row : Nat) : Bool := bit (mget 0 s.evl.landing (base + 65536 + row / 8)).toNat (row % 8)

/-- A contribution of a discarded round: its credit returns; once the round is whole the record publishes again (R412). -/
def State.discardRound (s : State) (x a : Nat) : State :=
  match s.record x a with
  | none => s
  | some r =>
    let b := r.bytes
    let s := s.dieAdd x r (prMark b 1) 1
    if r.taken < (r.rounds + 1) * chunkCount (s.weightOf x b) (prSparse b) * prR b then s
    else (s.setRec x a { r with discard := false, rounds := r.rounds + 1, published := r.published + 1 }).publish x r

/-- CONTRIBUTION_TAKE (R268): the owner adds the next contribution to the gradient sum, in the order of its index, and returns a
credit. -/
def execContributionTake (x a : Nat) (s : State) : Out State :=
  match s.record x a with
  | none => .next s
  | some r =>
    let b := r.bytes; let d := s.weightOf x b
    let sp := prSparse b
    let nc := chunkCount d sp
    let i := r.taken; let slots := prSlots b
    let k := i % slots
    if s.power.stopped || !r.owner || r.failed || decide (r.phase ≠ .taking) || decide ((r.rounds + 1) * nc * prR b ≤ i) then .next s
    else if !s.dieMet x r 2 then .next (s.armRecord x a)
    else
      let c := i / prR b % nc; let rank := i % prR b
      let (first, n) := chunkAt d sp c
      let base := landingKey x (prMark b 2) k 0
      let ty := dsType (s.peek x (prGrad b) 128)
      let w := typeBits ty / 8
      let s0 := max 1 (dsSize d 0)
      let val (e : Nat) : Nat := asF32 ty (fromBytes (mread 0 s.evl.landing (base + w * e) w))
      let skip (e : Nat) : Bool := sp && !landedRow s base (e / s0)
      let fresh (e : Nat) : Bool := if sp then !r.present.contains ((first + e) / s0) else decide (rank = 0)
      let at_ (e : Nat) : Nat := prGsum b + 4 * (first + e)
      let sum (s : State) : State :=
        (chunks s0 ((range n).filter (fun e => !skip e))).foldl (fun (s : State) l =>
          s.putWords x (at_ (l.headD 0)) (l.map (fun e => if fresh e then val e else f32add (s.word x (at_ e)) (val e)))) s
      let rows := if sp then ((range (n / s0)).filter (fun q => landedRow s base q)).map (fun q => first / s0 + q) else []
      if r.discard then .next (((s.modRec x a (fun r => { r with taken := i + 1 })).discardRound x a).armRecord x a)
      else
        .next (s.dieWork x a (fun _ => ((range n).filter (fun e => !skip e && !fresh e)).map (fun e => (at_ e, 4)))
          (fun _ => ((range n).filter (fun e => !skip e)).map (fun e => (at_ e, 4))) (fun s =>
            (((sum s).modRec x a (fun r => { r with
              taken := i + 1, present := r.present ++ rows.filter (fun q => !r.present.contains q) })).dieAdd x r (prMark b 1) 1).armRecord x a))

/-- The whole computation of an update on its rows: rule 0 or 2, or phase A of rule 1 (R269 to R276). -/
def Upd.compute (u : Upd) (s : State) : State :=
  let a := prVersion u.b
  let rule := geRule u.e
  let g := u.grads s
  let out := g.map (fun e =>
    let (w, m, v) := u.old s e.1
    let dl := u.delta s e.1
    (e.1, e.2, ((range u.s0).map (fun c => u.elem dl (nth 0 m c) (nth 0 v c) (nth 0 w c) (nth 0 e.2 c)))))
  let bad := out.any (fun e => e.2.1.any f32bad || e.2.2.any (fun r =>
    f32bad r.1 || f32bad r.2.1 || f32bad r.2.2.1 || (decide (rule ≠ 1) && f32bad r.2.2.2)))
  if prSparse u.b ∧ prJrows u.b < out.length then s.modRec u.x a (fun r => { r with journalFull := true, phase := .computed })
  else
    let s := if prSparse u.b then u.copySlot s else s
    let s := (out.mapIdx (fun k e => (k, e))).foldl (fun (s : State) (e : Nat × Nat × List Nat × List (Nat × Nat × Nat × Nat)) =>
      let rr := e.2.2.2
      let m := rr.map (fun r => r.1); let v := rr.map (fun r => r.2.1); let uu := rr.map (fun r => r.2.2.1)
      let w := rr.map (fun r => r.2.2.2)
      if rule = 1 then
        let um : Src := ⟨s.peek u.x (prMat u.b 0) 128, [], none⟩
        let s := s.putRow u.x um e.2.1 uu []
        u.writeBank s u.new_ e.2.1 (u.rowArrays m v (u.old s e.2.1).1)
      else u.writeSlot (u.writeRow s e.1 e.2.1 m v w) e.2.1 w) s
    let s := if prSparse u.b then s.putG u.x (prJournal u.b) (u.journalHeader out.length u.t)
      else s.putG u.x (u.bank u.new_) (toBytes 4 u.t ++ List.replicate 60 0)
    if rule = 1 then
      let s := s.modRec u.x a (fun r => { r with nonfinite := bad, phase := .phaseB, layers := r.layers + 1 })
      s.dieAdd u.x u.r (prMark u.b 5) 1
    else s.modRec u.x a (fun r => { r with nonfinite := bad, phase := .computed })

/-- SLOT_ACQUIRE (R251, R261, R271, R278): the update acquires slot j and computes its rule; a sparse one not before the journal of the
last is applied. -/
def execSlotAcquire (x a : Nat) (s : State) : Out State :=
  match s.record x a with
  | none => .next s
  | some r =>
    let b := r.bytes
    let nc := chunkCount (s.weightOf x b) (prSparse b)
    if s.power.stopped || !r.owner || r.failed || r.unapplied || decide (r.phase ≠ .taking)
      || decide (r.taken ≠ (r.rounds + 1) * nc * prR b) then .next s
    else
      match s.updOf x a r with
      | none => .next s
      | some u =>
        if !geValid u.e then
          .next (s.failRecord x a 0x604)
        else if !s.dieMet x r 7 || !s.dieMet x r 4 then .next (s.armRecord x a)
        else
          let s := s.setSlot x a u.new_ 2 none
          let s := s.modRec x a (fun r => { r with
            step := u.tag, slot := u.new_, nonfinite := false, journalFull := false, stalled := false })
          .next (s.dieWork x a u.reads u.writes (fun s => (u.compute s).armRecord x a))

/-- The work of phase C: w of every row from o, into the bank and the slot (R271). -/
def Upd.finishC (u : Upd) (s : State) : State :=
  let a := prVersion u.b
  let om : Src := ⟨s.peek u.x (prMat u.b 1) 128, [], none⟩
  let rows := u.rows.map (fun q =>
    let o := (range u.s0).map (fun c => om.enc s u.x (coordsOf om.d q c))
    (q, o, ((u.old s q).1.zip o).map (fun e => u.phaseC e.1 e.2)))
  let bad := rows.any (fun e => e.2.1.any f32bad || e.2.2.any f32bad)
  let s := rows.foldl (fun (s : State) e =>
    let s := s.putWords u.x (u.arr u.new_ 0 + 4 * (e.1 * u.s0)) e.2.2
    u.writeSlot s e.1 e.2.2) s
  (s.modRec u.x a (fun r => { r with phase := .computed, nonfinite := r.nonfinite || bad })).armRecord u.x a

/-- PHASE_C (R271): once ODONE_WMK reaches the record's count of Layer-rule updates, w is computed from o. -/
def execPhaseC (x a : Nat) (s : State) : Out State :=
  match s.record x a with
  | none => .next s
  | some r =>
    if s.power.stopped || r.failed || decide (r.phase ≠ .phaseB) then .next s
    else if !s.dieMet x r 6 then .next (s.armRecord x a)
    else
      match s.updOf x a r with
      | none => .next s
      | some u =>
        let wRows (j : Nat) : List (Nat × Nat) := u.rows.map (fun q => (u.arr j 0 + 4 * (q * u.s0), 4 * u.s0))
        .next (s.dieWork x a (fun s => u.matRanges s 1 ++ wRows u.cur) (fun _ => wRows u.new_ ++ u.slotRanges u.new_ u.rows)
          (fun s => u.finishC s))

/-! ## Commit and publication (R277 to R279) -/

/-- The records of a group of a context that this device owns. -/
def State.groupRecs (s : State) (x group : Nat) : List Rec :=
  (s.evl.recs.filter (fun e => decide (e.2.ctx = x) && e.2.owner && decide (prGroup e.2.bytes = group))).map Prod.snd

/-- Whether a record has finished its round for a step (R277). One that has failed, with whatever code, counts as finished, so that the
rest of its group commits: the spec does not say what the group's wait does then (log 45). -/
def Rec.finishedFor (r : Rec) (v : Nat) : Bool :=
  r.failed || (decide (r.phase = .computed) && decide (r.step = v)) || decide (r.committed = some v)

/-- The verdict on a group's update, made once: withheld if a record is non-finite or its journal is full; the reply names the
group and the first failing record in the update table (R277, Table 11.10). -/
def State.judge (s : State) (x group v : Nat) : State :=
  let recs := s.groupRecs x group
  let isBad (r : Rec) : Bool := decide (r.step = v) && (r.nonfinite || r.journalFull)
  let first := (recs.filter isBad).foldl (fun (m : Option Rec) r => match m with
    | some q => if r.index < q.index then some r else m
    | none => some r) none
  let s := recs.foldl (fun s r => s.modRec x (prVersion r.bytes) (fun r => { r with verdict := some first.isSome })) s
  match first with
  | some r => s.event x (if r.journalFull then 0x603 else 0x602) (toBytes 4 r.index ++ toBytes 1 group)
  | none => s

/-- A checkpoint in progress takes its reference to the slot of a record that holds its step (R250, R419). -/
def State.thermosRef (s : State) (x a : Nat) : State :=
  match (s.ctx x).bind Ctx.ckpt, s.record x a with
  | some k, some r =>
    if !r.owner || r.thermos.isSome then s
    else
      let v := s.peek x a 64
      match vrHolds v k.step with
      | some j => (s.poke x (a + 0x28 + 8 * j) (toBytes 8 (vrAcq v j + 1))).modRec x a (fun r => { r with thermos := some j })
      | none => s
  | _, _ => s

/-- What a commit reads: the version record, and where it is withheld the old slot and bank, else a sparse record's journal (R277, R278). -/
def Upd.commitReads (u : Upd) (s : State) (held : Bool) : List (Nat × Nat) :=
  [(prVersion u.b, 64)] ++
    (if held then (u.bank u.cur, if prSparse u.b then 4 else bankSize u.arrays) :: u.slotRanges u.cur (range (dsRows u.d))
    else if prSparse u.b then
      [(prJournal u.b, 64 + s.word u.x (prJournal u.b) * journalEntry (geRule u.e) u.s0)]
    else [])

/-- What a commit writes. -/
def Upd.commitWrites (u : Upd) (_ : State) (held : Bool) : List (Nat × Nat) :=
  [(prVersion u.b, 64)] ++
    (if held then (if prSparse u.b then (prJournal u.b, 64) else (u.bank u.new_, bankSize u.arrays))
        :: u.slotRanges u.new_ (range (dsRows u.d))
    else if prSparse u.b then (u.bank u.cur, 64) :: u.bankRanges u.cur ++ u.rows.map (fun r => (u.touchAt r, 4))
    else [])

/-- The record commits version v + 1, withheld or not, and publishes it (R277, R278). -/
def Upd.commit (u : Upd) (s : State) (held : Bool) : State :=
  let x := u.x; let r := u.r; let a := prVersion u.b
  let s := if held then
      let s := u.copySlot s
      if prSparse u.b then s.putG x (prJournal u.b) (u.journalHeader 0 (s.word x (u.bank u.cur)))
      else s.copyG x (u.bank u.cur) (u.bank u.new_) (bankSize u.arrays)
    else s
  let s := s.setSlot x a r.slot 1 (some ((r.step + 1) % 2 ^ 32))
  let s := (s.countWaiting x a).thermosRef x a
  let wait := prSparse u.b && !held && (((s.ctx x).bind Ctx.ckpt).map (fun k => decide (k.step ≠ (u.tag + 1) % 2 ^ 32))).getD false
  let s := if prSparse u.b ∧ held = false ∧ wait = false then u.applyJournal s else s
  let s := (s.publish x r).modRec x a (fun r => { r with
    phase := .taking, unapplied := wait, rounds := r.rounds + 1, present := [], committed := some r.step, verdict := none
    published := r.published + 1 })
  let s := s.armRecord x a
  { s with evl := { s.evl with
    committed := mset 0 s.evl.committed r.die (wrapAdd 32 (mget 0 s.evl.committed r.die) 1)
    withheld := if held then mset 0 s.evl.withheld r.die (satAdd 32 (mget 0 s.evl.withheld r.die) 1) else s.evl.withheld } }

/-- A checkpoint has ended: the journals that waited for it are applied (R419). -/
def State.applyWaiting (s : State) (x : Nat) : State :=
  (s.evl.recs.filter (fun e => decide (e.2.ctx = x) && e.2.unapplied)).foldl (fun (s : State) (e : Nat × Rec) =>
    let a := prVersion e.2.bytes; let v := s.peek x a 64
    let cur := (vrNewest v).getD 0
    let u : Upd := ⟨x, e.2, s.weightOf x e.2.bytes, v, s.checkEntry x (prGroup e.2.bytes), vrTag v cur, cur, 1 - cur, 0⟩
    s.dieWork x a (fun s => u.commitReads s false) (fun s => u.commitWrites s false)
      (fun s => (u.applyJournal s).modRec x a (fun r => { r with unapplied := false }))) s

/-- UPDATE_COMMIT (R277, R278): the record commits version v + 1, withheld or not, and publishes it. -/
def execUpdateCommit (x a : Nat) (s : State) : Out State :=
  match s.record x a with
  | none => .next s
  | some r =>
    let group := prGroup r.bytes
    if s.power.stopped || r.failed || !r.owner || decide (r.phase ≠ .computed)
        || !(s.groupRecs x group).all (fun q => q.finishedFor r.step) then .next s
    else
      let s := if r.verdict.isNone then s.judge x group r.step else s
      let held := ((s.record x a).bind Rec.verdict).getD false
      match s.updOf x a r with
      | none => .next s
      | some u => .next (s.dieWork x a (fun s => u.commitReads s held) (fun s => u.commitWrites s held) (fun s => u.commit s held))

/-- The copies that a pull makes: the length of each, the owner's offset that it reads and this device's address that it writes, the slot's data
and then its scales (R279). -/
def Upd.pulls (u : Upd) (p : OwnerSlot) : List (Nat × Nat × Nat) :=
  let t := u.slot u.new_
  let f := dsFoot t
  ((f.2 - f.1 + 1).toNat, p.data, f.1.toNat) ::
    (if dsBlk u.d = 0 then [] else [(dsRows u.d * dsRowScales u.d, p.scales, localOf (dsScale t))])

/-- A pull begins: the slot is acquired, and Nunex bulk copies bring the owner's slot into it; one that cannot be issued fails the record
(R251, R279, R369). -/
def State.startPull (s : State) (u : Upd) (p : OwnerSlot) : State :=
  let a := prVersion u.b
  let s := (s.setSlot u.x a u.new_ 2 none).modRec u.x a (fun r => { r with pulling := some p.tag, slot := u.new_ })
  let r := (u.pulls p).foldl (fun (r : State × Nat) c =>
    if r.2 ≠ 0 then r
    else r.1.request (.record (recKey u.x a)) u.r.die u.x 5 (prOwnerDev u.b) 24 0 false
      (toBytes 8 c.2.1 ++ toBytes 8 c.2.2 ++ toBytes 8 c.1)) (s, 0)
  if r.2 = 0 then r.1 else r.1.failRecord u.x a r.2

/-- Whether bulk copies of a record's pull are on their way. -/
def State.pullsOut (s : State) (x a : Nat) : Bool :=
  s.nxp.ops.any (fun o => decide (o.owner = OpOwner.record (recKey x a) ∧ o.packet.op = 5))

/-- A pull is over, or was not needed: PULLED_WMK of the owner rises by 1 (R279). -/
def State.endPull (s : State) (x a : Nat) (r : Rec) : State :=
  ((s.modRec x a (fun r => { r with pulled := r.pulled + 1, stalled := false, pulling := none })).dieAdd x r
    (prMark r.bytes 4) 1).armRecord x a

/-- VERSION_PULL (R279): a replica's die begins to copy the version of step `p.tag` that the owner has published; once the copies are
complete, the row commits it: TAG, then STATE, and the tasks that wait for the version are counted (R250). A device that holds the version
already only adds to PULLED_WMK. -/
def execVersionPull (x a : Nat) (p : OwnerSlot) (s : State) : Out State :=
  match s.record x a with
  | none => .next s
  | some r =>
    if s.power.stopped || r.failed || r.owner then .next s
    else
      match r.pulling with
      | some tag =>
        if s.pullsOut x a then .next s
        else .next (((s.setSlot x a r.slot 1 (some tag)).countWaiting x a).endPull x a r)
      | none =>
        let v := s.peek x a 64
        if !s.dieMet x r 3 then .next (s.armRecord x a)
        else if (vrHolds v p.tag).isSome then .next (s.endPull x a r)
        else if !s.dieMet x r 7 then .next (s.armRecord x a)
        else .next (s.startPull ⟨x, r, s.weightOf x r.bytes, v, [], p.tag, 1 - vrNext v, vrNext v, 0⟩ p)

/-! ## VERSION_STALL_LIMIT (R252) -/

/-- Marks the tasks of a context that wait for a version of a record; whether one was not marked before. -/
def State.markStalled (s : State) (x a : Nat) : State × Bool :=
  s.trh.graphs.foldl (fun (r : State × Bool) (e : Nat × Graph) =>
    if e.2.ctx ≠ x then r
    else e.2.tasks.foldl (fun (r : State × Bool) (t : Nat × Task) =>
      match t.2.version with
      | some (a', v) =>
        if a' = a ∧ t.2.counted = false ∧ t.2.stalled = false ∧ t.2.phase = Phase.window ∧ vrFuture (s.peek x a 64) v = true then
          (r.1.modTask e.1 t.1 (fun t => { t with stalled := true }), true)
        else r
      | none => r) r) (s, false)

/-- VERSION_STALL_LIMIT (R252, R261): an update or a task has waited STALL_LIMIT ms: one informational reply; the wait goes on. -/
def execVersionStallLimit (x : Nat) (record : BitVec 64) (s : State) : Out State :=
  let a := record.toNat
  let upd := match s.record x a with
    | some r => !r.failed && !r.stalled && if !r.owner then s.dieMet x r 3 && !s.dieMet x r 7 else decide (r.phase = .taking)
        && decide (r.taken = (r.rounds + 1) * chunkCount (s.weightOf x r.bytes) (prSparse r.bytes) * prR r.bytes)
    | none => false
  let (s1, tasks) := s.markStalled x a
  if s.power.stopped || !(upd || tasks) then .next s
  else
    let s1 := if upd then s1.modRec x a (fun r => { r with stalled := true }) else s1
    .next (s1.event x 0x601 (toBytes 8 a))

end Sys2Proof.Machine
end

