-- ==== Sys2Proof/Machine/Commands.lean ====
section
/-! DEFINITION. Command rings (R324 to R332): the checks of Table 11.6, doorbells, COMMAND_PACKET and MSIX_DELAY. -/

namespace Sys2Proof.Machine

/-- Whether the device is in manager mode (R372). -/
def State.managerMode (s : State) : Bool := s.power.mgrSel || bit s.boot.image.flags 3

/-- Whether the device is an idle spare (R372). -/
def State.isSpare (s : State) : Bool := decide (s.nxp.role = 2)

/-! ## Opcodes (Table 11.8) -/

/-- A row of Table 11.8. -/
structure OpRow where
  opcode : Nat
  pf : Bool
  ctx : Bool
  long : Bool
  length : Nat
  deriving DecidableEq, Repr

/-- Table 11.8, with the lengths that the owning chapters give. -/
def opRows : List OpRow :=
  [⟨0x01, false, false, false, 24⟩, ⟨0x02, false, true, true, 0⟩, ⟨0x03, false, true, false, 24⟩, ⟨0x04, false, true, false, 16⟩,
   ⟨0x05, false, true, false, 0⟩, ⟨0x08, false, true, false, 8⟩, ⟨0x09, false, true, false, 4⟩, ⟨0x0A, false, true, false, 4⟩,
   ⟨0x0B, false, true, true, 4⟩, ⟨0x0C, false, true, false, 52⟩, ⟨0x10, false, true, false, 4⟩, ⟨0x11, true, true, false, 16⟩,
   ⟨0x18, false, true, true, 8⟩, ⟨0x19, false, true, true, 16⟩, ⟨0x1A, true, false, true, 12⟩, ⟨0x20, false, true, false, 24⟩,
   ⟨0x21, false, true, true, 24⟩, ⟨0x22, false, true, false, 4⟩, ⟨0x28, true, false, true, 4⟩, ⟨0x29, true, false, true, 0⟩,
   ⟨0x30, false, false, false, 20⟩, ⟨0x31, false, false, true, 40⟩, ⟨0x38, false, false, false, 4⟩]

/-- The row of an opcode. -/
def opRow (op : Nat) : Option OpRow := opRows.find? (fun r => decide (r.opcode = op))

/-- Whether this device serves an opcode: not CTX_CREATE, GRAPH_SUBMIT and INGEST_ in manager mode, not CTX_CREATE on a spare
(R372). -/
def State.serves (s : State) (op : Nat) : Bool :=
  !(s.managerMode && ([0x01, 0x08, 0x20, 0x21, 0x22] : List Nat).contains op) && !(s.isSpare && decide (op = 0x01))

/-- Whether a context exists and belongs to a function. -/
def State.owns (s : State) (fn x : Nat) : Bool := ((s.ctx x).map (fun c => decide (c.fn = fn))).getD false

/-- Whether a context's CTX_DESTROY has begun (R339). -/
def State.leaves (s : State) (x : Nat) : Bool := ((s.ctx x).map Ctx.leaving).getD false

/-- Whether the recovery state fails an opcode with SYS_BOOT.CODE: every one but QUERY, METER_READ and ATTEST (R443). -/
def State.recoveryRefuses (s : State) (op : Nat) : Bool := decide (s.boot.state = .recovery ∧ op ≠ 0x38 ∧ op ≠ 0x30 ∧ op ≠ 0x31)

/-- The checks of Table 11.6 that need no parameter, and R443: 0, or the code of the first that fails. -/
def State.headerCode (s : State) (fn op ctx : Nat) : Nat :=
  if s.recoveryRefuses op then s.boot.code
  else
    match opRow op with
    | none => 0x101
    | some r =>
      if (r.pf && decide (fn ≠ 0)) || !s.serves op then 0x101
      else if !r.ctx && decide (ctx ≠ 0) then 0x102
      else if r.ctx && !s.owns fn ctx then 0x103
      else 0

/-- Whether a command that has begun may still act on a context whose CTX_DESTROY has begun: the CTX_DESTROY itself, the commands
that it waits for, and those that it ends with their own code (R339). -/
def outlivesDestroy (op : Nat) : Bool := ([0x02, 0x03, 0x05, 0x11, 0x18, 0x19] : List Nat).contains op

/-- The code with which a command that has begun fails before its own rules: 0 if none (R331, R339). -/
def State.rowCode (s : State) (h : Cmd) (op : Nat) : Nat :=
  match s.headerCode h.fn op h.ctx with
  | 0 => if ((opRow op).map OpRow.ctx).getD false && s.leaves h.ctx && !outlivesDestroy op then 0x103 else 0
  | c => c

/-- The entry by which a ring has begun a command and not yet let it act: its header is `h`, and `spell` finds the row's operands in
its packet (R330, R332, R336). -/
def awaits (h : Cmd) (op : Nat) (spell : List Byte → Bool) (b : Begun) : Bool :=
  b.matches_ h op && spell b.packet && !b.acted

/-- Whether the ring that a command names has begun it and it has not acted (R332). -/
def State.hasBegun (s : State) (h : Cmd) (op : Nat) (spell : List Byte → Bool) : Bool :=
  ((s.fnOf h.fn).crOf h.ring).begun.any (awaits h op spell)

/-- Runs a host command that its ring has begun: nothing before that, nor while the thermal stop holds the clocks (R332, R448); the
reply of a failed check (R331); else `f`, which may leave it waiting. -/
def State.serve (s : State) (h : Cmd) (op : Nat) (spell : List Byte → Bool) (f : State → State) : Out State :=
  if s.power.stopped || !s.hasBegun h op spell then .next s
  else
    match s.rowCode h op with
    | 0 => .next (f s)
    | c => .next (s.finish h op c [])

/-- The command of a header acts: its row does nothing more (R332). -/
def State.acts (s : State) (h : Cmd) (op : Nat) (spell : List Byte → Bool := fun _ => true) : State :=
  s.modCr h.fn h.ring (fun c => { c with begun := markFirst (awaits h op spell) (fun b => { b with acted := true }) c.begun })

/-- Runs a host command that acts once (R332). -/
def State.command (s : State) (h : Cmd) (op : Nat) (spell : List Byte → Bool) (f : State → State) : Out State :=
  s.serve h op spell (fun s => f (s.acts h op spell))

/-! ## Parameters (Table 11.9 and the owning chapters): reserved bytes, bits and values -/

/-- Whether the parameters of a packet keep their layout. -/
def layoutOk (op : Nat) (p : List Byte) : Bool :=
  match op with
  | 0x01 => decide (field p 0x18 1 < 4 ∧ field p 0x19 1 < 4) && zeroed p 0x1A 6
  | 0x03 => zeroed p 0x1E 2
  | 0x04 => decide (field p 0x14 1 < 4) && zeroed p 0x15 3
  | 0x0C => zeroed p 0x09 1
  | 0x10 => decide (field p 0x08 4 < 2 ^ 20)
  | 0x11 => decide (field p 0x08 4 < 2 ^ 21) && zeroed p 0x0C 4
  | 0x18 => decide (field p 0x0C 4 < 8)
  | 0x19 => decide (field p 0x0C 4 < 4)
  | 0x1A => decide (field p 0x08 8 < 2 ^ 36) && decide (1 ≤ field p 0x10 4 ∧ field p 0x10 4 ≤ 4)
  | 0x20 => decide (field p 0x18 1 < 3) && zeroed p 0x19 7
  | 0x21 => decide (field p 0x0A 1 < 2) && zeroed p 0x0B 5 && zeroed p 0x1C 4
  | 0x22 => zeroed p 0x0A 2
  | 0x28 => decide (field p 0x08 1 < 3) && zeroed p 0x09 1 && decide (field p 0x0A 2 < 32768)
  | 0x30 => decide (field p 0x18 4 < 2)
  | _ => true

/-- The first check of Table 11.6 that a packet fails, its layout included; 0 if none. In recovery SYS_BOOT.CODE comes before them
all (R443). -/
def State.packetCode (s : State) (fn : Nat) (p : List Byte) : Nat :=
  let op := field p 0 1; let n := field p 3 1; let x := field p 2 1 % 64
  if s.recoveryRefuses op then s.boot.code
  else match s.headerCode fn op x, opRow op with
  | 0x101, _ => 0x101
  | c, some r =>
    if 4 ≤ field p 1 1 ∨ 64 ≤ field p 2 1 ∨ n ≠ r.length ∨ zeroed p (8 + n) (56 - n) = false then 0x102
    else if c ≠ 0 then c
    else if r.ctx && s.leaves x then 0x103
    else if layoutOk op p then 0 else 0x102
  | c, none => c

/-! ## Doorbells (R325 to R327) -/

/-- Whether a function exists: the PF, or a VF that VF Enable and NumVFs bring into existence (R317). -/
def State.fnExists (s : State) (f : Nat) : Bool := decide (f = 0) || (s.pci.vfEnable && decide (f ≤ s.pci.numVfs))

/-- COMMAND_DOORBELL (R325, R326). -/
def execCommandDoorbell (f r : Nat) (v : W64) (s : State) : Out State :=
  let c := (s.fnOf f).crOf r
  if s.power.stopped || !s.fnExists f then .next s
  else if c.enable ∧ v.toNat < 2 ^ c.log2 then .next (s.modCr f r (fun c => { c with tail := v.toNat }))
  else .next (s.badAccess f)

/-- COMPLETION_DOORBELL (R325, R327): the ring has room again, and held replies are written. -/
def execCompletionDoorbell (f r : Nat) (v : W64) (s : State) : Out State :=
  let c := (s.fnOf f).cqOf r
  if s.power.stopped || !s.fnExists f then .next s
  else if c.enable ∧ v.toNat < 2 ^ c.log2 then
    .next ((s.modCq f r (fun c => { c with head := v.toNat })).drainCq f r (c.held.length + 2))
  else .next (s.badAccess f)

/-- MSIX_DELAY (R329): DELAY has passed since the first reply not yet signalled. -/
def execMsixDelay (f r : Nat) (s : State) : Out State :=
  if s.power.stopped || decide (((s.fnOf f).cqOf r).unsignalled = 0) then .next s else .next (s.signal f r)

/-! ## COMMAND_PACKET (R326, R331, R332) -/

/-- Whether the order of a ring lets it begin a command (R327, R332); `barrier` is that command's flag. -/
def State.mayBegin (s : State) (f r : Nat) (barrier : Bool) : Bool :=
  let c := (s.fnOf f).crOf r
  !(c.begun.any (fun b => !b.long)) && (!barrier || c.begun.isEmpty)
    && !(((s.fnOf f).cqOf c.cq).held.any (fun h => decide (h.kind = 0 ∧ h.ring = r)))

/-- The next packet of a ring: from HBM where LOC is 1, else as host memory gives it; none where the read fails (R324, R326). -/
def State.nextPacket (s : State) (c : CRing) (host : Option (List Byte)) : Option (List Byte) :=
  let a := c.base + 64 * c.head
  if c.loc then (if s.ringHolds a 64 then some (s.get a 64) else none) else host

/-- What the beginning of a command does to its context: CTX_DESTROY makes it invalid (R339), and a STEP_BEGIN's generation holds the
entries as they stand (R260). -/
def Ctx.begins (c : Ctx) (h : Cmd) (op : Nat) : Ctx :=
  if op = 0x02 then { c with leaving := true }
  else if op = 0x0A then { c with latching := (h, c.groups) :: c.latching.filter (fun l => decide (l.1 ≠ h)) }
  else c

/-- COMMAND_PACKET (R326, R331, R332): the command processor reads the next packet, checks it and begins its command, whose effect is
its own row's; CTX_DESTROY makes its context invalid at once (R339). -/
def execCommandPacket (f r : Nat) (host : Option (List Byte)) (s : State) : Out State :=
  let c := (s.fnOf f).crOf r
  if s.power.stopped || !c.enable || c.error || decide (c.head = c.tail) then .next s
  else
    match s.nextPacket c host with
    | none => .next ((s.modCr f r (fun c => { c with error := true })).post f c.cq ⟨0, 0x105, 0, 0, 3, [], r⟩)
    | some p =>
      if !s.mayBegin f r (bit (field p 1 1) 1) then .next s
      else
        let s := s.modCr f r (fun c => { c with head := (c.head + 1) % 2 ^ c.log2 })
        let op := field p 0 1; let tag := field p 4 4
        match s.packetCode f p, opRow op with
        | 0, some row =>
          let s := s.modCr f r (fun c => { c with begun := c.begun ++ [⟨op, tag, row.long, p, false⟩] })
          .next (s.modCtx (field p 2 1 % 64) (fun c => c.begins (packetCmd f r p) op))
        | code, _ => .next (s.post f c.cq ⟨tag, code, op, field p 2 1 % 64, 0, [], r⟩)

end Sys2Proof.Machine
end

