-- ==== Sys2Proof/Machine/Links.lean ====
section
/-! DEFINITION. Nunex ports (R347 to R355): lanes, flits, acknowledgement and replay, training and loss of a port. -/

namespace Sys2Proof.Machine

/-- Lanes of a port that have failed. -/
def Port.failedLanes (p : Port) : Nat := total ((range 5).map (fun l => b2n (bit p.failed l)))

/-- Logs a lane or port state change (R406). -/
def State.logPort (s : State) (p : Nat) : State := s.log 0x506 5 none false p (Config.eventDetail 5 s.tick)

/-- Logs a lane or port state change and posts FABRIC_CHANGE (R379, R406). -/
def State.portChange (s : State) (kind p : Nat) : State := (s.logPort p).fabricChange kind p s.me

/-- A port goes down: it carries no traffic until it is restored (R349, R353, R371). -/
def State.takeDown (s : State) (p : Nat) : State :=
  (s.modPort p (fun x => { x.emptied with state := 0, retrains := 0, resends := 0 })).portChange 2 p

/-- Puts bytes of a packet behind a channel's earlier packets, and sends the flits that can go (R350). -/
def Port.sendBytes (p : Port) (v : Nat) (bs : List Byte) : Port :=
  let old := mget [] p.tx v
  Port.pump { p with tx := mset [] p.tx v (old ++ bs), starts := mset [] p.starts v (mget [] p.starts v ++ [old.length]) }

/-- The whole packets of a channel that wait in a port, in order: those of which no byte has gone. -/
def Port.whole (p : Port) (v : Nat) : List (List Byte) :=
  let b := mget [] p.tx v
  let st := mget [] p.starts v
  st.mapIdx (fun i o => (b.take (st.getD (i + 1) b.length)).drop o)

/-- A packet that waits in a port goes to another one of its die that is in service (R349); it stays where there is none. -/
def State.movePacket (s : State) (p v : Nat) (bs : List Byte) : State :=
  match s.choosePortIf (p / 9) (fun q => decide (q ≠ p)) with
  | some q =>
    let s := s.modPort q (fun x => x.sendBytes v bs)
    { s with nxp := { s.nxp with ops := s.nxp.ops.map (fun (o : Op) => if packetBytes o.packet = bs then { o with port := q } else o) } }
  | none => s.modPort p (fun x => x.sendBytes v bs)

/-- The packets that wait for a port go to other ports (R349). -/
def State.moveWaiting (s : State) (p : Nat) : State :=
  (range 4).foldl (fun (s : State) v =>
    let x := s.port p
    let first := (mget [] x.starts v).headD (mget [] x.tx v).length
    let s := s.modPort p (fun x => { x with tx := mset [] x.tx v ((mget [] x.tx v).take first), starts := mset [] x.starts v [] })
    (x.whole v).foldl (fun s bs => s.movePacket p v bs) s) s

/-- LANE_FAIL (R349): the spare takes the lane's place, or the port runs on three lanes, or goes down. -/
def execLaneFail (p l : Nat) (s : State) : Out State :=
  let x := s.port p
  if s.power.stopped || decide (x.state = 0) || bit x.failed l || decide (5 ≤ l) then .next s
  else
    let y : Port := { x with failed := x.failed + 2 ^ l }
    let s := s.modPort p (fun _ => y)
    if 3 ≤ y.failedLanes then .next (s.takeDown p)
    else if x.spare = l then
      .next ((s.modPort p (fun z => { z with spare := 7 })).logPort p)
    else if x.spare ≠ 7 then .next (((s.modPort p (fun z => { z with spare := 7, state := 3 })).moveWaiting p).portChange 0 p)
    else .next ((s.modPort p (fun z => { z with state := if z.state = 3 then 3 else 2 })).portChange 1 p)

/-- Sends every unacknowledged flit of a port again from the oldest (R352). -/
def State.replayFlits (s : State) (p : Nat) : State :=
  (s.modPort p (fun x => { x with replays := satAdd 16 x.replays 1, resends := x.resends + 1 })).emit
    (.flits p ((s.port p).unacked.map Prod.fst))

/-- Takes from the replay buffer what an ACK covers (R352). -/
def Port.ackTo (x : Port) (ack : Nat) : Port :=
  match findIdx (fun (e : Nat × List Byte) => decide (e.1 = ack)) x.unacked with
  | some (i, _) => { x with unacked := x.unacked.drop (i + 1), resends := 0 }
  | none => x

/-- Takes the credits that a good flit returns, and owes the far end one for the flit's own buffer, which its packets leave at once
(R354). -/
def Port.credit (x : Port) (w : Nat) : Port :=
  { x with
    used := mset 0 x.used (bits w 28 27) (mget 0 x.used (bits w 28 27) - bits w 40 29)
    owed := mset 0 x.owed (bits w 26 25) (mget 0 x.owed (bits w 26 25) + 1) }

/-- Owes NAK with ACK equal to the last good flit, once for a gap: the next flit carries it (R352). -/
def State.sendNak (s : State) (p : Nat) : State :=
  let x := s.port p
  if x.nak then s
  else s.modPort p (fun x => Port.pump { x with discarding := true, nak := true, nakDue := true })

/-- FLIT_ACK_TIMEOUT (R352). -/
def execFlitAckTimeout (p : Nat) (s : State) : Out State :=
  if s.power.stopped || !(s.port p).serves || decide ((s.port p).unacked = []) then .next s else .next (s.replayFlits p)

/-- PORT_RETRAIN (R353): the same flit was resent 8 times, or a training port has failed to retrain. -/
def execPortRetrain (p : Nat) (s : State) : Out State :=
  let x := s.port p
  if s.power.stopped then .next s
  else if x.state = 3 then .next (s.modPort p (fun x => { x with retrains := x.retrains + 1 }))
  else if x.serves ∧ 8 ≤ x.resends then
    .next ((s.modPort p (fun x => { x with state := 3, retrains := 0 })).logPort p)
  else .next s

/-- PORT_DOWN (R353): three failed retrains within 10 ms. -/
def execPortDown (p : Nat) (s : State) : Out State :=
  if s.power.stopped || decide ((s.port p).state ≠ 3) || decide ((s.port p).retrains < 3) then .next s
  else .next (s.takeDown p)

/-- PORT_RETRAINED (R349, R353): training or a lane swap has ended; `lane3` says that only three lanes came up. -/
def execPortRetrained (p : Nat) (lane3 : Bool) (s : State) : Out State :=
  let x := s.port p
  if s.power.stopped || decide (x.state ≠ 3) then .next s
  else
    let three := lane3 || decide (2 ≤ x.failedLanes)
    let s := s.modPort p (fun x => { x with state := if three then 2 else 1, retrains := 0, resends := 0 })
    let s := if three then s.portChange 1 p else s.logPort p
    let s := if x.unacked = [] then s else (s.replayFlits p).modPort p (fun x => { x with resends := 0 })
    .next (s.modPort p Port.pump)

end Sys2Proof.Machine
end

