-- ==== Sys2Proof/Machine/Fabric.lean ====
section
/-! DEFINITION. Nunex transactions (R358 to R371): packets received, their checks and answers; operations of this device that
end, are resent, or fail; bulk copies. -/

namespace Sys2Proof.Machine

/-! ## Video streams, which read their sources from other devices too (R384, R400) -/

/-- The engine of a stream handle: numbers 0 to 255 belong to P0, 256 to 511 to P1 (log 50). -/
def engineOf (handle : Nat) : Nat := handle / 256

/-- A stream. -/
def State.stream (s : State) (h : Nat) : Option IStream := mfind (s.engine (engineOf h)).streams h
/-- Replaces a stream. -/
def State.setStream' (s : State) (h : Nat) (x : IStream) : State :=
  s.modEngine (engineOf h) (fun e => { e with streams := mput e.streams h x })
/-- Changes a stream. -/
def State.modStream (s : State) (h : Nat) (f : IStream → IStream) : State :=
  match s.stream h with
  | some x => s.setStream' h (f x)
  | none => s

/-- An ingest event (R401). -/
def State.ingestEvent (s : State) (x : IStream) (h code n : Nat) : State :=
  s.event x.ctx code (toBytes 4 h ++ toBytes 8 n)

/-- A stream's reads of other devices end with nobody waiting for them. -/
def State.orphanReads (s : State) (h : Nat) : State :=
  { s with nxp := { s.nxp with ops := s.nxp.ops.map (fun (o : Op) => if o.owner = .ingest h then { o with owner := .nobody } else o) } }

/-- A stream stops producing with an event (R400). -/
def State.stopStream (s : State) (h code : Nat) : State :=
  match s.stream h with
  | some x =>
    if x.stopped then s
    else ((s.orphanReads h).setStream' h { x with stopped := true, clip := none, fetch := none }).ingestEvent x h code x.next
  | none => s

/-- A READ of a stream's source is answered (R384). -/
def Fetch.take (f : Fetch) (a : Nat) (bs : List Byte) : Fetch :=
  { f with data := mput f.data a bs, waits := f.waits.map (· - 1) }

/-! ## The end of an operation at its sender (R305, R362, R365) -/

/-- The instruction a core stands at. -/
def State.insnOf (s : State) (c : Nat) : W64 := (s.core c).prog.getD (s.core c).live.pc 0

/-- The instruction of a core that a read of a unit of another device serves: the earliest unfinished one that loads from the unit, else
the one it stands at (R133). -/
def State.readerOf (s : State) (c key : Nat) : Nat × W64 :=
  let k := s.core c
  match (s.reachesOf c [] k.live.pendings).find? (fun e =>
      !storesOf e.1.insn && reachMeets e.2 [(key + tmBase, 256)]) with
  | some e => (e.1.pc, e.1.word)
  | none => (k.live.pc, s.insnOf c)

/-- Cores of a cluster whose reads merged with one of another device that is answered get its data; they ask again where it brings none
(R194). -/
def State.answerFar (s : State) (c key mask : Nat) (data : Option (List Byte)) : State :=
  match (s.core c).task with
  | none => s
  | some t =>
    (range 18).foldl (fun (s : State) j =>
      let d := 18 * clusterOf c + j
      let mine (q : Req) : Bool := q.load && q.merged && decide (q.scope = 2 ∧ q.unit = key) && covers mask q.mask
      let m := (s.core d).ramb
      if (s.core d).task.map (fun t => (t.graph, t.task)) = some (t.graph, t.task) ∧ m.reqs.any mine then
        let got := match data with
          | some bs => if m.reqs.any (fun q => mine q && !q.void) then [(⟨key, key, mask, bs⟩ : LqEntry)] else []
          | none => []
        (s.modRamb d (fun m => { m with reqs := m.reqs.filter (fun q => !mine q), lq := m.lq ++ got })).goOn d
      else s) s

/-- The bytes that a read of another device brought, at their places in the unit. -/
def Op.unitData (o : Op) (data : List Byte) : List Byte :=
  slice (List.replicate (o.packet.addr % 256) 0 ++ slice data 0 o.packet.length) 0 256

/-- The data of a core's read of another device arrives: into its load queue, into the coalescer unless a write of the unit is on its way
or the read is from before a dependency point, and to the reads that merged with it (R183, R190, R192, R194). -/
def State.arriveFar (s : State) (o : Op) (c key : Nat) (data : List Byte) : State :=
  match (s.core c).task with
  | none => s
  | some t =>
    let bs := o.unitData data
    let written := s.nxp.ops.any (fun o => writesFar o.packet.op &&
      (let a := tmBase + o.packet.dst * 2 ^ 48 + o.packet.addr; decide (a < key + 256) && decide (key < a + o.packet.length)))
    let s := if written || o.stale then s else s.hold (clusterOf c) t.graph t.task key o.mask bs
    let s := s.modRamb c (fun m => { m with lq := m.lq ++ [⟨key, key, o.mask, bs⟩] })
    (s.answerFar c key o.mask (some bs)).goOn c

/-- A core's operation fails with a code: a speculative read is dropped, and asked for again on demand where its instruction waits; a
demand read or a store fails its instruction (R133, R188, R365). -/
def State.coreOpFails (s : State) (o : Op) (c key code : Nat) : State :=
  if o.packet.op = 1 then
    let s := s.answerFar c key o.mask none
    if bit o.packet.flags 0 then (s.dropFetch c).goOn c
    else
      let r := s.readerOf c key
      s.failCore c code r.1 r.2
  else
    match (s.core c).ramb.reqs.find? (fun q => !q.load && decide (q.scope = 2 ∧ q.unit = key ∧ q.data = o.packet.data)) with
    | some q => s.failCore c code q.pc q.word
    | none => s.failCore c code (s.core c).live.pc (s.insnOf c)

/-- The RESPONSE to a packet, built but not sent (Table 12.5). -/
def State.answer (s : State) (p : Packet) (code : Nat) (data : List Byte) : State × Packet :=
  s.build ((s.sendDie p.die).getD p.die) 8 p.src p.tag 0 data.length code false data

/-- Whether a stream is the one of a packet. -/
def Stream.of (q : Stream) (p : Packet) : Bool :=
  decide (q.src = p.src ∧ q.sdie = b2n (bit p.flags 1) ∧ q.ddie = p.die ∧ q.vc = vcOf p.op)

/-- A stream keeps the answer to one of its packets, for a duplicate (R364). -/
def Stream.keep (q : Stream) (p k : Packet) : Stream := { q with answers := ((p.sseq, k) :: q.answers).take 4608 }

/-- A BULK_PULL is answered once its last write is, and its stream keeps the answer (R364, R369). -/
def State.respondLate (s : State) (p : Packet) (code : Nat) : State :=
  let (s, k) := s.answer p code []
  ({ s with nxp := { s.nxp with rx := s.nxp.rx.map (fun (q : Stream) => if q.of p && decide (q.epoch = p.epoch) then q.keep p k else q) } } : State).transmit k

/-- A piece of a checkpoint's copy to another device has failed: its target is not committed (R421). -/
def State.flightFails (s : State) (x t : Nat) : State :=
  s.modCtx x (fun c => { c with ckpt := c.ckpt.map (fun (k : Ckpt) => { k with
    flights := k.flights.map (fun (f : Flight) => if f.target = t then { f with ok := false } else f) }) })

/-- What a failed bulk copy fails: the task, the record's update, or the target of its issuer (R365). -/
def State.issuerFails (s : State) (b : CopyBy) (code : Nat) : State :=
  match b with
  | .dma g i => if s.going g i then s.failTask g i code else s
  | .evile x a => s.failRecord x a code
  | .thermos x t => s.flightFails x t

/-- The end of a bulk copy with a code (R365, R369). -/
def State.copyOver (s : State) (b : CopyBy) (code : Nat) : State :=
  let s := s.emit (.copyEnds b code)
  if code = 0 then s else s.issuerFails b code

/-- A packet of a bulk copy has failed: the copy fails, with the code of the first that does. -/
def State.copyFailed (s : State) (i code : Nat) : State :=
  match mfind s.nxp.copies i with
  | some c => { s with nxp := { s.nxp with copies := mput s.nxp.copies i { c with code := if c.code = 0 then code else c.code } } }
  | none => s

/-- A bulk copy is over once none of its packets waits for an answer (R369). -/
def State.copyEnd (s : State) (i : Nat) : State :=
  match mfind s.nxp.copies i with
  | some c =>
    if s.nxp.ops.any (fun q => decide (q.owner = OpOwner.copy i)) then s
    else ({ s with nxp := { s.nxp with copies := mdel s.nxp.copies i } } : State).copyOver c.by_ c.code
  | none => s

/-- An operation fails with a code (R365): it fails its instruction, its task, its record, its signal, its pull or its copy. -/
def State.opFails (s : State) (o : Op) (code : Nat) : State :=
  match o.owner with
  | .core c key => s.coreOpFails o c key code
  | .discard c key => (s.answerFar c key o.mask none).goOn c
  | .orphan c => s.goOn c
  | .task g i => if s.going g i then s.failTask g i code else s
  | .record k => s.failRecord (k / 2 ^ 64) (k % 2 ^ 64) code
  | .wmk _ key by_ => s.addFailed key code by_
  | .pull p =>
    ({ s with nxp := { s.nxp with ops := s.nxp.ops.map (fun (q : Op) => if q.owner = OpOwner.pull p then { q with owner := .nobody } else q) } }).respondLate
      p code
  | .thermos x t => s.flightFails x t
  | .copy i => (s.copyFailed i code).copyEnd i
  | .trail g h => if (s.graph g).map (fun x => x.handle g) = some h then ((s.graphFail g code 0).settle g).unspill else s
  | .ingest h => s.stopStream h 0x904
  | .nobody => s

/-- An operation ends well: a read's data enters the load queue, a store is acknowledged, a pull whose last write ended is
answered, a bulk copy whose last packet is answered is complete. -/
def State.opDone (s : State) (o : Op) (data : List Byte) : State :=
  match o.owner with
  | .core c key =>
    if o.packet.op = 1 then s.arriveFar o c key data
    else
      match findIdx (fun (q : Req) => !q.load && decide (q.scope = 2 ∧ q.unit = key ∧ q.data = o.packet.data)) (s.core c).ramb.reqs with
      | some (i, _) => s.acked c i
      | none => s
  | .discard c key => (s.answerFar c key o.mask (some (o.unitData data))).goOn c
  | .orphan c => s.goOn c
  | .pull p => if s.nxp.ops.any (fun q => decide (q.owner = OpOwner.pull p)) then s else s.respondLate p 0
  | .copy i => s.copyEnd i
  | .ingest h => s.modStream h (fun x => { x with
      fetch := x.fetch.map (fun f => f.take (o.packet.dst * 2 ^ 48 + o.packet.addr) (slice data 0 o.packet.length)) })
  | _ => s

/-- The device has left once its operations have ended (R374). -/
def State.tryLeave (s : State) : State :=
  match s.nxp.leaveCmd with
  | none => s
  | some h =>
    if s.nxp.ops ≠ [] then s
    else
      let m : MgrMsg := ⟨s.me, s.nxp.term, s.me, s.nxp.epoch, s.nxp.role, 0, 0, 0, 0, 2, s.nxp.diesLost⟩
      let s := s.sendManager (0x7FFE + 32768 * s.nxp.hall) 4 m
      let s : State := { s with nxp := { s.nxp with
        device := 0x7FFF, epoch := 0, role := 0, mgr := 0, leaving := false, leaveCmd := none, left_ := true, members := [] } }
      s.finish h 0x29 0 []

/-- Ends the operations that a test selects, with a code. -/
def State.failOps (s : State) (sel : Op → Bool) (code : Nat) : State :=
  let l := s.nxp.ops.filter sel
  let s : State := { s with nxp := { s.nxp with ops := s.nxp.ops.filter (fun o => !sel o) } }
  let s := l.foldl (fun s o => s.opFails o code) s
  ((s.sendWaiting 0 s.nxp.ops.length).sendWaiting 1 s.nxp.ops.length).tryLeave

/-- The operation that holds a tag of a die. -/
def State.opAt (s : State) (die tag : Nat) : Option Op :=
  s.nxp.ops.find? (fun o => o.sent && decide (o.packet.die = die ∧ o.packet.tag = tag))

/-! ## Checks at the destination (R361, Table 12.7) -/

/-- The context that serves a job's memory packets. -/
def State.exporter (s : State) (job : Nat) : Option Nat :=
  (s.ctxs.find? (fun e => decide (job ≠ 0 ∧ (s.creg e.1).job = job) && (s.creg e.1).export_)).map Prod.fst

/-- Whether this device serves remote packets at all (R361, R372, R374). -/
def State.servesRemote (s : State) : Bool := !s.managerMode && !s.isSpare && decide (s.nxp.role ≠ 3) && !s.nxp.leaving
  && decide (s.nxp.device ≠ 0x7FFF)

/-- A context as its remote requesters act in it through a port die: bounded by the store grants of its running tasks. -/
def State.remoteWho (s : State) (x die : Nat) : Who :=
  ⟨x, some (s.trh.graphs.flatMap (fun (e : Nat × Graph) =>
    if e.2.ctx = x then (e.2.tasks.filter (fun t => decide (t.2.phase = Phase.running))).flatMap (fun (t : Nat × Task) => t.2.grants)
    else [])), some (0x42 + 4 * die)⟩

/-- The code that answers a failed check of a remote access. -/
def remoteCode (a : Acc) : Nat := match a with | .miss _ => 0x505 | a => a.code

/-- Whether a packet's address names a landing slot of an owner's window (log 44). -/
def isLanding (a : Nat) : Bool := decide (2 ^ 63 ≤ a)

/-- Writes a packet's data; the code that answers. -/
def State.remoteWrite (s : State) (p : Packet) (data : List Byte) : State × Nat :=
  match (if s.servesRemote then s.exporter p.job else none) with
  | none => (s, 0x504)
  | some x =>
    if isLanding p.addr then
      let id := (p.addr - 2 ^ 63) / 2 ^ 17
      if s.landingHeld x id then
        ({ s with evl := { s.evl with
          landing := mwrite 0 s.evl.landing ((x * 2 ^ 20 + id) * 2 ^ 17 + p.addr % 2 ^ 17) data } }, 0)
      else (s, 0x402)
    else
      let w := s.remoteWho x (bits p.flags 2 2)
      match s.write w (localOf p.addr) data with
      | (t, none) => (t, 0)
      | (t, some a) => (t.noteAcc w a, remoteCode a)

/-- Reads for a packet; data or the code. A speculative read is bound by R188 here too: it leaves no mark but for an uncorrectable word,
and one of a NOSPEC page is answered with a code that makes its sender drop it. -/
def State.remoteRead' (s : State) (p : Packet) (n : Nat) : State × Nat × List Byte :=
  match (if s.servesRemote then s.exporter p.job else none) with
  | none => (s, 0x504, [])
  | some x =>
    let w := s.remoteWho x (bits p.flags 2 2)
    let spec := decide (p.op = 1) && bit p.flags 0
    if spec && (units (localOf p.addr) n).any (fun q => s.nospec x q.1) then (s, 0x504, [])
    else
      match s.read w (localOf p.addr) n with
      | .data bs => (s, 0, bs)
      | .stop (.bad pa) => (s.noteAcc w (.bad pa), 0x701, [])
      | .stop a => (if spec then s else s.noteAcc w a, remoteCode a, [])

/-- A remote add (R305): refused where no exported kind-1 or kind-2 binding is found, and by a device that leaves or has left (R374). -/
def State.remoteAdd (s : State) (ref inc : Nat) : State × Nat :=
  if s.nxp.leaving ∨ s.nxp.device = 0x7FFF then (s, 0x504)
  else
    let key := wkey (bits ref 25 20) (bits ref 19 0)
    match s.exported key with
    | some _ => if s.servesRemote then (if inc = 0 then s else s.applyAdd key inc, 0) else (s, 0xA04)
    | none => (s, 0xA04)

/-! ## Placing packets -/

/-- A bulk pull (R369): the source range is checked whole, then sent back as BULK_WRITE packets; the answer follows the last. -/
def State.pulled (s : State) (p : Packet) : State × Option (Nat × List Byte) :=
  let src := field p.data 0 8; let dst := field p.data 8 8; let n := field p.data 16 8
  let (s, code, bs) := s.remoteRead' { p with addr := src } n
  if code ≠ 0 then (s, some (code, []))
  else
    match s.exporter p.job with
    | none => (s, some (0x504, []))
    | some x =>
      let (s, c) := (packets (localOf dst) bs).foldl (fun (r : State × Nat) e =>
        if r.2 ≠ 0 then r else r.1.request (.pull p) p.die x 6 p.src e.2.length e.1 false e.2) (s, 0)
      if c ≠ 0 then (s, some (c, [])) else if bs = [] then (s, some (0, [])) else (s, none)

/-- The effect of a packet at its destination and its answer (Table 12.5, R361, R366, R367). -/
def State.place (s : State) (p : Packet) : State × Option (Nat × List Byte) :=
  match p.op with
  | 1 => let (s, c, bs) := s.remoteRead' p p.length; (s, some (c, bs))
  | 3 =>
    let (s, c) := if p.length = 0 then (s, if s.servesRemote then 0 else 0x504) else s.remoteWrite p (p.data.take p.length)
    if c ≠ 0 then (s, some (c, []))
    else
      let (s, c) := s.remoteAdd (field p.data p.length 8) (field p.data (p.length + 8) 8)
      (s, some (c, []))
  | 4 => let (s, c) := s.remoteAdd p.addr (field p.data 0 8); (s, some (c, []))
  | 5 => s.pulled p
  | 0x10 => ({ s with nxp := { s.nxp with inbox := s.nxp.inbox ++ [mgrRead p.src s.nxp.term p.data] } }, none)
  | _ => let (s, c) := s.remoteWrite p (p.data.take p.length); (s, some (c, []))

/-- Places a packet and answers it; the answer is kept for a duplicate (R364). One that the reorder buffer held and can no longer deliver
is answered with UNCORRECTABLE_MEMORY (R405). -/
def State.placeAnswer (s : State) (p : Packet) (q : Stream) : State × Stream :=
  let (s, a) := if p.rsv then (s, some (0x701, [])) else s.place p
  let q : Stream := { q with next := (p.sseq + 1) % 65536 }
  match a with
  | none => (s, q)
  | some (code, data) =>
    let (s, k) := s.answer p code data
    (s.transmit k, q.keep p k)

/-- Places the held packets of a stream that are now in order; `fuel` bounds them. -/
def State.placeHeld (s : State) (q : Stream) : Nat → State × Stream
  | 0 => (s, q)
  | n + 1 =>
    match q.held.find? (fun p => decide (p.sseq = q.next)) with
    | some p =>
      let (s, q) := s.placeAnswer p { q with held := q.held.erase p }
      s.placeHeld q n
    | none => (s, q)

/-- Bytes of the reorder buffer that a die's held packets take; `vc0` selects the channel's share (R364). -/
def State.reorderBytes (s : State) (die : Nat) (vc0 : Bool) : Nat :=
  total ((s.nxp.rx.filter (fun q => decide (q.ddie = die ∧ (q.vc = 0) = (vc0 = true)))).map (fun (q : Stream) =>
    total (q.held.map (fun p => 24 + p.data.length))))

/-- Counts a discarded packet (R359, R364, Table 12.14). -/
def State.dropPacket (s : State) (die : Nat) : State :=
  { s with nxp := if die = 0 then { s.nxp with drops0 := satAdd 32 s.nxp.drops0 1 }
    else { s.nxp with drops1 := satAdd 32 s.nxp.drops1 1 } }

/-- Whether the first epoch comes after the second, modulo 2¹⁶. -/
def epochNewer (a b : Nat) : Bool := let d := (a + 65536 - b % 65536) % 65536; decide (1 ≤ d ∧ d < 32768)

/-- Stores a stream in the place of the one it continues. -/
def State.setStream (s : State) (q : Stream) : State :=
  { s with nxp := { s.nxp with rx := s.nxp.rx.filter (fun r =>
      !decide (r.src = q.src ∧ r.sdie = q.sdie ∧ r.ddie = q.ddie ∧ r.vc = q.vc)) ++ [q] } }

/-- A packet of VC0, VC1 or VC3 arrives (R364): placed in order, held, answered again, or discarded. -/
def State.arrive (s : State) (p : Packet) : State :=
  if s.nxp.rx.any (fun q => decide (q.src = p.src) && epochNewer q.epoch p.epoch) then s
  else
    let s : State := { s with nxp := { s.nxp with
      rx := s.nxp.rx.filter (fun q => !(decide (q.src = p.src) && decide (q.epoch ≠ p.epoch))) } }
    let q : Stream := (s.nxp.rx.find? (fun q => q.of p)).getD
      ⟨p.src, b2n (bit p.flags 1), p.die, vcOf p.op, p.epoch, 0, [], []⟩
    let d := (p.sseq + 65536 - q.next) % 65536
    if d = 0 then
      let (s, q) := s.placeAnswer p q
      let (s, q) := s.placeHeld q q.held.length
      s.setStream q
    else if 32768 ≤ d then
      match q.answers.find? (fun a => decide (a.1 = p.sseq)) with
      | some (_, k) => s.transmit k
      | none => s
    else if q.held.any (fun h => decide (h.sseq = p.sseq)) then s
    else
      let vc0 := decide (q.vc = 0)
      let room := if vc0 then 0x40000 else 0xFC0000
      if s.reorderBytes p.die vc0 + 24 + p.data.length ≤ room then s.setStream { q with held := q.held ++ [p] }
      else
        let s := s.dropPacket p.die
        let (s, k) := s.build ((s.sendDie p.die).getD p.die) 9 p.src p.tag 0 0 0 false []
        s.transmit k

/-- Receives a packet of one row's opcode: nothing while the port die is lost; discarded and counted where a reserved bit is set
or the opcode is none of Table 12.5 (R359). -/
def State.receive (s : State) (op : Nat) (p : Packet) (f : State → State) : Out State :=
  if s.power.stopped || bit s.nxp.diesLost p.die then .next s
  else if p.rsv || !(([1, 2, 3, 4, 5, 6, 8, 9, 0x10] : List Nat).contains p.op) then .next (s.dropPacket p.die)
  else if p.op ≠ op then .next s
  else .next (f s)

/-- READ (R361). -/
def execRead (p : Packet) (s : State) : Out State := s.receive 1 p (fun s => s.arrive p)
/-- WRITE (R361). -/
def execWrite (p : Packet) (s : State) : Out State := s.receive 2 p (fun s => s.arrive p)
/-- WRITE_SIGNAL (R367). -/
def execWriteSignal (p : Packet) (s : State) : Out State := s.receive 3 p (fun s => s.arrive p)
/-- WAYMARK_ADD (R305, R361). -/
def execWaymarkAdd (p : Packet) (s : State) : Out State := s.receive 4 p (fun s => s.arrive p)
/-- BULK_PULL (R369). -/
def execBulkPull (p : Packet) (s : State) : Out State := s.receive 5 p (fun s => s.arrive p)
/-- BULK_WRITE (R369). -/
def execBulkWrite (p : Packet) (s : State) : Out State := s.receive 6 p (fun s => s.arrive p)

/-- A RESPONSE ends the operation that holds its tag; one whose tag is not outstanding is discarded (R362). -/
def State.takeResponse (s : State) (p : Packet) : State :=
  match s.opAt p.die p.tag with
  | none => s
  | some o =>
    let s := s.endOp p.die p.tag
    let code := p.addr % 65536
    (if code = 0 then s.opDone o p.data else s.opFails o code).tryLeave

/-- On an E2E_NAK the packet goes again with the same sequence number and tag (R364). -/
def State.takeNak (s : State) (p : Packet) : State :=
  match s.opAt p.die p.tag with
  | some o => s.transmit o.packet
  | none => s

/-- RESPONSE (R362). -/
def execResponse (p : Packet) (s : State) : Out State := s.receive 8 p (fun s => s.takeResponse p)

/-- E2E_NAK (R364). -/
def execE2eNak (p : Packet) (s : State) : Out State := s.receive 9 p (fun s => s.takeNak p)

/-- Bytes of data that follow a packet's header (Table 12.5). -/
def dataAfter (op len : Nat) : Nat := match op with | 1 | 9 => 0 | 3 => len + 16 | _ => len

/-- The packet at the head of a channel's bytes, as a port of a die receives it (Table 12.6). -/
def packetAt (die : Nat) (b : List Byte) : Packet :=
  let op := field b 0 1; let len := field b 0xE 2 % 8192
  ⟨die, op, field b 1 1 % 8, field b 2 2, field b 4 2, field b 6 2, field b 8 2, field b 0xA 2 % 8192, field b 0xC 2, len, field b 0x10 8,
    decide (field b 1 1 / 8 ≠ 0 ∨ field b 0xA 2 / 8192 ≠ 0 ∨ field b 0xE 2 / 8192 ≠ 0), (b.drop 24).take (dataAfter op len)⟩

/-- The whole packets that a channel's bytes hold, and the bytes after them (R350); `fuel` bounds their number. -/
def unpack (die : Nat) : Nat → List Byte → List Packet × List Byte
  | 0, b => ([], b)
  | k + 1, b =>
    let p := packetAt die b
    let n := 24 + dataAfter p.op p.length
    if b.length < 24 ∨ b.length < n then ([], b)
    else let r := unpack die k (b.drop n); (p :: r.1, r.2)

/-- A packet that a flit completes takes effect as its own row gives it (R350, R359); it is discarded and counted where a reserved bit is
set or the opcode is none of Table 12.5. -/
def State.packetIn (s : State) (p : Packet) : State :=
  if p.rsv || !(([1, 2, 3, 4, 5, 6, 8, 9, 0x10] : List Nat).contains p.op) then s.dropPacket p.die
  else match p.op with
    | 8 => s.takeResponse p
    | 9 => s.takeNak p
    | _ => s.arrive p

/-- RESEND_TIMEOUT (R365): resent with the same SSEQ and TAG through another port if one is in service, or failed after 3 resends. -/
def execResendTimeout (die tag : Nat) (s : State) : Out State :=
  match s.opAt die tag with
  | none => .next s
  | some o =>
    if s.power.stopped then .next s
    else if 3 ≤ o.resends then .next (((s.endOp die tag).opFails o 0x502).tryLeave)
    else
      let port := s.otherPort die o.port
      .next (({ s with nxp := { s.nxp with ops := s.nxp.ops.map (fun q =>
        if q = o then { q with resends := q.resends + 1, port := port.getD q.port } else q) } }).transmitOver port o.packet)

/-- The context of a bulk copy's issuer: for a DMA engine that of its running task. -/
def State.copyCtx (s : State) (b : CopyBy) : Option Nat :=
  match b with
  | .dma g i => if s.going g i then (s.graph g).map Graph.ctx else none
  | .evile x a => (s.record x a).map Rec.ctx
  | .thermos x _ => (s.ctx x).map (fun _ => x)

/-- On whose behalf a bulk copy accesses this device: a DMA engine under its task's store grants, another issuer with none. -/
def State.copyWho (s : State) (b : CopyBy) (x : Nat) : Who :=
  match b with
  | .dma g i => ⟨x, some (s.taskOf g i).grants, none⟩
  | .evile _ _ | .thermos _ _ => agentOf x

/-- A bulk copy begins: its number, under which its packets go. -/
def State.newCopy (s : State) (b : CopyBy) : State × Nat :=
  ({ s with nxp := { s.nxp with copies := mput s.nxp.copies s.nxp.nextCopy ⟨b, 0⟩, nextCopy := s.nxp.nextCopy + 1 } }, s.nxp.nextCopy)

/-- What is sent for a copy: one that cannot be sent fails the copy, which ends once what went before it is answered (R365, R369). -/
def State.sendCopy (s : State) (x die i op dst : Nat) (l : List (Nat × List Byte)) : State :=
  let r := l.foldl (fun (r : State × Nat) e =>
    if r.2 ≠ 0 then r else r.1.request (.copy i) die x op dst e.2.length e.1 false e.2) (s, 0)
  if r.2 = 0 then r.1 else (r.1.copyFailed i r.2).copyEnd i

/-- A bulk copy stops on an access of this device: a miss suspends the context, and the copy is issued again after RESUME (R180, R181);
another stop ends it. -/
def State.copyStops (s : State) (b : CopyBy) (w : Who) (a : Acc) (store : Bool) : State :=
  match a with
  | .miss va => s.suspend w.ctx va store
  | a => (s.noteAcc w a).copyOver b a.code

/-- BULK_COPY (R369): an engine of this device pushes or pulls; a copy with neither end here fails with ACCESS_VIOLATION. -/
def execBulkCopy (y : CopyBy) (die : Nat) (src dst : W64) (n : Nat) (s : State) : Out State :=
  let a := src.toNat; let b := dst.toNat
  match s.copyCtx y with
  | none => .next s
  | some x =>
    let w := s.copyWho y x
    if s.power.stopped || decide (n = 0 ∨ 2 ^ 32 < n) then .next s
    else if s.isHere a then
      match s.read w (localOf a) n with
      | .stop c => .next (s.copyStops y w c false)
      | .data bs =>
        if s.isHere b then
          match s.write w (localOf b) bs with
          | (t, none) => .next (t.copyOver y 0)
          | (t, some c) => .next (t.copyStops y w c true)
        else let (t, i) := s.newCopy y; .next (t.sendCopy x die i 6 (deviceOf b) (packets (localOf b) bs))
    else if s.isHere b then
      let (t, i) := s.newCopy y
      .next (t.sendCopy x die i 5 (deviceOf a) [(0, toBytes 8 (localOf a) ++ toBytes 8 (localOf b) ++ toBytes 8 n)])
    else .next (s.copyOver y 0x402)

end Sys2Proof.Machine
end

