-- ==== Sys2Proof/Machine/Manager.lean ====
section
/-! DEFINITION. Membership, managers and barriers (R372 to R378). -/

namespace Sys2Proof.Machine

/-- A manager message from this device with every other field 0. -/
def State.msg (s : State) : MgrMsg := ⟨s.me, s.nxp.term, 0, 0, 0, 0, 0, 0, 0, 0, 0⟩
/-- The alias of this hall's active manager (Table 12.4). -/
def State.manager (s : State) : Nat := 0x7FFE + 32768 * s.nxp.hall
/-- Current members. -/
def State.current (s : State) : List Nat := (s.nxp.members.filter (fun e => decide (e.2.state = 0))).map Prod.fst
/-- Sends a manager message to every current member. -/
def State.toMembers (s : State) (sub : Nat) (m : MgrMsg) : State := s.current.foldl (fun s d => s.sendManager d sub m) s
/-- Whether this device is the active manager. -/
def State.active (s : State) : Bool := decide (s.nxp.mgr = 2)
/-- The standby's identifier: the other of the hall's two managers (Table 12.4). -/
def State.other (s : State) : Nat := 0x7FFC + (1 - (s.nxp.device - 0x7FFC)) + 32768 * s.nxp.hall
/-- The other hall's active manager. -/
def State.across (s : State) : Nat := 0x7FFE + 32768 * (1 - s.nxp.hall)

/-! ## Joining and leaving (R373, R374) -/

/-- Restores the ports, each change logged (R406): failed lanes and ports that went down come back at a FABRIC_JOIN that follows a FABRIC_LEAVE (R349, R353). -/
def State.restorePorts (s : State) : State :=
  (range 18).foldl (fun s p =>
    if bit s.nxp.diesLost (p / 9) then s
    else if (s.port p).state = 0 ∨ (s.port p).failed ≠ 0 then
      (s.modPort p (fun x => { x with state := 3, spare := 4, failed := 0, retrains := 0, resends := 0 })).logPort p
    else s) s

/-- FABRIC_JOIN (R373). -/
def execFabricJoin (h : Cmd) (role request : Nat) (s : State) : Out State :=
  s.command h 0x28 (fun p => decide (field p 8 1 = role ∧ field p 0xA 2 = request)) (fun s =>
    if s.nxp.device ≠ 0x7FFF ∨ s.nxp.joining.isSome ∨ 3 ≤ role ∨ 32768 ≤ request ∨ decide (role = 2) ≠ s.managerMode then
      s.finish h 0x28 0x102 []
    else
      let s := if s.nxp.left_ then s.restorePorts else s
      let s : State := { s with nxp := { s.nxp with joining := some (h, role, request), left_ := false } }
      s.sendJoin { s.msg with src := 0x7FFF, role := role, request := request })

/-- The fields of a FABRIC_JOIN's reply (R373). -/
def State.joinResult (s : State) : List Byte := toBytes 2 s.me ++ toBytes 2 s.nxp.epoch ++ toBytes 4 s.nxp.term

/-- The device takes an identifier, its epoch and a role; its streams begin anew (R364, R373, R376). -/
def State.takeId (s : State) (ident epoch role term mgr : Nat) : State :=
  { s with nxp := { s.nxp with
    device := ident % 32768, hall := ident / 32768, epoch := epoch, role := role, term := max s.nxp.term term, mgr := mgr
    joining := none, txSeqs := [] } }

/-- JOIN_TIMEOUT (R373): no answer within 1 s; a manager that no manager answers is the first of its hall and has term 1. -/
def execJoinTimeout (s : State) : Out State :=
  match s.nxp.joining with
  | none => .next s
  | some (h, role, request) =>
    if s.power.stopped then .next s
    else if role = 2 then
      let id := (if request = 0x7FFD then 0x7FFD else 0x7FFC) + 32768 * (Config.hall % 2)
      let s := s.takeId id 1 3 1 2
      let s : State := { s with nxp := { s.nxp with epochs := mput s.nxp.epochs id 1 } }
      .next (s.finish h 0x28 0 s.joinResult)
    else .next ({ s with nxp := { s.nxp with joining := none } }.finish h 0x28 0x501 [])

/-- The range of identifiers of a role (Table 12.4). -/
def roleRange (role : Nat) : Nat × Nat :=
  match role with | 0 => (0, 0x4000) | 1 => (0x4000, 0x7FFC) | _ => (0x7FFC, 0x7FFE)

/-- Whether an identifier of this hall is free: no member has it, and none that failed had it, since that one joins again under another
(R376). -/
def State.idFree (s : State) (id : Nat) : Bool :=
  decide (id ≠ s.me) && ((mfind s.nxp.members id).map (fun m => decide (m.state = 2))).getD true

/-- The identifier that a JOIN is granted (R373). -/
def State.grantId (s : State) (role request : Nat) : Option Nat :=
  let r := roleRange role; let base := 32768 * s.nxp.hall
  if r.1 ≤ request ∧ request < r.2 ∧ s.idFree (base + request) then some (base + request)
  else ((range (r.2 - r.1)).map (fun k => base + r.1 + k)).find? s.idFree

/-- A manager records a commit (R377, R378). -/
def State.recordCommit (s : State) (hall job step : Nat) : State :=
  if s.nxp.recorded.contains (hall, job, step) then s
  else { s with nxp := { s.nxp with recorded := s.nxp.recorded ++ [(hall, job, step)] } }

/-- Sends COMMIT of the records that both acknowledgements cover, and ends their barriers (R377). -/
def State.sendCommits (s : State) : State :=
  let done := s.nxp.commits.filter (fun c => c.standbyAck && c.pairAck)
  let s : State := { s with nxp := { s.nxp with
    commits := s.nxp.commits.filter (fun c => !(c.standbyAck && c.pairAck))
    ready := s.nxp.ready.filter (fun r => !done.any (fun c => decide (c.job = r.job ∧ c.step = r.step))) } }
  done.foldl (fun s c => s.toMembers 6 { s.msg with job := c.job, step := c.step }) s

/-- READY of a member is held; with MEMBERS distinct members the commit is recorded, with the standby, and while the pair is intact with
the other hall (R377). -/
def State.addReady (s : State) (r : ReadyRec) : State :=
  let s : State := { s with nxp := { s.nxp with
    ready := if s.nxp.ready.contains r then s.nxp.ready else s.nxp.ready ++ [r]
    jobs := if s.nxp.jobs.contains (r.job, r.from_) then s.nxp.jobs else s.nxp.jobs ++ [(r.job, r.from_)] } }
  let n := (s.nxp.ready.filter (fun q => decide (q.job = r.job ∧ q.step = r.step))).length
  if n < r.members ∨ s.nxp.commits.any (fun c => decide (c.job = r.job ∧ c.step = r.step)) then s
  else
    let k : MgrMsg := { s.msg with job := r.job, step := r.step }
    let s := s.recordCommit s.nxp.hall r.job r.step
    let s := if s.nxp.standby then s.sendManager s.other 8 { k with role := 6 } else s
    let s := if s.nxp.pair then s.sendManager s.across 8 { k with role := 6 } else s
    let s : State := { s with nxp := { s.nxp with
      commits := s.nxp.commits ++ [⟨r.job, r.step, !s.nxp.standby, !s.nxp.pair⟩] } }
    s.sendCommits

/-- The pairing changes: a broken pair's commits wait for the other hall no more, and the members learn of it by a MEMBERSHIP of the other
hall's manager (R378, log 49). -/
def State.setPair (s : State) (on : Bool) : State :=
  let s : State := { s with nxp := { s.nxp with
    pair := on, commits := if on then s.nxp.commits else s.nxp.commits.map (fun (c : CommitRec) => { c with pairAck := true }) } }
  (s.sendCommits.toMembers 4 { s.msg with ident := s.across, state := b2n (!on) }).fabricChange (if on then 8 else 7) 0 s.across

/-- Acts on a change: its messages go, its event is posted, its READY is held and the pairing changes. -/
def State.act (s : State) (c : Change) : State :=
  let s := c.send.foldl (fun s e => s.sendManager e.1 e.2.1 e.2.2) s
  let s := match c.event with
    | some (kind, port, id) => s.fabricChange kind port id
    | none => s
  let s := match c.ready with
    | some r => s.addReady r
    | none => s
  match c.pair with
  | some on => s.setPair on
  | none => s

/-- Sends a change to the standby and waits for its acknowledgement, or acts at once where there is no standby (R375). -/
def State.change (s : State) (waits : Bool) (c : Change) : State :=
  if waits then ({ s with nxp := { s.nxp with changes := s.nxp.changes ++ [c] } } : State).sendManager s.other 8 c.msg else s.act c

/-- The state of a member changes: the standby records it, then `first` and every member are sent it (R375, R376). -/
def State.announce (s : State) (waits : Bool) (id : Nat) (first : List (Nat × Nat × MgrMsg)) (event : Option (Nat × Nat × Nat)) : State :=
  match mfind s.nxp.members id with
  | none => s
  | some m =>
    let k : MgrMsg := { s.msg with ident := id, epoch := m.epoch, state := m.state, dies := m.dies }
    s.change waits ⟨{ k with role := 4 }, first ++ s.current.map (fun d => (d, 4, k)), event, none, none⟩

/-- JOIN (R373, R375): the active manager grants an identifier, which a standby records first; a full range is answered with identifier 0x7FFF (log 49). -/
def execJoin (m : MgrMsg) (s : State) : Out State :=
  if s.power.stopped || !s.active then .next s
  else
    match s.grantId m.role m.request with
    | none => .next (s.sendManager m.src 2 { s.msg with ident := 0x7FFF })
    | some id =>
      let e := (mget 0 s.nxp.epochs id + 1) % 65536
      let waits := s.nxp.standby
      let s : State := { s with nxp := { s.nxp with
        epochs := mput s.nxp.epochs id e
        members := mput s.nxp.members id ⟨e, 0, 0, decide (m.role = 1)⟩
        standby := s.nxp.standby || decide (m.role = 2) } }
      .next (s.announce waits id [(m.src, 2, { s.msg with ident := id, epoch := e, role := m.role })] none)

/-- GRANT (R373, R376): a joining device takes the identifier; a spare takes the failed worker's. -/
def execGrant (m : MgrMsg) (s : State) : Out State :=
  if s.power.stopped then .next s
  else
    match s.nxp.joining with
    | some (h, role, _) =>
      if m.ident % 32768 = 0x7FFF then .next ({ s with nxp := { s.nxp with joining := none } }.finish h 0x28 0x504 [])
      else
        let s := s.takeId m.ident m.epoch (role + 1) m.term (if role = 2 then 1 else 0)
        .next (s.finish h 0x28 0 s.joinResult)
    | none =>
      if s.nxp.role = 2 ∧ s.nxp.term ≤ m.term ∧ m.ident % 32768 < 0x4000 then
        .next ((s.takeId m.ident m.epoch 1 m.term 0).fabricChange 4 0 m.ident)
      else .next s

/-- FABRIC_LEAVE (R374): a device that has not joined, or leaves already, has nothing to do. -/
def execFabricLeave (h : Cmd) (s : State) : Out State :=
  s.command h 0x29 (fun _ => true) (fun s =>
    if s.nxp.device = 0x7FFF ∨ s.nxp.leaving then s.finish h 0x29 0 []
    else { s with nxp := { s.nxp with leaving := true, leaveCmd := some h } }.tryLeave)

/-! ## Barriers (R377, R378) -/

/-- Abandons a barrier step: it is forgotten, and every member told once a standby has recorded it (R375, R377). -/
def State.abandonStep (s : State) (job step : Nat) : State :=
  let s : State := { s with nxp := { s.nxp with
    ready := s.nxp.ready.filter (fun r => !decide (r.job = job ∧ r.step = step))
    commits := s.nxp.commits.filter (fun c => !decide (c.job = job ∧ c.step = step)) } }
  let k : MgrMsg := { s.msg with job := job, step := step }
  s.change s.nxp.standby ⟨{ k with role := 7 }, s.current.map (fun d => (d, 7, k)), none, none, none⟩

/-- Abandons the open barrier step of every job that a member belongs to (R374, R376). -/
def State.abandonFor (s : State) (id : Nat) : State :=
  let jobs := (s.nxp.jobs.filter (fun j => decide (j.2 = id))).map Prod.fst
  ((s.nxp.ready.filter (fun r => jobs.contains r.job)).map (fun r => (r.job, r.step))).dedup.foldl
    (fun s e => s.abandonStep e.1 e.2) s

/-- READY (R375, R377): recorded with the standby and then held; one whose MEMBERS differs is refused (log 49). -/
def execReady (m : MgrMsg) (s : State) : Out State :=
  if s.power.stopped || !s.active then .next s
  else if s.nxp.ready.any (fun r => decide (r.job = m.job ∧ r.members ≠ m.members)) then
    .next (s.sendManager m.src 7 { s.msg with job := m.job, step := m.step, state := 0x504 })
  else
    let r : ReadyRec := ⟨m.job, m.step, m.members, m.src⟩
    let k : MgrMsg := { s.msg with job := m.job, step := m.step, members := m.members, ident := m.src, role := 5 }
    .next (s.change (s.nxp.standby && !s.nxp.ready.contains r) ⟨k, [], none, some r, none⟩)

/-- The contexts whose job a manager message names. -/
def State.ofJob (s : State) (job : Nat) : List (Nat × Ctx) :=
  s.ctxs.filter (fun e => decide (job ≠ 0 ∧ (s.creg e.1).job = job))

/-- The end of a STEP_COMMIT. -/
def State.endCommit (s : State) (x code : Nat) : State :=
  match (s.ctx x).bind Ctx.commit with
  | some w => ((s.modCtx x (fun c => { c with commit := none, committed := c.committed || decide (code = 0) })).finish w.cmd 0x0B code [])
  | none => s

/-- COMMIT (R377): the pending STEP_COMMIT of that step replies OK. -/
def execCommit (m : MgrMsg) (s : State) : Out State :=
  if s.power.stopped || decide (m.term < s.nxp.term) then .next s
  else
    .next ((s.ofJob m.job).foldl (fun s e =>
      if (e.2.commit.map CommitWait.step) = some m.step then s.endCommit e.1 0 else s) s)

/-- ABANDON of a context's step: the step is to be replayed, unless a failure of its own has been told to the manager, whose answer this
is, or is still to be (R409, R410). -/
def Ctx.abandoned (c : Ctx) : Ctx :=
  if c.told then { c with told := false }
  else if c.cause = none then { c with cause := some 0x503, causes := c.causes + 1 }
  else c

/-- ABANDON (R377, R409): the manager abandons the step; a member's STEP_COMMIT fails and the step is to be replayed. -/
def execAbandon (m : MgrMsg) (s : State) : Out State :=
  if s.power.stopped then .next s
  else if s.active then .next (s.abandonStep m.job m.step)
  else if m.term < s.nxp.term then .next s
  else
    let code := if m.state = 0x504 then 0x504 else 0x503
    .next ((s.ofJob m.job).foldl (fun s e =>
      let s := if (e.2.commit.map CommitWait.step) = some m.step then s.endCommit e.1 code else s
      if code = 0x503 ∧ e.2.step = some m.step ∧ e.2.committed = false then s.modCtx e.1 Ctx.abandoned else s) s)

/-- The record that a MIRROR of the hall's active manager carries, at the standby (R375, R377). -/
def State.takeRecord (s : State) (m : MgrMsg) (kind : Nat) : State :=
  match kind with
  | 3 => { s with nxp := { s.nxp with pair := decide (m.state = 0) } }
  | 4 => { s with nxp := { s.nxp with
      members := mput s.nxp.members m.ident ⟨m.epoch, m.dies, m.state, decide (0x4000 ≤ m.ident % 32768 ∧ m.ident % 32768 < 0x7FFC)⟩
      epochs := mput s.nxp.epochs m.ident (max (mget 0 s.nxp.epochs m.ident) m.epoch) } }
  | 5 => { s with nxp := { s.nxp with ready := s.nxp.ready ++ [⟨m.job, m.step, m.members, m.ident⟩] } }
  | 6 | 7 => { s with nxp := { s.nxp with ready := s.nxp.ready.filter (fun r => !decide (r.job = m.job ∧ r.step = m.step)) } }
  | _ => s

/-- An acknowledgement of a record: the active manager acts on what it covers (R375, R377). -/
def State.mirrorAcked (s : State) (m : MgrMsg) : State :=
  let mine := decide (m.src / 32768 = s.nxp.hall)
  if m.request ≠ 6 then
    match findIdx (fun (c : Change) => mine && decide (c.msg.role = m.request ∧ c.msg.ident = m.ident ∧ c.msg.job = m.job
        ∧ c.msg.step = m.step)) s.nxp.changes with
    | some (i, c) => ({ s with nxp := { s.nxp with changes := s.nxp.changes.eraseIdx i } } : State).act c
    | none => s
  else
    let s : State := { s with nxp := { s.nxp with commits := s.nxp.commits.map (fun (c : CommitRec) =>
      if c.job = m.job ∧ c.step = m.step then
        (if mine then { c with standbyAck := true } else { c with pairAck := true }) else c) } }
    s.sendCommits

/-- MIRROR (R375, R377, R378): `kind` is the subcode of the record, or 0 for an acknowledgement, whose `request` holds the subcode. A
manager takes no record of its hall with a lower term than it has seen; the standby takes the record, a manager of either hall keeps a
commit's, and it is acknowledged. -/
def execMirror (m : MgrMsg) (kind : Nat) (s : State) : Out State :=
  let mine := decide (m.src / 32768 = s.nxp.hall)
  if s.power.stopped || decide (s.nxp.mgr = 0) || (mine && decide (m.term < s.nxp.term)) then .next s
  else if kind = 0 then (if s.active then .next (s.mirrorAcked m) else .next s)
  else
    let s := if mine && decide (s.nxp.mgr = 1) then s.takeRecord m kind else s
    let s := if kind = 6 then s.recordCommit (m.src / 32768) m.job m.step else s
    .next (s.sendManager m.src 8 { s.msg with job := m.job, step := m.step, ident := m.ident, request := kind })

/-- A change of the pairing, which the standby records first (R375, R378, log 49); the same change does not go twice. -/
def State.changePair (s : State) (on : Bool) : State :=
  if s.nxp.changes.any (fun c => decide (c.pair = some on)) then s
  else s.change s.nxp.standby ⟨{ s.msg with role := 3, ident := s.across, state := b2n (!on) }, [], none, none, some on⟩

/-- PAIR_BROKEN (R378): a commit record was not acknowledged by the other hall within 100 ms. -/
def execPairBroken (s : State) : Out State :=
  if s.power.stopped || !s.active || !s.nxp.pair || !s.nxp.commits.any (fun c => !c.pairAck) then .next s
  else .next (s.changePair false)

/-! ## Heartbeats and membership (R375, R376) -/

/-- A manager that sees a higher term than its own stops acting and becomes the standby; a member takes the term. -/
def State.seeTerm (s : State) (term : Nat) : State :=
  if s.nxp.term < term then
    { s with nxp := { s.nxp with
      term := term, mgr := if s.nxp.mgr = 2 then 1 else s.nxp.mgr, changes := if s.nxp.mgr = 2 then [] else s.nxp.changes } }
  else s

/-- The other manager of the hall, which has stopped acting, is the standby, and copies what this one holds: the members, the pairing, the
commits and the open barrier steps (R375). -/
def State.newStandby (s : State) : State :=
  let s : State := { s with nxp := { s.nxp with standby := true } }
  let s := s.nxp.members.foldl (fun (s : State) e =>
    s.sendManager s.other 8 { s.msg with ident := e.1, epoch := e.2.epoch, state := e.2.state, dies := e.2.dies, role := 4 }) s
  let s := s.sendManager s.other 8 { s.msg with role := 3, ident := s.across, state := b2n (!s.nxp.pair) }
  let s := s.nxp.recorded.foldl (fun (s : State) c =>
    if c.1 = s.nxp.hall then s.sendManager s.other 8 { s.msg with job := c.2.1, step := c.2.2, role := 6 } else s) s
  s.nxp.ready.foldl (fun (s : State) r =>
    s.sendManager s.other 8 { s.msg with job := r.job, step := r.step, members := r.members, ident := r.from_, role := 5 }) s

/-- HEARTBEAT (R375, R378): a member's port-die states are taken; the other hall's manager shows the pair intact. -/
def execHeartbeat (m : MgrMsg) (s : State) : Out State :=
  if s.power.stopped || decide (s.nxp.device = 0x7FFF) then .next s
  else if m.src / 32768 ≠ s.nxp.hall then
    if s.active ∧ s.nxp.pair = false then .next (s.changePair true) else .next s
  else
    let isMgr := decide (0x7FFC ≤ m.src % 32768 ∧ m.src % 32768 < 0x7FFF)
    if isMgr then
      if s.active && !s.nxp.standby && decide (m.src = s.other ∧ m.term = s.nxp.term) then .next s.newStandby
      else .next (s.seeTerm m.term)
    else
      match mfind s.nxp.members m.src with
      | some r =>
        if s.active ∧ r.dies ≠ m.dies then
          .next ({ s with nxp := { s.nxp with members := mput s.nxp.members m.src { r with dies := m.dies } } }.announce
            s.nxp.standby m.src [] none)
        else .next s
      | none => .next s

/-- HEARTBEAT_TIMER (R375, R378). -/
def execHeartbeatTimer (s : State) : Out State :=
  if s.power.stopped || decide (s.nxp.device = 0x7FFF) then .next s
  else
    let k : MgrMsg := { s.msg with dies := s.nxp.diesLost }
    if s.active then
      let s := s.toMembers 3 k
      let s := if s.nxp.standby then s.sendManager s.other 3 k else s
      .next (s.sendManager s.across 3 k)
    else .next (s.sendManager s.manager 3 k)

/-- The standby is lost: what waits for it is acted on. -/
def State.loseStandby (s : State) : State :=
  let l := s.nxp.changes
  let s : State := { s with nxp := { s.nxp with
    standby := false, changes := [], commits := s.nxp.commits.map (fun (c : CommitRec) => { c with standbyAck := true }) } }
  (l.foldl State.act s).sendCommits

/-- MEMBER_FAILED (R375, R376, Table 12.9). -/
def execMemberFailed (ident : Nat) (s : State) : Out State :=
  let id := ident + 32768 * s.nxp.hall
  match mfind s.nxp.members id with
  | none => .next s
  | some m =>
    if s.power.stopped || !s.active || decide (m.state ≠ 0) then .next s
    else
      let s : State := { s with nxp := { s.nxp with members := mput s.nxp.members id { m with state := 1 } } }
      let s := s.abandonFor id
      let spare := if m.spare ∨ 0x7FFC ≤ ident then none
        else s.nxp.members.find? (fun e => e.2.spare && decide (e.2.state = 0))
      match spare with
      | none =>
        let s := if 0x7FFC ≤ ident then s.loseStandby else s
        .next (s.announce s.nxp.standby id [] (some (5, 0, id)))
      | some (sid, sp) =>
        let e := (m.epoch + 1) % 65536
        let s : State := { s with nxp := { s.nxp with
          members := mput (mput s.nxp.members sid { sp with state := 2 }) id ⟨e, sp.dies, 0, false⟩, epochs := mput s.nxp.epochs id e } }
        .next ((s.announce s.nxp.standby sid [] none).announce s.nxp.standby id [(sid, 2, { s.msg with ident := id, epoch := e })] (some (4, 0, id)))

/-- MANAGER_SILENCE (R375): the standby becomes active with term + 1 and announces it. -/
def execManagerSilence (s : State) : Out State :=
  if s.power.stopped || decide (s.nxp.mgr ≠ 1) then .next s
  else
    let s : State := { s with nxp := { s.nxp with mgr := 2, term := wrapAdd 32 s.nxp.term 1, standby := false } }
    .next ((s.toMembers 9 s.msg).fabricChange 6 0 s.me)

/-- TAKEOVER (R375). -/
def execTakeover (m : MgrMsg) (s : State) : Out State :=
  if s.power.stopped || decide (m.term ≤ s.nxp.term) then .next s else .next ((s.seeTerm m.term).fabricChange 6 0 m.src)

/-- MEMBERSHIP (R371, R374, R376, R378): a member takes the record, fails its operations to an old epoch and tells its host what changed, also
of a record it had not; one of the other hall's manager tells of the pairing; the manager takes a member's leave. -/
def execMembership (m : MgrMsg) (s : State) : Out State :=
  if s.power.stopped || decide (m.term < s.nxp.term) then .next s
  else if m.ident % 32768 = 0x7FFE then .next (if s.active then s else s.fabricChange (if m.state = 0 then 8 else 7) 0 m.ident)
  else if s.active then
    match mfind s.nxp.members m.ident with
    | some r =>
      if m.state ≠ 2 then .next s
      else
        let s : State := { s with nxp := { s.nxp with members := mput s.nxp.members m.ident { r with state := 2 } } }
        .next ((s.abandonFor m.ident).announce s.nxp.standby m.ident [] none)
    | none => .next s
  else
    let old := mfind s.nxp.members m.ident
    let fails := decide (m.state ≠ 0) || ((old.map (fun r => decide (r.epoch ≠ m.epoch))).getD false)
    let s := (s.seeTerm m.term)
    let s : State := { s with nxp := { s.nxp with
      members := mput s.nxp.members m.ident
        ⟨m.epoch, m.dies, m.state, decide (0x4000 ≤ m.ident % 32768 ∧ m.ident % 32768 < 0x7FFC)⟩ } }
    let s := if fails then s.failOps (fun o => decide (o.packet.dst = m.ident)) 0x501 else s
    let changed (e d : Nat) : State :=
      if m.state = 1 then s.fabricChange 5 0 m.ident
      else if m.state = 0 ∧ e ≠ m.epoch then s.fabricChange 4 0 m.ident
      else if d ≠ m.dies then s.fabricChange 3 (if bit m.dies 0 then 0 else 1) m.ident
      else s
    .next (match old with
      | some r => if r.state = 2 then changed m.epoch m.dies else changed r.epoch r.dies
      | none => changed 1 0)

/-! ## FLIT_RECEIVE (R350 to R354, R360) -/

/-- A manager message takes effect as its own row gives it. -/
def State.manage (s : State) (e : Nat × MgrMsg) : Out State :=
  match e.1 with
  | 1 => execJoin e.2 s
  | 2 => execGrant e.2 s
  | 3 => execHeartbeat e.2 s
  | 4 => execMembership e.2 s
  | 5 => execReady e.2 s
  | 6 => execCommit e.2 s
  | 7 => execAbandon e.2 s
  | 8 => execMirror e.2 e.2.role s
  | 9 => execTakeover e.2 s
  | _ => .next s

/-- The manager messages that flits have brought take effect in order. -/
def State.takeInbox (s : State) : State :=
  s.nxp.inbox.foldl (fun (s : State) e => match s.manage e with
    | .next t => t
    | _ => s) { s with nxp := { s.nxp with inbox := [] } }

/-- The packets that a good flit of a channel completes are delivered, and the bytes after them wait for the next flit (R350). -/
def State.unpackFlit (s : State) (p v : Nat) (payload : List Byte) : State :=
  let b := mget [] (s.port p).rx v ++ payload
  let r := unpack (p / 9) b.length b
  (r.1.foldl State.packetIn (s.modPort p (fun x => { x with rx := mset [] x.rx v r.2 }))).takeInbox

/-- FLIT_RECEIVE (R350 to R354): a good flit in sequence is accepted, its ACK, NAK and credits are acted on, flits that can go are sent, and
the packets that it completes take effect (log 75); another is discarded.
How many symbols its codewords corrected is a free value. -/
def execFlitReceive (p : Nat) (f : List Byte) (fec : Bool) (s : State) : Out State :=
  let x := s.port p
  let w := field f 0 8
  if s.power.stopped || !x.serves then .next s
  else if !fec || decide (f.length ≠ 256) || decide (crc32 (f.take 252) ≠ field f 252 4) || decide (bits w 11 0 ≠ x.rxSeq) then
    .next (s.sendNak p)
  else
    let fixed := Config.fecSymbols s.tick
    let s := s.advance.modPort p (fun x =>
      { (x.ackTo (bits w 23 12)).credit w with
        fec := satAdd 32 x.fec fixed, rxSeq := (x.rxSeq + 1) % 4096, discarding := false, nak := false })
    let s := if bit w 24 then s.replayFlits p else s
    .next ((s.modPort p Port.pump).unpackFlit p (bits w 26 25) (slice f 8 244))

end Sys2Proof.Machine
end

