-- ==== Sys2Proof/Machine/Pixels.lean ====
section
/-! DEFINITION. The output pipeline of an ingest engine (R385, R388 to R390): transport packets, fields, colour, resize, tokens. -/

namespace Sys2Proof.Machine

/-! ## Transport streams (R385) -/

/-- What the parser keeps between packets: the last continuity counter, whether an error stands before the next piece, whether a packet
was scrambled, the part of a PES header that has come while it is not whole, and the pieces, newest first. -/
structure TsState where
  last : Option Nat := none
  mark : Bool := false
  scrambled : Bool := false
  head : Option (List Byte) := none
  pieces : List (Bool × List Byte) := []
  deriving DecidableEq, Repr

/-- Takes the header off a PES packet; nothing where the header is not whole yet. -/
def stripPes (p : List Byte) : Option (List Byte) := if 9 + field p 8 1 ≤ p.length ∧ 9 ≤ p.length then some (p.drop (9 + field p 8 1)) else none

/-- The payload of a packet of the stream, in which a PES packet may start: its header is taken off, also one that lies in several
packets. -/
def TsState.payload (t : TsState) (start broken : Bool) (body : List Byte) : TsState :=
  let out (bs : List Byte) : TsState := { t with mark := false, head := none, pieces := (t.mark || broken, bs) :: t.pieces }
  match (if start then some [] else t.head) with
  | none => out body
  | some h =>
    match stripPes (h ++ body) with
    | some bs => out bs
    | none => { t with mark := t.mark || broken, head := some (h ++ body) }

/-- One packet of 188 bytes (R385): other PIDs are skipped; a break of sync or continuity marks what follows. A discontinuity indicator
excuses the next payload, its own packet's or, where it has none, a later one's. -/
def tsPacket (pid : Nat) (t : TsState) (p : List Byte) : TsState :=
  let b1 := field p 1 1; let b3 := field p 3 1
  if field p 0 1 ≠ 0x47 then { t with mark := true }
  else if b1 % 32 * 256 + field p 2 1 ≠ pid then t
  else
    let adapt := decide (b3 / 32 % 2 = 1); let len := field p 4 1
    let body := if b3 / 16 % 2 = 1 then p.drop (4 + (if adapt then 1 + len else 0)) else []
    let disc := adapt && decide (0 < len) && decide (128 ≤ field p 5 1)
    let cc := b3 % 16
    let t : TsState := { t with scrambled := t.scrambled || decide (64 ≤ b3), last := if disc then none else t.last }
    if body = [] ∨ t.last = some cc then t
    else TsState.payload { t with last := some cc } (bit b1 6) ((t.last.map (fun l => decide (cc ≠ (l + 1) % 16))).getD false) body

/-- A byte range as the decoder sees it: the pieces, and whether a packet was scrambled. An error behind the last piece stands before an
empty one. -/
def tsPieces (pid : Nat) (bs : List Byte) : List (Bool × List Byte) × Bool :=
  let t := (chunks 188 bs).foldl (tsPacket pid) {}
  (t.pieces.reverse ++ (if t.mark then [(true, [])] else []), t.scrambled)

/-! ## The configuration block -/

/-- The fields of a stream's configuration block (Table 13.3). -/
def cgW (c : List Byte) : Nat := field c 0x0C 4
/-- LIST_CAP. -/
def cgCap (c : List Byte) : Nat := field c 0x08 4
/-- B. -/
def cgB (c : List Byte) : Nat := field c 0x28 4
/-- The identifier of P_WMK (0) or C_WMK (1). -/
def cgMark (c : List Byte) (k : Nat) : Nat := field c (0x2C + 4 * k) 4
/-- CONTROL. -/
def cgControl (c : List Byte) : Nat := field c 0x34 4
/-- OUT_TYPE. -/
def cgType (c : List Byte) : Nat := bits (cgControl c) 12 9
/-- X0, Y0, CW or CH. -/
def cgCrop (c : List Byte) (k : Nat) : Nat := field c (0x40 + 2 * k) 2
/-- OUT_W (0) or OUT_H (1). -/
def cgOut (c : List Byte) (k : Nat) : Nat := field c (0x48 + 2 * k) 2
/-- F. -/
def cgF (c : List Byte) : Nat := field c 0x4C 2
/-- STRIDE_T. -/
def cgStrideT (c : List Byte) : Nat := field c 0x4E 1
/-- PT (0), PH (1) or PW (2). -/
def cgPatch (c : List Byte) (k : Nat) : Nat := field c (0x50 + k) 1
/-- Features of a token. -/
def cgFeatures (c : List Byte) : Nat := 3 * cgPatch c 0 * cgPatch c 1 * cgPatch c 2
/-- Tokens of a clip. -/
def cgTokens (c : List Byte) : Nat := cgF c / cgPatch c 0 * (cgOut c 1 / cgPatch c 1) * (cgOut c 0 / cgPatch c 2)
/-- Bytes of the token tensor. -/
def cgBytes (c : List Byte) : Nat := cdiv (cgFeatures c * cgTokens c * typeBits (cgType c)) 8

/-! ## Fields (R388 stage 1) -/

/-- The output frames of a picture: itself, or its fields in temporal order: 1 top and 2 bottom at half height, 3 and 4 with the
missing lines made. -/
def outFrames (deint : Nat) (f : Frame) : List (Frame × Nat) :=
  if !f.interlaced then [(f, 0)]
  else
    let two (a b : Nat) := if f.topFirst then [(f, a), (f, b)] else [(f, b), (f, a)]
    match deint with
    | 0 => two 1 2
    | 1 => two 3 4
    | _ => [(f, 0)]

/-- The height of an output frame. -/
def outHeight (f : Frame × Nat) : Nat := if f.2 = 1 ∨ f.2 = 2 then f.1.height / 2 else f.1.height

/-- A value as halves: twice the sample of a plane at a column and an output row; a missing line is the mean of its neighbours, an
edge line replicated. -/
def planeAt (w h part : Nat) (p : List Nat) (x y : Nat) : Nat :=
  let s (r : Nat) : Nat := nth 0 p (r * w + x)
  match part with
  | 0 => 2 * s y
  | 1 => 2 * s (2 * y)
  | 2 => 2 * s (2 * y + 1)
  | 3 => if y % 2 = 0 then 2 * s y else if y + 1 < h then s (y - 1) + s (y + 1) else 2 * s (y - 1)
  | _ => if y % 2 = 1 then 2 * s y else if y = 0 then 2 * s 1 else if y + 1 < h then s (y - 1) + s (y + 1) else 2 * s (y - 1)

/-! ## Colour (R389) -/

/-- An FP32 value of a rational. -/
def f32q (n : Int) (d : Nat) : Nat := toF32 (.ofQ (Q.mk' n d))

/-- Kr and Kb by MATRIX, or by the picture's signalling. -/
def matrixOf (m : Nat) (f : Frame) : Nat × Nat :=
  let k := match m with
    | 0 => (match f.matrix with
      | 1 => 2 | 5 | 6 => 1 | 9 => 3
      | _ => if 720 ≤ f.height then 2 else 1)
    | m => m
  match k with
  | 1 => (f32q 299 1000, f32q 114 1000)
  | 2 => (f32q 2126 10000, f32q 722 10000)
  | _ => (f32q 2627 10000, f32q 593 10000)

/-- Sixteen times a chroma sample at a luma position of a cropped frame: bilinear, co-sited with even columns, midway between rows, the
window's edges replicated; exact. -/
def chromaAt (c : List Byte) (f : Frame × Nat) (p : List Nat) (x y : Nat) : Nat :=
  let w := (f.1.width + 1) / 2
  let h := (f.1.height + 1) / 2
  let right := (cgCrop c 0 + cgCrop c 2) / 2 - 1
  let top := cgCrop c 1 / 2
  let bottom := (cgCrop c 1 + cgCrop c 3) / 2 - 1
  let at_ (r : Nat) : Nat :=
    let r := max top (min r bottom)
    let a := planeAt w h f.2 p (x / 2) r
    if x % 2 = 0 then 2 * a else a + planeAt w h f.2 p (min (x / 2 + 1) right) r
  let k := y / 2
  if y % 2 = 0 then at_ (k - 1) + 3 * at_ k else 3 * at_ k + at_ (k + 1)

/-- The colour components R, G, B at a pixel of a cropped frame, FP32 (R389). -/
def rgbAt (c : List Byte) (f : Frame × Nat) (x y : Nat) : List Nat :=
  let g := f.1
  let one := 0x3F800000
  let sc := 2 ^ (g.depth - 8)
  let yy := f32q (planeAt g.width g.height f.2 g.luma x y) 2
  let full := 2 ^ g.depth - 1
  let luma := if g.fullRange then f32div yy (f32nat full) else f32div (f32sub yy (f32nat (16 * sc))) (f32nat (219 * sc))
  let clamp (v : Nat) : Nat := f32min (f32max v 0) one
  if g.mono then [clamp luma, clamp luma, clamp luma]
  else
    let chroma (p : List Nat) : Nat :=
      let v := if g.sub420 then f32q (chromaAt c f p x y) 16 else f32q (planeAt g.width g.height f.2 p x y) 2
      if g.fullRange then f32div (f32sub v (f32nat (2 ^ (g.depth - 1)))) (f32nat full)
      else f32div (f32sub v (f32nat (128 * sc))) (f32nat (224 * sc))
    let k := matrixOf (bits (cgControl c) 7 6) g
    let r := f32add luma (f32mul (f32mul 0x40000000 (f32sub one k.1)) (chroma g.cr))
    let b := f32add luma (f32mul (f32mul 0x40000000 (f32sub one k.2)) (chroma g.cb))
    let gr := f32div (f32sub (f32sub luma (f32mul k.1 r)) (f32mul k.2 b)) (f32sub (f32sub one k.1) k.2)
    [clamp r, clamp gr, clamp b]

/-! ## Resize (R388 stage 5) -/

/-- The taps of an output position: source positions and FP32 weights, and for FILTER 1 the total weight that divides. -/
def taps (area : Bool) (src out i : Nat) : List (Nat × Nat) × Option Nat :=
  if area then
    let lo := Q.mk' ((i * src : Nat) : Int) out; let hi := Q.mk' (((i + 1) * src : Nat) : Int) out
    let first := i * src / out; let last := ((i + 1) * src + out - 1) / out
    let w (k : Nat) : Nat :=
      let a := if lo.le (Q.int k) then Q.int k else lo
      let b := if hi.le (Q.int ((k + 1 : Nat) : Int)) then hi else Q.int ((k + 1 : Nat) : Int)
      toF32 (.ofQ (b.add a.neg))
    ((range (last - first)).map (fun k => (first + k, w (first + k))), some (f32q (src : Nat) out))
  else
    let u := (Q.mk' (((2 * i + 1) * src : Nat) : Int) (2 * out)).add (Q.mk' (-1) 2)
    let fl := u.floor
    let fr := toF32 (.ofQ (u.add (Q.int (-fl))))
    let at_ (v : Int) : Nat := min v.toNat (src - 1)
    ([(at_ fl, f32sub 0x3F800000 fr), (at_ (fl + 1), fr)], none)

/-- Applies taps to values: products and sums in ascending order, each rounded. -/
def applyTaps (t : List (Nat × Nat) × Option Nat) (v : Nat → Nat) : Nat :=
  let s := match t.1 with
    | [] => 0
    | a :: r => r.foldl (fun acc b => f32add acc (f32mul b.2 (v b.1))) (f32mul a.2 (v a.1))
  match t.2 with
  | some d => f32div s d
  | none => s

/-! ## A clip's tensor (R388, R390) -/

/-- The colour `k` of output pixel (x, y) of a frame: cropped, converted, resized horizontally first. -/
def pixelAt (c : List Byte) (f : Frame × Nat) (k x y : Nat) : Nat :=
  let ctl := cgControl c
  let area := bit ctl 8
  let tx := taps area (cgCrop c 2) (cgOut c 0) x
  let ty := taps area (cgCrop c 3) (cgOut c 1) y
  applyTaps ty (fun v => applyTaps tx (fun u =>
    nth 0 (rgbAt c f (cgCrop c 0 + u) (cgCrop c 1 + v)) k))

/-- The encodings of a clip's tensor in memory order (R390): features along dimension 0; a frame that is none gives zeros. -/
def clipTensor (c : List Byte) (frames : List (Option (Frame × Nat))) : List Nat :=
  let pt := cgPatch c 0; let ph := cgPatch c 1; let pw := cgPatch c 2
  let nw := cgOut c 0 / pw; let nh := cgOut c 1 / ph
  (range (cgTokens c)).flatMap (fun tok =>
    let px := tok % nw; let py := tok / nw % nh; let p := tok / (nw * nh)
    (range (cgFeatures c)).map (fun e =>
      let k := e % 3; let x := e / 3 % pw; let y := e / (3 * pw) % ph; let t := e / (3 * pw * ph)
      match nth none frames (p * pt + t) with
      | none => 0
      | some f =>
        let v := pixelAt c f k (px * pw + x) (py * ph + y)
        (convert (cgType c) 0 none (ofF32 (f32mul (f32sub v (field c (0x54 + 4 * k) 4)) (field c (0x60 + 4 * k) 4)))).1))

end Sys2Proof.Machine
end

