-- ==== Sys2Proof/Machine/Ingest.lean ====
section
/-! DEFINITION. Video ingest (R380 to R401): streams, feeding, the shuffle, decoding in turn, the output ring, cursors. -/

namespace Sys2Proof.Machine

/-! ## Streams -/

/-- Whether a context is suspended, or gone. -/
def State.ctxSuspended (s : State) (x : Nat) : Bool := ((s.ctx x).map Ctx.suspended).getD true

/-- Whether an engine is in service (R380, R371). -/
def State.engineUp (s : State) (e : Nat) : Bool := decide ((s.engine e).state = 0) && !bit s.nxp.diesLost e

/-- The context and a logical identifier's count. -/
def IStream.produced (x : IStream) : Nat := wkey x.ctx (cgMark x.cfg 0)
/-- The key of C. -/
def IStream.consumed (x : IStream) : Nat := wkey x.ctx (cgMark x.cfg 1)
/-- The count of a key at its home. -/
def State.countAt (s : State) (k : Nat) : Nat := ((s.binding k).map Binding.count).getD 0
/-- C − B (R397). -/
def State.cursor (s : State) (x : IStream) : Nat := s.countAt x.consumed - cgB x.cfg

/-- A stream's engine acting for its context (Table 1.5). -/
def IStream.who (x : IStream) (h : Nat) : Who := agentAt (0x41 + 4 * engineOf h) x.ctx

/-- What a failed ingest access does: a miss suspends the context and is tried again; another failure stops the stream (R400,
R405). -/
def State.ingestFails (s : State) (h x : Nat) (a : Acc) (store : Bool) : State :=
  match a with
  | .miss va => s.suspend x va store
  | a => (s.noteAcc (agentOf x) a).stopStream h 0x904

/-! ## Opening and closing (R391, R392, R398) -/

/-- Whether a configuration block keeps Table 13.3 and R392. -/
def streamCfgOk (c : List Byte) : Bool :=
  let w := cgW c; let ctl := cgControl c
  let list := field c 0 8; let base := field c 0x18 8; let stride := field c 0x20 8
  let nl := 32 * cgCap c; let ns := cgB c * stride
  let p (k lim : Nat) : Bool := decide (1 ≤ cgPatch c k ∧ cgPatch c k ≤ lim)
  decide (1 ≤ w ∧ w ≤ 65536) && decide (2 * w ≤ cgCap c ∧ cgCap c ≤ 2 ^ 20) && decide (list % 64 = 0 ∧ base % 4096 = 0 ∧ stride % 4096 = 0)
    && decide (1 ≤ cgB c ∧ cgB c ≤ 4096) && decide (cgMark c 0 < 2 ^ 20 ∧ cgMark c 1 < 2 ^ 20)
    && decide (bits ctl 2 0 ≤ 4 ∧ bits ctl 5 4 ≠ 3 ∧ bits ctl 31 13 = 0) && ([1, 3, 4] : List Nat).contains (cgType c)
    && decide (field c 0x38 2 < 8192) && (!bit ctl 3 || decide (field c 0x38 2 = 0)) && zeroed c 0x3A 6
    && (range 2).all (fun k => decide (16 ≤ cgOut c k ∧ cgOut c k ≤ 8192)) && decide (1 ≤ cgF c ∧ cgF c ≤ 4096)
    && decide (1 ≤ cgStrideT c ∧ cgStrideT c ≤ 64) && zeroed c 0x4F 1 && p 0 4 && p 1 32 && p 2 32 && zeroed c 0x53 1
    && (range 6).all (fun k => !f32bad (field c (0x54 + 4 * k) 4)) && zeroed c 0x6C 148
    && decide (cgF c % cgPatch c 0 = 0 ∧ cgOut c 1 % cgPatch c 1 = 0 ∧ cgOut c 0 % cgPatch c 2 = 0) && decide (cgTokens c ≤ 2 ^ 24)
    && decide (4096 + cgBytes c ≤ stride) && decide (list + nl ≤ hbmBytes ∧ base + ns ≤ hbmBytes) && !rangesMeet list nl base ns
    && !(!bit ctl 3 && decide (3 ≤ bits ctl 2 0))

/-- Whether the stream's Waymarks are bound at home with the counts that START needs (R392). -/
def State.marksOk (s : State) (x : Nat) (c : List Byte) (start : Nat) : Bool :=
  (range 2).all (fun k => match s.binding (wkey x (cgMark c k)) with
    | some b => decide (b.kind ≠ 3) && decide (b.count = start + k * cgB c)
    | none => false)

/-- The engine that INGEST_OPEN takes (R391); none where neither serves. -/
def State.pickEngine (s : State) (e : Nat) : Option Nat :=
  if e ≤ 1 then (if s.engineUp e then some e else none)
  else
    match s.engineUp 0, s.engineUp 1 with
    | true, true => if s.ing1.streams.length < s.ing0.streams.length then some 1 else some 0
    | true, false => some 0
    | false, true => some 1
    | _, _ => none

/-- INGEST_OPEN (R391, R392); where its block misses it suspends the context and waits for RESUME (R400). -/
def execIngestOpen (h : Cmd) (config start engine : Nat) (s : State) : Out State :=
  s.serve h 0x20 (fun p => decide (field p 8 8 = config ∧ field p 0x10 8 = start ∧ field p 0x18 1 = engine)) (fun s =>
    if 3 ≤ engine ∨ config % 256 ≠ 0 ∨ s.isHere config = false then s.finish h 0x20 0x102 []
    else
      match s.read (agentOf h.ctx) (localOf config) 256 with
      | .stop (.miss va) => s.suspend h.ctx va false
      | .stop a => (s.noteAcc (agentOf h.ctx) a).finish h 0x20 a.code []
      | .data c =>
        if !streamCfgOk c || !s.marksOk h.ctx c start then s.finish h 0x20 0x102 []
        else
          match s.pickEngine engine with
          | none => s.finish h 0x20 0x902 []
          | some e =>
            match ((range 256).map (fun k => 256 * e + k)).find? (fun n => (s.stream n).isNone) with
            | none => s.finish h 0x20 0x903 []
            | some n =>
              let s := s.setStream' n { ctx := h.ctx, cfg := c, cfgAddr := config, start := start, next := start }
              (s.modCtx h.ctx (fun x => { x with used := true })).finish h 0x20 0 (toBytes 2 n ++ toBytes 1 e))

/-- A stream ends: waiting feeds reply INGEST_CLOSED (R387, R398). -/
def State.closeStream (s : State) (h : Nat) : State :=
  match s.stream h with
  | none => s
  | some x =>
    let s := (s.orphanReads h).modEngine (engineOf h) (fun e => { e with streams := mdel e.streams h })
    x.feeds.foldl (fun s f => s.finish f.cmd 0x21 0x905 []) s

/-- INGEST_CLOSE (R398). -/
def execIngestClose (h : Cmd) (handle : Nat) (s : State) : Out State :=
  s.command h 0x22 (fun p => decide (field p 8 2 = handle)) (fun s =>
    match s.stream handle with
    | none => s.finish h 0x22 0x102 []
    | some x =>
      if x.ctx ≠ h.ctx then s.finish h 0x22 0x102 []
      else (s.closeStream handle).finish h 0x22 0 (toBytes 8 x.next ++ toBytes 8 (s.cursor x)))

/-! ## Feeding (R384, R387) -/

/-- Whether a clip reference keeps Table 13.2; `au` says that the container is an AU list. -/
def clipRefOk (au : Bool) (r : List Byte) : Bool :=
  let n := field r 8 4
  (if au then decide (1 ≤ n ∧ n ≤ 2 ^ 20) else decide (n % 188 = 0 ∧ 188 ≤ n ∧ n ≤ 2 ^ 31))
    && decide (field r 0x14 4 < 2) && zeroed r 0x18 8

/-- The list position at which a stream was opened: of the first position of START's window (R393). -/
def IStream.origin (x : IStream) : Nat := x.start / cgW x.cfg * cgW x.cfg
/-- Positions fed whose window is not yet written whole (R387). -/
def IStream.inList (x : IStream) : Nat := x.fed - (x.next / cgW x.cfg * cgW x.cfg - x.origin)
/-- The local offset of a list position's entry. -/
def IStream.entry (x : IStream) (pos : Nat) : Nat := field x.cfg 0 8 + 32 * (pos % cgCap x.cfg)

/-- A waiting feed ends with a code. -/
def State.dropFeed (s : State) (h : Nat) (f : Feed) (code : Nat) : State :=
  (s.modStream h (fun x => { x with feeds := x.feeds.drop 1 })).finish f.cmd 0x21 code []

/-- What stops the first waiting feed: a miss suspends the context, and the feed goes on after RESUME; another failure stops the stream
and ends the feed (R400). -/
def State.feedStops (s : State) (h : Nat) (x : IStream) (f : Feed) (a : Acc) (store : Bool) : State :=
  let t := s.ingestFails h x.ctx a store
  match a with
  | .miss _ => t
  | _ => t.dropFeed h f 0x904

/-- The first waiting feed's references are read and checked whole (R387); the answer says whether it is still the first. -/
def State.checkFeed (s : State) (h : Nat) (x : IStream) (f : Feed) : State × Bool :=
  if f.checked then (s, true)
  else
    match s.readG (x.who h) f.segment (32 * f.count) with
    | .stop a => (s.feedStops h x f a false, false)
    | .data bs =>
      if (chunks 32 bs).all (clipRefOk (bit (cgControl x.cfg) 3)) then
        (s.modStream h (fun x => { x with feeds := { f with checked := true } :: x.feeds.drop 1 }), true)
      else (s.dropFeed h f 0x102, false)

/-- Copies references into the list area from a list position on; the access that stops it, if one does. -/
def State.putRefs (s : State) (h : Nat) (x : IStream) (pos : Nat) (bs : List Byte) : State × Option Acc :=
  ((chunks 32 bs).mapIdx (fun k b => (k, b))).foldl (fun (r : State × Option Acc) e =>
    match r.2 with
    | some _ => r
    | none => r.1.write (x.who h) (x.entry (pos + e.1)) e.2) (s, none)

/-- Checks and copies what fits of the first waiting feed; one that is copied whole replies (R387). `fuel` bounds the feeds. -/
def State.pump (s : State) (h : Nat) : Nat → State
  | 0 => s
  | k + 1 =>
    match s.stream h with
    | none => s
    | some x =>
      match x.feeds with
      | [] => s
      | f :: _ =>
        match s.checkFeed h x f with
        | (s, false) => if s.ctxSuspended x.ctx then s else s.pump h k
        | (s, true) =>
          let f : Feed := { f with checked := true }
          let n := min f.count (cgCap x.cfg - x.inList)
          if n = 0 then s
          else
            match s.readG (x.who h) f.segment (32 * n) with
            | .stop a => s.feedStops h x f a false
            | .data bs =>
              match s.putRefs h x (x.origin + x.fed) bs with
              | (s, some a) => s.feedStops h x f a true
              | (s, none) =>
                let s := s.modStream h (fun x => { x with fed := x.fed + n })
                if n = f.count then
                  ((s.modStream h (fun x => { x with final := x.final || f.final })).dropFeed h f 0).pump h k
                else s.modStream h (fun x => { x with
                  feeds := { f with segment := f.segment + 32 * n, count := f.count - n } :: x.feeds.drop 1 })

/-- INGEST_FEED (R387): a segment that breaks Table 13.2 is rejected whole. -/
def execIngestFeed (h : Cmd) (handle : Nat) (final : Bool) (segment count : Nat) (s : State) : Out State :=
  s.command h 0x21 (fun p =>
      decide (field p 8 2 = handle ∧ bit (field p 0xA 1) 0 = final ∧ field p 0x10 8 = segment ∧ field p 0x18 4 = count)) (fun s =>
    match s.stream handle with
    | none => s.finish h 0x21 0x102 []
    | some x =>
      if x.ctx ≠ h.ctx ∨ count = 0 ∨ 2 ^ 20 < count ∨ x.final ∨ x.feeds.any Feed.final then s.finish h 0x21 0x102 []
      else
        (s.modStream handle (fun x => { x with feeds := x.feeds ++ [⟨h, final, segment, count, false⟩] })).pump handle
          (x.feeds.length + 1))

/-! ## The shuffle (R393) -/

/-- The hash of R393. -/
def shuffleHash (seed w i : Nat) : Nat := (srOut seed (w % 2 ^ 32) (w / 2 ^ 32 % 2 ^ 32) i).toNat

/-- The swaps of R393 from place `i` down to 1. -/
def shuffle (seed w : Nat) : Nat → List Nat → List Nat
  | 0, p => p
  | i + 1, p =>
    let j := shuffleHash seed w (i + 1) * (i + 2) / 2 ^ 32
    let a := nth 0 p (i + 1); let b := nth 0 p j
    shuffle seed w i (upd (upd p (i + 1) (fun _ => b)) j (fun _ => a))

/-- The list position of clip `n`; none where it does not exist or its window is not fed (R393). -/
def IStream.position (x : IStream) (n : Nat) : Option Nat :=
  let w := cgW x.cfg
  let win := n / w; let first := win * w
  let have_ := x.origin + x.fed - first
  let size := if x.final then min w have_ else w
  if size ≤ n % w ∨ have_ < size then none
  else some (first + nth 0 (shuffle (field x.cfg 0x10 8) win (size - 1) (range size)) (n % w))

/-! ## Decoding in turn (R381, R386, R396, R399) -/

/-- Whether an AU entry keeps its layout (R10, R384). -/
def auOk (e : List Byte) : Bool := decide (1 ≤ field e 8 4 ∧ field e 8 4 ≤ 2 ^ 24) && zeroed e 12 4

/-- Whether the addresses of a clip's source are PCIe addresses (Table 13.2). -/
def hostSource (r : List Byte) : Bool := bit (field r 0x14 4) 0

/-- The units of other devices in ranges of global addresses, each for one READ (R358, R384; log 24). -/
def State.farUnits (s : State) (l : List (Nat × Nat)) : List (Nat × Nat) :=
  l.flatMap (fun p => if s.isHere p.1 then [] else (units (localOf p.1) p.2).map (fun q => (p.1 - localOf p.1 + q.1, q.2)))

/-- Sends the READs for what a source asks of other devices (R384): the state, how many wait, or the code with which one cannot be
sent. -/
def State.askSource (s : State) (h : Nat) (x : IStream) (f : Fetch) : State × Nat × Nat :=
  (if hostSource f.ref then [] else s.farUnits f.ranges).foldl (fun (r : State × Nat × Nat) e =>
    if r.2.2 ≠ 0 then r
    else
      let q := r.1.request (.ingest h) (engineOf h) x.ctx 1 (deviceOf e.1) e.2 (localOf e.1) false []
      (q.1, r.2.1 + 1, q.2)) (s, 0, 0)

/-- The bytes of one range of a source: this device's memory, what has come of another device's, or host memory, whose bytes and whose
answer are free (R384, R400; log 24). -/
def State.sourceBytes (s : State) (h : Nat) (x : IStream) (f : Fetch) (p : Nat × Nat) : Except Acc (List Byte) :=
  if hostSource f.ref then
    if Config.sourceFails s.tick p.1 then .error (.fail 0x904) else .ok ((range p.2).map (fun k => Config.remoteByte s.tick (p.1 + k)))
  else if s.isHere p.1 then
    match s.readG (x.who h) p.1 p.2 with
    | .data bs => .ok bs
    | .stop e => .error e
  else .ok ((s.farUnits [p]).flatMap (fun q => mget [] f.data q.1))

/-- A clip before its first access unit; one whose source holds nothing has none. -/
def newClip (n pos : Nat) (r : List Byte) (src : List (Bool × List Byte)) (bad : Bool) : Clip :=
  { n := n, pos := pos, ref := r, source := src, au := 0, place := 0, header := false, seen := 0, frames := [], gopStart := 0
    gopBad := false, started := false, dropped := 0, unsupported := bad, finished := bad || src.all (fun p => decide (p.2 = [])) }

/-- The clip of a source that is read whole: the pieces as the decoder sees them, and whether it is scrambled. -/
def IStream.clipOf (x : IStream) (pos : Nat) (r : List Byte) (l : List (List Byte)) : Clip :=
  if bit (cgControl x.cfg) 3 then newClip x.next pos r (l.map (fun b => (false, b))) false
  else let t := tsPieces (field x.cfg 0x38 2) l.flatten; newClip x.next pos r t.1 t.2

/-- A stream keeps what it reads of a source. -/
def State.setFetch (s : State) (h : Nat) (f : Option Fetch) : State := s.modStream h (fun x => { x with fetch := f })

/-- Goes on with a clip's source: what other devices hold is asked for and waited for, then the bytes are taken; those of AU entries name
further ranges (R384). An AU entry that breaks its layout stops the read (log 50). `fuel` bounds the stages. -/
def State.sourceOn (s : State) (h : Nat) (x : IStream) (pos : Nat) : Nat → Fetch → State × Option Clip
  | 0, _ => (s, none)
  | k + 1, f =>
    match f.waits with
    | none =>
      let r := s.askSource h x f
      if r.2.2 ≠ 0 then (r.1.ingestFails h x.ctx (.fail 0x904) false, none)
      else if r.2.1 = 0 then s.sourceOn h x pos k { f with waits := some 0 }
      else (r.1.setFetch h (some { f with waits := some r.2.1 }), none)
    | some _ =>
      match f.ranges.mapM (s.sourceBytes h x f) with
      | .error a => (s.ingestFails h x.ctx a false, none)
      | .ok l =>
        if !f.list then (s.setFetch h none, some (x.clipOf pos f.ref l))
        else
          let es := chunks 16 l.flatten
          if es.all auOk then s.sourceOn h x pos k ⟨f.ref, false, es.map (fun e => (field e 0 8, field e 8 4)), none, []⟩
          else (s.ingestFails h x.ctx (.fail 0x904) false, none)

/-- Whether a stream has a free output slot for its next clip (R395). -/
def State.slotReady (s : State) (x : IStream) : Bool := decide (x.next + 1 ≤ s.countAt x.consumed)

/-- Whether a stream takes a turn (R381): it is producing, has a free slot, and has a clip to decode whose source it does not wait for. -/
def State.takesTurn (s : State) (x : IStream) : Bool :=
  !x.stopped && !x.paused && s.slotReady x && !s.ctxSuspended x.ctx &&
    (match x.clip with
    | some c => !c.finished
    | none => (x.position x.next).isSome && (x.fetch.map (fun f => decide (f.waits = some 0))).getD true)

/-- Starts the next clip of a stream, or goes on with it once its source has come: its reference and its source are read. -/
def State.startClip (s : State) (h : Nat) (x : IStream) (pos : Nat) : State × Option Clip :=
  match x.fetch with
  | some f => s.sourceOn h x pos 4 f
  | none =>
    match s.read (x.who h) (x.entry pos) 32 with
    | .stop a => (s.ingestFails h x.ctx a false, none)
    | .data r =>
      let au := bit (cgControl x.cfg) 3; let n := field r 8 4
      s.sourceOn h x pos 4 { ref := r, list := au, ranges := [(field r 0 8, if au then 16 * n else n)] }

/-- Whether a picture lies within its codec's row of Table 13.1: chroma format, bit depth, and largest luma picture. -/
def frameInRow (f : Frame) (codec : Nat) : Bool :=
  let eightTen := decide (f.depth = 8 ∨ f.depth = 10)
  match codec with
  | 0 => f.sub420 && !f.mono && decide (f.depth = 8) && decide (f.width ≤ 1920 ∧ f.height ≤ 1152)
  | 1 => (f.sub420 || f.mono) && eightTen && decide (cdiv f.width 16 * cdiv f.height 16 ≤ 36864)
  | 2 => f.sub420 && !f.mono && eightTen && decide (f.width * f.height ≤ 35651584)
  | 3 => f.sub420 && !f.mono && eightTen && decide (f.width ≤ 8192 ∧ f.height ≤ 4352)
  | _ => (f.sub420 || f.mono) && eightTen && decide (f.width ≤ 8192 ∧ f.height ≤ 4352)

/-- Whether an access unit is a random access point, given whether a sequence header has stood before its picture (R386). -/
def accessPoint (r : AuResult) (codec : Nat) (header : Bool) : Bool :=
  match codec with
  | 0 => decide (r.pic = .intra) && header
  | 1 => decide (r.pic = .idr)
  | 2 => decide (r.pic = .irap)
  | 3 => decide (r.pic = .key)
  | _ => decide (r.pic = .key) && header

/-- The offsets in a source at which a break of sync or continuity is marked (R385). -/
def marksIn (src : List (Bool × List Byte)) : List Nat :=
  (src.foldl (fun (r : List Nat × Nat) p => (if p.1 then r.1 ++ [r.2] else r.1, r.2 + p.2.length)) ([], 0)).1

/-- The end of a clip's source. -/
def Clip.size (k : Clip) : Nat := total (k.source.map (fun p => p.2.length))

/-- The offset at which a clip's next access unit ends: of an AU list its entry's end, of a transport stream where the decoder finds it. -/
def Clip.unitEnd (k : Clip) (list : Bool) (r : AuResult) : Nat :=
  if list then total ((k.source.take (k.au + 1)).map (fun p => p.2.length)) else min k.size (max r.upTo (k.place + 1))

/-- Whether the crop window lies within a decoded picture, and is even for 4:2:0 (R383, R388). -/
def cropOk (c : List Byte) (f : Frame × Nat) : Bool :=
  decide (cgCrop c 0 + cgCrop c 2 ≤ f.1.width ∧ cgCrop c 1 + cgCrop c 3 ≤ outHeight f)
    && (!f.1.sub420 || (range 4).all (fun k => decide (cgCrop c k % 2 = 0)))

/-- Takes an output frame: selected if temporal sampling names it, none in a dropped group (R388 stage 2, R396); every one is judged
(R383). -/
def Clip.takeFrame (k : Clip) (c : List Byte) (f : Frame × Nat) : Clip :=
  let first := field k.ref 0x0C 4
  let hit := decide (first ≤ k.seen) && decide ((k.seen - first) % cgStrideT c = 0) && decide (k.frames.length < cgF c)
  { k with
    seen := k.seen + 1
    frames := if hit then k.frames ++ [if k.gopBad then none else some f] else k.frames
    unsupported := k.unsupported || !cropOk c f || !frameInRow f.1 (bits (cgControl c) 2 0) }

/-- A picture of a group has an error: the whole group is dropped (R399). -/
def Clip.dropGroup (k : Clip) : Clip :=
  { k with
    gopBad := true, dropped := k.dropped + 1
    frames := k.frames.mapIdx (fun i f => if k.gopStart ≤ i then none else f) }

/-- One access unit's result (R385, R386, R399): nothing before the first random access point; a new group at each; a group with an error,
the decoder's or of the packets, is dropped. A clip goes on to the end of its source (log 50), unless it is unsupported. The count of groups
dropped rises once for each. -/
def Clip.decode (k : Clip) (c : List Byte) (r : AuResult) : Clip × Nat :=
  let header := k.header || r.header
  let rap := accessPoint r (bits (cgControl c) 2 0) header
  let stop := k.unitEnd (bit (cgControl c) 3) r; let last := decide (k.size ≤ stop)
  let torn := (marksIn k.source).any (fun p => decide (k.place ≤ p) && (last || decide (p < stop)))
  let k : Clip := { k with au := k.au + 1, place := stop, header := header, unsupported := k.unsupported || r.outside || r.foreign }
  if !k.started && !rap then ({ k with finished := last || k.unsupported }, 0)
  else
    let k : Clip := if rap then { k with started := true, gopStart := k.frames.length, gopBad := false } else k
    let drop := (r.err || torn) && !k.gopBad
    let k := if drop then k.dropGroup else k
    let k := (r.frames.flatMap (outFrames (bits (cgControl c) 5 4))).foldl (fun (k : Clip) f => k.takeFrame c f) k
    ({ k with finished := last || k.unsupported }, b2n drop)

/-- The stream whose turn it is: the next that takes one after the last served (R381). -/
def State.turnOf (s : State) (e : Nat) : Option (Nat × IStream) :=
  let l := (s.engine e).streams.filter (fun x => s.takesTurn x.2)
  match l.find? (fun x => decide ((s.engine e).rr < x.1)) with
  | some x => some x
  | none => l.head?

/-- DECODE_ACCESS_UNIT (R381, R382, R386, R399). -/
def execDecodeAccessUnit (e : Nat) (s : State) : Out State :=
  if s.power.stopped || !s.engineUp e then .next s
  else
    match s.turnOf e with
    | none => .next s
    | some (h, x) =>
      let s := s.modEngine e (fun g => { g with rr := h })
      let (s, k) := match x.clip with
        | some k => (s, some k)
        | none => s.startClip h x ((x.position x.next).getD 0)
      match k with
      | none => .next s.advance
      | some k =>
        if k.finished then .next (s.modStream h (fun x => { x with clip := some k }))
        else
          let r := Config.decodeAu (bits (cgControl x.cfg) 2 0) k.source k.au
          let (k, n) := k.decode x.cfg r
          .next ((s.modStream h (fun x => { x with clip := some k })).modEngine e (fun g => { g with
            samples := wrapAdd 48 g.samples r.samples, gops := satAdd 32 g.gops n })).advance

/-! ## The output ring (R394 to R396) -/

/-- A clip's frames filled to F: a dropped frame shows the last good one before it; how many were replaced (R396). -/
def Clip.filled (k : Clip) (f : Nat) : List (Option (Frame × Nat)) × Nat :=
  if k.unsupported then (List.replicate f none, 0)
  else
    let l := k.frames ++ List.replicate (f - k.frames.length) none
    let r := l.foldl (fun (a : List (Option (Frame × Nat)) × Option (Frame × Nat) × Nat) x => match x with
      | some v => (some v :: a.1, some v, a.2.2)
      | none => (a.2.1 :: a.1, a.2.1, a.2.2 + 1)) ([], none, 0)
    (r.1.reverse, r.2.2)

/-- The status of a clip's record. -/
def Clip.status (k : Clip) : Nat := if k.unsupported then 0x902 else if k.dropped ≠ 0 then 0x901 else 0

/-- The clip record (R394). -/
def Clip.record (k : Clip) (repeated : Nat) : List Byte :=
  toBytes 8 k.n ++ toBytes 4 (field k.ref 0x10 4) ++ toBytes 4 k.pos ++ toBytes 2 k.status ++ toBytes 2 k.dropped
    ++ toBytes 4 repeated ++ List.replicate 40 0

/-- CLIP_WRITE (R394 to R396): the finished clip goes into its slot, and P rises by 1. -/
def execClipWrite (e h : Nat) (s : State) : Out State :=
  match s.stream h with
  | none => .next s
  | some x =>
    match x.clip with
    | none => .next s
    | some k =>
      if s.power.stopped || !s.engineUp e || decide (engineOf h ≠ e) || x.stopped || x.paused || !k.finished || !s.slotReady x
          || s.ctxSuspended x.ctx then .next s
      else
        let c := x.cfg
        let (fs, n) := k.filled (cgF c)
        let slot := field c 0x18 8 + k.n % cgB c * field c 0x20 8
        let w := x.who h
        match s.write w slot (k.record n) with
        | (s, some a) => .next (s.ingestFails h x.ctx a true)
        | (s, none) =>
          match s.write w (slot + 4096) (packBits (typeBits (cgType c)) (clipTensor c fs)) with
          | (s, some a) => .next (s.ingestFails h x.ctx a true)
          | (s, none) =>
            let s := s.modStream h (fun x => { x with next := x.next + 1, clip := none })
            let s := if k.unsupported then s.modEngine e (fun g => { g with unsupported := satAdd 32 g.unsupported 1 }) else s
            let s := if k.status = 0x901 then s.ingestEvent x h 0x901 k.n else s
            let s := (s.sendAdd (.ingest e) x.produced 1 none).1
            .next (s.pump h (x.feeds.length + 1))

/-! ## Cursors and replay (R397, R413) -/

/-- The open streams of a context. -/
def State.streamsOf (s : State) (x : Nat) : List (Nat × IStream) :=
  (s.ing0.streams ++ s.ing1.streams).filter (fun e => decide (e.2.ctx = x))

/-- Writes STEP_CURSOR and STEP of every open stream of a context (R397); a miss suspends the context, and says that they wait for
RESUME; another failure stops its stream (R400). -/
def State.writeCursors (s : State) (x step : Nat) : State × Bool :=
  (s.streamsOf x).foldl (fun (r : State × Bool) e =>
    if !r.2 then r
    else
      match r.1.write (agentOf x) (localOf (e.2.cfgAddr + 0x80)) (toBytes 8 (r.1.cursor e.2) ++ toBytes 4 step) with
      | (s, none) => (s, true)
      | (s, some (.miss va)) => (s.suspend x va true, false)
      | (s, some a) => (s.ingestFails e.1 x a true, true)) (s, true)

/-- The STEP_CURSOR that a stream's block holds. -/
def State.stepCursor (s : State) (x : IStream) : Nat := field (s.peek x.ctx (x.cfgAddr + 0x80) 8) 0 8

/-- Whether every position from the cursor's window on is still in the list area (R413). -/
def State.rewinds (s : State) (x : IStream) : Bool :=
  let p := s.stepCursor x / cgW x.cfg * cgW x.cfg
  decide (x.origin ≤ p) && decide (x.origin + x.fed ≤ p + cgCap x.cfg)

/-- Rewinds a stream to its STEP_CURSOR (R413). -/
def State.rewind (s : State) (h : Nat) (x : IStream) : State :=
  let c := s.stepCursor x
  let s := ((s.orphanReads h).setCount x.produced c).setCount x.consumed (satAdd 64 c (cgB x.cfg))
  s.modStream h (fun x => { x with clip := none, fetch := none, paused := false, next := c })

end Sys2Proof.Machine
end

