-- ==== Sys2Proof/Machine/Repair.lean ====
section
/-! DEFINITION. Spares, cluster resets and Roll Call (R415 to R417, R424 to R426, R438, R446). -/

namespace Sys2Proof.Machine

/-- The spare slot takes a core's place, with its own flags (R67); without one the cluster is retired (Table 14.4). -/
def State.replaceCore (s : State) (site : Nat) : State :=
  let n := site / 19; let k := site % 19
  let rec_ := { s.colRec site with failed := true }
  let s : State := { s with repair := { s.repair with cols := mset {} s.repair.cols site rec_ } }
  if !(s.slotsOf n).contains k then s
  else
    let u := s.unusedSlot n
    if (s.colRec (19 * n + u)).failed then s.retire n
    else
      let s : State := { s with repair := { s.repair with
        slots := mset (range 18) s.repair.slots n ((s.slotsOf n).map (fun j => if j = k then u else j)) } }
      s.modCore (18 * n + ((findIdx (fun j => decide (j = u)) (s.slotsOf n)).map Prod.fst).getD 0) (fun c => { c with flags := 0 })

/-- A decision comes into effect (Table 14.4, R438). -/
def State.decide_ (s : State) (d : Decision) : State :=
  match d with
  | .column site col =>
    let r := s.colRec site
    if r.cols.contains col then s
    else
      let all := (r.cols ++ [col]).mergeSort (fun a b => decide (a ≤ b))
      let s : State := { s with repair := { s.repair with
        cols := mset {} s.repair.cols site { r with cols := if r.cols.length < 3 then all else r.cols, count := r.count + 1 } } }
      if 4 ≤ r.count + 1 then s.replaceCore site else s
  | .row memory n slot row =>
    let e := rowEntry memory n slot row
    if s.repair.rows.contains e then s
    else if (s.repair.rows.filter (fun x => decide (x % 2 ^ 14 = e % 2 ^ 14))).length < spareRows memory ∧ s.repair.rows.length < 8192 then
      { s with repair := { s.repair with rows := s.repair.rows ++ [e] } }
    else if memory ≤ 2 then
      let site := 19 * n + slot
      let s : State := { s with repair := { s.repair with
        cols := mset {} s.repair.cols site { s.colRec site with rowFault := true } } }
      s.replaceCore site
    else if memory = 3 then s.retire n
    else s
  | .core site => s.replaceCore site
  | .arrayRow site =>
    { s with repair := { s.repair with
        cols := mset {} s.repair.cols site { s.colRec site with rowFault := true } } }.replaceCore site
  | .hbmRow e => if s.repair.hbm.length < 512 then { s with repair := { s.repair with hbm := s.repair.hbm ++ [e] } } else s

/-- Brings waiting decisions into effect (R416, R417). -/
def State.settleDecisions (s : State) (sel : Decision → Bool) : State :=
  let l := s.repair.waiting.filter sel
  if l = [] then s
  else
    let s : State := { s with
      repair := { s.repair with waiting := s.repair.waiting.filter (fun d => !sel d) }
      ctxs := s.ctxs.map (fun (e : Nat × Ctx) => (e.1, { e.2 with older := e.2.older.filter (fun d => !sel d) })) }
    (l.foldl State.decide_ s).newGeneration

/-! ## Waymarks and stores of a cluster under Roll Call (R307, R425) -/

/-- Trailhead takes over, or gives back, the Waymarks of a cluster's bank (R307). -/
def State.moveMarks (s : State) (n : Nat) (away : Bool) : State :=
  s.modWmk (fun m => { m with binds := m.binds.map (fun (e : Nat × Binding) =>
    if e.2.eff = 1 ∧ e.2.home = n then (e.1, { e.2 with away := away }) else e) })

/-- Whether an offset lies in a cluster's stores: its own or one of its cores'. -/
def inStores (n o : Nat) : Bool := decide ((storeOf o).map Prod.fst = some n)

/-- The stores of a cluster are saved into a slot of the Roll Call region, whose place in the table area is private to the device (R465),
and are zero from then on (R425 steps 2 and 4). -/
def State.saveStores (s : State) (n : Nat) : State :=
  let cells := s.mem.filter (fun e => inStores n e.1); let bad := s.bad.filter (inStores n)
  ({ s with rcl := { s.rcl with saved := mput s.rcl.saved n (cells, bad) } } : State).loseStores n

/-- The stores of a cluster are restored, by logical number (R425 step 6); a word that was uncorrectable stays so (log 86). -/
def State.restoreStores (s : State) (n : Nat) : State :=
  match mfind s.rcl.saved n with
  | none => s
  | some (cells, bad) =>
    { s with
      mem := cells.foldl (fun m e => mwriteBy s.hbm.unlisted m e.1 [e.2]) s.mem
      bad := s.bad ++ bad
      rcl := { s.rcl with saved := mdel s.rcl.saved n } }

/-! ## Cluster reset (R29, R416, R446) -/

/-- Whether a cluster stands at an end of a crossing. -/
def crossingAt (x : BitVec 24) (n : Nat) : Bool := decide ((crossingEnds x).1 = n ∨ (crossingEnds x).2 = n)

/-- A cluster reset: its stores are lost, tasks there fail, its crossings serve again, its decisions take effect (R28, R29, R446). -/
def State.clusterReset (s : State) (n : Nat) : State :=
  let s := s.failAll (s.holders n false) 0x702
  let s := (range 18).foldl (fun (s : State) j => s.flushStores (18 * n + j)) s
  let s := (s.loseStash n).loseStores n
  let s : State := { s with
    cores := s.cores.filter (fun e => decide (clusterOf e.1 ≠ n))
    clusters := mdel s.clusters n
    sys := { s.sys with quarantine := s.sys.quarantine.filter (fun x => !crossingAt x n) }
    rcl := { s.rcl with saved := mdel s.rcl.saved n } }
  (s.moveMarks n false).settleDecisions (fun d => d.inCluster n)

/-! ## Roll Call (R424 to R426) -/

/-- Puts a cluster's cores into wide-shallow mode, or takes them out of it, with what the tests leave: every SRAM of a core zero-filled,
accumulator in-use bits and stationary buffers cleared (R96, R425 step 4). -/
def State.wideShallow (s : State) (n : Nat) (on : Bool) : State :=
  (range 18).foldl (fun (s : State) j => s.modCore (18 * n + j) (fun k =>
    if on then { k with wide := true } else { k with wide := false, live := {}, prog := [], badAcc := [] })) s

/-- Replies to the run's command once no cluster is left (R424). -/
def State.endRollCall (s : State) (r : RollRun) : State :=
  if r.left = [] then
    { s with rcl := { s.rcl with run := none } }.finish r.cmd 0x1A 0 (toBytes 8 r.tested ++ toBytes 8 r.failed)
  else { s with rcl := { s.rcl with run := some r } }

/-- ROLLCALL_RUN (R424). -/
def execRollcallRun (h : Cmd) (clusters maxpar : Nat) (s : State) : Out State :=
  s.command h 0x1A (fun p => decide (field p 8 8 = clusters ∧ field p 0x10 4 = maxpar)) (fun s =>
    if maxpar = 0 ∨ 4 < maxpar ∨ 2 ^ 36 ≤ clusters then s.finish h 0x1A 0x102 []
    else if s.rcl.run.isSome then s.finish h 0x1A 0x708 []
    else
      let l := (range 36).filter (fun n => !s.retired n && (decide (clusters = 0) || bit clusters n))
      s.endRollCall ⟨h, l, 0, 0, maxpar⟩)

/-- The decisions that a test's findings ask for: a failing core slot, a failing row. -/
def findings (n blocks : Nat) (rows : List (Nat × Nat × Nat)) : List Decision :=
  ((range 19).filter (bit blocks)).map (fun k => Decision.core (19 * n + k))
    ++ rows.map (fun r => Decision.row r.1 n r.2.1 r.2.2)

/-- A cluster goes under test once none of its tasks runs (R425 steps 1 to 4): its Waymarks move, its stores are saved, its crossings
close. -/
def State.beginTest (s : State) (n : Nat) : State :=
  (((s.moveMarks n true).saveStores n).modCluster n (fun q => { q with mode := .rollcall })).wideShallow n true

/-- A cluster that has been tested returns to service: repairs take effect, its stores and its Waymarks return (R425 steps 5 and 6); one
with a mismatch in a shared block is retired. -/
def State.endTest (s : State) (n blocks : Nat) (rows : List (Nat × Nat × Nat)) : State :=
  let s := ((s.modCluster n (fun q => { q with mode := .service })).wideShallow n false).moveMarks n false
  let s := (findings n blocks rows).foldl State.addDecision s
  let s := s.settleDecisions (fun d => d.inCluster n)
  let s := if 2 ^ 19 ≤ blocks ∧ s.retired n = false then (s.retire n).newGeneration else s
  s.restoreStores n

/-- ROLLCALL_CLUSTER (R425, R426): the tasks of the next cluster are interrupted; once none runs the cluster is tested; then the tests'
results are taken and the cluster returns. A cluster retired before its turn is skipped (R424). -/
def execRollcallCluster (n : Nat) (misr : List Nat) (rows : List (Nat × Nat × Nat)) (s : State) : Out State :=
  match s.rcl.run with
  | none => .next s
  | some r =>
    if s.power.stopped || !r.left.contains n then .next s
    else if s.retired n then .next (s.endRollCall { r with left := r.left.filter (fun m => !s.retired m) })
    else if (s.cluster n).mode = .service then
      let under := r.left.filter (fun m => decide ((s.cluster m).mode = .rollcall))
      let first := (r.left.filter (fun m => !s.retired m && decide ((s.cluster m).mode = .service))).headD n
      if first ≠ n ∨ r.maxpar ≤ under.length then .next s
      else
        let busy := s.holders n true
        if busy ≠ [] then .next (busy.foldl (fun (s : State) e => s.askInterrupt e.1 e.2) s) else .next (s.beginTest n)
    else
      let blocks := total ((range 24).map (fun b => if nth 0 misr b = nth 0 s.boot.image.sigs b then 0 else 2 ^ b))
      let fails := decide (blocks ≠ 0 ∨ rows ≠ [])
      let s : State := { s with rcl := { s.rcl with
        results := mset 0 s.rcl.results n (BitVec.ofNat 64
          (1 + 2 * b2n (!fails) + 4 * blocks + 2 ^ 32 * min rows.length 0xFFFF))
        misr := (range 24).foldl (fun m b => mset 0 m (24 * n + b) (nth 0 misr b)) s.rcl.misr } }
      let s := (((range 24).filter (bit blocks)) ++ rows.map (fun _ => 24)).foldl (fun (s : State) b =>
        s.log (eventCode 9) 9 none false n (Config.eventDetail 9 (s.tick + b))) s
      let s := s.endTest n blocks rows
      .next (s.endRollCall { r with
        left := r.left.filter (fun m => decide (m ≠ n) && !s.retired m)
        tested := r.tested + 2 ^ n, failed := if fails then r.failed + 2 ^ n else r.failed })

end Sys2Proof.Machine
end

