-- ==== Sys2Proof/Machine/Submit.lean ====
section
/-! DEFINITION. GRAPH_SUBMIT and GRAPH_ABORT (R283 to R285, R298, R304). -/

namespace Sys2Proof.Machine

/-- The code of a structure read that fails in GRAPH_SUBMIT (R285). -/
def submitCode (a : Acc) : Nat := match a with | .fail 0x405 => 0x405 | .bad _ => 0x701 | _ => 0x402

/-- Reads for GRAPH_SUBMIT: the bytes, or the access that failed with its code. -/
def State.submitRead (s : State) (x a n : Nat) : Except (Nat × Option Acc) (List Byte) :=
  match s.readG (agentOf x) a n with
  | .data bs => .ok bs
  | .stop e => .error (submitCode e, some e)

/-- The marks that a refused submission leaves: those of the access that failed (R28, R405). -/
def State.submitMarks (s : State) (x : Nat) (a : Option Acc) : State :=
  match a with
  | some a => s.noteAcc (agentOf x) a
  | none => s

/-- Whether a graph descriptor keeps Table 10.1 and its ranges lie in one region each (R283, R285). -/
def graphDescOk (d : List Byte) : Bool :=
  let tasks := field d 0 8; let n := field d 8 4; let nr := field d 0x0C 4; let roots := field d 0x10 8
  let work := field d 0x18 8; let binds := field d 0x30 8; let nb := field d 0x38 4
  decide (tasks % 128 = 0) && decide (1 ≤ n ∧ n ≤ 2 ^ 24) && decide (1 ≤ nr ∧ nr ≤ n) && decide (roots % 4 = 0) && decide (work % 64 = 0)
    && decide (binds % 16 = 0) && decide (nb ≤ 65536) && (decide (nb ≠ 0) || decide (binds = 0)) && zeroed d 0x48 56
    && oneRegion (localOf tasks) (128 * n) && oneRegion (localOf roots) (4 * nr) && oneRegion (localOf work) (8 * n)
    && (decide (nb = 0) || oneRegion (localOf binds) (16 * nb))

/-- What GRAPH_SUBMIT reads and checks: the descriptor, the root list and the bindings as they become; or the code (R285). -/
def State.submitChecks (s : State) (x addr : Nat) : Except (Nat × Option Acc) (List Byte × List Nat × Map Binding) := do
  if addr % 128 ≠ 0 then .error (0x102, none)
  else
    let d ← s.submitRead x addr 128
    if !graphDescOk d then .error (0x102, none)
    else
      let rs ← s.submitRead x (field d 0x10 8) (4 * field d 0x0C 4)
      let roots := (range (field d 0x0C 4)).map (fun k => field rs (4 * k) 4)
      if roots.any (fun r => decide (field d 8 4 ≤ r)) then .error (0x102, none)
      else
        let bs ← (if field d 0x38 4 = 0 then pure [] else s.submitRead x (field d 0x30 8) (16 * field d 0x38 4))
        match s.bindAll x s.wmk.binds (chunks 16 bs) with
        | none => .error (0x102, none)
        | some b =>
          if 8 ≤ (s.trh.graphs.filter (fun e => decide (e.2.ctx = x))).length ∨ 256 ≤ s.trh.graphs.length then .error (0xA01, none)
          else .ok (d, roots, b)

/-- The lowest free graph slot. -/
def State.freeSlot (s : State) : Nat := ((range 256).find? (fun g => (s.graph g).isNone)).getD 0

/-- Accepts a checked graph: its slot and handle are taken and its bindings made; it is recorded for replay (R285, R304, R408). -/
def State.acceptGraph (s : State) (x fn cq tag addr dist : Nat) (d : List Byte) (b : Map Binding) (again : Bool) : State × Nat :=
  let g := s.freeSlot
  let gen := mget 0 s.trh.gens g
  let y : Graph := { gen := gen, ctx := x, tag := tag, fn := fn, cq := cq, addr := addr, desc := d, order := s.trh.order
                     step := (s.ctx x).bind Ctx.step, distance := dist }
  let s : State := { s with
    wmk := { s.wmk with binds := b }
    trh := { s.trh with
      graphs := mput s.trh.graphs g y, gens := mset 0 s.trh.gens g ((gen + 1) % 2 ^ 24), order := s.trh.order + 1 } }
  let h := y.handle g
  let rec_ (c : Ctx) : Ctx :=
    let c : Ctx := { c with used := true }
    if again then { c with recorded := c.recorded.map (fun (r : Recorded) =>
        if r.addr = addr ∧ r.tag = tag ∧ r.handle = 2 ^ 32 then { r with handle := h, ended := false, ok := false } else r) }
    else if c.step = none then c
    else if 64 ≤ c.recorded.length then { c with overflowed := true }
    else { c with recorded := c.recorded ++ [⟨addr, tag, fn, cq, h, false, false⟩] }
  (s.modCtx x rec_, h)

/-- Starts an accepted graph: its tasks' versions are counted and its roots become ready (R250, R288). -/
def State.startGraph (s : State) (g : Nat) (roots : List Nat) : State :=
  ((roots.foldl (fun (s : State) i => s.makeReady g i) (s.countGraph g)).settle g).unspill

/-- The triad distance that a graph of a context runs at (R234): 1 once a replay of its step had STASH_FULL as its cause. -/
def State.distanceOf (s : State) (x : Nat) : Nat := if ((s.ctx x).map Ctx.stashReplay).getD false then 1 else 3

/-- GRAPH_SUBMIT (R283 to R285). -/
def execGraphSubmit (h : Cmd) (addr : Nat) (s : State) : Out State :=
  s.command h 0x08 (fun p => decide (field p 8 8 = addr)) (fun s =>
    match s.submitChecks h.ctx addr with
    | .error (c, a) => (s.submitMarks h.ctx a).finish h 0x08 c []
    | .ok (d, roots, b) =>
      let (s, n) := s.acceptGraph h.ctx h.fn ((s.fnOf h.fn).crOf h.ring).cq h.tag addr (s.distanceOf h.ctx) d b false
      (s.finish h 0x08 0 (toBytes 4 n)).startGraph (n % 256) roots)

/-- GRAPH_ABORT (R298): a handle of a graph that has ended does nothing. -/
def execGraphAbort (h : Cmd) (handle : Nat) (s : State) : Out State :=
  s.command h 0x09 (fun p => decide (field p 8 4 = handle)) (fun s =>
    let g := handle % 256
    let s := match s.graph g with
      | some x => if x.ctx = h.ctx ∧ x.handle g = handle then s.abortGraph g else s
      | none => s
    s.finish h 0x09 0 [])

end Sys2Proof.Machine
end

