-- ==== Sys2Proof/Machine/Thermos.lean ====
section
/-! DEFINITION. Steps, boundaries, checkpoints, restoring and replay (R260, R341, R377, R403 to R414, R418 to R423). -/

namespace Sys2Proof.Machine

/-! ## The boundary record (R407) -/

/-- Bytes of a half of the boundary area. -/
def halfBytes : Nat := 0x1400000

/-- The entries of a generation as bytes: 256 entries of 64 bytes. -/
def entriesBytes (m : Map (List Nat)) : List Byte :=
  (range 256).flatMap (fun g => let e := mget [] m g; (range 16).flatMap (fun k => toBytes 4 (nth 0 e k)))

/-- The bindings of a context. -/
def State.bindsOf (s : State) (x : Nat) : Map Binding := s.wmk.binds.filter (fun e => decide (keyCtx e.1 = x))

/-- A binding entry in the layout of Table 10.6, with the count as INIT (R407, R423). -/
def bindBytes (e : Nat × Binding) : List Byte :=
  let b := e.2
  toBytes 4 (keyId e.1 + 2 ^ 20 * b.kind + 2 ^ 24 * b2n b.exported) ++ toBytes 4 b.target
    ++ toBytes 8 (if b.kind = 3 then b.remoteId else b.count)

/-- The boundary record of step `step` in the model's layout (log 48). -/
def State.boundaryBytes (s : State) (x step : Nat) (clean : Bool) (gen : Map (List Nat)) : List Byte :=
  let st := s.streamsOf x; let bs := s.bindsOf x
  toBytes 4 step ++ toBytes 4 (b2n clean) ++ toBytes 4 st.length ++ toBytes 4 bs.length ++ toBytes 8 1 ++ List.replicate 40 0
    ++ entriesBytes gen
    ++ st.flatMap (fun e => toBytes 8 e.2.cfgAddr ++ s.peek x e.2.cfgAddr 256 ++ List.replicate 56 0)
    ++ bs.flatMap bindBytes

/-! ## STEP_BEGIN (R260, R341, R397, R407, R419) -/

/-- Whether a record's update of step `v` is owed or under way: a graph of that step or a later one has named it, its rule is computed, or
contributions of its round have been signalled, sent or taken (log 31). -/
def State.underWay (s : State) (x v : Nat) (r : Rec) : Bool :=
  let nc := max 1 (chunkCount (s.weightOf x r.bytes) (prSparse r.bytes))
  (r.named.map (fun n => decide (n = v) || newer n v)).getD false || decide (r.phase ≠ .taking) || decide (r.rounds * nc * prR r.bytes < r.taken) || decide (r.rounds * nc < r.sent)
    || s.dieMet x r 0 || s.dieMet x r 2

/-- Whether a record's update is unfinished and needs the generation of a step: the one that its round consumes, or that its newer valid
tag names (R260, R261). -/
def State.needsGen (s : State) (x v : Nat) : Bool :=
  s.evl.recs.any (fun (e : Nat × Rec) =>
    let r := e.2
    let w := s.peek x (prVersion r.bytes) 64
    let uses := if r.phase = .taking then (vrNewest w).map (vrTag w) else some r.step
    decide (r.ctx = x) && r.owner && !r.failed && decide (uses = some v) && s.underWay x v r)

/-- Starts a checkpoint (R419): Thermos refers to the slots that hold the step. -/
def State.startCkpt (s : State) (x step targets : Nat) (cmd : Option Cmd) : State :=
  match s.ctx x with
  | none => s
  | some c =>
    if c.ckpt.isSome then s.setCtx x { c with ckptQueue := c.ckptQueue ++ [(cmd, step, targets)] }
    else
      let s := s.setCtx x { c with ckpt := some ⟨step, targets, 0, cmd, false, []⟩ }
      (s.evl.recs.filter (fun e => decide (e.2.ctx = x))).foldl (fun (s : State) e => s.thermosRef x (prVersion e.2.bytes)) s

/-- Latches a step with the group entries of its STEP_BEGIN (R260, R341). -/
def Ctx.latch (c : Ctx) (step : Nat) (groups : Map (List Nat)) (clean : Bool) (bound : List (Nat × Nat)) : Ctx :=
  { c with
    step := some step, gens := ⟨step, groups⟩ :: c.gens.take 1, recorded := [], overflowed := false, clean := clean
    committed := false, replays := 0, stashReplay := false, replaying := false, cause := none, causes := 0, told := false
    bound := bound }

/-- Writes the boundary record of a step into its half (R407). A miss suspends the context; where the area cannot be written otherwise the
step is not boundary-clean (log 48). -/
def State.writeBoundary (s : State) (x step : Nat) (clean : Bool) (groups : Map (List Nat)) : State × Bool :=
  let b := (s.creg x).boundary
  if b = 0 then (s, true)
  else
    match s.write (agentOf x) (b + step % 2 * halfBytes) (s.boundaryBytes x step clean groups) with
    | (t, none) => (t, true)
    | (_, some (.miss va)) => (s.suspend x va true, false)
    | (_, some a) => ((s.noteAcc (agentOf x) a).modCtx x (fun c => { c with clean := false }), true)

/-- The entries that a STEP_BEGIN's generation holds: those that stood when its ring began it (R260). -/
def Ctx.entriesOf (c : Ctx) (h : Cmd) : Map (List Nat) := ((c.latching.find? (fun l => decide (l.1 = h))).map Prod.snd).getD c.groups

/-- A STEP_BEGIN's entries are held no more. -/
def Ctx.unlatch (c : Ctx) (h : Cmd) : Ctx := { c with latching := c.latching.filter (fun l => decide (l.1 ≠ h)) }

/-- A STEP_BEGIN that nothing holds back: cursors and boundary are written, the step is latched, and an automatic checkpoint starts; a miss
leaves it waiting for RESUME (R260, R341, R397, R407, R419). -/
def State.latchStep (s : State) (h : Cmd) (c : Ctx) (step : Nat) (groups : Map (List Nat)) : State :=
  let x := h.ctx
  let clean := !s.trh.graphs.any (fun e => decide (e.2.ctx = x))
  let c : Ctx := { c with older := s.repair.waiting }
  let begun := s.setCtx x (c.latch step groups clean ((s.bindsOf x).map (fun e => (keyId e.1, e.2.count))))
  match begun.writeCursors x step with
  | (t, false) => s.suspend x (((t.ctx x).map Ctx.faultVa).getD 0) true
  | (t, true) =>
    match t.writeBoundary x step clean groups with
    | (u, false) => s.suspend x (((u.ctx x).map Ctx.faultVa).getD 0) true
    | (u, true) =>
      let p := (u.creg x).policy
      let interval := bits p 15 0; let targets := bits p 18 16
      let u := if interval ≠ 0 ∧ step % interval = 0 ∧ targets ≠ 0 then u.startCkpt x step targets none else u
      (u.modCtx x (fun c => c.unlatch h)).finish h 0x0A 0 []

/-- Whether a STEP_BEGIN waits: it would discard a generation that an unfinished update needs (R260), or overwrite a half that a checkpoint
still reads (R407); or its context is suspended. -/
def State.stepWaits (s : State) (x : Nat) (c : Ctx) (step : Nat) : Bool :=
  c.suspended || ((c.gens.drop 1).map Gen.step).any (fun v => s.needsGen x v)
    || (decide ((s.creg x).boundary ≠ 0) && (c.ckpt.map (fun k => decide (k.step % 2 = step % 2))).getD false)

/-- STEP_BEGIN (R260, R341): its generation holds the group entries as they stood when it began; it waits where it must. -/
def execStepBegin (h : Cmd) (step : Nat) (s : State) : Out State :=
  s.serve h 0x0A (fun p => decide (field p 8 4 = step)) (fun s =>
    match s.ctx h.ctx with
    | none => s
    | some c =>
      if (c.step.map (fun v => !newer step v)).getD false then (s.setCtx h.ctx (c.unlatch h)).finish h 0x0A 0x102 []
      else if s.stepWaits h.ctx c step then s
      else s.latchStep h c step (c.entriesOf h))

/-! ## STEP_COMMIT (R377, R414) -/

/-- Whether every round that this device owes has been sent and acknowledged: also one whose gradient's signals are still on their way to
GRAD_WMK (R267, R414). -/
def State.roundsSent (s : State) (x : Nat) : Bool :=
  s.evl.recs.all (fun (e : Nat × Rec) =>
    let r := e.2
    let nc := max 1 (chunkCount (s.weightOf x r.bytes) (prSparse r.bytes))
    decide (r.ctx ≠ x) || r.failed || (decide (r.sent % nc = 0) && !s.dieMet x r 0
      && !s.nxp.ops.any (fun o => decide (o.owner = OpOwner.record (recKey x (prVersion r.bytes))))
      && !s.wmk.adds.any (fun a => decide (a.inc ≠ 0 ∧ s.waitKey x (prMark r.bytes 0) = (match s.home a.key with
        | .here k _ => k
        | _ => a.key)))))

/-- The local conditions of a commit (R414). -/
def State.mayCommit (s : State) (x : Nat) (c : Ctx) : Bool :=
  c.recorded.all (fun r => r.ended && r.ok) && s.roundsSent x && decide (c.cause = none) && !c.replaying

/-- Once the local conditions hold, a commit without a barrier replies, and one with a barrier reports READY (R377, R414). -/
def State.tryCommit (s : State) (x : Nat) : State :=
  match s.ctx x with
  | none => s
  | some c =>
    match c.commit with
    | none => s
    | some w =>
      if w.sent || !s.mayCommit x c then s
      else if (s.creg x).members = 0 then s.endCommit x 0
      else
        (s.setCtx x { c with commit := some { w with sent := true } }).sendManager s.manager 5
          { s.msg with job := (s.creg x).job, step := w.step, members := (s.creg x).members }

/-- STEP_COMMIT (R341, R377): it names the latched step; a second one waits until the first has replied. -/
def execStepCommit (h : Cmd) (step : Nat) (s : State) : Out State :=
  s.serve h 0x0B (fun p => decide (field p 8 4 = step)) (fun s =>
    match s.ctx h.ctx with
    | none => s
    | some c =>
      if c.step ≠ some step then s.finish h 0x0B 0x102 []
      else if c.commit.isSome then s
      else ((s.acts h 0x0B (fun p => decide (field p 8 4 = step))).setCtx h.ctx { c with commit := some ⟨h, step, false⟩ }).tryCommit h.ctx)

/-- STEP_COMMIT_READY (R414). -/
def execStepCommitReady (x : Nat) (s : State) : Out State := if s.power.stopped then .next s else .next (s.tryCommit x)

/-! ## Checkpoints (R418 to R421) -/

/-- CHECKPOINT (R419). -/
def execCheckpoint (h : Cmd) (step targets : Nat) (s : State) : Out State :=
  s.command h 0x18 (fun p => decide (field p 8 4 = step ∧ field p 0xC 4 = targets)) (fun s =>
    if 8 ≤ targets ∨ ((s.ctx h.ctx).bind Ctx.step) ≠ some step then s.finish h 0x18 0x102 []
    else if targets = 0 then s.finish h 0x18 0 []
    else s.startCkpt h.ctx step targets (some h))

/-- The records that a context owns on this device. -/
def State.ownRecs (s : State) (x : Nat) : List Rec := (s.evl.recs.filter (fun e => decide (e.2.ctx = x) && e.2.owner)).map Prod.snd

/-- The update's view of the slot that a record holds for a step. -/
def State.savedUpd (s : State) (x step : Nat) (r : Rec) : Upd :=
  let v := s.peek x (prVersion r.bytes) 64
  let e := match (s.ctx x).bind (fun c => c.gens.find? (fun g => decide (g.step = step))) with
    | some g => mget [] g.entries (prGroup r.bytes)
    | none => mget [] (((s.ctx x).map Ctx.groups).getD []) (prGroup r.bytes)
  let j := (vrHolds v step).getD 0
  ⟨x, r, s.weightOf x r.bytes, v, e, step, j, 1 - j, 0⟩

/-- The ranges of slot `j` of a record, as global addresses: its data footprint and its scales. -/
def Upd.slotWhole (u : Upd) (j : Nat) : List (Nat × Nat) :=
  let a := u.slot j
  let f := dsFoot a
  (deviceOf (dsBase a) * 2 ^ 48 + f.1.toNat, (f.2 - f.1 + 1).toNat)
    :: (if dsBlk u.d = 0 then [] else [(dsScale a, dsRows u.d * dsRowScales u.d)])

/-- Pads bytes to a 4 KiB boundary. -/
def padPage (bs : List Byte) : List Byte := bs ++ List.replicate (roundUp bs.length 4096 - bs.length) 0

/-- Reads ranges in order; the first access that fails otherwise (R405). -/
def State.readAll (s : State) (x : Nat) (l : List (Nat × Nat)) : Except Acc (List Byte) :=
  l.foldlM (fun bs p => match s.readG (agentOf x) p.1 p.2 with
    | .data b => .ok (bs ++ b)
    | .stop a => .error a) []

/-- The boundary record that a checkpoint of a step saves: that of the boundary area, or the context's bindings and streams as they stand
where it has none (R418, log 48). -/
def State.savedBoundary (s : State) (x step : Nat) : Except Acc (List Byte) := do
  let b := (s.creg x).boundary
  let at_ := 0x7FFF * 2 ^ 48 + b + step % 2 * halfBytes
  if b = 0 then pure (s.boundaryBytes x step true [])
  else
    let h ← s.readAll x [(at_, 64)]
    s.readAll x [(at_, 64 + 16384 + 320 * field h 8 4 + 16 * field h 12 4)]

/-- Whether a record's bank is still the one of a step: for a sparse record no later journal has been applied to it (R418, R419). -/
def Upd.bankKept (u : Upd) : Bool :=
  !prSparse u.b || u.r.unapplied || decide ((vrNewest u.v).map (vrTag u.v) = some u.tag)

/-- What a checkpoint saves of a record (R418): its address, version record, parameter record, weight descriptor and sizes; its slot; its
bank. -/
def State.savedRecord (s : State) (x step : Nat) (r : Rec) : Except Acc (List Byte × List Byte × List Byte) := do
  let u := s.savedUpd x step r
  let slot ← s.readAll x (u.slotWhole u.cur)
  let bank ← s.readAll x [(u.bank u.cur, bankSize u.arrays)]
  if !u.bankKept then throw (.fail 0x706)
  pure (toBytes 8 (prVersion r.bytes) ++ u.v ++ r.bytes ++ slice u.d 0 128 ++ toBytes 8 slot.length ++ toBytes 8 bank.length, slot, bank)

/-- The sections of a checkpoint (R418) in the model's order (log 48): a head, the boundary record, the pending entries, and of the
records what names them, their slots and their banks; or the access that failed. -/
def State.sections (s : State) (x step : Nat) : Except Acc (List (List Byte)) := do
  let bound ← s.savedBoundary x step
  let recs ← (s.ownRecs x).mapM (s.savedRecord x step)
  let seed := ((s.ctx x).map Ctx.seed).getD 0
  pure [toBytes 4 step ++ toBytes 8 seed ++ toBytes 4 recs.length, bound, entriesBytes (((s.ctx x).map Ctx.groups).getD []),
    recs.flatMap (fun e => e.1), recs.flatMap (fun e => e.2.1), recs.flatMap (fun e => e.2.2)]

/-- A slot's bytes before its commit record: the manifest of offsets and lengths, then the sections on 4 KiB boundaries (R420). -/
def slotImage (secs : List (List Byte)) : List Byte :=
  let place := secs.foldl (fun (a : List (Nat × Nat) × Nat) b => (a.1 ++ [(a.2, b.length)], a.2 + roundUp b.length 4096)) ([], 4096)
  slice (toBytes 8 secs.length ++ place.1.flatMap (fun e => toBytes 8 e.1 ++ toBytes 8 e.2)) 0 4096 ++ secs.flatMap padPage

/-- The commit record (R420): step, count, SHA3-512 of every earlier byte of the slot. -/
def commitRecord (step count : Nat) (earlier : List Byte) : List Byte :=
  slice (toBytes 4 step ++ toBytes 4 count ++ digestBytes (Config.sha3 earlier)) 0 4096

/-- The step and count of a slot whose commit record is valid (R420). -/
def slotStep (slot : List Byte) : Option (Nat × Nat) :=
  let n := slot.length - 4096
  if n < 4096 ∨ slot.length < 8192 then none
  else
    let c := slot.drop n
    if slice c 8 64 = digestBytes (Config.sha3 (slot.take n)) then some (field c 0 4, field c 4 4) else none

/-- The global address of slot A of a target (R420): this device, the mirror partner, or THM_REMOTE. -/
def State.targetAt (s : State) (x t : Nat) : Nat :=
  let r := s.creg x
  match t with
  | 0 => 0x7FFF * 2 ^ 48 + r.localAt
  | 1 => (s.nxp.device + 32768 * (1 - s.nxp.hall)) * 2 ^ 48 + r.mirrorAt
  | _ => r.remoteAt

/-- What slots A (0) and B of a target hold: nothing valid where they cannot be read (R420); what another device gives is free
(log 24). -/
def State.heldSlot (s : State) (x t k : Nat) : Option (Nat × Nat) :=
  match s.readG (agentOf x) (s.targetAt x t + k * (s.creg x).slotSize) (s.creg x).slotSize with
  | .data bs => slotStep bs
  | .stop _ => none

/-- The slot of a target that does not hold its newest valid checkpoint (R420). -/
def State.slotToWrite (s : State) (x t : Nat) : Nat :=
  match s.heldSlot x t 0, s.heldSlot x t 1 with
  | some a, some b => if a.2 < b.2 then 0 else 1
  | some _, none => 1
  | _, _ => 0

/-- The checkpoint count that the next checkpoint carries to a target: above what the target holds, and above how many the context has
taken (R420). -/
def State.nextCount (s : State) (x t : Nat) : Nat :=
  wrapAdd 32 ((range 2).foldl (fun m k => max m (((s.heldSlot x t k).map Prod.snd).getD 0)) (s.creg x).count) 1

/-- How a copy to a target fares: it has ended, well or not; it is on its way to another device; or an access of this device missed. -/
inductive CopyStep where
  | ended (ok : Bool)
  | going (f : Flight)
  | miss (va : Nat) (store : Bool)
  deriving DecidableEq, Repr

/-- Writes pieces in order; the access that stopped them, if one did. -/
def State.writePieces (s : State) (x t : Nat) (l : List (Nat × List Byte)) : State × Option Acc :=
  l.foldl (fun (r : State × Option Acc) e =>
    match r.2 with
    | some _ => r
    | none => r.1.writeG (agentOf x) (.thermos x t) 0 e.1 e.2) (s, none)

/-- The zeros that a copy writes first, over the commit record of the slot it takes (R420). -/
def State.zeroPiece (s : State) (x t : Nat) : Nat × List Byte :=
  (s.targetAt x t + s.slotToWrite x t * (s.creg x).slotSize + ((s.creg x).slotSize - 4096), List.replicate 4096 0)

/-- A copy that fails leaves the slot being written invalid (R421): its commit record is zeroed, unless that has been sent already. -/
def State.spoil (s : State) (x t : Nat) : State :=
  if (((s.ctx x).bind Ctx.ckpt).map (fun k => k.flights.any (fun f => decide (f.target = t)))).getD false || decide ((s.creg x).slotSize < 4096) then s
  else (s.writePieces x t [s.zeroPiece x t]).1

/-- Writes a checkpoint into a target's slot (R420): its commit record zeroed, the manifest and the sections, and the commit record last,
at another device each once what was before it is complete there. -/
def State.copySlot (s : State) (x t step : Nat) : State × CopyStep :=
  let r := s.creg x
  match s.sections x step with
  | .error (.miss va) => (s, .miss va false)
  | .error a => ((s.noteAcc (agentOf x) a).spoil x t, .ended false)
  | .ok secs =>
    let img := slotImage secs
    if r.slotSize < img.length + 4096 then (s, .ended false)
    else
      let base := s.targetAt x t + s.slotToWrite x t * r.slotSize
      let body := img ++ List.replicate (r.slotSize - 4096 - img.length) 0
      let parts := [[(base, body)], [(base + r.slotSize - 4096, commitRecord step (s.nextCount x t) body)]]
      match s.writePieces x t (s.zeroPiece x t :: (if s.isHere base then parts.flatten else [])) with
      | (_, some (.miss va)) => (s, .miss va true)
      | (u, some a) => (u.noteAcc (agentOf x) a, .ended false)
      | (u, none) => (u, if s.isHere base then .ended true else .going ⟨t, parts, true⟩)

/-- A copy that is on its way goes on once its packets are answered: the next part follows, or it has ended (R420, R421). -/
def State.flyOn (s : State) (x : Nat) (f : Flight) : State × CopyStep :=
  match f.ok, f.parts with
  | false, _ => (s, .ended false)
  | true, [] => (s, .ended true)
  | true, p :: r =>
    match s.writePieces x f.target p with
    | (u, none) => (u, .going { f with parts := r })
    | (u, some _) => (u, .ended false)

/-- Ends a checkpoint whose targets are done: references are released, journals that waited are applied, the command replies, the next
waiting one begins (R419, R421). -/
def State.endCkpt (s : State) (x : Nat) : State :=
  match s.ctx x with
  | none => s
  | some c =>
    match c.ckpt with
    | none => s
    | some k =>
      if k.left ≠ 0 then s
      else
        let s := (s.ownRecs x).foldl (fun (s : State) r =>
          match r.thermos with
          | some j =>
            let a := prVersion r.bytes
            (s.sendAdd .thermos (wkey x (vrMark (s.peek x a 64) j)) 1 none).1.modRec x a (fun r => { r with thermos := none })
          | none => s) s
        let s := s.applyWaiting x
        let s := s.modCreg x (fun r => { r with count := if k.done = 0 then r.count else wrapAdd 32 r.count 1 })
        let s := s.modCtx x (fun c => { c with ckpt := none, ckptQueue := c.ckptQueue.drop 1 })
        let s := match k.cmd with
          | some h => s.finish h 0x18 (if k.bad then 0x706 else 0) (toBytes 1 k.done)
          | none => s
        match c.ckptQueue with
        | (cmd, step, targets) :: _ => s.startCkpt x step targets cmd
        | [] => s

/-- A target of a checkpoint is done, committed or failed (R421, Table 14.18). -/
def State.endTarget (s : State) (x t : Nat) (k : Ckpt) (ok : Bool) : State :=
  let s := if ok then s.modCreg x (fun r => { r with valid := if bit r.valid t then r.valid else r.valid + 2 ^ t, last := k.step }) else s
  let s := s.modCtx x (fun c => { c with ckpt := some { k with
    left := k.left - 2 ^ t, done := if ok then k.done + 2 ^ t else k.done, bad := k.bad || !ok
    flights := k.flights.filter (fun f => decide (f.target ≠ t)) } })
  s.endCkpt x

/-- Whether version `step` has committed in every record of the context (R419). -/
def State.committedAll (s : State) (x step : Nat) : Bool :=
  (s.ownRecs x).all (fun r => (vrHolds (s.peek x (prVersion r.bytes) 64) step).isSome)

/-- CHECKPOINT_COPY (R420, R421): Thermos writes one target's slot, or goes on with one at another device, or the target fails. A miss
suspends the context, and the copy is made after RESUME. -/
def execCheckpointCopy (x t : Nat) (fail : Bool) (s : State) : Out State :=
  match (s.ctx x).bind Ctx.ckpt with
  | none => .next s
  | some k =>
    if s.power.stopped || !bit k.left t || !s.committedAll x k.step || s.ctxSuspended x then .next s
    else if fail then .next ((s.spoil x t).endTarget x t k false)
    else if s.nxp.ops.any (fun o => decide (o.owner = OpOwner.thermos x t)) then .next s
    else
      let r := match k.flights.find? (fun f => decide (f.target = t)) with
        | some f => s.flyOn x f
        | none => s.copySlot x t k.step
      match r.2 with
      | .ended ok => .next (r.1.endTarget x t k ok)
      | .going f => .next (r.1.modCtx x (fun c => { c with ckpt := some { k with
          flights := k.flights.filter (fun g => decide (g.target ≠ t)) ++ [f] } }))
      | .miss va store => .next (s.suspend x va store)

end Sys2Proof.Machine
end

