-- ==== Sys2Proof/Machine/Replay.lean ====
section
/-! DEFINITION. RESTORE and the replay of a step (R409 to R413, R422, R423). -/

namespace Sys2Proof.Machine

/-! ## RESTORE (R422, R423) -/

/-- The parts of a boundary record in the model's layout (log 48): step, stream blocks with their addresses, binding entries, the
generation's entries. -/
structure Boundary where
  step : Nat
  streams : List (Nat × List Byte)
  binds : List (List Byte)
  groups : Map (List Nat)
  deriving DecidableEq, Repr

/-- The entries of 16 KiB of group bytes. -/
def groupsOf (bs : List Byte) : Map (List Nat) :=
  (range 256).foldl (fun m g =>
    let e := (range 16).map (fun k => field bs (64 * g + 4 * k) 4)
    if e.all (fun v => decide (v = 0)) then m else mset [] m g e) []

/-- The parts of a boundary record that lie behind its 64-byte head. -/
def boundaryOf (head rest : List Byte) : Boundary :=
  let ns := field head 8 4; let nb := field head 12 4
  ⟨field head 0 4,
    (range ns).map (fun k => let e := slice rest (16384 + 320 * k) 320; (field e 0 8, slice e 8 256)),
    (range nb).map (fun k => slice rest (16384 + 320 * ns + 16 * k) 16),
    groupsOf (rest.take 16384)⟩

/-- The length of a boundary record behind its head. -/
def boundaryRest (head : List Byte) : Nat := 16384 + 320 * field head 8 4 + 16 * field head 12 4

/-- Section `k` of a checkpoint slot, by its manifest. -/
def sectionAt (slot : List Byte) (k : Nat) : List Byte := slice slot (field slot (8 + 16 * k) 8) (field slot (16 + 16 * k) 8)

/-- Cuts bytes into the ranges that they fill, in order. -/
def cutInto (l : List (Nat × Nat)) (bs : List Byte) : List (Nat × List Byte) :=
  (l.foldl (fun (r : List (Nat × List Byte) × List Byte) p => (r.1 ++ [(p.1, r.2.take p.2)], r.2.drop p.2)) ([], bs)).1

/-- What a saved record writes back: its slot into slot 0 with STATE 1, slot 1 empty, ACQ 0, its bank as bank 0 (R423 step 4). -/
def recordPieces (x step : Nat) (e slot bank : List Byte) : List (Nat × List Byte) :=
  let v := slice e 8 64; let b := slice e 72 128
  let r : Rec := { ctx := x, bytes := b, index := 0, die := 0, owner := true }
  let u : Upd := ⟨x, r, slice e 200 128, v, [], step, 0, 1, 0⟩
  let states := field v 0x18 4 / 16 * 16 + 1
  cutInto (u.slotWhole 0) slot ++
    [(prState b, bank),
      (field e 0 8, slice v 0 0x10 ++ toBytes 4 step ++ slice v 0x14 4 ++ toBytes 4 states ++ slice v 0x1C 12 ++ List.replicate 16 0
        ++ slice v 0x38 8)]

/-- What the saved records of a checkpoint slot write back, in order. -/
def savedPieces (x : Nat) (slot : List Byte) : List (Nat × List Byte) :=
  let step := field (sectionAt slot 0) 0 4
  ((chunks 344 (sectionAt slot 3)).foldl (fun (r : List (Nat × List Byte) × List Byte × List Byte) e =>
    let n := field e 328 8; let m := field e 336 8
    (r.1 ++ recordPieces x step e (r.2.1.take n) (r.2.2.take m), r.2.1.drop n, r.2.2.drop m)) ([], sectionAt slot 4, sectionAt slot 5)).1

/-- What a RESTORE has found: the boundary record, what the saved records write, the pending group entries, and a saved SEED. -/
structure Found where
  bound : Boundary
  pieces : List (Nat × List Byte)
  groups : Map (List Nat)
  seed : Option Nat
  deriving DecidableEq, Repr

/-- The content of a checkpoint slot. -/
def foundIn (x : Nat) (slot : List Byte) : Found :=
  let b := sectionAt slot 1
  ⟨boundaryOf (b.take 64) (b.drop 64), savedPieces x slot, groupsOf (sectionAt slot 2), some (field (sectionAt slot 0) 4 8)⟩

/-- Reads for a RESTORE: nothing where the bytes cannot be read; a miss stops it. -/
def State.restoreRead (s : State) (x a n : Nat) : Except Nat (List Byte) :=
  match s.readG (agentOf x) a n with
  | .data bs => .ok bs
  | .stop (.miss va) => .error va
  | .stop _ => .ok []

/-- The valid checkpoint slot of a list that a RESTORE of a step takes: of step 0, that with the highest count. -/
def bestSlot (step : Nat) (l : List (List Byte)) : Option (List Byte) :=
  (l.filter (fun b => match slotStep b with
    | some (t, _) => decide (step = 0 ∨ t = step)
    | none => false)).foldl (fun best b => match best with
      | none => some b
      | some c => if ((slotStep c).map Prod.snd).getD 0 < ((slotStep b).map Prod.snd).getD 0 then some b else some c) none

/-- The boundary record of a list that a RESTORE of a step takes: of step 0, the newer. -/
def bestHalf (step : Nat) (l : List Boundary) : Option Boundary :=
  (l.filter (fun b => decide (step = 0 ∨ b.step = step))).foldl (fun best b => match best with
    | none => some b
    | some c => if newer b.step c.step then some b else some c) none

/-- The boundary record in one half of a boundary area; none where it holds none (R407). -/
def State.readHalf (s : State) (x addr k : Nat) : Except Nat (List Boundary) := do
  let a := 0x7FFF * 2 ^ 48 + addr + k * halfBytes
  let h ← s.restoreRead x a 64
  if h.length ≠ 64 ∨ field h 16 8 ≠ 1 then pure []
  else
    let rest ← s.restoreRead x (a + 64) (boundaryRest h)
    pure (if rest.length = boundaryRest h then [boundaryOf h rest] else [])

/-- What a RESTORE takes, none where nothing valid holds the step (R422): from the boundary area, from slots A and B of a target on this
device, or, of a target at another device, what that device gives. -/
def State.findRestore (s : State) (x step source addr : Nat) (given : List Byte) : Except Nat (Option Found) :=
  if source = 3 then do
    let l ← (range 2).mapM (s.readHalf x addr)
    pure ((bestHalf step l.flatten).map (fun b => ⟨b, [], b.groups, none⟩))
  else
    let n := (s.creg x).slotSize
    let at_ := s.targetAt x source
    if s.isHere at_ then do
      let l ← (range 2).mapM (fun k => s.restoreRead x (at_ + k * n) n)
      pure ((bestSlot step l).map (foundIn x))
    else pure ((bestSlot step [given]).map (foundIn x))

/-- Makes the recorded bindings and sets the streams' counts (R423 steps 1 and 2). -/
def State.restoreMarks (s : State) (x : Nat) (b : Boundary) : State :=
  let s := match s.bindAll x s.wmk.binds b.binds with
    | some m => s.modWmk (fun w => { w with binds := m })
    | none => s
  b.streams.foldl (fun (s : State) e =>
    let c := field e.2 0x80 8
    (s.setCount (wkey x (cgMark e.2 0)) c).setCount (wkey x (cgMark e.2 1)) (satAdd 64 c (cgB e.2))) s

/-- The state of a context once everything a RESTORE writes is in memory (R423 steps 1, 2, 3 and 5). -/
def State.restored (s : State) (x : Nat) (f : Found) : State :=
  (s.restoreMarks x f.bound).modCtx x (fun c => { c with groups := f.groups, seed := f.seed.getD c.seed, step := none })

/-- Whether the parameters of a RESTORE, or its context, break R422. -/
def State.restoreBad (s : State) (x source addr : Nat) : Bool :=
  decide (4 ≤ source) || (decide (source ≠ 3) && decide (addr ≠ 0))
    || (decide (source = 3) && decide (addr % 0x200000 ≠ 0 ∨ 2 ^ 48 ≤ addr)) || ((s.ctx x).map Ctx.used).getD true

/-- RESTORE (R422, R423): `slot` is what a target at another device holds, empty where it holds no valid slot. A miss suspends the context,
and the command is done after RESUME; a write that fails otherwise ends it with its code (log 48). -/
def execRestore (h : Cmd) (step source addr : Nat) (slot : List Byte) (s : State) : Out State :=
  s.serve h 0x19 (fun p => decide (field p 8 4 = step ∧ field p 0xC 4 = source ∧ field p 0x10 8 = addr)) (fun s =>
    let x := h.ctx
    if s.restoreBad x source addr then s.finish h 0x19 0x102 []
    else if s.ctxSuspended x then s
    else
      match s.findRestore x step source addr slot with
      | .error va => s.suspend x va false
      | .ok none => s.finish h 0x19 0x707 []
      | .ok (some f) =>
        match s.writePieces x 0 (f.bound.streams ++ f.pieces) with
        | (_, some (.miss va)) => s.suspend x va true
        | (t, some a) => (t.noteAcc (agentOf x) a).finish h 0x19 a.code []
        | (t, none) =>
          let t := t.restored x f
          (if source = 3 then t.modCreg x (fun r => { r with boundary := addr }) else t).finish h 0x19 0 [])

/-! ## STEP_REPLAY (R409 to R413) -/

/-- Replays of the step are refused, with one event for each failure that asked for one (R409, R410, R413). -/
def State.refuseReplay (s : State) (x step : Nat) : State :=
  (range (max 1 (((s.ctx x).map Ctx.causes).getD 0))).foldl (fun (s : State) _ => s.event x 0x709 (toBytes 4 step))
    (s.modCtx x (fun c => { c with cause := none, causes := 0, replaying := false }))

/-- The Waymarks of a record that R412 sets to 0. -/
def recordMarks (b : List Byte) : List Nat := (range 7).map (prMark b) ++ (range (prSlots b)).map (fun k => prMark b 2 + k)

/-- The identifiers that R412 and R413 set themselves, and the version Waymarks: a record's Waymarks, its version record's, a stream's
counts (Table 14.3 step 6). -/
def State.ownMarks (s : State) (x : Nat) : List Nat :=
  (s.evl.recs.filter (fun e => decide (e.2.ctx = x))).flatMap (fun (e : Nat × Rec) =>
    let v := s.peek x (prVersion e.2.bytes) 64
    recordMarks e.2.bytes ++ [vrMark v 0, vrMark v 1])
    ++ (s.streamsOf x).flatMap (fun e => [cgMark e.2.cfg 0, cgMark e.2.cfg 1])

/-- What a context's records have sent to other devices ends with nobody waiting for it. -/
def State.orphanRecords (s : State) (x : Nat) : State :=
  { s with nxp := { s.nxp with ops := s.nxp.ops.map (fun (o : Op) => match o.owner with
    | .record k => if k / 2 ^ 64 = x then { o with owner := .nobody } else o
    | _ => o) } }

/-- What a context's Waymarks have on their way arrives, as it would while the device waits for the tasks to end (Table 14.3 step 3). -/
def State.landAll (s : State) (x : Nat) : State :=
  let mine := s.wmk.adds.filter (fun a => decide (keyCtx a.key = x))
  let s := s.modWmk (fun m => { m with adds := m.adds.filter (fun a => decide (keyCtx a.key ≠ x)) })
  mine.foldl (fun (s : State) a => match s.home a.key with
    | .here k _ => s.applyAdd k a.inc
    | _ => s) s

/-- A record's round is ended as a reset ends it and its Waymarks on this device become 0; what a lost die held stays failed (R280, R281,
R412). -/
def State.restartRecord (s : State) (x step : Nat) (r : Rec) : State :=
  let a := prVersion r.bytes
  let s := (recordMarks r.bytes).foldl (fun (s : State) id => s.setCount (wkey x id) 0) s
  let v := s.peek x a 64
  let s := (range 2).foldl (fun (s : State) j => if vrState v j = 2 then s.setSlot x a j 0 none else s) s
  let q : Rec := { r with
    sent := 0, taken := 0, rounds := 0, present := [], phase := .taking, nonfinite := false, journalFull := false, verdict := none
    published := b2n r.owner, pulled := 0, layers := 0, stalled := false
    failed := r.failed && s.evl.lost.contains r.die
    discard := r.owner && decide ((vrHolds v ((step + 1) % 2 ^ 32)).isSome) }
  let s := s.setRec x a q
  if r.owner && !q.failed then ((s.dieAdd x q (prMark r.bytes 1) (prSlots r.bytes)).publish x q).armRecord x a
  else s.armRecord x a

/-- Every record of a context restarts, its dies' waits among them (R412). -/
def State.restartRecords (s : State) (x step : Nat) : State :=
  (s.evl.recs.filter (fun e => decide (e.2.ctx = x))).foldl (fun (s : State) e => s.restartRecord x step e.2)
    (s.dropEvileWaits (fun y _ => decide (y = x)))

/-- Every Waymark of the boundary record returns to its recorded count, one bound since to its INIT (Table 14.3 step 6). -/
def State.restoreCounts (s : State) (x : Nat) (bound : List (Nat × Nat)) (own : List Nat) : State :=
  (s.bindsOf x).foldl (fun (s : State) e =>
    if e.2.kind = 3 ∨ own.contains (keyId e.1) then s
    else s.setCount e.1 (((bound.find? (fun b => decide (b.1 = keyId e.1))).map Prod.snd).getD e.2.init)) s

/-- Submits a recorded graph again (Table 14.3 step 8): its work area is zeroed, its TAG kept, its handle new. -/
def State.resubmit (s : State) (x : Nat) (r : Recorded) : State :=
  match s.submitChecks x r.addr with
  | .error (c, a) =>
    ((s.submitMarks x a).modCtx x (fun k => { k with
      recorded := k.recorded.map (fun q => if q = { r with handle := 2 ^ 32 } then { q with ended := true } else q) })).post
        r.fn r.cq ⟨r.tag, c, 0x08, x, 1, [], 0⟩
  | .ok (d, roots, b) =>
    let s := s.poke x (field d 0x18 8) (List.replicate (4 * field d 8 4) 0)
    let (s, n) := s.acceptGraph x r.fn r.cq r.tag r.addr (s.distanceOf x) d b true
    s.startGraph (n % 256) roots

/-- Clusters that a replay resets: those at an end of a quarantined crossing, and those with a waiting decision made since the boundary
(Table 14.3 step 4). -/
def State.resetSet (s : State) (older : List Decision) : List Nat :=
  (range 36).filter (fun n => !s.retired n &&
    (s.sys.quarantine.any (fun x => crossingAt x n) || s.repair.waiting.any (fun d => d.inCluster n && !older.contains d)))

/-- Every stream of a context stops producing (Table 14.3 step 2). -/
def State.pauseStreams (s : State) (x : Nat) : State :=
  let stop (e : Engine) : Engine := { e with
    streams := e.streams.map (fun (q : Nat × IStream) => if q.2.ctx = x then (q.1, { q.2 with paused := true }) else q) }
  { s with ing0 := stop s.ing0, ing1 := stop s.ing1 }

/-- Steps 1 and 2 of Table 14.3: the manager is told of a local trigger in a job, the context's graphs are aborted, and its streams stop
producing. -/
def State.replayAborts (s : State) (x cause step : Nat) : State :=
  let s := if cause ≠ 0x503 ∧ (s.creg x).members ≠ 0 then
      (s.modCtx x (fun c => { c with told := true })).sendManager s.manager 7 { s.msg with job := (s.creg x).job, step := step }
    else s
  ((s.trh.graphs.filter (fun e => decide (e.2.ctx = x))).foldl (fun (s : State) e => s.abortGraph e.1) s).pauseStreams x

/-- Steps 6 to 8 of Table 14.3. -/
def State.replayAgain (s : State) (x step cause : Nat) (c : Ctx) (own : List Nat) : State :=
  let s := s.restoreCounts x c.bound own
  let n := c.replays + 1
  let s := s.event x 0x704 (toBytes 4 step ++ toBytes 2 n ++ toBytes 2 cause)
  let s := s.log 0x704 8 (some x) false 0 (Config.eventDetail 8 s.tick)
  let s := s.modCtx x (fun k => { k with
    replays := n, replaying := false, cause := none, causes := 0
    recorded := c.recorded.map (fun (r : Recorded) => { r with handle := 2 ^ 32, ended := false, ok := false }) })
  c.recorded.foldl (fun (s : State) r => s.resubmit x r) s

/-- STEP_REPLAY (R409, R410, Table 14.3). -/
def execStepReplay (x : Nat) (s : State) : Out State :=
  match s.ctx x with
  | none => .next s
  | some c =>
    match c.cause, c.step with
    | some cause, some step =>
      if s.power.stopped then .next s
      else if !s.mayReplay x c cause then .next (s.refuseReplay x step)
      else
        let s := s.setCtx x { c with replaying := true, stashReplay := c.stashReplay || decide (cause = 0x206) }
        let s := ((s.replayAborts x cause step).landAll x).orphanRecords x
        if s.sys.quarantine.any (fun q => decide (36 ≤ (crossingEnds q).1 ∧ 36 ≤ (crossingEnds q).2)) then .next (s.refuseReplay x step)
        else
          let s := (s.resetSet c.older).foldl State.clusterReset s
          let own := s.ownMarks x
          let s := s.restartRecords x step
          let bad := (s.streamsOf x).filter (fun e => !s.rewinds e.2)
          if bad ≠ [] then
            .next ((bad.foldl (fun (s : State) e => s.stopStream e.1 0x904) s).refuseReplay x step)
          else
            let s := (s.streamsOf x).foldl (fun (s : State) e => s.rewind e.1 e.2) s
            .next (s.replayAgain x step cause c own)
    | _, _ => .next s

end Sys2Proof.Machine
end

