-- ==== Sys2Proof/Machine/Contexts.lean ====
section
/-! DEFINITION. Contexts and their commands (R175 to R181, R259, R313 to R315, R338 to R342, R465, R466). -/

namespace Sys2Proof.Machine

/-! ## Creation and destruction (R338, R339) -/

/-- PCI_VF_LIMITS of a VF. -/
def State.limitsOf (s : State) (fn : Nat) : Nat := (mget 0 s.pci.limits fn).toNat
/-- Contexts that a function owns. -/
def State.owned (s : State) (fn : Nat) : Nat := (s.ctxs.filter (fun e => decide (e.2.fn = fn))).length
/-- Contexts that a function may still create (R338, Table 11.11). -/
def State.mayCreate (s : State) (fn : Nat) : Nat :=
  let free := 64 - s.ctxs.length
  if fn = 0 then free else min free (bits (s.limitsOf fn) 46 41 - s.owned fn)

/-- The registers of a context number after CTX_CREATE (Tables 12.16, 14.15 to 14.18); the creation is counted (R461). -/
def CtxRegs.created (r : CtxRegs) : CtxRegs := { serial := wrapAdd 32 r.serial 1, active := r.active }

/-- Clears a context's bit of a mask. -/
def clearBit (m : W64) (x : Nat) : W64 := m &&& ~~~(BitVec.ofNat 64 (2 ^ x))

/-- A context is made (R338). -/
def State.create (s : State) (x fn seed saveArea prio eventCq : Nat) : State :=
  let s := (s.setCtx x { fn := fn, seed := seed, saveArea := saveArea, prio := prio, eventCq := eventCq }).modCreg x CtxRegs.created
  let s := s.modWmk (fun m => { m with sat := clearBit m.sat x, handset := clearBit m.handset x })
  { s with sys := { s.sys with clampCtx := clearBit s.sys.clampCtx x } }

/-- CTX_CREATE (R338). -/
def execCtxCreate (h : Cmd) (seed saveArea prio eventCq : Nat) (s : State) : Out State :=
  s.command h 0x01 (fun p => decide (field p 8 8 = seed ∧ field p 0x10 8 = saveArea ∧ field p 0x18 1 = prio ∧ field p 0x19 1 = eventCq)) (fun s =>
    if s.mayCreate h.fn = 0 then s.finish h 0x01 0x104 []
    else if (h.fn ≠ 0 ∧ bits (s.limitsOf h.fn) 48 47 < prio) ∨ 4 ≤ prio ∨ 4 ≤ eventCq ∨ saveArea % 0x200000 ≠ 0
        ∨ hbmBytes < saveArea + 648 * 2 ^ 20 then s.finish h 0x01 0x102 []
    else
      match (range 64).find? (fun x => (s.ctx x).isNone) with
      | none => s.finish h 0x01 0x104 []
      | some x => (s.create x h.fn seed saveArea prio eventCq).finish h 0x01 0 (toBytes 1 x))

/-- Disables the windows that translate through a context (R339 step 5). -/
def State.closeWindows (s : State) (x : Nat) : State :=
  let one (e : Nat × Fn) : Nat × Fn :=
    if bits e.2.win.toNat 53 48 = x ∧ bit e.2.win.toNat 54 = false then (e.1, { e.2 with win := clearBit e.2.win 55 }) else e
  { s with pci := { s.pci with fns := (s.pci.fns.map one).filter (fun e => decide (e.2 ≠ {})) } }

/-- The commands of a context that a function's rings have begun and that have not acted, but for its CTX_DESTROY. -/
def State.unacted (s : State) (fn x : Nat) : List (Cmd × Nat) :=
  (range 4).flatMap (fun r =>
    (((s.fnOf fn).crOf r).begun.filter (fun b => !b.acted && decide (b.opcode ≠ 0x02 ∧ field b.packet 2 1 % 64 = x)
      && ((opRow b.opcode).map OpRow.ctx).getD false)).map (fun b => (packetCmd fn r b.packet, b.opcode)))

/-- The code with which CTX_DESTROY ends a command of its context that has begun (R339, R421, R422). -/
def destroyCode (op : Nat) : Nat := match op with | 0x18 => 0x706 | 0x19 => 0x707 | _ => 0x103

/-- Ends the commands of a context that wait: its checkpoints, its commit, and those that have not acted (R339 step 3, R421). -/
def State.endWaiting (s : State) (x : Nat) (c : Ctx) : State :=
  let s := match c.ckpt.bind Ckpt.cmd with
    | some h => s.finish h 0x18 0x706 (toBytes 1 ((c.ckpt.map Ckpt.done).getD 0))
    | none => s
  let s := (c.ckptQueue.filterMap Prod.fst).foldl (fun (s : State) h => s.finish h 0x18 0x706 []) s
  let s := match c.commit with
    | some w => s.finish w.cmd 0x0B 0x103 []
    | none => s
  (s.unacted c.fn x).foldl (fun (s : State) e => s.finish e.1 e.2 (destroyCode e.2) []) s

/-- A context ends: what CTX_DESTROY does before its own reply (R339). -/
def State.destroy (s : State) (x : Nat) : State :=
  match s.ctx x with
  | none => s
  | some c =>
    let s := (s.trh.graphs.filter (fun e => decide (e.2.ctx = x))).foldl (fun (s : State) e => s.abortGraph e.1) s
    let s := (s.streamsOf x).foldl (fun (s : State) e => s.closeStream e.1) s
    let s := ((s.endWaiting x c).dropEvileWaits (fun y _ => decide (y = x))).orphanRecords x
    let s : State := { s with
      ctxs := mdel s.ctxs x
      wmk := { s.wmk with
        binds := s.wmk.binds.filter (fun e => decide (keyCtx e.1 ≠ x))
        waits := s.wmk.waits.filter (fun w => decide (keyCtx w.key ≠ x))
        adds := s.wmk.adds.filter (fun a => decide (keyCtx a.key ≠ x)) }
      evl := { s.evl with recs := s.evl.recs.filter (fun e => decide (e.2.ctx ≠ x)) }
      trh := { s.trh with
        owners := s.trh.owners.map (fun (e : Nat × Nat × Nat) => if e.2.2 = x then (e.1, e.2.1, 64) else e)
        reserved := s.trh.reserved.filter (fun r => decide (r.1 ≠ x)) } }
    s.closeWindows x

/-- Whether a RESUME, MAP_PAGES or WAYMARK_WRITE of a context is in progress on another ring: it has begun, or its reply waits (R339). -/
def State.holdsDestroy (s : State) (h : Cmd) : Bool :=
  let mine (op : Nat) : Bool := ([0x03, 0x05, 0x11] : List Nat).contains op
  let fn := s.fnOf h.fn
  (range 4).any (fun r => decide (r ≠ h.ring) &&
    ((fn.crOf r).begun.any (fun b => mine b.opcode && decide (field b.packet 2 1 % 64 = h.ctx))
      || (fn.cqOf (fn.crOf r).cq).held.any (fun q => decide (q.kind = 0 ∧ q.ring = r ∧ q.ctx = h.ctx) && mine q.opcode)))

/-- CTX_DESTROY (R339). -/
def execCtxDestroy (h : Cmd) (s : State) : Out State :=
  s.serve h 0x02 (fun _ => true) (fun s => if s.holdsDestroy h then s else (s.destroy h.ctx).finish h 0x02 0 [])

/-! ## Translations (R175 to R181, R340, R465, R466) -/

/-- Whether two ranges of bytes meet. -/
def spansMeet (a n b m : Nat) : Bool := decide (a < b + m) && decide (b < a + n)

/-- Whether a range lies in the HBM or the slow-tier region. -/
def inTier (a n : Nat) : Bool := decide (a + n ≤ hbmBytes) || (decide (slowBase ≤ a) && decide (a + n ≤ slowEnd))

/-- Whether a VF may map a physical range (R340). -/
def State.vfMay (s : State) (fn pa n : Nat) : Bool :=
  if fn = 0 then true
  else
    let l := s.limitsOf fn
    let gib := 2 ^ 30
    let within (base size : Nat) : Bool := decide (base ≤ pa) && decide (pa + n ≤ base + size)
    if pa < hbmBytes then
      decide (bits l 9 0 + bits l 19 10 ≤ 576) && within (bits l 9 0 * gib) (bits l 19 10 * gib)
    else
      decide (bits l 29 20 + bits l 40 30 ≤ 1024) && within (slowBase + bits l 29 20 * gib) (bits l 40 30 * gib)

/-- Whether an attribute word is one that R177 allows. -/
def attrOk (attr : Nat) : Bool := decide (attr < 32) && decide (bits attr 4 3 ≠ 3) && !(bit attr 1 && !bit attr 0)

/-- Whether MAP_PAGES' parameters keep R178 and R340. -/
def State.mapOk (s : State) (h : Cmd) (va pa count attr : Nat) : Bool :=
  let b := pageBytes (bits attr 4 3); let n := count * b
  attrOk attr && decide (1 ≤ count ∧ count ≤ 2 ^ 24) && decide (va % b = 0 ∧ pa % b = 0) && inTier va n && inTier pa n
    && decide ((va < hbmBytes) ↔ (pa < hbmBytes)) && !s.inTableArea pa n
    && !(((s.ctx h.ctx).map Ctx.pages).getD []).any (fun p => spansMeet va n p.va p.bytes) && s.vfMay h.fn pa n

/-- MAP_PAGES (R178, R340, R465). -/
def execMapPages (h : Cmd) (va pa count attr : Nat) (s : State) : Out State :=
  s.command h 0x03 (fun p =>
      decide (field p 8 8 = va ∧ field p 0x10 8 = pa ∧ field p 0x18 4 = count ∧ field p 0x1C 2 = attr)) (fun s =>
    if !s.mapOk h va pa count attr then s.finish h 0x03 0x102 []
    else if s.poolSize < s.poolUsed + count then s.finish h 0x03 0x406 []
    else (s.modCtx h.ctx (fun c => { c with pages := c.pages ++ [⟨va, pa, count, bits attr 4 3, attr⟩] })).finish h 0x03 0 [])

/-- What of a run of pages lies outside a range of pages of one size. -/
def Page.without (p : Page) (va n size : Nat) : List Page :=
  if p.size ≠ size ∨ spansMeet va n p.va p.bytes = false then [p]
  else
    let b := pageBytes size
    let lo := (va - p.va) / b
    let hi := (va + n - p.va) / b
    (if lo = 0 then [] else [{ p with count := lo }])
      ++ (if p.count ≤ hi then [] else [{ p with va := p.va + hi * b, pa := p.pa + hi * b, count := p.count - hi }])

/-- Discards what was fetched through a context's range and no instruction has consumed (R179). -/
def State.discardFetched (s : State) (x va n : Nat) : State :=
  let mine (k : Core) : Bool := (k.task.map (fun t => decide (t.ctx = x))).getD false
  let hit (u : Nat) : Bool := spansMeet u 256 va n
  let pas := (((s.ctx x).map Ctx.pages).getD []).filter (fun p => spansMeet va n p.va p.bytes)
  { s with
    cores := s.cores.map (fun (e : Nat × Core) => if mine e.2 then
      (e.1, { e.2 with ramb := { e.2.ramb with
        lq := e.2.ramb.lq.filter (fun q => !hit q.unit)
        again := e.2.ramb.again.filter (fun q => !hit q.unit)
        reqs := (e.2.ramb.dropReads (fun q => hit q.unit)).reqs } }) else e)
    clusters := (s.clusters.map (fun (e : Nat × Cluster) => (e.1, { e.2 with
      held := e.2.held.filter (fun q =>
        !(((s.graph q.graph).map (fun g => decide (g.ctx = x))).getD false && pas.any (fun p => spansMeet q.unit 256 p.pa p.bytes)))
      chunks := e.2.chunks.map (fun (q : Chunk) => if q.members.any (fun c => mine (s.core c)) then { q with data := [] } else q) }))).filter
        (fun e => decide (e.2 ≠ {})) }

/-- Whether a store of a context's task that was translated through a range is unacknowledged (R179). -/
def State.storesThrough (s : State) (x va n : Nat) : Bool :=
  s.cores.any (fun (e : Nat × Core) => (e.2.task.map (fun t => decide (t.ctx = x))).getD false
    && e.2.ramb.reqs.any (fun q => q.localStore && spansMeet q.unit 256 va n))

/-- UNMAP_PAGES (R179, R466): it waits while an access already translated is not complete. -/
def execUnmapPages (h : Cmd) (va count size : Nat) (s : State) : Out State :=
  s.serve h 0x04 (fun p => decide (field p 8 8 = va ∧ field p 0x10 4 = count ∧ field p 0x14 1 = size)) (fun s =>
    let b := pageBytes size; let n := count * b
    if 3 ≤ size ∨ va % b ≠ 0 ∨ count = 0 ∨ 2 ^ 24 < count ∨ inTier va n = false then s.finish h 0x04 0x102 []
    else if s.storesThrough h.ctx va n then s
    else
      let s := s.discardFetched h.ctx va n
      (s.modCtx h.ctx (fun c => { c with pages := c.pages.flatMap (fun p => p.without va n size) })).finish h 0x04 0 [])

/-- RESUME (R180, R181, R387, R400): the context's tasks may be given their cores again, its ready tasks' descriptors are read, and
waiting feeds go on; a context that is not suspended is unaffected. -/
def execResume (h : Cmd) (s : State) : Out State :=
  s.command h 0x05 (fun _ => true) (fun s =>
    if !s.ctxSuspended h.ctx then s.finish h 0x05 0 []
    else
    let s := (s.modCtx h.ctx (fun c => { c with suspended := false })).loadAgain h.ctx
    let s := (s.streamsOf h.ctx).foldl (fun (s : State) e => s.pump e.1 (e.2.feeds.length + 1)) s
    s.finish h 0x05 0 [])

/-! ## Groups (R259) -/

/-- Whether an FP32 value is finite and not below 0. -/
def nonneg32 (v : Nat) : Bool := !f32bad v && !(ofF32 v).lt FV.zero

/-- Whether a group entry keeps Table 9.2 and R259. -/
def entryOk (e : List Nat) : Bool :=
  let c := nth 0 e 0
  decide (bits c 1 0 ≠ 3 ∧ bits c 9 8 ≠ 3 ∧ bits c 31 12 = 0)
    && nonneg32 (geVal e 1) && nonneg32 (geVal e 2)
    && [3, 4].all (fun k => nonneg32 (geVal e k) && (ofF32 (geVal e k)).lt (ofF32 0x3F800000))
    && !f32bad (geVal e 5) && FV.zero.lt (ofF32 (geVal e 5))
    && [6, 7, 8, 10, 11].all (fun k => !f32bad (geVal e k)) && nonneg32 (geVal e 9)
    && (!geValid e || decide (geRule e = 1) || decide (bits c 6 3 = 0))

/-- The pending entry that a GROUP_WRITE would leave. -/
def mergeEntry (old : List Nat) (mask : Nat) (words : List W32) : List Nat :=
  (range 16).map (fun k => if bit mask k then ((words[k]?).map BitVec.toNat).getD 0 else nth 0 old k)

/-- GROUP_WRITE (R259). -/
def execGroupWrite (h : Cmd) (group mask : Nat) (words : List W32) (s : State) : Out State :=
  s.command h 0x0C (fun p => decide (field p 8 1 = group ∧ field p 0xA 2 = mask)
      && (range 12).all (fun k => decide (field p (0xC + 4 * k) 4 = ((words[k]?).map BitVec.toNat).getD 0))) (fun s =>
    match s.ctx h.ctx with
    | none => s
    | some c =>
      let e := mergeEntry (mget [] c.groups group) mask words
      if 4096 ≤ mask ∨ 256 ≤ group ∨ entryOk e = false then s.finish h 0x0C 0x102 []
      else
        let g := if e.all (fun v => decide (v = 0)) then mdel c.groups group else mset [] c.groups group e
        (s.setCtx h.ctx { c with groups := g }).finish h 0x0C 0 [])

/-! ## Waymarks by hand (R313 to R315) -/

/-- The RESULT of WAYMARK_READ for a binding of this device (R313, Table 11.10). -/
def State.markResult (s : State) (key : Nat) (b : Binding) : List Byte :=
  let ws := (s.wmk.waits.filter (fun w => decide (w.key = key) && !w.released)).map Wait.threshold
  toBytes 8 b.count ++ toBytes 8 (ws.foldl min (2 ^ 64 - 1)) ++ toBytes 2 (min ws.length 0xFFFF)
    ++ toBytes 1 (b.eff + 4 * b.kind) ++ toBytes 1 (if b.eff = 1 then b.home else 0)

/-- WAYMARK_READ (R313): `remote` is the reply of a home on another device, none where it refuses. -/
def execWaymarkRead (h : Cmd) (id : Nat) (remote : Option (List Byte)) (s : State) : Out State :=
  s.command h 0x10 (fun p => decide (field p 8 4 = id)) (fun s =>
    match s.home (wkey h.ctx id) with
    | .unbound | .refused => s.finish h 0x10 0xA04 []
    | .here k b => s.finish h 0x10 0 (s.markResult k b)
    | .far _ =>
      match remote with
      | some r => s.finish h 0x10 0 r
      | none => s.finish h 0x10 0xA04 [])

/-- WAYMARK_WRITE (R314, R315): `remote` says whether a home on another device has applied it. -/
def execWaymarkWrite (h : Cmd) (id mode value : Nat) (remote : Bool) (s : State) : Out State :=
  s.command h 0x11 (fun p => decide (bits (field p 8 4) 19 0 = id ∧ bits (field p 8 4) 21 20 = mode ∧ field p 0x10 8 = value)) (fun s =>
    if 2 ≤ mode then s.finish h 0x11 0x102 []
    else
      match s.home (wkey h.ctx id) with
      | .unbound | .refused => s.finish h 0x11 0xA04 []
      | .here k b => (s.handSet k (if mode = 0 then value else max b.count value)).finish h 0x11 0 []
      | .far _ => s.finish h 0x11 (if remote then 0 else 0xA04) [])

/-! ## QUERY (R342) -/

/-- EVL_STATUS.STATE of a die (Table 9.7): 0 in service, 1 serving both halves' records, 2 lost. -/
def State.evileState (s : State) (d : Nat) : Nat :=
  if s.evl.lost.contains d then 2 else if s.evl.lost.contains (1 - d) then 1 else 0

/-- Cores in service (Table 11.11): those of the clusters that serve; none in recovery, where no cluster is brought up (R443). -/
def State.coresServing (s : State) : Nat :=
  if s.boot.state = .recovery then 0
  else 18 * ((range 36).filter (fun n => !s.retired n && decide ((s.cluster n).mode = .service))).length

/-- The RESULT of QUERY by selector (Table 11.11); none for another selector. -/
def State.queryResult (s : State) (fn sel : Nat) : Option (List Byte) :=
  match sel with
  | 0 => some (toBytes 2 0x9720 ++ toBytes 1 0xB0 ++ [0]
      ++ toBytes 2 (if s.nxp.device = 0x7FFF then 0x7FFF else s.me))
  | 1 => some (toBytes 8 s.present ++ toBytes 2 s.coresServing ++ toBytes 1 s.hbm.service
      ++ toBytes 1 (s.evileState 0 + 4 * s.evileState 1) ++ toBytes 1 (3 - s.nxp.diesLost % 4))
  | 2 => some (toBytes 8 (total ((s.ctxs.filter (fun e => decide (fn = 0 ∨ e.2.fn = fn))).map (fun e => 2 ^ e.1)))
      ++ toBytes 1 (s.mayCreate fn))
  | _ => none

/-- QUERY (R342). -/
def execQuery (h : Cmd) (sel : Nat) (s : State) : Out State :=
  s.command h 0x38 (fun p => decide (field p 8 4 = sel)) (fun s => match s.queryResult h.fn sel with
    | some r => s.finish h 0x38 0 r
    | none => s.finish h 0x38 0x102 [])

end Sys2Proof.Machine
end

