-- ==== Sys2Proof/Machine/Package.lean ====
section
/-! DEFINITION. Crossings and package-internal links (R15, R27 to R29, R281, R371). -/

namespace Sys2Proof.Machine

/-- Package-internal link `l`: 0 and 1 reach E0 and E1, 2 and 3 reach P0 and P1. -/
def State.plink (s : State) (l : Nat) : PLink := mget {} s.sys.links l
/-- Changes a package-internal link. -/
def State.modLink (s : State) (l : Nat) (f : PLink → PLink) : State :=
  { s with sys := { s.sys with links := mset {} s.sys.links l (f (s.plink l)) } }

/-- The context of what issued a transfer, if it has one. -/
def State.ctxOf (s : State) (b : CdcBy) : Option Nat :=
  match b with
  | .core c _ => (s.core c).task.map CoreTask.ctx
  | .dma g _ => (s.graph g).map Graph.ctx
  | .evile x _ | .thermos x _ => some x
  | .ingest _ h => (s.stream h).map IStream.ctx
  | .trailhead g _ => (s.graph g).map Graph.ctx
  | .host h => some h.ctx
  | .port _ _ | .lantern | .pcie _ => none

/-- The agent that issued a transfer, or asked for a word, fails with a code (R27, R404, R405): a core its task, an Evile update its
record, an ingest stream stops (R400), a checkpoint's copy its target (R421), a port die's operation; of Trailhead's the task, of the command
processor's the command that it has begun, and of PCIe's the host's read, which completes with Unsupported Request (log 76). -/
def State.issuerFailsWith (s : State) (b : CdcBy) (code : Nat) : State :=
  match b with
  | .core c k =>
    match (s.core c).live.pendings[k]? with
    | some p => s.failCore c code p.pc p.word
    | none => s.failCore c code (s.core c).live.pc (s.insnOf c)
  | .dma g i => if s.going g i then s.failTask g i code else s
  | .evile x a => s.failRecord x a code
  | .thermos x t =>
    match (s.ctx x).bind Ctx.ckpt with
    | some k => if bit k.left t then (s.spoil x t).endTarget x t k false else s
    | none => s
  | .ingest e h => if engineOf h = e then s.stopStream h 0x904 else s
  | .port d t => s.failOps (fun o => o.sent && decide (o.packet.die = d ∧ o.packet.tag = t)) code
  | .lantern => { s with lnt := { s.lnt with state := 2, code := code } }
  | .trailhead g i => if ([.idle, .done, .failed] : List Phase).contains (s.taskOf g i).phase then s else s.failTask g i code
  | .host h =>
    match ((s.fnOf h.fn).crOf h.ring).begun.find? (fun b => decide (packetCmd h.fn h.ring b.packet = h) && !b.acted) with
    | some b => s.finish h b.opcode code []
    | none => s
  | .pcie f => if s.fnExists f then (s.badAccess f).unsupported f else s

/-- The operation that issued an abandoned transfer fails with CDC_TIMEOUT (R27). -/
def State.cdcFails (s : State) (b : CdcBy) : State := s.issuerFailsWith b 0x702

/-! ## Errors that memories and datapaths meet (R404 to R406, R415) -/

/-- The start of the protected word at a physical offset. -/
def wordStart (pa : Nat) : Nat := pa / wordBytes pa * wordBytes pa

/-- The row of a memory that holds a physical offset: 1 KiB of a store; of HBM and the slow tier as the part lays them out. -/
def rowKey (s : State) (pa : Nat) : Nat :=
  match regionOf pa with
  | .coreStore | .clusterStore => 2 ^ 60 + pa / 1024
  | _ => (s.placeOf pa).1 * 2 ^ 40 + (s.placeOf pa).2 * 2 ^ 36 + Config.hbmPlace pa % 2 ^ 28

/-- A corrected error in a row: logged; a second within 24 hours records the location for repair (R406, R415). -/
def State.correctedIn (s : State) (key kind source detail : Nat) (record : State → State) : State :=
  let again := s.sys.corrected.any (fun e => decide (e.1 = key ∧ s.sys.time ≤ e.2 + 86400000000000))
  let s := s.logCorrected kind source detail
  if again then record s
  else { s with sys := { s.sys with corrected := s.sys.corrected.filter (fun e => decide (e.1 ≠ key)) ++ [(key, s.sys.time)] } }

/-- A corrected error at a physical offset. -/
def State.correctedAt (s : State) (pa : Nat) : State :=
  s.correctedIn (rowKey s pa) (s.placeOf pa).1 (s.placeOf pa).2 pa (fun s => (s.recordPa pa).retireDoomed)

/-- An error in a word of the local map: corrected, or uncorrectable, and then so for every later access (R404, R405). -/
def State.wordError (s : State) (pa outcome : Nat) : State :=
  if (regionOf pa).mapped = false || s.lostTarget pa then s
  else if outcome = 1 then s.correctedAt pa
  else if outcome = 2 then
    let b := wordStart pa
    let s : State := { s with bad := if s.bad.contains b then s.bad else b :: s.bad }
    ((s.log 0x701 (s.placeOf pa).1 none false (s.placeOf pa).2 pa).recordPa pa).retireDoomed
  else s

/-- The repair decision for a row of an on-chip memory that has spare rows in Table 14.4; none for another. -/
def sramDecision (k : SramKind) (unit row : Nat) : Option Decision :=
  match k with
  | .tile => some (.row 0 (unit / 19) (unit % 19) row)
  | .acc => some (.row 1 (unit / 19) (unit % 19) row)
  | .landing => some (.row 4 unit 0 row)
  | _ => none

/-- Records a row of an on-chip memory for repair (R415). -/
def State.recordSram (s : State) (k : SramKind) (unit row : Nat) : State :=
  match sramDecision k unit row with
  | some d => s.decideOn d
  | none => s

/-- The number that tells a row of an on-chip memory from every other row. -/
def sramKey (k : SramKind) (unit row : Nat) : Nat :=
  let m := match k with | .tile => 0 | .acc => 1 | .tregs => 2 | .program => 3 | .queues => 4 | .waymarks => 5 | .landing => 6
  2 ^ 61 + m * 2 ^ 40 + unit * 2 ^ 24 + row

/-- A packet of the reorder buffer meets an uncorrectable word: its requester is answered with UNCORRECTABLE_MEMORY in its turn. -/
def Stream.spoilHeld (q : Stream) (n : Nat) : Stream :=
  { q with held := q.held.map (fun p => if p.sseq = n then { p with rsv := true } else p) }

/-- SCRUB (R404 to R406, R415): a scrub, or any access or transfer, meets an error; `outcome` 0 is none, 1 one that is corrected, 2 one
that is not. A datapath corrects none. That this row carries every such error is the model's choice (log 86). -/
def execScrub (at_ : ErrAt) (outcome : Nat) (s : State) : Out State :=
  if s.power.stopped || !([1, 2] : List Nat).contains outcome then .next s
  else match at_ with
    | .word pa => .next (s.wordError pa outcome)
    | .sram k u r b =>
      if outcome = 1 then .next (s.correctedIn (sramKey k u r) 0 u r (fun s => s.recordSram k u r))
      else .next (((s.log 0x701 0 (s.ctxOf b) false u r).recordSram k u r).issuerFailsWith b 0x701)
    | .held d src e v n =>
      if outcome = 1 then .next (s.logCorrected 0 d n)
      else if s.nxp.rx.any (fun q => decide (q.src = src ∧ q.sdie = e ∧ q.ddie = d ∧ q.vc = v) && q.held.any (fun p => decide (p.sseq = n))) then
        let t := s.log 0x701 0 none false d n
        .next { t with nxp := { t.nxp with rx := t.nxp.rx.map (fun (q : Stream) =>
          if q.src = src ∧ q.sdie = e ∧ q.ddie = d ∧ q.vc = v then q.spoilHeld n else q) } }
      else .next s
    | .path u b =>
      if outcome = 1 then .next s
      else .next ((s.log 0x705 3 (s.ctxOf b) false u (Config.eventDetail 3 s.tick)).issuerFailsWith b 0x705)

/-! ## Crossings and links -/

/-- CDC_TIMEOUT (R27 to R29): recorded, the crossing quarantined unless it is closed, and the operation that issued the transfer fails. -/
def execCdcTimeout (x : BitVec 24) (b : CdcBy) (s : State) : Out State :=
  if s.power.stopped then .next s else .next ((s.cdc x (s.crossingShut x) (s.ctxOf b)).cdcFails b)

/-- PACKAGE_LINK_REPLAY (R15, R406): a flit fails its CRC check and is replayed; a flit other than the one that failed last starts a new
count, since the one before has passed. The log entry names the die (log 27). -/
def execPackageLinkReplay (x : LinkFlit) (s : State) : Out State :=
  if s.power.stopped || decide ((s.plink x.link).state ≠ .up) then .next s
  else
    .next ((s.modLink x.link (fun k => { k with
      flit := x.flit, fails := if k.fails = 0 ∨ k.flit ≠ x.flit then 1 else k.fails + 1 })).logCorrected
      4 (x.link % 2) (Config.eventDetail 4 x.link))

/-- PACKAGE_LINK_RETRAIN (R15): the same flit has failed eight times in succession, or a training link has failed to retrain. -/
def execPackageLinkRetrain (l : Nat) (s : State) : Out State :=
  let k := s.plink l
  if s.power.stopped then .next s
  else if k.state = .training then .next (s.modLink l (fun k => { k with retrains := k.retrains + 1 }))
  else if k.state = .up ∧ 8 ≤ k.fails then .next (s.modLink l (fun k => { k with state := .training, retrains := 0 }))
  else .next s

/-- PACKAGE_LINK_RETRAINED (R15). -/
def execPackageLinkRetrained (l : Nat) (s : State) : Out State :=
  if s.power.stopped || decide ((s.plink l).state ≠ .training) then .next s else .next (s.modLink l (fun _ => {}))

/-- An Evile die is lost (R281): its records fail with TARGET_LOST; the other die serves the rest. -/
def State.loseEvile (s : State) (d : Nat) : State :=
  let s : State := { s with evl := { s.evl with lost := s.evl.lost ++ [d] } }
  s.evl.recs.foldl (fun (s : State) (e : Nat × Rec) =>
    let a := prVersion e.2.bytes
    if e.2.die ≠ d then s
    else if e.2.owner then s.failRecord e.2.ctx a 0x405
    else s.modRec e.2.ctx a (fun r => { r with die := 1 - d })) s

/-- A port die is lost (R371, R400, R406): its nine ports go down, each change logged, its operations fail, its streams stop and
close. -/
def State.losePortDie (s : State) (d : Nat) : State :=
  let s := (portsOf d).foldl (fun (s : State) p =>
    let t := s.modPort p (fun x => { x.emptied with state := 0 })
    if (s.port p).state = 0 then t else t.logPort p) s
  let s : State := { s with nxp := { s.nxp with diesLost := s.nxp.diesLost + 2 ^ d } }
  let s := s.failOps (fun o => decide (o.packet.die = d)) 0x501
  let s := s.modEngine d (fun e => { e with state := 2 })
  let s := (s.engine d).streams.foldl (fun (s : State) e => (s.stopStream e.1 0x405).closeStream e.1) s
  s.fabricChange 3 d s.me

/-- LINK_DOWN (R15, R281, R371): three failed retrains within 10 ms; the die at the far end is lost. -/
def execLinkDown (l : Nat) (s : State) : Out State :=
  let k := s.plink l
  if s.power.stopped || decide (k.state ≠ .training) || decide (k.retrains < 3) then .next s
  else
    let s := (s.modLink l (fun k => { k with state := .down })).log (eventCode 4) 4 none false (l % 2) (Config.eventDetail 4 l)
    .next (if l < 2 then s.loseEvile l else s.losePortDie (l - 2))

end Sys2Proof.Machine
end

