-- ==== Sys2Proof/Machine/Power.lean ====
section
/-! DEFINITION. Core clock, voltage and temperature (R430, R448 to R450). -/

namespace Sys2Proof.Machine

/-- The core clock that the limits allow (R450). -/
def Power.wanted (p : Power) : Nat := min (min p.target p.thermal) (if p.brakeN then 1750 else 900)

/-- The VDD_CORE setpoint for a core clock, which the configuration image gives (R435); none before one is taken. -/
def State.setpoint (s : State) (mhz : Nat) : Option Nat := s.boot.image.volt[(mhz - 900) / 25]?

/-- Commands a voltage of the regulator, through PMBus (R430). -/
def State.setVout (s : State) (mv : Nat) : State := { s with power := { s.power with vout := mv } }.emit (.pmbus mv)

/-- Moves the clock to what the limits allow (R430): a raise sets the voltage and waits for POWER_GOOD; a lowering sets the clock and
then the voltage; a raise that is no longer wanted takes its voltage back. Without an image no voltage is known: the clock is only lowered
(log 87). -/
def State.setClock (s : State) : State :=
  let w := s.power.wanted
  let at_ (mhz : Nat) (wait : Option Nat) : State := { s with power := { s.power with current := mhz, waiting := wait } }
  match s.setpoint w with
  | none => at_ (min s.power.current w) none
  | some mv =>
    if s.power.current < w then (at_ s.power.current (some w)).setVout mv
    else if s.power.vout = mv then at_ w none
    else (at_ w none).setVout mv

/-- Changes the clock's inputs and moves the clock. -/
def State.modPower (s : State) (f : Power → Power) : State := { s with power := f s.power }

/-- PWR_BRAKE (R431, R450). -/
def execPwrBrake (s : State) : Out State :=
  if s.power.stopped then .next s else .next (s.modPower (fun p => { p with brakeN := false })).setClock

/-- PWR_BRAKE_RELEASE (R450). -/
def execPwrBrakeRelease (s : State) : Out State :=
  if s.power.stopped then .next s else .next (s.modPower (fun p => { p with brakeN := true })).setClock

/-- POWER_GOOD (R430): the regulator has raised VDD_CORE, and the clock follows. -/
def execPowerGood (s : State) : Out State :=
  match s.power.waiting with
  | none => .next s
  | some w => if s.power.stopped then .next s else .next (s.modPower (fun p => { p with current := w, waiting := none }))

/-- The hottest reading and its sensor, the lowest on a tie. -/
def hottestOf (l : List Nat) : Nat × Nat :=
  (l.mapIdx (fun i t => (i, t))).foldl (fun b e => if b.1 < e.2 then (e.2, e.1) else b) (0, 0)

/-- The HBM controllers at half rate after a reading (Table 15.8). -/
def halvedOf (old : Nat) (l : List Nat) : Nat :=
  total ((range 8).map (fun n =>
    let t := nth 0 l (48 + n)
    if 95 ≤ t ∨ (bit old n ∧ 92 ≤ t) then 2 ^ n else 0))

/-- THERMAL_SAMPLE (R448): `l` lists the sensors in the order of Table 15.17. -/
def execThermalSample (l : List Nat) (s : State) : Out State :=
  if s.power.stopped then .next s
  else
    let h := hottestOf l
    let s := s.modPower (fun p => { p with hottest := h.1 % 256, sensor := h.2, halved := halvedOf p.halved l })
    if 105 ≤ h.1 then .next (s.modPower (fun p => { p with stopped := true, tripN := false }))
    else
      let s :=
        if 100 ≤ h.1 then (s.modPower (fun p => { p with cool := 0, thermal := max 900 (min p.target p.thermal - 50) })).setClock
        else if h.1 < 97 then
          if 9 ≤ s.power.cool then (s.modPower (fun p => { p with cool := 0, thermal := min 1750 (p.thermal + 50) })).setClock
          else s.modPower (fun p => { p with cool := p.cool + 1 })
        else s.modPower (fun p => { p with cool := 0 })
      .next (s.modPower (fun p => { p with throttleMs := if p.thermal < p.target then satAdd 32 p.throttleMs 1 else p.throttleMs }))

end Sys2Proof.Machine
end

