-- ==== Sys2Proof/Machine/Image.lean ====
section
/-! DEFINITION. The configuration image (R434 to R440): its layout, its checks, and what the device takes from it. -/

namespace Sys2Proof.Machine

/-- A section's entry in the header: type, offset, length. -/
def sectionRow (b : List Byte) (k : Nat) : Nat × Nat × Nat := (field b (0x10 + 16 * k) 4, field b (0x14 + 16 * k) 4, field b (0x18 + 16 * k) 4)
/-- The sections of a copy. -/
def sectionRows (b : List Byte) : List (Nat × Nat × Nat) := (range (min 16 (field b 0x0C 4))).map (sectionRow b)
/-- The bytes of the section of a type; nothing where it is absent. -/
def sectionOf (b : List Byte) (t : Nat) : List Byte :=
  match (sectionRows b).find? (fun r => decide (r.1 = t)) with
  | some r => slice b r.2.1 r.2.2
  | none => []

/-- Whether the header and section table keep Table 15.3 and R434. -/
def imageHeadOk (b : List Byte) : Bool :=
  let n := field b 0x0C 4; let len := field b 4 4
  let rows := sectionRows b
  let seven := sectionOf b 7
  let need (t : Nat) : Nat := match t with
    | 1 => 2592 | 2 => 256 | 3 => 128 | 4 => 384 | 7 => 4672 + 4 * (field seven 4 4 + field seven 8 4) | _ => 4627
  decide (field b 0 4 = 1) && decide (8192 ≤ len ∧ len ≤ 0x400000 ∧ len ≤ b.length) && decide (n = 7 ∨ n = 8)
    && (range 16).all (fun k => if k < n then zeroed b (0x1C + 16 * k) 4 else zeroed b (0x10 + 16 * k) 16) && zeroed b 0x110 3824
    && (range n).all (fun t => (rows.filter (fun r => decide (r.1 = t + 1))).length = 1)
    && rows.all (fun r => decide (r.2.1 % 4096 = 0 ∧ 4096 ≤ r.2.1 ∧ r.2.1 + r.2.2 ≤ len) && decide (r.2.2 = need r.1))
    && (range n).all (fun i => (range n).all (fun j => decide (i = j) ||
      !rangesMeet (sectionRow b i).2.1 (sectionRow b i).2.2 (sectionRow b j).2.1 (sectionRow b j).2.2))

/-- Whether section 2 keeps R435. -/
def configOk (c : List Byte) : Bool :=
  let v (k : Nat) : Nat := field c (0x44 + 2 * k) 2
  (decide (field c 0x40 1 = 8) || decide (field c 0x40 1 = 10)) && decide (field c 0x41 1 < 16)
    && ([4, 8, 16, 32] : List Nat).contains (field c 0x42 1) && zeroed c 0x43 1 && zeroed c 0x8A 118
    && (range 35).all (fun k => decide (650 ≤ v k ∧ v k ≤ 850)) && (range 34).all (fun k => decide (v k ≤ v (k + 1)))

/-- Whether section 3 keeps R436. -/
def meterOk (c : List Byte) : Bool :=
  let w (k : Nat) : Nat := field c (8 + 4 * k) 4
  decide (field c 0 8 ≠ 0) && (range 20).all (fun k => !f32bad (w k)) && (range 10).all (fun k => FV.zero.lt (ofF32 (w (2 * k))))
    && zeroed c 0x58 40

/-- The column record of a word (Table 15.23). -/
def colOf (w : Nat) : ColRec :=
  { cols := ([bits w 5 0, bits w 11 6, bits w 17 12] : List Nat).filter (fun c => decide (c ≠ 0x3F)), count := bits w 19 18
    rowFault := bit w 20, failed := bit w 21 }

/-- Whether a cluster record keeps Table 15.23. -/
def clusterRecOk (c : List Byte) (retired : Bool) : Bool :=
  if retired then zeroed c 0 128
  else
    let sl := (range 19).map (fun k => field c k 1)
    sl.all (fun k => decide (k < 19)) && decide sl.Nodup && zeroed c 0x13 1 && zeroed c 0x60 32
      && (range 19).all (fun k =>
        let w := field c (0x14 + 4 * k) 4
        let r := colOf w
        let l := ([bits w 5 0, bits w 11 6, bits w 17 12] : List Nat)
        decide (bits w 31 22 = 0) && r.cols.all (fun x => decide (x ≤ 32)) && decide (l.take r.cols.length = r.cols)
          && decide (r.cols.length = r.count) && decide (r.cols.Pairwise (· < ·)))

/-- Whether section 7 keeps R438. -/
def mapOk (m : List Byte) : Bool :=
  let nr := field m 4 4; let nh := field m 8 4; let ret := field m 0x10 8
  decide (nr ≤ 8192 ∧ nh ≤ 512) && zeroed m 0x0C 4 && decide (ret < 2 ^ 36) && zeroed m 0x18 40
    && (range 36).all (fun n => clusterRecOk (slice m (0x40 + 128 * n) 128) (bit ret n))
    && (range nr).all (fun k =>
      let e := field m (0x1240 + 4 * k) 4
      let mem := bits e 2 0
      decide (mem ≤ 4) && decide (bits e 8 3 < if mem = 4 then 2 else 36) && decide (bits e 13 9 < if mem ≤ 2 then 19 else 1) && !bit e 31)
    && (range nh).all (fun k => let e := field m (0x1240 + 4 * (nr + k)) 4; !bit e 3 || decide (bits e 31 16 = 0))

/-- The repair map of section 7 and its signature. -/
def repairOf (m sig : List Byte) : Repair :=
  let nr := field m 4 4; let nh := field m 8 4; let ret := field m 0x10 8
  let on := (range 36).filter (fun n => !bit ret n)
  { gen := field m 0 4, known := true, retired := ret
    slots := on.foldl (fun r n => mset (range 18) r n ((range 18).map (fun k => field m (0x40 + 128 * n + k) 1))) []
    cols := on.foldl (fun r n => (range 19).foldl (fun r k => mset {} r (19 * n + k) (colOf (field m (0x54 + 128 * n + 4 * k) 4))) r) []
    rows := (range nr).map (fun k => field m (0x1240 + 4 * k) 4)
    hbm := (range nh).map (fun k => field m (0x1240 + 4 * (nr + k)) 4)
    signature := sig }

/-- The first check of Table 15.5 that a copy fails; 0 if none. -/
def imageCode (b : List Byte) : Nat :=
  let s (t : Nat) : List Byte := sectionOf b t
  if !imageHeadOk b || !configOk (s 2) || !meterOk (s 3) || !mapOk (s 7) then 0x802
  else if Config.sha3 (s 1) ≠ Config.rootDigest then 0x801
  else if !Config.verify (s 1) ((range 5).flatMap (fun t => s (t + 1))) (s 6) then 0x801
  else if slice (s 2) 0 64 ≠ digestBytes (Config.sha3 Config.identityKey) then 0x803
  else if field b 0x0C 4 = 8 ∧ Config.verify Config.identityKey (digestBytes (Config.sha3 (s 7))) (s 8) = false then 0x801
  else 0

/-- What the security block keeps of a booted copy. -/
def imageOf (b : List Byte) : Image :=
  let c := sectionOf b 2; let m := sectionOf b 3
  { sections := (range 6).flatMap (fun t => sectionOf b (t + 1)), identity := slice c 0 64, endorsement := sectionOf b 5
    hbmRate := field c 0x40 1, flags := field c 0x41 1, volt := (range 35).map (fun k => field c (0x44 + 2 * k) 2)
    calId := field m 0 8, cal := (range 20).map (fun k => field m (8 + 4 * k) 4)
    sigs := (range 24).map (fun k => field (sectionOf b 4) (16 * k) 16) }

end Sys2Proof.Machine
end

