-- ==== Sys2Proof/Machine/Startup.lean ====
section
/-! DEFINITION. Boot and the resets (R317, R344, R431 to R433, R441 to R447, R452). -/

namespace Sys2Proof.Machine

/-! ## Boot (R441, R443 to R445) -/

/-- The copy tried first (R441). -/
def firstCopy (i0 i1 : List Byte) : Nat := if field i0 8 4 < field i1 8 4 then 1 else 0

/-- The copy that boots, if one passes, and the code of the copy tried first (R440, R441). -/
def chooseCopy (i0 i1 : List Byte) : Option Nat × Nat :=
  let at_ (k : Nat) : List Byte := if k = 0 then i0 else i1
  let a := firstCopy i0 i1
  if imageCode (at_ a) = 0 then (some a, 0)
  else if imageCode (at_ (1 - a)) = 0 then (some (1 - a), imageCode (at_ a))
  else (none, imageCode (at_ a))

/-- Both copies fail: the recovery state, in which no HBM and no slow tier is brought up, and PCIe comes up with the PF only (R441,
R443). -/
def State.recover (s : State) (copy code : Nat) : State :=
  { s with
    boot := { s.boot with state := .recovery, copy := copy, code := code, gen := 0, step := 0, image := {} }
    pci := { s.pci with training := s.power.perst, numVfs := 0, vfEnable := false }
    hbm := { s.hbm with service := 0 }
    evl := { s.evl with lost := [0, 1] } }

/-- The repair map after step 4: the image's at a cold reset, the newer of the held one, if the
security block holds one, and the image's at a warm one (R445, Table 15.7). -/
def bootMap (warm : Bool) (held image : Repair) : Repair :=
  if warm ∧ held.known ∧ image.gen ≤ held.gen then held else { image with waiting := if warm then held.waiting else [] }

/-- Whether a decision takes effect at a warm or cold reset (Table 14.4). -/
def Decision.atReset (d : Decision) : Bool :=
  match d with
  | .hbmRow _ => true
  | .row m _ _ _ => decide (m = 4)
  | _ => false

/-- Training adds the lanes it finds marginal (R438). -/
def State.addLanes (s : State) (lanes : List (Nat × Nat)) : State :=
  let new := ((lanes.map (fun l => l.1 % 8 + 8 + 16 * (l.2 % 4096))).filter (fun e => !s.repair.hbm.contains e)).take
    (512 - s.repair.hbm.length)
  if new = [] then s
  else { s with repair := { s.repair with hbm := s.repair.hbm ++ new } }.newGeneration

/-- The measurements of a booted copy (R452): registers 0 to 3. -/
def State.measureBoot (s : State) (b : List Byte) (copy : Nat) : State :=
  let s := s.extend 0 (Config.sha3 s.boot.image.sections)
  let s := s.extend 1 (Config.sha3 (sectionOf b 7))
  let s := s.extend 2 (Config.measured 2 [0xB0, copy, field b 8 4])
  s.extend 3 (Config.measured 3 (b2n s.power.mgrSel :: b2n s.power.smbAddr :: (sectionOf b 2).map BitVec.toNat))

/-- The interleaving mode has changed: what HBM holds is undefined (R198). -/
def State.scrambleHbm (s : State) : State :=
  { s with
    mem := s.mem.filter (fun e => decide (regionOf e.1 ≠ Region.hbm))
    bad := s.bad.filter (fun b => decide (regionOf b ≠ Region.hbm))
    hbm := { s.hbm with undef := some s.tick } }.advance

/-- HBM takes the image's interleaving mode; after a warm reset it may be another one than before (R198). -/
def State.loadIlv (s : State) (mode : Nat) : State :=
  if s.boot.cause ≠ 0 ∧ s.hbm.ilv ≠ mode then
    { s.scrambleHbm with hbm := { s.scrambleHbm.hbm with ilv := mode } }
  else { s with hbm := { s.hbm with ilv := mode } }

/-- Steps 4 to 8 of Table 15.6 with a copy that has passed its checks. -/
def State.bootFrom (s : State) (b : List Byte) (copy failedStacks : Nat) (lanes : List (Nat × Nat)) : State :=
  let im := imageOf b
  let c := sectionOf b 2
  let s := s.loadIlv (im.flags % 2)
  let s : State := { s with
    boot := { s.boot with state := .ready, copy := copy, step := 0, code := 0, gen := field b 8 4, image := im }
    repair := bootMap (decide (s.boot.cause ≠ 0)) s.repair (repairOf (sectionOf b 7) (sectionOf b 8))
    hbm := { s.hbm with
      tableGib := field c 0x42 1
      service := total ((range 8).map (fun n => if bit failedStacks n then 0 else 2 ^ n)) }
    ing0 := { s.ing0 with state := b2n (bit im.flags 1) }
    ing1 := { s.ing1 with state := b2n (bit im.flags 2) }
    pci := { s.pci with training := s.power.perst } }
  let s := s.measureBoot b copy
  let s := (s.settleDecisions Decision.atReset).addLanes lanes
  let s := (range 18).foldl (fun (s : State) p => s.modPort p (fun x => { x with state := 1 })) s
  s.setClock

/-- PWR_GOOD is high and the sequencer runs: the straps are sampled once since it rose, and SYS_BOOT.STEP shows the step (R431, R444). -/
def State.runBoot (s : State) (r : BootRun) : State :=
  let p := { s.power with good := true, stopped := false }
  { s with
    power := if p.sampled then p else { p with mgrSel := r.mgrSel, smbAddr := r.smbAddr, sampled := true }
    boot := { s.boot with step := max s.boot.step (max 1 (min 8 r.step)) } }

/-- BOOT (R431, R441, R443, R444): the sequencer's run after a reset, up to a step of Table 15.6 or to its end, with the two copies that
the flash holds, the stacks that fail training and the lanes that training finds marginal. What the steps do takes effect as the last one
ends (log 87). -/
def execBoot (i0 i1 : List Byte) (failedStacks : BootRun) (lanes : List (Nat × Nat)) (s : State) : Out State :=
  if (s.power.stopped && s.power.good) || decide (s.boot.state ≠ .booting) then .next s
  else
    let s := s.runBoot failedStacks
    if failedStacks.step < 8 then .next s
    else
      match chooseCopy i0 i1 with
      | (some k, _) => .next (s.bootFrom (if k = 0 then i0 else i1) k failedStacks.failed lanes)
      | (none, code) => .next (s.recover (firstCopy i0 i1) code)

/-! ## Resets (R433, R446, Table 15.7) -/

/-- What no reset touches: the queue, the model's counter, and what stands outside the package. -/
def State.afterReset (s : State) : State :=
  { State.reset with pending := s.pending, tick := s.tick, hostMem := s.hostMem, out := s.out }

/-- The pins that the board drives, at a reset. -/
def Power.pins (p : Power) : Power := { resetN := p.resetN, brakeN := p.brakeN }

/-- COLD_RESET (R433): PWR_GOOD has fallen, and every clock stops; the clock that runs when it rises again keeps the brake's limit (R450). -/
def execColdReset (s : State) : Out State :=
  let p := s.power.pins
  .next { s.afterReset with power := { p with good := false, stopped := true, current := p.wanted } }

/-- Whether a warm reset keeps the byte at a physical offset: HBM and the slow tier (Table 15.7). -/
def keptAddr (a : Nat) : Bool := decide (regionOf a = .hbm) || decide (regionOf a = .slow)

/-- The 64-byte units of a store, each as a store of its own. -/
def Req.blocks (q : Req) : List Req :=
  let e := q.pa + q.data.length
  (range (q.data.length / 64 + 2)).filterMap (fun k =>
    let lo := max q.pa ((q.pa / 64 + k) * 64); let hi := min e ((q.pa / 64 + k + 1) * 64)
    if lo < hi then some { q with pa := lo, data := slice q.data (lo - q.pa) (hi - lo), low := if hi = e then q.low else 0 } else none)

/-- The stores in flight at a warm reset: of each, any 64-byte unit may be new (Table 15.7). -/
def State.landSome (s : State) : State :=
  (s.cores.flatMap (fun (e : Nat × Core) => (e.2.ramb.reqs.filter Req.localStore).flatMap Req.blocks)).foldl
    (fun (t : State) q => if Config.landsAtReset s.tick (q.pa / 64) then t.landStore q else t) s

/-- WARM_RESET (R431, R445, R446): SYS_RESET_N, or PERST# where `perst`. The core clock moves to its reset value as R430 lets it, or to
what the brake allows (R450). -/
def execWarmReset (perst : Bool) (s : State) : Out State :=
  if s.power.stopped || !s.power.good then .next s
  else
    let cause := if perst then 2 else 1
    let s := if s.cores.any (fun (e : Nat × Core) => e.2.ramb.reqs.any Req.localStore) then s.landSome.advance else s
    let t : State := { s.afterReset with
      hbm := { ilv := s.hbm.ilv, undef := s.hbm.undef }
      pci := if perst then {} else { width := s.pci.width, rate := s.pci.rate }
      mem := s.mem.filter (fun e => keptAddr e.1)
      bad := s.bad.filter keptAddr
      sys := { time := s.sys.time }
      repair := s.repair
      mtr := s.mtr
      ctxRegs := (s.ctxRegs.map (fun (e : Nat × CtxRegs) =>
        (e.1, ({ serial := e.2.serial, active := e.2.active } : CtxRegs)))).filter (fun e => decide (e.2 ≠ {}))
      power := { s.power.pins with
        perst := s.power.perst && !perst, vout := s.power.vout, tripN := s.power.tripN, current := s.power.current
        mgrSel := s.power.mgrSel, smbAddr := s.power.smbAddr, sampled := s.power.sampled }
      boot := { cause := cause, image := s.boot.image, measure := s.boot.measure, debugUsed := s.boot.debugUsed, lanternUsed := s.boot.lanternUsed } }
    .next (t.setClock.extend 4 (Config.measured 4 [cause]))

/-- What a function-level reset does to a context: it ends, and its own fields return to reset (R8, R344, R446); its meter serial and
active time are the meter's counts. -/
def State.resetCtx (s : State) (x : Nat) : State :=
  let s := (s.destroy x).modCreg x (fun r => { serial := r.serial, active := r.active })
  let s := s.modWmk (fun m => { m with sat := clearBit m.sat x, handset := clearBit m.handset x })
  { s with sys := { s.sys with clampCtx := clearBit s.sys.clampCtx x } }

/-- The contexts a function owns end, and its rings, window, PCI_ block and MSI-X state return to reset (R344). -/
def State.resetFn (s : State) (f : Nat) : State :=
  let s := (s.ctxs.filter (fun e => decide (e.2.fn = f))).foldl (fun (s : State) e => s.resetCtx e.1) s
  { s with pci := { s.pci with fns := mdel s.pci.fns f } }

/-- FUNCTION_LEVEL_RESET (R344). -/
def execFunctionLevelReset (f : Nat) (s : State) : Out State :=
  if s.power.stopped || !s.fnExists f then .next s
  else if f = 0 then
    let s := (range 64).foldl State.resetFn s
    .next { s with pci := { s.pci with vfEnable := false, numVfs := 0, limits := [], bar4 := 4 } }
  else .next (s.resetFn f)

/-- PERST_RELEASE (R317, R444): PERST# rises, which it does only behind PWR_GOOD (R432), and the link trains, whatever the boot sequencer has
come to, to a width and a rate that the other end has a part in (log 21). -/
def execPerstRelease (s : State) : Out State :=
  let trip := s.power.stopped && s.power.good
  .next (State.advance { s with
    power := { s.power with perst := true, good := true, stopped := trip }
    pci := { s.pci with
      training := !trip
      width := 2 ^ (Config.linkWidth s.tick % 5), rate := Config.linkRate s.tick % 6 } })

/-- NumVFs and VF Enable are written (R317, R443): a VF that ceases to exist is reset as R344 resets it; NumVFs stays 0 in recovery. -/
def State.writeVfs (s : State) (n : Nat) (enable : Bool) : State :=
  let m := if s.boot.state = .recovery then 0 else min n 63
  let t : State := { s with pci := { s.pci with numVfs := m, vfEnable := enable } }
  ((range 64).filter (fun f => s.fnExists f && !t.fnExists f)).foldl State.resetFn t

/-- A function's MSI-X Enable and Function Mask are written: what is pending and no longer masked is sent (R329). -/
def State.writeMsixCap (s : State) (f : Nat) (enable mask : Bool) : State :=
  if s.fnExists f then (s.modFn f (fun x => { x with msixOn := enable, msixMask := mask })).sendPending f else s

/-- VF_ENABLE: a write of the host to a capability of a function's configuration space (R317, R318, R329); until boot ends it completes with
Configuration Request Retry Status (R444). -/
def execVfEnable (w : CfgWrite) (enable : Bool) (s : State) : Out State :=
  if s.power.stopped then .next s
  else if s.boot.state = .booting then .next (s.emit .cfgRetry)
  else
    match w with
    | .vfs n => .next (s.writeVfs n enable)
    | .msix f mask => .next (s.writeMsixCap f enable mask)
    | .bar4 k => .next { s with pci := { s.pci with bar4 := if k ≤ 6 then k else s.pci.bar4 } }
    | .aer f b => .next (s.modFn f (fun x => { x with aer := x.aer - (x.aer &&& b) }))

end Sys2Proof.Machine
end

