-- ==== Sys2Proof/Machine/Registers.lean ====
section
/-! DEFINITION. Register space (R7 to R9, R319 to R321, Table 11.3): the value of every register, as 64-bit words at
offsets that are multiples of 8. A 32-bit register is half of its word. -/

namespace Sys2Proof.Machine

/-! ## SYS_ -/

/-- SYS_PD_ONk (Table 1.7). -/
def State.pdOn (s : State) (k : Nat) : Nat := total ((range 32).map (fun n => if s.domainOn (32 * k + n) then 2 ^ n else 0))

/-- SYS_CDC_LOG (Table 1.8). -/
def CdcLog.value (l : CdcLog) : Nat := l.crossing.toNat + 2 ^ 24 * b2n l.closed + 2 ^ 31 * b2n l.valid

/-- The granules of stash reservations of a tier whose owner `p` accepts: for tier 0 the core, for tier 1 the cluster. -/
def State.stashUsed (s : State) (tier : Nat) (p : Nat → Bool) : Nat :=
  total (s.trh.graphs.map (fun (e : Nat × Graph) =>
    if e.2.stash = [] then 0
    else
      let h := e.2.header
      let per := if tier = 0 then max 1 (field h 4 4 / 64) else max 1 (field h 8 4 / 64)
      ((e.2.stash.flatMap Stash.granules).filter (fun g => decide (g.1 = tier) && (decide (tier = 2) || p (g.2 / per)))).length))

/-- SYS_HAMPER (Table 8.12). -/
def State.sysHamper (s : State) : Nat := s.stashUsed 2 (fun _ => true) % 2 ^ 24 + 2 ^ 32 * s.sys.demoted

/-- SYS_ERRLOG_PTR (Table 14.10). -/
def ErrLog.ptr (l : ErrLog) : Nat := l.wr + 2 ^ 12 * b2n l.full + 2 ^ 16 * l.rd + 2 ^ 32 * l.ovf

/-- The 32 bytes of a log entry (Table 14.2). -/
def ErrEntry.bytes (e : ErrEntry) : List Byte :=
  toBytes 8 e.time ++ toBytes 2 e.code ++ toBytes 1 e.kind ++ toBytes 1 e.ctx ++ toBytes 4 e.source ++ toBytes 8 e.detail
    ++ toBytes 4 e.count ++ toBytes 4 0

/-- SYS_BOOT (Table 15.14). -/
def Boot.value (b : Boot) : Nat :=
  (match b.state with | .booting => 0 | .ready => 1 | .recovery => 2) + 4 * (b.copy % 2) + 8 * (b.step % 8) + 2 ^ 16 * (b.code % 65536)
    + 2 ^ 32 * b.gen

/-- SYS_DVFS (Table 15.16). -/
def Power.dvfs (p : Power) : Nat :=
  p.target + 2 ^ 11 * p.current + 2 ^ 22 * b2n (decide (p.thermal < p.target)) + 2 ^ 23 * b2n (!p.brakeN)

/-- SYS_THERMAL (Table 15.17). -/
def Power.thermalReg (p : Power) : Nat := p.hottest + 256 * p.sensor + 2 ^ 32 * p.throttleMs

/-- The SYS_ block. -/
def State.sysReg (s : State) (o : Nat) : Nat :=
  if 0x4000 ≤ o then field (s.repairMap ++ slice s.repair.signature 0 4627) (o - 0x4000) 8
  else match o with
  | 0x100 => s.present
  | 0x110 => s.pdOn 0 + 2 ^ 32 * s.pdOn 1
  | 0x118 => s.pdOn 2
  | 0x120 => s.sys.cdc.value + 2 ^ 32 * s.sys.cdcCount
  | 0x200 => s.sys.clampCtx.toNat
  | 0x208 => s.sys.clampCount
  | 0x300 => s.sysHamper
  | 0x400 => s.sys.log.ptr
  | 0x408 => s.sys.log.sel
  | 0x410 | 0x418 | 0x420 | 0x428 =>
    match mfind s.sys.log.entries s.sys.log.sel with
    | some e => field e.bytes (o - 0x410) 8
    | none => 0
  | 0x500 => s.sys.time
  | 0x600 => s.boot.value
  | 0x608 => s.boot.cause
  | 0x610 => s.power.dvfs
  | 0x618 => s.power.thermalReg
  | _ => 0

/-! ## PCI_ (Tables 11.15 to 11.22) -/

/-- PCI_CRn. -/
def CRing.value (c : CRing) : Nat := b2n c.enable + 2 * b2n c.loc + 4 * c.log2 + 64 * c.cq + c.base
/-- PCI_CQn. -/
def CQueue.value (c : CQueue) : Nat := b2n c.enable + 2 * b2n c.loc + 4 * c.log2 + 64 * c.vector + c.base

/-- A function's PCI_ block; the limits only in the PF's (R321). -/
def State.pciReg (s : State) (f o : Nat) : Nat :=
  let x := s.fnOf f
  if o < 0x40 then
    let c := x.crOf (o / 16)
    if o % 16 = 0 then c.value else c.head + 2 ^ 16 * b2n c.error
  else if o < 0xC0 then
    let c := x.cqOf ((o - 0x40) / 32)
    if o % 32 = 0 then c.value
    else if o % 32 = 8 then c.tail + 2 ^ 16 * b2n c.phase + 2 ^ 17 * b2n c.error + 2 ^ 32 * (c.count + 2 ^ 8 * c.delay)
    else 0
  else if o = 0xC0 then x.win.toNat
  else if o = 0xC8 then x.eventsLost + 2 ^ 32 * x.badAccess + 2 ^ 48 * s.pci.width + 2 ^ 53 * s.pci.rate
  else if 0x800 ≤ o ∧ o < 0x840 then fromBytes (mread 0 x.msix (o - 0x800) 8)
  else if o = 0x900 then x.pba
  else if f = 0 ∧ 0x1008 ≤ o ∧ o < 0x1200 then (mget 0 s.pci.limits ((o - 0x1000) / 8)).toNat
  else 0

/-! ## TRH_, WMK_, HBM_, EVL_ -/

/-- Unfinished graphs and active tasks of a context. -/
def State.ctxGraphs (s : State) (x : Nat) : List Graph := (s.trh.graphs.map Prod.snd).filter (fun g => decide (g.ctx = x))

/-- The TRH_ block (Tables 10.9 to 10.12). -/
def State.trhReg (s : State) (o : Nat) : Nat :=
  match o with
  | 0 => s.activeCount + 2 ^ 15 * b2n (s.trh.graphs.any (fun (e : Nat × Graph) => decide (e.2.spill ≠ []))) + 2 ^ 16 * s.trh.graphs.length
  | 8 => s.trh.sel
  | 0x10 =>
    match s.ctx s.trh.sel with
    | none => 0
    | some c =>
      let l := s.ctxGraphs s.trh.sel
      (if c.suspended then 2 else 1) + 4 * c.prio + 16 * l.length + 2 ^ 16 * total (l.map Graph.activeCount) + 2 ^ 32 * c.failed
  | 0x18 => s.trh.dispatched
  | _ => 0

/-- The WMK_ block (Tables 10.13 to 10.15). -/
def State.wmkReg (s : State) (o : Nat) : Nat :=
  if o < 288 then bankUsed s.wmk.binds (o / 8) + 2 ^ 16 * s.watches (o / 8) + 2 ^ 32 * (s.cluster (o / 8)).adds
  else if o = 0x200 then s.wmk.sat.toNat
  else if o = 0x208 then s.wmk.handset.toNat
  else 0

/-- The HBM_ block (Tables 6.13 to 6.15). -/
def State.hbmReg (s : State) (o : Nat) : Nat :=
  if o = 0 then s.hbm.ilv
  else if o = 8 then s.hbm.tableGib
  else if 0x100 ≤ o ∧ o < 0x140 then
    let n := (o - 0x100) / 8
    mget 0 s.hbm.occupancy n + 2 ^ 12 * b2n (bit s.hbm.stopped n) + 2 ^ 16 * mget 0 s.hbm.stopNs n
  else 0

/-- Records of a die with a round or an update in progress (Table 9.7). -/
def State.recsActive (s : State) (d : Nat) : Nat :=
  (s.evl.recs.filter (fun (e : Nat × Rec) => decide (e.2.die = d) && (decide (e.2.present ≠ []) || decide (e.2.phase ≠ UpPhase.taking)))).length

/-- EVL_CTX of a die. -/
def Evile.sel (v : Evile) (d : Nat) : Nat := if d = 0 then v.ctx0 else v.ctx1

/-- The EVL_ block of a die (Tables 9.7 to 9.10). -/
def State.evlReg (s : State) (d o : Nat) : Nat :=
  match o with
  | 0 => s.evileState d + 4 * s.landingUsed d + 2 ^ 13 * min 4095 (s.recsActive d)
  | 8 => mget 0 s.evl.committed d + 2 ^ 32 * mget 0 s.evl.withheld d
  | 0x10 =>
    let g := ((s.ctx (s.evl.sel d)).map Ctx.gens).getD []
    ((g[0]?).map Gen.step).getD 0 + 2 ^ 32 * ((g[1]?).map Gen.step).getD 0
  | 0x18 => s.evl.sel d
  | _ => 0

/-! ## NXP_, ING_ -/

/-- NXP_ID (Table 12.12). -/
def State.nxpId (s : State) : Nat :=
  s.nxp.device + 2 ^ 15 * s.nxp.hall + 2 ^ 16 * s.nxp.epoch + 2 ^ 32 * s.nxp.role + 2 ^ 34 * b2n s.managerMode

/-- NXP_PORTn (Table 12.15). -/
def Port.value (p : Port) : Nat := p.state + 4 * p.spare + 32 * p.failed + 2 ^ 16 * p.replays + 2 ^ 32 * p.fec

/-- NXP_JOBn (Table 12.16). -/
def CtxRegs.jobReg (r : CtxRegs) : Nat := r.job + 2 ^ 16 * b2n r.export_ + 2 ^ 18 * r.members

/-- The NXP_ block of a port die (Tables 12.12 to 12.17). Offset 0x300 is both NXP_JOB32 and NXP_MGR: it reads NXP_MGR (DESIGN CHOICE,
log 83). -/
def State.nxpReg (s : State) (d o : Nat) : Nat :=
  if o = 0 then s.nxpId
  else if o = 8 then s.nxp.eventCq + 4 * s.nxp.resendUs
  else if o = 0x10 then
    s.tagsUsed d + 2 ^ 16 * cdiv (s.reorderBytes d true + s.reorderBytes d false) 1024
      + 2 ^ 32 * (if d = 0 then s.nxp.drops0 else s.nxp.drops1)
  else if 0x100 ≤ o ∧ o < 0x148 then (s.port (9 * d + (o - 0x100) / 8)).value
  else if 0x200 ≤ o ∧ o < 0x400 then
    if o = 0x300 then s.nxp.mgr + 4 * b2n s.nxp.pair + 2 ^ 32 * s.nxp.term else (s.creg ((o - 0x200) / 8)).jobReg
  else 0

/-- The ING_ block of a port die (Tables 13.5 to 13.7). -/
def State.ingReg (s : State) (d o : Nat) : Nat :=
  let e := s.engine d
  match o with
  | 0 => (if bit s.nxp.diesLost d then 2 else e.state) + 4 * e.streams.length
  | 8 => e.gops + 2 ^ 32 * e.unsupported
  | 0x10 => e.samples
  | _ => 0

/-! ## THM_, RCL_, MTR_, LNT_ -/

/-- THM_STATUS (Table 14.18). -/
def State.thmStatus (s : State) (x : Nat) : Nat :=
  let r := s.creg x
  let c := s.ctx x
  let st := if (c.map Ctx.replaying).getD false then 2 else if (c.bind Ctx.ckpt).isSome then 1 else 0
  st + 4 * r.valid + 256 * (c.map Ctx.replays).getD 0 + 2 ^ 32 * r.last

/-- The THM_ block (Tables 14.14 to 14.18). -/
def State.thmReg (s : State) (o : Nat) : Nat :=
  let r := s.creg s.thmSel
  match o with
  | 0 => s.thmSel
  | 0x10 => r.boundary
  | 0x18 => r.localAt
  | 0x20 => r.slotSize
  | 0x28 => r.mirrorAt
  | 0x30 => r.remoteAt
  | 0x38 => r.policy
  | 0x40 => s.thmStatus s.thmSel
  | _ => 0

/-- The RCL_ block (Tables 14.19, 14.20). -/
def State.rclReg (s : State) (o : Nat) : Nat :=
  let n := s.rcl.sel % 64; let b := s.rcl.sel / 64
  let sig := if n < 36 ∧ b < 24 then mget 0 s.rcl.misr (24 * n + b) else 0
  if o = 0 then s.rcl.sel
  else if o = 8 then sig % 2 ^ 64
  else if o = 0x10 then sig / 2 ^ 64
  else if 0x100 ≤ o ∧ o < 0x220 then (mget 0 s.rcl.results ((o - 0x100) / 8)).toNat
  else 0

/-- MTR_STATUS (Table 15.18). -/
def Meter.status (m : Meter) : Nat := m.newestFlags % 16 + 16 * b2n m.chained + 2 ^ 32 * (m.newest % 2 ^ 32)

/-- LNT_STATUS (Table 15.31). -/
def Lantern.status (l : Lantern) : Nat := l.state + 4 * b2n l.jtag + 2 ^ 16 * l.code

/-- The LNT_ block (Tables 15.27 to 15.31); LNT_CMD reads 0. -/
def State.lntReg (s : State) (o : Nat) : Nat :=
  match o with
  | 0 => s.lnt.addr.toNat
  | 8 => s.lnt.data.toNat
  | 0x10 => s.lnt.ctx.toNat
  | 0x20 => s.lnt.status
  | _ => 0

/-! ## CLS_ and CORE_ -/

/-- Staging slots of a channel that hold chunks some member has not taken (Table 7.10). -/
def Cluster.slots (k : Cluster) (ch : Nat) : Nat := (k.chunks.filter (fun q => decide (q.channel = ch ∧ q.members ≠ []))).length

/-- Whether a cluster is in training mode (R232): a core of it runs a triad task. -/
def State.training (s : State) (n : Nat) : Bool :=
  (range 18).any (fun k =>
    match (s.core (18 * n + k)).task with
    | none => false
    | some t => match s.graph t.graph with
      | some x => (s.triadForm x t.task).isSome
      | none => false)

/-- The CLS_ block of a cluster (Tables 6.12, 7.10, 8.11). -/
def State.clsReg (s : State) (n o : Nat) : Nat :=
  let k := s.cluster n
  match o with
  | 0x100 => k.coalesced
  | 0x108 => k.slots 0 + 8 * k.slots 1 + 64 * k.slots 2 + 512 * k.slots 3 + 2 ^ 16 * k.deliveries
  | 0x110 =>
    s.stashUsed 0 (fun c => decide (c / 18 = n)) + 2 ^ 16 * s.stashUsed 1 (fun m => decide (m = n)) + 2 ^ 32 * b2n (s.training n)
  | _ => 0

/-- CORE_SEQ.STATE (Table 4.9). -/
def State.seqState (s : State) (c : Nat) : Nat :=
  let k := s.core c
  match k.seq with
  | .idle => 0
  | .faulted => 5
  | q => if k.task.isSome && s.interrupting c then 4 else match q with
    | .issuing => 1
    | .atWait => 2
    | .atFence => 3
    | _ => 4

/-- The bits of the keys of a map whose entries `p` accepts. -/
def keyBits {α : Type} (m : Map α) (p : α → Bool) : Nat := total ((m.filter (fun e => p e.2)).map (fun e => 2 ^ e.1))

/-- CORE_SEQ (Table 4.9). -/
def State.seqReg (s : State) (c : Nat) : Nat :=
  let l := (s.core c).live; let st := s.seqState c
  l.pc % 1024 + 2 ^ 10 * st
    + (if st = 0 then 0
       else 2 ^ 13 * l.loops.length + 2 ^ 16 * l.pendings.length + 2 ^ 20 * keyBits l.tregs TReg.inUse)

/-- CORE_ACC_INUSE (Table 3.15). -/
def Core.accInuse (k : Core) : Nat := if k.seq = .idle then 0 else keyBits k.live.acc AccTile.inUse

/-- CORE_MODE (Table 3.16). -/
def State.modeReg (s : State) (c : Nat) : Nat :=
  let k := s.core c
  (if k.wide then 1 else if (s.cluster (clusterOf c)).mode = .rollcall then 2 else 0) + 4 * k.t1 + 64 * k.t2
    + 2 ^ 10 * b2n k.live.carry.isSome

/-- CORE_FAULT (Table 4.10). -/
def CoreFault.value (f : CoreFault) : Nat := f.code + 2 ^ 16 * (f.pc % 1024) + 2 ^ 26 * b2n f.valid + 2 ^ 32 * f.ctx

/-- CORE_RMB.STOP (Table 6.9). -/
def RStop.code : RStop → Nat
  | .stepping => 0
  | .wait => 1
  | .fence => 2
  | .ahead => 3
  | .full => 4
  | .ended => 5
  | .noTask => 6

/-- CORE_RMB (Table 6.9). -/
def State.rmbReg (s : State) (c : Nat) : Nat :=
  let m := (s.core c).ramb
  s.tagsOf c + 2 ^ 8 * s.lqUsed c + 2 ^ 17 * (m.reqs.filter (fun q => !q.load)).length
    + 2 ^ 24 * m.wq.length + 2 ^ 32 * m.ahead + 2 ^ 39 * m.stop.code

/-- The CORE_ block of a logical core (Tables 2.11, 3.14 to 3.16, 4.9 to 4.11, 6.9 to 6.11). -/
def State.coreReg (s : State) (c o : Nat) : Nat :=
  let k := s.core c
  match o with
  | 0 => s.width c + 64 * min 3 (s.colRec (s.siteOf c)).count
  | 8 => k.accInuse
  | 0x10 => s.modeReg c
  | 0x20 => s.seqReg c
  | 0x28 => k.fault.value
  | 0x30 => k.fault.insn.toNat
  | 0x40 => s.rmbReg c
  | 0x48 => k.ramb.refetch
  | 0x50 => k.ramb.dropped
  | 0x80 => k.flags.toNat
  | _ => 0

/-! ## The PF's BAR0 (Table 11.3) -/

/-- A register block. -/
inductive Block where
  | sys
  | pci
  | trh
  | wmk
  | hbm
  | evl (d : Nat)
  | nxp (d : Nat)
  | ing (d : Nat)
  | thm
  | rcl
  | mtr
  | lnt
  | cls (n : Nat)
  | core (c : Nat)
  deriving DecidableEq, Repr

/-- The block of a PF BAR0 offset, and the offset in it (Table 11.3). -/
def blockOf (o : Nat) : Option (Block × Nat) :=
  if o < 0xF0000 then
    let b : Block := match o / 65536 with
      | 0 => .sys
      | 1 => .pci
      | 2 => .trh
      | 3 => .wmk
      | 4 => .hbm
      | 5 => .evl 0
      | 6 => .evl 1
      | 7 => .nxp 0
      | 8 => .nxp 1
      | 9 => .ing 0
      | 0xA => .ing 1
      | 0xB => .thm
      | 0xC => .rcl
      | 0xD => .mtr
      | _ => .lnt
    some (b, o % 65536)
  else if 0x100000 ≤ o ∧ o < 0x340000 then some (.cls ((o - 0x100000) / 65536), o % 65536)
  else if 0x400000 ≤ o ∧ o < 0x688000 then some (.core ((o - 0x400000) / 4096), o % 4096)
  else none

/-- Whether BAR0 reaches a block: in recovery only SYS_, PCI_ and MTR_ (R443); never the cores of a retired cluster (R320). -/
def State.reaches (s : State) (b : Block) : Bool :=
  (decide (s.boot.state ≠ .recovery) || ([.sys, .pci, .mtr] : List Block).contains b) && match b with
    | .cls n => !s.retired n
    | .core c => !s.retired (clusterOf c)
    | _ => true

/-- The cluster whose crossing a register access passes, if any. -/
def Block.cluster : Block → Option Nat
  | .cls n => some n
  | .core c => some (clusterOf c)
  | _ => none

/-- The island that holds a block's registers, where Table 1.5 tells it. -/
def Block.island : Block → Option Nat
  | .cls n => some n
  | .core c => some (clusterOf c)
  | .pci => some 0x38
  | .trh => some 0x34
  | .evl d => some (0x49 + 4 * d)
  | .nxp d => some (0x40 + 4 * d)
  | .ing d => some (0x41 + 4 * d)
  | .rcl | .lnt => some 0x37
  | .mtr => some 0x36
  | .sys | .wmk | .hbm | .thm => none

/-- The crossing that a register access from an island would pass and that does not serve (R28, R29): one into a cluster; for another
block, whose registers the control plane reaches, only a quarantined one. -/
def State.blockBarred (s : State) (from_ : Nat) (b : Block) : Option (BitVec 24) :=
  match b.island with
  | some t => if t = 0x36 then none else s.barred (some from_) t
  | none => none

/-- The 64-bit word of a block at an offset that is a multiple of 8. -/
def State.blockReg (s : State) (b : Block) (o : Nat) : Nat :=
  match b with
  | .sys => s.sysReg o
  | .pci => s.pciReg 0 o
  | .trh => s.trhReg o
  | .wmk => s.wmkReg o
  | .hbm => s.hbmReg o
  | .evl d => s.evlReg d o
  | .nxp d => s.nxpReg d o
  | .ing d => s.ingReg d o
  | .thm => s.thmReg o
  | .rcl => s.rclReg o
  | .mtr => if o = 0 then s.mtr.status else 0
  | .lnt => s.lntReg o
  | .cls n => s.clsReg n o
  | .core c => s.coreReg c o

/-- What a read of 8 bytes of the PF's BAR0 returns; none where it completes with Unsupported Request (R320). In recovery every offset
outside three blocks reads 0 (R443). -/
def State.bar0 (s : State) (o : Nat) : Option W64 :=
  if o % 8 ≠ 0 then none
  else match blockOf o with
    | some e => some (if s.reaches e.1 then BitVec.ofNat 64 (s.blockReg e.1 e.2) else 0)
    | none => if s.boot.state = .recovery then some 0 else none

end Sys2Proof.Machine
end

