-- ==== Sys2Proof/Machine/Bars.lean ====
section
/-! DEFINITION. Writes of registers (R7, R9, R198, R320, R321, R324, R326 to R329, R343, R361, R450) and the BAR4 window (R322). -/

namespace Sys2Proof.Machine

/-- The bits of a word that a write covers, replaced. -/
def mergeBits (old v m : Nat) : Nat := (old &&& (2 ^ 64 - 1 - m)) ||| (v &&& m)
/-- A W1C mask: a 1 clears the bit (R7). -/
def w1c (old : W64) (v : Nat) : W64 := old &&& ~~~(BitVec.ofNat 64 v)

/-! ## PCI_ -/

/-- A ring's LOC after a write: a VF's write of 1 is ignored (Table 11.15). -/
def locAfter (f : Nat) (old new : Bool) : Bool := new && (decide (f = 0) || old)

/-- A write of PCI_CRn (R326, Table 11.15). -/
def State.writeCr (s : State) (f r v : Nat) : State :=
  let c := (s.fnOf f).crOf r
  if c.enable then (if bit v 0 then s else s.modCr f r (fun c => { c with enable := false }))
  else
    let on := bit v 0 && decide (6 ≤ bits v 5 2)
    let s := s.modCr f r (fun c => { c with
      loc := locAfter f c.loc (bit v 1), log2 := bits v 5 2, cq := bits v 7 6, base := v / 4096 * 4096 })
    if on then s.modCr f r (fun c => { c with enable := true, error := false, head := 0, tail := 0 }) else s

/-- A write of PCI_CQn (R327, R328, Table 11.17): disabling discards what the ring holds, enabling starts its first pass. -/
def State.writeCq (s : State) (f r v : Nat) : State :=
  let c := (s.fnOf f).cqOf r
  if c.enable then
    if bit v 0 then s
    else
      let s := s.modCq f r (fun c => { c with enable := false, held := [], unsignalled := 0 })
      c.held.foldl (fun (s : State) _ => s.discardReply f r) s
  else
    let on := bit v 0 && decide (6 ≤ bits v 5 2)
    let s := s.modCq f r (fun c => { c with
      loc := locAfter f c.loc (bit v 1), log2 := bits v 5 2, vector := bits v 7 6, base := v / 4096 * 4096 })
    if on then s.modCq f r (fun c => { c with enable := true, error := false, tail := 0, head := 0, phase := true, unsignalled := 0 })
    else s

/-- A write of PCI_CQ_INTRn (Table 11.19). -/
def State.writeIntr (s : State) (f r v : Nat) : State := s.modCq f r (fun c => { c with count := bits v 7 0, delay := bits v 23 8 })

/-- A write of PCI_WIN (R322, Table 11.20). -/
def State.writeWin (s : State) (f v : Nat) : State :=
  let phys := bit v 54 && (decide (f = 0) || bit (s.fnOf f).win.toNat 54)
  let on := bit v 55 && (phys || s.owns f (bits v 53 48))
  let w := bits v 47 16 * 2 ^ 16 + bits v 53 48 * 2 ^ 48 + b2n phys * 2 ^ 54 + b2n on * 2 ^ 55
  s.modFn f (fun x => { x with win := BitVec.ofNat 64 w })

/-- A write of a word of the MSI-X table (R329): vector control has its mask bit alone. -/
def State.writeMsix (s : State) (f o v : Nat) : State :=
  let v := if o % 16 = 8 then v % 2 ^ 33 else v
  (s.modFn f (fun x => { x with msix := mwrite 0 x.msix o (toBytes 8 v) })).sendPending f

/-- A write of PCI_VF_LIMITSv: ignored while the VF owns a context (R343). -/
def State.writeLimits (s : State) (vf v : Nat) : State :=
  if s.owned vf ≠ 0 then s
  else { s with pci := { s.pci with limits := mset 0 s.pci.limits vf (BitVec.ofNat 64 (v % 2 ^ 49)) } }

/-- A write of a word of a function's PCI_ block. -/
def State.pciWrite (s : State) (f o v m : Nat) : State :=
  let new := mergeBits (s.pciReg f o) v m
  if o < 0x40 then (if o % 16 = 0 then s.writeCr f (o / 16) new else s)
  else if o < 0xC0 then
    if o % 32 = 0 then s.writeCq f ((o - 0x40) / 32) new
    else if o % 32 = 8 then s.writeIntr f ((o - 0x40) / 32) (new / 2 ^ 32)
    else s
  else if o = 0xC0 then s.writeWin f new
  else if 0x800 ≤ o ∧ o < 0x840 then s.writeMsix f (o - 0x800) new
  else if f = 0 ∧ 0x1008 ≤ o ∧ o < 0x1200 then s.writeLimits ((o - 0x1000) / 8) new
  else s

/-! ## Registers with rules of their own -/

/-- A write of HBM_ILV (R198): only without a context; a change of mode leaves the contents of HBM undefined. -/
def State.writeIlv (s : State) (v : Nat) : State :=
  if s.ctxs ≠ [] ∨ v % 2 = s.hbm.ilv then s
  else
    let t := s.scrambleHbm
    { t with hbm := { t.hbm with ilv := v % 2 } }

/-- A write of SYS_DVFS.TARGET_MHZ (R450, Table 15.16): 900 to 1,750 in steps of 25, another value ignored. -/
def State.writeDvfs (s : State) (v : Nat) : State :=
  let t := v % 2 ^ 11
  if 900 ≤ t ∧ t ≤ 1750 ∧ t % 25 = 0 then (s.modPower (fun p => { p with target := t })).setClock else s

/-- Whether a write of NXP_JOBn is ignored (R361): the context has an unfinished graph, or two contexts would export one job. -/
def State.jobRefused (s : State) (n v : Nat) : Bool :=
  decide (s.ctxGraphs n ≠ []) ||
    (bit v 16 && decide (v % 65536 ≠ 0) && (s.ctx n).isSome
      && s.ctxs.any (fun (e : Nat × Ctx) => decide (e.1 ≠ n) && (s.creg e.1).export_ && decide ((s.creg e.1).job = v % 65536)))

/-- A write of NXP_JOBn (R361, Table 12.16): MEMBERS above 16,384 is ignored. -/
def State.writeJob (s : State) (n v : Nat) : State :=
  if s.jobRefused n v then s
  else s.modCreg n (fun r => { r with
    job := v % 65536, export_ := bit v 16, members := if bits v 32 18 ≤ 16384 then bits v 32 18 else r.members })

/-- A write of NXP_CTL (Table 12.13). -/
def State.writeNxpCtl (s : State) (v : Nat) : State :=
  let r := bits v 11 2
  { s with nxp := { s.nxp with eventCq := v % 4, resendUs := if 10 ≤ r ∧ r ≤ 1000 then r else s.nxp.resendUs } }

/-- A write of SYS_ERRLOG_PTR (Table 14.10): moving RD marks entries read. -/
def ErrLog.setRd (l : ErrLog) (rd : Nat) : ErrLog := if rd = l.rd then l else { l with rd := rd, full := false }

/-- A write of a THM_ register of the selected context (Tables 14.15 to 14.17). -/
def CtxRegs.writeThm (r : CtxRegs) (o v : Nat) : CtxRegs :=
  match o with
  | 0x10 => { r with boundary := v % 2 ^ 48 }
  | 0x18 => { r with localAt := v % 2 ^ 48 }
  | 0x20 => { r with slotSize := v % 2 ^ 48 }
  | 0x28 => { r with mirrorAt := v % 2 ^ 48 }
  | 0x30 => { r with remoteAt := v }
  | 0x38 => { r with policy := v % 2 ^ 23 }
  | _ => r

/-! ## The whole of register space -/

/-- A write of a word of a block under its fields' access codes (R7): `new` has the bits not written kept, `one` those written as
1. Offset 0x300 of the NXP_ block takes no write (DESIGN CHOICE, log 83). -/
def State.setReg (s : State) (b : Block) (o v m : Nat) : State :=
  let new := mergeBits (s.blockReg b o) v m
  let one := v &&& m
  match b with
  | .pci => s.pciWrite 0 o v m
  | .sys =>
    match o with
    | 0x120 => { s with sys := { s.sys with cdc := { s.sys.cdc with valid := s.sys.cdc.valid && !bit one 31 } } }
    | 0x200 => { s with sys := { s.sys with clampCtx := w1c s.sys.clampCtx one } }
    | 0x400 => { s with sys := { s.sys with log := s.sys.log.setRd (bits new 27 16) } }
    | 0x408 => { s with sys := { s.sys with log := { s.sys.log with sel := new % 4096 } } }
    | 0x610 => if m % 2 ^ 11 = 0 then s else s.writeDvfs new
    | _ => s
  | .trh => if o = 8 then { s with trh := { s.trh with sel := new % 64 } } else s
  | .wmk =>
    if o = 0x200 then s.modWmk (fun w => { w with sat := w1c w.sat one })
    else if o = 0x208 then s.modWmk (fun w => { w with handset := w1c w.handset one })
    else s
  | .hbm => if o = 0 then s.writeIlv new else s
  | .evl d =>
    if o = 0x18 then
      { s with evl := if d = 0 then { s.evl with ctx0 := new % 64 } else { s.evl with ctx1 := new % 64 } }
    else s
  | .nxp _ =>
    if o = 8 then s.writeNxpCtl new
    else if 0x200 ≤ o ∧ o < 0x400 ∧ o ≠ 0x300 then s.writeJob ((o - 0x200) / 8) new
    else s
  | .thm => if o = 0 then { s with thmSel := new % 64 } else s.modCreg s.thmSel (fun r => r.writeThm o new)
  | .rcl => if o = 0 then { s with rcl := { s.rcl with sel := new % 2048 } } else s
  | .lnt =>
    match o with
    | 0 => { s with lnt := { s.lnt with addr := BitVec.ofNat 64 new } }
    | 8 => { s with lnt := { s.lnt with data := BitVec.ofNat 64 new } }
    | 0x10 => { s with lnt := { s.lnt with ctx := BitVec.ofNat 32 (new % 2 ^ 27) } }
    | _ => s
  | .core c =>
    match o with
    | 0x28 => s.modCore c (fun k => { k with fault := { k.fault with valid := k.fault.valid && !bit one 26 } })
    | 0x80 => s.modCore c (fun k => { k with flags := k.flags &&& ~~~(BitVec.ofNat 4 one) })
    | _ => s
  | .ing _ | .mtr | .cls _ => s

/-- Whether BAR0 takes an access of this size and alignment (R320). -/
def sizeOk (o size : Nat) : Bool := (decide (size = 4) || decide (size = 8)) && decide (o % size = 0)

/-- A write of the PF's BAR0 (R320). -/
def State.bar0Write (s : State) (o size v : Nat) : State :=
  match blockOf o with
  | none => if s.boot.state = .recovery ∧ sizeOk o size then s else s.badAccess 0
  | some (b, r) =>
    if !sizeOk o size then s.badAccess 0
    else if !s.reaches b then s
    else s.setReg b (r / 8 * 8) (v * 2 ^ (8 * (o % 8))) ((2 ^ (8 * size) - 1) * 2 ^ (8 * (o % 8)))

/-- The crossing that a function's BAR0 access would pass and that does not serve (R28, R29). -/
def State.barBarred (s : State) (f o : Nat) : Option (BitVec 24) :=
  if f = 0 then (blockOf o).bind (fun e => if s.reaches e.1 then s.blockBarred 0x38 e.1 else none) else none

/-- A host write of the PF's BAR0: dropped, with its CDC_TIMEOUT recorded, where a crossing does not serve it (R28, log 76). -/
def State.hostWrite (s : State) (o size v : Nat) : State :=
  match (if sizeOk o size then s.barBarred 0 o else none) with
  | some x => (s.cdc x (s.crossingShut x) none).badAccess 0
  | none => s.bar0Write o size v

/-- A write of a VF's BAR0, which holds its PCI_ block alone (R321). -/
def State.vfWrite (s : State) (f o size v : Nat) : State :=
  if !sizeOk o size || decide (65536 ≤ o) then s.badAccess f
  else s.pciWrite f (o / 8 * 8) (v * 2 ^ (8 * (o % 8))) ((2 ^ (8 * size) - 1) * 2 ^ (8 * (o % 8)))

/-- Runs a register write of a function that exists, while the clocks run. -/
def State.regWrite (s : State) (f : Nat) (g : State → State) : Out State :=
  if s.power.stopped || !s.fnExists f then .next s else .next (g s)

/-- PCI_CR_WRITE (R324, R326). -/
def execPciCrWrite (f r : Nat) (v : W64) (s : State) : Out State := s.regWrite f (fun s => s.writeCr f r v.toNat)

/-- PCI_CQ_WRITE (R324, R328, R329): the ring's register, or its PCI_CQ_INTR. -/
def execPciCqWrite (f r : Nat) (intr : Bool) (v : W64) (s : State) : Out State :=
  s.regWrite f (fun s => if intr then s.writeIntr f r v.toNat else s.writeCq f r v.toNat)

/-- PCI_WIN_WRITE (R322). -/
def execPciWinWrite (f : Nat) (v : W64) (s : State) : Out State := s.regWrite f (fun s => s.writeWin f v.toNat)

/-- PCI_VF_LIMITS_WRITE (R343). -/
def execPciVfLimitsWrite (vf : Nat) (v : W64) (s : State) : Out State := s.regWrite 0 (fun s => s.writeLimits vf v.toNat)

/-- Whether BAR0 reaches a register now; a write elsewhere is ignored (R443). -/
def State.ifReached (s : State) (b : Block) (g : State → State) : State := if s.reaches b then g s else s

/-- HBM_ILV_WRITE (R198). -/
def execHbmIlvWrite (v : W32) (s : State) : Out State := s.regWrite 0 (fun s => s.ifReached .hbm (fun s => s.writeIlv v.toNat))

/-- SYS_DVFS_WRITE (R430, R450). -/
def execSysDvfsWrite (v : W32) (s : State) : Out State := s.regWrite 0 (fun s => s.writeDvfs v.toNat)

/-- NXP_JOB_WRITE (R361). -/
def execNxpJobWrite (x : Nat) (v : W64) (s : State) : Out State :=
  s.regWrite 0 (fun s => s.ifReached (.nxp 0) (fun s => s.writeJob x v.toNat))

/-! ## The BAR4 window (R322, R323) -/

/-- The physical offset of a unit that a window reaches; none where the access fails. -/
def State.winUnit (s : State) (f : Nat) (store : Bool) (o n : Nat) : Option Nat :=
  let w := (s.fnOf f).win.toNat
  if !(decide (regionOf o = .hbm) || decide (regionOf o = .slow)) then none
  else if bit w 54 then (if s.inTableArea o n || s.lostTarget o then none else some o)
  else if !s.owns f (bits w 53 48) then none
  else match s.check ⟨bits w 53 48, none, some 0x38⟩ o store with
    | .ok pa => some pa
    | _ => none

/-- The physical units of a window access, in order; none where any of it fails. -/
def State.winUnits (s : State) (f : Nat) (store : Bool) (o n : Nat) : Option (List (Nat × Nat)) :=
  let w := (s.fnOf f).win.toNat
  if bit w 55 then (units (bits w 47 16 * 2 ^ 16 + o) n).mapM (fun u => (s.winUnit f store u.1 u.2).map (fun pa => (pa, u.2))) else none

/-- The first uncorrectable unit of a list. -/
def State.badUnit (s : State) (l : List (Nat × Nat)) : Option Nat :=
  (l.find? (fun u => s.uncorrectable u.1 u.2)).map Prod.fst

/-- Logs an uncorrectable word met by the host or by Lantern, and records its location for repair (R405, R406). -/
def State.noteBad (s : State) (pa : Nat) : State := ((s.log 0x701 (s.placeOf pa).1 none false (s.placeOf pa).2 pa).recordPa pa).retireDoomed

/-- The size of a BAR of a function (Table 11.2). -/
def State.barSize (s : State) (f bar : Nat) : Nat :=
  match bar with
  | 0 => if f = 0 then 2 ^ 26 else 65536
  | 2 => 4096
  | _ => if f = 0 then 2 ^ (30 + s.pci.bar4) else 2 ^ 28

/-- The 64-bit word that BAR0 of a function has at an offset that is a multiple of 8; none outside every block (R320, R321). -/
def State.barWord (s : State) (f o : Nat) : Option W64 := if f = 0 then s.bar0 o else some (BitVec.ofNat 64 (s.pciReg f o))

/-- A read of BAR0 (R320, R321): 4 or 8 bytes, naturally aligned; one that a crossing does not serve is recorded and completes with
Unsupported Request (R28, log 76). -/
def State.bar0Read (s : State) (f o n : Nat) : State :=
  match (if sizeOk o n then s.barWord f (o / 8 * 8) else none), s.barBarred f o with
  | some w, none => s.emit (.barData f (slice (toBytes 8 w.toNat) (o % 8) n))
  | some _, some x => ((s.cdc x (s.crossingShut x) none).badAccess f).unsupported f
  | none, _ => (s.badAccess f).unsupported f

/-- A read of BAR4 (R322, R405): the data, or Unsupported Request. -/
def State.bar4Read (s : State) (f o n : Nat) : State :=
  match s.winUnits f false o n with
  | none => (s.badAccess f).unsupported f
  | some l =>
    match s.badUnit l with
    | some pa => (s.noteBad pa).unsupported f
    | none => s.emit (.barData f (l.flatMap (fun u => s.get u.1 u.2)))

/-- BAR4_READ: a host read of a BAR of a function (R320 to R322, R325): BAR2 reads 0; an address past the BAR is not the function's. -/
def execBar4Read (f : Nat) (p : BarPlace) (n : Nat) (s : State) : Out State :=
  if s.power.stopped || !s.fnExists f then .next s
  else if s.barSize f p.bar < p.offset + n then .next (s.unsupported f)
  else
    match p.bar with
    | 0 => .next (s.bar0Read f p.offset n)
    | 2 => .next (s.emit (.barData f (List.replicate n 0)))
    | _ => .next (s.bar4Read f p.offset n)

/-- Writes consecutive pieces of a list at physical units. -/
def State.putUnits (s : State) : List (Nat × Nat) → List Byte → State
  | [], _ => s
  | u :: r, bs => (s.put u.1 (bs.take u.2)).putUnits r (bs.drop u.2)

/-- BAR4_WRITE (R318, R322, R405): the data is written whole, or dropped. -/
def execBar4Write (f o : Nat) (data : List Byte) (s : State) : Out State :=
  if s.power.stopped || !s.fnExists f || decide (s.barSize f 4 < o + data.length) then .next s
  else
    match s.winUnits f true o data.length with
    | none => .next (s.badAccess f)
    | some l =>
      match l.find? (fun u => s.mergesBad u.1 u.2) with
      | some u => .next (s.noteBad u.1)
      | none => .next (s.putUnits l data)

end Sys2Proof.Machine
end

