-- ==== Sys2Proof/Machine/Metering.lean ====
section
/-! DEFINITION. The energy meter, attestation and MCTP (R451 to R453, R459 to R463). -/

namespace Sys2Proof.Machine

/-! ## Sampling (R436, R459) -/

/-- Word `k` of the calibration in use (Table 15.21): the image's, or the nominal one of the recovery state. -/
def State.calWord (s : State) (k : Nat) : Nat :=
  if s.boot.image.cal = [] then (Config.nominalCal k).toNat else nth 0 s.boot.image.cal k

/-- The value of a converter's code: raw × gain + offset, exact. -/
def State.calibrated (s : State) (k : Nat) (raw : Int) : Q :=
  Q.add (Q.mul (Q.int raw) (ofF32 (s.calWord k)).q) (ofF32 (s.calWord (k + 1))).q

/-- A supply's nominal voltage in mV and its tolerance in percent (Table 15.1); VDD_CORE follows its setpoint, 0.80 V before
boot sets one (R432). -/
def State.nominal (s : State) (k : Nat) : Nat × Nat :=
  match k with
  | 0 => (if s.power.vout = 0 then 800 else s.power.vout, 2)
  | 1 => (750, 3)
  | 2 => (1100, 3)
  | 3 => (1200, 3)
  | _ => (1800, 3)

/-- Whether a voltage lies outside its supply's tolerance. -/
def State.outside (s : State) (k : Nat) (v : Q) : Bool :=
  let n := s.nominal k
  Q.lt (Q.mk' (n.1 * n.2) 100000) (Q.add v (Q.mk' (n.1 : Int) 1000).neg).abs

/-- Sums rationals. -/
def qsum (l : List Q) : Q := l.foldl Q.add ⟨0, 1⟩

/-- One more µs with a task of the context in flight (R461, Table 15.11). -/
def State.tickActive (s : State) : State :=
  (range 64).foldl (fun (s : State) x =>
    if (s.ctxGraphs x).any Graph.inFlight then s.modCreg x (fun r => { r with active := r.active + 1 }) else s) s

/-- METER_SAMPLE (R459): one sample at 1 MHz, the signed 24-bit voltage and current codes of the five supplies. -/
def execMeterSample (codes : List (Int × Int)) (s : State) : Out State :=
  if s.power.stopped || !s.power.good then .next s
  else
    let vs := (range 5).map (fun k => s.calibrated (4 * k) (nth (0, 0) codes k).1)
    let is := (range 5).map (fun k => s.calibrated (4 * k + 2) (nth (0, 0) codes k).2)
    let ws := (range 5).map (fun k => Q.mul (nth ⟨0, 1⟩ vs k) (nth ⟨0, 1⟩ is k))
    let fault := (range 5).any (fun k => s.outside k (nth ⟨0, 1⟩ vs k))
    let beyond := Q.lt (Q.int 1050) (qsum ws)
    let s : State := { s with mtr := { s.mtr with
      energy := (range 5).map (fun k => Q.add (nth ⟨0, 1⟩ s.mtr.energy k) (nth ⟨0, 1⟩ ws k))
      elapsed := wrapAdd 64 s.mtr.elapsed 1
      interval := s.mtr.interval + 1
      flags := s.mtr.flags ||| (4 * b2n fault + 8 * b2n beyond)
      volts := vs
      amps := is } }
    .next s.tickActive

/-! ## Records (R460, R461) -/


/-- A signature by the identity key, 4,627 bytes. -/
def signed_ (b : List Byte) : List Byte := slice (Config.sign b) 0 4627

/-- Energies after a hand-back's values have been added (R460). -/
def Meter.continued (m : Meter) (h : List Byte) : Meter :=
  { m with
    energy := (range 5).map (fun k => Q.add (nth ⟨0, 1⟩ m.energy k) (Q.int (field h (0x28 + 8 * k) 8)))
    elapsed := wrapAdd 64 m.elapsed (field h 0x18 8) }

/-- ENERGY before this chain's samples: the handed-back record's, beyond the sum of its rails. -/
def handedEnergy (h : List Byte) : Int := (field h 0x10 8 : Int) - total ((range 5).map (fun k => field h (0x28 + 8 * k) 8))

/-- µJ as a record states them: the energy itself where it is a whole number of µJ, else one of the two beside it, which the spec leaves
open (R459, log 69); 64 bits, modulo 2⁶⁴. -/
def microJ (q : Q) : Nat :=
  ((q.floor + (if (Q.int q.floor).le q && q.le (Q.int q.floor) then 0 else b2n (Config.roundsUp q.num q.den) : Nat)) % 2 ^ 64).toNat

/-- The first 0x300 bytes of a record (Table 15.11). -/
def State.recordBody (s : State) (flags seq : Nat) (extra : Int) (prev : List Byte) : List Byte :=
  let m := s.mtr
  toBytes 4 1 ++ toBytes 4 flags ++ toBytes 8 seq ++ toBytes 8 (microJ (Q.add (qsum m.energy) (Q.int extra))) ++ toBytes 8 m.elapsed
    ++ toBytes 8 m.interval ++ (range 5).flatMap (fun k => toBytes 8 (microJ (nth ⟨0, 1⟩ m.energy k)))
    ++ toBytes 8 (if s.boot.image.cal = [] then 0 else s.boot.image.calId) ++ toBytes 8 0 ++ slice prev 0 64 ++ identityDigest
    ++ (range 64).flatMap (fun x => toBytes 4 (s.creg x).active ++ toBytes 4 (s.creg x).serial) ++ List.replicate 32 0

/-- The creation serials continue from a handed-back record's (R461). -/
def State.continueSerials (s : State) (h : List Byte) : State :=
  (range 64).foldl (fun (s : State) x =>
    s.modCreg x (fun r => { r with serial := wrapAdd 32 r.serial (field h (0xE4 + 8 * x) 4) })) s

/-- The active times of the next interval start at 0. -/
def State.clearActive (s : State) : State := (range 64).foldl (fun (s : State) x => s.modCreg x (fun r => { r with active := 0 })) s

/-- METER_RECORD (R460): after 60,000,000 µs, a record chained to the one before it. -/
def execMeterRecord (s : State) : Out State :=
  if s.power.stopped || !s.power.good || decide (s.mtr.interval < 60000000) then .next s
  else
    let m := s.mtr
    let first := !m.emitted
    let h := m.handedBack
    let goesOn := first && decide (h ≠ [])
    let s := if goesOn then ({ s with mtr := m.continued h } : State).continueSerials h else s
    let extra := if goesOn then handedEnergy h else m.extra
    let seq := if first then (if goesOn then wrapAdd 64 (field h 8 8) 1 else 0) else wrapAdd 64 m.seq 1
    let flags := b2n (first && !goesOn) + 2 * b2n (decide (s.boot.image.cal = [])) + m.flags
    let prev := if first && !goesOn then [] else digestBytes (Config.sha3 (if goesOn then h else m.prev))
    let body := s.recordBody flags seq extra prev
    let r := body ++ signed_ body
    let s : State := { s with mtr := { s.mtr with
      seq := seq, newest := seq, newestFlags := flags, chained := m.chained || goesOn, emitted := true, interval := 0, flags := 0
      prev := r, records := (seq, r) :: m.records.take 15, silent := false, extra := extra } }
    .next s.clearActive

/-- METER_SILENT (R462): no record for 75 s, told once until the next record. -/
def execMeterSilent (s : State) : Out State :=
  if s.power.stopped || !s.power.good || s.mtr.silent then .next s
  else
    let s := s.log 0x805 (Config.silentKind % 10) none false 0 (Config.eventDetail 10 s.tick)
    .next (({ s with mtr := { s.mtr with silent := true } } : State).pfEvent 0x805 [])

/-- A held record by SEQ, 0 for the newest (R462). -/
def Meter.find (m : Meter) (seq : Nat) : Option (Nat × List Byte) :=
  if seq = 0 then m.records.head? else m.records.find? (fun r => decide (r.1 = seq))

/-- METER_READ (R462). -/
def execMeterRead (h : Cmd) (seq dest flags : Nat) (s : State) : Out State :=
  s.command h 0x30 (fun p => decide (field p 8 8 = seq ∧ field p 0x10 8 = dest ∧ field p 0x18 4 = flags)) (fun s =>
    let host := bit flags 0
    if 2 ≤ flags ∨ (host = false ∧ (h.fn ≠ 0 ∨ hbmBytes < dest + 5395)) then s.finish h 0x30 0x102 []
    else
      match s.mtr.find seq with
      | none => s.finish h 0x30 0x804 []
      | some r =>
        if host then
          ({ s with hostMem := mwrite memDefault s.hostMem dest r.2 } : State).finish h 0x30 0 (toBytes 8 r.1)
        else
          let us := units dest r.2.length
          if us.any (fun u => s.lostTarget u.1) then s.finish h 0x30 0x405 []
          else
            match us.find? (fun u => s.mergesBad u.1 u.2) with
            | some u => (s.noteBad u.1).finish h 0x30 0x701 []
            | none => (s.putUnits us r.2).finish h 0x30 0 (toBytes 8 r.1))

/-! ## Attestation (R453) -/

/-- The attestation report (Table 15.10). -/
def State.report (s : State) (nonce : List Byte) : List Byte :=
  let b := toBytes 4 1 ++ toBytes 2 0x9720 ++ toBytes 1 0xB0 ++ toBytes 1 (b2n (decide (s.boot.state = .recovery)))
    ++ toBytes 4 s.boot.gen ++ toBytes 4 s.repair.gen ++ slice nonce 0 32
    ++ (range 8).flatMap (fun r => digestBytes (mget 0 s.boot.measure r)) ++ slice Config.identityKey 0 2592
    ++ slice s.boot.image.endorsement 0 4627 ++ List.replicate 5 0
  b ++ signed_ b

/-- ATTEST (R453). -/
def execAttest (h : Cmd) (nonce : List Byte) (dest : Nat) (s : State) : Out State :=
  s.command h 0x31 (fun p => decide (slice p 8 32 = nonce ∧ field p 0x28 8 = dest)) (fun s =>
    ({ s with hostMem := mwrite memDefault s.hostMem dest (s.report nonce) } : State).finish h 0x31 0 [])

/-! ## MCTP (R463) -/

/-- The device's SMBus address, which the SMB_ADDR strap selects (Table 15.2). -/
def State.smbAddress (s : State) : Nat := if s.power.smbAddr then 0x4D else 0x4C

/-- Answers an MCTP request while the clocks run, from the device's address (log 70). -/
def State.mctp (s : State) (answer : Option (List Byte)) : Out State :=
  if s.power.stopped then .next s
  else match answer with
    | some d => .next (s.emit (.mctp s.smbAddress d))
    | none => .next (s.emit (.mctpError s.smbAddress))

/-- GET_RECORD (R463): a record as METER_READ selects it, or an error completion, which any request that Table 15.12 does not have
gets too. -/
def execGetRecord (seq : McRequest) (s : State) : Out State :=
  match seq with
  | .record n => s.mctp ((s.mtr.find n).map Prod.snd)
  | .other _ => s.mctp none

/-- SET_CHAIN_HEAD (R460): taken before the first record, if the record verifies under this device's identity key. -/
def execSetChainHead (r : List Byte) (s : State) : Out State :=
  if s.power.stopped || s.mtr.emitted || decide (r.length ≠ 5395)
      || !Config.verify Config.identityKey (r.take 0x300) (r.drop 0x300) then .next s
  else .next { s with mtr := { s.mtr with handedBack := r } }

/-- GET_ATTESTATION (R463). -/
def execGetAttestation (nonce : List Byte) (s : State) : Out State := s.mctp (some (s.report nonce))

/-- GET_TELEMETRY (R463): SYS_BOOT, SYS_DVFS, SYS_THERMAL, and each supply's latest voltage and current. -/
def execGetTelemetry (s : State) : Out State :=
  s.mctp (some (toBytes 8 s.boot.value ++ toBytes 4 s.power.dvfs ++ toBytes 8 s.power.thermalReg
    ++ (range 5).flatMap (fun k =>
      let v := nth ⟨0, 1⟩ s.mtr.volts k; let i := nth ⟨0, 1⟩ s.mtr.amps k
      Config.telemetry k false v.num v.den ++ Config.telemetry k true i.num i.den)))

end Sys2Proof.Machine
end

