-- ==== Sys2Proof/Machine/Lantern.lean ====
section
/-! DEFINITION. Lantern and JTAG (R454 to R458), and the general register write, which can start a Lantern command (R7, R455). -/

namespace Sys2Proof.Machine

/-- What IDCODE reads (R454). -/
def idcode : Nat := 0x39720F45

/-- LNT_CTX.CTX. -/
def Lantern.ctxOf (l : Lantern) : Nat := bits l.ctx.toNat 5 0
/-- LNT_CTX.ID. -/
def Lantern.idOf (l : Lantern) : Nat := bits l.ctx.toNat 25 6
/-- LNT_CTX.TRANSLATE. -/
def Lantern.translate (l : Lantern) : Bool := bit l.ctx.toNat 26

/-- What an operation answers: the state, its code, and the value that LNT_DATA receives where it reads one. -/
structure LntAns where
  s : State
  code : Nat
  data : Option W64

/-- An answer with a code and no other effect. -/
def State.lntFail (s : State) (code : Nat) : LntAns := ⟨s, code, none⟩

/-- A transfer of Lantern's that a crossing does not serve (R28, R29). -/
def State.lntClosed (s : State) (x : BitVec 24) : State := s.cdc x (s.crossingShut x) none

/-! ## Registers -/

/-- Rows 2 and 6 of Table 15.26 for a register offset: the code, and the crossing that does not serve. -/
def State.lntReg? (s : State) (o : Nat) : Nat × Option (BitVec 24) :=
  match blockOf o with
  | none => (0x402, none)
  | some (b, _) =>
    if o % 8 ≠ 0 then (0x402, none)
    else match s.blockBarred 0x37 b with
      | some x => (0x702, some x)
      | none => (0, none)

/-- REG_READ. -/
def State.lntRegRead (s : State) : LntAns :=
  let o := bits s.lnt.addr.toNat 25 0
  match s.lntReg? o with
  | (0, _) => ⟨s, 0, some ((s.bar0 o).getD 0)⟩
  | (c, some n) => (s.lntClosed n).lntFail c
  | (c, none) => s.lntFail c

/-- REG_WRITE. -/
def State.lntRegWrite (s : State) : LntAns :=
  let o := bits s.lnt.addr.toNat 25 0
  match s.lntReg? o with
  | (0, _) => ⟨s.bar0Write o 8 s.lnt.data.toNat, 0, none⟩
  | (c, some n) => (s.lntClosed n).lntFail c
  | (c, none) => s.lntFail c

/-! ## Memory -/

/-- Rows 6 and 7 of Table 15.26 for a physical offset. -/
def State.lntAcross (s : State) (pa : Nat) : Acc :=
  match s.cross ⟨0, none, some 0x37⟩ pa with
  | .ok pa => if s.lostTarget pa then .fail 0x405 else .ok pa
  | a => a

/-- The physical offset that a Lantern access reaches, or the first row of Table 15.26 that applies, rows 2 to 7. It reaches the mapper's
reserve of a core store too, as R455 has every store, although R222 lets nothing outside a mapped task reach it (log 71). -/
def State.lntPlace (s : State) (o : Nat) (store : Bool) : Acc :=
  if o % 8 ≠ 0 ∨ (regionOf o).mapped = false then .fail 0x402
  else if regionOf o = .hbm ∨ regionOf o = .slow then
    if s.lnt.translate then
      if (s.ctx s.lnt.ctxOf).isNone || s.leaves s.lnt.ctxOf then .fail 0x103
      else match s.mapped s.lnt.ctxOf o store with
        | .ok pa => s.lntAcross pa
        | _ => .fail 0x402
    else s.lntAcross o
  else if (storeOf o).isNone then .fail 0x402
  else s.lntAcross o

/-- MEM_READ and MEM_WRITE: 8 bytes, indivisibly. -/
def State.lntMem (s : State) (store : Bool) : LntAns :=
  match s.lntPlace (bits s.lnt.addr.toNat 47 0) store with
  | .ok pa =>
    if store then
      if s.mergesBad pa 8 then (s.noteBad pa).lntFail 0x701 else ⟨s.put pa (toBytes 8 s.lnt.data.toNat), 0, none⟩
    else if s.uncorrectable pa 8 then (s.noteBad pa).lntFail 0x701
    else ⟨s, 0, some (BitVec.ofNat 64 (fromBytes (s.get pa 8)))⟩
  | .closed x => (s.lntClosed x).lntFail 0x702
  | a => s.lntFail a.code

/-! ## Waymarks -/

/-- WMK_READ: the count as WAYMARK_READ takes it (R313); what a home on another device answers is a free value. -/
def State.lntWmkRead (s : State) : LntAns :=
  let x := s.lnt.ctxOf
  if (s.ctx x).isNone || s.leaves x then s.lntFail 0x103
  else match s.home (wkey x s.lnt.idOf) with
    | .unbound | .refused => s.lntFail 0xA04
    | .here _ b => ⟨s, 0, some (BitVec.ofNat 64 b.count)⟩
    | .far _ =>
      if Config.remoteRefuses s.tick then s.advance.lntFail 0xA04
      else ⟨s.advance, 0, some (BitVec.ofNat 64 (fromBytes ((range 8).map (Config.remoteByte s.tick))))⟩

/-- WMK_SET: WAYMARK_WRITE in mode 0 (R314, R315). -/
def State.lntWmkSet (s : State) : LntAns :=
  let x := s.lnt.ctxOf
  if (s.ctx x).isNone || s.leaves x then s.lntFail 0x103
  else match s.home (wkey x s.lnt.idOf) with
    | .unbound | .refused => s.lntFail 0xA04
    | .here k _ => (s.handSet k s.lnt.data.toNat).lntFail 0
    | .far _ => s.advance.lntFail (if Config.remoteRefuses s.tick then 0xA04 else 0)

/-! ## Sites -/

/-- The logical core that a physical site serves, if any (R12, R438). -/
def State.coreAt (s : State) (site : Nat) : Option Nat :=
  ((range 18).find? (fun k => decide (s.siteOf (18 * (site / 19) + k) = site))).map (fun k => 18 * (site / 19) + k)

/-- Offsets in a CORE_ block that name a register (Tables 2.11, 3.14 to 3.16, 4.9 to 4.11, 6.9 to 6.11). -/
def coreOffsets : List Nat := [0, 8, 0x10, 0x20, 0x28, 0x30, 0x40, 0x48, 0x50, 0x80]

/-- A CORE_ register of a physical core: of a site that serves no logical core, CORE_ARRAY is its own (R74); the others hold their reset
values, since it has run nothing (R8), or, where it has failed and been replaced, something free; an offset that names none reads 0
(R320). -/
def State.siteReg (s : State) (site o : Nat) : W64 :=
  match s.coreAt site with
  | some c => BitVec.ofNat 64 (s.coreReg c o)
  | none =>
    let n := (s.colRec site).count
    if o = 0 then BitVec.ofNat 64 (33 - max 1 (min 3 n) + 64 * min 3 n)
    else if !coreOffsets.contains o then 0
    else if (s.colRec site).failed then Config.spareRegister site o
    else
      let idle : State := { s with cores := [], nxp := { s.nxp with ops := [] } }
      BitVec.ofNat 64 (idle.coreReg (18 * (site / 19)) o)

/-- SITE_READ. -/
def State.lntSite (s : State) : LntAns :=
  let site := bits s.lnt.addr.toNat 9 0; let o := bits s.lnt.addr.toNat 27 16
  if 683 < site ∨ o % 8 ≠ 0 then s.lntFail 0x402
  else match s.barred (some 0x37) (site / 19) with
    | some x => (s.lntClosed x).lntFail 0x702
    | none => ⟨s, 0, some (s.siteReg site o)⟩

/-! ## Commands (R455 to R458) -/

/-- What an operation does (Table 15.25), after row 1 of Table 15.26; a reserved one completes with BAD_PARAM. -/
def State.lntRun (s : State) (op : Nat) : LntAns :=
  if s.boot.state ≠ .ready ∧ op ≠ 1 then s.lntFail 0x102
  else match op with
    | 1 => s.lntRegRead
    | 2 => s.lntRegWrite
    | 3 => s.lntMem false
    | 4 => s.lntMem true
    | 5 => s.lntWmkRead
    | 6 => s.lntWmkSet
    | 7 => s.lntSite
    | _ => s.lntFail 0x102

/-- The first Lantern command since cold reset extends measurement register 7 (R452, R454). -/
def State.firstLantern (s : State) (op : Nat) : State :=
  if s.boot.lanternUsed then s
  else ({ s with boot := { s.boot with lanternUsed := true } } : State).extend 7 (Config.measured 7 [1, op])

/-- Starts and completes a Lantern command (R455 to R457); while it runs LNT_STATUS reads busy. -/
def State.lantern (s : State) (op : Nat) (jtag : Bool) : State :=
  let s := s.firstLantern op
  let a := ({ s with lnt := { s.lnt with state := 1, jtag := jtag } } : State).lntRun op
  { a.s with lnt := { a.s.lnt with state := 2, code := a.code, data := a.data.getD a.s.lnt.data } }

/-- What the data register of the JTAG instruction captures, and its length; none of the boundary register, whose cells the spec does not
give (R454, R458). -/
def State.drCapture (s : State) : Option (Nat × Nat) :=
  if s.lnt.ir = 0x01 then some (idcode, 32)
  else if s.lnt.ir = 0x20 then
    some (16 * (s.lntReg 0x20 % 2 ^ 32) + 2 ^ 36 * s.lnt.addr.toNat + 2 ^ 100 * s.lnt.data.toNat, 168)
  else if s.lnt.ir = 0x00 ∨ s.lnt.ir = 0x02 then none
  else some (0, 1)

/-- Update-DR of the LANTERN data register (R458): with OP 0 nothing; else the three registers are written, then OP starts. -/
def State.lanternUpdate (s : State) (r : Nat) : State :=
  if r % 16 = 0 ∨ s.power.stopped then s
  else
    ({ s with lnt := { s.lnt with
      ctx := BitVec.ofNat 32 (r / 16 % 2 ^ 27), addr := BitVec.ofNat 64 (r / 2 ^ 36), data := BitVec.ofNat 64 (r / 2 ^ 100) } } : State).lantern
        (r % 16) true

/-- A scan of `n` bits through the data register: what it captured goes out at TDO, lowest bit first, and what it holds then is updated
(R454, R458). -/
def State.shiftDr (s : State) (n tdi : Nat) : State :=
  match s.drCapture with
  | none => (s.emit (.tdo n (Config.boundary s.tick n % 2 ^ n))).advance
  | some (v, w) =>
    let all := v + tdi % 2 ^ n * 2 ^ w
    let t := s.emit (.tdo n (all % 2 ^ n))
    if s.lnt.ir = 0x20 then t.lanternUpdate (all / 2 ^ n % 2 ^ w) else t

/-- The LANTERN data register's bits for an operation and the values of the three registers (R458). -/
def lanternBits (op ctx addr data : Nat) : Nat := op + 16 * (ctx % 2 ^ 32) + 2 ^ 36 * (addr % 2 ^ 64) + 2 ^ 100 * (data % 2 ^ 64)

/-- A Lantern command by either path: through BAR0, not in recovery (R443); through JTAG, where the LANTERN instruction selects the
data register (R458). -/
def State.lanternVia (s : State) (op : Nat) (v : LntVia) : Out State :=
  if s.power.stopped then .next s
  else match v.jtag with
    | none => if s.reaches .lnt then .next (s.lantern op false) else .next s
    | some (ctx, addr, data) => if s.lnt.ir ≠ 0x20 then .next s else .next (s.shiftDr 168 (lanternBits op ctx addr data))

/-- REG_READ (R455). -/
def execRegRead (v : LntVia) (s : State) : Out State := s.lanternVia 1 v
/-- REG_WRITE (R455, R457). -/
def execRegWrite (v : LntVia) (s : State) : Out State := s.lanternVia 2 v
/-- MEM_READ (R455). -/
def execMemRead (v : LntVia) (s : State) : Out State := s.lanternVia 3 v
/-- MEM_WRITE (R455, R457). -/
def execMemWrite (v : LntVia) (s : State) : Out State := s.lanternVia 4 v
/-- WMK_READ (R455). -/
def execWmkRead (v : LntVia) (s : State) : Out State := s.lanternVia 5 v
/-- WMK_SET (R314, R455). -/
def execWmkSet (v : LntVia) (s : State) : Out State := s.lanternVia 6 v
/-- SITE_READ (R455). -/
def execSiteRead (v : LntVia) (s : State) : Out State := s.lanternVia 7 v

/-- Whether a JTAG instruction is one that R454 counts: EXTEST or LANTERN; every code but the five named acts as BYPASS. -/
def jtagCounts (code : Byte) : Bool := decide (code = 0x00) || decide (code = 0x20)

/-- JTAG_INSTRUCTION (R452, R454, R458): a scan of the instruction register, or of the data register that it selects. -/
def execJtagInstruction (code : JtagOp) (s : State) : Out State :=
  match code with
  | .shift n tdi => .next (s.shiftDr n tdi)
  | .load c =>
    let s : State := { s with lnt := { s.lnt with ir := c } }
    if s.power.stopped || s.boot.debugUsed || !jtagCounts c then .next s
    else .next (({ s with boot := { s.boot with debugUsed := true } } : State).extend 7 (Config.measured 7 [0, c.toNat]))

/-- REGISTER_WRITE (R7, R320, R321): a BAR0 write of the PF or of a VF; a write of LNT_CMD.OP starts that operation (R455). -/
def execRegisterWrite (f o size : Nat) (v : W64) (s : State) : Out State :=
  s.regWrite f (fun s =>
    if f ≠ 0 then s.vfWrite f o size v.toNat
    else
      let t := s.hostWrite o size v.toNat
      let op := if o = 0xE0018 ∧ sizeOk o size then v.toNat % 16 else 0
      if op ≠ 0 ∧ s.reaches .lnt then t.lantern op false else t)

end Sys2Proof.Machine
end

