-- ==== Sys2Proof/Machine/Dispatch.lean ====
section
/-! DEFINITION. One arm per command: a direct call of its meaning. -/

namespace Sys2Proof.Machine

/-- The effect of a command on everything but the queue. -/
def exec (i : Instr) (s : State) : Host.Outcome State Fault Refusal :=
  match i with
  | .nop core w => Sys2Proof.Machine.execNop core w s
  | .tcfg core w => Sys2Proof.Machine.execTcfg core w s
  | .tcfgClear core w => Sys2Proof.Machine.execTcfgClear core w s
  | .tld core w => Sys2Proof.Machine.execTld core w s
  | .tst core w => Sys2Proof.Machine.execTst core w s
  | .twl core w => Sys2Proof.Machine.execTwl core w s
  | .tmm core w => Sys2Proof.Machine.execTmm core w s
  | .tmv core w => Sys2Proof.Machine.execTmv core w s
  | .tmvRow core w => Sys2Proof.Machine.execTmvRow core w s
  | .tdr core w => Sys2Proof.Machine.execTdr core w s
  | .tzr core w => Sys2Proof.Machine.execTzr core w s
  | .tmov core w => Sys2Proof.Machine.execTmov core w s
  | .halo core w => Sys2Proof.Machine.execHalo core w s
  | .blr core w => Sys2Proof.Machine.execBlr core w s
  | .wait core w => Sys2Proof.Machine.execWait core w s
  | .sig core w => Sys2Proof.Machine.execSig core w s
  | .fence core w => Sys2Proof.Machine.execFence core w s
  | .loop core w => Sys2Proof.Machine.execLoop core w s
  | .endl core w => Sys2Proof.Machine.execEndl core w s
  | .mova core w => Sys2Proof.Machine.execMova core w s
  | .adda core w => Sys2Proof.Machine.execAdda core w s
  | .coreTaskEnd core => Sys2Proof.Machine.execCoreTaskEnd core s
  | .interrupt core => Sys2Proof.Machine.execInterrupt core s
  | .coreResume core => Sys2Proof.Machine.execCoreResume core s
  | .ramblerFetch core steps => Sys2Proof.Machine.execRamblerFetch core steps s
  | .cdcTimeout crossing issuer => Sys2Proof.Machine.execCdcTimeout crossing issuer s
  | .packageLinkRetrain link => Sys2Proof.Machine.execPackageLinkRetrain link s
  | .linkDown link => Sys2Proof.Machine.execLinkDown link s
  | .taskDispatch => Sys2Proof.Machine.execTaskDispatch s
  | .taskCoreReserve ctx => Sys2Proof.Machine.execTaskCoreReserve ctx s
  | .preempt ctx => Sys2Proof.Machine.execPreempt ctx s
  | .blanketFetch cluster channel => Sys2Proof.Machine.execBlanketFetch cluster channel s
  | .stashCopy graph task => Sys2Proof.Machine.execStashCopy graph task s
  | .taskComplete graph task => Sys2Proof.Machine.execTaskComplete graph task s
  | .waymarkCountAdd index => Sys2Proof.Machine.execWaymarkCountAdd index s
  | .watchPoll wait remote => Sys2Proof.Machine.execWatchPoll wait remote s
  | .versionStallLimit ctx record => Sys2Proof.Machine.execVersionStallLimit ctx record s
  | .contributionSend ctx record => Sys2Proof.Machine.execContributionSend ctx record s
  | .contributionTake ctx record => Sys2Proof.Machine.execContributionTake ctx record s
  | .slotAcquire ctx record => Sys2Proof.Machine.execSlotAcquire ctx record s
  | .phaseC ctx record => Sys2Proof.Machine.execPhaseC ctx record s
  | .updateCommit ctx record => Sys2Proof.Machine.execUpdateCommit ctx record s
  | .versionPull ctx record slotData => Sys2Proof.Machine.execVersionPull ctx record slotData s
  | .commandDoorbell fn ring value => Sys2Proof.Machine.execCommandDoorbell fn ring value s
  | .completionDoorbell fn ring value => Sys2Proof.Machine.execCompletionDoorbell fn ring value s
  | .commandPacket fn ring packet => Sys2Proof.Machine.execCommandPacket fn ring packet s
  | .msixDelay fn ring => Sys2Proof.Machine.execMsixDelay fn ring s
  | .ctxCreate h seed saveArea prio eventCq => Sys2Proof.Machine.execCtxCreate h seed saveArea prio eventCq s
  | .ctxDestroy h => Sys2Proof.Machine.execCtxDestroy h s
  | .mapPages h va pa count attr => Sys2Proof.Machine.execMapPages h va pa count attr s
  | .unmapPages h va count size => Sys2Proof.Machine.execUnmapPages h va count size s
  | .resume h => Sys2Proof.Machine.execResume h s
  | .graphSubmit h graph => Sys2Proof.Machine.execGraphSubmit h graph s
  | .graphAbort h handle => Sys2Proof.Machine.execGraphAbort h handle s
  | .stepBegin h step => Sys2Proof.Machine.execStepBegin h step s
  | .stepCommit h step => Sys2Proof.Machine.execStepCommit h step s
  | .stepCommitReady ctx => Sys2Proof.Machine.execStepCommitReady ctx s
  | .groupWrite h group mask words => Sys2Proof.Machine.execGroupWrite h group mask words s
  | .waymarkRead h id remote => Sys2Proof.Machine.execWaymarkRead h id remote s
  | .waymarkWrite h id mode value remote => Sys2Proof.Machine.execWaymarkWrite h id mode value remote s
  | .checkpoint h step targets => Sys2Proof.Machine.execCheckpoint h step targets s
  | .checkpointCopy ctx target fail => Sys2Proof.Machine.execCheckpointCopy ctx target fail s
  | .restore h step source addr slot => Sys2Proof.Machine.execRestore h step source addr slot s
  | .rollcallRun h clusters maxpar => Sys2Proof.Machine.execRollcallRun h clusters maxpar s
  | .rollcallCluster cluster misr rows => Sys2Proof.Machine.execRollcallCluster cluster misr rows s
  | .ingestOpen h config start engine => Sys2Proof.Machine.execIngestOpen h config start engine s
  | .ingestFeed h handle final segment count => Sys2Proof.Machine.execIngestFeed h handle final segment count s
  | .ingestClose h handle => Sys2Proof.Machine.execIngestClose h handle s
  | .decodeAccessUnit engine => Sys2Proof.Machine.execDecodeAccessUnit engine s
  | .clipWrite engine stream => Sys2Proof.Machine.execClipWrite engine stream s
  | .fabricJoin h role request => Sys2Proof.Machine.execFabricJoin h role request s
  | .joinTimeout => Sys2Proof.Machine.execJoinTimeout s
  | .fabricLeave h => Sys2Proof.Machine.execFabricLeave h s
  | .meterRead h seq dest flags => Sys2Proof.Machine.execMeterRead h seq dest flags s
  | .attest h nonce dest => Sys2Proof.Machine.execAttest h nonce dest s
  | .query h selector => Sys2Proof.Machine.execQuery h selector s
  | .bar4Read fn offset length => Sys2Proof.Machine.execBar4Read fn offset length s
  | .bar4Write fn offset data => Sys2Proof.Machine.execBar4Write fn offset data s
  | .pciCrWrite fn ring value => Sys2Proof.Machine.execPciCrWrite fn ring value s
  | .pciCqWrite fn ring intr value => Sys2Proof.Machine.execPciCqWrite fn ring intr value s
  | .pciWinWrite fn value => Sys2Proof.Machine.execPciWinWrite fn value s
  | .pciVfLimitsWrite vf value => Sys2Proof.Machine.execPciVfLimitsWrite vf value s
  | .hbmIlvWrite value => Sys2Proof.Machine.execHbmIlvWrite value s
  | .sysDvfsWrite value => Sys2Proof.Machine.execSysDvfsWrite value s
  | .nxpJobWrite ctx value => Sys2Proof.Machine.execNxpJobWrite ctx value s
  | .registerWrite fn offset size value => Sys2Proof.Machine.execRegisterWrite fn offset size value s
  | .functionLevelReset fn => Sys2Proof.Machine.execFunctionLevelReset fn s
  | .regRead via => Sys2Proof.Machine.execRegRead via s
  | .regWrite via => Sys2Proof.Machine.execRegWrite via s
  | .memRead via => Sys2Proof.Machine.execMemRead via s
  | .memWrite via => Sys2Proof.Machine.execMemWrite via s
  | .wmkRead via => Sys2Proof.Machine.execWmkRead via s
  | .wmkSet via => Sys2Proof.Machine.execWmkSet via s
  | .siteRead via => Sys2Proof.Machine.execSiteRead via s
  | .jtagInstruction code => Sys2Proof.Machine.execJtagInstruction code s
  | .laneFail port lane => Sys2Proof.Machine.execLaneFail port lane s
  | .flitReceive port flit fecOk => Sys2Proof.Machine.execFlitReceive port flit fecOk s
  | .flitAckTimeout port => Sys2Proof.Machine.execFlitAckTimeout port s
  | .portRetrain port => Sys2Proof.Machine.execPortRetrain port s
  | .portDown port => Sys2Proof.Machine.execPortDown port s
  | .read p => Sys2Proof.Machine.execRead p s
  | .write p => Sys2Proof.Machine.execWrite p s
  | .writeSignal p => Sys2Proof.Machine.execWriteSignal p s
  | .waymarkAdd p => Sys2Proof.Machine.execWaymarkAdd p s
  | .bulkPull p => Sys2Proof.Machine.execBulkPull p s
  | .bulkWrite p => Sys2Proof.Machine.execBulkWrite p s
  | .bulkCopy ctx die source destination length => Sys2Proof.Machine.execBulkCopy ctx die source destination length s
  | .response p => Sys2Proof.Machine.execResponse p s
  | .e2eNak p => Sys2Proof.Machine.execE2eNak p s
  | .resendTimeout die tag => Sys2Proof.Machine.execResendTimeout die tag s
  | .join m => Sys2Proof.Machine.execJoin m s
  | .grant m => Sys2Proof.Machine.execGrant m s
  | .heartbeat m => Sys2Proof.Machine.execHeartbeat m s
  | .heartbeatTimer => Sys2Proof.Machine.execHeartbeatTimer s
  | .memberFailed ident => Sys2Proof.Machine.execMemberFailed ident s
  | .managerSilence => Sys2Proof.Machine.execManagerSilence s
  | .membership m => Sys2Proof.Machine.execMembership m s
  | .ready m => Sys2Proof.Machine.execReady m s
  | .commit m => Sys2Proof.Machine.execCommit m s
  | .abandon m => Sys2Proof.Machine.execAbandon m s
  | .mirror m kind => Sys2Proof.Machine.execMirror m kind s
  | .takeover m => Sys2Proof.Machine.execTakeover m s
  | .pairBroken => Sys2Proof.Machine.execPairBroken s
  | .stepReplay ctx => Sys2Proof.Machine.execStepReplay ctx s
  | .scrub address outcome => Sys2Proof.Machine.execScrub address outcome s
  | .boot image0 image1 failedStacks lanes => Sys2Proof.Machine.execBoot image0 image1 failedStacks lanes s
  | .coldReset => Sys2Proof.Machine.execColdReset s
  | .warmReset perst => Sys2Proof.Machine.execWarmReset perst s
  | .pwrBrake => Sys2Proof.Machine.execPwrBrake s
  | .thermalSample readings => Sys2Proof.Machine.execThermalSample readings s
  | .meterSample codes => Sys2Proof.Machine.execMeterSample codes s
  | .meterRecord => Sys2Proof.Machine.execMeterRecord s
  | .meterSilent => Sys2Proof.Machine.execMeterSilent s
  | .getRecord seq => Sys2Proof.Machine.execGetRecord seq s
  | .setChainHead record => Sys2Proof.Machine.execSetChainHead record s
  | .getAttestation nonce => Sys2Proof.Machine.execGetAttestation nonce s
  | .getTelemetry => Sys2Proof.Machine.execGetTelemetry s
  | .memoryResponse core tag uncorrectable => Sys2Proof.Machine.execMemoryResponse core tag uncorrectable s
  | .clusterDmaTransfer cluster graph task unit => Sys2Proof.Machine.execClusterDmaTransfer cluster graph task unit s
  | .packageLinkReplay link => Sys2Proof.Machine.execPackageLinkReplay link s
  | .packageLinkRetrained link => Sys2Proof.Machine.execPackageLinkRetrained link s
  | .portRetrained port lane3 => Sys2Proof.Machine.execPortRetrained port lane3 s
  | .perstRelease => Sys2Proof.Machine.execPerstRelease s
  | .pwrBrakeRelease => Sys2Proof.Machine.execPwrBrakeRelease s
  | .powerGood => Sys2Proof.Machine.execPowerGood s
  | .vfEnable numVfs enable => Sys2Proof.Machine.execVfEnable numVfs enable s

end Sys2Proof.Machine
end

