-- ==== Sys2Proof/Safety.lean ====
section
/-! DEFINITION. The terms that the statements use: what a safe run is, when a tile instruction issues and what issuing it leaves,
when a host command's row reaches its own effect, and what of the state an effect leaves alone. -/

namespace Sys2Proof.Safety

open Machine

/-- Both byte memories have the canonical form: keys strictly rising, no entry equal to what its key reads as unlisted. -/
def MemoryOk (s : State) : Prop := Memory.wf s.hbm.unlisted s.mem = true ∧ Memory.wf (fun _ => memDefault) s.hostMem = true

/-- A step neither faults nor is refused. -/
def Runs (s : State) : Prop := ∃ t, step s = .next t

/-- The clocks run: neither a thermal stop nor PWR_GOOD low holds them (R433, R448). -/
def Clocked (s : State) : Prop := s.power.stopped = false

/-- Core `c` issues the word `w` next, which decodes to `i`, and no instruction of the core is unfinished (R103, R128). -/
def Issues (s : State) (c : Nat) (w : W64) (i : TileInsn) : Prop :=
  s.issues c w = true ∧ decodeTile w = some i ∧ (s.core c).live.pendings = []

/-- Core `c` past the instruction it has issued: its index is one higher, and its live state is changed by `f`. -/
def passed (s : State) (c : Nat) (f : Live → Live) : State :=
  s.modCore c (fun k => k.modLive (fun l => let l := f l; { l with pc := l.pc + 1 }))

/-- What the unfinished record of an instruction keeps as it issues (R128, R129). -/
def record (s : State) (c : Nat) (w : W64) (i : TileInsn) : Pending :=
  ⟨(s.core c).live.pc, w, (s.core c).live.a, (s.core c).recordOf i, 0⟩

/-- The state in which a unit begins an instruction that has just issued alone: the index has moved, the instruction is
unfinished, and for a TLD from global memory Rambler has heard of it (R128, R185). -/
def issued (s : State) (c : Nat) (w : W64) (i : TileInsn) : State :=
  let t := passed s c (fun l => { l with pendings := [record s c w i] })
  if isFetch i then t.modRamb c Rambler.tldIssued else t

/-- An instruction has finished: nothing of the core is unfinished. -/
def finished (s : State) (c : Nat) : State := s.modCore c (fun k => k.modLive (fun l => { l with pendings := [] }))

/-- A host command reaches its own effect: the clocks run, its ring has begun it with these operands in its packet and it has not acted
yet, and no check of Table 11.6 on its header fails (R331, R332). -/
def Accepted (s : State) (h : Cmd) (opcode : Nat) (spell : List Byte → Bool) : Prop :=
  Clocked s ∧ s.hasBegun h opcode spell = true ∧ s.rowCode h opcode = 0

/-- A function's register write takes place: the clocks run and the function exists (R317). -/
def Writes (s : State) (f : Nat) : Prop := Clocked s ∧ s.fnExists f = true

/-- The stores on this device that a core has not had acknowledged, in order: their first bytes and what they write (R182). -/
def queuedStores (s : State) (c : Nat) : List (Nat × List Byte) :=
  ((s.core c).ramb.reqs.filter Req.localStore).map (fun q => (q.pa, q.data))

/-- The context and the address of the first structure that Trailhead needs for a ready task and that misses in translation (R180,
R288). -/
def readyMiss (s : State) : Option (Nat × Nat) :=
  s.trh.graphs.findSome? (fun e => (e.2.tasks.findSome? (fun t => s.readinessMiss e.2 t.1)).map (fun va => (e.2.ctx, va)))

/-- A message of the managers can leave the device: some port of a die serves (R355). -/
def CanSend (s : State) : Prop := ((s.choosePort 0).isSome || (s.choosePort 1).isSome) = true

/-- The tags of Nunex: every operation that is sent holds one of the 4,608 of its die, and no two of them hold the same one (R362). -/
def TagsInRange (s : State) : Prop :=
  (∀ o ∈ s.nxp.ops, o.sent = true → o.packet.tag < 4608)
    ∧ ((s.nxp.ops.filter Op.sent).map (fun o => (o.packet.die, o.packet.tag))).Nodup

/-- The ports: failed lanes are of a port's five, its spare is one of them or there is none, its state is one of the four (R349,
Table 12.15). -/
def PortsInRange (s : State) : Prop :=
  ∀ p, (s.port p).failed < 2 ^ 5 ∧ ((s.port p).spare < 5 ∨ (s.port p).spare = 7) ∧ (s.port p).state < 4

/-- The counters that saturate are at or below the value they saturate at (R427, Table 14.7). -/
def CountersInRange (s : State) : Prop :=
  (s.sys.cdcCount < 2 ^ 32 ∧ s.sys.clampCount < 2 ^ 32 ∧ s.sys.demoted < 2 ^ 32)
    ∧ (s.sys.log.ovf < 2 ^ 32 ∧ ∀ e ∈ s.sys.log.entries, e.2.count < 2 ^ 32)
    ∧ (s.nxp.drops0 < 2 ^ 32 ∧ s.nxp.drops1 < 2 ^ 32 ∧ ∀ p, (s.port p).replays < 2 ^ 16 ∧ (s.port p).fec < 2 ^ 32)
    ∧ (∀ e, (s.engine e).gops < 2 ^ 32 ∧ (s.engine e).unsupported < 2 ^ 32)
    ∧ (∀ f, (s.fnOf f).eventsLost < 2 ^ 32 ∧ (s.fnOf f).badAccess < 2 ^ 16 ∧ ∀ q, ((s.fnOf f).cqOf q).lost < 2 ^ 32)
    ∧ s.power.throttleMs < 2 ^ 32 ∧ (∀ d, mget 0 s.evl.withheld d < 2 ^ 32) ∧ ∀ e ∈ s.ctxs, e.2.failed < 2 ^ 32

/-- The Waymarks: every count and every INIT is one of 64 bits, and so is every count that a context keeps for replay (R301, R407). -/
def MarksInRange (s : State) : Prop :=
  (∀ e ∈ s.wmk.binds, e.2.count < 2 ^ 64 ∧ e.2.init < 2 ^ 64) ∧ ∀ e ∈ s.ctxs, ∀ b ∈ e.2.bound, b.2 < 2 ^ 64

/-- The graph slots: each of the 256 holds one graph at most, and every generation is one of 24 bits, so that every handle is one of 32
(R285, Table 11.10). -/
def GraphsInRange (s : State) : Prop :=
  (∀ e ∈ s.trh.graphs, e.1 < 256 ∧ e.2.gen < 2 ^ 24) ∧ (s.trh.graphs.map Prod.fst).Nodup ∧ ∀ g, mget 0 s.trh.gens g < 2 ^ 24

/-- A live state has 8 unfinished instructions at most, and 4 at most of one unit (R128). -/
def LiveInRange (l : Live) : Prop :=
  l.pendings.length ≤ 8 ∧ ∀ u, (l.pendings.filter (fun p => decide (unitOf p.insn = u))).length ≤ 4

/-- Every live state is in range: of each core, and of each core of an interrupted task. -/
def CoresInRange (s : State) : Prop :=
  (∀ c, LiveInRange (s.core c).live) ∧ ∀ e ∈ s.trh.graphs, ∀ t ∈ e.2.tasks, ∀ v ∈ t.2.saves, LiveInRange v.2

/-- Every command ring has one short command at most that has begun and not finished (R332). -/
def RingsInRange (s : State) : Prop := ∀ f r, (((s.fnOf f).crOf r).begun.filter (fun b => !b.long)).length ≤ 1

/-- Every byte of memory reads as before. -/
def SameMemory (s t : State) : Prop := ∀ a, t.byteAt a = s.byteAt a

/-- Every core but `c` is as before. -/
def OtherCores (c : Nat) (s t : State) : Prop := ∀ d, d ≠ c → t.core d = s.core d

end Sys2Proof.Safety
end

