-- ==== Sys2Proof/Certificates/Slice0/Obligations.lean ====
section
/-! DEFINITION. The statements about the BSN-9720's model, for the provers. -/

open Sys2Proof Sys2Proof.Machine Sys2Proof.Safety

/-! ## The machine as a whole -/

/-- A step takes the command at the front of the queue and is that command's effect on the state with the queue's rest. -/
def Obligations.StepRunsFrontCommand : Prop :=
  ∀ (c : Instr) (rest : List Instr) (s : State), s.pending = c :: rest → step s = exec c { s with pending := rest }

/-- On an empty queue one nanosecond passes (log 2): while the clocks run SYS_TIME counts modulo 2⁶⁴ and HBM_STOP_NS of each stopped
controller modulo 2⁴⁸, and nothing changes while they stand; memory, cores, contexts and the queue stay, and of the HBM registers
every other one. -/
def Obligations.EmptyQueueCountsTime : Prop :=
  ∀ s : State, s.pending = [] →
    ∃ t, step s = .next t
      ∧ t.sys = { s.sys with time := if s.power.stopped then s.sys.time else (s.sys.time + 1) % 2 ^ 64 }
      ∧ t = { s with sys := t.sys, hbm := { s.hbm with stopNs := t.hbm.stopNs } }
      ∧ (∀ n < 8, mget 0 t.hbm.stopNs n =
          if s.power.stopped = false ∧ bit s.hbm.stopped n = true then (mget 0 s.hbm.stopNs n + 1) % 2 ^ 48
          else mget 0 s.hbm.stopNs n)
      ∧ SameMemory s t
      ∧ (s.power.stopped = true → t = s)

/-- Every command of every queue completes: no step faults and none is refused, and no command changes the queue. That a command whose
conditions of occurrence do not hold leaves the state unchanged, that an empty queue lets time pass, that the queue is the model's and that
commands come from outside in any order are the model's choices (log 1, log 2, log 26). -/
def Obligations.EveryStepAnswersNextState : Prop :=
  (∀ s : State, Runs s) ∧ ∀ (c : Instr) (s : State), ∃ t, exec c s = .next t ∧ t.pending = s.pending

/-- Every step keeps the canonical form of both memories, from every state that has it. What an unlisted byte reads as is the model's
choice (log 3, log 67). -/
def Obligations.StepKeepsMemoryCanonical : Prop := ∀ s t : State, MemoryOk s → step s = .next t → MemoryOk t

/-- Every step of every command keeps the tags of Nunex in range and distinct, and the ports' lanes and states in range (R349, R362). -/
def Obligations.StepKeepsTagsAndLanes : Prop :=
  (∀ s t : State, TagsInRange s → step s = .next t → TagsInRange t)
  ∧ ∀ s t : State, PortsInRange s → step s = .next t → PortsInRange t

/-- Every step of every command keeps each saturating counter at or below the value it saturates at, and each Waymark's count, INIT and
recorded count within 64 bits (R301, R427). -/
def Obligations.StepKeepsCountersInRange : Prop :=
  (∀ s t : State, CountersInRange s → step s = .next t → CountersInRange t)
  ∧ ∀ s t : State, MarksInRange s → step s = .next t → MarksInRange t

/-- Every step of every command keeps the graph slots distinct and within 256 with 24-bit generations, the unfinished instructions of every
core and of every saved live state within 8, 4 of one unit, and the short commands that a ring has begun at one (R128, R285, R332). -/
def Obligations.StepKeepsQueuesBounded : Prop :=
  (∀ s t : State, GraphsInRange s → step s = .next t → GraphsInRange t)
  ∧ (∀ s t : State, CoresInRange s → step s = .next t → CoresInRange t)
  ∧ ∀ s t : State, RingsInRange s → step s = .next t → RingsInRange t

/-! ## Tile programs: encoding -/

/-- The word of every legal tile instruction decodes to that instruction, every operand at every value. -/
def Obligations.TileWordsRoundTrip : Prop := ∀ i : TileInsn, i.wf = true → decodeTile (encodeTile i) = some i

/-! ## Tile programs: the sequencer -/

/-- NOP, MOVA and ADDA (R127): the index moves on; MOVA writes its source, sign-extended from 46 bits, another address register, the
special value of Table 4.4 or a loop counter; ADDA adds modulo 2⁴⁸; a reserved selector faults with TILE_ILLEGAL_INSTRUCTION. Nothing else
of the state changes. -/
def Obligations.MovesOfAddressRegisters : Prop :=
  (∀ (s : State) (c : Nat) (w : W64), s.issues c w = true → decodeTile w = some .nop → exec (.nop c w) s = .next (passed s c id))
  ∧ (∀ (s : State) (c : Nat) (w : W64) (ad src as imm : Nat), s.issues c w = true → decodeTile w = some (.mova ad src as imm) →
      exec (.mova c w) s = .next (passed s c (fun l =>
        let v := match src with
          | 0 => wrap 48 (signed 46 imm)
          | 1 => (mget 0 l.a as).toNat
          | 2 => (match as with
            | 0 => c
            | 1 => c / 18
            | 2 => c % 18
            | 3 => s.width c
            | 4 => ((s.core c).task.map CoreTask.ctx).getD 0
            | _ => ((s.core c).task.map CoreTask.step).getD 0)
          | _ => (mget 0 l.c as).toNat
        { l with a := mset 0 l.a ad (BitVec.ofNat 48 v) })))
  ∧ (∀ (s : State) (c : Nat) (w : W64), s.issues c w = true → w.toNat % 256 = 0x11 →
      ((bits w.toNat 13 12 = 2 ∧ 6 ≤ bits w.toNat 17 14) ∨ (bits w.toNat 13 12 = 3 ∧ bits w.toNat 17 16 ≠ 0)) →
      exec (.mova c w) s = .next (s.failCore c 0x303 (s.core c).live.pc w))
  ∧ (∀ (s : State) (c : Nat) (w : W64) (ad : Nat) (src : Bool) (as imm : Nat), s.issues c w = true →
      decodeTile w = some (.adda ad src as imm) →
      exec (.adda c w) s = .next (passed s c (fun l =>
        let v : Int := (mget 0 l.a ad).toNat + (if src then ((mget 0 l.a as).toNat : Int) else signed 46 imm)
        { l with a := mset 0 l.a ad (BitVec.ofNat 48 (wrap 48 v)) })))

/-- LOOP faults with TILE_ILLEGAL_INSTRUCTION in each of the five cases of R126, and so does an ENDL that is not the END of the innermost
active loop. Any other LOOP sets its counter and enters its body, or with a count of 0 passes its ENDL; the ENDL of the innermost loop
counts down and returns to the body or leaves it (R125). -/
def Obligations.LoopsCountDown : Prop :=
  (∀ (s : State) (c : Nat) (w : W64) (cnt stop : Nat) (reg : Bool) (a count : Nat), s.issues c w = true →
      decodeTile w = some (.loop cnt stop reg a count) →
      let k := s.core c
      let bad := stop ≤ k.live.pc ∨ k.prog.length ≤ stop ∨ k.prog[stop]?.bind decodeTile ≠ some (.endl cnt)
        ∨ (∃ l ∈ k.live.loops, l.counter = cnt) ∨ ¬ (∀ l ∈ k.live.loops, stop < l.stop)
      (bad → exec (.loop c w) s = .next (s.failCore c 0x303 k.live.pc w))
      ∧ (¬ bad →
        let n := if reg then (mget 0 k.live.a a).toNat % 2 ^ 32 else count
        exec (.loop c w) s = .next (s.modCore c (fun k => k.modLive (fun l =>
          if n = 0 then { l with pc := stop + 1 }
          else { l with pc := l.pc + 1, c := mset 0 l.c cnt (BitVec.ofNat 32 n), loops := ⟨cnt, l.pc, stop⟩ :: l.loops })))))
  ∧ (∀ (s : State) (c : Nat) (w : W64) (cnt : Nat), s.issues c w = true → decodeTile w = some (.endl cnt) →
      (∀ (start : Nat) (outer : List Loop), (s.core c).live.loops = ⟨cnt, start, (s.core c).live.pc⟩ :: outer →
        exec (.endl c w) s = .next (s.modCore c (fun k => k.modLive (fun l =>
          let v := mget 0 l.c cnt - 1
          if v = 0 then { l with pc := l.pc + 1, c := mset 0 l.c cnt v, loops := outer }
          else { l with pc := start + 1, c := mset 0 l.c cnt v }))))
      ∧ ((∀ l outer, (s.core c).live.loops = l :: outer → l.counter ≠ cnt ∨ l.stop ≠ (s.core c).live.pc) →
        exec (.endl c w) s = .next (s.failCore c 0x303 (s.core c).live.pc w)))

/-! ## Tile programs: tile registers and accumulators -/

/-- TCFG: a configuration that R100 accepts puts the register in use with that shape and zero contents; CLEAR takes it out of use, and a
CLEAR whose other fields are not 0 faults at issue with TILE_ILLEGAL_INSTRUCTION (R101). A reserved type, E8M0, a block format that is
reserved or FB32 state, a pairing that R44 does not allow, and a footprint above 16,384 bytes fault with TILE_CFG_INCONSISTENT (R100). -/
def Obligations.TileRegisterConfiguration : Prop :=
  (∀ (s : State) (c : Nat) (w : W64) (t type blk rows1 cols1 : Nat), Issues s c w (.tcfg t type blk rows1 cols1 false) →
      cfgOk type blk (rows1 + 1) (cols1 + 1) = true →
      exec (.tcfg c w) s = .next (passed s c (fun l =>
        let q : TReg := ⟨true, type, blk, rows1 + 1, cols1 + 1, [], []⟩
        { l with tregs := mset {} l.tregs t q })))
  ∧ (∀ (s : State) (c : Nat) (w : W64) (t type blk rows1 cols1 : Nat), Issues s c w (.tcfg t type blk rows1 cols1 true) →
      exec (.tcfgClear c w) s = .next (passed s c (fun l => { l with tregs := mset {} l.tregs t {} })))
  ∧ (∀ (s : State) (c : Nat) (w : W64) (t type blk rows1 cols1 : Nat), Issues s c w (.tcfg t type blk rows1 cols1 false) →
      (12 ≤ type ∨ 3 ≤ blk ∨ pairOk blk type = false ∨ 16384 < footprintOf type blk (rows1 + 1) (cols1 + 1)) →
      let u := (issued s c w (.tcfg t type blk rows1 cols1 false)).failCore c 0x301 (s.core c).live.pc w
      exec (.tcfg c w) s = .next u ∧ cfgOk type blk (rows1 + 1) (cols1 + 1) = false)
  ∧ (∀ (s : State) (c : Nat) (w : W64), s.issues c w = true → w.toNat % 256 = 0x01 → bit w.toNat 41 = true →
      bits w.toNat 40 11 ≠ 0 → exec (.tcfgClear c w) s = .next (s.failCore c 0x303 (s.core c).live.pc w))

/-- TZR puts COUNT tiles in use, all +0, class and orientation unset, and faults at issue where they would pass tile 63 (R121); TMOV
copies a register, takes a tile's bits into a register of 32 × 32, or a register of 32 × 32 into a tile (R108). What is written whole
reads correctly again (R405). Each leaves every other register, tile and core, and all memory. That an uncorrectable accumulator word
stays until it is written whole, and what a TZR then makes good, is the model's own (log 59). -/
def Obligations.AccumulatorZeroAndMove : Prop :=
  (∀ (s : State) (c : Nat) (w : W64) (acc count1 : Nat), Issues s c w (.tzr acc count1) →
      exec (.tzr c w) s = .next ((passed s c (fun l =>
        let m := (range (count1 + 1)).foldl (fun m n => mset {} m (acc + n) { inUse := true }) l.acc
        { l with acc := m })).modCore c (fun k => { k with
          badAcc := k.badAcc.filter (fun e => !decide (acc ≤ e / 512 ∧ e / 512 ≤ acc + count1)) })))
  ∧ (∀ (s : State) (c : Nat) (w : W64), s.issues c w = true → w.toNat % 256 = 0x08 →
      64 < bits w.toNat 13 8 + (bits w.toNat 19 14 + 1) → exec (.tzr c w) s = .next (s.failCore c 0x303 (s.core c).live.pc w))
  ∧ (∀ (s : State) (c : Nat) (w : W64) (td ts acc : Nat) (o : Bool), Issues s c w (.tmov 0 td ts acc o) →
      ((s.core c).treg ts).inUse = true →
      exec (.tmov c w) s = .next (passed s c (fun l => { l with tregs := mset {} l.tregs td ((s.core c).treg ts) })))
  ∧ (∀ (s : State) (c : Nat) (w : W64) (td ts acc : Nat) (o : Bool), Issues s c w (.tmov 1 td ts acc o) →
      let a := (s.core c).accTile acc
      (s.core c).accBad acc (fun _ _ => true) = false →
      exec (.tmov c w) s = .next (passed s c (fun l =>
        let q := (range 32).foldl (fun (q : TReg) r => q.setRow r ((range 32).flatMap (fun j => toBytes 4 (a.get r j))) [])
          ⟨true, if a.cls = .int32 then 11 else 0, 0, 32, 32, [], []⟩
        { l with tregs := mset {} l.tregs td q })))
  ∧ (∀ (s : State) (c : Nat) (w : W64) (td ts acc : Nat) (o : Bool), Issues s c w (.tmov 2 td ts acc o) →
      let q := (s.core c).treg ts
      q.inUse = true → (q.type = 0 ∨ q.type = 11) → q.blk = 0 → q.rows = 32 → q.cols = 32 →
      exec (.tmov c w) s = .next ((passed s c (fun l =>
        let a := (range 1024).foldl (fun (a : AccTile) e => a.put (e / 32) (e % 32) (q.enc (e / 32) (e % 32)))
          ⟨true, if q.type = 11 then .int32 else .fp32, if o then .transposed else .normal, []⟩
        { l with acc := mset {} l.acc acc a })).modCore c (fun k => { k with
          badAcc := k.badAcc.filter (fun e => decide (e / 512 ≠ acc)) })))

/-- TWL loads a window into the shadow buffer, element W[k][j] as the rules take it; TMM makes the shadow the active buffer and adds
the 32 products' sums into its tile, under classes and orientations that agree, unless the core's hardware finds an error: a parity
error fails the pass with DATAPATH_PARITY (0x0705, R77), an uncorrectable accumulator word that the pass reads with
UNCORRECTABLE_MEMORY (R404, R405). That `err`, what the hardware meets, comes with the command, and how long it stays, is the
model's own (log 59). -/
def Obligations.StationaryLoadAndProduct : Prop :=
  (∀ (s : State) (c : Nat) (w : W64) (t rb cb : Nat) (tr : Bool), Issues s c w (.twl t rb cb tr) →
      let q := (s.core c).treg t
      q.inUse = true → 32 * rb < q.rows → 32 * cb < q.cols →
      exec (.twl c w) s = .next (passed s c (fun l =>
        let es := (range 1024).map (fun e =>
          let k := e / 32; let j := e % 32
          let r := if tr then 32 * rb + j else 32 * rb + k
          let n := if tr then 32 * cb + k else 32 * cb + j
          if j < s.width c ∧ r < q.rows ∧ n < q.cols then some (q.enc r n, q.scaleOf r n) else none)
        { l with shadow := some ⟨tr, q.type, q.blk, es⟩ })))
  ∧ (∀ (s : State) (c : Nat) (w : W64) (err : Option CoreErr) (form t rb cb acc cls : Nat) (b : StatBlock),
      Issues s c w (.tmm form t rb cb acc) →
      let m := s.meetErr c err
      let k := m.core c
      let q := k.treg t
      let o : Orient := if form = 2 then .transposed else .normal
      q.inUse = true → 32 * rb < q.rows → 32 * cb < q.cols →
      (k.live.shadow = some b ∨ (k.live.shadow = none ∧ k.live.active = some b)) →
      pairClass q.type q.blk b.type b.blk = some cls → b.trans = decide (form = 1) →
      (k.accTile acc).accepts (accClassOf cls) o = true →
      (k.parity = none → k.accBad acc (fun _ j => decide (j < s.width c)) = false →
        let r := tmmSums q b cls form rb cb (s.width c) ((k.accTile acc).take (accClassOf cls) o)
        exec (.tmm c ⟨w, err⟩) s = .next (((passed m c (fun l => { l with active := some b, shadow := none })).setAcc c acc r.1).setFlags c r.2))
      ∧ (∀ e, k.parity = some e → exec (.tmm c ⟨w, err⟩) s =
          .next (((issued m c w (.tmm form t rb cb acc)).arrayParity c e).failCore c 0x705 k.live.pc w))
      ∧ (k.parity = none → k.accBad acc (fun _ j => decide (j < s.width c)) = true → exec (.tmm c ⟨w, err⟩) s =
          .next (((issued m c w (.tmm form t rb cb acc)).noteAccBad c).failCore c 0x701 k.live.pc w)))

/-- TMV in product mode adds the vector lane's products into its row of tiles, with the weights read from the core's own store; on
the row unit it combines each row's maximum, sum or sum of squares into a column. -/
def Obligations.VectorLaneProductAndRows : Prop :=
  (∀ (s u : State) (c : Nat) (w : W64) (t pair stride wtype wblk n1 acc cls : Nat) (init src : Bool)
      (ws : List (List Nat × List Nat)), Issues s c w (.tmv 0 t pair stride wtype wblk n1 acc init src) →
      let k := s.core c
      let q := k.treg t
      q.inUse = true → 1 ≤ q.rows → q.rows ≤ 8 → wblk ≤ 1 → pairClass q.type q.blk wtype wblk = some cls → (cls = 0 ∨ cls = 2) →
      (∀ i < cdiv (n1 + 1) 32, (k.accTile (acc + i)).accepts .fp32 .normal = true) →
      (∀ i < cdiv (n1 + 1) 32, (u.core c).accBad (acc + i) (fun r _ => decide (r < q.rows)) = false) →
      (let z := issued s c w (.tmv 0 t pair stride wtype wblk n1 acc init src)
       Res.each (fun s i => weightRow s c (z.whoCore c) ⟨pair, stride, false, false, 0, 0⟩ k.live.a wtype wblk (n1 + 1) i)
         (range q.cols) z = .ok u ws) →
      exec (.tmv c w) s = .next (finished ((range (cdiv (n1 + 1) 32)).foldl (fun s i =>
        let p := laneTile q cls wtype wblk (n1 + 1) i ws (((s.core c).accTile (acc + i)).take .fp32 .normal)
        (s.setAcc c (acc + i) p.1).setFlags c p.2) u) c))
  ∧ (∀ (s : State) (c : Nat) (w : W64) (mode t pair stride wtype wblk col acc : Nat) (init src : Bool), mode ≠ 0 →
      Issues s c w (.tmv mode t pair stride wtype wblk col acc init src) →
      let k := s.core c
      let q := k.treg t
      let o := (mget 0 k.live.a (2 * pair)).toNat
      q.inUse = true → q.blk = 0 → q.rows ≤ 32 → q.cols ≤ 8192 → (k.accTile acc).accepts .fp32 .normal = true →
      (src = true → ∀ i < q.rows,
        let a := wrap 48 ((o : Int) + (i : Int) * (pitchOf q.type q.cols : Int))
        alignedFor q.type a = true ∧ a + rowBytes q.type q.cols ≤ 524288) →
      k.accBad acc (fun i j => decide (i < q.rows ∧ j / 2 = col / 2)) = false →
      let a := (range q.rows).foldl (fun (a : AccTile) i =>
        a.put i col (rowCombine mode init (a.get i col) (rowReduce mode (rowElems k q src o i))))
        ((k.accTile acc).take .fp32 .normal)
      exec (.tmvRow c w) s = .next ((passed s c id).setAcc c acc a))

/-! ## Tile programs: loads, stores and the drain -/

/-- TLD (R107): each row of the register is loaded from its address, its scales with it. From tile memory the bytes are those that
stand there; from memory each row is read in turn (`loadRow`) and leaves its register row as it was read, nothing is stored and no
other core changes. A load whose row has not arrived keeps the rows it has and waits: for its units on their way, for another device's
answer (R361), for a tag (R183) and for a controller that has sent stop (R200). A page it misses suspends the task's context, which
keeps the address, and 0x0401 is posted (R180). What is the model's own in it: log 10, log 85. -/
def Obligations.TileLoads : Prop :=
  (∀ (s : State) (c : Nat) (w : W64) (t base stride pfx offset : Nat) (remote : Bool),
      Issues s c w (.tld t base stride true remote pfx offset) →
      let k := s.core c
      let q := k.treg t
      let x : Xfer := ⟨base, stride, true, remote, pfx, signed 24 offset⟩
      let r := k.live.a
      q.inUse = true → (∀ i < q.rows, x.rowOk r q i = true) →
      exec (.tld c w) s = .next (passed s c (fun l =>
        let q' := (range q.rows).foldl (fun (q' : TReg) i =>
          q'.setRow i (k.tileRead (x.dataOff r i) (rowBytes q.type q.cols))
            (if q.blk = 0 then [] else k.tileRead (x.scaleOff r i) (scaleBytes q.blk q.cols))) q
        { l with tregs := mset {} l.tregs t q' })))
  ∧ (∀ (s u : State) (c : Nat) (w : W64) (t base stride pfx offset : Nat) (remote : Bool),
      let i : TileInsn := .tld t base stride false remote pfx offset
      Issues s c w i →
      let q := (s.core c).treg t
      let x : Xfer := ⟨base, stride, false, remote, pfx, signed 24 offset⟩
      let r := (s.core c).live.a
      let z := issued s c w i
      let later (n : Nat) := ((range q.rows).drop (n + 1)).flatMap (x.rowRanges r q)
      let oneRow (v : State) (n : Nat) : Res (List Byte × List Byte) :=
        (loadRow v c (v.whoCore c) x r q n).bind (fun v d =>
          .ok ((v.consume c (x.rowRanges r q n) (later n)).setTreg c t (((v.core c).treg t).setRow n d.1 d.2)) d)
      q.inUse = true →
      (∀ rows, Res.each oneRow (range q.rows) z = .ok u rows →
        let v := u.dropPending c (record s c w i)
        exec (.tld c w) s = .next v ∧ SameMemory s v ∧ OtherCores c s v
          ∧ (v.core c).treg t = (rows.mapIdx (fun n d => (n, d))).foldl (fun (q : TReg) d => q.setRow d.1 d.2.1 d.2.2) q)
      ∧ (∀ (n : Nat) (v : State) (rows : List (List Byte × List Byte)), n < q.rows → Res.each oneRow (range n) z = .ok v rows →
          (loadRow v c (v.whoCore c) x r q n = .wait u → exec (.tld c w) s = .next (u.handed c (record s c w i) n))
          ∧ (∀ (va : Nat) (store : Bool) (k : CoreTask), loadRow v c (v.whoCore c) x r q n = .miss u va store →
              (u.core c).task = some k → exec (.tld c w) s = .next (u.suspend k.ctx va store))))
  ∧ (∀ (s : State) (x va : Nat) (store : Bool) (k : Ctx), s.ctx x = some k → k.suspended = false →
      let t := s.suspend x va store
      t.ctx x = some { k with suspended := true, faultVa := va } ∧ t.cores = s.cores ∧ t.wmk = s.wmk
        ∧ (∀ g e, s.graph g = some e → t.graph g = some (if e.ctx = x then
            { e with tasks := e.tasks.map (fun (y : Nat × Task) =>
              if y.2.phase = .running ∧ y.2.left ≠ [] then (y.1, { y.2 with interruptReq := true }) else y) }
            else e)))

/-- TST (R107): each row of the register is stored at its address, its scales with it. Into tile memory nothing else changes. Into memory
of this device each unit enters the store queue under its physical address, in order, and no byte changes before the store is
acknowledged (R182, R183); an instruction that finds no place waits, and a page it misses suspends the context (R180).
What is the model's own in it: log 16. -/
def Obligations.TileStores : Prop :=
  (∀ (s : State) (c : Nat) (w : W64) (t base stride pfx offset : Nat) (remote : Bool),
      Issues s c w (.tst t base stride true remote pfx offset) →
      let k := s.core c
      let q := k.treg t
      let x : Xfer := ⟨base, stride, true, remote, pfx, signed 24 offset⟩
      let r := k.live.a
      q.inUse = true → (∀ i < q.rows, x.rowOk r q i = true) →
      exec (.tst c w) s = .next ((passed s c id).modCore c (fun k => (range q.rows).foldl (fun (k : Core) i =>
        let k := k.tileWrite (x.dataOff r i) (q.row i)
        if q.blk = 0 then k else k.tileWrite (x.scaleOff r i) (q.scaleRow i)) k)))
  ∧ (∀ (s u : State) (c : Nat) (w : W64) (t base stride pfx offset : Nat) (remote : Bool),
      let i : TileInsn := .tst t base stride false remote pfx offset
      Issues s c w i →
      let q := (s.core c).treg t
      let x : Xfer := ⟨base, stride, false, remote, pfx, signed 24 offset⟩
      let z := issued s c w i
      let stores := (range q.rows).flatMap (x.storesOf (s.core c).live.a q)
      q.inUse = true →
      (z.storeAll c (record s c w i) stores = .ok u () →
        let v := u.dropPending c (record s c w i)
        exec (.tst c w) s = .next v ∧ SameMemory s v
          ∧ ((∀ y ∈ stores.flatMap Store.cut, s.isHere y.at_ = true) →
              queuedStores v c = queuedStores s c ++ (stores.flatMap Store.cut).filterMap (fun y =>
                match s.check (z.whoCore c) (localOf y.at_) true with
                | .ok pa => some (pa, y.bytes)
                | _ => none)))
      ∧ (z.storeAll c (record s c w i) stores = .wait u → exec (.tst c w) s = .next u)
      ∧ (∀ (va : Nat) (store : Bool) (k : CoreTask), z.storeAll c (record s c w i) stores = .miss u va store →
          (u.core c).task = some k → exec (.tst c w) s = .next (u.suspend k.ctx va store)))

/-- TDR: under a drain record that its checks accept, the rows of the tile go through the drain's steps to their places; then the
flags are raised, the carry is kept, and RELEASE takes the tile out of use. The record is the one captured at issue (R118, R119). A
TDR whose stores find no place waits; a page it misses suspends the context (R180). -/
def Obligations.DrainWritesRows : Prop :=
  ∀ (s u : State) (c : Nat) (w : W64) (acc recNo dst stride idx nrows1 ncols1 pfx : Nat) (space release remote rowEnd : Bool),
    let i : TileInsn := .tdr acc recNo dst stride idx space release nrows1 ncols1 remote pfx rowEnd
    Issues s c w i →
    let k := s.core c
    let d := k.tileRead (128 * recNo) 128
    let tile := k.accTile acc
    let tr := decide (tile.orient = .transposed)
    let x0 := k.task.bind (fun t => s.ctx t.ctx)
    let t : Tdr :=
      { record := d, recNo := recNo, x := ⟨dst, stride, space, remote, pfx, 0⟩
        orows := if tr then ncols1 + 1 else nrows1 + 1
        ocols := if tr then nrows1 + 1 else ncols1 + 1
        rowEnd := rowEnd
        origin := areg k.live.a (2 * idx), rowStep := areg k.live.a (2 * idx + 1)
        seed := (x0.map Ctx.seed).getD 0
        step := (k.task.map CoreTask.step).getD 0
        carry := k.live.carry }
    drCheck k d = 0 → (∀ y, k.live.carry = some y → t.continues y = true) →
    k.accBad acc (fun i j => decide (i < nrows1 + 1 ∧ j < ncols1 + 1)) = false →
    let rows := (range t.orows).map (t.row k tile k.live.a)
    let stored := ((issued s c w i).modCore c (fun k => k.slots d)).storeAll c (record s c w i)
      (rows.flatMap (fun e => pieceStores (drType d) e.1))
    (stored = .ok u () →
      let kept := rows.filterMap (fun p => p.2.2)
      let f := u.setFlags c (rows.foldl (fun f p => f ||| p.2.1) 0)
      let g := f.modCore c (fun k => k.modLive (fun l =>
        { l with carry := if kept = [] then none else some ⟨recNo, t.origin, t.rowStep, t.orows, t.ocols, kept⟩ }))
      exec (.tdr c w) s = .next ((if release then g.setAcc c acc {} else g).dropPending c (record s c w i)))
    ∧ (stored = .wait u → exec (.tdr c w) s = .next u)
    ∧ (∀ (va : Nat) (store : Bool) (y : CoreTask), stored = .miss u va store → (u.core c).task = some y →
        exec (.tdr c w) s = .next (u.suspend y.ctx va store))

/-- HALO stores its strip, then its add waits in the Waymark queue behind the core's earlier stores to this device (R110, R182), and a
page it misses suspends the context (R180); BLR fills its register with the channel's next delivery, and stays unfinished while there
is none (R109).
What is the model's own in it: log 16 and 39. -/
def Obligations.StripsAndDeliveries : Prop :=
  (∀ (s u : State) (c : Nat) (w : W64) (t side n1 dst stride id : Nat) (task : CoreTask),
      let i : TileInsn := .halo t side n1 dst stride id
      Issues s c w i →
      let q := (s.core c).treg t
      let r := (s.core c).live.a
      q.inUse = true → haloOk q side (n1 + 1) = true →
      (issued s c w i).storeAll c (record s c w i) ((haloStrip q side (n1 + 1)).mapIdx (fun n b =>
        haloRow q.type (rowAt (areg r dst) 0 n (dataStride r stride)) b)) = .ok u () →
      (u.core c).task = some task → (u.binding (wkey task.ctx id)).isSome = true → (u.core c).ramb.stores 1 ≠ 0 →
      (u.core c).ramb.wq.length < 128 →
      exec (.halo c w) s = .next ((u.modRamb c (fun m =>
        { m with wq := m.wq ++ [⟨id, 1, (u.core c).ramb.stores 1, (s.core c).live.pc, w, false⟩] })).dropPending c (record s c w i)))
  ∧ (∀ (s u : State) (c : Nat) (w : W64) (t side n1 dst stride id va : Nat) (store : Bool) (y : CoreTask),
      let i : TileInsn := .halo t side n1 dst stride id
      Issues s c w i →
      let q := (s.core c).treg t
      q.inUse = true → haloOk q side (n1 + 1) = true →
      (issued s c w i).storeAll c (record s c w i) ((haloStrip q side (n1 + 1)).mapIdx (fun n b =>
        haloRow q.type (rowAt (areg (s.core c).live.a dst) 0 n (dataStride (s.core c).live.a stride)) b)) = .miss u va store →
      (u.core c).task = some y → exec (.halo c w) s = .next (u.suspend y.ctx va store))
  ∧ (∀ (s : State) (c : Nat) (w : W64) (t ch : Nat) (d : Nat × List Byte), Issues s c w (.blr t ch) →
      let q := (s.core c).treg t
      q.inUse = true → (s.core c).deliveries.find? (fun d => decide (d.1 = ch)) = some d → d.2.length = q.footprint →
      exec (.blr c w) s = .next ((passed s c (fun l => { l with tregs := mset {} l.tregs t (q.fill d.2) })).modCore c
        (fun k => { k with deliveries := k.deliveries.erase d })))
  ∧ (∀ (s : State) (c : Nat) (w : W64) (t ch : Nat), Issues s c w (.blr t ch) → ((s.core c).treg t).inUse = true →
      (s.core c).deliveries.find? (fun d => decide (d.1 = ch)) = none → exec (.blr c w) s = .next (issued s c w (.blr t ch)))

/-! ## Tile programs: synchronization and traps -/

/-- WAIT passes when the count is at or above its threshold and blocks the core otherwise, and polls where the home is another device;
SIG puts its increment on the way to the home, or forwards it to another device, and an increment of 0 sends nothing; an identifier with
no usable binding faults a WAIT, one with no binding a SIG. FENCE completes once every store of its scope is acknowledged, with LOADS
discarding what Rambler and the coalescer fetched before it, and blocks the core until then; where it fuses with the SIG behind it, both
pass and the signal goes on the stream of the writes before it as a WRITE_SIGNAL (R122 to R124, R192, R300, R302, R305, R306, R368).
What is the model's own in it: log 15 and 16. -/
def Obligations.WaitSignalAndFence : Prop :=
  (∀ (s : State) (c : Nat) (w : W64) (mark thr imm : Nat) (t : CoreTask), Issues s c w (.wait mark thr imm) →
      (s.core c).task = some t →
      let r := (s.core c).live.a
      let key := wkey t.ctx mark
      let n := ((mget 0 r (2 * thr)).toNat + (mget 0 r (2 * thr + 1)).toNat % 65536 * 2 ^ 48 + imm) % 2 ^ 64
      let blocked (v : Wait) : State :=
        { s with wmk := { s.wmk with waits := s.wmk.waits ++ [v] } }.modCore c (fun k => { k with seq := .atWait })
      (∀ h b, s.home key = .here h b → n ≤ b.count → exec (.wait c w) s = .next (s.passWait c))
      ∧ (∀ h b, s.home key = .here h b → b.count < n →
          exec (.wait c w) s = .next (blocked ⟨h, n, .core c, s.waitHow b (.core c), false⟩))
      ∧ (∀ b, s.home key = .far b → exec (.wait c w) s = .next (blocked ⟨key, n, .core c, .poll, false⟩))
      ∧ ((s.home key = .unbound ∨ s.home key = .refused) →
          exec (.wait c w) s = .next (s.failCore c 0xA04 (s.core c).live.pc w)))
  ∧ (∀ (s : State) (c : Nat) (w : W64) (mark inc : Nat) (reg : Bool) (a : Nat) (t : CoreTask), Issues s c w (.sig mark inc reg a) →
      (s.core c).task = some t →
      let key := wkey t.ctx mark
      let n := if reg then (mget 0 (s.core c).live.a a).toNat else inc
      let by_ := (s.graph t.graph).map (fun g => (g.handle t.graph, t.task))
      (n = 0 → exec (.sig c w) s = .next (passed s c id))
      ∧ (n ≠ 0 → s.home key = .unbound → exec (.sig c w) s = .next (s.failCore c 0xA04 (s.core c).live.pc w))
      ∧ (n ≠ 0 → ((∃ h b, s.home key = .here h b) ∨ s.home key = .refused) → exec (.sig c w) s = .next
          (passed { s with wmk := { s.wmk with adds := s.wmk.adds ++ [⟨.core c, key, n, by_⟩] } } c id))
      ∧ (∀ (b : Binding) (u : State) (code : Nat), n ≠ 0 → s.home key = .far b →
          s.request (.wmk (.core c) key by_) (dieOfCluster (c / 18)) (keyCtx key) 4 b.device 8 b.remoteAddr false
            (toBytes 8 n) = (u, code) →
          exec (.sig c w) s = .next (if code = 0 then passed u c id else u.failCore c code (s.core c).live.pc w)))
  ∧ (∀ (s : State) (c : Nat) (w : W64) (scope : Nat) (loads : Bool), Issues s c w (.fence scope loads) →
      (s.fusable c scope loads = none →
        ((s.core c).ramb.stores scope = 0 → loads = false → exec (.fence c w) s = .next (passed s c id))
        ∧ ((s.core c).ramb.stores scope = 0 → loads = true →
            ∃ t, exec (.fence c w) s = .next t ∧ (t.core c).live.pc = (s.core c).live.pc + 1 ∧ (t.core c).ramb.lq = []
              ∧ (t.core c).ramb.reqs = ((s.core c).ramb.reqs.filter (fun q => !(q.load && decide (q.st = .window)))).map
                  (fun (q : Req) => if q.load then { q with void := true } else q)
              ∧ SameMemory s t ∧ OtherCores c s t)
        ∧ ((s.core c).ramb.stores scope ≠ 0 → exec (.fence c w) s = .next (s.modCore c (fun k => { k with seq := .atFence }))))
      ∧ (∀ (key n : Nat) (b : Binding) (t : CoreTask) (u : State), s.fusable c scope loads = some (key, n) →
          (s.core c).ramb.stores 1 = 0 → (s.core c).ramb.wq = [] → (s.core c).task = some t →
          s.binding (wkey t.ctx (keyId key)) = some b →
          (passed (passed s c id) c id).request
            (.wmk (.core c) (wkey t.ctx (keyId key)) ((s.graph t.graph).map (fun g => (g.handle t.graph, t.task))))
            (dieOfCluster (c / 18)) t.ctx 3 b.device 0 0 false (toBytes 8 b.remoteAddr ++ toBytes 8 n) = (u, 0) →
          exec (.fence c w) s = .next u))

/-- A word with a reserved opcode, or with a bit set above its instruction's highest field, does not decode. A reserved opcode stops the
core with TILE_ILLEGAL_INSTRUCTION: the index keeps the word's, and the fault record holds the code, the index, the context and the word
unless it holds an earlier fault (R103, R133). An instruction that reads a tile register not in use fails with TILE_UNCONFIGURED and
changes no register: TST, TWL, TMM, TMV in both kinds, HALO, and TMOV from a register (Table 4.6).
What is the model's own in it: log 10. -/
def Obligations.IllegalWordsAndUnusedRegisters : Prop :=
  (∀ w : W64, 0x13 ≤ w.toNat % 256 → decodeTile w = none)
  ∧ (∀ (w : W64) (i : TileInsn) (hi : Nat), tileFields w.toNat = some (i, hi) → 2 ^ hi ≤ w.toNat → decodeTile w = none)
  ∧ (∀ (s : State) (c : Nat) (w : W64) (x : CoreTask), s.issues c w = true → 0x13 ≤ w.toNat % 256 → (s.core c).task = some x →
      ∃ t, exec (.nop c w) s = .next t ∧ (t.core c).seq = .faulted ∧ (t.core c).live.pc = (s.core c).live.pc
        ∧ (t.core c).fault = (if (s.core c).fault.valid then (s.core c).fault
            else ⟨0x303, (s.core c).live.pc, true, x.ctx, w⟩))
  ∧ (∀ (s : State) (c : Nat) (w : W64) (i : TileInsn) (t : Nat), Issues s c w i →
      let command : Instr := match i with
        | .tst .. => .tst c w
        | .twl .. => .twl c w
        | .tmm .. => .tmm c ⟨w, none⟩
        | .tmv mode .. => if mode = 0 then .tmv c w else .tmvRow c w
        | .halo .. => .halo c w
        | _ => .tmov c w
      ((∃ a b e f g h, i = .tst t a b e f g h) ∨ (∃ a b e, i = .twl t a b e) ∨ (∃ f a b e, i = .tmm f t a b e)
        ∨ (∃ m a b e f g h j k, i = .tmv m t a b e f g h j k) ∨ (∃ a b e f g, i = .halo t a b e f g)
        ∨ (∃ m a b e, m ≠ 1 ∧ i = .tmov m a t b e)) →
      ((s.core c).treg t).inUse = false →
      exec command s = .next ((issued s c w i).failCore c 0x302 (s.core c).live.pc w))

/-! ## Tasks on their cores -/

/-- CORE_TASK_END: past its last instruction with none unfinished a tile program's core is idle with its state discarded, or stops
with TILE_CFG_INCONSISTENT where a carry is held; a mapped task's core hands on its partial results and, once every segment it combines
is there, runs its units, after Blanket has brought what it takes (R139, R203, R216, R82).
What is the model's own in it: log 11 and 82. -/
def Obligations.TaskEndsOnCore : Prop :=
  (∀ (s : State) (c : Nat) (t : CoreTask), (s.core c).task = some t → s.runs c = true → t.hand = true →
      (s.core c).prog ≠ [] → (s.core c).live.pc = (s.core c).prog.length → (s.core c).live.pendings = [] →
      ((s.core c).live.carry = none → ∃ u, exec (.coreTaskEnd c) s = .next u ∧ (u.core c).seq = .idle ∧ (u.core c).prog = []
          ∧ (u.core c).live = { pc := (s.core c).live.pc } ∧ (u.core c).flags = (s.core c).flags
          ∧ c ∉ (u.taskOf t.graph t.task).left ∧ SameMemory s u ∧ OtherCores c s u)
      ∧ ((s.core c).live.carry ≠ none → exec (.coreTaskEnd c) s =
          .next (s.failCore c 0x301 ((s.core c).prog.length - 1) ((s.core c).prog.getD ((s.core c).prog.length - 1) 0))))
  ∧ (∀ (s v : State) (c : Nat) (t : CoreTask), (s.core c).task = some t → s.runs c = true → t.hand = false →
      (s.taskOf t.graph t.task).dmaLeft = [] → s.blanketed c t = true → s.handUnits c t = .ok v () →
      let ready := (v.jobOf t.graph t.task).segmentsIn (v.taskOf t.graph t.task) c
      (ready = false → exec (.coreTaskEnd c) s = .next v)
      ∧ (∀ u : State, ready = true → v.runUnits c t = .ok u () → exec (.coreTaskEnd c) s = .next (u.coreDone c t)))

/-- INTERRUPT saves the core's live state and frees the core; the task is interrupted once every core it has left is saved; a core
that has not been restored since it was saved leaves the task as it was saved. CORE_RESUME puts the saved live state back, with both table
slots empty, and loads the program; a core that has no saved state loads its program and begins (R135, R140 to R142, R294).
What is the model's own in it: log 9 and 40. -/
def Obligations.InterruptAndResume : Prop :=
  (∀ (s u : State) (c : Nat) (t : CoreTask) (g : Graph) (cx : Ctx), Clocked s → s.inService c = true →
      (s.core c).task = some t → s.graph t.graph = some g → (g.task t.task).interruptReq = true →
      c ∈ (g.task t.task).left → (s.core c).seq ≠ .faulted →
      (∀ d, (d = c ∨ (d ∈ (g.task t.task).cores ∧ (d ∉ (g.task t.task).left ∨ (s.core d).task = some t))) → (s.core d).quiet = true) →
      s.ctx t.ctx = some cx →
      ((mfind (g.task t.task).saves c).isSome = true → exec (.interrupt c) s = .next (s.saved c t))
      ∧ (mfind (g.task t.task).saves c = none → (range 64).any (fun n => (s.core c).accBad n (fun _ _ => true)) = false →
        s.write (agentOf t.ctx) (cx.recordAt c) (s.recordBytes c) = (u, none) →
        ∃ v, exec (.interrupt c) s = .next v ∧ (v.core c).task = none ∧ v.mem = u.mem
          ∧ mfind (v.taskOf t.graph t.task).saves c = some (s.core c).live
          ∧ ((∀ d ∈ (g.task t.task).left, d = c ∨ (mfind (g.task t.task).saves d).isSome = true) →
              (v.taskOf t.graph t.task).phase = .interrupted ∧ (v.taskOf t.graph t.task).interruptReq = false)))
  ∧ (∀ (s : State) (c : Nat) (t : CoreTask) (cx : Ctx) (bs : List Byte), Clocked s → s.inService c = true →
      (s.core c).task = some t → t.hand = true → (s.core c).seq = .idle → s.ctx t.ctx = some cx → cx.suspended = false →
      (s.taskOf t.graph t.task).interruptReq = false → c ∈ (s.taskOf t.graph t.task).left →
      let x := s.taskOf t.graph t.task
      let e := ctEntry x.op ((x.cores.findIdx? (· = c)).getD 0)
      let prog := (range (ctLength e)).map (fun i => BitVec.ofNat 64 (field bs (8 * i) 8))
      s.readG (s.whoCore c) (ctProgram e) (8 * ctLength e) = .data bs →
      (mfind x.saves c = none → ∃ v, exec (.coreResume c) s = .next v ∧ (v.core c).prog = prog ∧ (v.core c).seq = .issuing
          ∧ (v.core c).live = (s.core c).live ∧ (v.core c).ramb.pc = (s.core c).live.pc ∧ SameMemory s v ∧ OtherCores c s v)
      ∧ (∀ (l : Live) (rec : List Byte), mfind x.saves c = some l → l.pendings = [] →
          s.read (agentOf t.ctx) (cx.recordAt c) l.recordSize = .data rec →
          ∃ v, exec (.coreResume c) s = .next v ∧ (v.core c).prog = prog ∧ (v.core c).seq = .issuing ∧ (v.core c).live = l
            ∧ (v.core c).t1 = 0 ∧ (v.core c).t2 = 0 ∧ mfind (v.taskOf t.graph t.task).saves c = none
            ∧ SameMemory s v ∧ OtherCores c s v))

/-! ## Rambler -/

/-- RAMBLER_FETCH: Rambler stops at a WAIT and at a FENCE with LOADS, steps over what it does not follow, and issues a TLD's row
requests in order while fewer than 64 TLDs are ahead, stopping in the middle of one for want of a tag or an entry; then the sort window
issues and the core's unfinished instructions go on (R184 to R186).
What is the model's own in it: log 17. -/
def Obligations.RamblerSteps : Prop :=
  ∀ (s : State) (c : Nat) (t : CoreTask) (w : W64), Clocked s → s.inService c = true → s.interrupting c = false →
    (s.core c).task = some t → t.hand = true → (s.core c).seq ≠ .idle → (s.core c).seq ≠ .faulted →
    (s.core c).ramb.stop = .stepping → (s.core c).ramb.replay = [] → (s.core c).prog[(s.core c).ramb.pc]? = some w →
    let after (u : State) (f : Rambler → Rambler) : Out State := .next (((u.modRamb c f).issueWindow c).goOn c)
    (∀ a b e, decodeTile w = some (.wait a b e) → exec (.ramblerFetch c 1) s = after s (fun m => { m with stop := .wait }))
    ∧ (∀ a, decodeTile w = some (.fence a true) → exec (.ramblerFetch c 1) s = after s (fun m => { m with stop := .fence }))
    ∧ ((decodeTile w = some .nop ∨ ∃ a b, decodeTile w = some (.twl a b 0 false)) →
        exec (.ramblerFetch c 1) s = after s (fun m => { m with pc := m.pc + 1, at_ := 0, stop := .stepping }))
    ∧ (∀ (u : State) (n q base stride pfx offset : Nat) (remote : Bool),
        decodeTile w = some (.tld q base stride false remote pfx offset) → (s.core c).ramb.late = 0 →
        (64 ≤ (s.core c).ramb.ahead → exec (.ramblerFetch c 1) s = after s (fun m => { m with stop := .ahead }))
        ∧ ((s.core c).ramb.ahead < 64 →
          let l := tldParts ⟨base, stride, false, remote, pfx, signed 24 offset⟩ (s.core c).ramb.a (mget {} (s.core c).ramb.cfgs q)
          s.prefetchAll c (s.whoCore c) (l.drop (s.core c).ramb.at_) = (u, n) →
          exec (.ramblerFetch c 1) s = after u (fun m =>
            if (s.core c).ramb.at_ + n < l.length then { m with at_ := (s.core c).ramb.at_ + n, stop := .full }
            else { m with pc := m.pc + 1, ahead := m.ahead + 1, at_ := 0, stop := .stepping })))

/-- MEMORY_RESPONSE: a read's unit enters the load queue with the core's own stores laid over it, or is dropped and counted where a
byte that the read asks for is uncorrectable; a store takes effect in memory and its request ends (R183, R188, R190, R191).
What is the model's own in it: log 16 and 58. -/
def Obligations.MemoryAnswersRequests : Prop :=
  (∀ (s : State) (c tag : Nat) (bad : Bool) (q : Req) (t : CoreTask), Clocked s → (s.core c).ramb.reqs[tag]? = some q →
      q.load = true → q.st = .sent → q.scope ≠ 2 → q.merged = false → q.served = none → q.void = false → (s.core c).task = some t →
      let u := s.loadReturns c tag q bad
      exec (.memoryResponse c tag bad) s = .next ((u.queuesSettled.issueWindow c).goOn c) ∧ SameMemory s u
      ∧ (bad = false → s.unitBad (q.pa / 256 * 256) q.mask = false →
          (u.core c).ramb.lq = (s.core c).ramb.lq ++ [⟨q.unit, q.pa, q.mask, s.ownGet c (q.pa / 256 * 256) 256⟩])
      ∧ ((s.unitBad (q.pa / 256 * 256) q.mask = true ∨ (bad = true ∧ ∃ k, k < 256 ∧ bit q.mask k = true)) →
          (u.core c).ramb.lq = (s.core c).ramb.lq ∧ (u.core c).ramb.dropped = ((s.core c).ramb.dropped + 1) % 2 ^ 48))
  ∧ (∀ (s : State) (c tag : Nat) (bad : Bool) (q : Req), Clocked s → (s.core c).ramb.reqs[tag]? = some q → q.load = false →
      q.st = .sent → q.scope ≠ 2 → q.merged = false → s.mergesBad q.pa q.data.length = false →
      (∀ r ∈ (s.core c).ramb.reqs.take tag, r.localStore = true → r.pa / 256 ≠ q.pa / 256) →
      exec (.memoryResponse c tag bad) s = .next ((s.landStore q).acked c tag).queuesSettled
      ∧ (∀ a, (a < q.pa ∨ q.pa + q.data.length ≤ a) → (s.landStore q).byteAt a = s.byteAt a)
      ∧ (q.low = 0 → ∀ k, k < q.data.length → (s.landStore q).byteAt (q.pa + k) = nth 0 q.data k))

/-! ## Crossings and package links -/

/-- CDC_TIMEOUT: counted, kept while nothing is kept, logged, and the crossing quarantined unless it is closed; the operation of the
core, the cluster DMA engine, the task, the host command, the port die or Lantern that issued the transfer fails with code 0x702, a
record of an Evile die and a checkpoint's target fail, a stream of an ingest engine stops with its event 0x0904, and a host's register
access is an unsupported request (R27 to R29, R400). The entry that the log takes is the one of `State.cdc`: code 0x0702, kind 6, the
issuer's context, the crossing (R404, R406).
What is the model's own in it: log 27 and 76. -/
def Obligations.CrossingTimeoutIsRecorded : Prop :=
  ∀ (s : State) (x : BitVec 24), Clocked s →
    let closed := s.crossingShut x
    let u (b : CdcBy) : State := s.cdc x closed (s.ctxOf b)
    (∀ b, u b = { s with sys := (u b).sys } ∧ (u b).sys.cdcCount = min (s.sys.cdcCount + 1) (2 ^ 32 - 1)
      ∧ (u b).sys.log = s.sys.log.push
          ⟨s.sys.time, 0x702, 6, ((s.ctxOf b).map (· + 64)).getD 0 + 128 * b2n closed, x.toNat, x.toNat, 1⟩
      ∧ (u b).sys.cdc = (if s.sys.cdc.valid then s.sys.cdc else ⟨x, closed, true⟩)
      ∧ (∀ y, y ∈ (u b).sys.quarantine ↔ y ∈ s.sys.quarantine ∨ (y = x ∧ closed = false))
      ∧ ∃ v, exec (.cdcTimeout x b) s = .next v)
    ∧ (∀ (c k : Nat) (t : CoreTask), (s.core c).task = some t →
        (∀ p, (s.core c).live.pendings[k]? = some p →
          exec (.cdcTimeout x (.core c k)) s = .next ((u (.core c k)).failCore c 0x702 p.pc p.word))
        ∧ ((s.core c).live.pendings[k]? = none →
          exec (.cdcTimeout x (.core c k)) s = .next ((u (.core c k)).failCore c 0x702 (s.core c).live.pc (s.insnOf c))))
    ∧ (∀ g i, s.going g i = true → exec (.cdcTimeout x (.dma g i)) s = .next ((u (.dma g i)).failTask g i 0x702))
    ∧ (∀ (n a : Nat) (r : Rec), s.record n a = some r → ∃ v, exec (.cdcTimeout x (.evile n a)) s = .next v
        ∧ (v.record n a).map Rec.failed = some true)
    ∧ (∀ (n t : Nat) (cx : Ctx) (k : Ckpt), s.ctx n = some cx → cx.ckpt = some k → bit k.left t = true →
        exec (.cdcTimeout x (.thermos n t)) s = .next (((u (.thermos n t)).spoil n t).endTarget n t k false))
    ∧ (∀ e h, engineOf h = e → exec (.cdcTimeout x (.ingest e h)) s = .next ((u (.ingest e h)).stopStream h 0x904))
    ∧ (∀ g i, (s.taskOf g i).phase = .running →
        exec (.cdcTimeout x (.trailhead g i)) s = .next ((u (.trailhead g i)).failTask g i 0x702))
    ∧ (∀ (h : Cmd) (b : Begun),
        ((s.fnOf h.fn).crOf h.ring).begun.find? (fun b => decide (packetCmd h.fn h.ring b.packet = h) && !b.acted) = some b →
        exec (.cdcTimeout x (.host h)) s = .next ((u (.host h)).finish h b.opcode 0x702 []))
    ∧ (∀ f, s.fnExists f = true → exec (.cdcTimeout x (.pcie f)) s = .next (((u (.pcie f)).badAccess f).unsupported f))
    ∧ (∀ d t, exec (.cdcTimeout x (.port d t)) s =
        .next ((u (.port d t)).failOps (fun o => o.sent && decide (o.packet.die = d ∧ o.packet.tag = t)) 0x702))
    ∧ exec (.cdcTimeout x .lantern) s = .next { u .lantern with lnt := { s.lnt with state := 2, code := 0x702 } }

/-- The package links: a failed flit is counted, the count starting again at a flit other than the one that failed last, and is logged
as corrected: it adds 1 to the entry of the same error of the last second, and is an entry of its own where there is none (R406); the
eighth in succession retrains the link; a failed retrain is counted; a retrained link is up with nothing counted;
after three failed retrains the link is down and the Evile die or port die at its far end is lost (R15, R281, R371).
What is the model's own in it: log 27. -/
def Obligations.PackageLinksRetrain : Prop :=
  ∀ (s : State) (l flit : Nat), Clocked s →
    ((s.plink l).state = .up → ∃ u, exec (.packageLinkReplay ⟨l, flit⟩) s = .next u ∧ u = { s with sys := u.sys }
        ∧ u.plink l = { s.plink l with
            flit := flit, fails := if (s.plink l).fails = 0 ∨ (s.plink l).flit ≠ flit then 1 else (s.plink l).fails + 1 }
        ∧ (let e : ErrEntry := ⟨s.sys.time, eventCode 4, 4, 0, l % 2, Config.eventDetail 4 l, 1⟩
          let same (k : Nat × ErrEntry) : Bool := decide (k.2.code = e.code ∧ k.2.kind = e.kind ∧ k.2.source = e.source
            ∧ k.2.detail = e.detail ∧ e.time ≤ k.2.time + 1000000000)
          (s.sys.log.entries.find? same = none → u.sys.log = s.sys.log.push e)
          ∧ (∀ k, s.sys.log.entries.find? same = some k → u.sys.log = { s.sys.log with
              entries := mset {} s.sys.log.entries k.1 { k.2 with count := min (k.2.count + 1) (2 ^ 32 - 1) } }))
        ∧ ∀ k, k ≠ l → u.plink k = s.plink k)
    ∧ ((s.plink l).state = .up → 8 ≤ (s.plink l).fails →
        exec (.packageLinkRetrain l) s = .next (s.modLink l (fun k => { k with state := .training, retrains := 0 })))
    ∧ ((s.plink l).state = .training →
        exec (.packageLinkRetrain l) s = .next (s.modLink l (fun k => { k with retrains := k.retrains + 1 }))
        ∧ exec (.packageLinkRetrained l) s = .next (s.modLink l (fun _ => {})))
    ∧ ((s.plink l).state = .training → 3 ≤ (s.plink l).retrains →
        (l < 2 → ∃ u, exec (.linkDown l) s = .next u ∧ (u.plink l).state = .down ∧ l ∈ u.evl.lost)
        ∧ (2 ≤ l → exec (.linkDown l) s = .next
            (((s.modLink l (fun k => { k with state := .down })).log (eventCode 4) 4 none false (l % 2)
              (Config.eventDetail 4 l)).losePortDie (l - 2))))

/-! ## The cluster DMA engines -/

/-- CLUSTER_DMA_TRANSFER completes the unit it names: a GATHER's or an unstaged copy's on the cluster that it is dealt to, a staged
copy's passes in order on the cluster that holds its staging, and for a SCATTER every list entry of the table block; the unit is then no
longer left (R171, R208, R210).
What is the model's own in it: log 11. -/
def Obligations.DmaUnitsComplete : Prop :=
  ∀ (s u : State) (n g i k : Nat),
    let t := s.taskOf g i
    let j := s.jobOf g i
    s.going g i = true → (s.cluster n).mode = .service → s.retired n = false → s.readsLost g i j.b = false →
    ((j.op = 8 ∨ j.op = 0xA) → k ∈ t.dmaLeft → s.copyStaged j.b j.m = false → clusterOf (unitCore t.units k) = n →
      (if j.op = 8 then gatherUnit s j n k else permuteUnit s j n k) = .ok u () →
      exec (.clusterDmaTransfer n g i k) s = .next (u.modTask g i (fun t => { t with dmaLeft := t.dmaLeft.filter (· ≠ k) })))
    ∧ (∀ o, j.op = 0xA → s.copyStaged j.b j.m = true → k ∈ t.dmaLeft → t.dmaLeft.headD 0 = k → (s.cluster n).staging = some (g, i, o) →
      permuteUnit s j n k = .ok u () →
      exec (.clusterDmaTransfer n g i k) s = .next (u.modTask g i (fun t => { t with dmaLeft := t.dmaLeft.filter (· ≠ k) })))
    ∧ (j.op = 9 → s.copyStaged j.b j.m = false →
      let core := nth 0 t.cores (k % max 1 t.cores.length)
      let es := namers s j k
      (∃ e ∈ es, e.1 ∈ t.dmaLeft) → clusterOf core = n → scatterUnit s j n core es = .ok u () →
      exec (.clusterDmaTransfer n g i k) s = .next (u.modTask g i (fun t =>
        { t with dmaLeft := t.dmaLeft.filter (fun v => !(es.map (fun e => e.1)).contains v) })))

/-- BLANKET_FETCH brings the channel's next chunk, of 16 KiB of the operand in the order in which its group consumes it, into a free
staging slot of the cluster store, for the members that have not finished; STASH_COPY writes the saved tensor into its granules and marks
the reservation copied (R215, R216, R245).
What is the model's own in it: log 1 and 57. -/
def Obligations.ChunksAndStashCopies : Prop :=
  (∀ (s : State) (n ch : Nat), s.retired n = false → (s.cluster n).mode = .service → ch < 4 →
      let next := (s.trh.graphs.flatMap (fun (e : Nat × Graph) => e.2.tasks.map (fun t => (e.1, t.1)))).findSome?
        (fun e => s.nextChunk n ch e.1 e.2)
      (next = none → exec (.blanketFetch n ch) s = .next s)
      ∧ (∀ (u : State) (slot : Nat) (x : NextChunk), next = some x → (s.cluster n).slotFor ch x = some slot →
          let j := s.jobOf x.graph x.task
          let l := j.chunkRanges s (s.taskOf x.graph x.task) x.group x.operand x.number
          dmaLoad s j n l = .ok u () →
          let data := l.flatMap (fun p => (range p.2).map (fun k => s.byteG j.ctx (p.1 + k)))
          exec (.blanketFetch n ch) s = .next (u.stageChunk n ch slot x data)
          ∧ (∀ k, k < data.length → (u.stageChunk n ch slot x data).byteAt (stagingAt n ch slot + k) = nth 0 data k)
          ∧ (x.again = false → ⟨ch, slot, x.number, data, x.members⟩ ∈ ((u.stageChunk n ch slot x data).cluster n).chunks)))
  ∧ (∀ (s : State) (n ch g i k : Nat) (group : List Nat),
      let q := s.cluster n; let t := s.taskOf g i; let j := s.jobOf g i
      let d := mget 0 q.fetched (4 * (g * 2 ^ 24 + i) + ch)
      let m := group.filter (fun c => t.left.contains c && decide (16384 * d < rangeBytes (j.stream s t c k)))
      s.going g i = true → (∃ c ∈ t.cores, clusterOf c = n) → (j.channels t n)[ch]? = some (k, group) →
      (∀ h ∈ q.chunks, h.channel = ch → h.data ≠ []) → m ≠ [] → s.nextChunk n ch g i = some ⟨g, i, k, group, d, m, false⟩)
  ∧ (∀ (s u : State) (g i : Nat) (x : Graph) (h : Stash) (done : List Unit), s.graph g = some x → s.stashFill g i = some h →
      s.going g i = true → (s.taskOf g i).left = [] → (s.taskOf g i).dmaLeft = [] →
      let j := s.jobOf g i
      let src : Src := ⟨j.m.desc 51, j.m.at_ 52, none⟩
      src.badRow s j.who (range (dsRows src.d)) = none →
      Res.each (fun s (e : Nat × List Byte) => stashWrite s j e.1 e.2)
        ((h.granules.map (granuleAt x)).zip (chunks 65536 (src.dense s j.ctx))) s = .ok u done →
      exec (.stashCopy g i) s = .next (u.modGraph g (fun x => { x with stash := x.stash.map (fun (v : Stash) =>
        if v.layer = h.layer ∧ v.mbatch = h.mbatch then { v with copied := true } else v) })))

/-! ## Trailhead -/

/-- TASK_DISPATCH takes the contexts in turn after the one served last and each context's tasks in R290's order. A structure that a
ready task needs and that misses suspends its context. An interrupted task that comes first and whose cores are free runs on them again;
a task that passes every check and has its cores, stores and areas starts on them, a null task ends as soon as it can; one that passes
them and lacks room keeps what the checks read (R144), and with nothing else dispatchable waits; one that fails a check fails; a task that
a recomputation replaces and whose layer is held ends at once (R246); with no task dispatchable nothing changes (R180, R290 to R293, R299).
What is the model's own in it: log 1, 53 and 54. -/
def Obligations.DispatchStartsTheFirstTask : Prop :=
  (∀ s : State, Clocked s → readyMiss s = none → (∀ x < 64, s.candidates x = []) → exec .taskDispatch s = .next s)
  ∧ (∀ (s : State) (x va : Nat), Clocked s → readyMiss s = some (x, va) → exec .taskDispatch s = .next (s.suspend x va false))
  ∧ (∀ (s : State) (n : Nat) (c : Cand) (rest : List Cand) (x : Graph), Clocked s → readyMiss s = none → n < 64 →
      (∀ m < n, s.candidates ((s.trh.rr + 1 + m) % 64) = []) → s.candidates ((s.trh.rr + 1 + n) % 64) = c :: rest →
      s.graph c.g = some x →
      ((x.task c.i).phase = .interrupted →
        let t := x.task c.i
        (∀ k ∈ t.cores, s.inService k = true ∧ (s.core k).task = none ∧ s.reservedBy x.ctx c.g c.i k = false) →
        s.grantsClash x.ctx t.grants = false → s.widthsOk t = true →
        ∃ u, exec .taskDispatch s = .next u ∧ (u.taskOf c.g c.i).phase = .running
          ∧ ∀ k ∈ t.cores, (u.core k).task = some ⟨c.g, c.i, x.ctx, t.step, decide (tdKind t.copy = 1)⟩)
      ∧ ((x.task c.i).phase ≠ .interrupted → s.spared x c.i = true →
        (∀ e, s.dispatchChecks (s.loader x c.i []) x c.i = .error e → exec .taskDispatch s = .next (s.loadFails c.g c.i x.ctx e))
        ∧ (∀ d, s.dispatchChecks (s.loader x c.i []) x c.i = .ok d →
            exec .taskDispatch s = .next (s.runNull c.g c.i ⟨d.1, [], []⟩)))
      ∧ ((x.task c.i).phase ≠ .interrupted → s.spared x c.i = false →
        let areas := s.takeAreas c.g x
        let beside := match areas with
          | .ok (some u) => u
          | _ => s
        let checked := beside.loadChecks c.g x c.i ((s.freeCores x c.g c.i).take (s.coresWanted x c.i))
        (∀ e, checked = .error e → exec .taskDispatch s = .next (s.loadFails c.g c.i x.ctx e))
        ∧ (∀ l e, checked = .ok l → areas = .error e → exec .taskDispatch s = .next (s.loadFails c.g c.i x.ctx e))
        ∧ (∀ (u s2 s3 : State) (l : Loaded) (cores : List Nat) (staging : Option (Nat × Nat)), checked = .ok l →
          areas = .ok (some u) → u.placeFor c.g c.i x l = some (cores, staging) → u.updateChecks x = .ok s2 →
          s2.reserve c.g c.i l.m = (s3, 0) →
          let s4 := s3.noteDispatch x.ctx c.g c.i
          exec .taskDispatch s = .next (if tdKind (s4.taskDesc x c.i) = 2 then s4.runNull c.g c.i l
            else s4.startTask c.g c.i x cores l staging))
        ∧ (∀ (u : State) (l : Loaded), checked = .ok l → (areas = .ok none ∨ areas = .ok (some u) ∧ u.placeFor c.g c.i x l = none) →
          rest = [] → (∀ y < 64, (s.keepLoaded c.g c.i l).candidates y = [] ∨ y = (s.trh.rr + 1 + n) % 64
            ∨ ∃ m < n, y = (s.trh.rr + 1 + m) % 64) →
          exec .taskDispatch s = .next (s.keepLoaded c.g c.i l))))

/-- TASK_CORE_RESERVE keeps a reservation for a context's first task, once for each task; PREEMPT asks the lowest-priority, most
recently dispatched running task that holds a core it needs to interrupt, and asks only running tasks of contexts of lower priority
(R290, R293).
What is the model's own in it: log 52. -/
def Obligations.ReservationAndPreemption : Prop :=
  (∀ (s : State) (x : Nat) (c : Cand) (rest : List Cand), Clocked s → s.candidates x = c :: rest →
      ((x, c.g, c.i) ∉ s.trh.reserved → exec (.taskCoreReserve x) s =
          .next { s with trh := { s.trh with reserved := s.trh.reserved ++ [(x, c.g, c.i)] } })
      ∧ ((x, c.g, c.i) ∈ s.trh.reserved → exec (.taskCoreReserve x) s = .next s))
  ∧ (∀ (s : State) (x : Nat) (c v : Cand) (rest : List Cand), Clocked s →
      let want (c : Cand) := (s.needs c).1
      let free (c : Cand) := ((want c).filter (fun k => decide ((s.core k).task = none))).length
      (s.candidates x).find? (fun c => decide (free c < (s.needs c).2)) = some c →
      s.victims (((s.ctx x).map Ctx.prio).getD 0) = v :: rest → (∃ k ∈ (s.taskOf v.g v.i).cores, k ∈ want c) →
      (s.taskOf v.g v.i).left ≠ [] →
      ∃ u, exec (.preempt x) s = .next u ∧ (u.taskOf v.g v.i).interruptReq = true ∧ u.cores = s.cores ∧ u.mem = s.mem
        ∧ ∀ g i, (u.taskOf g i).interruptReq = true → (s.taskOf g i).interruptReq = true
            ∨ ∃ y ∈ s.victims (((s.ctx x).map Ctx.prio).getD 0), y.g = g ∧ y.i = i)

/-- TASK_COMPLETE: once every core has finished and every write is complete, the stash copy included, the task's cores are free and each
signal it names on a Waymark whose home is this device is on its way (R295).
What is the model's own in it: log 15. -/
def Obligations.TaskCompletionSignals : Prop :=
  ∀ (s : State) (g i : Nat) (x : Graph), Clocked s → s.graph g = some x →
    let t := x.task i
    t.phase = .running → t.left = [] → t.dmaLeft = [] → t.failing = 0 →
    s.writesDone g i = true → s.fillMiss g i = none → s.stashFill g i = none → s.countMiss g i = none →
    exec (.taskComplete g i) s = .next (s.completeTask g i)
      ∧ (∀ c ∈ t.cores, (∃ k, (s.core c).task = some k ∧ k.graph = g ∧ k.task = i) → ((s.completeTask g i).core c).task = none)
      ∧ ∀ (n k : Nat) (b : Binding), n < min 2 (tdNsig (s.taskDesc x i)) →
          let sig := tdSignal (s.taskDesc x i) n
          s.home (wkey x.ctx sig.1) = .here k b → sig.2 ≠ 0 →
          (⟨.trailhead, wkey x.ctx sig.1, sig.2, some (x.handle g, i)⟩ : Add) ∈ (s.completeTask g i).wmk.adds

/-- WAYMARK_COUNT_ADD adds at the home, never beyond 2⁶⁴ − 1, and releases the cores whose waits it meets, but not before an add that
its source sent earlier to the same home; WATCH_POLL releases a polled wait whose count has reached its threshold and leaves another
alone, the count at another device being what its home answered (R32, R300 to R302, R305, R308).
What is the model's own in it: log 15. -/
def Obligations.WaymarksCountAndRelease : Prop :=
  (∀ (s : State) (n : Nat) (a : Add), Clocked s → s.wmk.adds[n]? = some a →
      (s.addFirst n a = false → exec (.waymarkCountAdd n) s = .next s)
      ∧ (∀ (key : Nat) (b : Binding), s.addFirst n a = true → s.home a.key = .here key b →
        ∃ u, exec (.waymarkCountAdd n) s = .next u ∧ u.wmk.adds = s.wmk.adds.eraseIdx n ∧ SameMemory s u
          ∧ u.binding key = some { b with count := min (b.count + a.inc) (2 ^ 64 - 1) }
          ∧ (∀ k, k ≠ key → u.binding k = s.binding k)
          ∧ (∀ w ∈ s.wmk.waits, ∀ c, w.who = .core c → w.key = key → w.threshold ≤ min (b.count + a.inc) (2 ^ 64 - 1) →
              w.how ≠ .poll → w.released = false → (u.core c).seq = .issuing)))
  ∧ (∀ (s : State) (n : Nat) (remote : Option Nat) (w : Wait), Clocked s → s.wmk.waits[n]? = some w →
      w.how = .poll → w.released = false →
      (∀ (key : Nat) (b : Binding), s.home w.key = .here key b →
        exec (.watchPoll n remote) s = .next (if w.threshold ≤ b.count then s.releaseWait w else s))
      ∧ (∀ (b : Binding) (v : Nat), s.home w.key = .far b → remote = some v →
        exec (.watchPoll n remote) s = .next (if w.threshold ≤ v then s.releaseWait w else s))
      ∧ ((s.home w.key = .refused ∨ (∃ b, s.home w.key = .far b) ∧ remote = none) →
        exec (.watchPoll n remote) s = .next (s.waitRefused w)))
  ∧ (∀ (s : State) (w : Wait) (c : Nat), w.who = .core c →
      ((s.releaseWait w).core c).seq = .issuing ∧ ((s.releaseWait w).core c).live.pc = (s.core c).live.pc + 1
      ∧ (s.releaseWait w).wmk.waits = s.wmk.waits.erase w ∧ SameMemory s (s.releaseWait w) ∧ OtherCores c s (s.releaseWait w))

/-! ## The parameter update -/

/-- CONTRIBUTION_SEND and CONTRIBUTION_TAKE (R267, R268, R302): once GRAD_WMK and CREDIT_WMK have reached what the record needs, the next
chunk goes into its slot of the owner's window; the owner takes the next contribution of the round, whose first one sets the gradient
sum and whose later ones add to it in FP32, and returns a credit; a record whose waits are not met waits on. Work of a die that meets an
uncorrectable word in what it reads, or in a part of a word that it writes, does nothing but log it and fail the record with
UNCORRECTABLE_MEMORY (R405).
What is the model's own in it: log 44 to 46. -/
def Obligations.ContributionsAreSummed : Prop :=
  (∀ (s : State) (x a : Nat) (reads writes : State → List (Nat × Nat)) (f : State → State),
      (s.bad = [] → s.dieWork x a reads writes f = f s)
      ∧ (s.metBad x (reads s) = none → (f s).metBad x (writes s) = none → s.dieWork x a reads writes f = f s)
      ∧ (∀ b, s.bad ≠ [] → s.metBad x (reads s) = some b →
          s.dieWork x a reads writes f = (s.noteAcc (agentOf x) (.bad b)).failRecord x a 0x701))
  ∧ (∀ (s : State) (x : Nat) (r : Rec) (mark : Nat),
      (∀ w ∈ s.waitsOf x r, w.1 = mark → w.2.2 ≤ s.countHere x w.2.1) → s.dieMet x r mark = true)
  ∧ (∀ (s : State) (x a : Nat) (r : Rec), Clocked s → s.record x a = some r → r.failed = false →
      let b := r.bytes
      let nc := chunkCount (s.weightOf x b) (prSparse b)
      let i := r.sent * prR b + s.rankOf b
      let k := i % prSlots b
      let bs := s.contribution x b (r.sent % nc)
      let u := (s.modRec x a (fun r => { r with sent := r.sent + 1 })).advance
      (prInc b * (r.sent / max 1 nc + 1) ≤ s.countHere x (prMark b 0) → i + 1 ≤ s.countHere x (prMark b 1) →
        let work (v : State) : State := s.dieWork x a (fun v => v.contributionAt x b (r.sent % nc)) (fun _ => []) (fun _ => v)
        (r.owner = true → exec (.contributionSend x a) s = .next (work ((({ u with evl := { u.evl with
            landing := mwrite 0 u.evl.landing (landingKey x (prMark b 2) k 0) bs } } : State).dieAdd x r (prMark b 2 + k) 1).armRecord x a)))
        ∧ (r.owner = false → exec (.contributionSend x a) s = .next (work ((u.sendChunk x r k bs).armRecord x a))))
      ∧ ((s.dieMet x r 0 = false ∨ s.dieMet x r 1 = false) → exec (.contributionSend x a) s = .next (s.armRecord x a)))
  ∧ (∀ (s : State) (x a : Nat) (r : Rec), Clocked s → s.record x a = some r → r.failed = false → r.owner = true →
      r.phase = .taking → r.discard = false → prSparse r.bytes = false →
      let b := r.bytes; let d := s.weightOf x b
      let nc := chunkCount d false
      let i := r.taken
      let k := i % prSlots b
      i < (r.rounds + 1) * nc * prR b → i / prSlots b + 1 ≤ s.countHere x (prMark b 2 + k) →
      let f := chunkAt d false (i / prR b % nc)
      let ty := dsType (s.peek x (prGrad b) 128)
      let w := typeBits ty / 8
      let val (e : Nat) : Nat := asF32 ty (fromBytes (mread 0 s.evl.landing (landingKey x (prMark b 2) k 0 + w * e) w))
      let at_ (e : Nat) : Nat := prGsum b + 4 * (f.1 + e)
      let u := (chunks (max 1 (dsSize d 0)) (range f.2)).foldl (fun (s : State) row =>
        s.putWords x (at_ (row.headD 0)) (row.map (fun e =>
          if i % prR b = 0 then val e else f32add (s.word x (at_ e)) (val e)))) s
      let words := (range f.2).map (fun e => (at_ e, 4))
      exec (.contributionTake x a) s =
        .next (s.dieWork x a (fun _ => if i % prR b = 0 then [] else words) (fun _ => words) (fun _ =>
          ((u.modRec x a (fun r => { r with taken := i + 1 })).dieAdd x r (prMark b 1) 1).armRecord x a)))

/-- SLOT_ACQUIRE begins the update of a whole round once slot j is free and every replica has pulled the last version, and fails the
record of an invalid group; PHASE_C computes w from O once ODONE_WMK reaches the record's count (R251, R261, R271, R278). Both fail the
record with UNCORRECTABLE_MEMORY where they meet an uncorrectable word (R405, `State.dieWork` of the statement above).
What is the model's own in it: log 45 and 47. -/
def Obligations.UpdatesAcquireAndCompute : Prop :=
  (∀ (s : State) (x a : Nat) (r : Rec) (u : Upd), Clocked s → s.record x a = some r → prVersion r.bytes = a → r.failed = false →
      r.owner = true → r.unapplied = false → r.phase = .taking →
      r.taken = (r.rounds + 1) * chunkCount (s.weightOf x r.bytes) (prSparse r.bytes) * prR r.bytes → s.updOf x a r = some u →
      (geValid u.e = true → vrAcq u.v u.new_ ≤ s.countHere x (vrMark u.v u.new_) →
        (prR r.bytes - 1) * (r.published - 1) ≤ s.countHere x (prMark r.bytes 4) →
        exec (.slotAcquire x a) s = .next (((s.setSlot x a u.new_ 2 none).modRec x a (fun r => { r with
          step := u.tag, slot := u.new_, nonfinite := false, journalFull := false, stalled := false })).dieWork x a u.reads u.writes
            (fun v => (u.compute v).armRecord x a)))
      ∧ (geValid u.e = false → exec (.slotAcquire x a) s =
          .next (((s.modRec x a (fun r => { r with failed := true, pulling := none })).armRecord x a).event x 0x604 (toBytes 8 a)))
      ∧ (geValid u.e = true → (s.dieMet x r 7 = false ∨ s.dieMet x r 4 = false) →
          exec (.slotAcquire x a) s = .next (s.armRecord x a)))
  ∧ (∀ (s : State) (x a : Nat) (r : Rec) (u : Upd), Clocked s → s.record x a = some r → prVersion r.bytes = a → r.failed = false → r.phase = .phaseB →
      r.owner = true → r.layers ≤ s.countHere x (prMark r.bytes 6) → s.updOf x a r = some u →
      let om : Src := ⟨s.peek x (prMat r.bytes 1) 128, [], none⟩
      let o (q : Nat) := (range u.s0).map (fun c => om.enc s x (coordsOf om.d q c))
      let w (q : Nat) := ((u.old s q).1.zip (o q)).map (fun e => u.phaseC e.1 e.2)
      let wRows (j : Nat) : List (Nat × Nat) := u.rows.map (fun q => (u.arr j 0 + 4 * (q * u.s0), 4 * u.s0))
      exec (.phaseC x a) s = .next (s.dieWork x a (fun v => u.matRanges v 1 ++ wRows u.cur)
        (fun _ => wRows u.new_ ++ u.slotRanges u.new_ u.rows) (fun _ => ((u.rows.foldl (fun (s : State) q =>
          u.writeSlot (s.putWords x (u.arr u.new_ 0 + 4 * (q * u.s0)) (w q)) q (w q)) s).modRec x a (fun r => { r with
        phase := .computed
        nonfinite := r.nonfinite || u.rows.any (fun q => (o q).any f32bad || (w q).any f32bad) })).armRecord x a)))

/-- UPDATE_COMMIT completes: once every record of the group has finished the step, the record commits, withheld or not; it goes on to its
next round with the step committed and the version published, and its die counts the commit, and the withholding if it is one.
VERSION_PULL completes: once READY_WMK allows it the replica's record has pulled one version more and PULLED_WMK gains 1, at once where
it holds the version already; else, with slot j free, the slot is marked in progress and BULK_PULLs ask the owner for its data, and the
record has pulled once they have been answered; before, it waits on. VERSION_STALL_LIMIT completes: an update or a task that
waits for a version is reported once and waits on (R252, R277 to R279).
What is the model's own in it: log 45 and 73. -/
def Obligations.CommitsPullsAndStalls : Prop :=
  (∀ (s : State) (x a : Nat) (r : Rec) (u : Upd), Clocked s → s.record x a = some r → prVersion r.bytes = a → r.failed = false →
      r.owner = true → r.phase = .computed → (∀ q ∈ s.groupRecs x (prGroup r.bytes), q.finishedFor r.step = true) →
      let w := if r.verdict.isNone then s.judge x (prGroup r.bytes) r.step else s
      let held := ((w.record x a).bind Rec.verdict).getD false
      w.updOf x a r = some u →
      exec (.updateCommit x a) s = .next (w.dieWork x a (fun v => u.commitReads v held) (fun v => u.commitWrites v held)
        (fun v => u.commit v held))
      ∧ (s.bad = [] → ∃ t, exec (.updateCommit x a) s = .next t ∧ t.cores = s.cores
        ∧ mget 0 t.evl.committed r.die = (mget 0 s.evl.committed r.die + 1) % 2 ^ 32
        ∧ (r.verdict = some true → mget 0 t.evl.withheld r.die = min (mget 0 s.evl.withheld r.die + 1) (2 ^ 32 - 1))
        ∧ (r.verdict = some false → t.evl.withheld = s.evl.withheld)
        ∧ ∃ q, t.record x a = some q ∧ q.bytes = r.bytes ∧ q.phase = .taking ∧ q.rounds = r.rounds + 1
            ∧ q.published = r.published + 1 ∧ q.committed = some r.step ∧ q.verdict = none ∧ q.present = []))
  ∧ (∀ (s : State) (x a : Nat) (p : OwnerSlot) (r : Rec), Clocked s → s.record x a = some r → prVersion r.bytes = a →
      r.failed = false → r.owner = false →
      let v := s.peek x a 64
      let done (u : State) : State := ((u.modRec x a (fun r =>
        { r with pulled := r.pulled + 1, stalled := false, pulling := none })).dieAdd x r (prMark r.bytes 4) 1).armRecord x a
      (r.pulling = none → r.pulled + 1 ≤ s.countHere x (prMark r.bytes 3) →
        ((vrHolds v p.tag).isSome = true → exec (.versionPull x a p) s = .next (done s)
          ∧ (done s).record x a = some { r with pulled := r.pulled + 1, stalled := false, pulling := none })
        ∧ (vrHolds v p.tag = none → vrAcq v (vrNext v) ≤ s.countHere x (vrMark v (vrNext v)) →
            let u : Upd := ⟨x, r, s.weightOf x r.bytes, v, [], p.tag, 1 - vrNext v, vrNext v, 0⟩
            let t := (s.setSlot x a (vrNext v) 2 none).modRec x a (fun r => { r with pulling := some p.tag, slot := vrNext v })
            exec (.versionPull x a p) s = .next (s.startPull u p)
            ∧ t.record x a = some { r with pulling := some p.tag, slot := vrNext v }
            ∧ (∀ (q : Nat × Nat × Nat) (w : State) (code : Nat), u.pulls p = [q] →
                t.request (.record (recKey x a)) r.die x 5 (prOwnerDev r.bytes) 24 0 false
                  (toBytes 8 q.2.1 ++ toBytes 8 q.2.2 ++ toBytes 8 q.1) = (w, code) →
                s.startPull u p = if code = 0 then w else w.failRecord x a code)))
      ∧ (∀ tag, r.pulling = some tag →
          (s.pullsOut x a = true → exec (.versionPull x a p) s = .next s)
          ∧ (s.pullsOut x a = false → exec (.versionPull x a p) s =
              .next (done ((s.setSlot x a r.slot 1 (some tag)).countWaiting x a))))
      ∧ (r.pulling = none → s.dieMet x r 3 = false → exec (.versionPull x a p) s = .next (s.armRecord x a)))
  ∧ (∀ (s : State) (x : Nat) (a : BitVec 64), Clocked s →
      let m := s.markStalled x a.toNat
      let report (u : State) : State := u.event x 0x601 (toBytes 8 a.toNat)
      (∀ r, s.record x a.toNat = some r → r.failed = false → r.stalled = false →
        ((r.owner = true ∧ r.phase = .taking
            ∧ r.taken = (r.rounds + 1) * chunkCount (s.weightOf x r.bytes) (prSparse r.bytes) * prR r.bytes)
          ∨ (r.owner = false ∧ s.dieMet x r 3 = true ∧ s.dieMet x r 7 = false)) →
        exec (.versionStallLimit x a) s = .next (report (m.1.modRec x a.toNat (fun r => { r with stalled := true }))))
      ∧ ((∀ r, s.record x a.toNat = some r → r.failed = true ∨ r.stalled = true) →
        exec (.versionStallLimit x a) s = .next (if m.2 = true then report m.1 else s))
      ∧ (∀ (g i : Nat) (y : Graph) (t : Task) (v : Nat), (g, y) ∈ s.trh.graphs → y.ctx = x → (i, t) ∈ y.tasks →
        t.version = some (a.toNat, v) → t.counted = false → t.stalled = false → t.phase = .window →
        vrFuture (s.peek x a.toNat 64) v = true → m.2 = true))

/-! ## Host commands -/

/-- The rings of a function that exists: a doorbell in range moves TAIL or HEAD, which lets held replies go, and another counts as a bad
access; MSI-X sets the pending bit of a masked vector, sends another's message, and sends nothing while it is disabled; a packet is fetched
at HEAD, begun if it passes every check, answered with its code if not, and a read that fails stops the ring (R325 to R332). As it
begins, a CTX_DESTROY marks its context as leaving (R339) and a STEP_BEGIN keeps the group entries of that moment (R260). A doorbell of
a function that does not exist does nothing.
What is the model's own in it: log 1, 18, 64 and 65. -/
def Obligations.RingsDoorbellsAndPackets : Prop :=
  (∀ (s : State) (f r : Nat) (v : W64), Clocked s →
      let c := (s.fnOf f).crOf r
      (s.fnExists f = true → c.enable = true → v.toNat < 2 ^ c.log2 →
        exec (.commandDoorbell f r v) s = .next (s.modCr f r (fun c => { c with tail := v.toNat })))
      ∧ (s.fnExists f = true → ¬ (c.enable = true ∧ v.toNat < 2 ^ c.log2) → exec (.commandDoorbell f r v) s = .next (s.badAccess f))
      ∧ (s.fnExists f = false → exec (.commandDoorbell f r v) s = .next s))
  ∧ (∀ (s : State) (f r : Nat) (v : W64), Clocked s →
      let c := (s.fnOf f).cqOf r
      let u := s.modCq f r (fun c => { c with head := v.toNat })
      (s.fnExists f = true → c.enable = true → v.toNat < 2 ^ c.log2 →
        exec (.completionDoorbell f r v) s = .next (u.drainCq f r (c.held.length + 2))
        ∧ (c.held = [] → c.lost = 0 → u.drainCq f r (c.held.length + 2) = u))
      ∧ (s.fnExists f = true → ¬ (c.enable = true ∧ v.toNat < 2 ^ c.log2) → exec (.completionDoorbell f r v) s = .next (s.badAccess f))
      ∧ (s.fnExists f = false → exec (.completionDoorbell f r v) s = .next s))
  ∧ (∀ (s : State) (f r : Nat), Clocked s → ((s.fnOf f).cqOf r).unsignalled ≠ 0 →
      let x := s.fnOf f
      let v := (x.cqOf r).vector
      let entry (o n : Nat) := fromBytes (mread 0 x.msix (16 * v + o) n)
      let u := s.modCq f r (fun c => { c with unsignalled := 0 })
      (x.msixOn = true → (x.msixMask = true ∨ bit (entry 12 4) 0 = true) →
        exec (.msixDelay f r) s = .next (u.modFn f (fun y => { y with pba := y.pba ||| 2 ^ v })))
      ∧ (x.msixOn = true → x.msixMask = false → bit (entry 12 4) 0 = false →
        exec (.msixDelay f r) s = .next (u.emit (.msix f v (entry 0 8) (entry 8 4))))
      ∧ (x.msixOn = false → exec (.msixDelay f r) s = .next u))
  ∧ (∀ (s : State) (f r : Nat) (host : Option (List Byte)), Clocked s →
      let c := (s.fnOf f).crOf r
      c.enable = true → c.error = false → c.head ≠ c.tail →
      (s.nextPacket c host = none → exec (.commandPacket f r host) s =
          .next ((s.modCr f r (fun c => { c with error := true })).post f c.cq ⟨0, 0x105, 0, 0, 3, [], r⟩))
      ∧ (∀ p, s.nextPacket c host = some p → s.mayBegin f r (bit (field p 1 1) 1) = true →
          let u := s.modCr f r (fun c => { c with head := (c.head + 1) % 2 ^ c.log2 })
          (∀ row, u.packetCode f p = 0 → opRow (field p 0 1) = some row →
            let v := u.modCr f r (fun c => { c with begun := c.begun ++ [⟨field p 0 1, field p 4 4, row.long, p, false⟩] })
            exec (.commandPacket f r host) s = .next (v.modCtx (field p 2 1 % 64) (fun c => c.begins (packetCmd f r p) (field p 0 1))))
          ∧ (u.packetCode f p ≠ 0 → exec (.commandPacket f r host) s =
              .next (u.post f c.cq ⟨field p 4 4, u.packetCode f p, field p 0 1, field p 2 1 % 64, 0, [], r⟩)))
      ∧ (∀ p, s.nextPacket c host = some p → s.mayBegin f r (bit (field p 1 1) 1) = false →
          exec (.commandPacket f r host) s = .next s))
  ∧ (∀ (c : Ctx) (h : Cmd) (op : Nat), c.begins h op = if op = 0x02 then { c with leaving := true }
      else if op = 0x0A then { c with latching := (h, c.groups) :: c.latching.filter (fun l => decide (l.1 ≠ h)) }
      else c)

/-- CTX_CREATE makes the lowest free context number and replies it; CTX_DESTROY waits for the commands of its context that other rings
have in progress, and then leaves no such context; MAP_PAGES maps each byte of its range to the physical byte as far from its start;
UNMAP_PAGES waits for the stores already translated, and then leaves no byte of its range mapped; RESUME ends the suspension, reads again
what ready tasks lack and lets waiting feeds go on, and leaves a context that is not suspended as it is (R178, R179, R181, R338, R339).
What is the model's own in it: log 29, 30 and 74. -/
def Obligations.ContextsAndPages : Prop :=
  (∀ (s : State) (h : Cmd) (seed saveArea prio eventCq x : Nat),
      let spell : List Byte → Bool := fun p =>
        decide (field p 8 8 = seed ∧ field p 0x10 8 = saveArea ∧ field p 0x18 1 = prio ∧ field p 0x19 1 = eventCq)
      let u := s.acts h 0x01 spell
      Accepted s h 0x01 spell → s.mayCreate h.fn ≠ 0 →
      ¬ (h.fn ≠ 0 ∧ bits (s.limitsOf h.fn) 48 47 < prio) → prio < 4 → eventCq < 4 → saveArea % 0x200000 = 0 →
      saveArea + 648 * 2 ^ 20 ≤ hbmBytes → (range 64).find? (fun x => (s.ctx x).isNone) = some x →
      exec (.ctxCreate h seed saveArea prio eventCq) s =
          .next ((u.create x h.fn seed saveArea prio eventCq).finish h 0x01 0 (toBytes 1 x))
        ∧ ∀ y, (u.create x h.fn seed saveArea prio eventCq).ctx y = if x = y then
            some { fn := h.fn, seed := seed, saveArea := saveArea, prio := prio, eventCq := eventCq } else s.ctx y)
  ∧ (∀ (s : State) (h : Cmd), Accepted s h 0x02 (fun _ => true) →
      (s.holdsDestroy h = false → exec (.ctxDestroy h) s = .next ((s.destroy h.ctx).finish h 0x02 0 [])
        ∧ (s.destroy h.ctx).ctx h.ctx = none)
      ∧ (s.holdsDestroy h = true → exec (.ctxDestroy h) s = .next s))
  ∧ (∀ (s : State) (h : Cmd) (va pa count attr : Nat) (c : Ctx),
      let spell : List Byte → Bool := fun p =>
        decide (field p 8 8 = va ∧ field p 0x10 8 = pa ∧ field p 0x18 4 = count ∧ field p 0x1C 2 = attr)
      let u := s.acts h 0x03 spell
      Accepted s h 0x03 spell → s.ctx h.ctx = some c →
      let pages := c.pages ++ [⟨va, pa, count, bits attr 4 3, attr⟩]
      (s.mapOk h va pa count attr = true → s.poolUsed + count ≤ s.poolSize → exec (.mapPages h va pa count attr) s =
          .next ((u.setCtx h.ctx { c with pages := pages }).finish h 0x03 0 [])
        ∧ ∀ k < count * pageBytes (bits attr 4 3), lookupPage pages (va + k) = some (pa + k, attr))
      ∧ (s.mapOk h va pa count attr = true → s.poolSize < s.poolUsed + count →
          exec (.mapPages h va pa count attr) s = .next (u.finish h 0x03 0x406 []))
      ∧ (s.mapOk h va pa count attr = false → exec (.mapPages h va pa count attr) s = .next (u.finish h 0x03 0x102 [])))
  ∧ (∀ (s : State) (h : Cmd) (va count size : Nat) (c : Ctx),
      Accepted s h 0x04 (fun p => decide (field p 8 8 = va ∧ field p 0x10 4 = count ∧ field p 0x14 1 = size)) →
      s.ctx h.ctx = some c → size < 3 → va % pageBytes size = 0 → 1 ≤ count → count ≤ 2 ^ 24 → inTier va (count * pageBytes size) = true →
      let pages := c.pages.flatMap (fun p => p.without va (count * pageBytes size) size)
      (s.storesThrough h.ctx va (count * pageBytes size) = false → exec (.unmapPages h va count size) s =
          .next (((s.discardFetched h.ctx va (count * pageBytes size)).modCtx h.ctx (fun c => { c with pages := pages })).finish
            h 0x04 0 [])
        ∧ ((∀ p ∈ c.pages, spansMeet va (count * pageBytes size) p.va p.bytes = true →
              p.size = size ∧ p.va % pageBytes size = 0) →
            ∀ k < count * pageBytes size, lookupPage pages (va + k) = none))
      ∧ (s.storesThrough h.ctx va (count * pageBytes size) = true → exec (.unmapPages h va count size) s = .next s))
  ∧ (∀ (s : State) (h : Cmd) (c : Ctx), Accepted s h 0x05 (fun _ => true) → s.ctx h.ctx = some c →
      let u := s.acts h 0x05
      let t := (u.setCtx h.ctx { c with suspended := false }).loadAgain h.ctx
      (c.suspended = true → exec (.resume h) s = .next (((t.streamsOf h.ctx).foldl
          (fun (s : State) e => s.pump e.1 (e.2.feeds.length + 1)) t).finish h 0x05 0 []))
      ∧ (c.suspended = false → exec (.resume h) s = .next (u.finish h 0x05 0 [])))

/-- GRAPH_SUBMIT of a graph that passes its checks takes the lowest free slot, replies the handle and starts the roots, and replies the
code of the first failed check otherwise; GRAPH_ABORT ends the graph its handle names, and does nothing for a handle of none; QUERY
replies its selector's result and BAD_PARAM for another selector (R285, R298, R342).
What is the model's own in it: log 51 and 74. -/
def Obligations.GraphsAndQueries : Prop :=
  (∀ (s : State) (h : Cmd) (addr : Nat),
      let spell : List Byte → Bool := fun p => decide (field p 8 8 = addr)
      let u := s.acts h 0x08 spell
      Accepted s h 0x08 spell →
      (addr % 128 ≠ 0 → exec (.graphSubmit h addr) s = .next (u.finish h 0x08 0x102 []))
      ∧ (∀ code, u.submitChecks h.ctx addr = .error (code, none) → exec (.graphSubmit h addr) s = .next (u.finish h 0x08 code []))
      ∧ (∀ code a, u.submitChecks h.ctx addr = .error (code, some a) →
          exec (.graphSubmit h addr) s = .next ((u.noteAcc (agentOf h.ctx) a).finish h 0x08 code []))
      ∧ (∀ (d : List Byte) (roots : List Nat) (b : Map Binding), u.submitChecks h.ctx addr = .ok (d, roots, b) →
          let a := u.acceptGraph h.ctx h.fn ((u.fnOf h.fn).crOf h.ring).cq h.tag addr (s.distanceOf h.ctx) d b false
          exec (.graphSubmit h addr) s = .next ((a.1.finish h 0x08 0 (toBytes 4 a.2)).startGraph (a.2 % 256) roots)
            ∧ a.2 = s.freeSlot + 256 * (mget 0 s.trh.gens s.freeSlot % 2 ^ 24)
            ∧ ∃ g, a.1.graph s.freeSlot = some g ∧ g.desc = d ∧ g.ctx = h.ctx ∧ g.addr = addr ∧ g.tasks = []))
  ∧ (∀ (s : State) (h : Cmd) (handle : Nat),
      let spell : List Byte → Bool := fun p => decide (field p 8 4 = handle)
      let u := s.acts h 0x09 spell
      Accepted s h 0x09 spell →
      (∀ x, s.graph (handle % 256) = some x → x.ctx = h.ctx → x.handle (handle % 256) = handle →
        exec (.graphAbort h handle) s = .next ((u.abortGraph (handle % 256)).finish h 0x09 0 []))
      ∧ ((∀ x, s.graph (handle % 256) = some x → x.ctx ≠ h.ctx ∨ x.handle (handle % 256) ≠ handle) →
        exec (.graphAbort h handle) s = .next (u.finish h 0x09 0 [])))
  ∧ (∀ (s : State) (h : Cmd) (sel : Nat),
      let spell : List Byte → Bool := fun p => decide (field p 8 4 = sel)
      let u := s.acts h 0x38 spell
      Accepted s h 0x38 spell →
      (sel = 0 → exec (.query h sel) s = .next (u.finish h 0x38 0 (toBytes 2 0x9720 ++ toBytes 1 0xB0 ++ [0]
        ++ toBytes 2 (if s.nxp.device = 0x7FFF then 0x7FFF else s.me))))
      ∧ (∀ r, u.queryResult h.fn sel = some r → exec (.query h sel) s = .next (u.finish h 0x38 0 r))
      ∧ (3 ≤ sel → exec (.query h sel) s = .next (u.finish h 0x38 0x102 [])))

/-- STEP_BEGIN that nothing holds back latches a newer step with its groups as the generation, writes the cursors and the boundary record,
starts an automatic checkpoint where the policy asks for one and replies OK; its groups are those of the moment at which its packet
began (R260), one that must wait waits, and a step that is not newer is refused with BAD_PARAM. STEP_COMMIT of the latched step replies OK once its conditions hold on a context without a
barrier, reports READY on one with a barrier, and waits until then, which STEP_COMMIT_READY notices (R260, R341, R377, R414).
What is the model's own in it: log 31 and 48. -/
def Obligations.StepsBeginAndCommit : Prop :=
  (∀ (s : State) (h : Cmd) (step : Nat) (c : Ctx),
      Accepted s h 0x0A (fun p => decide (field p 8 4 = step)) → s.ctx h.ctx = some c →
      let groups := ((c.latching.find? (fun l => decide (l.1 = h))).map Prod.snd).getD c.groups
      let done_ (c : Ctx) : Ctx := { c with latching := c.latching.filter (fun l => decide (l.1 ≠ h)) }
      let clean := !s.trh.graphs.any (fun e => decide (e.2.ctx = h.ctx))
      let begun := s.setCtx h.ctx { c with
        step := some step, gens := ⟨step, groups⟩ :: c.gens.take 1, recorded := [], overflowed := false, clean := clean
        committed := false, replays := 0, stashReplay := false, replaying := false, cause := none, causes := 0, told := false
        older := s.repair.waiting
        bound := (s.bindsOf h.ctx).map (fun e => (keyId e.1, e.2.count)) }
      ((∀ v, c.step = some v → newer step v = true) → s.stepWaits h.ctx c step = false →
        ∀ v w : State, begun.writeCursors h.ctx step = (v, true) →
        ((v.creg h.ctx).boundary = 0 ∧ w = v ∨ (v.creg h.ctx).boundary ≠ 0
          ∧ v.write (agentOf h.ctx) ((v.creg h.ctx).boundary + step % 2 * halfBytes) (v.boundaryBytes h.ctx step clean groups) = (w, none)) →
        let p := (w.creg h.ctx).policy
        exec (.stepBegin h step) s = .next ((if bits p 15 0 ≠ 0 ∧ step % bits p 15 0 = 0 ∧ bits p 18 16 ≠ 0 then
          (w.startCkpt h.ctx step (bits p 18 16) none).modCtx h.ctx done_ else w.modCtx h.ctx done_).finish h 0x0A 0 []))
      ∧ (s.streamsOf h.ctx = [] → begun.writeCursors h.ctx step = (begun, true))
      ∧ ((∀ v, c.step = some v → newer step v = true) → s.stepWaits h.ctx c step = true → exec (.stepBegin h step) s =
          .next s)
      ∧ ((∃ v, c.step = some v ∧ newer step v = false) → exec (.stepBegin h step) s =
          .next ((s.setCtx h.ctx (done_ c)).finish h 0x0A 0x102 [])))
  ∧ (∀ (s : State) (h : Cmd) (step : Nat) (c : Ctx),
      let spell : List Byte → Bool := fun p => decide (field p 8 4 = step)
      Accepted s h 0x0B spell → s.ctx h.ctx = some c →
      let y : Ctx := { c with commit := some ⟨h, step, false⟩ }
      let u := (s.acts h 0x0B spell).setCtx h.ctx y
      let told := u.setCtx h.ctx { c with commit := some ⟨h, step, true⟩ }
      (c.step ≠ some step → exec (.stepCommit h step) s = .next (s.finish h 0x0B 0x102 []))
      ∧ (c.step = some step → c.commit.isSome = true → exec (.stepCommit h step) s = .next s)
      ∧ (c.step = some step → c.commit = none → u.mayCommit h.ctx y = true → (s.creg h.ctx).members = 0 →
          exec (.stepCommit h step) s =
            .next ((u.setCtx h.ctx { c with commit := none, committed := true }).finish h 0x0B 0 []))
      ∧ (c.step = some step → c.commit = none → u.mayCommit h.ctx y = true → (s.creg h.ctx).members ≠ 0 →
          exec (.stepCommit h step) s = .next (told.sendManager s.manager 5
            { s.msg with job := (s.creg h.ctx).job, step := step, members := (s.creg h.ctx).members }))
      ∧ (c.step = some step → c.commit = none → u.mayCommit h.ctx y = false → exec (.stepCommit h step) s = .next u))
  ∧ (∀ (s : State) (x : Nat) (c : Ctx) (w : CommitWait), Clocked s → s.ctx x = some c → c.commit = some w → w.sent = false →
      (s.mayCommit x c = true → (s.creg x).members = 0 → exec (.stepCommitReady x) s =
          .next ((s.setCtx x { c with commit := none, committed := true }).finish w.cmd 0x0B 0 []))
      ∧ (s.mayCommit x c = true → (s.creg x).members ≠ 0 → exec (.stepCommitReady x) s =
          .next ((s.setCtx x { c with commit := some { w with sent := true } }).sendManager s.manager 5
            { s.msg with job := (s.creg x).job, step := w.step, members := (s.creg x).members }))
      ∧ (s.mayCommit x c = false → exec (.stepCommitReady x) s = .next s))

/-- CHECKPOINT begins a checkpoint of the latched step or waits behind another, and one with no target replies OK at once;
CHECKPOINT_COPY goes on with one target: the target ends, committed or failed, or its packets are on their way, or a miss suspends the
context; one that its hardware fails has its commit record zeroed and ends as failed (R421). RESTORE takes the newest valid content of the step: it writes the streams' blocks and the saved records, sets the pending groups
and no step, and the boundary area where it came from one, and replies 0x707 where nothing holds the step (R419 to R423).
What is the model's own in it: log 1 and 48. -/
def Obligations.CheckpointsCopyAndRestore : Prop :=
  (∀ (s : State) (h : Cmd) (step targets : Nat) (c : Ctx),
      let spell : List Byte → Bool := fun p => decide (field p 8 4 = step ∧ field p 0xC 4 = targets)
      let u := s.acts h 0x18 spell
      Accepted s h 0x18 spell → s.ctx h.ctx = some c → targets < 8 →
      (c.step = some step → targets = 0 → exec (.checkpoint h step targets) s = .next (u.finish h 0x18 0 []))
      ∧ (c.step = some step → targets ≠ 0 → c.ckpt = none → ∃ t, exec (.checkpoint h step targets) s = .next t
          ∧ t.ctx h.ctx = some { c with ckpt := some ⟨step, targets, 0, some h, false, []⟩ } ∧ t.cores = s.cores)
      ∧ (c.step = some step → targets ≠ 0 → c.ckpt.isSome = true → exec (.checkpoint h step targets) s =
          .next (u.setCtx h.ctx { c with ckptQueue := c.ckptQueue ++ [(some h, step, targets)] }))
      ∧ (c.step ≠ some step → exec (.checkpoint h step targets) s = .next (u.finish h 0x18 0x102 [])))
  ∧ (∀ (s : State) (x t : Nat) (c : Ctx) (k : Ckpt), Clocked s → s.ctx x = some c → c.ckpt = some k → bit k.left t = true →
      s.committedAll x k.step = true → c.suspended = false →
      let r := match k.flights.find? (fun f => decide (f.target = t)) with
        | some f => s.flyOn x f
        | none => s.copySlot x t k.step
      let others := k.flights.filter (fun f => decide (f.target ≠ t))
      (s.nxp.ops.any (fun o => decide (o.owner = OpOwner.thermos x t)) = false →
        (r.2 = .ended true → exec (.checkpointCopy x t false) s = .next (((r.1.modCreg x (fun r => { r with
            valid := if bit r.valid t then r.valid else r.valid + 2 ^ t, last := k.step })).modCtx x
              (fun c => { c with ckpt := some { k with left := k.left - 2 ^ t, done := k.done + 2 ^ t, flights := others } })).endCkpt x))
        ∧ (r.2 = .ended false → exec (.checkpointCopy x t false) s = .next ((r.1.modCtx x
              (fun c => { c with ckpt := some { k with left := k.left - 2 ^ t, bad := true, flights := others } })).endCkpt x))
        ∧ (∀ f, r.2 = .going f → exec (.checkpointCopy x t false) s =
              .next (r.1.modCtx x (fun c => { c with ckpt := some { k with flights := others ++ [f] } })))
        ∧ (∀ va store, r.2 = .miss va store → exec (.checkpointCopy x t false) s = .next (s.suspend x va store)))
      ∧ (s.nxp.ops.any (fun o => decide (o.owner = OpOwner.thermos x t)) = true → exec (.checkpointCopy x t false) s = .next s)
      ∧ exec (.checkpointCopy x t true) s = .next (((s.spoil x t).modCtx x
          (fun c => { c with ckpt := some { k with left := k.left - 2 ^ t, bad := true, flights := others } })).endCkpt x))
  ∧ (∀ (s : State) (h : Cmd) (step source addr : Nat) (slot : List Byte) (c : Ctx),
      Accepted s h 0x19 (fun p => decide (field p 8 4 = step ∧ field p 0xC 4 = source ∧ field p 0x10 8 = addr)) →
      s.ctx h.ctx = some c → c.suspended = false → s.restoreBad h.ctx source addr = false →
      (s.findRestore h.ctx step source addr slot = .ok none → exec (.restore h step source addr slot) s = .next (s.finish h 0x19 0x707 []))
      ∧ (∀ (f : Found) (t : State), s.findRestore h.ctx step source addr slot = .ok (some f) →
          s.writePieces h.ctx 0 (f.bound.streams ++ f.pieces) = (t, none) →
          let v := t.restored h.ctx f
          exec (.restore h step source addr slot) s =
              .next ((if source = 3 then v.modCreg h.ctx (fun r => { r with boundary := addr }) else v).finish h 0x19 0 [])
            ∧ ∀ d, t.ctx h.ctx = some d →
              v.ctx h.ctx = some { d with groups := f.groups, seed := f.seed.getD d.seed, step := none })
      ∧ (∀ (l m : List Boundary), source = 3 → s.readHalf h.ctx addr 0 = .ok l → s.readHalf h.ctx addr 1 = .ok m →
          s.findRestore h.ctx step source addr slot = .ok ((bestHalf step (l ++ m)).map (fun b => ⟨b, [], b.groups, none⟩))))
  ∧ (∀ (step : Nat) (l : List Boundary) (b : Boundary), bestHalf step l = some b → b ∈ l ∧ (step = 0 ∨ b.step = step))

/-- GROUP_WRITE merges the masked words into the pending entry, which it refuses whole where it breaks its rules; WAYMARK_READ replies
the count at the home; WAYMARK_WRITE sets it, or raises it, and marks the context of the home as hand-set; an identifier without a usable
binding is refused with WMK_UNBOUND (R259, R313 to R315).
What is the model's own in it: log 4 and 15. -/
def Obligations.GroupsAndHandSetMarks : Prop :=
  (∀ (s : State) (h : Cmd) (group mask : Nat) (words : List W32) (c : Ctx),
      let spell : List Byte → Bool := fun p => decide (field p 8 1 = group ∧ field p 0xA 2 = mask)
        && (range 12).all (fun k => decide (field p (0xC + 4 * k) 4 = ((words[k]?).map BitVec.toNat).getD 0))
      let u := s.acts h 0x0C spell
      Accepted s h 0x0C spell → s.ctx h.ctx = some c →
      let e := (range 16).map (fun k =>
        if bit mask k then ((words[k]?).map BitVec.toNat).getD 0 else nth 0 (mget [] c.groups group) k)
      (mask < 4096 → group < 256 → entryOk e = true → ∃ g, exec (.groupWrite h group mask words) s =
          .next ((u.setCtx h.ctx { c with groups := g }).finish h 0x0C 0 [])
        ∧ (∀ k, k ≠ group → mget [] g k = mget [] c.groups k) ∧ ∀ k, nth 0 (mget [] g group) k = nth 0 e k)
      ∧ ((4096 ≤ mask ∨ 256 ≤ group ∨ entryOk e = false) →
          exec (.groupWrite h group mask words) s = .next (u.finish h 0x0C 0x102 [])))
  ∧ (∀ (s : State) (h : Cmd) (mark : Nat) (remote : Option (List Byte)),
      let spell : List Byte → Bool := fun p => decide (field p 8 4 = mark)
      let u := s.acts h 0x10 spell
      Accepted s h 0x10 spell →
      ((s.home (wkey h.ctx mark) = .unbound ∨ s.home (wkey h.ctx mark) = .refused) →
        exec (.waymarkRead h mark remote) s = .next (u.finish h 0x10 0xA04 []))
      ∧ (∀ k b, s.home (wkey h.ctx mark) = .here k b →
          exec (.waymarkRead h mark remote) s = .next (u.finish h 0x10 0 (s.markResult k b))
          ∧ (b.count < 2 ^ 64 → field (s.markResult k b) 0 8 = b.count))
      ∧ (∀ b r, s.home (wkey h.ctx mark) = .far b → remote = some r →
          exec (.waymarkRead h mark remote) s = .next (u.finish h 0x10 0 r))
      ∧ (∀ b, s.home (wkey h.ctx mark) = .far b → remote = none →
          exec (.waymarkRead h mark remote) s = .next (u.finish h 0x10 0xA04 [])))
  ∧ (∀ (s : State) (h : Cmd) (mark mode value : Nat) (remote : Bool),
      let spell : List Byte → Bool := fun p =>
        decide (bits (field p 8 4) 19 0 = mark ∧ bits (field p 8 4) 21 20 = mode ∧ field p 0x10 8 = value)
      let u := s.acts h 0x11 spell
      Accepted s h 0x11 spell → mode < 2 →
      ((s.home (wkey h.ctx mark) = .unbound ∨ s.home (wkey h.ctx mark) = .refused) →
        exec (.waymarkWrite h mark mode value remote) s = .next (u.finish h 0x11 0xA04 []))
      ∧ (∀ k b, s.home (wkey h.ctx mark) = .here k b →
        let v := if mode = 0 then value else max b.count value
        let t := u.handSet k v
        exec (.waymarkWrite h mark mode value remote) s = .next (t.finish h 0x11 0 [])
          ∧ t.binding k = some { b with count := v }
          ∧ t.wmk.handset = s.wmk.handset ||| BitVec.ofNat 64 (2 ^ keyCtx k))
      ∧ (∀ b, s.home (wkey h.ctx mark) = .far b → exec (.waymarkWrite h mark mode value remote) s =
          .next (u.finish h 0x11 (if remote then 0 else 0xA04) [])))

/-! ## Roll Call, scrubbing and replay -/

/-- ROLLCALL_RUN begins a run over the clusters in service that its mask names, one run at a time, and replies at once where it names
none; ROLLCALL_CLUSTER drops clusters that are retired by then, asks the tasks of the next cluster to interrupt, then takes it out of
service with its Waymarks at Trailhead, its stores saved and its cores wide and shallow, and returns it, its cores out of that mode and
its Waymarks home, once its signatures agree (R96, R307, R424 to R426).
What is the model's own in it: log 33 and 86. -/
def Obligations.RollCallTestsClusters : Prop :=
  (∀ (s : State) (h : Cmd) (clusters maxpar : Nat),
      let spell : List Byte → Bool := fun p => decide (field p 8 8 = clusters ∧ field p 0x10 4 = maxpar)
      let u := s.acts h 0x1A spell
      Accepted s h 0x1A spell →
      let l := (range 36).filter (fun n => !s.retired n && (decide (clusters = 0) || bit clusters n))
      (1 ≤ maxpar → maxpar ≤ 4 → clusters < 2 ^ 36 → s.rcl.run = none → l ≠ [] → exec (.rollcallRun h clusters maxpar) s =
          .next { u with rcl := { u.rcl with run := some ⟨h, l, 0, 0, maxpar⟩ } })
      ∧ (1 ≤ maxpar → maxpar ≤ 4 → clusters < 2 ^ 36 → s.rcl.run = none → l = [] → exec (.rollcallRun h clusters maxpar) s =
          .next (u.finish h 0x1A 0 (toBytes 8 0 ++ toBytes 8 0)))
      ∧ (1 ≤ maxpar → maxpar ≤ 4 → clusters < 2 ^ 36 → s.rcl.run.isSome = true →
          exec (.rollcallRun h clusters maxpar) s = .next (u.finish h 0x1A 0x708 []))
      ∧ ((maxpar = 0 ∨ 4 < maxpar ∨ 2 ^ 36 ≤ clusters) → exec (.rollcallRun h clusters maxpar) s = .next (u.finish h 0x1A 0x102 [])))
  ∧ (∀ (s : State) (n : Nat) (misr : List Nat) (rows : List (Nat × Nat × Nat)) (r : RollRun), Clocked s → s.rcl.run = some r →
      n ∈ r.left → s.retired n = false → (s.cluster n).mode = .service →
      (r.left.filter (fun m => !s.retired m && decide ((s.cluster m).mode = .service))).head? = some n →
      (r.left.filter (fun m => decide ((s.cluster m).mode = .rollcall))).length < r.maxpar →
      (s.holders n true = [] → exec (.rollcallCluster n misr rows) s =
            .next (s.beginTest n)
          ∧ ((s.beginTest n).cluster n).mode = .rollcall ∧ (∀ j < 18, ((s.beginTest n).core (18 * n + j)).wide = true)
          ∧ (∀ k b, s.binding k = some b → b.eff = 1 → b.home = n → (s.beginTest n).binding k = some { b with away := true })
          ∧ mfind (s.beginTest n).rcl.saved n = some (s.mem.filter (fun e => inStores n e.1), s.bad.filter (inStores n)))
      ∧ (s.holders n true ≠ [] → exec (.rollcallCluster n misr rows) s =
          .next ((s.holders n true).foldl (fun (s : State) e => s.askInterrupt e.1 e.2) s)))
  ∧ (∀ (s : State) (n : Nat) (misr : List Nat) (rows : List (Nat × Nat × Nat)) (r : RollRun), Clocked s → s.rcl.run = some r →
      n ∈ r.left → s.retired n = true → exec (.rollcallCluster n misr rows) s =
        .next (s.endRollCall { r with left := r.left.filter (fun m => !s.retired m) }))
  ∧ (∀ (s : State) (n : Nat) (misr : List Nat) (r : RollRun), Clocked s → s.rcl.run = some r → n ∈ r.left → s.retired n = false →
      (s.cluster n).mode ≠ .service → (∀ b < 24, nth 0 misr b = nth 0 s.boot.image.sigs b) →
      (∀ d ∈ s.repair.waiting, d.inCluster n = false) →
      ∃ t, exec (.rollcallCluster n misr []) s = .next t ∧ (t.cluster n).mode = .service ∧ mget 0 t.rcl.results n = 3
        ∧ t.repair = s.repair ∧ mfind t.rcl.saved n = none
        ∧ (∀ j < 18, (t.core (18 * n + j)).wide = false ∧ (t.core (18 * n + j)).live = {})
        ∧ (∀ k b, s.binding k = some b → b.eff = 1 → b.home = n → t.binding k = some { b with away := false }))

/-- The error log (R406): an entry goes to index WR and WR advances; where that entry was unread it is lost, RD passes it and OVF counts;
SYS_ERRLOG_PTR shows WR, FULL, RD and OVF. SCRUB completes: a word that reads well changes nothing; a corrected error is logged, and the
second one of its row within 24 h records a repair; an uncorrectable word is marked, logged and recorded, memory staying; an error of an
on-chip memory or a datapath is logged and fails its issuer (R404, R405, R415). STEP_REPLAY completes: where replay is not allowed, or a
crossing must be reset that no cluster reset can reach, the step is refused with an event; else Table 14.3's steps are taken in order, and
where nothing of the context is left running the bound Waymarks return to their recorded counts and the replay is counted (R409 to R412).
What is the model's own in it: log 1, 63 and 86. -/
def Obligations.ScrubbingAndReplay : Prop :=
  (∀ (s : State) (code kind source detail : Nat) (ctx : Option Nat) (closed : Bool),
      let l := s.sys.log
      let e : ErrEntry := ⟨s.sys.time, code, kind, (ctx.map (· + 64)).getD 0 + 128 * b2n closed, source, detail, 1⟩
      s.log code kind ctx closed source detail = { s with sys := { s.sys with log := l.push e } }
      ∧ mget {} (l.push e).entries l.wr = e ∧ (l.push e).wr = (l.wr + 1) % 4096
      ∧ (∀ k, k ≠ l.wr → mget {} (l.push e).entries k = mget {} l.entries k)
      ∧ (l.full = false → (l.push e).rd = l.rd ∧ (l.push e).ovf = l.ovf ∧ ((l.push e).full = true ↔ (l.wr + 1) % 4096 = l.rd))
      ∧ (l.full = true → (l.push e).rd = (l.rd + 1) % 4096 ∧ (l.push e).ovf = min (l.ovf + 1) (2 ^ 32 - 1)
          ∧ (l.wr = l.rd → (l.push e).full = true))
      ∧ s.sysReg 0x400 = l.wr + 2 ^ 12 * b2n l.full + 2 ^ 16 * l.rd + 2 ^ 32 * l.ovf)
  ∧ (∀ (s : State) (pa : Nat), Clocked s →
      (∀ at_, exec (.scrub at_ 0) s = .next s)
      ∧ ((regionOf pa).mapped = true → s.lostTarget pa = false →
        let place := s.placeOf pa
        let key := rowKey s pa
        let told := s.logCorrected place.1 place.2 pa
        let again := s.sys.corrected.any (fun e => decide (e.1 = key ∧ s.sys.time ≤ e.2 + 86400000000000))
        let marked : State := { s with bad := if s.bad.contains (wordStart pa) then s.bad else wordStart pa :: s.bad }
        (again = false → exec (.scrub (.word pa) 1) s = .next { told with sys := { told.sys with
          corrected := told.sys.corrected.filter (fun e => decide (e.1 ≠ key)) ++ [(key, told.sys.time)] } })
        ∧ (again = true → exec (.scrub (.word pa) 1) s = .next ((told.recordPa pa).retireDoomed))
        ∧ exec (.scrub (.word pa) 2) s = .next (((marked.log 0x701 place.1 none false place.2 pa).recordPa pa).retireDoomed)
        ∧ (∀ b, b ∈ marked.bad ↔ b ∈ s.bad ∨ b = wordStart pa) ∧ told = { s with sys := told.sys }
        ∧ ∀ t : State, t.recordPa pa = { t with sys := (t.recordPa pa).sys, repair := (t.recordPa pa).repair })
      ∧ (∀ outcome, s.lostTarget pa = true → exec (.scrub (.word pa) outcome) s = .next s)
      ∧ (∀ (k : SramKind) (unit row : Nat) (b : CdcBy), exec (.scrub (.sram k unit row b) 2) s =
          .next (((s.log 0x701 0 (s.ctxOf b) false unit row).recordSram k unit row).issuerFailsWith b 0x701))
      ∧ (∀ (unit : Nat) (b : CdcBy), exec (.scrub (.path unit b) 2) s =
          .next ((s.log 0x705 3 (s.ctxOf b) false unit (Config.eventDetail 3 s.tick)).issuerFailsWith b 0x705)))
  ∧ (∀ s : State, (∀ n < 36, s.doomed n = false) → s.retireDoomed = s)
  ∧ (∀ (s : State) (x : Nat), Clocked s → (∀ c, s.ctx x = some c → c.cause = none ∨ c.step = none) → exec (.stepReplay x) s = .next s)
  ∧ (∀ (s : State) (x cause step : Nat) (c : Ctx), Clocked s → s.ctx x = some c → c.cause = some cause → c.step = some step →
      (s.mayReplay x c cause = false → exec (.stepReplay x) s =
        .next ((range (max 1 c.causes)).foldl (fun (s : State) _ => s.event x 0x709 (toBytes 4 step))
          (s.setCtx x { c with cause := none, causes := 0, replaying := false })))
      ∧ (s.mayReplay x c cause = true →
        let u := (((s.setCtx x { c with replaying := true, stashReplay := c.stashReplay || decide (cause = 0x206) }).replayAborts
          x cause step).landAll x).orphanRecords x
        let v := (u.resetSet c.older).foldl State.clusterReset u
        let w := v.restartRecords x step
        let dead := u.sys.quarantine.any (fun q => decide (36 ≤ (crossingEnds q).1 ∧ 36 ≤ (crossingEnds q).2))
        (dead = true → exec (.stepReplay x) s = .next (u.refuseReplay x step))
        ∧ (dead = false → (∀ e ∈ w.streamsOf x, w.rewinds e.2 = true) → exec (.stepReplay x) s =
            .next (((w.streamsOf x).foldl (fun (s : State) e => s.rewind e.1 e.2) w).replayAgain x step cause c (v.ownMarks x)))
        ∧ (dead = false → (∃ e ∈ w.streamsOf x, w.rewinds e.2 = false) → exec (.stepReplay x) s =
            .next ((((w.streamsOf x).filter (fun e => !w.rewinds e.2)).foldl
              (fun (s : State) e => s.stopStream e.1 0x904) w).refuseReplay x step))
        ∧ ((∀ e ∈ s.trh.graphs, e.2.ctx ≠ x) → s.sys.quarantine = [] → s.repair.waiting = [] → (∀ e ∈ s.evl.recs, e.2.ctx ≠ x) →
          s.streamsOf x = [] → c.recorded = [] →
          ∃ t y, exec (.stepReplay x) s = .next t ∧ t.ctx x = some y ∧ y.replays = c.replays + 1 ∧ y.cause = none
            ∧ y.replaying = false ∧ ((∀ a ∈ s.wmk.adds, keyCtx a.key ≠ x) → t.cores = s.cores)
            ∧ ∀ k b v, s.binding k = some b → keyCtx k = x → b.kind ≠ 3 →
                c.bound.find? (fun e => decide (e.1 = keyId k)) = some v → t.binding k = some { b with count := v.2 })))

/-! ## Video ingest -/

/-- INGEST_OPEN opens a stream of the lowest free number of the engine it takes; INGEST_FEED's references join the stream's feeds, and are
copied into the list area and answered where they keep their layout and fit; another segment is refused whole; INGEST_CLOSE ends the
stream and replies its next clip and cursor (R387, R391, R392, R398).
What is the model's own in it: log 34 and 50. -/
def Obligations.StreamsOpenFeedAndClose : Prop :=
  (∀ (s : State) (h : Cmd) (config start engine n e : Nat) (bs : List Byte),
      Accepted s h 0x20 (fun p => decide (field p 8 8 = config ∧ field p 0x10 8 = start ∧ field p 0x18 1 = engine)) →
      engine < 3 → config % 256 = 0 →
      s.isHere config = true → s.read (agentOf h.ctx) (localOf config) 256 = .data bs → streamCfgOk bs = true →
      s.marksOk h.ctx bs start = true → s.pickEngine engine = some e →
      ((range 256).map (fun k => 256 * e + k)).find? (fun n => (s.stream n).isNone) = some n →
      exec (.ingestOpen h config start engine) s = .next (((s.setStream' n
        { ctx := h.ctx, cfg := bs, cfgAddr := config, start := start, next := start }).modCtx h.ctx
          (fun x => { x with used := true })).finish h 0x20 0 (toBytes 2 n ++ toBytes 1 e)))
  ∧ (∀ (s : State) (h : Cmd) (handle segment count : Nat) (final : Bool) (x : IStream),
      let spell : List Byte → Bool := fun p =>
        decide (field p 8 2 = handle ∧ bit (field p 0xA 1) 0 = final ∧ field p 0x10 8 = segment ∧ field p 0x18 4 = count)
      let u := s.acts h 0x21 spell
      let v := u.modStream handle (fun x => { x with feeds := x.feeds ++ [⟨h, final, segment, count, false⟩] })
      Accepted s h 0x21 spell → s.stream handle = some x → x.ctx = h.ctx →
      let right := 1 ≤ count ∧ count ≤ 2 ^ 20 ∧ x.final = false ∧ x.feeds.any Feed.final = false
      (right → exec (.ingestFeed h handle final segment count) s = .next (v.pump handle (x.feeds.length + 1)))
      ∧ (¬ right → exec (.ingestFeed h handle final segment count) s = .next (u.finish h 0x21 0x102 []))
      ∧ (∀ bs, right → x.feeds = [] → v.readG (x.who handle) segment (32 * count) = .data bs →
          (chunks 32 bs).all (clipRefOk (bit (cgControl x.cfg) 3)) = false → exec (.ingestFeed h handle final segment count) s =
            .next ((v.modStream handle (fun x => { x with feeds := x.feeds.drop 1 })).finish h 0x21 0x102 []))
      ∧ (∀ (bs : List Byte) (w : State), right → x.feeds = [] → v.readG (x.who handle) segment (32 * count) = .data bs →
          (chunks 32 bs).all (clipRefOk (bit (cgControl x.cfg) 3)) = true → count ≤ cgCap x.cfg - x.inList →
          let v' := v.modStream handle (fun y => { y with feeds := ⟨h, final, segment, count, true⟩ :: y.feeds.drop 1 })
          v'.readG (x.who handle) segment (32 * count) = .data bs →
          v'.putRefs handle { x with feeds := [⟨h, final, segment, count, false⟩] } (x.origin + x.fed) bs = (w, none) →
          exec (.ingestFeed h handle final segment count) s = .next ((((w.modStream handle (fun x => { x with
            fed := x.fed + count })).modStream handle (fun x => { x with final := x.final || final })).modStream handle
              (fun x => { x with feeds := x.feeds.drop 1 })).finish h 0x21 0 [])))
  ∧ (∀ (s : State) (h : Cmd) (handle : Nat),
      let spell : List Byte → Bool := fun p => decide (field p 8 2 = handle)
      let u := s.acts h 0x22 spell
      Accepted s h 0x22 spell →
      (∀ x, s.stream handle = some x → x.ctx = h.ctx →
        exec (.ingestClose h handle) s =
            .next ((u.closeStream handle).finish h 0x22 0 (toBytes 8 x.next ++ toBytes 8 (s.cursor x)))
          ∧ (u.closeStream handle).stream handle = none)
      ∧ ((∀ x, s.stream handle = some x → x.ctx ≠ h.ctx) →
        exec (.ingestClose h handle) s = .next (u.finish h 0x22 0x102 [])))

/-- DECODE_ACCESS_UNIT takes the stream whose turn it is, starts its next clip where it has none, decodes one access unit and counts the
engine's samples; CLIP_WRITE writes the finished clip's record and tensor into its slot, adds 1 to the produced count and goes to the next
clip (R381, R386, R394 to R396). An engine that is down or has no stream whose turn it can be does nothing.
What is the model's own in it: log 1, 7, 36 and 50. -/
def Obligations.ClipsDecodedAndWritten : Prop :=
  (∀ (s : State) (e h : Nat) (x : IStream), Clocked s → s.engineUp e = true → s.turnOf e = some (h, x) →
      let v := s.modEngine e (fun g => { g with rr := h })
      let unit (u : State) (k : Clip) : State :=
        let r := Config.decodeAu (bits (cgControl x.cfg) 2 0) k.source k.au
        let d := k.decode x.cfg r
        ((u.modStream h (fun x => { x with clip := some d.1 })).modEngine e (fun g => { g with
          samples := (g.samples + r.samples) % 2 ^ 48, gops := min (g.gops + d.2) (2 ^ 32 - 1) })).advance
      (∀ k, x.clip = some k → k.finished = false → exec (.decodeAccessUnit e) s = .next (unit v k))
      ∧ (∀ u k, x.clip = none → v.startClip h x ((x.position x.next).getD 0) = (u, some k) → k.finished = false →
          exec (.decodeAccessUnit e) s = .next (unit u k))
      ∧ (∀ u k, x.clip = none → v.startClip h x ((x.position x.next).getD 0) = (u, some k) → k.finished = true →
          exec (.decodeAccessUnit e) s = .next (u.modStream h (fun x => { x with clip := some k })))
      ∧ (∀ u, x.clip = none → v.startClip h x ((x.position x.next).getD 0) = (u, none) →
          exec (.decodeAccessUnit e) s = .next u.advance))
  ∧ (∀ (s : State) (e : Nat), s.turnOf e = none → exec (.decodeAccessUnit e) s = .next s)
  ∧ (∀ (s u v : State) (e h : Nat) (x : IStream) (k : Clip), Clocked s → s.engineUp e = true → s.stream h = some x →
      h / 256 = e → x.stopped = false → x.paused = false → x.clip = some k → k.finished = true → s.slotReady x = true →
      (∃ c, s.ctx x.ctx = some c ∧ c.suspended = false) →
      let f := k.filled (cgF x.cfg)
      let slot := field x.cfg 0x18 8 + k.n % cgB x.cfg * field x.cfg 0x20 8
      s.write (x.who h) slot (k.record f.2) = (u, none) →
      u.write (x.who h) (slot + 4096) (packBits (typeBits (cgType x.cfg)) (clipTensor x.cfg f.1)) = (v, none) →
      let next := v.modStream h (fun x => { x with next := x.next + 1, clip := none })
      let counted := if k.unsupported then
        next.modEngine e (fun g => { g with unsupported := min (g.unsupported + 1) (2 ^ 32 - 1) }) else next
      let told := if k.unsupported = false ∧ k.dropped ≠ 0 then counted.event x.ctx 0x901 (toBytes 4 h ++ toBytes 8 k.n) else counted
      exec (.clipWrite e h) s = .next (((told.sendAdd (.ingest e) x.produced 1 none).1).pump h (x.feeds.length + 1)))

/-! ## Nunex ports and packets -/

/-- A failed lane is replaced by the spare, else the port runs on three lanes, and with three failed lanes it goes down; training and
retraining move a port between its states; the flits not acknowledged are sent again in order. FLIT_RECEIVE: a good flit in sequence is
accepted, its acknowledgement and its credits taken, the flits that can go are sent, and the packets that its bytes complete are taken, in
order; the bytes of a packet are read back as that packet, with what follows them left. A flit that fails a check, or is out of sequence,
is discarded, and the next flit out carries a single NAK that names the last good one (R349 to R353, R360).
What is the model's own in it: log 23, 27 and 75. -/
def Obligations.PortsFlitsAndLanes : Prop :=
  (∀ (s : State) (p : Nat), Clocked s →
    let x := s.port p
    (∀ l, l < 5 → x.state ≠ 0 → bit x.failed l = false →
      let y : Port := { x with failed := x.failed + 2 ^ l }
      ∃ t, exec (.laneFail p l) s = .next t
        ∧ (3 ≤ y.failedLanes → t.port p = { y.emptied with state := 0, retrains := 0, resends := 0 })
        ∧ (y.failedLanes < 3 → y.spare = l → t.port p = { y with spare := 7 })
        ∧ (y.failedLanes < 3 → y.spare ≠ l → y.spare ≠ 7 →
            (t.port p).spare = 7 ∧ (t.port p).state = 3 ∧ (t.port p).failed = y.failed ∧ y.unacked <+: (t.port p).unacked)
        ∧ (y.failedLanes < 3 → y.spare ≠ l → y.spare = 7 → t.port p = { y with state := if y.state = 3 then 3 else 2 }))
    ∧ (x.serves = true → x.unacked ≠ [] → exec (.flitAckTimeout p) s = .next ((s.modPort p (fun x =>
        { x with replays := min (x.replays + 1) (2 ^ 16 - 1), resends := x.resends + 1 })).emit (.flits p (x.unacked.map Prod.fst))))
    ∧ (x.state = 3 → exec (.portRetrain p) s = .next (s.modPort p (fun x => { x with retrains := x.retrains + 1 })))
    ∧ (x.serves = true → 8 ≤ x.resends → ∃ t, exec (.portRetrain p) s = .next t ∧ t.port p = { x with state := 3, retrains := 0 })
    ∧ (x.state = 3 → 3 ≤ x.retrains → ∃ t, exec (.portDown p) s = .next t
        ∧ t.port p = { x.emptied with state := 0, retrains := 0, resends := 0 })
    ∧ (∀ three, x.state = 3 → ∃ t, exec (.portRetrained p three) s = .next t
        ∧ (t.port p).state = (if three = true ∨ 2 ≤ x.failedLanes then 2 else 1) ∧ (t.port p).retrains = 0
        ∧ (t.port p).resends = 0 ∧ x.unacked <+: (t.port p).unacked))
  ∧ (∀ (s : State) (p : Nat) (f : List Byte), Clocked s → (s.port p).serves = true →
    let x := s.port p
    let w := field f 0 8
    (f.length = 256 → crc32 (f.take 252) = field f 252 4 → w % 2 ^ 12 = x.rxSeq →
      let y : Port := { (x.ackTo (bits w 23 12)).credit w with
        fec := min (x.fec + Config.fecSymbols s.tick) (2 ^ 32 - 1), rxSeq := (x.rxSeq + 1) % 4096, discarding := false, nak := false }
      let z := s.advance.modPort p (fun _ => y)
      let v := (if bit w 24 then z.replayFlits p else z).modPort p Port.pump
      exec (.flitReceive p f true) s = .next (v.unpackFlit p (bits w 26 25) (slice f 8 244))
        ∧ v = { s with tick := v.tick, nxp := v.nxp, out := v.out }
        ∧ v.port p = (if bit w 24 then { y with replays := min (y.replays + 1) (2 ^ 16 - 1), resends := y.resends + 1 } else y).pump)
    ∧ ((f.length ≠ 256 ∨ crc32 (f.take 252) ≠ field f 252 4 ∨ w % 2 ^ 12 ≠ x.rxSeq) →
      (x.nak = true → exec (.flitReceive p f true) s = .next s)
      ∧ (x.nak = false → exec (.flitReceive p f true) s = .next ((s.modPort p (fun x =>
          Port.pump { x with discarding := true, nak := true, nakDue := true })))))
    ∧ exec (.flitReceive p f false) s = exec (.flitReceive p [] true) s)
  ∧ (∀ (s : State) (p v : Nat) (payload : List Byte),
    let b := mget [] (s.port p).rx v ++ payload
    let r := unpack (p / 9) b.length b
    s.unpackFlit p v payload = (r.1.foldl State.packetIn (s.modPort p (fun x => { x with rx := mset [] x.rx v r.2 }))).takeInbox)
  ∧ (∀ (k : Packet) (n : Nat) (rest : List Byte), k.op < 256 → k.flags < 8 → k.src < 2 ^ 16 → k.dst < 2 ^ 16 → k.epoch < 2 ^ 16 →
    k.sseq < 2 ^ 16 → k.tag < 2 ^ 13 → k.job < 2 ^ 16 → k.length < 2 ^ 13 → k.addr < 2 ^ 64 → k.rsv = false →
    k.data.length = dataAfter k.op k.length →
    unpack k.die (n + 1) (packetBytes k ++ rest) = (k :: (unpack k.die n rest).1, (unpack k.die n rest).2))

/-- A packet of READ, WRITE, WRITE_SIGNAL, WAYMARK_ADD, BULK_PULL or BULK_WRITE that is next in its stream is placed and answered, the
stream expects the next number, and the packets held behind it are placed in order; one placed already is answered again and placed no
more; one ahead of its stream places nothing: it is held in the reorder buffer, or dropped and answered with E2E_NAK where that is full. A
stream's first packet has number 0. The first packet of a new epoch of its source ends the streams of the older one; one of an epoch
before the source's newest is discarded, as is all that a lost die receives; one with a reserved bit set is discarded and counted (R359,
R361, R364, R366, R367, R369, R371). What is the model's own in it: log 37. -/
def Obligations.PacketsPlacedInOrder : Prop :=
  (∀ (s : State) (p : Packet) (c : Instr), Clocked s →
    ((p.op = 1 ∧ c = .read p) ∨ (p.op = 2 ∧ c = .write p) ∨ (p.op = 3 ∧ c = .writeSignal p) ∨ (p.op = 4 ∧ c = .waymarkAdd p)
      ∨ (p.op = 5 ∧ c = .bulkPull p) ∨ (p.op = 6 ∧ c = .bulkWrite p)) →
    (bit s.nxp.diesLost p.die = true → exec c s = .next s)
    ∧ (bit s.nxp.diesLost p.die = false → p.rsv = true → exec c s = .next (s.dropPacket p.die))
    ∧ (bit s.nxp.diesLost p.die = false → p.rsv = false →
      (∃ r ∈ s.nxp.rx, r.src = p.src ∧ epochNewer r.epoch p.epoch = true) → exec c s = .next s)
    ∧ ((∀ r ∈ s.nxp.rx, r.src = p.src → epochNewer r.epoch p.epoch = false) →
      exec c s = exec c (if bit s.nxp.diesLost p.die ∨ p.rsv then s else { s with nxp := { s.nxp with
        rx := s.nxp.rx.filter (fun r => !(decide (r.src = p.src) && decide (r.epoch ≠ p.epoch))) } }))
    ∧ (∀ q, bit s.nxp.diesLost p.die = false → p.rsv = false → (∀ r ∈ s.nxp.rx, r.src = p.src → r.epoch = p.epoch) →
      (s.nxp.rx.find? (fun q => q.of p) = some q
        ∨ s.nxp.rx.find? (fun q => q.of p) = none ∧ q = ⟨p.src, b2n (bit p.flags 1), p.die, vcOf p.op, p.epoch, 0, [], []⟩) →
      let ahead := (p.sseq + 65536 - q.next) % 65536
      (p.sseq = q.next → q.next < 65536 →
        let r := s.placeAnswer p q
        let z := r.1.placeHeld r.2 r.2.held.length
        exec c s = .next (z.1.setStream z.2) ∧ r.2.next = (p.sseq + 1) % 65536 ∧ (q.held = [] → z = r))
      ∧ (∀ k, 32768 ≤ ahead → q.answers.find? (fun a => decide (a.1 = p.sseq)) = some (p.sseq, k) → exec c s = .next (s.transmit k))
      ∧ (32768 ≤ ahead → q.answers.find? (fun a => decide (a.1 = p.sseq)) = none → exec c s = .next s)
      ∧ (1 ≤ ahead → ahead < 32768 →
        let vc0 := decide (q.vc = 0)
        let full := (if vc0 = true then 0x40000 else 0xFC0000) < s.reorderBytes p.die vc0 + 24 + p.data.length
        (q.held.any (fun h => decide (h.sseq = p.sseq)) = true → exec c s = .next s)
        ∧ (q.held.any (fun h => decide (h.sseq = p.sseq)) = false →
          (¬ full → exec c s = .next (s.setStream { q with held := q.held ++ [p] })
            ∧ SameMemory s (s.setStream { q with held := q.held ++ [p] }))
          ∧ (full →
            let n := (s.dropPacket p.die).build ((s.sendDie p.die).getD p.die) 9 p.src p.tag 0 0 0 false []
            exec c s = .next (n.1.transmit n.2))))))
  ∧ (∀ (s : State) (q : Stream) (n : Nat),
    (∀ p, q.held.find? (fun p => decide (p.sseq = q.next)) = some p →
      let r := s.placeAnswer p { q with held := q.held.erase p }
      s.placeHeld q (n + 1) = r.1.placeHeld r.2 n)
    ∧ (q.held.find? (fun p => decide (p.sseq = q.next)) = none → s.placeHeld q (n + 1) = (s, q)))

/-- What a packet does at its destination: WRITE and BULK_WRITE write their data and READ reads, each as the context that exports the
packet's job, but for a speculative READ of a NOSPEC page; WRITE_SIGNAL adds only once its data is written; WAYMARK_ADD adds to an exported
binding; with no such context, or none serving, the answer is 0x504 (R188, R305, R361, R367).
What is the model's own in it: log 37. -/
def Obligations.PacketEffects : Prop :=
  ∀ (s : State) (p : Packet),
    (∀ x, p.op = 1 → s.servesRemote = true → s.exporter p.job = some x →
      let secret := bit p.flags 0 && (units (localOf p.addr) p.length).any (fun q => s.nospec x q.1)
      (∀ bs, secret = false → s.read (s.remoteWho x (bits p.flags 2 2)) (localOf p.addr) p.length = .data bs → s.place p = (s, some (0, bs)))
      ∧ (secret = true → s.place p = (s, some (0x504, []))))
    ∧ (∀ x t, (p.op = 2 ∨ p.op = 6) → p.addr < 2 ^ 63 → s.servesRemote = true → s.exporter p.job = some x →
      s.write (s.remoteWho x (bits p.flags 2 2)) (localOf p.addr) (p.data.take p.length) = (t, none) → s.place p = (t, some (0, [])))
    ∧ ((p.op = 1 ∨ p.op = 2 ∨ p.op = 5 ∨ p.op = 6) → (s.servesRemote = false ∨ s.exporter p.job = none) →
      s.place p = (s, some (0x504, [])))
    ∧ (∀ t, p.op = 3 → p.length ≠ 0 → s.remoteWrite p (p.data.take p.length) = (t, 0) →
      let r := t.remoteAdd (field p.data p.length 8) (field p.data (p.length + 8) 8)
      s.place p = (r.1, some (r.2, [])))
    ∧ (∀ t c, p.op = 3 → p.length ≠ 0 → c ≠ 0 → s.remoteWrite p (p.data.take p.length) = (t, c) → s.place p = (t, some (c, [])))
    ∧ (p.op = 4 → (s.nxp.leaving = true ∨ s.nxp.device = 0x7FFF) → s.place p = (s, some (0x504, [])))
    ∧ (p.op = 4 → s.nxp.leaving = false → s.nxp.device ≠ 0x7FFF →
      let key := wkey (bits p.addr 25 20) (bits p.addr 19 0)
      (∀ b, s.exported key = some b → s.servesRemote = true → field p.data 0 8 ≠ 0 →
        s.place p = (s.applyAdd key (field p.data 0 8), some (0, [])))
      ∧ (s.exported key = none → s.place p = (s, some (0xA04, []))))

/-- RESPONSE completes: it ends the operation that holds its tag, well or with the answer's code, and is discarded where none does. E2E_NAK
completes: the packet of the operation that holds its tag is sent again unchanged. RESEND_TIMEOUT completes: the packet is sent again, over
another port where one is in service, up to 3 times, and then the operation fails with 0x502. BULK_COPY completes: it copies between two
ends of this device, pushes packets from a source here, asks the other device to push where the source is there, and fails where neither
end is here; it ends once, after its last packet, with the code of the first one that failed, and a failed copy fails its issuer; a copy of
no issuer, or of a length that it does not allow, does nothing (R359, R362, R364, R365, R369).
What is the model's own in it: log 1 and 37. -/
def Obligations.OperationsEndOnce : Prop :=
  (∀ (s : State) (p : Packet), Clocked s → p.op = 8 →
      (bit s.nxp.diesLost p.die = true → exec (.response p) s = .next s)
      ∧ (bit s.nxp.diesLost p.die = false → p.rsv = true → exec (.response p) s = .next (s.dropPacket p.die))
      ∧ (bit s.nxp.diesLost p.die = false → p.rsv = false → s.opAt p.die p.tag = none → exec (.response p) s = .next s)
      ∧ (∀ o, bit s.nxp.diesLost p.die = false → p.rsv = false → s.opAt p.die p.tag = some o →
        (p.addr % 65536 = 0 → exec (.response p) s = .next (((s.endOp p.die p.tag).opDone o p.data).tryLeave))
        ∧ (p.addr % 65536 ≠ 0 → exec (.response p) s = .next (((s.endOp p.die p.tag).opFails o (p.addr % 65536)).tryLeave))))
  ∧ (∀ (s : State) (p : Packet), Clocked s → p.op = 9 →
      (bit s.nxp.diesLost p.die = true → exec (.e2eNak p) s = .next s)
      ∧ (bit s.nxp.diesLost p.die = false → p.rsv = true → exec (.e2eNak p) s = .next (s.dropPacket p.die))
      ∧ (bit s.nxp.diesLost p.die = false → p.rsv = false → s.opAt p.die p.tag = none → exec (.e2eNak p) s = .next s)
      ∧ (∀ o, bit s.nxp.diesLost p.die = false → p.rsv = false → s.opAt p.die p.tag = some o →
          exec (.e2eNak p) s = .next (s.transmit o.packet)))
  ∧ (∀ (s : State) (die tag : Nat), Clocked s →
      (s.opAt die tag = none → exec (.resendTimeout die tag) s = .next s)
      ∧ (∀ o, s.opAt die tag = some o → o.resends < 3 →
        let port := s.otherPort die o.port
        (∀ p, port = some p → (s.port p).serves = true ∧ (p ≠ o.port ∨ ∀ q ∈ portsOf die, (s.port q).serves = true → q = o.port))
        ∧ exec (.resendTimeout die tag) s = .next (({ s with nxp := { s.nxp with ops := s.nxp.ops.map (fun q =>
          if q = o then { q with resends := q.resends + 1, port := port.getD q.port } else q) } } : State).transmitOver port o.packet))
      ∧ (∀ o, s.opAt die tag = some o → 3 ≤ o.resends →
          exec (.resendTimeout die tag) s = .next (((s.endOp die tag).opFails o 0x502).tryLeave)))
  ∧ (∀ (s : State) (y : CopyBy) (die : Nat) (src dst : W64) (n : Nat), Clocked s →
      let a := src.toNat; let b := dst.toNat
      let go := exec (.bulkCopy y die src dst n) s
      ((s.copyCtx y = none ∨ n = 0 ∨ 2 ^ 32 < n) → go = .next s)
      ∧ (∀ x, s.copyCtx y = some x → 1 ≤ n → n ≤ 2 ^ 32 →
        let w := s.copyWho y x
        let t := s.newCopy y
        (∀ c, s.isHere a = true → s.read w (localOf a) n = .stop c → go = .next (s.copyStops y w c false))
        ∧ (∀ bs u, s.isHere a = true → s.isHere b = true → s.read w (localOf a) n = .data bs →
          (s.write w (localOf b) bs = (u, none) → go = .next (u.copyOver y 0))
          ∧ (∀ c, s.write w (localOf b) bs = (u, some c) → go = .next (u.copyStops y w c true)))
        ∧ (∀ bs, s.isHere a = true → s.isHere b = false → s.read w (localOf a) n = .data bs →
          go = .next (t.1.sendCopy x die t.2 6 (deviceOf b) (packets (localOf b) bs)))
        ∧ (s.isHere a = false → s.isHere b = true → go = .next (t.1.sendCopy x die t.2 5 (deviceOf a)
          [(0, toBytes 8 (localOf a) ++ toBytes 8 (localOf b) ++ toBytes 8 n)]))
        ∧ (s.isHere a = false → s.isHere b = false → go = .next (s.copyOver y 0x402))))
  ∧ (∀ (s u : State) (x die i op dst code : Nat) (e : Nat × List Byte),
      s.request (.copy i) die x op dst e.2.length e.1 false e.2 = (u, code) →
      s.sendCopy x die i op dst [e] = if code = 0 then u else (u.copyFailed i code).copyEnd i)
  ∧ (∀ (s : State) (y : CopyBy) (code : Nat),
      s.copyOver y 0 = s.emit (.copyEnds y 0) ∧ (code ≠ 0 → s.copyOver y code = (s.emit (.copyEnds y code)).issuerFails y code))
  ∧ (∀ (s : State) (o : Op) (i code : Nat) (c : Copy) (data : List Byte), o.owner = .copy i → mfind s.nxp.copies i = some c →
      s.nxp.ops.any (fun q => decide (q.owner = OpOwner.copy i)) = false →
      let last : State := { s with nxp := { s.nxp with copies := mdel s.nxp.copies i } }
      s.opDone o data = last.copyOver c.by_ c.code
      ∧ ∃ v : State, s.opFails o code = v.copyOver c.by_ (if c.code = 0 then code else c.code)
        ∧ v = { s with nxp := v.nxp })

/-! ## Membership, managers and barriers -/

/-- Joining, granting, leaving and membership: a joining device takes the identifier it is granted, with its ports restored where it had
left; the first manager of a hall grants itself one, a device whose operations have ended has left; the active manager records members,
failures and leaves, and replaces a failed worker by a spare under a new epoch, the spare's own identifier withdrawn; a silent manager's
standby takes over with the next term (R353, R373 to R376).
What is the model's own in it: log 37 and 49. -/
def Obligations.MembershipOfTheFabric : Prop :=
  (∀ (s : State) (h : Cmd) (role request : Nat),
      let spell : List Byte → Bool := fun p => decide (field p 8 1 = role ∧ field p 0xA 2 = request)
      let u := s.acts h 0x28 spell
      Accepted s h 0x28 spell →
      let right := s.nxp.device = 0x7FFF ∧ s.nxp.joining = none ∧ role < 3 ∧ request < 32768 ∧ decide (role = 2) = s.managerMode
      let v := if s.nxp.left_ then u.restorePorts else u
      (right → exec (.fabricJoin h role request) s =
          .next (({ v with nxp := { v.nxp with joining := some (h, role, request), left_ := false } } : State).sendJoin
            { s.msg with src := 0x7FFF, role := role, request := request }))
      ∧ (∀ p < 18, bit s.nxp.diesLost (p / 9) = false → ((s.port p).state = 0 ∨ (s.port p).failed ≠ 0) →
          (u.restorePorts.port p).state = 3 ∧ (u.restorePorts.port p).spare = 4 ∧ (u.restorePorts.port p).failed = 0)
      ∧ (¬ right → exec (.fabricJoin h role request) s = .next (u.finish h 0x28 0x102 [])))
  ∧ (∀ (s : State) (h : Cmd) (role request : Nat), Clocked s → s.nxp.joining = some (h, role, request) →
      (role ≠ 2 → exec .joinTimeout s = .next (({ s with nxp := { s.nxp with joining := none } } : State).finish h 0x28 0x501 []))
      ∧ (role = 2 → ∃ t, exec .joinTimeout s = .next t ∧ t.nxp.mgr = 2 ∧ t.nxp.term = max s.nxp.term 1 ∧ t.nxp.joining = none
          ∧ t.nxp.device = (if request = 0x7FFD then 0x7FFD else 0x7FFC))
      ∧ (∀ m : MgrMsg, m.ident % 32768 ≠ 0x7FFF → ∃ t, exec (.grant m) s = .next t ∧ t.nxp.device = m.ident % 32768
          ∧ t.nxp.hall = m.ident / 32768 ∧ t.nxp.epoch = m.epoch ∧ t.nxp.role = role + 1 ∧ t.nxp.joining = none)
      ∧ (∀ m : MgrMsg, m.ident % 32768 = 0x7FFF → exec (.grant m) s =
          .next (({ s with nxp := { s.nxp with joining := none } } : State).finish h 0x28 0x504 [])))
  ∧ (∀ (s : State) (h : Cmd),
      let u := s.acts h 0x29
      Accepted s h 0x29 (fun _ => true) →
      ((s.nxp.device = 0x7FFF ∨ s.nxp.leaving = true) → exec (.fabricLeave h) s = .next (u.finish h 0x29 0 []))
      ∧ (s.nxp.device ≠ 0x7FFF → s.nxp.leaving = false → s.nxp.ops ≠ [] → exec (.fabricLeave h) s =
          .next { u with nxp := { u.nxp with leaving := true, leaveCmd := some h } })
      ∧ (s.nxp.device ≠ 0x7FFF → s.nxp.leaving = false → s.nxp.ops = [] → ∃ t, exec (.fabricLeave h) s = .next t
          ∧ t.nxp.device = 0x7FFF ∧ t.nxp.epoch = 0 ∧ t.nxp.role = 0 ∧ t.nxp.members = [] ∧ t.nxp.left_ = true))
  ∧ (∀ (s : State) (m : MgrMsg) (id : Nat), Clocked s → s.nxp.mgr = 2 → s.grantId m.role m.request = some id →
      let e := (mget 0 s.nxp.epochs id + 1) % 65536
      ∃ t, exec (.join m) s = .next t ∧ mfind t.nxp.members id = some ⟨e, 0, 0, decide (m.role = 1)⟩
        ∧ (let k : MgrMsg := { s.msg with ident := id, epoch := e, role := m.role }
          (s.nxp.standby = true → ∃ c ∈ t.nxp.changes, (m.src, 2, k) ∈ c.send)
          ∧ (CanSend s → ∃ p,
            (if s.nxp.standby then Emit.manager p s.other 8 { k with role := 4 } else Emit.manager p m.src 2 k) ∈ t.out)))
  ∧ (∀ (s : State) (m : MgrMsg), Clocked s → s.nxp.mgr = 2 → s.grantId m.role m.request = none →
      exec (.join m) s = .next (s.sendManager m.src 2 { s.msg with ident := 0x7FFF }))
  ∧ (∀ (s : State) (r : Nat) (m : Member), mfind s.nxp.members r = some m → m.state ≠ 2 → s.idFree r = false)
  ∧ (∀ (s : State) (ident : Nat) (m : Member), Clocked s → s.nxp.mgr = 2 → ident < 0x7FFC → m.state = 0 → m.spare = false →
      let id := ident + 32768 * s.nxp.hall
      mfind s.nxp.members id = some m →
      let spare := (mput s.nxp.members id { m with state := 1 }).find? (fun e => e.2.spare && decide (e.2.state = 0))
      (spare = none → ∃ t, exec (.memberFailed ident) s = .next t ∧ mfind t.nxp.members id = some { m with state := 1 })
      ∧ (∀ p, spare = some p → ∃ t, exec (.memberFailed ident) s = .next t
          ∧ mfind t.nxp.members id = some ⟨(m.epoch + 1) % 65536, p.2.dies, 0, false⟩
          ∧ (p.1 ≠ id → mfind t.nxp.members p.1 = some { p.2 with state := 2 })))
  ∧ (∀ s : State, Clocked s → s.nxp.mgr = 1 → ∃ t, exec .managerSilence s = .next t ∧ t.nxp.mgr = 2
      ∧ t.nxp.term = (s.nxp.term + 1) % 2 ^ 32 ∧ t.nxp.standby = false ∧ t.nxp.members = s.nxp.members)

/-- What managers and members hear: heartbeats go to the manager, or from it to every member, to the standby and across the halls; a higher
term is taken, and an active manager that sees one becomes the standby; the hall's other manager, once it has stopped acting, is the
standby and is sent what the active one holds; a heartbeat from the other hall mends the pairing; a member keeps the membership record it
is sent, and is told of the pairing by one of the other hall's manager (R375, R376, R378).
What is the model's own in it: log 49. -/
def Obligations.HeartbeatsAndTerms : Prop :=
  (∀ s : State, Clocked s → s.nxp.device ≠ 0x7FFF →
      let k : MgrMsg := { s.msg with dies := s.nxp.diesLost }
      (s.nxp.mgr ≠ 2 → exec .heartbeatTimer s = .next (s.sendManager s.manager 3 k))
      ∧ (s.nxp.mgr = 2 → ∃ t, exec .heartbeatTimer s = .next t ∧ t = { s with nxp := t.nxp, out := t.out }
          ∧ (CanSend s → (∀ d ∈ s.current, ∃ p, Emit.manager p d 3 k ∈ t.out) ∧ (∃ p, Emit.manager p s.across 3 k ∈ t.out)
            ∧ (s.nxp.standby = true → ∃ p, Emit.manager p s.other 3 k ∈ t.out))))
  ∧ (∀ (s : State) (m : MgrMsg), Clocked s →
      (s.nxp.device ≠ 0x7FFF → m.src / 32768 = s.nxp.hall → 0x7FFC ≤ m.src % 32768 → m.src % 32768 < 0x7FFF → s.nxp.term < m.term →
        exec (.heartbeat m) s = .next { s with nxp := { s.nxp with
          term := m.term, mgr := if s.nxp.mgr = 2 then 1 else s.nxp.mgr
          changes := if s.nxp.mgr = 2 then [] else s.nxp.changes } })
      ∧ (s.nxp.device ≠ 0x7FFF → m.src / 32768 = s.nxp.hall → 0x7FFC ≤ m.src % 32768 → m.src % 32768 < 0x7FFF → s.nxp.mgr = 2 →
        s.nxp.standby = false → m.src = s.other → m.term = s.nxp.term →
        ∃ t, exec (.heartbeat m) s = .next t ∧ t.nxp.standby = true ∧ t.nxp.members = s.nxp.members ∧ t.nxp.ready = s.nxp.ready
          ∧ (CanSend s → (∀ e ∈ s.nxp.members, ∃ p, Emit.manager p s.other 8
              { s.msg with ident := e.1, epoch := e.2.epoch, state := e.2.state, dies := e.2.dies, role := 4 } ∈ t.out)
            ∧ (∀ r ∈ s.nxp.ready, ∃ p, Emit.manager p s.other 8
              { s.msg with job := r.job, step := r.step, members := r.members, ident := r.from_, role := 5 } ∈ t.out)
            ∧ (∀ c ∈ s.nxp.recorded, c.1 = s.nxp.hall → ∃ p, Emit.manager p s.other 8
              { s.msg with job := c.2.1, step := c.2.2, role := 6 } ∈ t.out)))
      ∧ (s.nxp.device ≠ 0x7FFF → m.src / 32768 ≠ s.nxp.hall →
        (s.nxp.pair = true → exec (.heartbeat m) s = .next s)
        ∧ (s.nxp.mgr = 2 → s.nxp.pair = false → s.nxp.standby = false → s.nxp.changes = [] →
          ∃ t, exec (.heartbeat m) s = .next t ∧ t.nxp.pair = true))
      ∧ (∀ r, s.nxp.device ≠ 0x7FFF → m.src / 32768 = s.nxp.hall → m.src % 32768 < 0x7FFC → s.nxp.mgr = 2 →
        mfind s.nxp.members m.src = some r → r.dies ≠ m.dies → ∃ t, exec (.heartbeat m) s = .next t
          ∧ mfind t.nxp.members m.src = some { r with dies := m.dies })
      ∧ (m.term ≤ s.nxp.term → exec (.takeover m) s = .next s)
      ∧ (s.nxp.term < m.term → ∃ t, exec (.takeover m) s = .next t ∧ t.nxp.term = m.term
          ∧ t.nxp.mgr = if s.nxp.mgr = 2 then 1 else s.nxp.mgr)
      ∧ (m.term < s.nxp.term → exec (.membership m) s = .next s)
      ∧ (s.nxp.term ≤ m.term → m.ident % 32768 = 0x7FFE → s.nxp.mgr ≠ 2 →
        exec (.membership m) s = .next (s.fabricChange (if m.state = 0 then 8 else 7) 0 m.ident))
      ∧ (s.nxp.term ≤ m.term → m.ident % 32768 ≠ 0x7FFE →
        (s.nxp.mgr ≠ 2 → m.state = 0 → (∀ r, mfind s.nxp.members m.ident = some r → r.epoch = m.epoch) →
          ∃ t, exec (.membership m) s = .next t ∧ t.nxp.ops = s.nxp.ops ∧ mfind t.nxp.members m.ident =
            some ⟨m.epoch, m.dies, 0, decide (0x4000 ≤ m.ident % 32768 ∧ m.ident % 32768 < 0x7FFC)⟩)
        ∧ (∀ r, s.nxp.mgr = 2 → mfind s.nxp.members m.ident = some r → m.state = 2 →
          ∃ t, exec (.membership m) s = .next t ∧ mfind t.nxp.members m.ident = some { r with state := 2 })))

/-- Barriers: a READY is recorded with the standby before it is held; with the last member's the commit is recorded, with the standby and
across the halls, and once both have acknowledged it COMMIT goes to every member; a commit of the waiting step replies OK and an abandoned
one marks the step to be replayed, once for a failure that a member told itself; a mirrored record is kept and acknowledged, and a pair
that does not acknowledge is broken (R375, R377, R378, R410).
What is the model's own in it: log 49. -/
def Obligations.BarriersCommitOrAbandon : Prop :=
  (∀ (s : State) (m : MgrMsg), Clocked s → s.nxp.mgr = 2 →
      let r : ReadyRec := ⟨m.job, m.step, m.members, m.src⟩
      let k : MgrMsg := { s.msg with job := m.job, step := m.step, members := m.members, ident := m.src, role := 5 }
      ((∃ q ∈ s.nxp.ready, q.job = m.job ∧ q.members ≠ m.members) → exec (.ready m) s =
        .next (s.sendManager m.src 7 { s.msg with job := m.job, step := m.step, state := 0x504 }))
      ∧ ((∀ q ∈ s.nxp.ready, q.job = m.job → q.members = m.members) →
        (s.nxp.standby = true → r ∉ s.nxp.ready → exec (.ready m) s = .next (({ s with nxp := { s.nxp with
          changes := s.nxp.changes ++ [⟨k, [], none, some r, none⟩] } } : State).sendManager s.other 8 k))
        ∧ ((s.nxp.standby = false ∨ r ∈ s.nxp.ready) → exec (.ready m) s = .next (s.addReady r))))
  ∧ (∀ (s : State) (r : ReadyRec), s.nxp.commits = [] →
      let l := if s.nxp.ready.contains r then s.nxp.ready else s.nxp.ready ++ [r]
      let n := (l.filter (fun q => decide (q.job = r.job ∧ q.step = r.step))).length
      let kept : State := { s with nxp := { s.nxp with
        ready := l
        jobs := if s.nxp.jobs.contains (r.job, r.from_) then s.nxp.jobs else s.nxp.jobs ++ [(r.job, r.from_)] } }
      let t := s.addReady r
      (n < r.members → t = kept)
      ∧ (r.members ≤ n → (s.nxp.hall, r.job, r.step) ∈ t.nxp.recorded
        ∧ (s.nxp.standby = false → s.nxp.pair = false → t.nxp.commits = []
          ∧ (∀ q ∈ t.nxp.ready, ¬ (q.job = r.job ∧ q.step = r.step))
          ∧ (CanSend s → ∀ d ∈ s.current, ∃ p, Emit.manager p d 6 { s.msg with job := r.job, step := r.step } ∈ t.out))
        ∧ ((s.nxp.standby = true ∨ s.nxp.pair = true) →
          t.nxp.commits = [⟨r.job, r.step, !s.nxp.standby, !s.nxp.pair⟩] ∧ t.nxp.ready = l)))
  ∧ (∀ (s : State) (m : MgrMsg) (x : Nat) (c : Ctx), Clocked s → s.nxp.mgr ≠ 2 → s.nxp.term ≤ m.term → s.ctx x = some c →
      s.ofJob m.job = [(x, c)] →
      (∀ w, c.commit = some w → w.step = m.step → exec (.commit m) s =
          .next ((s.setCtx x { c with commit := none, committed := true }).finish w.cmd 0x0B 0 []))
      ∧ ((∀ w, c.commit = some w → w.step ≠ m.step) → exec (.commit m) s = .next s)
      ∧ (c.commit = none → m.state ≠ 0x504 → c.step = some m.step → c.committed = false →
        exec (.abandon m) s = .next (s.setCtx x c.abandoned))
      ∧ (∀ w, c.commit = some w → w.step = m.step → c.committed = false → c.step = some m.step →
        let ended (code : Nat) := (s.setCtx x { c with commit := none }).finish w.cmd 0x0B code []
        (m.state ≠ 0x504 → exec (.abandon m) s = .next ((ended 0x503).modCtx x Ctx.abandoned))
        ∧ (m.state = 0x504 → exec (.abandon m) s = .next (ended 0x504))))
  ∧ (∀ c : Ctx, (c.told = true → c.abandoned = { c with told := false })
      ∧ (c.told = false → c.cause = none → c.abandoned = { c with cause := some 0x503, causes := c.causes + 1 })
      ∧ (c.told = false → c.cause ≠ none → c.abandoned = c))
  ∧ (∀ (s : State) (m : MgrMsg), Clocked s → s.nxp.mgr = 2 → exec (.abandon m) s = .next (s.abandonStep m.job m.step))
  ∧ (∀ (s : State) (m : MgrMsg) (kind : Nat), Clocked s →
      (m.src / 32768 = s.nxp.hall → m.term < s.nxp.term → exec (.mirror m kind) s = .next s)
      ∧ (s.nxp.mgr = 1 → m.src / 32768 = s.nxp.hall → s.nxp.term ≤ m.term → exec (.mirror m 5) s =
        .next (({ s with nxp := { s.nxp with ready := s.nxp.ready ++ [⟨m.job, m.step, m.members, m.ident⟩] } } : State).sendManager
          m.src 8 { s.msg with job := m.job, step := m.step, ident := m.ident, request := 5 }))
      ∧ (s.nxp.mgr ≠ 0 → (m.src / 32768 ≠ s.nxp.hall ∨ s.nxp.term ≤ m.term) → ∃ t, exec (.mirror m 6) s = .next t
        ∧ (m.src / 32768, m.job, m.step) ∈ t.nxp.recorded
        ∧ (CanSend s → ∃ p, Emit.manager p m.src 8 { s.msg with job := m.job, step := m.step, ident := m.ident, request := 6 } ∈ t.out)))
  ∧ (∀ (s : State) (m : MgrMsg) (c : Change) (l : List Change), Clocked s → s.nxp.mgr = 2 → m.src / 32768 = s.nxp.hall →
      s.nxp.term ≤ m.term → s.nxp.changes = c :: l → c.msg.role = m.request → m.request ≠ 6 → c.msg.ident = m.ident →
      c.msg.job = m.job → c.msg.step = m.step →
      exec (.mirror m 0) s = .next (({ s with nxp := { s.nxp with changes := l } } : State).act c))
  ∧ (∀ (s : State) (m : MgrMsg) (c : CommitRec), Clocked s → s.nxp.mgr = 2 → m.src / 32768 = s.nxp.hall → s.nxp.term ≤ m.term →
      m.request = 6 → s.nxp.commits = [c] → c.job = m.job → c.step = m.step →
      (c.pairAck = false →
        exec (.mirror m 0) s = .next { s with nxp := { s.nxp with commits := [{ c with standbyAck := true }] } })
      ∧ (c.pairAck = true → ∃ t, exec (.mirror m 0) s = .next t ∧ t.nxp.commits = []
          ∧ (CanSend s → ∀ d ∈ s.current, ∃ p, Emit.manager p d 6 { s.msg with job := m.job, step := m.step } ∈ t.out)))
  ∧ (∀ s : State, Clocked s → s.nxp.mgr = 2 → s.nxp.pair = true → (∃ c ∈ s.nxp.commits, c.pairAck = false) → s.nxp.changes = [] →
      (s.nxp.standby = false →
        ∃ t, exec .pairBroken s = .next t ∧ t.nxp.pair = false ∧ ∀ c ∈ t.nxp.commits, c.standbyAck = false)
      ∧ (s.nxp.standby = true → ∃ t c, exec .pairBroken s = .next t ∧ t.nxp.pair = true ∧ t.nxp.changes = [c]
        ∧ c.pair = some false))

/-! ## Register space and the window -/

/-- Reads and writes of a function's BARs. BAR4: a read returns the bytes of the units it reaches and changes no memory; a write changes
no byte outside the units it reaches; an access that fails in any unit is counted and moves nothing. BAR0 reads give the register's bytes,
BAR2 reads give zeros, and a read that cannot be served, one over a closed crossing among them, completes with Unsupported Request (R28,
R318, R320 to R323, R325, R405). What is the model's own in it: log 65, 66 and 76. -/
def Obligations.WindowReadsAndWrites : Prop :=
  (∀ (s : State) (f bar o n : Nat), Writes s f →
      (s.barSize f bar < o + n → exec (.bar4Read f ⟨bar, o⟩ n) s = .next (s.unsupported f))
      ∧ (o + n ≤ s.barSize f bar → bar ≠ 0 → bar ≠ 2 →
        (∀ l, s.winUnits f false o n = some l → s.badUnit l = none →
          exec (.bar4Read f ⟨bar, o⟩ n) s = .next (s.emit (.barData f (l.flatMap (fun u => s.get u.1 u.2)))))
        ∧ (∀ l pa, s.winUnits f false o n = some l → s.badUnit l = some pa →
          exec (.bar4Read f ⟨bar, o⟩ n) s = .next ((s.noteBad pa).unsupported f))
        ∧ (s.winUnits f false o n = none → exec (.bar4Read f ⟨bar, o⟩ n) s = .next ((s.badAccess f).unsupported f)))
      ∧ (o + n ≤ s.barSize f 2 → exec (.bar4Read f ⟨2, o⟩ n) s = .next (s.emit (.barData f (List.replicate n 0))))
      ∧ (o + n ≤ s.barSize f 0 →
        (∀ w, (n = 4 ∨ n = 8) → o % n = 0 → s.barWord f (o / 8 * 8) = some w →
          (s.barBarred f o = none → exec (.bar4Read f ⟨0, o⟩ n) s = .next (s.emit (.barData f (slice (toBytes 8 w.toNat) (o % 8) n))))
          ∧ (∀ x, s.barBarred f o = some x → exec (.bar4Read f ⟨0, o⟩ n) s =
            .next (((s.cdc x (s.crossingShut x) none).badAccess f).unsupported f)))
        ∧ ((¬ (n = 4 ∨ n = 8) ∨ o % n ≠ 0 ∨ s.barWord f (o / 8 * 8) = none) →
          exec (.bar4Read f ⟨0, o⟩ n) s = .next ((s.badAccess f).unsupported f))))
  ∧ (∀ (s : State) (f : Nat), s.unsupported f = (s.modFn f (fun x => { x with aer := x.aer ||| 2 ^ 20 })).emit (.barUr f))
  ∧ (∀ (s : State) (f o : Nat) (data : List Byte), Writes s f →
      (s.barSize f 4 < o + data.length → exec (.bar4Write f o data) s = .next s)
      ∧ (∀ l, o + data.length ≤ s.barSize f 4 → s.winUnits f true o data.length = some l → (∀ u ∈ l, s.mergesBad u.1 u.2 = false) →
        exec (.bar4Write f o data) s = .next (s.putUnits l data)
          ∧ ∀ a, (∀ u ∈ l, ¬ (u.1 ≤ a ∧ a < u.1 + u.2)) → (s.putUnits l data).byteAt a = s.byteAt a)
      ∧ (∀ l u, o + data.length ≤ s.barSize f 4 → s.winUnits f true o data.length = some l →
        l.find? (fun u => s.mergesBad u.1 u.2) = some u → exec (.bar4Write f o data) s = .next (s.noteBad u.1))
      ∧ (o + data.length ≤ s.barSize f 4 → s.winUnits f true o data.length = none →
        exec (.bar4Write f o data) s = .next (s.badAccess f)))

/-- Register writes: a ring is configured and enabled only while it is disabled; a window is enabled only onto a context that the function
owns or, for the PF, without translation; a VF whose QUOTA is 0 creates no context; the limits of a VF that owns contexts, the interleave while a context exists, a clock target
out of range and a job that two contexts would export are ignored; a BAR0 access outside the map counts as a bad access, and one over a
closed crossing is recorded and dropped (R28, R198, R320 to R328, R343, R361, R443, R450).
What is the model's own in it: log 65, 67, 68 and 76. -/
def Obligations.RegisterWrites : Prop :=
  (∀ (s : State) (f r : Nat) (v : W64), Writes s f →
      let n := v.toNat
      let c := (s.fnOf f).crOf r
      (c.enable = true → bit n 0 = true → exec (.pciCrWrite f r v) s = .next s)
      ∧ (c.enable = true → bit n 0 = false → exec (.pciCrWrite f r v) s = .next (s.modCr f r (fun c => { c with enable := false })))
      ∧ (c.enable = false → bit n 0 = true → 6 ≤ bits n 5 2 → exec (.pciCrWrite f r v) s = .next (s.modCr f r (fun c => { c with
          loc := bit n 1 && (decide (f = 0) || c.loc), log2 := bits n 5 2, cq := bits n 7 6, base := n / 4096 * 4096
          enable := true, error := false, head := 0, tail := 0 }))))
  ∧ (∀ (s : State) (f r : Nat) (v : W64), Writes s f →
      let n := v.toNat
      let c := (s.fnOf f).cqOf r
      (c.enable = true → bit n 0 = true → exec (.pciCqWrite f r false v) s = .next s)
      ∧ (c.enable = false → bit n 0 = true → 6 ≤ bits n 5 2 → exec (.pciCqWrite f r false v) s = .next (s.modCq f r (fun c => { c with
          loc := bit n 1 && (decide (f = 0) || c.loc), log2 := bits n 5 2, vector := bits n 7 6, base := n / 4096 * 4096
          enable := true, error := false, tail := 0, head := 0, phase := true, unsignalled := 0 })))
      ∧ exec (.pciCqWrite f r true v) s = .next (s.modCq f r (fun c => { c with count := bits n 7 0, delay := bits n 23 8 })))
  ∧ (∀ (s : State) (f : Nat) (v : W64), Writes s f → ∃ t, exec (.pciWinWrite f v) s = .next t ∧ t = { s with pci := t.pci }
      ∧ (bit (t.fnOf f).win.toNat 55 = true → bit v.toNat 55 = true
          ∧ (bit (t.fnOf f).win.toNat 54 = true ∨ s.owns f (bits v.toNat 53 48) = true))
      ∧ (bit (t.fnOf f).win.toNat 54 = true → f = 0 ∨ bit (s.fnOf f).win.toNat 54 = true))
  ∧ (∀ (s : State) (vf : Nat) (v : W64), Clocked s →
      (s.owned vf ≠ 0 → exec (.pciVfLimitsWrite vf v) s = .next s)
      ∧ (s.owned vf = 0 → exec (.pciVfLimitsWrite vf v) s =
          .next { s with pci := { s.pci with limits := mset 0 s.pci.limits vf (BitVec.ofNat 64 (v.toNat % 2 ^ 49)) } }))
  ∧ (∀ (s : State) (h : Cmd) (seed saveArea prio eventCq : Nat),
      let spell : List Byte → Bool := fun p =>
        decide (field p 8 8 = seed ∧ field p 0x10 8 = saveArea ∧ field p 0x18 1 = prio ∧ field p 0x19 1 = eventCq)
      Accepted s h 0x01 spell → h.fn ≠ 0 → bits (s.limitsOf h.fn) 46 41 = 0 →
      exec (.ctxCreate h seed saveArea prio eventCq) s = .next ((s.acts h 0x01 spell).finish h 0x01 0x104 []))
  ∧ (∀ (s : State) (v : W32), Clocked s → s.boot.state ≠ .recovery →
      ((s.ctxs ≠ [] ∨ v.toNat % 2 = s.hbm.ilv) → exec (.hbmIlvWrite v) s = .next s)
      ∧ (s.ctxs = [] → v.toNat % 2 ≠ s.hbm.ilv → ∃ t, exec (.hbmIlvWrite v) s = .next t ∧ t.hbm.ilv = v.toNat % 2
          ∧ ∀ a, regionOf a ≠ .hbm → t.byteAt a = s.byteAt a))
  ∧ (∀ (s : State) (v : W32), Clocked s →
      let m := v.toNat % 2 ^ 11
      (¬ (900 ≤ m ∧ m ≤ 1750 ∧ m % 25 = 0) → exec (.sysDvfsWrite v) s = .next s)
      ∧ (900 ≤ m → m ≤ 1750 → m % 25 = 0 → ∃ t, exec (.sysDvfsWrite v) s = .next t ∧ t.power.target = m))
  ∧ (∀ (s : State) (x : Nat) (v : W64), Clocked s → s.boot.state ≠ .recovery →
      (s.jobRefused x v.toNat = true → exec (.nxpJobWrite x v) s = .next s)
      ∧ (s.jobRefused x v.toNat = false → exec (.nxpJobWrite x v) s = .next (s.modCreg x (fun r => { r with
          job := v.toNat % 65536, export_ := bit v.toNat 16
          members := if bits v.toNat 32 18 ≤ 16384 then bits v.toNat 32 18 else r.members }))))
  ∧ (∀ (s : State) (o size : Nat) (v : W64), Clocked s → o ≠ 0xE0018 →
      ((sizeOk o size = false ∨ (blockOf o = none ∧ s.boot.state ≠ .recovery)) →
        exec (.registerWrite 0 o size v) s = .next (s.badAccess 0))
      ∧ (blockOf o = none → sizeOk o size = true → s.boot.state = .recovery → exec (.registerWrite 0 o size v) s = .next s)
      ∧ (∀ b r, blockOf o = some (b, r) → sizeOk o size = true → s.reaches b = false → exec (.registerWrite 0 o size v) s = .next s)
      ∧ (∀ b r, blockOf o = some (b, r) → sizeOk o size = true → s.reaches b = true →
        (s.barBarred 0 o = none → exec (.registerWrite 0 o size v) s =
          .next (s.setReg b (r / 8 * 8) (v.toNat * 2 ^ (8 * (o % 8))) ((2 ^ (8 * size) - 1) * 2 ^ (8 * (o % 8)))))
        ∧ (∀ x, s.barBarred 0 o = some x → exec (.registerWrite 0 o size v) s =
          .next ((s.cdc x (s.crossingShut x) none).badAccess 0))))

/-- A function-level reset returns a VF's rings, window and MSI-X state to reset, and the PF's takes every VF away; until boot ends a
configuration write is answered with Configuration Request Retry Status; from then on VF_ENABLE makes VFs exist, 63 at most and none in
recovery, sets MSI-X Enable and Function Mask and sends what is then pending, resizes BAR4 and clears AER bits; PERST# rising begins
training, whatever boot has come to, to a width and a rate of Table 11.21 (R317, R318, R329, R344, R443, R444).
What is the model's own in it: log 21, 64 and 87. -/
def Obligations.FunctionsAndTheirReset : Prop :=
  (∀ (s : State) (f : Nat), Writes s f → f ≠ 0 →
      exec (.functionLevelReset f) s = .next (s.resetFn f) ∧ (s.resetFn f).fnOf f = {} ∧ (s.resetFn f).pci.numVfs = s.pci.numVfs)
  ∧ (∀ (s : State) (f : Nat), Clocked s → s.fnExists f = false → exec (.functionLevelReset f) s = .next s)
  ∧ (∀ s : State, Clocked s → ∃ t, exec (.functionLevelReset 0) s = .next t ∧ t.pci.vfEnable = false ∧ t.pci.numVfs = 0
      ∧ t.pci.limits = [] ∧ (s.ctxs = [] → ∀ f < 64, t.fnOf f = {}))
  ∧ (∀ (s : State) (w : CfgWrite) (enable : Bool), Clocked s → s.boot.state = .booting →
      exec (.vfEnable w enable) s = .next (s.emit .cfgRetry))
  ∧ (∀ (s : State) (n : Nat) (enable : Bool), Clocked s → s.boot.state ≠ .booting →
      let m := if s.boot.state = .recovery then 0 else min n 63
      let u : State := { s with pci := { s.pci with numVfs := m, vfEnable := enable } }
      ∃ t, exec (.vfEnable (.vfs n) enable) s = .next t ∧ t.pci.numVfs = m ∧ t.pci.vfEnable = enable
        ∧ ((∀ f, s.fnExists f = true → u.fnExists f = true) → t = u))
  ∧ (∀ (s : State) (f : Nat) (enable mask : Bool), Clocked s → s.boot.state ≠ .booting →
      let u := s.modFn f (fun x => { x with msixOn := enable, msixMask := mask })
      (s.fnExists f = true → exec (.vfEnable (.msix f mask) enable) s = .next (u.sendPending f)
        ∧ ((enable = false ∨ mask = true) → u.sendPending f = u))
      ∧ (s.fnExists f = false → exec (.vfEnable (.msix f mask) enable) s = .next s))
  ∧ (∀ (s : State) (k : Nat) (enable : Bool), Clocked s → s.boot.state ≠ .booting → exec (.vfEnable (.bar4 k) enable) s =
      .next { s with pci := { s.pci with bar4 := if k ≤ 6 then k else s.pci.bar4 } })
  ∧ (∀ (s : State) (f b : Nat) (enable : Bool), Clocked s → s.boot.state ≠ .booting → exec (.vfEnable (.aer f b) enable) s =
      .next (s.modFn f (fun x => { x with aer := x.aer - (x.aer &&& b) })))
  ∧ (∀ s : State, ∃ t, exec .perstRelease s = .next t ∧ t.pci.width ∈ [1, 2, 4, 8, 16] ∧ t.pci.rate < 6
      ∧ t = { s with
        tick := t.tick, power := { s.power with perst := true, good := true, stopped := s.power.stopped && s.power.good }
        pci := { s.pci with training := !(s.power.stopped && s.power.good), width := t.pci.width, rate := t.pci.rate } })

/-! ## Lantern -/

/-- Lantern's commands through BAR0 on a device that is ready: a register read or write, 8 bytes of memory read or written, a count read
or set, a site's register read; LNT_STATUS ends done with code 0, and with 0x702 where a crossing on the way does not serve. Through JTAG
they run only under the LANTERN instruction, whose scan shifts the three registers and LNT_STATUS out; a reserved operation completes with
BAD_PARAM; IDCODE and BYPASS scan as R454 gives them (R28, R29, R454 to R458).
What is the model's own in it: log 71 and 76. -/
def Obligations.LanternReadsAndWrites : Prop :=
  (∀ (s : State) (v : LntVia), Clocked s → v.jtag = none → s.boot.state = .ready → s.boot.lanternUsed = true →
      let busy : State := { s with lnt := { s.lnt with state := 1, jtag := false } }
      let o := s.lnt.addr.toNat % 2 ^ 48
      let r := s.lnt.addr.toNat % 2 ^ 26
      let site := s.lnt.addr.toNat % 2 ^ 10
      let key := wkey s.lnt.ctxOf s.lnt.idOf
      let ends (u : State) (code : Nat) : State := { u with lnt := { u.lnt with state := 2, code := code } }
      let gives (d : W64) : State := { s with lnt := { s.lnt with state := 2, jtag := false, code := 0, data := d } }
      (s.lnt.translate = false → o % 8 = 0 → (regionOf o = .hbm ∨ regionOf o = .slow) →
        (s.cross ⟨0, none, some 0x37⟩ o = .ok o → s.lostTarget o = false →
          (s.uncorrectable o 8 = false → exec (.memRead v) s = .next (gives (BitVec.ofNat 64 (fromBytes (s.get o 8)))))
          ∧ (s.mergesBad o 8 = false → exec (.memWrite v) s = .next (ends (busy.put o (toBytes 8 s.lnt.data.toNat)) 0)))
        ∧ (∀ x, s.cross ⟨0, none, some 0x37⟩ o = .closed x →
          exec (.memRead v) s = .next (ends (busy.cdc x (s.crossingShut x) none) 0x702)
          ∧ exec (.memWrite v) s = .next (ends (busy.cdc x (s.crossingShut x) none) 0x702)))
      ∧ (∀ b w, r % 8 = 0 → blockOf r = some (b, w) → s.blockBarred 0x37 b = none →
        exec (.regRead v) s = .next (gives ((busy.bar0 r).getD 0))
          ∧ exec (.regWrite v) s = .next (ends (busy.bar0Write r 8 s.lnt.data.toNat) 0))
      ∧ (∀ k b, (s.ctx s.lnt.ctxOf).isSome = true → s.leaves s.lnt.ctxOf = false → s.home key = .here k b →
        exec (.wmkRead v) s = .next (gives (BitVec.ofNat 64 b.count))
          ∧ exec (.wmkSet v) s = .next (ends (busy.handSet k s.lnt.data.toNat) 0))
      ∧ (site ≤ 683 → bits s.lnt.addr.toNat 27 16 % 8 = 0 → s.barred (some 0x37) (site / 19) = none →
        exec (.siteRead v) s = .next (gives (busy.siteReg site (bits s.lnt.addr.toNat 27 16)))))
  ∧ (∀ (s : State) (v : LntVia) (ctx addr data op : Nat) (c : Instr), Clocked s → v.jtag = some (ctx, addr, data) →
      ((op, c) ∈ [(1, .regRead v), (2, .regWrite v), (3, .memRead v), (4, .memWrite v), (5, .wmkRead v), (6, .wmkSet v),
        (7, .siteRead v)]) →
      (s.lnt.ir ≠ 0x20 → exec c s = .next s)
      ∧ (s.lnt.ir = 0x20 →
        let shifted := s.emit (.tdo 168 (16 * (s.lntReg 0x20 % 2 ^ 32) + 2 ^ 36 * s.lnt.addr.toNat + 2 ^ 100 * s.lnt.data.toNat))
        exec c s = .next (({ shifted with lnt := { s.lnt with
          ctx := BitVec.ofNat 32 (ctx % 2 ^ 27), addr := BitVec.ofNat 64 addr, data := BitVec.ofNat 64 data } } : State).lantern op true)))
  ∧ (∀ (s : State) (code : Byte), Clocked s →
      ((s.boot.debugUsed = true ∨ (code ≠ 0x00 ∧ code ≠ 0x20)) →
        exec (.jtagInstruction (.load code)) s = .next { s with lnt := { s.lnt with ir := code } })
      ∧ (s.boot.debugUsed = false → (code = 0x00 ∨ code = 0x20) → ∃ t, exec (.jtagInstruction (.load code)) s = .next t
          ∧ t.lnt.ir = code ∧ t.boot.debugUsed = true ∧ ∀ r, r ≠ 7 → mget 0 t.boot.measure r = mget 0 s.boot.measure r))
  ∧ (∀ (s : State) (n tdi : Nat),
      (s.lnt.ir = 0x01 → exec (.jtagInstruction (.shift 32 tdi)) s = .next (s.emit (.tdo 32 0x39720F45)))
      ∧ (s.lnt.ir ≠ 0x00 → s.lnt.ir ≠ 0x01 → s.lnt.ir ≠ 0x02 → s.lnt.ir ≠ 0x20 →
        exec (.jtagInstruction (.shift n tdi)) s = .next (s.emit (.tdo n (tdi % 2 ^ n * 2 % 2 ^ n)))))
  ∧ (∀ (s : State) (op ctx addr data : Nat), Clocked s → s.lnt.ir = 0x20 → 8 ≤ op → op < 16 →
      ∃ t, exec (.jtagInstruction (.shift 168 (lanternBits op ctx addr data))) s = .next t
        ∧ t.lnt.code = 0x102 ∧ t.lnt.state = 2 ∧ t.lnt.jtag = true ∧ t.lnt.addr = BitVec.ofNat 64 addr)

/-! ## Boot, resets, clocks and the meter -/

/-- BOOT runs the sequencer up to a step, which SYS_BOOT.STEP shows, or to its end: it samples the straps once since PWR_GOOD rose, tries
the copy of the higher GENERATION first, copy 0 if they are equal, then the other, and without a good one puts the device into recovery
with the code of the copy tried first. A cold reset stops every clock and returns everything but the pins; a warm reset keeps the bytes of
HBM and of the slow tier that no store was on its way to, clears every other byte, and lets the core clock run no faster than the brake
allows (R430, R431, R433, R441, R443, R444, R446, R450).
What is the model's own in it: log 20, 61, 62 and 87. -/
def Obligations.BootAndResets : Prop :=
  (∀ (s : State) (i0 i1 : List Byte) (r : BootRun) (lanes : List (Nat × Nat)), (Clocked s ∨ s.power.good = false) →
      s.boot.state = .booting →
      let at_ (k : Nat) : List Byte := if k = 0 then i0 else i1
      let first := if field i0 8 4 < field i1 8 4 then 1 else 0
      ∃ t, exec (.boot i0 i1 r lanes) s = .next t ∧ t.power.good = true
        ∧ (s.power.sampled = false → t.power.mgrSel = r.mgrSel ∧ t.power.smbAddr = r.smbAddr)
        ∧ (s.power.sampled = true → t.power.mgrSel = s.power.mgrSel ∧ t.power.smbAddr = s.power.smbAddr)
        ∧ (r.step < 8 → t = { s with power := t.power, boot := { s.boot with step := max s.boot.step (max 1 r.step) } })
        ∧ (8 ≤ r.step →
          (imageCode (at_ first) = 0 → t.boot.state = .ready ∧ t.boot.copy = first ∧ t.boot.gen = field (at_ first) 8 4)
          ∧ (imageCode (at_ first) ≠ 0 → imageCode (at_ (1 - first)) = 0 →
            t.boot.state = .ready ∧ t.boot.copy = 1 - first ∧ t.boot.gen = field (at_ (1 - first)) 8 4)
          ∧ (imageCode (at_ first) ≠ 0 → imageCode (at_ (1 - first)) ≠ 0 → t.boot.state = .recovery
            ∧ t.boot.code = imageCode (at_ first) ∧ t.hbm.service = 0 ∧ t.pci.numVfs = 0 ∧ t.mem = s.mem)))
  ∧ (∀ s : State, ∃ t, exec .coldReset s = .next t ∧ t = { State.reset with
      pending := s.pending, tick := s.tick, hostMem := s.hostMem, out := s.out, power := t.power }
      ∧ t.power.target = 1750 ∧ t.power.current = (if s.power.brakeN then 1750 else 900) ∧ t.power.good = false
      ∧ t.power.stopped = true)
  ∧ (∀ (s : State) (perst : Bool), Clocked s → s.power.good = true → ∃ t, exec (.warmReset perst) s = .next t
      ∧ (∀ a, (regionOf a = .hbm ∨ regionOf a = .slow) →
          (∀ e ∈ s.cores, ∀ q ∈ e.2.ramb.reqs, q.localStore = true → ¬ (q.pa ≤ a ∧ a < q.pa + q.data.length)) →
          t.byteAt a = s.byteAt a)
      ∧ (∀ a, regionOf a ≠ .hbm → regionOf a ≠ .slow → t.byteAt a = memDefault)
      ∧ t.boot.state = .booting ∧ t.boot.cause = (if perst then 2 else 1) ∧ t.ctxs = [] ∧ t.trh.graphs = [] ∧ t.cores = []
      ∧ t.sys.time = s.sys.time ∧ t.repair = s.repair ∧ t.mtr = s.mtr
      ∧ t.power.current = min s.power.current (if s.power.brakeN then 1750 else 900))

/-- PWR_BRAKE holds the core clock at 900 MHz or below and its release lets it go; POWER_GOOD lets a raise that waits take effect; a
reading of 105 °C stops every clock, and 100 °C lowers the thermal limit by 50 MHz, never below 900 MHz (R430, R448, R450).
What is the model's own in it: log 72. -/
def Obligations.ClocksFollowTheirLimits : Prop :=
  (∀ s : State, Clocked s → ∃ t, exec .pwrBrake s = .next t ∧ t.power.brakeN = false ∧ t.power.current ≤ 900)
  ∧ (∀ s : State, Clocked s → ∃ t, exec .pwrBrakeRelease s = .next t ∧ t.power.brakeN = true
      ∧ t.power.current ≤ min s.power.target s.power.thermal)
  ∧ (∀ (s : State) (w : Nat), Clocked s → s.power.waiting = some w →
      exec .powerGood s = .next { s with power := { s.power with current := w, waiting := none } })
  ∧ (∀ (s : State) (l : List Nat), Clocked s →
      (105 ≤ (hottestOf l).1 → ∃ t, exec (.thermalSample l) s = .next t ∧ t.power.stopped = true ∧ t.power.tripN = false)
      ∧ (100 ≤ (hottestOf l).1 → (hottestOf l).1 < 105 → ∃ t, exec (.thermalSample l) s = .next t ∧ t.power.stopped = false
          ∧ t.power.thermal = max 900 (min s.power.target s.power.thermal - 50)
          ∧ t.power.current ≤ t.power.thermal))

/-- The meter: a sample counts 1 µs; a record takes the next sequence number and begins a new interval; METER_READ writes to host memory
or to HBM and ATTEST to host memory; the requests of Table 15.12 answer over MCTP from the address that SMB_ADDR selects, and any other
gets an error completion; silence is told once until the next record, by METER_SILENT on the PF's event ring and an entry in the error log
(R431, R453, R459 to R463). What is the model's own in it: log 69 and 70, and the entry's source kind and detail: log 27. -/
def Obligations.MeterRecordsAndReports : Prop :=
  (∀ (s : State) (codes : List (Int × Int)), Clocked s → s.power.good = true → ∃ t, exec (.meterSample codes) s = .next t
      ∧ t.mtr.elapsed = (s.mtr.elapsed + 1) % 2 ^ 64 ∧ t.mtr.interval = s.mtr.interval + 1 ∧ t.mtr.records = s.mtr.records
      ∧ t = { s with mtr := t.mtr, ctxRegs := t.ctxRegs })
  ∧ (∀ s : State, Clocked s → s.power.good = true → 60000000 ≤ s.mtr.interval → ∃ t r, exec .meterRecord s = .next t
      ∧ t.mtr.interval = 0 ∧ t.mtr.flags = 0 ∧ t.mtr.emitted = true ∧ t.mtr.silent = false
      ∧ t.mtr.records = (t.mtr.seq, r) :: s.mtr.records.take 15
      ∧ (s.mtr.emitted = true → t.mtr.seq = (s.mtr.seq + 1) % 2 ^ 64))
  ∧ (∀ s : State, Clocked s → s.power.good = true →
      (s.mtr.silent = true → exec .meterSilent s = .next s)
      ∧ (s.mtr.silent = false →
        let e : ErrEntry := ⟨s.sys.time, 0x805, Config.silentKind % 10, 0, 0, Config.eventDetail 10 s.tick, 1⟩
        exec .meterSilent s = .next (({ s with
          sys := { s.sys with log := s.sys.log.push e }
          mtr := { s.mtr with silent := true } } : State).post 0 s.nxp.eventCq ⟨0, 0x805, 0, 0, 3, [], 0⟩)))
  ∧ (∀ (s : State) (h : Cmd) (seq dest flags : Nat),
      let spell : List Byte → Bool := fun p => decide (field p 8 8 = seq ∧ field p 0x10 8 = dest ∧ field p 0x18 4 = flags)
      let u := s.acts h 0x30 spell
      Accepted s h 0x30 spell →
      (∀ r, flags = 1 → s.mtr.find seq = some r → exec (.meterRead h seq dest flags) s =
          .next (({ u with hostMem := mwrite memDefault u.hostMem dest r.2 } : State).finish h 0x30 0 (toBytes 8 r.1)))
      ∧ (∀ r, flags = 0 → h.fn = 0 → dest + 5395 ≤ hbmBytes → s.mtr.find seq = some r →
          (∀ q ∈ units dest r.2.length, s.lostTarget q.1 = false ∧ s.mergesBad q.1 q.2 = false) →
          exec (.meterRead h seq dest flags) s = .next ((u.putUnits (units dest r.2.length) r.2).finish h 0x30 0 (toBytes 8 r.1)))
      ∧ ((flags = 1 ∨ (flags = 0 ∧ h.fn = 0 ∧ dest + 5395 ≤ hbmBytes)) → s.mtr.find seq = none →
          exec (.meterRead h seq dest flags) s = .next (u.finish h 0x30 0x804 []))
      ∧ ((2 ≤ flags ∨ (flags = 0 ∧ (h.fn ≠ 0 ∨ hbmBytes < dest + 5395))) →
          exec (.meterRead h seq dest flags) s = .next (u.finish h 0x30 0x102 [])))
  ∧ (∀ (s : State) (h : Cmd) (nonce : List Byte) (dest : Nat),
      let spell : List Byte → Bool := fun p => decide (slice p 8 32 = nonce ∧ field p 0x28 8 = dest)
      let u := s.acts h 0x31 spell
      Accepted s h 0x31 spell → exec (.attest h nonce dest) s =
        .next (({ u with hostMem := mwrite memDefault u.hostMem dest (s.report nonce) } : State).finish h 0x31 0 []))
  ∧ (∀ s : State, Clocked s →
      let at_ := if s.power.smbAddr then 0x4D else 0x4C
      (∀ seq r, s.mtr.find seq = some r → exec (.getRecord (.record seq)) s = .next (s.emit (.mctp at_ r.2)))
      ∧ (∀ seq, s.mtr.find seq = none → exec (.getRecord (.record seq)) s = .next (s.emit (.mctpError at_)))
      ∧ (∀ k, exec (.getRecord (.other k)) s = .next (s.emit (.mctpError at_)))
      ∧ (∀ r, s.mtr.emitted = false → r.length = 5395 → exec (.setChainHead r) s =
        .next (if Config.verify Config.identityKey (r.take 0x300) (r.drop 0x300) = true
          then { s with mtr := { s.mtr with handedBack := r } } else s))
      ∧ (∀ nonce, exec (.getAttestation nonce) s = .next (s.emit (.mctp at_ (s.report nonce))))
      ∧ ∃ rest, exec .getTelemetry s = .next (s.emit (.mctp at_ (toBytes 8 s.boot.value ++ toBytes 4 s.power.dvfs
          ++ toBytes 8 s.power.thermalReg ++ rest))))

/-- What stands after reset, read through the PF's BAR0: the clock's target and current values, the identifier of a device that has not
joined, the resend time, every port down with lane 4 spare, and zero in the counters and pointers; no context, graph or waiting command
exists, the measurement registers are zero, and the invariants of the steps hold. -/
def Obligations.ResetValues : Prop :=
  State.reset.bar0 0x610 = some (BitVec.ofNat 64 (1750 + 2 ^ 11 * 1750)) ∧ State.reset.bar0 0x70000 = some 0x7FFF
    ∧ State.reset.bar0 0x70008 = some (BitVec.ofNat 64 (4 * 100)) ∧ (∀ n < 9, State.reset.bar0 (0x70100 + 8 * n) = some 0x10 ∧ State.reset.bar0 (0x80100 + 8 * n) = some 0x10)
    ∧ (∀ o ∈ [0x120, 0x200, 0x208, 0x400, 0x408, 0x500, 0x608, 0x618, 0x20000, 0x20018, 0x70010, 0x70300, 0xB0000, 0xE0020],
        State.reset.bar0 o = some 0)
    ∧ State.reset.ctxs = [] ∧ State.reset.trh.graphs = [] ∧ State.reset.pending = [] ∧ State.reset.wmk.binds = []
    ∧ (∀ r, mget 0 State.reset.boot.measure r = 0) ∧ MemoryOk State.reset
    ∧ TagsInRange State.reset ∧ PortsInRange State.reset ∧ CountersInRange State.reset ∧ MarksInRange State.reset
    ∧ GraphsInRange State.reset ∧ CoresInRange State.reset ∧ RingsInRange State.reset
end

