-- ==== Sys2Proof/Laws/Maps.lean ====
section
/-! SUPPORT. Laws of the sparse maps: what a key reads after a write, and that every write keeps the canonical form. -/

namespace Sys2Proof.Machine

variable {α : Type}

/-! ## Reading after writing

A total read is an optional one with a default, so every law is proved of `mfind` and carried over. -/

theorem mget_eq (d : α) (m : Map α) (k : Nat) : mget d m k = (mfind m k).getD d := by
  induction m with
  | nil => rfl
  | cons e r ih => simp only [mget, mfind]; split <;> simp [ih]

theorem mem_mdel_ne (m : Map α) (k : Nat) : ∀ e ∈ mdel m k, e.1 ≠ k := by
  intro e h; simpa [mdel] using (List.mem_filter.mp h).2

theorem mfind_mins (m : Map α) (k j : Nat) (v : α) (h : ∀ e ∈ m, e.1 ≠ k) :
    mfind (mins m k v) j = if k = j then some v else mfind m j := by
  induction m with
  | nil => rfl
  | cons e r ih =>
    rw [List.forall_mem_cons] at h
    simp only [mins]
    split
    · rfl
    · simp only [mfind, ih h.2]
      rcases eq_or_ne e.1 j with rfl | hj
      · simp [h.1.symm]
      · simp [hj]

theorem mfind_mdel (m : Map α) (k j : Nat) : mfind (mdel m k) j = if k = j then none else mfind m j := by
  induction m with
  | nil => simp [mdel, mfind]
  | cons e r ih =>
    by_cases hk : e.1 = k
    · simp [mdel, hk, mfind] at ih ⊢
      rw [ih]; split <;> simp_all
    · by_cases hj : e.1 = j
      · have : k ≠ j := fun x => hk (hj.trans x.symm)
        simp [mdel, mfind, hj, this, Ne.symm this]
      · simp [mdel, hk, mfind, hj] at ih ⊢; exact ih

theorem mget_mdel_same (d : α) (m : Map α) (k : Nat) : mget d (mdel m k) k = d := by simp [mget_eq, mfind_mdel]

theorem mget_mdel_other (d : α) (m : Map α) {k j : Nat} (h : j ≠ k) : mget d (mdel m k) j = mget d m j := by
  simp [mget_eq, mfind_mdel, h.symm]

/-- A key of a map of present entries finds what was put, every other key what it found before. -/
theorem mfind_mput (m : Map α) (k j : Nat) (v : α) : mfind (mput m k v) j = if k = j then some v else mfind m j := by
  unfold mput
  rw [mfind_mins _ k j v (mem_mdel_ne m k), mfind_mdel]
  by_cases h : k = j <;> simp [h]

@[simp] theorem mfind_mput_same (m : Map α) (k : Nat) (v : α) : mfind (mput m k v) k = some v := by simp [mfind_mput]

/-- A key reads what was written, every other key what it read before. -/
theorem mget_mset_at [DecidableEq α] (d e : α) (m : Map α) (k j : Nat) (v : α) (h : k = j → e = d) :
    mget d (mset e m k v) j = if k = j then v else mget d m j := by
  unfold mset
  split
  · subst v; simp only [mget_eq, mfind_mdel]; split <;> simp_all
  · simp only [mget_eq, mfind_mins _ k j v (mem_mdel_ne m k), mfind_mdel]; split <;> rfl

theorem mget_mset [DecidableEq α] (d : α) (m : Map α) (k j : Nat) (v : α) :
    mget d (mset d m k v) j = if k = j then v else mget d m j := mget_mset_at d d m k j v (fun _ => rfl)

@[simp] theorem mget_mset_same [DecidableEq α] (d : α) (m : Map α) (k : Nat) (v : α) : mget d (mset d m k v) k = v := by
  simp [mget_mset]

theorem mget_mset_other [DecidableEq α] (d : α) (m : Map α) {k j : Nat} (v : α) (h : k ≠ j) :
    mget d (mset d m k v) j = mget d m j := by
  simp [mget_mset, h]

/-- What a key reads does not depend on how another key reads unlisted. -/
theorem mget_mset_ne [DecidableEq α] (d e : α) (m : Map α) {k j : Nat} (v : α) (h : k ≠ j) : mget d (mset e m k v) j = mget d m j := by
  simp [mget_mset_at d e m k j v (fun x => absurd x h), h]

/-! ## The canonical form -/

theorem mwfBy_of_le [DecidableEq α] {d : Nat → α} {m : Map α} {lo hi : Nat} (h : mwfBy d hi m = true) (hl : lo ≤ hi) :
    mwfBy d lo m = true := by
  cases m with
  | nil => rfl
  | cons e r => simp [mwfBy] at h ⊢; exact ⟨⟨hl.trans h.1.1, h.1.2⟩, h.2⟩

theorem mwfBy_filter [DecidableEq α] (d : Nat → α) (p : Nat × α → Bool) {m : Map α} {lo : Nat} (h : mwfBy d lo m = true) :
    mwfBy d lo (m.filter p) = true := by
  induction m generalizing lo with
  | nil => rfl
  | cons e r ih =>
    simp [mwfBy] at h
    by_cases hp : p e
    · simp [hp, mwfBy, h.1, ih h.2]
    · simp [hp]; exact mwfBy_of_le (ih h.2) (h.1.1.trans (Nat.le_succ _))

theorem mwfBy_mins [DecidableEq α] {d : Nat → α} {m : Map α} {k lo : Nat} {v : α} (h : mwfBy d lo m = true) (hk : lo ≤ k)
    (hv : v ≠ d k) (hm : ∀ e ∈ m, e.1 ≠ k) : mwfBy d lo (mins m k v) = true := by
  induction m generalizing lo with
  | nil => simp [mins, mwfBy, hk, hv]
  | cons e r ih =>
    simp [mwfBy] at h
    have he : e.1 ≠ k := hm e (by simp)
    by_cases hlt : k < e.1
    · have : k + 1 ≤ e.1 := hlt
      simp [mins, hlt, mwfBy, hk, hv, h.1.2, h.2, this]
    · have hle : e.1 + 1 ≤ k := by omega
      simp [mins, hlt, mwfBy, h.1, ih h.2 hle (fun x hx => hm x (List.mem_cons_of_mem _ hx))]

/-- A write keeps the canonical form. -/
theorem mwfBy_mset [DecidableEq α] {d : Nat → α} {m : Map α} (k : Nat) (v : α) (h : mwfBy d 0 m = true) :
    mwfBy d 0 (mset (d k) m k v) = true := by
  unfold mset
  split
  · exact mwfBy_filter d _ h
  · rename_i hv
    exact mwfBy_mins (mwfBy_filter d _ h) (Nat.zero_le _) hv (mem_mdel_ne m k)

/-- Consecutive writes keep the canonical form. -/
theorem mwfBy_mwriteBy (d : Nat → Byte) (bs : List Byte) {m : Map Byte} (k : Nat) (h : mwfBy d 0 m = true) :
    mwfBy d 0 (mwriteBy d m k bs) = true := by
  induction bs generalizing m k with
  | nil => exact h
  | cons b r ih => exact ih (k + 1) (mwfBy_mset k b h)

/-- A byte outside the range of a write reads as before. -/
theorem mget_mwriteBy_outside (d : Nat → Byte) (e : Byte) (bs : List Byte) (m : Map Byte) (k j : Nat) (h : j < k ∨ k + bs.length ≤ j) :
    mget e (mwriteBy d m k bs) j = mget e m j := by
  induction bs generalizing m k with
  | nil => rfl
  | cons b r ih =>
    simp only [mwriteBy]
    simp only [List.length_cons] at h
    rw [ih (mset (d k) m k b) (k + 1) (by omega), mget_mset_ne e (d k) m b (by omega)]

/-- A byte inside the range of a write reads what was written. -/
theorem mget_mwriteBy_inside (d : Nat → Byte) (bs : List Byte) (m : Map Byte) (k i : Nat) (h : i < bs.length) :
    mget (d (k + i)) (mwriteBy d m k bs) (k + i) = bs[i] := by
  induction bs generalizing m k i with
  | nil => simp at h
  | cons b r ih =>
    simp only [mwriteBy]
    cases i with
    | zero => rw [mget_mwriteBy_outside d _ r _ _ _ (by omega)]; simp
    | succ n =>
      have := ih (mset (d k) m k b) (k + 1) n (by simpa using h)
      rw [show k + (n + 1) = k + 1 + n by omega, this]; simp

theorem mdel_mins_same (m : Map α) (k : Nat) (v : α) : mdel (mins m k v) k = mdel m k := by
  induction m with
  | nil => simp [mins, mdel]
  | cons e r ih =>
    obtain ⟨k', v'⟩ := e
    simp only [mins]
    split
    · simp [mdel]
    · simp only [mdel, List.filter_cons] at ih ⊢
      split <;> simp [ih]

theorem mdel_mdel (m : Map α) (k : Nat) : mdel (mdel m k) k = mdel m k := by simp [mdel, List.filter_filter]

/-- A second write of a key replaces the first. -/
@[simp] theorem mset_mset [DecidableEq α] (d : α) (m : Map α) (k : Nat) (v w : α) : mset d (mset d m k v) k w = mset d m k w := by
  have h : mdel (mset d m k v) k = mdel m k := by
    unfold mset
    split
    · exact mdel_mdel m k
    · rw [mdel_mins_same, mdel_mdel]
  unfold mset at *
  split <;> simp_all

/-- A second write of a listed key replaces the first. -/
@[simp] theorem mput_mput (m : Map α) (k : Nat) (v w : α) : mput (mput m k v) k w = mput m k w := by
  simp [mput, mdel_mins_same, mdel_mdel]

end Sys2Proof.Machine
end

