-- ==== Sys2Proof/Laws/State.lean ====
section
/-! SUPPORT. What each field of the state holds after each named update: one lemma per field per update. -/

namespace Sys2Proof.Machine

variable (s : State)

/-! ## Fields that an update leaves -/

@[simp] theorem State.setCore_pending (c : Nat) (k : Core) : (s.setCore c k).pending = s.pending := rfl
@[simp] theorem State.setCore_tick (c : Nat) (k : Core) : (s.setCore c k).tick = s.tick := rfl
@[simp] theorem State.setCore_mem (c : Nat) (k : Core) : (s.setCore c k).mem = s.mem := rfl
@[simp] theorem State.setCore_hostMem (c : Nat) (k : Core) : (s.setCore c k).hostMem = s.hostMem := rfl
@[simp] theorem State.setCore_bad (c : Nat) (k : Core) : (s.setCore c k).bad = s.bad := rfl
@[simp] theorem State.setCore_clusters (c : Nat) (k : Core) : (s.setCore c k).clusters = s.clusters := rfl
@[simp] theorem State.setCore_sys (c : Nat) (k : Core) : (s.setCore c k).sys = s.sys := rfl
@[simp] theorem State.setCore_repair (c : Nat) (k : Core) : (s.setCore c k).repair = s.repair := rfl
@[simp] theorem State.setCore_boot (c : Nat) (k : Core) : (s.setCore c k).boot = s.boot := rfl
@[simp] theorem State.setCore_power (c : Nat) (k : Core) : (s.setCore c k).power = s.power := rfl
@[simp] theorem State.setCore_hbm (c : Nat) (k : Core) : (s.setCore c k).hbm = s.hbm := rfl
@[simp] theorem State.setCore_ctxs (c : Nat) (k : Core) : (s.setCore c k).ctxs = s.ctxs := rfl
@[simp] theorem State.setCore_ctxRegs (c : Nat) (k : Core) : (s.setCore c k).ctxRegs = s.ctxRegs := rfl
@[simp] theorem State.setCore_thmSel (c : Nat) (k : Core) : (s.setCore c k).thmSel = s.thmSel := rfl
@[simp] theorem State.setCore_trh (c : Nat) (k : Core) : (s.setCore c k).trh = s.trh := rfl
@[simp] theorem State.setCore_wmk (c : Nat) (k : Core) : (s.setCore c k).wmk = s.wmk := rfl
@[simp] theorem State.setCore_evl (c : Nat) (k : Core) : (s.setCore c k).evl = s.evl := rfl
@[simp] theorem State.setCore_pci (c : Nat) (k : Core) : (s.setCore c k).pci = s.pci := rfl
@[simp] theorem State.setCore_nxp (c : Nat) (k : Core) : (s.setCore c k).nxp = s.nxp := rfl
@[simp] theorem State.setCore_ing0 (c : Nat) (k : Core) : (s.setCore c k).ing0 = s.ing0 := rfl
@[simp] theorem State.setCore_ing1 (c : Nat) (k : Core) : (s.setCore c k).ing1 = s.ing1 := rfl
@[simp] theorem State.setCore_rcl (c : Nat) (k : Core) : (s.setCore c k).rcl = s.rcl := rfl
@[simp] theorem State.setCore_mtr (c : Nat) (k : Core) : (s.setCore c k).mtr = s.mtr := rfl
@[simp] theorem State.setCore_lnt (c : Nat) (k : Core) : (s.setCore c k).lnt = s.lnt := rfl
@[simp] theorem State.setCore_out (c : Nat) (k : Core) : (s.setCore c k).out = s.out := rfl

@[simp] theorem State.modCore_pending (c : Nat) (f : Core → Core) : (s.modCore c f).pending = s.pending := rfl
@[simp] theorem State.modCore_tick (c : Nat) (f : Core → Core) : (s.modCore c f).tick = s.tick := rfl
@[simp] theorem State.modCore_mem (c : Nat) (f : Core → Core) : (s.modCore c f).mem = s.mem := rfl
@[simp] theorem State.modCore_hostMem (c : Nat) (f : Core → Core) : (s.modCore c f).hostMem = s.hostMem := rfl
@[simp] theorem State.modCore_bad (c : Nat) (f : Core → Core) : (s.modCore c f).bad = s.bad := rfl
@[simp] theorem State.modCore_clusters (c : Nat) (f : Core → Core) : (s.modCore c f).clusters = s.clusters := rfl
@[simp] theorem State.modCore_sys (c : Nat) (f : Core → Core) : (s.modCore c f).sys = s.sys := rfl
@[simp] theorem State.modCore_repair (c : Nat) (f : Core → Core) : (s.modCore c f).repair = s.repair := rfl
@[simp] theorem State.modCore_boot (c : Nat) (f : Core → Core) : (s.modCore c f).boot = s.boot := rfl
@[simp] theorem State.modCore_power (c : Nat) (f : Core → Core) : (s.modCore c f).power = s.power := rfl
@[simp] theorem State.modCore_hbm (c : Nat) (f : Core → Core) : (s.modCore c f).hbm = s.hbm := rfl
@[simp] theorem State.modCore_ctxs (c : Nat) (f : Core → Core) : (s.modCore c f).ctxs = s.ctxs := rfl
@[simp] theorem State.modCore_ctxRegs (c : Nat) (f : Core → Core) : (s.modCore c f).ctxRegs = s.ctxRegs := rfl
@[simp] theorem State.modCore_thmSel (c : Nat) (f : Core → Core) : (s.modCore c f).thmSel = s.thmSel := rfl
@[simp] theorem State.modCore_trh (c : Nat) (f : Core → Core) : (s.modCore c f).trh = s.trh := rfl
@[simp] theorem State.modCore_wmk (c : Nat) (f : Core → Core) : (s.modCore c f).wmk = s.wmk := rfl
@[simp] theorem State.modCore_evl (c : Nat) (f : Core → Core) : (s.modCore c f).evl = s.evl := rfl
@[simp] theorem State.modCore_pci (c : Nat) (f : Core → Core) : (s.modCore c f).pci = s.pci := rfl
@[simp] theorem State.modCore_nxp (c : Nat) (f : Core → Core) : (s.modCore c f).nxp = s.nxp := rfl
@[simp] theorem State.modCore_ing0 (c : Nat) (f : Core → Core) : (s.modCore c f).ing0 = s.ing0 := rfl
@[simp] theorem State.modCore_ing1 (c : Nat) (f : Core → Core) : (s.modCore c f).ing1 = s.ing1 := rfl
@[simp] theorem State.modCore_rcl (c : Nat) (f : Core → Core) : (s.modCore c f).rcl = s.rcl := rfl
@[simp] theorem State.modCore_mtr (c : Nat) (f : Core → Core) : (s.modCore c f).mtr = s.mtr := rfl
@[simp] theorem State.modCore_lnt (c : Nat) (f : Core → Core) : (s.modCore c f).lnt = s.lnt := rfl
@[simp] theorem State.modCore_out (c : Nat) (f : Core → Core) : (s.modCore c f).out = s.out := rfl

@[simp] theorem State.setCluster_pending (n : Nat) (k : Cluster) : (s.setCluster n k).pending = s.pending := rfl
@[simp] theorem State.setCluster_tick (n : Nat) (k : Cluster) : (s.setCluster n k).tick = s.tick := rfl
@[simp] theorem State.setCluster_mem (n : Nat) (k : Cluster) : (s.setCluster n k).mem = s.mem := rfl
@[simp] theorem State.setCluster_hostMem (n : Nat) (k : Cluster) : (s.setCluster n k).hostMem = s.hostMem := rfl
@[simp] theorem State.setCluster_bad (n : Nat) (k : Cluster) : (s.setCluster n k).bad = s.bad := rfl
@[simp] theorem State.setCluster_cores (n : Nat) (k : Cluster) : (s.setCluster n k).cores = s.cores := rfl
@[simp] theorem State.setCluster_sys (n : Nat) (k : Cluster) : (s.setCluster n k).sys = s.sys := rfl
@[simp] theorem State.setCluster_repair (n : Nat) (k : Cluster) : (s.setCluster n k).repair = s.repair := rfl
@[simp] theorem State.setCluster_boot (n : Nat) (k : Cluster) : (s.setCluster n k).boot = s.boot := rfl
@[simp] theorem State.setCluster_power (n : Nat) (k : Cluster) : (s.setCluster n k).power = s.power := rfl
@[simp] theorem State.setCluster_hbm (n : Nat) (k : Cluster) : (s.setCluster n k).hbm = s.hbm := rfl
@[simp] theorem State.setCluster_ctxs (n : Nat) (k : Cluster) : (s.setCluster n k).ctxs = s.ctxs := rfl
@[simp] theorem State.setCluster_ctxRegs (n : Nat) (k : Cluster) : (s.setCluster n k).ctxRegs = s.ctxRegs := rfl
@[simp] theorem State.setCluster_thmSel (n : Nat) (k : Cluster) : (s.setCluster n k).thmSel = s.thmSel := rfl
@[simp] theorem State.setCluster_trh (n : Nat) (k : Cluster) : (s.setCluster n k).trh = s.trh := rfl
@[simp] theorem State.setCluster_wmk (n : Nat) (k : Cluster) : (s.setCluster n k).wmk = s.wmk := rfl
@[simp] theorem State.setCluster_evl (n : Nat) (k : Cluster) : (s.setCluster n k).evl = s.evl := rfl
@[simp] theorem State.setCluster_pci (n : Nat) (k : Cluster) : (s.setCluster n k).pci = s.pci := rfl
@[simp] theorem State.setCluster_nxp (n : Nat) (k : Cluster) : (s.setCluster n k).nxp = s.nxp := rfl
@[simp] theorem State.setCluster_ing0 (n : Nat) (k : Cluster) : (s.setCluster n k).ing0 = s.ing0 := rfl
@[simp] theorem State.setCluster_ing1 (n : Nat) (k : Cluster) : (s.setCluster n k).ing1 = s.ing1 := rfl
@[simp] theorem State.setCluster_rcl (n : Nat) (k : Cluster) : (s.setCluster n k).rcl = s.rcl := rfl
@[simp] theorem State.setCluster_mtr (n : Nat) (k : Cluster) : (s.setCluster n k).mtr = s.mtr := rfl
@[simp] theorem State.setCluster_lnt (n : Nat) (k : Cluster) : (s.setCluster n k).lnt = s.lnt := rfl
@[simp] theorem State.setCluster_out (n : Nat) (k : Cluster) : (s.setCluster n k).out = s.out := rfl

@[simp] theorem State.modCluster_pending (n : Nat) (f : Cluster → Cluster) : (s.modCluster n f).pending = s.pending := rfl
@[simp] theorem State.modCluster_tick (n : Nat) (f : Cluster → Cluster) : (s.modCluster n f).tick = s.tick := rfl
@[simp] theorem State.modCluster_mem (n : Nat) (f : Cluster → Cluster) : (s.modCluster n f).mem = s.mem := rfl
@[simp] theorem State.modCluster_hostMem (n : Nat) (f : Cluster → Cluster) : (s.modCluster n f).hostMem = s.hostMem := rfl
@[simp] theorem State.modCluster_bad (n : Nat) (f : Cluster → Cluster) : (s.modCluster n f).bad = s.bad := rfl
@[simp] theorem State.modCluster_cores (n : Nat) (f : Cluster → Cluster) : (s.modCluster n f).cores = s.cores := rfl
@[simp] theorem State.modCluster_sys (n : Nat) (f : Cluster → Cluster) : (s.modCluster n f).sys = s.sys := rfl
@[simp] theorem State.modCluster_repair (n : Nat) (f : Cluster → Cluster) : (s.modCluster n f).repair = s.repair := rfl
@[simp] theorem State.modCluster_boot (n : Nat) (f : Cluster → Cluster) : (s.modCluster n f).boot = s.boot := rfl
@[simp] theorem State.modCluster_power (n : Nat) (f : Cluster → Cluster) : (s.modCluster n f).power = s.power := rfl
@[simp] theorem State.modCluster_hbm (n : Nat) (f : Cluster → Cluster) : (s.modCluster n f).hbm = s.hbm := rfl
@[simp] theorem State.modCluster_ctxs (n : Nat) (f : Cluster → Cluster) : (s.modCluster n f).ctxs = s.ctxs := rfl
@[simp] theorem State.modCluster_ctxRegs (n : Nat) (f : Cluster → Cluster) : (s.modCluster n f).ctxRegs = s.ctxRegs := rfl
@[simp] theorem State.modCluster_thmSel (n : Nat) (f : Cluster → Cluster) : (s.modCluster n f).thmSel = s.thmSel := rfl
@[simp] theorem State.modCluster_trh (n : Nat) (f : Cluster → Cluster) : (s.modCluster n f).trh = s.trh := rfl
@[simp] theorem State.modCluster_wmk (n : Nat) (f : Cluster → Cluster) : (s.modCluster n f).wmk = s.wmk := rfl
@[simp] theorem State.modCluster_evl (n : Nat) (f : Cluster → Cluster) : (s.modCluster n f).evl = s.evl := rfl
@[simp] theorem State.modCluster_pci (n : Nat) (f : Cluster → Cluster) : (s.modCluster n f).pci = s.pci := rfl
@[simp] theorem State.modCluster_nxp (n : Nat) (f : Cluster → Cluster) : (s.modCluster n f).nxp = s.nxp := rfl
@[simp] theorem State.modCluster_ing0 (n : Nat) (f : Cluster → Cluster) : (s.modCluster n f).ing0 = s.ing0 := rfl
@[simp] theorem State.modCluster_ing1 (n : Nat) (f : Cluster → Cluster) : (s.modCluster n f).ing1 = s.ing1 := rfl
@[simp] theorem State.modCluster_rcl (n : Nat) (f : Cluster → Cluster) : (s.modCluster n f).rcl = s.rcl := rfl
@[simp] theorem State.modCluster_mtr (n : Nat) (f : Cluster → Cluster) : (s.modCluster n f).mtr = s.mtr := rfl
@[simp] theorem State.modCluster_lnt (n : Nat) (f : Cluster → Cluster) : (s.modCluster n f).lnt = s.lnt := rfl
@[simp] theorem State.modCluster_out (n : Nat) (f : Cluster → Cluster) : (s.modCluster n f).out = s.out := rfl

@[simp] theorem State.modCreg_pending (n : Nat) (f : CtxRegs → CtxRegs) : (s.modCreg n f).pending = s.pending := rfl
@[simp] theorem State.modCreg_tick (n : Nat) (f : CtxRegs → CtxRegs) : (s.modCreg n f).tick = s.tick := rfl
@[simp] theorem State.modCreg_mem (n : Nat) (f : CtxRegs → CtxRegs) : (s.modCreg n f).mem = s.mem := rfl
@[simp] theorem State.modCreg_hostMem (n : Nat) (f : CtxRegs → CtxRegs) : (s.modCreg n f).hostMem = s.hostMem := rfl
@[simp] theorem State.modCreg_bad (n : Nat) (f : CtxRegs → CtxRegs) : (s.modCreg n f).bad = s.bad := rfl
@[simp] theorem State.modCreg_cores (n : Nat) (f : CtxRegs → CtxRegs) : (s.modCreg n f).cores = s.cores := rfl
@[simp] theorem State.modCreg_clusters (n : Nat) (f : CtxRegs → CtxRegs) : (s.modCreg n f).clusters = s.clusters := rfl
@[simp] theorem State.modCreg_sys (n : Nat) (f : CtxRegs → CtxRegs) : (s.modCreg n f).sys = s.sys := rfl
@[simp] theorem State.modCreg_repair (n : Nat) (f : CtxRegs → CtxRegs) : (s.modCreg n f).repair = s.repair := rfl
@[simp] theorem State.modCreg_boot (n : Nat) (f : CtxRegs → CtxRegs) : (s.modCreg n f).boot = s.boot := rfl
@[simp] theorem State.modCreg_power (n : Nat) (f : CtxRegs → CtxRegs) : (s.modCreg n f).power = s.power := rfl
@[simp] theorem State.modCreg_hbm (n : Nat) (f : CtxRegs → CtxRegs) : (s.modCreg n f).hbm = s.hbm := rfl
@[simp] theorem State.modCreg_ctxs (n : Nat) (f : CtxRegs → CtxRegs) : (s.modCreg n f).ctxs = s.ctxs := rfl
@[simp] theorem State.modCreg_thmSel (n : Nat) (f : CtxRegs → CtxRegs) : (s.modCreg n f).thmSel = s.thmSel := rfl
@[simp] theorem State.modCreg_trh (n : Nat) (f : CtxRegs → CtxRegs) : (s.modCreg n f).trh = s.trh := rfl
@[simp] theorem State.modCreg_wmk (n : Nat) (f : CtxRegs → CtxRegs) : (s.modCreg n f).wmk = s.wmk := rfl
@[simp] theorem State.modCreg_evl (n : Nat) (f : CtxRegs → CtxRegs) : (s.modCreg n f).evl = s.evl := rfl
@[simp] theorem State.modCreg_pci (n : Nat) (f : CtxRegs → CtxRegs) : (s.modCreg n f).pci = s.pci := rfl
@[simp] theorem State.modCreg_nxp (n : Nat) (f : CtxRegs → CtxRegs) : (s.modCreg n f).nxp = s.nxp := rfl
@[simp] theorem State.modCreg_ing0 (n : Nat) (f : CtxRegs → CtxRegs) : (s.modCreg n f).ing0 = s.ing0 := rfl
@[simp] theorem State.modCreg_ing1 (n : Nat) (f : CtxRegs → CtxRegs) : (s.modCreg n f).ing1 = s.ing1 := rfl
@[simp] theorem State.modCreg_rcl (n : Nat) (f : CtxRegs → CtxRegs) : (s.modCreg n f).rcl = s.rcl := rfl
@[simp] theorem State.modCreg_mtr (n : Nat) (f : CtxRegs → CtxRegs) : (s.modCreg n f).mtr = s.mtr := rfl
@[simp] theorem State.modCreg_lnt (n : Nat) (f : CtxRegs → CtxRegs) : (s.modCreg n f).lnt = s.lnt := rfl
@[simp] theorem State.modCreg_out (n : Nat) (f : CtxRegs → CtxRegs) : (s.modCreg n f).out = s.out := rfl

@[simp] theorem State.setCtx_pending (n : Nat) (x : Ctx) : (s.setCtx n x).pending = s.pending := rfl
@[simp] theorem State.setCtx_tick (n : Nat) (x : Ctx) : (s.setCtx n x).tick = s.tick := rfl
@[simp] theorem State.setCtx_mem (n : Nat) (x : Ctx) : (s.setCtx n x).mem = s.mem := rfl
@[simp] theorem State.setCtx_hostMem (n : Nat) (x : Ctx) : (s.setCtx n x).hostMem = s.hostMem := rfl
@[simp] theorem State.setCtx_bad (n : Nat) (x : Ctx) : (s.setCtx n x).bad = s.bad := rfl
@[simp] theorem State.setCtx_cores (n : Nat) (x : Ctx) : (s.setCtx n x).cores = s.cores := rfl
@[simp] theorem State.setCtx_clusters (n : Nat) (x : Ctx) : (s.setCtx n x).clusters = s.clusters := rfl
@[simp] theorem State.setCtx_sys (n : Nat) (x : Ctx) : (s.setCtx n x).sys = s.sys := rfl
@[simp] theorem State.setCtx_repair (n : Nat) (x : Ctx) : (s.setCtx n x).repair = s.repair := rfl
@[simp] theorem State.setCtx_boot (n : Nat) (x : Ctx) : (s.setCtx n x).boot = s.boot := rfl
@[simp] theorem State.setCtx_power (n : Nat) (x : Ctx) : (s.setCtx n x).power = s.power := rfl
@[simp] theorem State.setCtx_hbm (n : Nat) (x : Ctx) : (s.setCtx n x).hbm = s.hbm := rfl
@[simp] theorem State.setCtx_ctxRegs (n : Nat) (x : Ctx) : (s.setCtx n x).ctxRegs = s.ctxRegs := rfl
@[simp] theorem State.setCtx_thmSel (n : Nat) (x : Ctx) : (s.setCtx n x).thmSel = s.thmSel := rfl
@[simp] theorem State.setCtx_trh (n : Nat) (x : Ctx) : (s.setCtx n x).trh = s.trh := rfl
@[simp] theorem State.setCtx_wmk (n : Nat) (x : Ctx) : (s.setCtx n x).wmk = s.wmk := rfl
@[simp] theorem State.setCtx_evl (n : Nat) (x : Ctx) : (s.setCtx n x).evl = s.evl := rfl
@[simp] theorem State.setCtx_pci (n : Nat) (x : Ctx) : (s.setCtx n x).pci = s.pci := rfl
@[simp] theorem State.setCtx_nxp (n : Nat) (x : Ctx) : (s.setCtx n x).nxp = s.nxp := rfl
@[simp] theorem State.setCtx_ing0 (n : Nat) (x : Ctx) : (s.setCtx n x).ing0 = s.ing0 := rfl
@[simp] theorem State.setCtx_ing1 (n : Nat) (x : Ctx) : (s.setCtx n x).ing1 = s.ing1 := rfl
@[simp] theorem State.setCtx_rcl (n : Nat) (x : Ctx) : (s.setCtx n x).rcl = s.rcl := rfl
@[simp] theorem State.setCtx_mtr (n : Nat) (x : Ctx) : (s.setCtx n x).mtr = s.mtr := rfl
@[simp] theorem State.setCtx_lnt (n : Nat) (x : Ctx) : (s.setCtx n x).lnt = s.lnt := rfl
@[simp] theorem State.setCtx_out (n : Nat) (x : Ctx) : (s.setCtx n x).out = s.out := rfl

@[simp] theorem State.modCtx_pending (n : Nat) (f : Ctx → Ctx) : (s.modCtx n f).pending = s.pending := by
  unfold State.modCtx; split <;> rfl
@[simp] theorem State.modCtx_tick (n : Nat) (f : Ctx → Ctx) : (s.modCtx n f).tick = s.tick := by
  unfold State.modCtx; split <;> rfl
@[simp] theorem State.modCtx_mem (n : Nat) (f : Ctx → Ctx) : (s.modCtx n f).mem = s.mem := by
  unfold State.modCtx; split <;> rfl
@[simp] theorem State.modCtx_hostMem (n : Nat) (f : Ctx → Ctx) : (s.modCtx n f).hostMem = s.hostMem := by
  unfold State.modCtx; split <;> rfl
@[simp] theorem State.modCtx_bad (n : Nat) (f : Ctx → Ctx) : (s.modCtx n f).bad = s.bad := by
  unfold State.modCtx; split <;> rfl
@[simp] theorem State.modCtx_cores (n : Nat) (f : Ctx → Ctx) : (s.modCtx n f).cores = s.cores := by
  unfold State.modCtx; split <;> rfl
@[simp] theorem State.modCtx_clusters (n : Nat) (f : Ctx → Ctx) : (s.modCtx n f).clusters = s.clusters := by
  unfold State.modCtx; split <;> rfl
@[simp] theorem State.modCtx_sys (n : Nat) (f : Ctx → Ctx) : (s.modCtx n f).sys = s.sys := by
  unfold State.modCtx; split <;> rfl
@[simp] theorem State.modCtx_repair (n : Nat) (f : Ctx → Ctx) : (s.modCtx n f).repair = s.repair := by
  unfold State.modCtx; split <;> rfl
@[simp] theorem State.modCtx_boot (n : Nat) (f : Ctx → Ctx) : (s.modCtx n f).boot = s.boot := by
  unfold State.modCtx; split <;> rfl
@[simp] theorem State.modCtx_power (n : Nat) (f : Ctx → Ctx) : (s.modCtx n f).power = s.power := by
  unfold State.modCtx; split <;> rfl
@[simp] theorem State.modCtx_hbm (n : Nat) (f : Ctx → Ctx) : (s.modCtx n f).hbm = s.hbm := by
  unfold State.modCtx; split <;> rfl
@[simp] theorem State.modCtx_ctxRegs (n : Nat) (f : Ctx → Ctx) : (s.modCtx n f).ctxRegs = s.ctxRegs := by
  unfold State.modCtx; split <;> rfl
@[simp] theorem State.modCtx_thmSel (n : Nat) (f : Ctx → Ctx) : (s.modCtx n f).thmSel = s.thmSel := by
  unfold State.modCtx; split <;> rfl
@[simp] theorem State.modCtx_trh (n : Nat) (f : Ctx → Ctx) : (s.modCtx n f).trh = s.trh := by
  unfold State.modCtx; split <;> rfl
@[simp] theorem State.modCtx_wmk (n : Nat) (f : Ctx → Ctx) : (s.modCtx n f).wmk = s.wmk := by
  unfold State.modCtx; split <;> rfl
@[simp] theorem State.modCtx_evl (n : Nat) (f : Ctx → Ctx) : (s.modCtx n f).evl = s.evl := by
  unfold State.modCtx; split <;> rfl
@[simp] theorem State.modCtx_pci (n : Nat) (f : Ctx → Ctx) : (s.modCtx n f).pci = s.pci := by
  unfold State.modCtx; split <;> rfl
@[simp] theorem State.modCtx_nxp (n : Nat) (f : Ctx → Ctx) : (s.modCtx n f).nxp = s.nxp := by
  unfold State.modCtx; split <;> rfl
@[simp] theorem State.modCtx_ing0 (n : Nat) (f : Ctx → Ctx) : (s.modCtx n f).ing0 = s.ing0 := by
  unfold State.modCtx; split <;> rfl
@[simp] theorem State.modCtx_ing1 (n : Nat) (f : Ctx → Ctx) : (s.modCtx n f).ing1 = s.ing1 := by
  unfold State.modCtx; split <;> rfl
@[simp] theorem State.modCtx_rcl (n : Nat) (f : Ctx → Ctx) : (s.modCtx n f).rcl = s.rcl := by
  unfold State.modCtx; split <;> rfl
@[simp] theorem State.modCtx_mtr (n : Nat) (f : Ctx → Ctx) : (s.modCtx n f).mtr = s.mtr := by
  unfold State.modCtx; split <;> rfl
@[simp] theorem State.modCtx_lnt (n : Nat) (f : Ctx → Ctx) : (s.modCtx n f).lnt = s.lnt := by
  unfold State.modCtx; split <;> rfl
@[simp] theorem State.modCtx_out (n : Nat) (f : Ctx → Ctx) : (s.modCtx n f).out = s.out := by
  unfold State.modCtx; split <;> rfl

@[simp] theorem State.setGraph_pending (g : Nat) (x : Graph) : (s.setGraph g x).pending = s.pending := rfl
@[simp] theorem State.setGraph_tick (g : Nat) (x : Graph) : (s.setGraph g x).tick = s.tick := rfl
@[simp] theorem State.setGraph_mem (g : Nat) (x : Graph) : (s.setGraph g x).mem = s.mem := rfl
@[simp] theorem State.setGraph_hostMem (g : Nat) (x : Graph) : (s.setGraph g x).hostMem = s.hostMem := rfl
@[simp] theorem State.setGraph_bad (g : Nat) (x : Graph) : (s.setGraph g x).bad = s.bad := rfl
@[simp] theorem State.setGraph_cores (g : Nat) (x : Graph) : (s.setGraph g x).cores = s.cores := rfl
@[simp] theorem State.setGraph_clusters (g : Nat) (x : Graph) : (s.setGraph g x).clusters = s.clusters := rfl
@[simp] theorem State.setGraph_sys (g : Nat) (x : Graph) : (s.setGraph g x).sys = s.sys := rfl
@[simp] theorem State.setGraph_repair (g : Nat) (x : Graph) : (s.setGraph g x).repair = s.repair := rfl
@[simp] theorem State.setGraph_boot (g : Nat) (x : Graph) : (s.setGraph g x).boot = s.boot := rfl
@[simp] theorem State.setGraph_power (g : Nat) (x : Graph) : (s.setGraph g x).power = s.power := rfl
@[simp] theorem State.setGraph_hbm (g : Nat) (x : Graph) : (s.setGraph g x).hbm = s.hbm := rfl
@[simp] theorem State.setGraph_ctxs (g : Nat) (x : Graph) : (s.setGraph g x).ctxs = s.ctxs := rfl
@[simp] theorem State.setGraph_ctxRegs (g : Nat) (x : Graph) : (s.setGraph g x).ctxRegs = s.ctxRegs := rfl
@[simp] theorem State.setGraph_thmSel (g : Nat) (x : Graph) : (s.setGraph g x).thmSel = s.thmSel := rfl
@[simp] theorem State.setGraph_wmk (g : Nat) (x : Graph) : (s.setGraph g x).wmk = s.wmk := rfl
@[simp] theorem State.setGraph_evl (g : Nat) (x : Graph) : (s.setGraph g x).evl = s.evl := rfl
@[simp] theorem State.setGraph_pci (g : Nat) (x : Graph) : (s.setGraph g x).pci = s.pci := rfl
@[simp] theorem State.setGraph_nxp (g : Nat) (x : Graph) : (s.setGraph g x).nxp = s.nxp := rfl
@[simp] theorem State.setGraph_ing0 (g : Nat) (x : Graph) : (s.setGraph g x).ing0 = s.ing0 := rfl
@[simp] theorem State.setGraph_ing1 (g : Nat) (x : Graph) : (s.setGraph g x).ing1 = s.ing1 := rfl
@[simp] theorem State.setGraph_rcl (g : Nat) (x : Graph) : (s.setGraph g x).rcl = s.rcl := rfl
@[simp] theorem State.setGraph_mtr (g : Nat) (x : Graph) : (s.setGraph g x).mtr = s.mtr := rfl
@[simp] theorem State.setGraph_lnt (g : Nat) (x : Graph) : (s.setGraph g x).lnt = s.lnt := rfl
@[simp] theorem State.setGraph_out (g : Nat) (x : Graph) : (s.setGraph g x).out = s.out := rfl

@[simp] theorem State.modGraph_pending (g : Nat) (f : Graph → Graph) : (s.modGraph g f).pending = s.pending := by
  unfold State.modGraph; split <;> rfl
@[simp] theorem State.modGraph_tick (g : Nat) (f : Graph → Graph) : (s.modGraph g f).tick = s.tick := by
  unfold State.modGraph; split <;> rfl
@[simp] theorem State.modGraph_mem (g : Nat) (f : Graph → Graph) : (s.modGraph g f).mem = s.mem := by
  unfold State.modGraph; split <;> rfl
@[simp] theorem State.modGraph_hostMem (g : Nat) (f : Graph → Graph) : (s.modGraph g f).hostMem = s.hostMem := by
  unfold State.modGraph; split <;> rfl
@[simp] theorem State.modGraph_bad (g : Nat) (f : Graph → Graph) : (s.modGraph g f).bad = s.bad := by
  unfold State.modGraph; split <;> rfl
@[simp] theorem State.modGraph_cores (g : Nat) (f : Graph → Graph) : (s.modGraph g f).cores = s.cores := by
  unfold State.modGraph; split <;> rfl
@[simp] theorem State.modGraph_clusters (g : Nat) (f : Graph → Graph) : (s.modGraph g f).clusters = s.clusters := by
  unfold State.modGraph; split <;> rfl
@[simp] theorem State.modGraph_sys (g : Nat) (f : Graph → Graph) : (s.modGraph g f).sys = s.sys := by
  unfold State.modGraph; split <;> rfl
@[simp] theorem State.modGraph_repair (g : Nat) (f : Graph → Graph) : (s.modGraph g f).repair = s.repair := by
  unfold State.modGraph; split <;> rfl
@[simp] theorem State.modGraph_boot (g : Nat) (f : Graph → Graph) : (s.modGraph g f).boot = s.boot := by
  unfold State.modGraph; split <;> rfl
@[simp] theorem State.modGraph_power (g : Nat) (f : Graph → Graph) : (s.modGraph g f).power = s.power := by
  unfold State.modGraph; split <;> rfl
@[simp] theorem State.modGraph_hbm (g : Nat) (f : Graph → Graph) : (s.modGraph g f).hbm = s.hbm := by
  unfold State.modGraph; split <;> rfl
@[simp] theorem State.modGraph_ctxs (g : Nat) (f : Graph → Graph) : (s.modGraph g f).ctxs = s.ctxs := by
  unfold State.modGraph; split <;> rfl
@[simp] theorem State.modGraph_ctxRegs (g : Nat) (f : Graph → Graph) : (s.modGraph g f).ctxRegs = s.ctxRegs := by
  unfold State.modGraph; split <;> rfl
@[simp] theorem State.modGraph_thmSel (g : Nat) (f : Graph → Graph) : (s.modGraph g f).thmSel = s.thmSel := by
  unfold State.modGraph; split <;> rfl
@[simp] theorem State.modGraph_wmk (g : Nat) (f : Graph → Graph) : (s.modGraph g f).wmk = s.wmk := by
  unfold State.modGraph; split <;> rfl
@[simp] theorem State.modGraph_evl (g : Nat) (f : Graph → Graph) : (s.modGraph g f).evl = s.evl := by
  unfold State.modGraph; split <;> rfl
@[simp] theorem State.modGraph_pci (g : Nat) (f : Graph → Graph) : (s.modGraph g f).pci = s.pci := by
  unfold State.modGraph; split <;> rfl
@[simp] theorem State.modGraph_nxp (g : Nat) (f : Graph → Graph) : (s.modGraph g f).nxp = s.nxp := by
  unfold State.modGraph; split <;> rfl
@[simp] theorem State.modGraph_ing0 (g : Nat) (f : Graph → Graph) : (s.modGraph g f).ing0 = s.ing0 := by
  unfold State.modGraph; split <;> rfl
@[simp] theorem State.modGraph_ing1 (g : Nat) (f : Graph → Graph) : (s.modGraph g f).ing1 = s.ing1 := by
  unfold State.modGraph; split <;> rfl
@[simp] theorem State.modGraph_rcl (g : Nat) (f : Graph → Graph) : (s.modGraph g f).rcl = s.rcl := by
  unfold State.modGraph; split <;> rfl
@[simp] theorem State.modGraph_mtr (g : Nat) (f : Graph → Graph) : (s.modGraph g f).mtr = s.mtr := by
  unfold State.modGraph; split <;> rfl
@[simp] theorem State.modGraph_lnt (g : Nat) (f : Graph → Graph) : (s.modGraph g f).lnt = s.lnt := by
  unfold State.modGraph; split <;> rfl
@[simp] theorem State.modGraph_out (g : Nat) (f : Graph → Graph) : (s.modGraph g f).out = s.out := by
  unfold State.modGraph; split <;> rfl

@[simp] theorem State.modTask_pending (g i : Nat) (f : Task → Task) : (s.modTask g i f).pending = s.pending := by
  simp [State.modTask]
@[simp] theorem State.modTask_tick (g i : Nat) (f : Task → Task) : (s.modTask g i f).tick = s.tick := by
  simp [State.modTask]
@[simp] theorem State.modTask_mem (g i : Nat) (f : Task → Task) : (s.modTask g i f).mem = s.mem := by
  simp [State.modTask]
@[simp] theorem State.modTask_hostMem (g i : Nat) (f : Task → Task) : (s.modTask g i f).hostMem = s.hostMem := by
  simp [State.modTask]
@[simp] theorem State.modTask_bad (g i : Nat) (f : Task → Task) : (s.modTask g i f).bad = s.bad := by
  simp [State.modTask]
@[simp] theorem State.modTask_cores (g i : Nat) (f : Task → Task) : (s.modTask g i f).cores = s.cores := by
  simp [State.modTask]
@[simp] theorem State.modTask_clusters (g i : Nat) (f : Task → Task) : (s.modTask g i f).clusters = s.clusters := by
  simp [State.modTask]
@[simp] theorem State.modTask_sys (g i : Nat) (f : Task → Task) : (s.modTask g i f).sys = s.sys := by
  simp [State.modTask]
@[simp] theorem State.modTask_repair (g i : Nat) (f : Task → Task) : (s.modTask g i f).repair = s.repair := by
  simp [State.modTask]
@[simp] theorem State.modTask_boot (g i : Nat) (f : Task → Task) : (s.modTask g i f).boot = s.boot := by
  simp [State.modTask]
@[simp] theorem State.modTask_power (g i : Nat) (f : Task → Task) : (s.modTask g i f).power = s.power := by
  simp [State.modTask]
@[simp] theorem State.modTask_hbm (g i : Nat) (f : Task → Task) : (s.modTask g i f).hbm = s.hbm := by
  simp [State.modTask]
@[simp] theorem State.modTask_ctxs (g i : Nat) (f : Task → Task) : (s.modTask g i f).ctxs = s.ctxs := by
  simp [State.modTask]
@[simp] theorem State.modTask_ctxRegs (g i : Nat) (f : Task → Task) : (s.modTask g i f).ctxRegs = s.ctxRegs := by
  simp [State.modTask]
@[simp] theorem State.modTask_thmSel (g i : Nat) (f : Task → Task) : (s.modTask g i f).thmSel = s.thmSel := by
  simp [State.modTask]
@[simp] theorem State.modTask_wmk (g i : Nat) (f : Task → Task) : (s.modTask g i f).wmk = s.wmk := by
  simp [State.modTask]
@[simp] theorem State.modTask_evl (g i : Nat) (f : Task → Task) : (s.modTask g i f).evl = s.evl := by
  simp [State.modTask]
@[simp] theorem State.modTask_pci (g i : Nat) (f : Task → Task) : (s.modTask g i f).pci = s.pci := by
  simp [State.modTask]
@[simp] theorem State.modTask_nxp (g i : Nat) (f : Task → Task) : (s.modTask g i f).nxp = s.nxp := by
  simp [State.modTask]
@[simp] theorem State.modTask_ing0 (g i : Nat) (f : Task → Task) : (s.modTask g i f).ing0 = s.ing0 := by
  simp [State.modTask]
@[simp] theorem State.modTask_ing1 (g i : Nat) (f : Task → Task) : (s.modTask g i f).ing1 = s.ing1 := by
  simp [State.modTask]
@[simp] theorem State.modTask_rcl (g i : Nat) (f : Task → Task) : (s.modTask g i f).rcl = s.rcl := by
  simp [State.modTask]
@[simp] theorem State.modTask_mtr (g i : Nat) (f : Task → Task) : (s.modTask g i f).mtr = s.mtr := by
  simp [State.modTask]
@[simp] theorem State.modTask_lnt (g i : Nat) (f : Task → Task) : (s.modTask g i f).lnt = s.lnt := by
  simp [State.modTask]
@[simp] theorem State.modTask_out (g i : Nat) (f : Task → Task) : (s.modTask g i f).out = s.out := by
  simp [State.modTask]

@[simp] theorem State.modFn_pending (n : Nat) (f : Fn → Fn) : (s.modFn n f).pending = s.pending := rfl
@[simp] theorem State.modFn_tick (n : Nat) (f : Fn → Fn) : (s.modFn n f).tick = s.tick := rfl
@[simp] theorem State.modFn_mem (n : Nat) (f : Fn → Fn) : (s.modFn n f).mem = s.mem := rfl
@[simp] theorem State.modFn_hostMem (n : Nat) (f : Fn → Fn) : (s.modFn n f).hostMem = s.hostMem := rfl
@[simp] theorem State.modFn_bad (n : Nat) (f : Fn → Fn) : (s.modFn n f).bad = s.bad := rfl
@[simp] theorem State.modFn_cores (n : Nat) (f : Fn → Fn) : (s.modFn n f).cores = s.cores := rfl
@[simp] theorem State.modFn_clusters (n : Nat) (f : Fn → Fn) : (s.modFn n f).clusters = s.clusters := rfl
@[simp] theorem State.modFn_sys (n : Nat) (f : Fn → Fn) : (s.modFn n f).sys = s.sys := rfl
@[simp] theorem State.modFn_repair (n : Nat) (f : Fn → Fn) : (s.modFn n f).repair = s.repair := rfl
@[simp] theorem State.modFn_boot (n : Nat) (f : Fn → Fn) : (s.modFn n f).boot = s.boot := rfl
@[simp] theorem State.modFn_power (n : Nat) (f : Fn → Fn) : (s.modFn n f).power = s.power := rfl
@[simp] theorem State.modFn_hbm (n : Nat) (f : Fn → Fn) : (s.modFn n f).hbm = s.hbm := rfl
@[simp] theorem State.modFn_ctxs (n : Nat) (f : Fn → Fn) : (s.modFn n f).ctxs = s.ctxs := rfl
@[simp] theorem State.modFn_ctxRegs (n : Nat) (f : Fn → Fn) : (s.modFn n f).ctxRegs = s.ctxRegs := rfl
@[simp] theorem State.modFn_thmSel (n : Nat) (f : Fn → Fn) : (s.modFn n f).thmSel = s.thmSel := rfl
@[simp] theorem State.modFn_trh (n : Nat) (f : Fn → Fn) : (s.modFn n f).trh = s.trh := rfl
@[simp] theorem State.modFn_wmk (n : Nat) (f : Fn → Fn) : (s.modFn n f).wmk = s.wmk := rfl
@[simp] theorem State.modFn_evl (n : Nat) (f : Fn → Fn) : (s.modFn n f).evl = s.evl := rfl
@[simp] theorem State.modFn_nxp (n : Nat) (f : Fn → Fn) : (s.modFn n f).nxp = s.nxp := rfl
@[simp] theorem State.modFn_ing0 (n : Nat) (f : Fn → Fn) : (s.modFn n f).ing0 = s.ing0 := rfl
@[simp] theorem State.modFn_ing1 (n : Nat) (f : Fn → Fn) : (s.modFn n f).ing1 = s.ing1 := rfl
@[simp] theorem State.modFn_rcl (n : Nat) (f : Fn → Fn) : (s.modFn n f).rcl = s.rcl := rfl
@[simp] theorem State.modFn_mtr (n : Nat) (f : Fn → Fn) : (s.modFn n f).mtr = s.mtr := rfl
@[simp] theorem State.modFn_lnt (n : Nat) (f : Fn → Fn) : (s.modFn n f).lnt = s.lnt := rfl
@[simp] theorem State.modFn_out (n : Nat) (f : Fn → Fn) : (s.modFn n f).out = s.out := rfl

@[simp] theorem State.modPort_pending (p : Nat) (f : Port → Port) : (s.modPort p f).pending = s.pending := rfl
@[simp] theorem State.modPort_tick (p : Nat) (f : Port → Port) : (s.modPort p f).tick = s.tick := rfl
@[simp] theorem State.modPort_mem (p : Nat) (f : Port → Port) : (s.modPort p f).mem = s.mem := rfl
@[simp] theorem State.modPort_hostMem (p : Nat) (f : Port → Port) : (s.modPort p f).hostMem = s.hostMem := rfl
@[simp] theorem State.modPort_bad (p : Nat) (f : Port → Port) : (s.modPort p f).bad = s.bad := rfl
@[simp] theorem State.modPort_cores (p : Nat) (f : Port → Port) : (s.modPort p f).cores = s.cores := rfl
@[simp] theorem State.modPort_clusters (p : Nat) (f : Port → Port) : (s.modPort p f).clusters = s.clusters := rfl
@[simp] theorem State.modPort_sys (p : Nat) (f : Port → Port) : (s.modPort p f).sys = s.sys := rfl
@[simp] theorem State.modPort_repair (p : Nat) (f : Port → Port) : (s.modPort p f).repair = s.repair := rfl
@[simp] theorem State.modPort_boot (p : Nat) (f : Port → Port) : (s.modPort p f).boot = s.boot := rfl
@[simp] theorem State.modPort_power (p : Nat) (f : Port → Port) : (s.modPort p f).power = s.power := rfl
@[simp] theorem State.modPort_hbm (p : Nat) (f : Port → Port) : (s.modPort p f).hbm = s.hbm := rfl
@[simp] theorem State.modPort_ctxs (p : Nat) (f : Port → Port) : (s.modPort p f).ctxs = s.ctxs := rfl
@[simp] theorem State.modPort_ctxRegs (p : Nat) (f : Port → Port) : (s.modPort p f).ctxRegs = s.ctxRegs := rfl
@[simp] theorem State.modPort_thmSel (p : Nat) (f : Port → Port) : (s.modPort p f).thmSel = s.thmSel := rfl
@[simp] theorem State.modPort_trh (p : Nat) (f : Port → Port) : (s.modPort p f).trh = s.trh := rfl
@[simp] theorem State.modPort_wmk (p : Nat) (f : Port → Port) : (s.modPort p f).wmk = s.wmk := rfl
@[simp] theorem State.modPort_evl (p : Nat) (f : Port → Port) : (s.modPort p f).evl = s.evl := rfl
@[simp] theorem State.modPort_pci (p : Nat) (f : Port → Port) : (s.modPort p f).pci = s.pci := rfl
@[simp] theorem State.modPort_ing0 (p : Nat) (f : Port → Port) : (s.modPort p f).ing0 = s.ing0 := rfl
@[simp] theorem State.modPort_ing1 (p : Nat) (f : Port → Port) : (s.modPort p f).ing1 = s.ing1 := rfl
@[simp] theorem State.modPort_rcl (p : Nat) (f : Port → Port) : (s.modPort p f).rcl = s.rcl := rfl
@[simp] theorem State.modPort_mtr (p : Nat) (f : Port → Port) : (s.modPort p f).mtr = s.mtr := rfl
@[simp] theorem State.modPort_lnt (p : Nat) (f : Port → Port) : (s.modPort p f).lnt = s.lnt := rfl
@[simp] theorem State.modPort_out (p : Nat) (f : Port → Port) : (s.modPort p f).out = s.out := rfl

@[simp] theorem State.modEngine_pending (e : Nat) (f : Engine → Engine) : (s.modEngine e f).pending = s.pending := by
  unfold State.modEngine; split <;> rfl
@[simp] theorem State.modEngine_tick (e : Nat) (f : Engine → Engine) : (s.modEngine e f).tick = s.tick := by
  unfold State.modEngine; split <;> rfl
@[simp] theorem State.modEngine_mem (e : Nat) (f : Engine → Engine) : (s.modEngine e f).mem = s.mem := by
  unfold State.modEngine; split <;> rfl
@[simp] theorem State.modEngine_hostMem (e : Nat) (f : Engine → Engine) : (s.modEngine e f).hostMem = s.hostMem := by
  unfold State.modEngine; split <;> rfl
@[simp] theorem State.modEngine_bad (e : Nat) (f : Engine → Engine) : (s.modEngine e f).bad = s.bad := by
  unfold State.modEngine; split <;> rfl
@[simp] theorem State.modEngine_cores (e : Nat) (f : Engine → Engine) : (s.modEngine e f).cores = s.cores := by
  unfold State.modEngine; split <;> rfl
@[simp] theorem State.modEngine_clusters (e : Nat) (f : Engine → Engine) : (s.modEngine e f).clusters = s.clusters := by
  unfold State.modEngine; split <;> rfl
@[simp] theorem State.modEngine_sys (e : Nat) (f : Engine → Engine) : (s.modEngine e f).sys = s.sys := by
  unfold State.modEngine; split <;> rfl
@[simp] theorem State.modEngine_repair (e : Nat) (f : Engine → Engine) : (s.modEngine e f).repair = s.repair := by
  unfold State.modEngine; split <;> rfl
@[simp] theorem State.modEngine_boot (e : Nat) (f : Engine → Engine) : (s.modEngine e f).boot = s.boot := by
  unfold State.modEngine; split <;> rfl
@[simp] theorem State.modEngine_power (e : Nat) (f : Engine → Engine) : (s.modEngine e f).power = s.power := by
  unfold State.modEngine; split <;> rfl
@[simp] theorem State.modEngine_hbm (e : Nat) (f : Engine → Engine) : (s.modEngine e f).hbm = s.hbm := by
  unfold State.modEngine; split <;> rfl
@[simp] theorem State.modEngine_ctxs (e : Nat) (f : Engine → Engine) : (s.modEngine e f).ctxs = s.ctxs := by
  unfold State.modEngine; split <;> rfl
@[simp] theorem State.modEngine_ctxRegs (e : Nat) (f : Engine → Engine) : (s.modEngine e f).ctxRegs = s.ctxRegs := by
  unfold State.modEngine; split <;> rfl
@[simp] theorem State.modEngine_thmSel (e : Nat) (f : Engine → Engine) : (s.modEngine e f).thmSel = s.thmSel := by
  unfold State.modEngine; split <;> rfl
@[simp] theorem State.modEngine_trh (e : Nat) (f : Engine → Engine) : (s.modEngine e f).trh = s.trh := by
  unfold State.modEngine; split <;> rfl
@[simp] theorem State.modEngine_wmk (e : Nat) (f : Engine → Engine) : (s.modEngine e f).wmk = s.wmk := by
  unfold State.modEngine; split <;> rfl
@[simp] theorem State.modEngine_evl (e : Nat) (f : Engine → Engine) : (s.modEngine e f).evl = s.evl := by
  unfold State.modEngine; split <;> rfl
@[simp] theorem State.modEngine_pci (e : Nat) (f : Engine → Engine) : (s.modEngine e f).pci = s.pci := by
  unfold State.modEngine; split <;> rfl
@[simp] theorem State.modEngine_nxp (e : Nat) (f : Engine → Engine) : (s.modEngine e f).nxp = s.nxp := by
  unfold State.modEngine; split <;> rfl
@[simp] theorem State.modEngine_rcl (e : Nat) (f : Engine → Engine) : (s.modEngine e f).rcl = s.rcl := by
  unfold State.modEngine; split <;> rfl
@[simp] theorem State.modEngine_mtr (e : Nat) (f : Engine → Engine) : (s.modEngine e f).mtr = s.mtr := by
  unfold State.modEngine; split <;> rfl
@[simp] theorem State.modEngine_lnt (e : Nat) (f : Engine → Engine) : (s.modEngine e f).lnt = s.lnt := by
  unfold State.modEngine; split <;> rfl
@[simp] theorem State.modEngine_out (e : Nat) (f : Engine → Engine) : (s.modEngine e f).out = s.out := by
  unfold State.modEngine; split <;> rfl

@[simp] theorem State.emit_pending (e : Emit) : (s.emit e).pending = s.pending := rfl
@[simp] theorem State.emit_tick (e : Emit) : (s.emit e).tick = s.tick := rfl
@[simp] theorem State.emit_mem (e : Emit) : (s.emit e).mem = s.mem := rfl
@[simp] theorem State.emit_hostMem (e : Emit) : (s.emit e).hostMem = s.hostMem := rfl
@[simp] theorem State.emit_bad (e : Emit) : (s.emit e).bad = s.bad := rfl
@[simp] theorem State.emit_cores (e : Emit) : (s.emit e).cores = s.cores := rfl
@[simp] theorem State.emit_clusters (e : Emit) : (s.emit e).clusters = s.clusters := rfl
@[simp] theorem State.emit_sys (e : Emit) : (s.emit e).sys = s.sys := rfl
@[simp] theorem State.emit_repair (e : Emit) : (s.emit e).repair = s.repair := rfl
@[simp] theorem State.emit_boot (e : Emit) : (s.emit e).boot = s.boot := rfl
@[simp] theorem State.emit_power (e : Emit) : (s.emit e).power = s.power := rfl
@[simp] theorem State.emit_hbm (e : Emit) : (s.emit e).hbm = s.hbm := rfl
@[simp] theorem State.emit_ctxs (e : Emit) : (s.emit e).ctxs = s.ctxs := rfl
@[simp] theorem State.emit_ctxRegs (e : Emit) : (s.emit e).ctxRegs = s.ctxRegs := rfl
@[simp] theorem State.emit_thmSel (e : Emit) : (s.emit e).thmSel = s.thmSel := rfl
@[simp] theorem State.emit_trh (e : Emit) : (s.emit e).trh = s.trh := rfl
@[simp] theorem State.emit_wmk (e : Emit) : (s.emit e).wmk = s.wmk := rfl
@[simp] theorem State.emit_evl (e : Emit) : (s.emit e).evl = s.evl := rfl
@[simp] theorem State.emit_pci (e : Emit) : (s.emit e).pci = s.pci := rfl
@[simp] theorem State.emit_nxp (e : Emit) : (s.emit e).nxp = s.nxp := rfl
@[simp] theorem State.emit_ing0 (e : Emit) : (s.emit e).ing0 = s.ing0 := rfl
@[simp] theorem State.emit_ing1 (e : Emit) : (s.emit e).ing1 = s.ing1 := rfl
@[simp] theorem State.emit_rcl (e : Emit) : (s.emit e).rcl = s.rcl := rfl
@[simp] theorem State.emit_mtr (e : Emit) : (s.emit e).mtr = s.mtr := rfl
@[simp] theorem State.emit_lnt (e : Emit) : (s.emit e).lnt = s.lnt := rfl

@[simp] theorem State.advance_pending : (s.advance).pending = s.pending := rfl
@[simp] theorem State.advance_mem : (s.advance).mem = s.mem := rfl
@[simp] theorem State.advance_hostMem : (s.advance).hostMem = s.hostMem := rfl
@[simp] theorem State.advance_bad : (s.advance).bad = s.bad := rfl
@[simp] theorem State.advance_cores : (s.advance).cores = s.cores := rfl
@[simp] theorem State.advance_clusters : (s.advance).clusters = s.clusters := rfl
@[simp] theorem State.advance_sys : (s.advance).sys = s.sys := rfl
@[simp] theorem State.advance_repair : (s.advance).repair = s.repair := rfl
@[simp] theorem State.advance_boot : (s.advance).boot = s.boot := rfl
@[simp] theorem State.advance_power : (s.advance).power = s.power := rfl
@[simp] theorem State.advance_hbm : (s.advance).hbm = s.hbm := rfl
@[simp] theorem State.advance_ctxs : (s.advance).ctxs = s.ctxs := rfl
@[simp] theorem State.advance_ctxRegs : (s.advance).ctxRegs = s.ctxRegs := rfl
@[simp] theorem State.advance_thmSel : (s.advance).thmSel = s.thmSel := rfl
@[simp] theorem State.advance_trh : (s.advance).trh = s.trh := rfl
@[simp] theorem State.advance_wmk : (s.advance).wmk = s.wmk := rfl
@[simp] theorem State.advance_evl : (s.advance).evl = s.evl := rfl
@[simp] theorem State.advance_pci : (s.advance).pci = s.pci := rfl
@[simp] theorem State.advance_nxp : (s.advance).nxp = s.nxp := rfl
@[simp] theorem State.advance_ing0 : (s.advance).ing0 = s.ing0 := rfl
@[simp] theorem State.advance_ing1 : (s.advance).ing1 = s.ing1 := rfl
@[simp] theorem State.advance_rcl : (s.advance).rcl = s.rcl := rfl
@[simp] theorem State.advance_mtr : (s.advance).mtr = s.mtr := rfl
@[simp] theorem State.advance_lnt : (s.advance).lnt = s.lnt := rfl
@[simp] theorem State.advance_out : (s.advance).out = s.out := rfl

@[simp] theorem State.modWmk_pending (f : Waymarks → Waymarks) : (s.modWmk f).pending = s.pending := rfl
@[simp] theorem State.modWmk_tick (f : Waymarks → Waymarks) : (s.modWmk f).tick = s.tick := rfl
@[simp] theorem State.modWmk_mem (f : Waymarks → Waymarks) : (s.modWmk f).mem = s.mem := rfl
@[simp] theorem State.modWmk_hostMem (f : Waymarks → Waymarks) : (s.modWmk f).hostMem = s.hostMem := rfl
@[simp] theorem State.modWmk_bad (f : Waymarks → Waymarks) : (s.modWmk f).bad = s.bad := rfl
@[simp] theorem State.modWmk_cores (f : Waymarks → Waymarks) : (s.modWmk f).cores = s.cores := rfl
@[simp] theorem State.modWmk_clusters (f : Waymarks → Waymarks) : (s.modWmk f).clusters = s.clusters := rfl
@[simp] theorem State.modWmk_sys (f : Waymarks → Waymarks) : (s.modWmk f).sys = s.sys := rfl
@[simp] theorem State.modWmk_repair (f : Waymarks → Waymarks) : (s.modWmk f).repair = s.repair := rfl
@[simp] theorem State.modWmk_boot (f : Waymarks → Waymarks) : (s.modWmk f).boot = s.boot := rfl
@[simp] theorem State.modWmk_power (f : Waymarks → Waymarks) : (s.modWmk f).power = s.power := rfl
@[simp] theorem State.modWmk_hbm (f : Waymarks → Waymarks) : (s.modWmk f).hbm = s.hbm := rfl
@[simp] theorem State.modWmk_ctxs (f : Waymarks → Waymarks) : (s.modWmk f).ctxs = s.ctxs := rfl
@[simp] theorem State.modWmk_ctxRegs (f : Waymarks → Waymarks) : (s.modWmk f).ctxRegs = s.ctxRegs := rfl
@[simp] theorem State.modWmk_thmSel (f : Waymarks → Waymarks) : (s.modWmk f).thmSel = s.thmSel := rfl
@[simp] theorem State.modWmk_trh (f : Waymarks → Waymarks) : (s.modWmk f).trh = s.trh := rfl
@[simp] theorem State.modWmk_evl (f : Waymarks → Waymarks) : (s.modWmk f).evl = s.evl := rfl
@[simp] theorem State.modWmk_pci (f : Waymarks → Waymarks) : (s.modWmk f).pci = s.pci := rfl
@[simp] theorem State.modWmk_nxp (f : Waymarks → Waymarks) : (s.modWmk f).nxp = s.nxp := rfl
@[simp] theorem State.modWmk_ing0 (f : Waymarks → Waymarks) : (s.modWmk f).ing0 = s.ing0 := rfl
@[simp] theorem State.modWmk_ing1 (f : Waymarks → Waymarks) : (s.modWmk f).ing1 = s.ing1 := rfl
@[simp] theorem State.modWmk_rcl (f : Waymarks → Waymarks) : (s.modWmk f).rcl = s.rcl := rfl
@[simp] theorem State.modWmk_mtr (f : Waymarks → Waymarks) : (s.modWmk f).mtr = s.mtr := rfl
@[simp] theorem State.modWmk_lnt (f : Waymarks → Waymarks) : (s.modWmk f).lnt = s.lnt := rfl
@[simp] theorem State.modWmk_out (f : Waymarks → Waymarks) : (s.modWmk f).out = s.out := rfl

@[simp] theorem State.modPower_pending (f : Power → Power) : (s.modPower f).pending = s.pending := rfl
@[simp] theorem State.modPower_tick (f : Power → Power) : (s.modPower f).tick = s.tick := rfl
@[simp] theorem State.modPower_mem (f : Power → Power) : (s.modPower f).mem = s.mem := rfl
@[simp] theorem State.modPower_hostMem (f : Power → Power) : (s.modPower f).hostMem = s.hostMem := rfl
@[simp] theorem State.modPower_bad (f : Power → Power) : (s.modPower f).bad = s.bad := rfl
@[simp] theorem State.modPower_cores (f : Power → Power) : (s.modPower f).cores = s.cores := rfl
@[simp] theorem State.modPower_clusters (f : Power → Power) : (s.modPower f).clusters = s.clusters := rfl
@[simp] theorem State.modPower_sys (f : Power → Power) : (s.modPower f).sys = s.sys := rfl
@[simp] theorem State.modPower_repair (f : Power → Power) : (s.modPower f).repair = s.repair := rfl
@[simp] theorem State.modPower_boot (f : Power → Power) : (s.modPower f).boot = s.boot := rfl
@[simp] theorem State.modPower_hbm (f : Power → Power) : (s.modPower f).hbm = s.hbm := rfl
@[simp] theorem State.modPower_ctxs (f : Power → Power) : (s.modPower f).ctxs = s.ctxs := rfl
@[simp] theorem State.modPower_ctxRegs (f : Power → Power) : (s.modPower f).ctxRegs = s.ctxRegs := rfl
@[simp] theorem State.modPower_thmSel (f : Power → Power) : (s.modPower f).thmSel = s.thmSel := rfl
@[simp] theorem State.modPower_trh (f : Power → Power) : (s.modPower f).trh = s.trh := rfl
@[simp] theorem State.modPower_wmk (f : Power → Power) : (s.modPower f).wmk = s.wmk := rfl
@[simp] theorem State.modPower_evl (f : Power → Power) : (s.modPower f).evl = s.evl := rfl
@[simp] theorem State.modPower_pci (f : Power → Power) : (s.modPower f).pci = s.pci := rfl
@[simp] theorem State.modPower_nxp (f : Power → Power) : (s.modPower f).nxp = s.nxp := rfl
@[simp] theorem State.modPower_ing0 (f : Power → Power) : (s.modPower f).ing0 = s.ing0 := rfl
@[simp] theorem State.modPower_ing1 (f : Power → Power) : (s.modPower f).ing1 = s.ing1 := rfl
@[simp] theorem State.modPower_rcl (f : Power → Power) : (s.modPower f).rcl = s.rcl := rfl
@[simp] theorem State.modPower_mtr (f : Power → Power) : (s.modPower f).mtr = s.mtr := rfl
@[simp] theorem State.modPower_lnt (f : Power → Power) : (s.modPower f).lnt = s.lnt := rfl
@[simp] theorem State.modPower_out (f : Power → Power) : (s.modPower f).out = s.out := rfl

@[simp] theorem State.modLink_pending (l : Nat) (f : PLink → PLink) : (s.modLink l f).pending = s.pending := rfl
@[simp] theorem State.modLink_tick (l : Nat) (f : PLink → PLink) : (s.modLink l f).tick = s.tick := rfl
@[simp] theorem State.modLink_mem (l : Nat) (f : PLink → PLink) : (s.modLink l f).mem = s.mem := rfl
@[simp] theorem State.modLink_hostMem (l : Nat) (f : PLink → PLink) : (s.modLink l f).hostMem = s.hostMem := rfl
@[simp] theorem State.modLink_bad (l : Nat) (f : PLink → PLink) : (s.modLink l f).bad = s.bad := rfl
@[simp] theorem State.modLink_cores (l : Nat) (f : PLink → PLink) : (s.modLink l f).cores = s.cores := rfl
@[simp] theorem State.modLink_clusters (l : Nat) (f : PLink → PLink) : (s.modLink l f).clusters = s.clusters := rfl
@[simp] theorem State.modLink_repair (l : Nat) (f : PLink → PLink) : (s.modLink l f).repair = s.repair := rfl
@[simp] theorem State.modLink_boot (l : Nat) (f : PLink → PLink) : (s.modLink l f).boot = s.boot := rfl
@[simp] theorem State.modLink_power (l : Nat) (f : PLink → PLink) : (s.modLink l f).power = s.power := rfl
@[simp] theorem State.modLink_hbm (l : Nat) (f : PLink → PLink) : (s.modLink l f).hbm = s.hbm := rfl
@[simp] theorem State.modLink_ctxs (l : Nat) (f : PLink → PLink) : (s.modLink l f).ctxs = s.ctxs := rfl
@[simp] theorem State.modLink_ctxRegs (l : Nat) (f : PLink → PLink) : (s.modLink l f).ctxRegs = s.ctxRegs := rfl
@[simp] theorem State.modLink_thmSel (l : Nat) (f : PLink → PLink) : (s.modLink l f).thmSel = s.thmSel := rfl
@[simp] theorem State.modLink_trh (l : Nat) (f : PLink → PLink) : (s.modLink l f).trh = s.trh := rfl
@[simp] theorem State.modLink_wmk (l : Nat) (f : PLink → PLink) : (s.modLink l f).wmk = s.wmk := rfl
@[simp] theorem State.modLink_evl (l : Nat) (f : PLink → PLink) : (s.modLink l f).evl = s.evl := rfl
@[simp] theorem State.modLink_pci (l : Nat) (f : PLink → PLink) : (s.modLink l f).pci = s.pci := rfl
@[simp] theorem State.modLink_nxp (l : Nat) (f : PLink → PLink) : (s.modLink l f).nxp = s.nxp := rfl
@[simp] theorem State.modLink_ing0 (l : Nat) (f : PLink → PLink) : (s.modLink l f).ing0 = s.ing0 := rfl
@[simp] theorem State.modLink_ing1 (l : Nat) (f : PLink → PLink) : (s.modLink l f).ing1 = s.ing1 := rfl
@[simp] theorem State.modLink_rcl (l : Nat) (f : PLink → PLink) : (s.modLink l f).rcl = s.rcl := rfl
@[simp] theorem State.modLink_mtr (l : Nat) (f : PLink → PLink) : (s.modLink l f).mtr = s.mtr := rfl
@[simp] theorem State.modLink_lnt (l : Nat) (f : PLink → PLink) : (s.modLink l f).lnt = s.lnt := rfl
@[simp] theorem State.modLink_out (l : Nat) (f : PLink → PLink) : (s.modLink l f).out = s.out := rfl

@[simp] theorem State.modCq_pending (n q : Nat) (f : CQueue → CQueue) : (s.modCq n q f).pending = s.pending := rfl
@[simp] theorem State.modCq_tick (n q : Nat) (f : CQueue → CQueue) : (s.modCq n q f).tick = s.tick := rfl
@[simp] theorem State.modCq_mem (n q : Nat) (f : CQueue → CQueue) : (s.modCq n q f).mem = s.mem := rfl
@[simp] theorem State.modCq_hostMem (n q : Nat) (f : CQueue → CQueue) : (s.modCq n q f).hostMem = s.hostMem := rfl
@[simp] theorem State.modCq_bad (n q : Nat) (f : CQueue → CQueue) : (s.modCq n q f).bad = s.bad := rfl
@[simp] theorem State.modCq_cores (n q : Nat) (f : CQueue → CQueue) : (s.modCq n q f).cores = s.cores := rfl
@[simp] theorem State.modCq_clusters (n q : Nat) (f : CQueue → CQueue) : (s.modCq n q f).clusters = s.clusters := rfl
@[simp] theorem State.modCq_sys (n q : Nat) (f : CQueue → CQueue) : (s.modCq n q f).sys = s.sys := rfl
@[simp] theorem State.modCq_repair (n q : Nat) (f : CQueue → CQueue) : (s.modCq n q f).repair = s.repair := rfl
@[simp] theorem State.modCq_boot (n q : Nat) (f : CQueue → CQueue) : (s.modCq n q f).boot = s.boot := rfl
@[simp] theorem State.modCq_power (n q : Nat) (f : CQueue → CQueue) : (s.modCq n q f).power = s.power := rfl
@[simp] theorem State.modCq_hbm (n q : Nat) (f : CQueue → CQueue) : (s.modCq n q f).hbm = s.hbm := rfl
@[simp] theorem State.modCq_ctxs (n q : Nat) (f : CQueue → CQueue) : (s.modCq n q f).ctxs = s.ctxs := rfl
@[simp] theorem State.modCq_ctxRegs (n q : Nat) (f : CQueue → CQueue) : (s.modCq n q f).ctxRegs = s.ctxRegs := rfl
@[simp] theorem State.modCq_thmSel (n q : Nat) (f : CQueue → CQueue) : (s.modCq n q f).thmSel = s.thmSel := rfl
@[simp] theorem State.modCq_trh (n q : Nat) (f : CQueue → CQueue) : (s.modCq n q f).trh = s.trh := rfl
@[simp] theorem State.modCq_wmk (n q : Nat) (f : CQueue → CQueue) : (s.modCq n q f).wmk = s.wmk := rfl
@[simp] theorem State.modCq_evl (n q : Nat) (f : CQueue → CQueue) : (s.modCq n q f).evl = s.evl := rfl
@[simp] theorem State.modCq_nxp (n q : Nat) (f : CQueue → CQueue) : (s.modCq n q f).nxp = s.nxp := rfl
@[simp] theorem State.modCq_ing0 (n q : Nat) (f : CQueue → CQueue) : (s.modCq n q f).ing0 = s.ing0 := rfl
@[simp] theorem State.modCq_ing1 (n q : Nat) (f : CQueue → CQueue) : (s.modCq n q f).ing1 = s.ing1 := rfl
@[simp] theorem State.modCq_rcl (n q : Nat) (f : CQueue → CQueue) : (s.modCq n q f).rcl = s.rcl := rfl
@[simp] theorem State.modCq_mtr (n q : Nat) (f : CQueue → CQueue) : (s.modCq n q f).mtr = s.mtr := rfl
@[simp] theorem State.modCq_lnt (n q : Nat) (f : CQueue → CQueue) : (s.modCq n q f).lnt = s.lnt := rfl
@[simp] theorem State.modCq_out (n q : Nat) (f : CQueue → CQueue) : (s.modCq n q f).out = s.out := rfl

@[simp] theorem State.modCr_pending (n r : Nat) (f : CRing → CRing) : (s.modCr n r f).pending = s.pending := rfl
@[simp] theorem State.modCr_tick (n r : Nat) (f : CRing → CRing) : (s.modCr n r f).tick = s.tick := rfl
@[simp] theorem State.modCr_mem (n r : Nat) (f : CRing → CRing) : (s.modCr n r f).mem = s.mem := rfl
@[simp] theorem State.modCr_hostMem (n r : Nat) (f : CRing → CRing) : (s.modCr n r f).hostMem = s.hostMem := rfl
@[simp] theorem State.modCr_bad (n r : Nat) (f : CRing → CRing) : (s.modCr n r f).bad = s.bad := rfl
@[simp] theorem State.modCr_cores (n r : Nat) (f : CRing → CRing) : (s.modCr n r f).cores = s.cores := rfl
@[simp] theorem State.modCr_clusters (n r : Nat) (f : CRing → CRing) : (s.modCr n r f).clusters = s.clusters := rfl
@[simp] theorem State.modCr_sys (n r : Nat) (f : CRing → CRing) : (s.modCr n r f).sys = s.sys := rfl
@[simp] theorem State.modCr_repair (n r : Nat) (f : CRing → CRing) : (s.modCr n r f).repair = s.repair := rfl
@[simp] theorem State.modCr_boot (n r : Nat) (f : CRing → CRing) : (s.modCr n r f).boot = s.boot := rfl
@[simp] theorem State.modCr_power (n r : Nat) (f : CRing → CRing) : (s.modCr n r f).power = s.power := rfl
@[simp] theorem State.modCr_hbm (n r : Nat) (f : CRing → CRing) : (s.modCr n r f).hbm = s.hbm := rfl
@[simp] theorem State.modCr_ctxs (n r : Nat) (f : CRing → CRing) : (s.modCr n r f).ctxs = s.ctxs := rfl
@[simp] theorem State.modCr_ctxRegs (n r : Nat) (f : CRing → CRing) : (s.modCr n r f).ctxRegs = s.ctxRegs := rfl
@[simp] theorem State.modCr_thmSel (n r : Nat) (f : CRing → CRing) : (s.modCr n r f).thmSel = s.thmSel := rfl
@[simp] theorem State.modCr_trh (n r : Nat) (f : CRing → CRing) : (s.modCr n r f).trh = s.trh := rfl
@[simp] theorem State.modCr_wmk (n r : Nat) (f : CRing → CRing) : (s.modCr n r f).wmk = s.wmk := rfl
@[simp] theorem State.modCr_evl (n r : Nat) (f : CRing → CRing) : (s.modCr n r f).evl = s.evl := rfl
@[simp] theorem State.modCr_nxp (n r : Nat) (f : CRing → CRing) : (s.modCr n r f).nxp = s.nxp := rfl
@[simp] theorem State.modCr_ing0 (n r : Nat) (f : CRing → CRing) : (s.modCr n r f).ing0 = s.ing0 := rfl
@[simp] theorem State.modCr_ing1 (n r : Nat) (f : CRing → CRing) : (s.modCr n r f).ing1 = s.ing1 := rfl
@[simp] theorem State.modCr_rcl (n r : Nat) (f : CRing → CRing) : (s.modCr n r f).rcl = s.rcl := rfl
@[simp] theorem State.modCr_mtr (n r : Nat) (f : CRing → CRing) : (s.modCr n r f).mtr = s.mtr := rfl
@[simp] theorem State.modCr_lnt (n r : Nat) (f : CRing → CRing) : (s.modCr n r f).lnt = s.lnt := rfl
@[simp] theorem State.modCr_out (n r : Nat) (f : CRing → CRing) : (s.modCr n r f).out = s.out := rfl

@[simp] theorem State.put_pending (pa : Nat) (bs : List Byte) : (s.put pa bs).pending = s.pending := rfl
@[simp] theorem State.put_tick (pa : Nat) (bs : List Byte) : (s.put pa bs).tick = s.tick := rfl
@[simp] theorem State.put_hostMem (pa : Nat) (bs : List Byte) : (s.put pa bs).hostMem = s.hostMem := rfl
@[simp] theorem State.put_cores (pa : Nat) (bs : List Byte) : (s.put pa bs).cores = s.cores := rfl
@[simp] theorem State.put_sys (pa : Nat) (bs : List Byte) : (s.put pa bs).sys = s.sys := rfl
@[simp] theorem State.put_repair (pa : Nat) (bs : List Byte) : (s.put pa bs).repair = s.repair := rfl
@[simp] theorem State.put_boot (pa : Nat) (bs : List Byte) : (s.put pa bs).boot = s.boot := rfl
@[simp] theorem State.put_power (pa : Nat) (bs : List Byte) : (s.put pa bs).power = s.power := rfl
@[simp] theorem State.put_hbm (pa : Nat) (bs : List Byte) : (s.put pa bs).hbm = s.hbm := rfl
@[simp] theorem State.put_ctxs (pa : Nat) (bs : List Byte) : (s.put pa bs).ctxs = s.ctxs := rfl
@[simp] theorem State.put_ctxRegs (pa : Nat) (bs : List Byte) : (s.put pa bs).ctxRegs = s.ctxRegs := rfl
@[simp] theorem State.put_thmSel (pa : Nat) (bs : List Byte) : (s.put pa bs).thmSel = s.thmSel := rfl
@[simp] theorem State.put_trh (pa : Nat) (bs : List Byte) : (s.put pa bs).trh = s.trh := rfl
@[simp] theorem State.put_wmk (pa : Nat) (bs : List Byte) : (s.put pa bs).wmk = s.wmk := rfl
@[simp] theorem State.put_evl (pa : Nat) (bs : List Byte) : (s.put pa bs).evl = s.evl := rfl
@[simp] theorem State.put_pci (pa : Nat) (bs : List Byte) : (s.put pa bs).pci = s.pci := rfl
@[simp] theorem State.put_nxp (pa : Nat) (bs : List Byte) : (s.put pa bs).nxp = s.nxp := rfl
@[simp] theorem State.put_ing0 (pa : Nat) (bs : List Byte) : (s.put pa bs).ing0 = s.ing0 := rfl
@[simp] theorem State.put_ing1 (pa : Nat) (bs : List Byte) : (s.put pa bs).ing1 = s.ing1 := rfl
@[simp] theorem State.put_rcl (pa : Nat) (bs : List Byte) : (s.put pa bs).rcl = s.rcl := rfl
@[simp] theorem State.put_mtr (pa : Nat) (bs : List Byte) : (s.put pa bs).mtr = s.mtr := rfl
@[simp] theorem State.put_lnt (pa : Nat) (bs : List Byte) : (s.put pa bs).lnt = s.lnt := rfl
@[simp] theorem State.put_out (pa : Nat) (bs : List Byte) : (s.put pa bs).out = s.out := rfl

@[simp] theorem State.extend_pending (r : Nat) (d : BitVec 512) : (s.extend r d).pending = s.pending := rfl
@[simp] theorem State.extend_tick (r : Nat) (d : BitVec 512) : (s.extend r d).tick = s.tick := rfl
@[simp] theorem State.extend_mem (r : Nat) (d : BitVec 512) : (s.extend r d).mem = s.mem := rfl
@[simp] theorem State.extend_hostMem (r : Nat) (d : BitVec 512) : (s.extend r d).hostMem = s.hostMem := rfl
@[simp] theorem State.extend_bad (r : Nat) (d : BitVec 512) : (s.extend r d).bad = s.bad := rfl
@[simp] theorem State.extend_cores (r : Nat) (d : BitVec 512) : (s.extend r d).cores = s.cores := rfl
@[simp] theorem State.extend_clusters (r : Nat) (d : BitVec 512) : (s.extend r d).clusters = s.clusters := rfl
@[simp] theorem State.extend_sys (r : Nat) (d : BitVec 512) : (s.extend r d).sys = s.sys := rfl
@[simp] theorem State.extend_repair (r : Nat) (d : BitVec 512) : (s.extend r d).repair = s.repair := rfl
@[simp] theorem State.extend_power (r : Nat) (d : BitVec 512) : (s.extend r d).power = s.power := rfl
@[simp] theorem State.extend_hbm (r : Nat) (d : BitVec 512) : (s.extend r d).hbm = s.hbm := rfl
@[simp] theorem State.extend_ctxs (r : Nat) (d : BitVec 512) : (s.extend r d).ctxs = s.ctxs := rfl
@[simp] theorem State.extend_ctxRegs (r : Nat) (d : BitVec 512) : (s.extend r d).ctxRegs = s.ctxRegs := rfl
@[simp] theorem State.extend_thmSel (r : Nat) (d : BitVec 512) : (s.extend r d).thmSel = s.thmSel := rfl
@[simp] theorem State.extend_trh (r : Nat) (d : BitVec 512) : (s.extend r d).trh = s.trh := rfl
@[simp] theorem State.extend_wmk (r : Nat) (d : BitVec 512) : (s.extend r d).wmk = s.wmk := rfl
@[simp] theorem State.extend_evl (r : Nat) (d : BitVec 512) : (s.extend r d).evl = s.evl := rfl
@[simp] theorem State.extend_pci (r : Nat) (d : BitVec 512) : (s.extend r d).pci = s.pci := rfl
@[simp] theorem State.extend_nxp (r : Nat) (d : BitVec 512) : (s.extend r d).nxp = s.nxp := rfl
@[simp] theorem State.extend_ing0 (r : Nat) (d : BitVec 512) : (s.extend r d).ing0 = s.ing0 := rfl
@[simp] theorem State.extend_ing1 (r : Nat) (d : BitVec 512) : (s.extend r d).ing1 = s.ing1 := rfl
@[simp] theorem State.extend_rcl (r : Nat) (d : BitVec 512) : (s.extend r d).rcl = s.rcl := rfl
@[simp] theorem State.extend_mtr (r : Nat) (d : BitVec 512) : (s.extend r d).mtr = s.mtr := rfl
@[simp] theorem State.extend_lnt (r : Nat) (d : BitVec 512) : (s.extend r d).lnt = s.lnt := rfl
@[simp] theorem State.extend_out (r : Nat) (d : BitVec 512) : (s.extend r d).out = s.out := rfl

@[simp] theorem State.log_pending (code kind : Nat) (x : Option Nat) (cl : Bool) (source detail : Nat) : (s.log code kind x cl source detail).pending = s.pending := rfl
@[simp] theorem State.log_tick (code kind : Nat) (x : Option Nat) (cl : Bool) (source detail : Nat) : (s.log code kind x cl source detail).tick = s.tick := rfl
@[simp] theorem State.log_mem (code kind : Nat) (x : Option Nat) (cl : Bool) (source detail : Nat) : (s.log code kind x cl source detail).mem = s.mem := rfl
@[simp] theorem State.log_hostMem (code kind : Nat) (x : Option Nat) (cl : Bool) (source detail : Nat) : (s.log code kind x cl source detail).hostMem = s.hostMem := rfl
@[simp] theorem State.log_bad (code kind : Nat) (x : Option Nat) (cl : Bool) (source detail : Nat) : (s.log code kind x cl source detail).bad = s.bad := rfl
@[simp] theorem State.log_cores (code kind : Nat) (x : Option Nat) (cl : Bool) (source detail : Nat) : (s.log code kind x cl source detail).cores = s.cores := rfl
@[simp] theorem State.log_clusters (code kind : Nat) (x : Option Nat) (cl : Bool) (source detail : Nat) : (s.log code kind x cl source detail).clusters = s.clusters := rfl
@[simp] theorem State.log_repair (code kind : Nat) (x : Option Nat) (cl : Bool) (source detail : Nat) : (s.log code kind x cl source detail).repair = s.repair := rfl
@[simp] theorem State.log_boot (code kind : Nat) (x : Option Nat) (cl : Bool) (source detail : Nat) : (s.log code kind x cl source detail).boot = s.boot := rfl
@[simp] theorem State.log_power (code kind : Nat) (x : Option Nat) (cl : Bool) (source detail : Nat) : (s.log code kind x cl source detail).power = s.power := rfl
@[simp] theorem State.log_hbm (code kind : Nat) (x : Option Nat) (cl : Bool) (source detail : Nat) : (s.log code kind x cl source detail).hbm = s.hbm := rfl
@[simp] theorem State.log_ctxs (code kind : Nat) (x : Option Nat) (cl : Bool) (source detail : Nat) : (s.log code kind x cl source detail).ctxs = s.ctxs := rfl
@[simp] theorem State.log_ctxRegs (code kind : Nat) (x : Option Nat) (cl : Bool) (source detail : Nat) : (s.log code kind x cl source detail).ctxRegs = s.ctxRegs := rfl
@[simp] theorem State.log_thmSel (code kind : Nat) (x : Option Nat) (cl : Bool) (source detail : Nat) : (s.log code kind x cl source detail).thmSel = s.thmSel := rfl
@[simp] theorem State.log_trh (code kind : Nat) (x : Option Nat) (cl : Bool) (source detail : Nat) : (s.log code kind x cl source detail).trh = s.trh := rfl
@[simp] theorem State.log_wmk (code kind : Nat) (x : Option Nat) (cl : Bool) (source detail : Nat) : (s.log code kind x cl source detail).wmk = s.wmk := rfl
@[simp] theorem State.log_evl (code kind : Nat) (x : Option Nat) (cl : Bool) (source detail : Nat) : (s.log code kind x cl source detail).evl = s.evl := rfl
@[simp] theorem State.log_pci (code kind : Nat) (x : Option Nat) (cl : Bool) (source detail : Nat) : (s.log code kind x cl source detail).pci = s.pci := rfl
@[simp] theorem State.log_nxp (code kind : Nat) (x : Option Nat) (cl : Bool) (source detail : Nat) : (s.log code kind x cl source detail).nxp = s.nxp := rfl
@[simp] theorem State.log_ing0 (code kind : Nat) (x : Option Nat) (cl : Bool) (source detail : Nat) : (s.log code kind x cl source detail).ing0 = s.ing0 := rfl
@[simp] theorem State.log_ing1 (code kind : Nat) (x : Option Nat) (cl : Bool) (source detail : Nat) : (s.log code kind x cl source detail).ing1 = s.ing1 := rfl
@[simp] theorem State.log_rcl (code kind : Nat) (x : Option Nat) (cl : Bool) (source detail : Nat) : (s.log code kind x cl source detail).rcl = s.rcl := rfl
@[simp] theorem State.log_mtr (code kind : Nat) (x : Option Nat) (cl : Bool) (source detail : Nat) : (s.log code kind x cl source detail).mtr = s.mtr := rfl
@[simp] theorem State.log_lnt (code kind : Nat) (x : Option Nat) (cl : Bool) (source detail : Nat) : (s.log code kind x cl source detail).lnt = s.lnt := rfl
@[simp] theorem State.log_out (code kind : Nat) (x : Option Nat) (cl : Bool) (source detail : Nat) : (s.log code kind x cl source detail).out = s.out := rfl

/-! ## Fields that an update changes, and what reads them -/

@[simp] theorem State.setCore_core (c : Nat) (k : Core) : (s.setCore c k).core c = k := by simp [State.core, State.setCore]
theorem State.setCore_core_other {c d : Nat} (k : Core) (h : c ≠ d) : (s.setCore c k).core d = s.core d := by
  simp [State.core, State.setCore, mget_mset_other _ _ _ h]
@[simp] theorem State.modCore_core (c : Nat) (f : Core → Core) : (s.modCore c f).core c = f (s.core c) := by simp [State.modCore]
theorem State.modCore_core_other {c d : Nat} (f : Core → Core) (h : c ≠ d) : (s.modCore c f).core d = s.core d := by
  simp [State.modCore, State.setCore_core_other s _ h]
@[simp] theorem State.modCluster_cluster (n : Nat) (f : Cluster → Cluster) : (s.modCluster n f).cluster n = f (s.cluster n) := by
  simp [State.modCluster, State.setCluster, State.cluster]
@[simp] theorem State.modCreg_creg (n : Nat) (f : CtxRegs → CtxRegs) : (s.modCreg n f).creg n = f (s.creg n) := by
  simp [State.modCreg, State.creg]
@[simp] theorem State.setCtx_ctx (n : Nat) (x : Ctx) : (s.setCtx n x).ctx n = some x := by simp [State.setCtx, State.ctx]
theorem State.setCtx_ctx_other {n j : Nat} (x : Ctx) (h : n ≠ j) : (s.setCtx n x).ctx j = s.ctx j := by
  simp [State.setCtx, State.ctx, mfind_mput, h]
theorem State.modCtx_ctx (n : Nat) (f : Ctx → Ctx) : (s.modCtx n f).ctx n = (s.ctx n).map f := by
  unfold State.modCtx
  cases h : s.ctx n <;> simp [h]
@[simp] theorem State.setGraph_graph (g : Nat) (x : Graph) : (s.setGraph g x).graph g = some x := by
  simp [State.setGraph, State.graph]
@[simp] theorem State.modFn_fnOf (n : Nat) (f : Fn → Fn) : (s.modFn n f).fnOf n = f (s.fnOf n) := by simp [State.modFn, State.fnOf]
@[simp] theorem State.modPort_port (p : Nat) (f : Port → Port) : (s.modPort p f).port p = f (s.port p) := by
  simp [State.modPort, State.port]
@[simp] theorem State.emit_out (e : Emit) : (s.emit e).out = e :: s.out := rfl
@[simp] theorem State.advance_tick : s.advance.tick = s.tick + 1 := rfl
@[simp] theorem State.modWmk_wmk (f : Waymarks → Waymarks) : (s.modWmk f).wmk = f s.wmk := rfl
@[simp] theorem State.modPower_power (f : Power → Power) : (s.modPower f).power = f s.power := rfl
@[simp] theorem State.modLink_plink (l : Nat) (f : PLink → PLink) : (s.modLink l f).plink l = f (s.plink l) := by
  simp [State.modLink, State.plink]
@[simp] theorem State.modCq_cqOf (n q : Nat) (f : CQueue → CQueue) : ((s.modCq n q f).fnOf n).cqOf q = f ((s.fnOf n).cqOf q) := by
  simp [State.modCq, Fn.cqOf]
@[simp] theorem State.modCr_crOf (n r : Nat) (f : CRing → CRing) : ((s.modCr n r f).fnOf n).crOf r = f ((s.fnOf n).crOf r) := by
  simp [State.modCr, Fn.crOf]

/-! ## Updates that follow one another -/

@[simp] theorem State.setCore_setCore (c : Nat) (j k : Core) : (s.setCore c j).setCore c k = s.setCore c k := by simp [State.setCore]
@[simp] theorem State.modCore_modCore (c : Nat) (f g : Core → Core) : (s.modCore c f).modCore c g = s.modCore c (fun k => g (f k)) := by
  simp only [State.modCore, State.setCore_core, State.setCore_setCore]
@[simp] theorem State.modCore_setCore (c : Nat) (k : Core) (f : Core → Core) : (s.setCore c k).modCore c f = s.setCore c (f k) := by
  simp [State.modCore]
@[simp] theorem State.setCore_modCore (c : Nat) (k : Core) (f : Core → Core) : (s.modCore c f).setCore c k = s.setCore c k := by
  simp [State.modCore]
@[simp] theorem State.setCtx_setCtx (n : Nat) (x y : Ctx) : (s.setCtx n x).setCtx n y = s.setCtx n y := by simp [State.setCtx]
@[simp] theorem State.setGraph_setGraph (n : Nat) (x y : Graph) : (s.setGraph n x).setGraph n y = s.setGraph n y := by
  simp [State.setGraph]
@[simp] theorem State.modWmk_modWmk (f g : Waymarks → Waymarks) : (s.modWmk f).modWmk g = s.modWmk (fun m => g (f m)) := rfl
@[simp] theorem State.modPower_modPower (f g : Power → Power) : (s.modPower f).modPower g = s.modPower (fun m => g (f m)) := rfl

/-! ## Readers that depend on one field -/

@[simp] theorem State.modCore_ctx (c : Nat) (f : Core → Core) (x : Nat) : (s.modCore c f).ctx x = s.ctx x := rfl
@[simp] theorem State.modCore_graph (c : Nat) (f : Core → Core) (g : Nat) : (s.modCore c f).graph g = s.graph g := rfl
@[simp] theorem State.modCore_taskOf (c : Nat) (f : Core → Core) (g i : Nat) : (s.modCore c f).taskOf g i = s.taskOf g i := rfl
@[simp] theorem State.modCore_cluster (c : Nat) (f : Core → Core) (n : Nat) : (s.modCore c f).cluster n = s.cluster n := rfl
@[simp] theorem State.modCore_binding (c : Nat) (f : Core → Core) (k : Nat) : (s.modCore c f).binding k = s.binding k := rfl
@[simp] theorem State.modCore_width (c d : Nat) (f : Core → Core) : (s.modCore c f).width d = s.width d := rfl

end Sys2Proof.Machine
end

