-- ==== Sys2Proof/Laws/Issue.lean ====
section
/-! SUPPORT. Issue: what a word's decoding says of its row, and what issuing an instruction does when nothing of the core is
unfinished. -/

namespace Sys2Proof.Machine

open Safety

/-- The row number of the command table that an instruction belongs to. -/
def tileRow : TileInsn → Nat
  | .nop => 0x00
  | .tcfg _ _ _ _ _ clear => if clear then 0x101 else 0x01
  | .tld .. => 0x02
  | .tst .. => 0x03
  | .twl .. => 0x04
  | .tmm .. => 0x05
  | .tmv mode .. => if mode = 0 then 0x06 else 0x106
  | .tdr .. => 0x07
  | .tzr .. => 0x08
  | .tmov .. => 0x09
  | .halo .. => 0x0A
  | .blr .. => 0x0B
  | .wait .. => 0x0C
  | .sig .. => 0x0D
  | .fence .. => 0x0E
  | .loop .. => 0x0F
  | .endl .. => 0x10
  | .mova .. => 0x11
  | .adda .. => 0x12

theorem tileFields_row {w : W64} {i : TileInsn} {hi : Nat} (h : tileFields w.toNat = some (i, hi)) :
    bits w.toNat 7 0 < 0x13 ∧ rowNo w = tileRow i := by
  unfold tileFields at h
  split at h <;> simp_all [rowNo, tileRow]
  all_goals first
    | (obtain ⟨rfl, _⟩ := h; simp_all)
    | (obtain ⟨_, rfl, _⟩ := h; simp_all)

/-- What decoding a word says of its opcode and its row. -/
theorem decodeTile_row {w : W64} {i : TileInsn} (h : decodeTile w = some i) : bits w.toNat 7 0 < 0x13 ∧ rowNo w = tileRow i := by
  unfold decodeTile at h
  split at h
  · cases h
  · rename_i j hi hf
    split at h
    · cases h; exact tileFields_row hf
    · cases h

/-- A word that a core issues next runs under its own row. -/
theorem atIssue_eq {s : State} {c row : Nat} {w : W64} {i : TileInsn} (h : Issues s c w i) (hrow : tileRow i = row)
    (f : TileInsn → State → State) : atIssue row c w s f = .next (f i s) := by
  subst hrow
  obtain ⟨hi, hd, _⟩ := h
  obtain ⟨ho, hr⟩ := decodeTile_row hd
  have : ¬ 0x13 ≤ bits w.toNat 7 0 := by omega
  simp [atIssue, hi, this, hr, hd]

@[simp] theorem passed_task (s : State) (c : Nat) (f : Live → Live) : ((passed s c f).core c).task = (s.core c).task := by
  simp [passed, Core.modLive]

theorem issued_interrupting (s : State) (c : Nat) (w : W64) (i : TileInsn) :
    (issued s c w i).interrupting c = s.interrupting c := by
  have ht : ((issued s c w i).core c).task = (s.core c).task := by
    unfold issued
    split <;> simp [passed, Core.modLive, State.modRamb]
  have hk (g j : Nat) : (issued s c w i).taskOf g j = s.taskOf g j := by
    unfold issued
    split <;> rfl
  simp only [State.interrupting, ht, hk]

theorem issued_pendings (s : State) (c : Nat) (w : W64) (i : TileInsn) :
    ((issued s c w i).core c).live.pendings = [record s c w i] := by
  unfold issued
  split <;> simp [passed, Core.modLive, State.modRamb]

theorem issues_interrupting {s : State} {c : Nat} {w : W64} (h : s.issues c w = true) : s.interrupting c = false := by
  simp [State.issues] at h; exact h.1.2

/-- Nothing holds an instruction back on a core with no unfinished one. -/
theorem room_of_none {s : State} {c : Nat} (hp : (s.core c).live.pendings = []) (i : TileInsn) : s.room c i = true := by
  cases i <;> simp [State.room, State.reachesOf, hp]

/-- What issuing an instruction to its unit does when no other of the core is unfinished: the unit runs it, and it is taken off the
unfinished ones once it is done. -/
theorem issueUnit_eq {s : State} {c : Nat} {w : W64} {i : TileInsn} (h : Issues s c w i) :
    issueUnit c w i s =
      match runInsn (issued s c w i) c i (record s c w i) with
      | .ok t _ => t.dropPending c (record s c w i)
      | .wait t => t
      | .fail t code => t.failCore c code (s.core c).live.pc w
      | .miss t va store =>
        match (t.core c).task with
        | some x => t.suspend x.ctx va store
        | none => t := by
  obtain ⟨hi, hd, hp⟩ := h
  have hroom := room_of_none hp i
  have hint : (issued s c w i).interrupting c = false := by rw [issued_interrupting, issues_interrupting hi]
  have hins : (record s c w i).insn = i := by simp [Pending.insn, record, hd]
  have hs : issueUnit c w i s = (issued s c w i).progress c := by
    simp only [issueUnit, hroom, hi, if_true, Bool.not_true, Bool.or_self, Bool.false_eq_true, if_false, issued, passed, record,
      State.stepPc, State.modCore, State.setCore_core, State.setCore_setCore, Core.modLive, hp, List.nil_append]
  rw [hs, State.progress, hint, issued_pendings]
  simp only [Bool.false_eq_true, if_false, State.runPendings, List.any_nil, hins]
  cases runInsn (issued s c w i) c i (record s c w i) <;> rfl

/-- An instruction whose unit is done with it in the step in which it issues. -/
theorem issueUnit_ok {s t : State} {c : Nat} {w : W64} {i : TileInsn} (h : Issues s c w i)
    (hr : runInsn (issued s c w i) c i (record s c w i) = .ok t ()) : issueUnit c w i s = t.dropPending c (record s c w i) := by
  rw [issueUnit_eq h, hr]

end Sys2Proof.Machine
end

