-- ==== Sys2Proof/Laws/Memory.lean ====
section
/-! SUPPORT. The model's memory: what `put` and the ranged write can do, and that every write keeps the canonical form. -/

namespace Sys2Proof.Machine

open Sys2Proof.Safety

/-! ## Bytes -/

@[simp] theorem toBytes_length (n v : Nat) : (toBytes n v).length = n := by
  induction n generalizing v with
  | zero => rfl
  | succ n ih => simp [toBytes, ih]

@[simp] theorem slice_length (l : List Byte) (o n : Nat) : (slice l o n).length = n := by
  simp [slice]

/-! ## Writing physical bytes -/

/-- A write keeps the canonical form. -/
theorem State.put_wf {s : State} (pa : Nat) (bs : List Byte) (h : Memory.wf s.hbm.unlisted s.mem = true) :
    Memory.wf (s.put pa bs).hbm.unlisted (s.put pa bs).mem = true :=
  mwfBy_mwriteBy _ bs pa h

/-- A byte outside a write reads as before. -/
theorem State.byteAt_put_outside (s : State) (pa : Nat) (bs : List Byte) {a : Nat} (h : a < pa ∨ pa + bs.length ≤ a) :
    (s.put pa bs).byteAt a = s.byteAt a := mget_mwriteBy_outside _ _ bs s.mem pa a h

/-- A byte inside a write reads as written. -/
theorem State.byteAt_put_inside (s : State) (pa : Nat) (bs : List Byte) {i : Nat} (h : i < bs.length) :
    (s.put pa bs).byteAt (pa + i) = bs[i] := mget_mwriteBy_inside _ bs s.mem pa i h

/-! ## Ranged writes -/

/-- What every write of bytes keeps, a ranged write keeps. -/
theorem State.writeUnits_keeps {P : State → Prop} (hp : ∀ s pa bs, P s → P (State.put s pa bs)) (w : Who) (us : List (Nat × Nat)) :
    ∀ (s : State) (bs : List Byte), P s → P (s.writeUnits w bs us).1 := by
  induction us with
  | nil => exact fun s bs h => h
  | cons u r ih =>
    intro s bs h
    simp only [State.writeUnits]
    split
    · split
      · exact h
      · exact ih _ _ (hp _ _ _ h)
    · exact h

/-- A ranged write keeps the canonical form. -/
theorem State.write_wf {s : State} (w : Who) (o : Nat) (bs : List Byte) (h : Memory.wf s.hbm.unlisted s.mem = true) :
    Memory.wf (s.write w o bs).1.hbm.unlisted (s.write w o bs).1.mem = true :=
  State.writeUnits_keeps (P := fun s => Memory.wf s.hbm.unlisted s.mem = true) (fun _ pa bs => State.put_wf pa bs) w _ s bs h

/-- A ranged write changes memory, the uncorrectable words and the coalescers, and nothing else. -/
theorem State.write_eq (s : State) (w : Who) (o : Nat) (bs : List Byte) :
    (s.write w o bs).1 =
      { s with mem := (s.write w o bs).1.mem, bad := (s.write w o bs).1.bad, clusters := (s.write w o bs).1.clusters } :=
  State.writeUnits_keeps (P := fun t => t = { s with mem := t.mem, bad := t.bad, clusters := t.clusters })
    (fun t pa bs h => by rw [h]; rfl) w _ s bs rfl

end Sys2Proof.Machine
end

