-- ==== Sys2Proof/Laws/Sending.lean ====
section
/-! SUPPORT. What the shared operations of the host interface and of the fabric can do: a reply, an event and the end of a host command
change the rings and where they lie; a request to another device and an add change Nunex and the Waymarks; a message to the members
only leaves the device. -/

namespace Sys2Proof.Machine

open Sys2Proof.Safety

/-! ## Replies -/

/-- What a reply keeps: every field but the memories, the words they made good, the coalescers, the functions' rings and what leaves the
device. -/
structure Replied (s t : State) : Prop where
  pending : t.pending = s.pending
  tick : t.tick = s.tick
  cores : t.cores = s.cores
  sys : t.sys = s.sys
  repair : t.repair = s.repair
  boot : t.boot = s.boot
  power : t.power = s.power
  hbm : t.hbm = s.hbm
  ctxs : t.ctxs = s.ctxs
  ctxRegs : t.ctxRegs = s.ctxRegs
  thmSel : t.thmSel = s.thmSel
  trh : t.trh = s.trh
  wmk : t.wmk = s.wmk
  evl : t.evl = s.evl
  nxp : t.nxp = s.nxp
  ing0 : t.ing0 = s.ing0
  ing1 : t.ing1 = s.ing1
  rcl : t.rcl = s.rcl
  mtr : t.mtr = s.mtr
  lnt : t.lnt = s.lnt
  memory : MemoryOk s → MemoryOk t

theorem Replied.refl (s : State) : Replied s s := by constructor <;> first | rfl | exact id

theorem Replied.trans {s t u : State} (h : Replied s t) (k : Replied t u) : Replied s u where
  pending := k.pending.trans h.pending
  tick := k.tick.trans h.tick
  cores := k.cores.trans h.cores
  sys := k.sys.trans h.sys
  repair := k.repair.trans h.repair
  boot := k.boot.trans h.boot
  power := k.power.trans h.power
  hbm := k.hbm.trans h.hbm
  ctxs := k.ctxs.trans h.ctxs
  ctxRegs := k.ctxRegs.trans h.ctxRegs
  thmSel := k.thmSel.trans h.thmSel
  trh := k.trh.trans h.trh
  wmk := k.wmk.trans h.wmk
  evl := k.evl.trans h.evl
  nxp := k.nxp.trans h.nxp
  ing0 := k.ing0.trans h.ing0
  ing1 := k.ing1.trans h.ing1
  rcl := k.rcl.trans h.rcl
  mtr := k.mtr.trans h.mtr
  lnt := k.lnt.trans h.lnt
  memory := k.memory ∘ h.memory

/-- Functions and what leaves the device may change. -/
theorem Replied.of_pci (s : State) (p : Pci) (o : List Emit) : Replied s { s with pci := p, out := o } := by
  constructor <;> first | rfl | exact id

theorem State.modFn_replied (s : State) (n : Nat) (f : Fn → Fn) : Replied s (s.modFn n f) := .of_pci s _ s.out
theorem State.modCq_replied (s : State) (n q : Nat) (f : CQueue → CQueue) : Replied s (s.modCq n q f) := s.modFn_replied _ _
theorem State.modCr_replied (s : State) (n r : Nat) (f : CRing → CRing) : Replied s (s.modCr n r f) := s.modFn_replied _ _
theorem State.emit_replied (s : State) (e : Emit) : Replied s (s.emit e) := .of_pci s s.pci _
theorem State.put_replied (s : State) (pa : Nat) (bs : List Byte) : Replied s (s.put pa bs) := by
  constructor <;> first | rfl | exact fun h => ⟨State.put_wf pa bs h.1, h.2⟩
theorem State.ringWrite_replied (s : State) (loc : Bool) (a : Nat) (bs : List Byte) : Replied s (s.ringWrite loc a bs) := by
  unfold State.ringWrite
  split
  · exact s.put_replied a bs
  · constructor <;> first | rfl | exact fun h => ⟨h.1, mwfBy_mwriteBy _ bs a h.2⟩
theorem State.signal_replied (s : State) (f q : Nat) : Replied s (s.signal f q) := by
  refine (s.modCq_replied f q (fun c => { c with unsignalled := 0 })).trans ?_
  unfold State.signal
  dsimp only
  split
  · exact .refl _
  · split
    · exact State.modFn_replied ..
    · exact State.emit_replied ..
theorem State.discardReply_replied (s : State) (f q : Nat) : Replied s (s.discardReply f q) :=
  (s.modCq_replied ..).trans (State.modFn_replied ..)
theorem State.discardAll_replied (f q : Nat) (l : List Reply) : ∀ s : State,
    Replied s (l.foldl (fun (s : State) _ => s.discardReply f q) s) := by
  induction l with
  | nil => exact Replied.refl
  | cons _ _ ih => exact fun s => (s.discardReply_replied f q).trans (ih _)
theorem State.writeReply_replied (s : State) (f q : Nat) (r : Reply) : Replied s (s.writeReply f q r) := by
  unfold State.writeReply
  dsimp only
  split
  · exact (s.modCq_replied ..).trans (State.discardAll_replied ..)
  · have h (g : CQueue → CQueue) := (s.ringWrite_replied ((s.fnOf f).cqOf q).loc
      (((s.fnOf f).cqOf q).base + 32 * ((s.fnOf f).cqOf q).tail) (r.bytes ((s.fnOf f).cqOf q).phase)).trans (State.modCq_replied _ f q g)
    split
    · exact (h _).trans (State.signal_replied ..)
    · exact h _
theorem State.drainCq_replied (f q fuel : Nat) : ∀ s : State, Replied s (s.drainCq f q fuel) := by
  induction fuel with
  | zero => exact Replied.refl
  | succ k ih =>
    intro s
    unfold State.drainCq
    dsimp only
    split
    · exact .refl s
    · split
      · split
        · exact (s.writeReply_replied ..).trans (ih _)
        · exact ((s.writeReply_replied ..).trans (State.modCq_replied ..)).trans (ih _)
      · split
        · exact .refl s
        · exact ((s.modCq_replied ..).trans (State.writeReply_replied ..)).trans (ih _)

/-- What posting a reply can do. -/
theorem State.post_replied (s : State) (f q : Nat) (r : Reply) : Replied s (s.post f q r) := by
  unfold State.post
  dsimp only
  split
  · exact s.discardReply_replied ..
  · split
    · split
      · exact s.discardReply_replied ..
      · exact (s.modCq_replied ..).trans (State.drainCq_replied ..)
    · exact s.writeReply_replied ..

/-- What an event of a context can do. -/
theorem State.event_replied (s : State) (x code : Nat) (bs : List Byte) : Replied s (s.event x code bs) := by
  unfold State.event
  split
  · exact s.post_replied ..
  · exact .refl s

/-- What FABRIC_CHANGE can do. -/
theorem State.fabricChange_replied (s : State) (kind item ident : Nat) : Replied s (s.fabricChange kind item ident) := s.post_replied ..

/-- What the end of a host command can do. -/
theorem State.finish_replied (s : State) (h : Cmd) (op code : Nat) (bs : List Byte) : Replied s (s.finish h op code bs) := by
  unfold State.finish State.endBegun
  dsimp only
  split
  · exact s.modCr_replied ..
  · exact (s.modCr_replied ..).trans (State.post_replied ..)

/-- A host command that its ring has begun and whose header passes has its own effect, once (R331, R332). -/
theorem State.command_accepted {s : State} {h : Cmd} {op : Nat} {spell : List Byte → Bool} (a : Accepted s h op spell)
    (f : State → State) : s.command h op spell f = .next (f (s.acts h op spell)) := by
  simp [State.command, State.serve, a.2.1, a.2.2, show s.power.stopped = false from a.1]

/-- A host command that may stay waiting has its effect, by the same conditions. -/
theorem State.serve_accepted {s : State} {h : Cmd} {op : Nat} {spell : List Byte → Bool} (a : Accepted s h op spell)
    (f : State → State) : s.serve h op spell f = .next (f s) := by
  simp [State.serve, a.2.1, a.2.2, show s.power.stopped = false from a.1]

/-- A host command whose header fails a check of Table 11.6 replies its code and does nothing else. -/
theorem State.serve_refused {s : State} {h : Cmd} {op : Nat} {spell : List Byte → Bool} (a : Clocked s)
    (b : s.hasBegun h op spell = true) (k : s.rowCode h op ≠ 0) (f : State → State) :
    s.serve h op spell f = .next (s.finish h op (s.rowCode h op) []) := by
  simp only [State.serve, show s.power.stopped = false from a, b, Bool.not_true, Bool.or_self, Bool.false_eq_true, if_false]

/-- A command that its ring has not begun does nothing (R332). -/
theorem State.serve_unbegun {s : State} {h : Cmd} {op : Nat} {spell : List Byte → Bool} (b : s.hasBegun h op spell = false)
    (f : State → State) : s.serve h op spell f = .next s := by
  simp [State.serve, b]

/-! ## Sending to other devices -/

/-- A packet sent changes Nunex and what leaves the device. -/
theorem State.transmit_eq (s : State) (k : Packet) :
    s.transmit k = { s with nxp := (s.transmit k).nxp, out := (s.transmit k).out } := by
  unfold State.transmit State.transmitOver
  split <;> rfl

/-- Building a packet numbers it in its stream. -/
theorem State.build_eq (s : State) (die op dst tag job len addr : Nat) (spec : Bool) (bs : List Byte) :
    (s.build die op dst tag job len addr spec bs).1 = { s with nxp := (s.build die op dst tag job len addr spec bs).1.nxp } := by
  unfold State.build State.nextSseq
  dsimp only
  split <;> rfl

/-- An operation sent, or kept waiting, changes Nunex and what leaves the device. -/
theorem State.sendOp_eq (s : State) (owner : OpOwner) (d op dst job len addr : Nat) (spec : Bool) (bs : List Byte) :
    s.sendOp owner d op dst job len addr spec bs =
      { s with nxp := (s.sendOp owner d op dst job len addr spec bs).nxp, out := (s.sendOp owner d op dst job len addr spec bs).out } := by
  unfold State.sendOp
  split
  · dsimp only
    rw [State.transmit_eq, State.build_eq]
  · rfl

/-- A request to another device changes Nunex, what leaves the device, the coalescers, and what a closed crossing writes down. -/
theorem State.request_eq (s : State) (owner : OpOwner) (die ctx op dst len addr : Nat) (spec : Bool) (bs : List Byte) :
    (s.request owner die ctx op dst len addr spec bs).1 =
      { s with nxp := (s.request owner die ctx op dst len addr spec bs).1.nxp,
               out := (s.request owner die ctx op dst len addr spec bs).1.out,
               sys := (s.request owner die ctx op dst len addr spec bs).1.sys,
               clusters := (s.request owner die ctx op dst len addr spec bs).1.clusters } := by
  unfold State.request
  dsimp only
  repeat' (first | rfl | split)
  all_goals dsimp only; rw [State.sendOp_eq]
  all_goals try rfl

/-- A request that writes no memory there leaves the coalescers. -/
theorem State.request_clusters {s : State} {owner : OpOwner} {die ctx op dst len addr : Nat} {spec : Bool} {bs : List Byte}
    (h : writesFar op = false) : (s.request owner die ctx op dst len addr spec bs).1.clusters = s.clusters := by
  unfold State.request
  simp only [h, Bool.false_eq_true, if_false]
  repeat' (first | rfl | split)
  all_goals dsimp only; rw [State.sendOp_eq]

/-- An add to a Waymark that has a home here is on its way to it (R300). -/
theorem State.sendAdd_home {s : State} {src : Agent} {key inc k : Nat} {by_ : Option (Nat × Nat)} {b : Binding}
    (hb : s.home key = .here k b) (hi : inc ≠ 0) :
    s.sendAdd src key inc by_ = (s.modWmk (fun m => { m with adds := m.adds ++ [⟨src, key, inc, by_⟩] }), 0) := by
  simp [State.sendAdd, hb, hi]

/-- An add changes Nunex, the Waymarks, what leaves the device, and what a closed crossing writes down. -/
theorem State.sendAdd_eq (s : State) (src : Agent) (key inc : Nat) (by_ : Option (Nat × Nat)) :
    (s.sendAdd src key inc by_).1 = { s with nxp := (s.sendAdd src key inc by_).1.nxp, wmk := (s.sendAdd src key inc by_).1.wmk,
                                             sys := (s.sendAdd src key inc by_).1.sys,
                                             out := (s.sendAdd src key inc by_).1.out } := by
  unfold State.sendAdd
  split
  · rfl
  · split
    · rfl
    · rw [State.request_eq, State.request_clusters (by decide)]
    · rfl
    · rfl

/-! ## Messages of the managers -/

@[simp] theorem Port.sendFlits_serves (n : Nat) : ∀ p : Port, (p.sendFlits n).serves = p.serves := by
  induction n with
  | zero => exact fun _ => rfl
  | succ n ih =>
    intro p
    unfold Port.sendFlits
    split
    · rfl
    · rw [ih]; rfl

/-- Sending a packet does not change whether the port serves. -/
@[simp] theorem Port.send_serves (p : Port) (k : Packet) : (p.send k).serves = p.serves := by
  unfold Port.send Port.pump
  rw [Port.sendFlits_serves]; rfl

/-- A fold that keeps a choice once it has one chooses something from every list but the empty one. -/
theorem foldl_isSome {f : Option Nat → Nat → Option Nat} (h : ∀ b p, (f b p).isSome = true) (l : List Nat) :
    ∀ b, (l.foldl f b).isSome = (b.isSome || !l.isEmpty) := by
  induction l with
  | nil => intro b; simp
  | cons p l ih => intro b; rw [List.foldl_cons, ih, h]; simp

/-- The port a packet leaves by is one of the die's that serves. -/
theorem State.choosePort_isSome (s : State) (die : Nat) :
    (s.choosePort die).isSome = (portsOf die).any (fun p => (s.port p).serves) := by
  unfold State.choosePort State.choosePortIf
  rw [foldl_isSome (fun b p => by cases b <;> dsimp only <;> (try split) <;> rfl)]
  simp only [Option.isSome_none, Bool.false_or, Bool.and_true]
  generalize portsOf die = l
  induction l with
  | nil => rfl
  | cons p l ih =>
    rw [List.filter_cons, List.any_cons]
    cases hp : (s.port p).serves
    · simpa using ih
    · simp

/-- A message to one device enters a port and leaves the device, and changes nothing else. -/
theorem State.sendManagerOver_eq (s : State) (p d k : Nat) (m : MgrMsg) :
    s.sendManagerOver p d k m = { s with nxp := (s.sendManagerOver p d k m).nxp, out := Emit.manager p d k m :: s.out } := by
  unfold State.sendManagerOver
  dsimp only
  rw [State.build_eq s]
  rfl

theorem State.build_port (s : State) (die op dst tag job len addr : Nat) (spec : Bool) (bs : List Byte) (q : Nat) :
    (s.build die op dst tag job len addr spec bs).1.port q = s.port q := by
  unfold State.build State.nextSseq
  dsimp only
  split <;> rfl

/-- Every port serves as before once a message was sent. -/
theorem State.sendManagerOver_serves (s : State) (p d k q : Nat) (m : MgrMsg) :
    ((s.sendManagerOver p d k m).port q).serves = (s.port q).serves := by
  have e (t : State) (x : Emit) : (t.emit x).port q = t.port q := rfl
  simp only [State.sendManagerOver, e]
  by_cases h : p = q
  · subst h
    rw [State.modPort_port, Port.send_serves, State.build_port]
  · rw [show ∀ (t : State) (f : Port → Port), (t.modPort p f).port q = t.port q from fun _ _ => mget_mset_other _ _ _ h,
      State.build_port]

/-- What a message to one device does where some port serves: it leaves over a port, and as many ports serve as before. -/
theorem State.sendManager_sent {s : State} (d k : Nat) (m : MgrMsg) (h : CanSend s) :
    (∃ p, s.sendManager d k m = { s with nxp := (s.sendManager d k m).nxp, out := Emit.manager p d k m :: s.out })
      ∧ CanSend (s.sendManager d k m) := by
  unfold State.sendManager
  cases hp : (s.choosePort 0).or (s.choosePort 1) with
  | none => cases h0 : s.choosePort 0 <;> cases h1 : s.choosePort 1 <;> simp_all [CanSend]
  | some p =>
    refine ⟨⟨p, s.sendManagerOver_eq p d k m⟩, ?_⟩
    simpa [CanSend, State.choosePort_isSome, State.sendManagerOver_serves] using h

theorem State.sendAll_sent (k : Nat) (m : MgrMsg) (l : List Nat) : ∀ s : State, CanSend s →
    let t := l.foldl (fun (s : State) d => s.sendManager d k m) s
    t = { s with nxp := t.nxp, out := t.out } ∧ (∀ e ∈ s.out, e ∈ t.out) ∧ ∀ d ∈ l, ∃ p, Emit.manager p d k m ∈ t.out := by
  induction l with
  | nil => exact fun s _ => ⟨rfl, fun _ h => h, by simp⟩
  | cons d r ih =>
    intro s h
    obtain ⟨⟨p, e⟩, c⟩ := State.sendManager_sent d k m h
    obtain ⟨i1, i2, i3⟩ := ih _ c
    have ho : (s.sendManager d k m).out = Emit.manager p d k m :: s.out := by rw [e]
    refine ⟨?_, fun x hx => i2 x (by rw [ho]; exact List.mem_cons_of_mem _ hx), fun x hx => ?_⟩
    · rw [List.foldl_cons, i1, e]
    · rcases List.mem_cons.mp hx with rfl | hx
      · exact ⟨p, i2 _ (by rw [ho]; exact List.mem_cons_self)⟩
      · exact i3 x hx

/-- A message to the members leaves the device for each current member, enters the ports, and changes nothing else. -/
theorem State.toMembers_sent {s : State} (k : Nat) (m : MgrMsg) (h : CanSend s) :
    s.toMembers k m = { s with nxp := (s.toMembers k m).nxp, out := (s.toMembers k m).out }
      ∧ (∀ e ∈ s.out, e ∈ (s.toMembers k m).out) ∧ ∀ d ∈ s.current, ∃ p, Emit.manager p d k m ∈ (s.toMembers k m).out :=
  State.sendAll_sent k m s.current s h

end Sys2Proof.Machine
end

