-- ==== Sys2Proof/Tests/Slice0.lean ====
section
/-! SUPPORT. Tests: ill-formed commands are refused by `Instr.wf`; words written out from Table 4.3 decode; and for every statement
with hypotheses a state and operands that meet them, clause by clause. -/

set_option Elab.async false

open Sys2Proof Sys2Proof.Machine Sys2Proof.Safety

namespace Sys2Proof.Tests

/-! ## Well-formedness -/

def header : Cmd := ⟨0, 0, 7, false, 1⟩
def badHeader : Cmd := ⟨64, 0, 0, false, 0⟩
def packet (op : Nat) : Packet := ⟨0, op, 0, 9, 3, 1, 0, 5, 7, 0, 0, false, []⟩
def manager (src : Nat) : MgrMsg := ⟨src, 4, 2, 3, 0, 1, 7, 6, 2, 0, 0⟩

/-! Ill-formed commands, one for each check of `Instr.wf`. -/

def illFormedTile : List Instr :=
  [.nop 648 0, .nop 0 1, .tcfg 0 (1 + 2 ^ 41), .tcfgClear 0 1, .tld 0 3, .tst 0 2, .twl 0 5, .tmm 0 ⟨4, none⟩, .tmm 0 ⟨5, some (.column 33)⟩, .tmv 0 0x106, .tmvRow 0 6,
    .tdr 0 8, .tzr 0 7, .tmov 0 0xA, .halo 0 9, .blr 0 0xC, .wait 0 0xB, .sig 0 0xE, .fence 0 0xD, .loop 0 0x10, .endl 0 0xF,
    .mova 0 0x12, .adda 0 0x11, .coreTaskEnd 648, .interrupt 648, .coreResume 648, .ramblerFetch 648 1, .memoryResponse 0 256 false,
    .cdcTimeout 0 (.core 648 0),
    .cdcTimeout 0 (.thermos 0 3), .cdcTimeout 0 (.trailhead 256 0), .cdcTimeout 0 (.host badHeader), .cdcTimeout 0 (.pcie 64)]
def illFormedInside : List Instr :=
  [.packageLinkRetrain 4, .linkDown 4, .packageLinkReplay ⟨4, 0⟩, .packageLinkRetrained 4, .taskCoreReserve 64, .preempt 64, .stepReplay 64,
    .stepCommitReady 64, .versionStallLimit 64 0, .contributionSend 64 0, .contributionTake 64 0, .slotAcquire 64 0, .phaseC 64 0,
    .updateCommit 64 0, .versionPull 64 0 ⟨0, 0, 0⟩, .blanketFetch 36 0, .blanketFetch 0 4, .stashCopy 256 0, .taskComplete 256 0,
    .clusterDmaTransfer 36 0 0 0, .commandDoorbell 64 0 0, .completionDoorbell 0 4 0, .msixDelay 0 4, .pciCrWrite 64 0 0,
    .pciCqWrite 0 4 false 0, .commandPacket 0 0 (some [])]
def illFormedHost : List Instr :=
  [.ctxCreate badHeader 0 0 0 0, .ctxCreate header 0 0 4 0, .ctxDestroy badHeader, .resume badHeader, .fabricLeave badHeader,
    .mapPages header 0 0 0 65536, .unmapPages header 0 1 4, .graphSubmit header (2 ^ 64), .graphAbort header (2 ^ 32),
    .stepBegin header (2 ^ 32), .stepCommit header (2 ^ 32), .query header (2 ^ 32), .groupWrite header 0 1 [], .waymarkRead header (2 ^ 20) none,
    .waymarkWrite header 0 4 0 false, .checkpoint header (2 ^ 32) 0, .checkpointCopy 0 3 false, .restore header 0 (2 ^ 32) 0 [],
    .rollcallRun header 0 (2 ^ 32), .rollcallCluster 36 [] [], .ingestOpen header 0 0 256, .ingestFeed header 65536 false 0 1,
    .ingestClose header 65536, .decodeAccessUnit 2, .clipWrite 2 0, .fabricJoin header 256 0, .meterRead header 0 0 (2 ^ 32),
    .attest header [] 0]
def illFormedOutside : List Instr :=
  [.bar4Read 64 ⟨4, 0⟩ 8, .bar4Read 0 ⟨3, 0⟩ 8, .bar4Write 64 0 [], .pciWinWrite 64 0, .functionLevelReset 64, .pciVfLimitsWrite 0 0, .nxpJobWrite 64 0,
    .registerWrite 0 (2 ^ 26) 8 0, .laneFail 0 5, .flitReceive 18 [] true, .flitAckTimeout 18, .portRetrain 18, .portDown 18,
    .portRetrained 18 true, .read { packet 1 with die := 2 }, .write { packet 2 with src := 65536 }, .writeSignal { packet 3 with dst := 65536 },
    .waymarkAdd { packet 4 with epoch := 65536 }, .bulkPull { packet 5 with sseq := 65536 }, .bulkWrite { packet 6 with tag := 65536 },
    .response { packet 8 with job := 65536 }, .e2eNak { packet 9 with addr := 2 ^ 64 }, .bulkCopy (.thermos 64 0) 0 0 0 1, .bulkCopy (.dma 0 0) 2 0 0 1, .resendTimeout 2 0,
    .join (manager 65536), .grant (manager 65536), .heartbeat (manager 65536), .membership (manager 65536), .ready (manager 65536),
    .commit (manager 65536), .abandon (manager 65536), .mirror (manager 65536) 0, .takeover (manager 65536), .memberFailed 32768, .scrub (.word 0) 3, .boot [] [] ⟨false, false, 9, 0⟩ [], .jtagInstruction (.shift 2 4),
    .thermalSample [], .meterSample [], .getAttestation [], .vfEnable (.vfs 64) true]

theorem test_wf_refuses_every_ill_formed_command :
    illFormedTile.all (fun i => !i.wf) = true ∧ illFormedInside.all (fun i => !i.wf) = true
      ∧ illFormedHost.all (fun i => !i.wf) = true ∧ illFormedOutside.all (fun i => !i.wf) = true := by decide +kernel

theorem test_wf_accepts_commands_in_range :
    ([.nop 647 0, .tcfgClear 0 (1 + 2 ^ 41), .tmvRow 0 0x106, .ctxCreate header 5 0 3 3, .write (packet 2), .join (manager 9),
      .bar4Read 63 ⟨4, 0⟩ 512, .tmm 0 ⟨5, some (.word 32767)⟩, .vfEnable (.vfs 63) true] : List Instr).all Instr.wf = true := by decide +kernel

/-! ## Words of Table 4.3 -/

/-- The words that Table 4.8 works out from the listing. -/
theorem test_table_4_8 :
    decodeTile 0x00000003FC7C0801 = some (.tcfg 0 1 0 31 255 false) ∧ decodeTile 0x000000007FFC0A01 = some (.tcfg 2 1 0 255 31 false)
      ∧ decodeTile 0x000000003800700F = some (.loop 0 28 false 0 28) ∧ decodeTile 0x0000000008000012 = some (.adda 0 false 0 512)
      ∧ decodeTile 0x0000000000001A04 = some (.twl 2 3 0 false) ∧ decodeTile 0x0000000000030005 = some (.tmm 0 0 0 3 0) := by
  decide +kernel

/-- Other words of Table 4.3, each field written out at its bits. -/
theorem test_words_of_table_4_3 :
    decodeTile 0x00 = some .nop
      ∧ decodeTile (0x02 + 4 * 2 ^ 8 + 7 * 2 ^ 11 + 2 * 2 ^ 14) = some (.tld 4 7 2 false false 0 0)
      ∧ decodeTile (0x03 + 4 * 2 ^ 8 + 7 * 2 ^ 11 + 2 * 2 ^ 14 + 2 ^ 18) = some (.tst 4 7 2 true false 0 0)
      ∧ decodeTile (0x06 + 1 * 2 ^ 10 + 2 * 2 ^ 13 + 3 * 2 ^ 16 + 1 * 2 ^ 20 + 31 * 2 ^ 27 + 5 * 2 ^ 35) =
          some (.tmv 0 1 2 3 1 0 31 5 false false)
      ∧ decodeTile (0x07 + 4 * 2 ^ 26 + 10 * 2 ^ 29 + 6 * 2 ^ 33 + 2 ^ 37 + 31 * 2 ^ 38 + 31 * 2 ^ 43) =
          some (.tdr 0 0 4 10 6 false true 31 31 false 0 false)
      ∧ decodeTile (0x08 + 2 * 2 ^ 8 + 3 * 2 ^ 14) = some (.tzr 2 3)
      ∧ decodeTile (0x09 + 2 * 2 ^ 8 + 5 * 2 ^ 13 + 9 * 2 ^ 16 + 2 ^ 22) = some (.tmov 2 0 5 9 true)
      ∧ decodeTile (0x0A + 1 * 2 ^ 8 + 3 * 2 ^ 11 + 2 * 2 ^ 13 + 4 * 2 ^ 18 + 5 * 2 ^ 22 + 77 * 2 ^ 26) = some (.halo 1 3 2 4 5 77)
      ∧ decodeTile (0x0B + 6 * 2 ^ 8 + 2 * 2 ^ 11) = some (.blr 6 2)
      ∧ decodeTile (0x0C + 9 * 2 ^ 8 + 3 * 2 ^ 28 + 100 * 2 ^ 31) = some (.wait 9 3 100)
      ∧ decodeTile (0x0D + 9 * 2 ^ 8 + 2 ^ 44 + 13 * 2 ^ 45) = some (.sig 9 0 true 13)
      ∧ decodeTile (0x0E + 2 * 2 ^ 8 + 2 ^ 10) = some (.fence 2 true)
      ∧ decodeTile (0x10 + 3 * 2 ^ 8) = some (.endl 3)
      ∧ decodeTile (0x11 + 14 * 2 ^ 8 + 1 * 2 ^ 12 + 3 * 2 ^ 14) = some (.mova 14 1 3 0) := by decide +kernel

/-- Words that do not decode: a reserved opcode, a bit above the highest field, and each condition of Table 4.3 broken. -/
theorem test_words_refused :
    ([0x13, 0x00 + 2 ^ 8, 0x01 + 2 ^ 41 + 2 ^ 11, 0x02 + 2 ^ 18 + 2 ^ 19, 0x03 + 2 ^ 18 + 2 ^ 20, 0x05 + 3 * 2 ^ 8, 0x06 + 2 ^ 41,
      0x106 + 32 * 2 ^ 27, 0x08 + 63 * 2 ^ 8 + 2 ^ 14, 0x09 + 3 * 2 ^ 8, 0x09 + 2 ^ 22, 0x0D + 2 ^ 28 + 2 ^ 44, 0x0E + 3 * 2 ^ 8,
      0x0F + 2 ^ 20 + 2 ^ 25, 0x11 + 2 * 2 ^ 12 + 6 * 2 ^ 14, 0x11 + 3 * 2 ^ 12 + 4 * 2 ^ 14, 0x12 + 2 ^ 12 + 2 ^ 18, 0x12 + 2 ^ 17] :
        List W64).all (fun w => (decodeTile w).isNone) = true := by decide +kernel

/-! ## States that witness hypotheses -/

/-- A device that has booted. -/
def ready : State := { State.reset with boot := { state := .ready, lanternUsed := true }, power := { good := true } }
/-- A context with two pages of 2 MiB at offset 0, readable and writable. -/
def someCtx : Ctx := { fn := 0, seed := 5, saveArea := 0x200000, prio := 1, eventCq := 0, pages := [⟨0, 0x200000, 2, 1, 0xB⟩], step := some 3 }
/-- Context 1 exists. -/
def withCtx : State := { ready with ctxs := [(1, someCtx)] }
/-- Core 0 runs a hand-mapped task of context 1 whose next word is the first of `prog`. -/
def tile (prog : List W64) (l : Live) (m : Rambler) : State :=
  { withCtx with cores := [(0, { seq := .issuing, task := some ⟨0, 0, 1, 3, true⟩, prog := prog, live := l, ramb := m })] }
/-- A tile register in use. -/
def reg (type rows cols : Nat) : TReg := ⟨true, type, 0, rows, cols, [], []⟩
/-- The state in which core 0 issues one instruction next. -/
def at_ (i : TileInsn) (l : Live) : State := tile [encodeTile i] l {}

/-- Whether an access was done. -/
def isOk {α : Type} (r : Res α) : Bool := match r with | .ok _ _ => true | _ => false
theorem of_isOk {α : Type} {r : Res α} (h : isOk r = true) : ∃ u v, r = .ok u v := by
  cases r <;> simp_all [isOk]
theorem of_ok {r : Res Unit} (h : isOk r = true) : ∃ u, r = .ok u () := let ⟨u, _, h⟩ := of_isOk h; ⟨u, h⟩
/-- Whether an access was done and left a state that `p` holds of. -/
def doneIn {α : Type} (p : State → Prop) [DecidablePred p] (r : Res α) : Bool := match r with | .ok u _ => decide (p u) | _ => false
theorem of_done {α : Type} {p : State → Prop} [DecidablePred p] {r : Res α} (h : doneIn p r = true) : ∃ u v, r = .ok u v ∧ p u := by
  cases r <;> simp_all [doneIn]
/-- Whether an access waits. -/
def waits {α : Type} (r : Res α) : Bool := match r with | .wait _ => true | _ => false
theorem of_waits {α : Type} {r : Res α} (h : waits r = true) : ∃ u, r = .wait u := by
  cases r <;> simp_all [waits]
/-- Whether a write was done. -/
def wrote (r : State × Option Acc) : Bool := r.2.isNone
theorem of_wrote {r : State × Option Acc} (h : wrote r = true) : ∃ u, r = (u, none) := by
  obtain ⟨u, v⟩ := r; cases v <;> simp_all [wrote]
/-- Whether a read was done. -/
def gave (r : Rd) : Bool := match r with | .data _ => true | _ => false
theorem of_gave {r : Rd} (h : gave r = true) : ∃ bs, r = .data bs := by
  cases r <;> simp_all [gave]

theorem witness_stepRunsFrontCommand : ({ ready with pending := [.taskDispatch] } : State).pending = .taskDispatch :: [] := rfl
theorem witness_emptyQueueCountsTime :
    ready.pending = [] ∧ ({ ready with power := { ready.power with stopped := true } } : State).power.stopped = true := by decide
theorem witness_stepKeepsMemoryCanonical :
    MemoryOk { ready with mem := [(3, 7)], pending := [.bar4Write 0 0 [1]] } ∧
      ∃ t, step { ready with mem := [(3, 7)], pending := [.bar4Write 0 0 [1]] } = .next t := by
  refine ⟨by unfold MemoryOk; decide, _, rfl⟩
/-- An operation that holds the last tag of a die, a port with every lane at its bound, and counters at their last value. -/
def edge : State :=
  { ready with
    pending := [.portRetrain 17]
    sys := { cdcCount := 2 ^ 32 - 1 }
    nxp := { ops := [⟨⟨0, 1, 0, 3, 9, 1, 0, 4607, 7, 8, 0, false, []⟩, .nobody, 0, true, 0, false⟩]
             ports := [(17, { state := 3, spare := 7, failed := 31, replays := 2 ^ 16 - 1, fec := 2 ^ 32 - 1 })] }
    wmk := { binds := [(wkey 1 9, ⟨1, 1, 9, true, 4, 2 ^ 64 - 1, 0, 2 ^ 64 - 1, false⟩)] } }
theorem edge_port (p : Nat) : edge.port p = if p = 17 then { state := 3, spare := 7, failed := 31, replays := 2 ^ 16 - 1, fec := 2 ^ 32 - 1 } else {} := by
  simp [State.port, edge, mget, eq_comm]
theorem witness_stepKeepsTagsAndLanes : (TagsInRange edge ∧ PortsInRange edge) ∧ ∃ t, step edge = .next t := by
  refine ⟨⟨by unfold TagsInRange; decide +kernel, fun p => ?_⟩, _, rfl⟩
  rw [edge_port]; split <;> decide
theorem witness_stepKeepsCountersInRange : (CountersInRange edge ∧ MarksInRange edge) ∧ ∃ t, step edge = .next t := by
  refine ⟨⟨⟨by decide, ⟨by decide, by decide⟩, ⟨by decide, by decide, fun p => ?_⟩, fun e => ?_, fun f => ⟨Nat.two_pow_pos 32, Nat.two_pow_pos 16, fun q => Nat.two_pow_pos 32⟩,
    by decide, fun d => Nat.two_pow_pos 32, by decide⟩, ?_⟩, _, rfl⟩
  · rw [edge_port]; split <;> decide
  · unfold State.engine; split <;> decide
  · unfold MarksInRange; decide +kernel
/-- Graph slot 255 holds a graph of the last generation, core 0 has four unfinished loads, and a ring has begun one short command. -/
def full : State :=
  { ready with
    pending := [.portRetrain 17]
    cores := [(0, { live := { pendings := List.replicate 4 ⟨0, 2, [], [], 0⟩ } })]
    trh := { gens := [(255, 2 ^ 24 - 1)], graphs := [(255, { gen := 2 ^ 24 - 1, ctx := 1, tag := 0, fn := 0, cq := 0, addr := 0, desc := [], order := 0
                                                             step := none })] }
    pci := { fns := [(0, { cr := [(0, { begun := [⟨1, 0, false, [], false⟩, ⟨5, 0, true, [], false⟩] })] })] } }
theorem witness_stepKeepsQueuesBounded : (GraphsInRange full ∧ CoresInRange full ∧ RingsInRange full) ∧ ∃ t, step full = .next t := by
  refine ⟨⟨⟨by decide, by decide, fun g => ?_⟩, ⟨fun c => ?_, by simp [full]⟩, fun f r => ?_⟩, _, rfl⟩
  · simp only [full, mget]; split <;> decide
  · simp only [State.core, full, mget]
    split
    · refine ⟨by decide, fun u => (List.length_filter_le _ _).trans (by decide)⟩
    · exact ⟨by decide, fun u => by simp⟩
  · simp only [State.fnOf, Fn.crOf, full, mget]
    split
    · simp only [mget]; split <;> decide
    · simp [mget]
theorem witness_tileWordsRoundTrip : (TileInsn.tdr 63 4095 7 15 7 true true 31 31 true 15 true).wf = true := by decide

theorem witness_movesOfAddressRegisters :
    Issues (at_ .nop {}) 0 (encodeTile .nop) .nop
      ∧ Issues (at_ (.mova 15 2 5 0) {}) 0 (encodeTile (.mova 15 2 5 0)) (.mova 15 2 5 0)
      ∧ ((tile [0x1A011] {} {}).issues 0 0x1A011 = true ∧ (0x1A011 : W64).toNat % 256 = 0x11 ∧ bits 0x1A011 13 12 = 2 ∧ 6 ≤ bits 0x1A011 17 14)
      ∧ ((tile [0x13011] {} {}).issues 0 0x13011 = true ∧ (0x13011 : W64).toNat % 256 = 0x11 ∧ bits 0x13011 13 12 = 3
        ∧ bits 0x13011 17 16 ≠ 0)
      ∧ Issues (at_ (.adda 15 false 0 (2 ^ 46 - 1)) {}) 0 (encodeTile (.adda 15 false 0 (2 ^ 46 - 1))) (.adda 15 false 0 (2 ^ 46 - 1)) := by
  unfold Issues; decide +kernel

def loopWord : W64 := encodeTile (.loop 3 1 false 0 2)
def endWord : W64 := encodeTile (.endl 3)
/-- Whether the LOOP to `stop` under counter 3 fails a case of R126 in a core that has `prog` and `loops`. -/
def loopBad (prog : List W64) (loops : List Loop) (stop : Nat) : Prop :=
  stop ≤ 0 ∨ prog.length ≤ stop ∨ prog[stop]?.bind decodeTile ≠ some (.endl 3) ∨ (∃ l ∈ loops, l.counter = 3) ∨ ¬ (∀ l ∈ loops, stop < l.stop)
theorem witness_loopsCountDown :
    (((tile [loopWord, endWord] {} {}).issues 0 loopWord = true ∧ decodeTile loopWord = some (.loop 3 1 false 0 2))
        ∧ ¬ loopBad [loopWord, endWord] [] 1)
      ∧ (loopBad [endWord] [] 0 ∧ loopBad [loopWord] [] 1 ∧ loopBad [loopWord, loopWord] [] 1
        ∧ loopBad [loopWord, endWord] [⟨3, 0, 5⟩] 1 ∧ loopBad [loopWord, endWord] [⟨2, 0, 1⟩] 1)
      ∧ (let s := tile [loopWord, endWord] { pc := 1, loops := [⟨3, 0, 1⟩] } {}
        s.issues 0 endWord = true ∧ decodeTile endWord = some (.endl 3) ∧ (s.core 0).live.loops = [⟨3, 0, (s.core 0).live.pc⟩])
      ∧ ((tile [endWord] {} {}).issues 0 endWord = true ∧ ((tile [endWord] {} {}).core 0).live.loops = []) := by
  unfold loopBad; decide +kernel

theorem witness_tileRegisterConfiguration :
    (Issues (at_ (.tcfg 7 1 0 31 255 false) {}) 0 (encodeTile (.tcfg 7 1 0 31 255 false)) (.tcfg 7 1 0 31 255 false)
        ∧ cfgOk 1 0 32 256 = true)
      ∧ Issues (at_ (.tcfg 7 0 0 0 0 true) {}) 0 (encodeTile (.tcfg 7 0 0 0 0 true)) (.tcfg 7 0 0 0 0 true)
      ∧ (Issues (at_ (.tcfg 7 12 0 0 0 false) {}) 0 (encodeTile (.tcfg 7 12 0 0 0 false)) (.tcfg 7 12 0 0 0 false)
        ∧ Issues (at_ (.tcfg 7 1 3 0 0 false) {}) 0 (encodeTile (.tcfg 7 1 3 0 0 false)) (.tcfg 7 1 3 0 0 false)
        ∧ Issues (at_ (.tcfg 7 0 0 31 255 false) {}) 0 (encodeTile (.tcfg 7 0 0 31 255 false)) (.tcfg 7 0 0 31 255 false)
        ∧ 16384 < footprintOf 0 0 32 256)
      ∧ ((tile [0x20000000801] {} {}).issues 0 0x20000000801 = true ∧ (0x20000000801 : W64).toNat % 256 = 0x01
        ∧ bit 0x20000000801 41 = true ∧ bits 0x20000000801 40 11 ≠ 0) := by
  unfold Issues; decide +kernel

theorem witness_accumulatorZeroAndMove :
    Issues (at_ (.tzr 0 63) {}) 0 (encodeTile (.tzr 0 63)) (.tzr 0 63)
      ∧ (let w : W64 := encodeTile (.tzr 1 63);
        (tile [w] {} {}).issues 0 w = true ∧ w.toNat % 256 = 0x08 ∧ 64 < bits w.toNat 13 8 + (bits w.toNat 19 14 + 1))
      ∧ (Issues (at_ (.tmov 0 1 2 0 false) { tregs := [(2, reg 1 4 4)] }) 0 (encodeTile (.tmov 0 1 2 0 false)) (.tmov 0 1 2 0 false)
        ∧ (((at_ (.tmov 0 1 2 0 false) { tregs := [(2, reg 1 4 4)] }).core 0).treg 2).inUse = true)
      ∧ Issues (at_ (.tmov 1 7 0 63 false) {}) 0 (encodeTile (.tmov 1 7 0 63 false)) (.tmov 1 7 0 63 false)
      ∧ ((at_ (.tmov 1 7 0 63 false) {}).core 0).accBad 63 (fun _ _ => true) = false
      ∧ (let s := at_ (.tmov 2 0 7 63 true) { tregs := [(7, reg 11 32 32)] }
        Issues s 0 (encodeTile (.tmov 2 0 7 63 true)) (.tmov 2 0 7 63 true)
          ∧ (let q := (s.core 0).treg 7
            q.inUse = true ∧ (q.type = 0 ∨ q.type = 11) ∧ q.blk = 0 ∧ q.rows = 32 ∧ q.cols = 32)) := by
  unfold Issues; decide +kernel

def product : TileInsn := .tmm 2 0 0 0 63
/-- Core 0 issues a product into tile 63, which is in use. -/
def productState : State :=
  at_ product { tregs := [(0, reg 1 1 1)], active := some ⟨false, 1, 0, []⟩, acc := [(63, ⟨true, .fp32, .transposed, []⟩)] }
/-- A product whose hardware meets `err` fulfils what the statement asks, with `p` of its core. -/
def productMet (c : Nat) (err : Option CoreErr) (p : Core → Bool) : Prop :=
  Issues productState c (encodeTile product) product ∧ (let k := (productState.meetErr c err).core c; let q := k.treg 0
    q.inUse = true ∧ 32 * 0 < q.rows ∧ 32 * 0 < q.cols
      ∧ (k.live.shadow = some ⟨false, 1, 0, []⟩ ∨ (k.live.shadow = none ∧ k.live.active = some ⟨false, 1, 0, []⟩))
      ∧ pairClass q.type q.blk 1 0 = some 0 ∧ false = decide (2 = 1)
      ∧ (k.accTile 63).accepts (accClassOf 0) .transposed = true ∧ p k = true)
theorem witness_stationaryLoadAndProduct :
    (let i : TileInsn := .twl 0 7 0 true
      let s := at_ i { tregs := [(0, reg 1 256 1)] }
      Issues s 0 (encodeTile i) i ∧ (let q := (s.core 0).treg 0; q.inUse = true ∧ 32 * 7 < q.rows ∧ 32 * 0 < q.cols))
      ∧ productMet 0 none (fun k => decide (k.parity = none) && !k.accBad 63 (fun _ j => decide (j < 32)))
      ∧ productMet 0 (some (.column 31)) (fun k => decide (k.parity = some (.column 31)))
      ∧ productMet 0 (some (.word (63 * 512 + 15)))
          (fun k => decide (k.parity = none) && k.accBad 63 (fun _ j => decide (j < 32))) := by
  unfold productMet Issues; decide +kernel

def weights : TileInsn := .tmv 0 0 0 0 1 0 31 63 false false
def rowUnit : TileInsn := .tmv 1 0 0 0 0 0 31 63 false true
def weightState : State :=
  { at_ weights { tregs := [(0, reg 1 8 1)], a := [(0, BitVec.ofNat 48 coreBase)] } with
    trh := { graphs := [(0, { gen := 0, ctx := 1, tag := 0, fn := 0, cq := 0, addr := 0, desc := [], order := 0, step := none
                              tasks := [(0, { grants := [(coreBase, 0x200000)], left := [0] })] })] } }
theorem witness_vectorLaneProductAndRows :
    (Issues weightState 0 (encodeTile weights) weights
      ∧ (let k := weightState.core 0; let q := k.treg 0
        q.inUse = true ∧ 1 ≤ q.rows ∧ q.rows ≤ 8 ∧ 0 ≤ 1 ∧ pairClass q.type q.blk 1 0 = some 0
          ∧ ∀ i < cdiv (31 + 1) 32, (k.accTile (63 + i)).accepts .fp32 .normal = true)
      ∧ ∃ u ws, (let z := issued weightState 0 (encodeTile weights) weights
        Res.each (fun s i => weightRow s 0 (z.whoCore 0) ⟨0, 0, false, false, 0, 0⟩ (weightState.core 0).live.a 1 0 32 i)
          (range ((weightState.core 0).treg 0).cols) z = .ok u ws)
        ∧ ∀ i < cdiv (31 + 1) 32, (u.core 0).accBad (63 + i) (fun r _ => decide (r < 8)) = false)
      ∧ (let s := at_ rowUnit { tregs := [(0, reg 0 1 1)] }
        Issues s 0 (encodeTile rowUnit) rowUnit
          ∧ (let k := s.core 0; let q := k.treg 0; let o := (mget 0 k.live.a (2 * 0)).toNat
            q.inUse = true ∧ q.blk = 0 ∧ q.rows ≤ 32 ∧ q.cols ≤ 8192 ∧ (k.accTile 63).accepts .fp32 .normal = true
              ∧ k.accBad 63 (fun i j => decide (i < q.rows ∧ j / 2 = 31 / 2)) = false
              ∧ ∀ i < q.rows,
                let a := wrap 48 ((o : Int) + (i : Int) * (pitchOf q.type q.cols : Int))
                alignedFor q.type a = true ∧ a + rowBytes q.type q.cols ≤ 524288)) := by
  refine ⟨⟨by unfold Issues; decide +kernel, by decide +kernel, of_done ?_⟩, by unfold Issues; decide +kernel⟩
  decide +kernel

/-! ## Loads, stores, the drain, synchronization -/

def loadMem : TileInsn := .tld 7 7 15 false false 15 0
def loadTile : TileInsn := .tld 7 7 15 true false 0 0
def storeMem : TileInsn := .tst 7 7 15 false false 15 0
def storeTile : TileInsn := .tst 7 7 15 true false 0 0
def twoRows (i : TileInsn) : State := at_ i { tregs := [(7, reg 1 2 2)], a := [(14, 64), (15, 16)] }
/-- The place of the rows that `twoRows` moves. -/
def rowsAt (space : Bool) (pfx : Nat) : Xfer := ⟨7, 15, space, false, pfx, 0⟩

/-- Whether an access misses, and a task then runs on core 0. -/
def misses {α : Type} (r : Res α) : Bool := match r with | .miss u _ _ => decide ((u.core 0).task = some ⟨0, 0, 1, 3, true⟩) | _ => false
theorem of_misses {α : Type} {r : Res α} (h : misses r = true) :
    ∃ u va store, r = .miss u va store ∧ (u.core 0).task = some ⟨0, 0, 1, 3, true⟩ := by
  cases r <;> simp_all [misses]
/-- Rambler holds the first unit of memory for core 0. -/
def arrived (s : State) : State := s.modRamb 0 (fun m => { m with lq := [⟨0, 0x200000, 2 ^ 256 - 1, List.replicate 256 1⟩] })
/-- Core 0's first two rows of a load of register 7, once it has issued. -/
def loading (s : State) (i : TileInsn) (x : Xfer) (n : Nat) : Res (List Byte × List Byte) :=
  loadRow (issued s 0 (encodeTile i) i) 0 (s.whoCore 0) x (s.core 0).live.a ((s.core 0).treg 7) n
/-- What the statement reads of one row. -/
def oneRow (s : State) (x : Xfer) (v : State) (n : Nat) : Res (List Byte × List Byte) :=
  let q := (s.core 0).treg 7
  (loadRow v 0 (v.whoCore 0) x (s.core 0).live.a q n).bind (fun v d =>
    .ok ((v.consume 0 (x.rowRanges (s.core 0).live.a q n) (((range q.rows).drop (n + 1)).flatMap (x.rowRanges (s.core 0).live.a q))).setTreg 0 7
      (((v.core 0).treg 7).setRow n d.1 d.2)) d)
theorem witness_tileLoads :
    (Issues (twoRows loadTile) 0 (encodeTile loadTile) loadTile
      ∧ (let k := (twoRows loadTile).core 0; (k.treg 7).inUse = true
          ∧ ∀ i < (k.treg 7).rows, (rowsAt true 0).rowOk k.live.a (k.treg 7) i = true))
      ∧ (let s := arrived (twoRows loadMem)
        Issues s 0 (encodeTile loadMem) loadMem ∧ ((s.core 0).treg 7).inUse = true
          ∧ ∃ u rows, Res.each (oneRow s (rowsAt false 15)) (range ((s.core 0).treg 7).rows) (issued s 0 (encodeTile loadMem) loadMem) = .ok u rows) := by
  unfold Issues
  refine ⟨?_, ?_, ?_, of_isOk ?_⟩ <;> decide +kernel
/-- The rows of the second load stand in the next unit of memory, so that the first has arrived and the second has not. -/
def halfArrived : State := arrived (at_ loadMem { tregs := [(7, reg 1 2 2)], a := [(14, 64), (15, 256)] })
def farLoad : TileInsn := .tld 7 7 15 false true 12 0
def farState : State :=
  { at_ farLoad { tregs := [(7, reg 1 2 2)], a := [(14, BitVec.ofNat 48 0x40), (15, 16), (12, 9)] } with
    nxp := { device := 3, epoch := 1, role := 1, ports := [(0, { state := 1 })], members := [(9, ⟨1, 0, 0, false⟩)] }
    ctxRegs := [(1, { job := 7, export_ := true })] }
def farPlace : Xfer := ⟨7, 15, false, true, 12, 0⟩
/-- A load from a page that context 1 does not have. -/
def missState (i : TileInsn) : State := at_ i { tregs := [(7, reg 1 2 2)], a := [(14, 0x10000000), (15, 16)] }
/-- A load waits for its units, before its first row or behind it, and for another device; one misses. -/
theorem witness_tileLoads_wait :
    (let s := twoRows loadMem;
      Issues s 0 (encodeTile loadMem) loadMem ∧ ((s.core 0).treg 7).inUse = true ∧ waits (loading s loadMem (rowsAt false 15) 0) = true)
      ∧ (let s := halfArrived;
        Issues s 0 (encodeTile loadMem) loadMem ∧ 1 < ((s.core 0).treg 7).rows
          ∧ (match Res.each (oneRow s (rowsAt false 15)) (range 1) (issued s 0 (encodeTile loadMem) loadMem) with
            | .ok v _ => waits (loadRow v 0 (v.whoCore 0) (rowsAt false 15) (s.core 0).live.a ((s.core 0).treg 7) 1)
            | _ => false) = true)
      ∧ (let s := farState
        Issues s 0 (encodeTile farLoad) farLoad ∧ ((s.core 0).treg 7).inUse = true ∧ waits (loading s farLoad farPlace 0) = true)
      ∧ (let s := missState loadMem
        Issues s 0 (encodeTile loadMem) loadMem ∧ ((s.core 0).treg 7).inUse = true ∧ misses (loading s loadMem (rowsAt false 15) 0) = true
          ∧ s.ctx 1 = some someCtx ∧ someCtx.suspended = false) := by
  unfold Issues; decide +kernel

/-- The stores of `twoRows`. -/
def twoStores : List Store :=
  (range 2).flatMap ((rowsAt false 15).storesOf ((twoRows storeMem).core 0).live.a (((twoRows storeMem).core 0).treg 7))
/-- The same with the store queue full. -/
def fullQueue : State :=
  (twoRows storeMem).modRamb 0 (fun m => { m with reqs := (range 112).map (fun i => { unit := 256 * i, pa := 256 * i, load := false }) })
theorem witness_tileStores :
    (Issues (twoRows storeTile) 0 (encodeTile storeTile) storeTile
      ∧ (let k := (twoRows storeTile).core 0; (k.treg 7).inUse = true
          ∧ ∀ i < (k.treg 7).rows, (rowsAt true 0).rowOk k.live.a (k.treg 7) i = true))
      ∧ Issues (twoRows storeMem) 0 (encodeTile storeMem) storeMem ∧ (((twoRows storeMem).core 0).treg 7).inUse = true
      ∧ (∃ u v, (issued (twoRows storeMem) 0 (encodeTile storeMem) storeMem).storeAll 0
          (record (twoRows storeMem) 0 (encodeTile storeMem) storeMem) twoStores = .ok u v)
      ∧ (∀ y ∈ twoStores.flatMap Store.cut, (twoRows storeMem).isHere y.at_ = true)
      ∧ Issues fullQueue 0 (encodeTile storeMem) storeMem
      ∧ (∃ u, (issued fullQueue 0 (encodeTile storeMem) storeMem).storeAll 0 (record fullQueue 0 (encodeTile storeMem) storeMem) twoStores
          = .wait u)
      ∧ (let s := missState storeMem;
        Issues s 0 (encodeTile storeMem) storeMem ∧ ((s.core 0).treg 7).inUse = true
          ∧ ∃ u va store, (issued s 0 (encodeTile storeMem) storeMem).storeAll 0 (record s 0 (encodeTile storeMem) storeMem)
            ((range 2).flatMap ((rowsAt false 15).storesOf (s.core 0).live.a ((s.core 0).treg 7))) = .miss u va store
              ∧ (u.core 0).task = some ⟨0, 0, 1, 3, true⟩) := by
  unfold Issues
  refine ⟨?_, ?_, ?_, of_isOk ?_, ?_, ?_, of_waits ?_, ?_, ?_, of_misses ?_⟩ <;> decide +kernel

def drain1 : TileInsn := .tdr 63 4095 7 15 7 true true 0 0 false 0 true
/-- Core 0 issues the drain of one element, under the record of zeros and with `carry` held. -/
def drainState (carry : Option Carry) : State := at_ drain1 { carry := carry }
def drainTdr : Tdr :=
  { record := ((drainState none).core 0).tileRead (128 * 4095) 128, recNo := 4095, x := ⟨7, 15, true, false, 0, 0⟩, orows := 1, ocols := 1
    rowEnd := true, origin := 0, rowStep := 0, seed := 5, step := 3, carry := none }
/-- The stores of the rows that it drains. -/
def drainStores : List Store :=
  let k := (drainState none).core 0
  ((range 1).map (drainTdr.row k (k.accTile 63) k.live.a)).flatMap (fun e => pieceStores (drType drainTdr.record) e.1)
/-- The drain of one element into a page that context 1 does not have. -/
def drain2 : TileInsn := .tdr 63 4095 7 15 7 false true 0 0 false 0 true
def missDrain : State := at_ drain2 { a := [(14, 0x10000000)] }
def memTdr (s : State) : Tdr :=
  { drainTdr with x := ⟨7, 15, false, false, 0, 0⟩, origin := areg (s.core 0).live.a 14, rowStep := areg (s.core 0).live.a 15 }
theorem witness_drainWritesRows :
    let s := drainState none
    let k := s.core 0
    (Issues s 0 (encodeTile drain1) drain1 ∧ drCheck k drainTdr.record = 0 ∧ (∀ y, k.live.carry = some y → drainTdr.continues y = true)
      ∧ k.accBad 63 (fun i j => decide (i < 1 ∧ j < 1)) = false
      ∧ ∃ u v, ((issued s 0 (encodeTile drain1) drain1).modCore 0 (fun k => k.slots drainTdr.record)).storeAll 0
          (record s 0 (encodeTile drain1) drain1) drainStores = .ok u v)
      ∧ (let s := missDrain; let k := s.core 0
        Issues s 0 (encodeTile drain2) drain2 ∧ drCheck k drainTdr.record = 0 ∧ k.accBad 63 (fun i j => decide (i < 1 ∧ j < 1)) = false
          ∧ ∃ u va store, ((issued s 0 (encodeTile drain2) drain2).modCore 0 (fun k => k.slots drainTdr.record)).storeAll 0
            (record s 0 (encodeTile drain2) drain2) (((range 1).map ((memTdr s).row k (k.accTile 63) k.live.a)).flatMap
              (fun e => pieceStores (drType drainTdr.record) e.1)) = .miss u va store ∧ (u.core 0).task = some ⟨0, 0, 1, 3, true⟩) := by
  unfold Issues
  refine ⟨⟨?_, ?_, fun y h => (nomatch h), ?_, of_isOk ?_⟩, ?_, ?_, ?_, of_misses ?_⟩ <;> decide +kernel

def strip : TileInsn := .halo 7 3 0 0 15 9
def mark (kind count : Nat) : Binding := ⟨kind, kind, 9, true, 4, 0, 0, count, false⟩
def halo1 : State :=
  { at_ strip { tregs := [(7, reg 1 1 1)], a := [(0, BitVec.ofNat 48 coreBase)] } with
    trh := weightState.trh, wmk := { binds := [(wkey 1 9, mark 1 0)] } }
/-- What the statement asks of the state that a strip's stores leave. -/
abbrev stripMet (u : State) : Prop :=
  (u.core 0).task = some ⟨0, 0, 1, 3, true⟩ ∧ (u.binding (wkey 1 9)).isSome = true ∧ (u.core 0).ramb.stores 1 ≠ 0
    ∧ (u.core 0).ramb.wq.length < 128
/-- Whether an access fails with a code. -/
def failsWith {α : Type} (code : Nat) (r : Res α) : Bool := match r with | .fail _ c => decide (c = code) | _ => false
theorem witness_stripsAndDeliveries :
    (Issues halo1 0 (encodeTile strip) strip ∧ ((halo1.core 0).treg 7).inUse = true ∧ haloOk ((halo1.core 0).treg 7) 3 1 = true)
      ∧ (∃ u v, (issued halo1 0 (encodeTile strip) strip).storeAll 0 (record halo1 0 (encodeTile strip) strip)
          ((haloStrip ((halo1.core 0).treg 7) 3 1).mapIdx (fun n b =>
            haloRow 1 (rowAt (areg (halo1.core 0).live.a 0) 0 n (dataStride (halo1.core 0).live.a 15)) b)) = .ok u v ∧ stripMet u)
      ∧ (let i : TileInsn := .blr 7 3
        let s : State := { at_ i {} with cores := [(0, { (at_ i { tregs := [(7, reg 1 1 1)] }).core 0 with deliveries := [(3, List.replicate 64 1)] })] }
        Issues s 0 (encodeTile i) i ∧ ((s.core 0).treg 7).inUse = true
          ∧ (s.core 0).deliveries.find? (fun d => decide (d.1 = 3)) = some (3, List.replicate 64 1) ∧ 64 = ((s.core 0).treg 7).footprint)
      ∧ (let i : TileInsn := .blr 7 3
        let s := at_ i { tregs := [(7, reg 1 1 1)] };
        Issues s 0 (encodeTile i) i ∧ ((s.core 0).treg 7).inUse = true
          ∧ (s.core 0).deliveries.find? (fun d => decide (d.1 = 3)) = none)
      ∧ (let s := at_ strip { tregs := [(7, reg 1 1 1)], a := [(0, 0x10000000)] }
        Issues s 0 (encodeTile strip) strip ∧ ((s.core 0).treg 7).inUse = true ∧ haloOk ((s.core 0).treg 7) 3 1 = true
          ∧ failsWith 0x402 ((issued s 0 (encodeTile strip) strip).storeAll 0 (record s 0 (encodeTile strip) strip)
            ((haloStrip ((s.core 0).treg 7) 3 1).mapIdx (fun n b =>
              haloRow 1 (rowAt (areg (s.core 0).live.a 0) 0 n (dataStride (s.core 0).live.a 15)) b))) = true) := by
  unfold Issues
  refine ⟨?_, of_done ?_, ?_, ?_, ?_⟩ <;> decide +kernel

/-- The device has joined the fabric and reaches device 9; context 1 exports job 7. -/
def joined (s : State) : State :=
  { s with nxp := { device := 3, epoch := 1, role := 1, ports := [(0, { state := 1 })], members := [(9, ⟨1, 0, 0, false⟩)] }
           ctxRegs := [(1, { job := 7, export_ := true })] }
def marked (kind count : Nat) (s : State) : State := { s with wmk := { binds := [(wkey 1 9, mark kind count)] } }
def waitI : TileInsn := .wait 9 0 0xFFFF
def sigI (n : Nat) : TileInsn := .sig 9 n false 0
/-- A binding of context 1 at device 9, and the state that it names. -/
def farMark : Binding := { mark 3 0 with target := 9 }
theorem witness_waitSignalAndFence :
    (let s := marked 1 0xFFFF (at_ waitI {});
      Issues s 0 (encodeTile waitI) waitI ∧ (s.core 0).task = some ⟨0, 0, 1, 3, true⟩
        ∧ s.home (wkey 1 9) = .here (wkey 1 9) (mark 1 0xFFFF) ∧ 0xFFFF ≤ (mark 1 0xFFFF).count)
      ∧ (let s := marked 1 0xFFFE (at_ waitI {});
        Issues s 0 (encodeTile waitI) waitI ∧ s.home (wkey 1 9) = .here (wkey 1 9) (mark 1 0xFFFE) ∧ (mark 1 0xFFFE).count < 0xFFFF)
      ∧ (let s := joined (marked 3 0 (at_ waitI {}));
        Issues s 0 (encodeTile waitI) waitI ∧ s.home (wkey 1 9) = .far (mark 3 0))
      ∧ (Issues (at_ waitI {}) 0 (encodeTile waitI) waitI ∧ (at_ waitI {}).home (wkey 1 9) = .unbound)
      ∧ (Issues (at_ (sigI 1) {}) 0 (encodeTile (sigI 1)) (sigI 1) ∧ (at_ (sigI 1) {}).home (wkey 1 9) = .unbound)
      ∧ Issues (at_ (sigI 0) {}) 0 (encodeTile (sigI 0)) (sigI 0)
      ∧ (let s := marked 1 0 (at_ (sigI 1) {});
        Issues s 0 (encodeTile (sigI 1)) (sigI 1) ∧ s.home (wkey 1 9) = .here (wkey 1 9) (mark 1 0))
      ∧ (let s := joined (marked 3 0 (at_ (sigI 1) {}));
        Issues s 0 (encodeTile (sigI 1)) (sigI 1) ∧ s.home (wkey 1 9) = .far (mark 3 0)
          ∧ (s.request (.wmk (.core 0) (wkey 1 9) none) (dieOfCluster 0) (keyCtx (wkey 1 9)) 4 (mark 3 0).device 8 (mark 3 0).remoteAddr
              false (toBytes 8 1)).2 = 0) := by
  unfold Issues; decide +kernel

def fenceI (loads : Bool) : TileInsn := .fence 2 loads
/-- A FENCE with a SIG of a far Waymark behind it. -/
def fusedState : State :=
  joined (marked 3 0 (tile [encodeTile (.fence 2 false), encodeTile (sigI 1)] {} { reqs := [{ unit := tmBase + 9 * 2 ^ 48, pa := 0, load := false, scope := 2, data := [1] }] }))
theorem witness_waitSignalAndFence_fence :
    (let s := at_ (fenceI false) {};
      Issues s 0 (encodeTile (fenceI false)) (fenceI false) ∧ s.fusable 0 2 false = none ∧ (s.core 0).ramb.stores 2 = 0)
      ∧ (let s := tile [encodeTile (fenceI true)] {} { lq := [⟨0, 0, 1, []⟩], reqs := [{ unit := 256, pa := 256, load := true }] };
        Issues s 0 (encodeTile (fenceI true)) (fenceI true) ∧ s.fusable 0 2 true = none ∧ (s.core 0).ramb.stores 2 = 0)
      ∧ (let s := tile [encodeTile (fenceI false)] {} { reqs := [{ unit := 256, pa := 256, load := false, scope := 2 }] };
        Issues s 0 (encodeTile (fenceI false)) (fenceI false) ∧ s.fusable 0 2 false = none ∧ (s.core 0).ramb.stores 2 ≠ 0)
      ∧ (let s := fusedState;
        Issues s 0 (encodeTile (fenceI false)) (fenceI false) ∧ s.fusable 0 2 false = some (wkey 1 9, 1) ∧ (s.core 0).ramb.stores 1 = 0
          ∧ (s.core 0).ramb.wq = [] ∧ (s.core 0).task = some ⟨0, 0, 1, 3, true⟩ ∧ s.binding (wkey 1 (keyId (wkey 1 9))) = some (mark 3 0)
          ∧ ((passed (passed s 0 id) 0 id).request (.wmk (.core 0) (wkey 1 9) none) (dieOfCluster 0) 1 3 (mark 3 0).device 0 0 false
              (toBytes 8 (mark 3 0).remoteAddr ++ toBytes 8 1)).2 = 0) := by
  unfold Issues; decide +kernel

theorem witness_illegalWordsAndUnusedRegisters :
    0x13 ≤ (0x13 : W64).toNat % 256 ∧ (tileFields (2 ^ 8)).isSome = true ∧ (tileFields (2 ^ 8)).map Prod.snd = some 8
      ∧ ((tile [0xFF] {} {}).issues 0 0xFF = true ∧ 0x13 ≤ (0xFF : W64).toNat % 256
        ∧ ((tile [0xFF] {} {}).core 0).task = some ⟨0, 0, 1, 3, true⟩)
      ∧ (Issues (at_ storeTile {}) 0 (encodeTile storeTile) storeTile ∧ (((at_ storeTile {}).core 0).treg 7).inUse = false) := by
  unfold Issues; decide +kernel

/-! ## Tasks, Rambler, crossings, DMA, Trailhead -/

/-- A graph of context 1 with one task. -/
def graph1 (desc : List Byte) (t : Task) : Graph :=
  { gen := 0, ctx := 1, tag := 0, fn := 0, cq := 0, addr := 0, desc := desc, order := 0, step := none, tasks := [(0, t)] }
def withGraph (t : Task) (s : State) : State := { s with trh := { s.trh with graphs := [(0, graph1 [] t)] } }
def task1 (hand : Bool) : CoreTask := ⟨0, 0, 1, 3, hand⟩
def coreOf (k : Core) (t : Task) : State := withGraph t { withCtx with cores := [(0, k)] }
def here (a : Nat) : Nat := 0x7FFF * 2 ^ 48 + a
/-- A descriptor of a vector of FP32 at a local offset of this device. -/
def vector (base n : Nat) : List Byte :=
  slice (toBytes 8 (0x7FFF * 2 ^ 48 + base) ++ toBytes 4 1 ++ toBytes 4 0x100 ++ toBytes 4 n) 0 128
/-- An operation block. -/
def block (op slot0 slot1 : Nat) : List Byte := slice (toBytes 32 op ++ toBytes 8 slot0 ++ toBytes 8 slot1) 0 384

def ended (l : Live) : State :=
  coreOf { seq := .issuing, task := some (task1 true), prog := [0], live := { l with pc := 1 } } { left := [0], cores := [0] }
def mappedEnd : State :=
  coreOf { seq := .issuing, task := some (task1 false) } { phase := .running, left := [0], cores := [0], op := block 8 0 0 }
/-- A row reduction of a row of 8,193 elements, whose second segment core 1 owns and, with `handed`, has handed to core 0. -/
def reducing (handed : List Nat) : State :=
  coreOf { seq := .issuing, task := some (task1 false) }
    { phase := .running, left := [0, 1], cores := [0, 1], op := block 5 1 1, handed := handed, units := [(0, [0]), (1, [1])]
      descs := [(1, vector 0x1000 8193)] }
/-- Whether a mapped task's core hands its partials on, and whether it then has every segment that it combines. -/
def handsOn (s : State) (ready : Bool) : Bool :=
  match s.handUnits 0 (task1 false) with
  | .ok v _ => decide ((v.jobOf 0 0).segmentsIn (v.taskOf 0 0) 0 = ready)
  | _ => false
/-- Whether the core then runs its units. -/
def runsOn (s : State) : Bool :=
  match s.handUnits 0 (task1 false) with
  | .ok v _ => isOk (v.runUnits 0 (task1 false))
  | _ => false
theorem witness_taskEndsOnCore :
    (((ended {}).core 0).task = some (task1 true) ∧ (ended {}).runs 0 = true ∧ ((ended {}).core 0).prog ≠ []
        ∧ ((ended {}).core 0).live.pc = ((ended {}).core 0).prog.length ∧ ((ended {}).core 0).live.pendings = []
        ∧ ((ended {}).core 0).live.carry = none)
      ∧ ((ended { carry := some ⟨0, 0, 0, 1, 1, []⟩ }).runs 0 = true
        ∧ ((ended { carry := some ⟨0, 0, 0, 1, 1, []⟩ }).core 0).live.carry ≠ none)
      ∧ ((mappedEnd.core 0).task = some (task1 false) ∧ mappedEnd.runs 0 = true ∧ (mappedEnd.taskOf 0 0).dmaLeft = []
        ∧ mappedEnd.blanketed 0 (task1 false) = true ∧ handsOn mappedEnd true = true ∧ runsOn mappedEnd = true)
      ∧ (let s := reducing [];
        (s.core 0).task = some (task1 false) ∧ s.runs 0 = true ∧ (s.taskOf 0 0).dmaLeft = [] ∧ s.blanketed 0 (task1 false) = true
          ∧ (s.jobOf 0 0).segments = 2 ∧ handsOn s false = true)
      ∧ handsOn (reducing [1]) true = true := by decide +kernel

def asked : State :=
  coreOf { seq := .issuing, task := some (task1 true), prog := [0] } { phase := .running, left := [0], cores := [0, 17], interruptReq := true }
/-- Every core whose state could still reach memory is quiet. -/
def allQuiet (s : State) : Bool :=
  (range 648).all (fun d => !(decide (d = 0) || (s.taskOf 0 0).cores.contains d) || (s.core d).quiet)
theorem quiet_of {s : State} (h : allQuiet s = true) (hc : ∀ d ∈ (s.taskOf 0 0).cores, d < 648) (d : Nat)
    (hd : d = 0 ∨ d ∈ (s.taskOf 0 0).cores) : (s.core d).quiet = true := by
  have hlt : d < 648 := hd.elim (fun e => by omega) (hc d)
  have := List.all_eq_true.mp h d (List.mem_range.mpr hlt)
  rcases hd with rfl | hd <;> simp_all
theorem witness_interruptAndResume :
    (Clocked asked ∧ asked.inService 0 = true ∧ (asked.core 0).task = some (task1 true)
      ∧ asked.graph 0 = some (graph1 [] (asked.taskOf 0 0)) ∧ (asked.taskOf 0 0).interruptReq = true ∧ 0 ∈ (asked.taskOf 0 0).left)
      ∧ ((asked.core 0).seq ≠ .faulted ∧ asked.ctx 1 = some someCtx ∧ mfind (asked.taskOf 0 0).saves 0 = none
        ∧ (range 64).any (fun n => (asked.core 0).accBad n (fun _ _ => true)) = false)
      ∧ (∀ d, (d = 0 ∨ d ∈ (asked.taskOf 0 0).cores) → (asked.core d).quiet = true)
      ∧ (∃ u, asked.write (agentOf 1) (someCtx.recordAt 0) (asked.recordBytes 0) = (u, none))
      ∧ ∀ d ∈ (asked.taskOf 0 0).left, d = 0 ∨ (mfind (asked.taskOf 0 0).saves d).isSome = true := by
  unfold Clocked
  refine ⟨?_, ?_, quiet_of ?_ ?_, of_wrote ?_, ?_⟩ <;> decide +kernel
/-- The same with the core's state saved already, as after an interruption before CORE_RESUME. -/
theorem witness_interruptAndResume_again :
    (mfind ((coreOf { seq := .issuing, task := some (task1 true) }
      { phase := .running, left := [0], cores := [0], interruptReq := true, saves := [(0, { pc := 5 })] }).taskOf 0 0).saves 0).isSome = true := by
  decide +kernel

/-- A core table whose only entry names a program of one word at offset 0. -/
def coreTable : List Byte := slice (toBytes 8 (0x7FFF * 2 ^ 48) ++ toBytes 2 1) 0 128
def resumable (saves : Map Live) : State :=
  coreOf { task := some (task1 true) } { phase := .running, left := [0], cores := [0], op := coreTable, saves := saves }
theorem witness_interruptAndResume_resume :
    (let s := resumable [];
      Clocked s ∧ s.inService 0 = true ∧ (s.core 0).task = some (task1 true) ∧ (s.core 0).seq = .idle ∧ s.ctx 1 = some someCtx
        ∧ someCtx.suspended = false ∧ (s.taskOf 0 0).interruptReq = false ∧ 0 ∈ (s.taskOf 0 0).left ∧ mfind (s.taskOf 0 0).saves 0 = none)
      ∧ (let x := (resumable []).taskOf 0 0
        let e := ctEntry x.op ((x.cores.findIdx? (· = 0)).getD 0)
        ∃ bs, (resumable []).readG ((resumable []).whoCore 0) (ctProgram e) (8 * ctLength e) = .data bs)
      ∧ (let l : Live := { pc := 1 }
        mfind ((resumable [(0, l)]).taskOf 0 0).saves 0 = some l ∧ l.pendings = []
          ∧ ∃ rec, (resumable [(0, l)]).read (agentOf 1) (someCtx.recordAt 0) l.recordSize = .data rec) := by
  unfold Clocked
  refine ⟨?_, of_gave ?_, ?_, ?_, of_gave ?_⟩ <;> decide +kernel

def ramblerAt (i : TileInsn) (ahead : Nat) : State :=
  withGraph {} (tile [encodeTile i] {} { stop := .stepping, ahead := ahead, cfgs := [(7, reg 1 1 1)] })
/-- The same with every entry of the load queue in use. -/
def noEntry : State :=
  (ramblerAt loadMem 63).modRamb 0 (fun m => { m with lq := List.replicate 384 ⟨0, 0, 1, []⟩ })
theorem witness_ramblerSteps :
    (let s := ramblerAt waitI 0;
      (Clocked s ∧ s.inService 0 = true ∧ s.interrupting 0 = false ∧ (s.core 0).task = some (task1 true) ∧ (s.core 0).seq ≠ .idle
        ∧ (s.core 0).seq ≠ .faulted ∧ (s.core 0).ramb.stop = .stepping ∧ (s.core 0).ramb.replay = [] ∧ (s.core 0).task.map CoreTask.hand = some true)
        ∧ (s.core 0).prog[(s.core 0).ramb.pc]? = some (encodeTile waitI) ∧ decodeTile (encodeTile waitI) = some (.wait 9 0 0xFFFF))
      ∧ (ramblerAt .nop 0).inService 0 = true ∧ decodeTile (encodeTile .nop) = some .nop
      ∧ decodeTile (encodeTile (fenceI true)) = some (.fence 2 true)
      ∧ decodeTile (encodeTile loadMem) = some (.tld 7 7 15 false false 15 0)
      ∧ (let s := ramblerAt loadMem 64; s.inService 0 = true ∧ (s.core 0).ramb.late = 0 ∧ 64 ≤ (s.core 0).ramb.ahead)
      ∧ (let s := ramblerAt loadMem 63;
        s.inService 0 = true ∧ (s.core 0).ramb.late = 0 ∧ (s.core 0).ramb.ahead < 64
          ∧ (let l := tldParts ⟨7, 15, false, false, 15, 0⟩ (s.core 0).ramb.a (mget {} (s.core 0).ramb.cfgs 7)
            l.length = 1 ∧ (s.prefetchAll 0 (s.whoCore 0) (l.drop (s.core 0).ramb.at_)).2 = 1))
      ∧ (let s := noEntry
        s.inService 0 = true ∧ (s.core 0).ramb.late = 0 ∧ (s.core 0).ramb.ahead < 64
          ∧ (let l := tldParts ⟨7, 15, false, false, 15, 0⟩ (s.core 0).ramb.a (mget {} (s.core 0).ramb.cfgs 7)
            (s.prefetchAll 0 (s.whoCore 0) (l.drop (s.core 0).ramb.at_)).2 < l.length)) := by
  unfold Clocked; decide +kernel

def asking (q : Req) (bad : List Nat) : State :=
  { coreOf { seq := .issuing, task := some (task1 true), ramb := { reqs := [q] } } {} with bad := bad }
def aRead : Req := { unit := 256, pa := 0x200100, load := true, mask := 15 }
def aStore : Req := { unit := 256, pa := 0x200101, load := false, data := [1, 2] }
theorem witness_memoryAnswersRequests :
    (let s := asking aRead [];
      Clocked s ∧ (s.core 0).ramb.reqs[0]? = some aRead ∧ aRead.st = .sent ∧ aRead.merged = false ∧ aRead.served = none ∧ (s.core 0).task = some (task1 true)
        ∧ s.unitBad (aRead.pa / 256 * 256) aRead.mask = false ∧ (asking aRead [0x200100]).unitBad (aRead.pa / 256 * 256) aRead.mask = true
        ∧ bit aRead.mask 0 = true)
      ∧ (let s := asking aStore [];
        (s.core 0).ramb.reqs[0]? = some aStore ∧ s.mergesBad aStore.pa aStore.data.length = false
          ∧ ∀ r ∈ (s.core 0).ramb.reqs.take 0, r.localStore = true → r.pa / 256 ≠ aStore.pa / 256) := by
  unfold Clocked; decide +kernel

/-- A command of context 1 that ring 0 of the PF has begun. -/
def aCmd : Cmd := packetCmd 0 0 (slice (toBytes 8 (7 * 2 ^ 32 + 2 ^ 16 + 3)) 0 64)
def begun1 : Begun := ⟨3, 7, false, slice (toBytes 8 (7 * 2 ^ 32 + 2 ^ 16 + 3)) 0 64, false⟩
/-- A device on which each kind of unit has issued a transfer. -/
def issuers : State :=
  { asked with
    evl := { recs := [(recKey 1 0x1000, { ctx := 1, bytes := [], index := 0, die := 0, owner := true })] }
    pci := { asked.pci with fns := [(0, { cr := [(0, { begun := [begun1] })] })] }
    ctxs := [(1, { someCtx with ckpt := some ⟨3, 1, 0, none, false, []⟩ })] }
theorem witness_crossingTimeoutIsRecorded :
    Clocked issuers ∧ (issuers.core 0).task = some (task1 true) ∧ (issuers.core 0).live.pendings[0]? = none
      ∧ (((coreOf { task := some (task1 true), live := { pendings := [⟨4, 2, [], [], 0⟩] } } {}).core 0).live.pendings[0]?).isSome = true
      ∧ (coreOf {} { phase := .running }).going 0 0 = true ∧ (issuers.record 1 0x1000).isSome = true
      ∧ (issuers.ctx 1).map (fun c => c.ckpt.map (fun k => bit k.left 0)) = some (some true)
      ∧ engineOf 0 = 0 ∧ (issuers.taskOf 0 0).phase = .running
      ∧ ((issuers.fnOf aCmd.fn).crOf aCmd.ring).begun.find? (fun b => decide (packetCmd aCmd.fn aCmd.ring b.packet = aCmd) && !b.acted)
        = some begun1
      ∧ issuers.fnExists 0 = true ∧ issuers.crossingShut (crossingInto 35) = false ∧ ready.crossingShut 0xFFFFFF = true := by
  unfold Clocked; decide +kernel

def linked (k : PLink) (l : Nat) : State := { ready with sys := { ready.sys with links := [(l, k)] } }
/-- The log holds link 3's error as entry 0. -/
def linkLogged : State :=
  { ready with sys := { ready.sys with log := { entries := [(0, ⟨0, eventCode 4, 4, 0, 1, Config.eventDetail 4 3, 1⟩)], wr := 1 } } }
theorem witness_packageLinksRetrain :
    Clocked ready ∧ (ready.plink 3).state = .up ∧ (((linked { fails := 8 } 0).plink 0).state = .up ∧ 8 ≤ ((linked { fails := 8 } 0).plink 0).fails)
      ∧ ((linked { state := .training, retrains := 3 } 1).plink 1).state = .training
      ∧ 3 ≤ ((linked { state := .training, retrains := 3 } 1).plink 1).retrains
      ∧ ((linked { state := .training, retrains := 3 } 2).plink 2).state = .training := by unfold Clocked; decide +kernel
/-- An entry that no error merges with, and one of the same error within a second. -/
theorem witness_packageLinksRetrain_log (p : Nat × ErrEntry → Bool) :
    ready.sys.log.entries.find? p = none
      ∧ linkLogged.sys.log.entries.find? (fun k => decide (k.2.code = eventCode 4 ∧ k.2.kind = 4 ∧ k.2.source = 1
        ∧ k.2.detail = Config.eventDetail 4 3 ∧ 0 ≤ k.2.time + 1000000000)) = linkLogged.sys.log.entries[0]? :=
  ⟨rfl, by simp [linkLogged]⟩

/-- A list that names coordinate 0 of dimension 0 once. -/
def list1 : List Byte := slice (toBytes 8 (0x7FFF * 2 ^ 48 + 0x3000) ++ toBytes 4 1 ++ toBytes 4 1 ++ toBytes 4 1) 0 64
def moving (op : Nat) : State :=
  withGraph { phase := .running, cores := [0], op := block op 1 1, dmaLeft := [0], units := [(0, [0])]
              descs := [(0, vector 0x1000 1), (1, vector 0x2000 1), (2, list1)] } withCtx
def stagedCopy : State :=
  let s := withGraph { phase := .running, cores := [0], op := block 0xA (here 0x1000) (here 0x1000), dmaLeft := [0, 1], units := [(0, [0, 1])]
                       descs := [(0, vector 0x1000 2), (1, vector 0x1004 2)] } withCtx
  { s with clusters := [(0, { staging := some (0, 0, 5) })] }
theorem witness_dmaUnitsComplete :
    (let s := moving 0xA; let j := s.jobOf 0 0; let t := s.taskOf 0 0
      s.going 0 0 = true ∧ (s.cluster 0).mode = .service ∧ s.retired 0 = false ∧ s.readsLost 0 0 j.b = false ∧ j.op = 0xA
        ∧ s.copyStaged j.b j.m = false ∧ 0 ∈ t.dmaLeft ∧ clusterOf (unitCore t.units 0) = 0)
      ∧ (∃ u, permuteUnit (moving 0xA) ((moving 0xA).jobOf 0 0) 0 0 = .ok u ())
      ∧ (let s := stagedCopy; let j := s.jobOf 0 0; let t := s.taskOf 0 0
        s.going 0 0 = true ∧ j.op = 0xA ∧ s.copyStaged j.b j.m = true ∧ 0 ∈ t.dmaLeft ∧ t.dmaLeft.headD 0 = 0
          ∧ (s.cluster 0).staging = some (0, 0, 5))
      ∧ (∃ u, permuteUnit stagedCopy (stagedCopy.jobOf 0 0) 0 0 = .ok u ())
      ∧ (let s := moving 8; let j := s.jobOf 0 0; s.going 0 0 = true ∧ j.op = 8 ∧ s.copyStaged j.b j.m = false)
      ∧ (∃ u, gatherUnit (moving 8) ((moving 8).jobOf 0 0) 0 0 = .ok u ())
      ∧ (let s := moving 9; let j := s.jobOf 0 0; let t := s.taskOf 0 0
        s.going 0 0 = true ∧ j.op = 9 ∧ s.copyStaged j.b j.m = false ∧ (∃ e ∈ namers s j 0, e.1 ∈ t.dmaLeft)
          ∧ clusterOf (nth 0 t.cores (0 % max 1 t.cores.length)) = 0)
      ∧ ∃ u, scatterUnit (moving 9) ((moving 9).jobOf 0 0) 0 0 (namers (moving 9) ((moving 9).jobOf 0 0) 0) = .ok u () := by
  refine ⟨?_, of_ok ?_, ?_, of_ok ?_, ?_, of_ok ?_, ?_, of_ok ?_⟩ <;> decide +kernel


/-- A channel's task: a product with REUSE 1 on two cores of cluster 0. -/
def sharing : State :=
  withGraph { phase := .running, cores := [0, 1], widths := [32, 32], left := [0, 1], op := block (1 + 2 ^ 16) 1 1, units := [(0, [0]), (1, [1])]
              descs := [(0, vector 0x2000 2), (1, vector 0x3000 2), (2, vector 0x1000 2)] } withCtx
/-- A layer header at offset 0, whose stash lies in HBM at 0x200000, and the record of layer 0, whose FWD range is task 0. -/
def layerTable : List Byte :=
  slice (toBytes 4 1 ++ toBytes 12 0 ++ toBytes 8 0x200000 ++ toBytes 8 0x200000) 0 64 ++ slice (toBytes 24 1 ++ toBytes 8 (2 ^ 32)) 0 64
def stashDesc : List Byte := slice (toBytes 32 0 ++ toBytes 8 0 ++ toBytes 8 0x40) 0 128
def filling : State :=
  let t : Task := { phase := .running, copy := slice (toBytes 4 16) 0 128, descs := [(51, vector 0x1000 1)] }
  let s := withCtx.put 0x200040 layerTable
  let g : Graph := { graph1 (slice (toBytes 32 0 ++ toBytes 8 (here 0x40)) 0 128) t with
    stash := [⟨0, 0, [(2, 0)], false, false⟩], areas := some (0, 0), header := slice layerTable 0 64 }
  { s with trh := { s.trh with graphs := [(0, g)] } }
def fillSrc : Src := ⟨(filling.jobOf 0 0).m.desc 51, (filling.jobOf 0 0).m.at_ 52, none⟩
def fillGraph : Graph := (filling.graph 0).getD (graph1 [] {})
/-- The next chunk of channel 0 of `sharing`. -/
def sharedChunk : NextChunk := ⟨0, 0, 2, [0, 1], 0, [0, 1], false⟩
theorem witness_chunksAndStashCopies :
    (let s := sharing; let q := s.cluster 0; let t := s.taskOf 0 0; let j := s.jobOf 0 0
      q.mode = .service ∧ s.retired 0 = false ∧ s.going 0 0 = true ∧ (∃ c ∈ t.cores, clusterOf c = 0)
        ∧ (j.channels t 0)[0]? = some (2, [0, 1]) ∧ (∀ h ∈ q.chunks, h.channel = 0 → h.data ≠ [])
        ∧ ([0, 1] : List Nat).filter (fun c => t.left.contains c && decide (16384 * 0 < rangeBytes (j.stream s t c 2))) ≠ []
        ∧ s.nextChunk 0 0 0 0 = some sharedChunk ∧ q.slotFor 0 sharedChunk = some 0)
      ∧ (∃ u, dmaLoad sharing (sharing.jobOf 0 0) 0 ((sharing.jobOf 0 0).chunkRanges sharing (sharing.taskOf 0 0) [0, 1] 2 0) = .ok u ())
      ∧ (let s := withCtx;
        (s.trh.graphs.flatMap (fun (e : Nat × Graph) => e.2.tasks.map (fun t => (e.1, t.1)))).findSome?
          (fun e => s.nextChunk 0 0 e.1 e.2) = none)
      ∧ (let s := filling; s.graph 0 = some fillGraph ∧ s.stashFill 0 0 = some ⟨0, 0, [(2, 0)], false, false⟩ ∧ s.going 0 0 = true
          ∧ (s.taskOf 0 0).left = [] ∧ (s.taskOf 0 0).dmaLeft = [] ∧ fillSrc.badRow s (s.jobOf 0 0).who (range (dsRows fillSrc.d)) = none)
      ∧ ∃ u v, Res.each (fun s (e : Nat × List Byte) => stashWrite s (filling.jobOf 0 0) e.1 e.2)
          (([(2, 0)].map (granuleAt fillGraph)).zip (chunks 65536 (fillSrc.dense filling 1))) filling = .ok u v := by
  refine ⟨?_, of_ok ?_, ?_, ?_, of_isOk ?_⟩ <;> decide +kernel

/-- A mapped task that copies a vector on one core: task descriptor, operation block and descriptors in HBM. -/
def copyTask : List Byte := slice (toBytes 8 0 ++ toBytes 8 (here 0x4000) ++ toBytes 8 0 ++ toBytes 4 1) 0 128
def dispatchable : State :=
  let s := withCtx.put 0x204000 (block 0xA (here 0x5000) (here 0x5080))
  let s := s.put 0x205000 (vector 0x6000 8 ++ vector 0x7000 8)
  withGraph { phase := .window, copy := copyTask } { s with trh := { rr := 0 } }
def interrupted : State :=
  withGraph { phase := .interrupted, copy := copyTask, cores := [0], widths := [32], left := [0] } withCtx
def first : Cand := ⟨0, 0, [1, 3, 0, 0]⟩
def firstResumed : Cand := ⟨0, 0, [0, 3, 0, 0]⟩
/-- The state in which task 0's checks run: its graph's areas taken where they can be. -/
def besideOf (s : State) (x : Graph) : State :=
  match s.takeAreas 0 x with
  | .ok (some u) => u
  | _ => s
/-- What the checks of task 0 answer. -/
def checkedOf (s : State) (x : Graph) : Ld Loaded := (besideOf s x).loadChecks 0 x 0 ((s.freeCores x 0 0).take (s.coresWanted x 0))
/-- Task 0 of a graph passes its checks and has its areas, its cores and its reservations. -/
def starts (s : State) (x : Graph) : Bool :=
  match checkedOf s x with
  | .ok l => match s.takeAreas 0 x with
    | .ok (some s1) => match s1.placeFor 0 0 x l, s1.updateChecks x with
      | some _, .ok s2 => decide ((s2.reserve 0 0 l.m).2 = 0)
      | _, _ => false
    | _ => false
  | .error _ => false
theorem of_starts {s : State} {x : Graph} (h : starts s x = true) :
    ∃ l s1 p s2 s3, checkedOf s x = .ok l ∧ s.takeAreas 0 x = .ok (some s1)
      ∧ s1.placeFor 0 0 x l = some p ∧ s1.updateChecks x = .ok s2 ∧ s2.reserve 0 0 l.m = (s3, 0) := by
  unfold starts at h
  repeat' split at h
  all_goals first
    | exact ⟨_, _, _, _, _, by assumption, by assumption, by assumption, by assumption, Prod.ext rfl (by simpa using h)⟩
    | cases h
/-- It passes its checks and lacks room, and with the copies kept no context has a task to dispatch but its own. -/
def lacksRoom (s : State) (x : Graph) : Bool :=
  match checkedOf s x, s.takeAreas 0 x with
  | .ok l, .ok (some u) =>
    (u.placeFor 0 0 x l).isNone
      && (range 64).all (fun y => ((s.keepLoaded 0 0 l).candidates y).isEmpty || decide (y = (s.trh.rr + 1) % 64))
  | _, _ => false
/-- It passes its checks, and its graph's layer table cannot be read. -/
def areasFail (s : State) (x : Graph) : Bool :=
  match checkedOf s x, s.takeAreas 0 x with
  | .ok _, .error _ => true
  | _, _ => false
/-- Every core of the only cluster that is not retired runs another task. -/
def crowded : State :=
  { dispatchable with repair := { dispatchable.repair with retired := 2 ^ 36 - 2 }
                      cores := (range 18).map (fun c => (c, { task := some ⟨5, 0, 2, 3, true⟩ })) }
/-- Graph 0's layer table stands in a page that context 1 may not read. -/
def barred : State :=
  { dispatchable with
    ctxs := [(1, { someCtx with pages := someCtx.pages ++ [⟨0x400000, 0x600000, 1, 1, 0⟩] })]
    trh := { dispatchable.trh with graphs := [(0, graph1 (slice (toBytes 32 0 ++ toBytes 8 (here 0x400000)) 0 128) (dispatchable.taskOf 0 0))] } }
/-- Layer 0 is held and its RCP range is task 0, which has the given control word and signal. -/
def sparing (control signal : Nat) : State :=
  let rcp : List Byte := slice (toBytes 4 1 ++ toBytes 60 0) 0 64 ++ slice (toBytes 32 0 ++ toBytes 8 (2 ^ 32)) 0 64
  let t : Task := { phase := .window, copy := slice (toBytes 88 control ++ toBytes 8 signal) 0 128 }
  { withCtx.put 0x200040 rcp with
    trh := { graphs := [(0, { graph1 (slice (toBytes 16 0x100000000 ++ toBytes 16 0 ++ toBytes 8 (here 0x40)) 0 128) t with
      stash := [⟨0, 0, [], false, false⟩] })] } }
/-- What the checks of a spared task 0 answer. -/
def sparedCheck (s : State) : Bool × Bool :=
  let x := (s.graph 0).getD (graph1 [] {})
  (s.spared x 0, match s.dispatchChecks (s.loader x 0 []) x 0 with | .ok _ => true | .error _ => false)
/-- A task that names no core, which its checks reject; a ready task that needs a structure that is not mapped. -/
def coreless : State := withGraph { phase := .window, copy := slice copyTask 0 24 ++ List.replicate 104 0 } dispatchable
def needy : State :=
  let t : Task := { phase := .window, copy := slice (toBytes 4 16) 0 128 }
  { withCtx with trh := { graphs := [(0, graph1 (slice (toBytes 32 0 ++ toBytes 8 (here 0x40000000)) 0 128) t)] } }
theorem witness_dispatchStartsTheFirstTask :
    (readyMiss ready = none ∧ ∀ x < 64, ready.candidates x = [])
      ∧ readyMiss needy = some (1, 0x40000000)
      ∧ (let s := interrupted; let x := graph1 [] (s.taskOf 0 0); let t := x.task 0
        Clocked s ∧ readyMiss s = none ∧ s.candidates ((s.trh.rr + 1 + 0) % 64) = [firstResumed] ∧ s.graph 0 = some x
          ∧ t.phase = .interrupted
          ∧ (∀ k ∈ t.cores, s.inService k = true ∧ (s.core k).task = none ∧ s.reservedBy x.ctx 0 0 k = false)
          ∧ s.grantsClash x.ctx t.grants = false ∧ s.widthsOk t = true)
      ∧ (let s := dispatchable; let x := graph1 [] (s.taskOf 0 0)
        readyMiss s = none ∧ s.candidates ((s.trh.rr + 1 + 0) % 64) = [first] ∧ s.graph 0 = some x ∧ (x.task 0).phase ≠ .interrupted
          ∧ s.spared x 0 = false)
      ∧ (∃ l s1 p s2 s3, checkedOf dispatchable (graph1 [] (dispatchable.taskOf 0 0)) = .ok l
          ∧ dispatchable.takeAreas 0 (graph1 [] (dispatchable.taskOf 0 0)) = .ok (some s1)
          ∧ s1.placeFor 0 0 (graph1 [] (dispatchable.taskOf 0 0)) l = some p
          ∧ s1.updateChecks (graph1 [] (dispatchable.taskOf 0 0)) = .ok s2 ∧ s2.reserve 0 0 l.m = (s3, 0))
      ∧ (let s := coreless; let x := graph1 [] (s.taskOf 0 0)
        s.candidates ((s.trh.rr + 1 + 0) % 64) = [first] ∧ s.spared x 0 = false
          ∧ (match checkedOf s x with
            | .error (.code 0x204) => true
            | _ => false) = true)
      ∧ (let s := crowded; let x := graph1 [] (s.taskOf 0 0)
        readyMiss s = none ∧ s.candidates ((s.trh.rr + 1 + 0) % 64) = [first] ∧ s.graph 0 = some x ∧ s.spared x 0 = false
          ∧ lacksRoom s x = true)
      ∧ (let s := barred; let x := (s.graph 0).getD (graph1 [] {})
        readyMiss s = none ∧ s.candidates ((s.trh.rr + 1 + 0) % 64) = [first] ∧ s.spared x 0 = false ∧ areasFail s x = true)
      ∧ (readyMiss (sparing 18 0) = none ∧ (sparing 18 0).candidates (((sparing 18 0).trh.rr + 1 + 0) % 64) = [first]
        ∧ sparedCheck (sparing 18 0) = (true, true) ∧ sparedCheck (sparing (18 + 2 ^ 9) (9 + 2 ^ 32)) = (true, false)) := by
  unfold Clocked
  refine ⟨?_, ?_, ?_, ?_, of_starts ?_, ?_, ?_, ?_, ?_⟩ <;> decide +kernel


/-! ## Waymarks, preemption and the parameter update -/

/-- Context 1's interrupted task lacks core 0, which a task of context 2, of lower priority, holds. -/
def lacking : State :=
  let g0 := graph1 [] { phase := .interrupted, copy := copyTask, cores := [0], widths := [32], left := [0] }
  let g1 : Graph := { graph1 [] { phase := .running, cores := [0], left := [0] } with ctx := 2 }
  { withCtx with ctxs := [(1, someCtx), (2, { someCtx with prio := 0 })], cores := [(0, { task := some ⟨1, 0, 2, 3, true⟩ })]
                 trh := { graphs := [(0, g0), (1, g1)] } }
theorem witness_reservationAndPreemption :
    (Clocked dispatchable ∧ dispatchable.candidates 1 = [first] ∧ (1, 0, 0) ∉ dispatchable.trh.reserved)
      ∧ (let s := { dispatchable with trh := { dispatchable.trh with reserved := [(1, 0, 0)] } };
        s.candidates 1 = [first] ∧ (1, 0, 0) ∈ s.trh.reserved)
      ∧ (let s := lacking; let want (c : Cand) := (s.needs c).1
        let free (c : Cand) := ((want c).filter (fun k => decide ((s.core k).task = none))).length
        Clocked s ∧ (s.candidates 1).find? (fun c => decide (free c < (s.needs c).2)) = some firstResumed
          ∧ s.victims (((s.ctx 1).map Ctx.prio).getD 0) = [⟨1, 0, [0, 2 ^ 64 - 0]⟩]
          ∧ (∃ k ∈ (s.taskOf 1 0).cores, k ∈ want firstResumed) ∧ (s.taskOf 1 0).left ≠ []) := by
  unfold Clocked; decide +kernel

/-- A running task whose descriptor names two signals, on Waymark 9, with the greatest and the least increment. -/
def signalling : State :=
  marked 1 (2 ^ 64 - 1) (coreOf { task := some (task1 true) }
    { phase := .running, cores := [0], copy := slice (toBytes 88 (2 * 2 ^ 9) ++ toBytes 8 (9 + (2 ^ 32 - 1) * 2 ^ 32) ++ toBytes 8 (9 + 2 ^ 32)) 0 128 })
theorem witness_taskCompletionSignals :
    let s := signalling; let x := graph1 [] (s.taskOf 0 0); let t := x.task 0
    Clocked s ∧ s.graph 0 = some x ∧ t.phase = .running ∧ t.left = [] ∧ t.dmaLeft = [] ∧ t.failing = 0
      ∧ s.writesDone 0 0 = true ∧ s.fillMiss 0 0 = none ∧ s.stashFill 0 0 = none ∧ s.countMiss 0 0 = none
      ∧ (0 ∈ t.cores ∧ (s.core 0).task = some (task1 true))
      ∧ min 2 (tdNsig (s.taskDesc x 0)) = 2 ∧ tdSignal (s.taskDesc x 0) 0 = (9, 2 ^ 32 - 1) ∧ tdSignal (s.taskDesc x 0) 1 = (9, 1)
      ∧ s.home (wkey 1 9) = .here (wkey 1 9) (mark 1 (2 ^ 64 - 1)) := by
  unfold Clocked; decide +kernel

def counting (adds : List Add) (w : Wait) (b : Binding) : State :=
  let s := coreOf { seq := .atWait, task := some (task1 true) } {}
  { s with wmk := { binds := [(wkey 1 9, b)], adds := adds, waits := [w] } }
def waiter (how : WaitHow) (threshold : Nat) : Wait := ⟨wkey 1 9, threshold, .core 0, how, false⟩
def addOf (src : Agent) : Add := ⟨src, wkey 1 9, 1, none⟩
theorem witness_waymarksCountAndRelease :
    (let s := counting [addOf .trailhead] (waiter .home (2 ^ 64 - 1)) (mark 1 (2 ^ 64 - 1));
      Clocked s ∧ s.wmk.adds[0]? = some (addOf .trailhead) ∧ s.addFirst 0 (addOf .trailhead) = true
        ∧ s.home (wkey 1 9) = .here (wkey 1 9) (mark 1 (2 ^ 64 - 1))
        ∧ (waiter .home (2 ^ 64 - 1) ∈ s.wmk.waits) ∧ 2 ^ 64 - 1 ≤ min ((2 ^ 64 - 1) + 1) (2 ^ 64 - 1))
      ∧ (let s := counting [addOf (.core 0), addOf (.core 0)] (waiter .home 1) (mark 1 0);
        s.wmk.adds[1]? = some (addOf (.core 0)) ∧ s.addFirst 1 (addOf (.core 0)) = false)
      ∧ (∀ count : Fin 3, let s := counting [] (waiter .poll 1) (mark 1 count);
        s.wmk.waits[0]? = some (waiter .poll 1) ∧ s.home (wkey 1 9) = .here (wkey 1 9) (mark 1 count))
      ∧ (counting [] (waiter .poll 1) (mark 3 0)).home (wkey 1 9) = .far (mark 3 0)
      ∧ (counting [] (waiter .poll 1) { mark 3 0 with target := 0x7FFF }).home (wkey 1 9) = .refused := by
  unfold Clocked; decide +kernel

/-- A record of a weight of one FP32 element in a group of `r + 1` devices, whose entry is group 5's; its Waymarks are 10 to 16. -/
def recordBytes (r owner : Nat) : List Byte :=
  slice ([0x400, 0x500, 0x600, 0x700, 0x800, 0, 0, 0].flatMap (fun o => toBytes 8 (here o)) ++ toBytes 4 5 ++ toBytes 2 0x7FFF
    ++ toBytes 2 r ++ toBytes 4 owner ++ toBytes 4 0 ++ toBytes 4 1
    ++ ([10, 11, 12, 13, 14, 15, 16] : List Nat).flatMap (fun i => toBytes 4 i)) 0 128
/-- A version record whose slot 0 is valid with tag 3 and whose slot 1 is free once Waymark 18 reaches 1. -/
def versionBytes : List Byte :=
  slice (toBytes 8 (here 0x1000) ++ toBytes 8 (here 0x2000) ++ toBytes 4 3 ++ toBytes 4 2 ++ toBytes 8 1 ++ toBytes 4 17 ++ toBytes 4 18
    ++ toBytes 8 0 ++ toBytes 8 1) 0 64
/-- The record lies at 0x400 of context 1; the held generation of step 3 gives group 5 the entry `e`. -/
def updating (e : List Nat) (r : Rec) (count : Nat) : State :=
  let s := (ready.put 0x200400 versionBytes).put 0x200500 (vector 0x1000 1)
  { s.put 0x200600 (vector 0x3000 1) with
    ctxs := [(1, { someCtx with gens := [⟨3, [(5, e)]⟩] })]
    wmk := { binds := (range 9).map (fun k => (wkey 1 (10 + k), mark 1 count)) }
    evl := { recs := [(recKey 1 (here 0x400), r)] } }
def rec1 (r owner : Nat) (own : Bool) : Rec := { ctx := 1, bytes := recordBytes r owner, index := 0, die := 2, owner := own }
/-- An entry that is valid, of rule 0. -/
def entry0 : List Nat := 4 :: List.replicate 15 0
def place : Nat := here 0x400

/-- Memory's word at 0x201000 is uncorrectable. -/
def spoiled : State := { withCtx with bad := [0x201000] }
theorem witness_contributionsAreSummed_bad :
    spoiled.metBad 1 [(here 0x1020, 4)] = none ∧ spoiled.bad ≠ [] ∧ spoiled.metBad 1 [(here 0x1000, 4)] = some 0x201000
      ∧ withCtx.bad = [] := by decide +kernel
theorem witness_contributionsAreSummed :
    (let r := rec1 0 0 true; let s := updating entry0 r 1; ∀ w ∈ s.waitsOf 1 r, w.1 = 0 → w.2.2 ≤ s.countHere 1 w.2.1)
      ∧ (∀ own : Bool, let r := rec1 0 0 own; let s := updating entry0 r 1; let b := r.bytes
        Clocked s ∧ s.record 1 place = some r ∧ r.failed = false
          ∧ prInc b * (r.sent / max 1 (chunkCount (s.weightOf 1 b) (prSparse b)) + 1) ≤ s.countHere 1 (prMark b 0)
          ∧ r.sent * prR b + s.rankOf b + 1 ≤ s.countHere 1 (prMark b 1))
      ∧ (let r := rec1 0 0 true; let s := updating entry0 r 1; let b := r.bytes
        r.phase = .taking ∧ r.discard = false ∧ prSparse b = false ∧ r.taken < (r.rounds + 1) * chunkCount (s.weightOf 1 b) false * prR b
          ∧ r.taken / prSlots b + 1 ≤ s.countHere 1 (prMark b 2 + r.taken % prSlots b))
      ∧ (let r := rec1 0 0 true; let s := updating entry0 r 0; s.record 1 place = some r ∧ s.dieMet 1 r 0 = false) := by
  unfold Clocked; decide +kernel

theorem witness_updatesAcquireAndCompute :
    (∀ valid : Bool, let r := { rec1 0 0 true with taken := 1 }
      let s := updating (if valid then entry0 else List.replicate 16 0) r 1
      Clocked s ∧ s.record 1 place = some r ∧ prVersion r.bytes = place ∧ r.failed = false ∧ r.owner = true ∧ r.unapplied = false
        ∧ r.phase = .taking ∧ r.taken = (r.rounds + 1) * chunkCount (s.weightOf 1 r.bytes) (prSparse r.bytes) * prR r.bytes
        ∧ ((s.updOf 1 place r).map (fun u => (u.e, u.new_, decide (vrAcq u.v u.new_ ≤ s.countHere 1 (vrMark u.v u.new_))))
            = some (if valid then entry0 else List.replicate 16 0, 1, true))
        ∧ (prR r.bytes - 1) * (r.published - 1) ≤ s.countHere 1 (prMark r.bytes 4))
      ∧ (let r := { rec1 0 0 true with taken := 1 }; let s := updating entry0 r 0
        (s.updOf 1 place r).map (fun u => geValid u.e) = some true ∧ s.dieMet 1 r 7 = false)
      ∧ (let r := { rec1 0 0 true with phase := .phaseB, layers := 1 }
        let s := updating entry0 r 1
        s.record 1 place = some r ∧ r.layers ≤ s.countHere 1 (prMark r.bytes 6) ∧ (s.updOf 1 place r).isSome = true) := by
  unfold Clocked; decide +kernel

/-- A task of the window that waits for version 4 of the record at `place`. -/
def stalling : State :=
  withGraph { phase := .window, version := some (place, 5) } (updating entry0 (rec1 0 0 true) 0)
theorem witness_commitsPullsAndStalls :
    (∀ verdict ∈ [none, some false, some true], let r := { rec1 0 0 true with phase := .computed, step := 3, verdict := verdict }
      let s := updating entry0 r 1
      Clocked s ∧ s.bad = [] ∧ s.record 1 place = some r ∧ prVersion r.bytes = place ∧ r.failed = false ∧ r.owner = true
        ∧ (∀ q ∈ s.groupRecs 1 (prGroup r.bytes), q.finishedFor r.step = true)
        ∧ (((if r.verdict.isNone then s.judge 1 (prGroup r.bytes) r.step else s).updOf 1 place r).isSome = true))
      ∧ (let r := rec1 1 1 false
        let s := updating entry0 r 1; let v := s.peek 1 place 64
        s.record 1 place = some r ∧ prVersion r.bytes = place ∧ r.owner = false ∧ r.pulled + 1 ≤ s.countHere 1 (prMark r.bytes 3)
          ∧ (vrHolds v 3).isSome = true ∧ vrHolds v 4 = none ∧ vrAcq v (vrNext v) ≤ s.countHere 1 (vrMark v (vrNext v))
)
      ∧ (let r := rec1 1 1 false
        let s := updating entry0 r 1; let v := s.peek 1 place 64
        ((⟨1, r, s.weightOf 1 r.bytes, v, [], 4, 1 - vrNext v, vrNext v, 0⟩ : Upd).pulls ⟨4, here 0x1000, 0⟩).length = 1)
      ∧ (let r := { rec1 1 1 false with pulling := some 4, slot := 1 }
        let s := updating entry0 r 1
        s.record 1 place = some r ∧ r.pulling = some 4 ∧ s.pullsOut 1 place = false)
      ∧ (let r := { rec1 1 1 false with pulling := some 4, slot := 1 }
        let s := { updating entry0 r 1 with nxp := { ops := [⟨⟨0, 5, 0, 3, 9, 1, 0, 4, 7, 24, 0, false, []⟩, .record (recKey 1 place), 0, true, 0, false⟩] } }
        s.record 1 place = some r ∧ s.pullsOut 1 place = true)
      ∧ (updating entry0 (rec1 1 1 false) 0).dieMet 1 (rec1 1 1 false) 3 = false
      ∧ (let r := { rec1 0 0 true with taken := 1 }; let s := updating entry0 r 0
        s.record 1 (BitVec.ofNat 64 place).toNat = some r ∧ r.stalled = false
          ∧ r.taken = (r.rounds + 1) * chunkCount (s.weightOf 1 r.bytes) (prSparse r.bytes) * prR r.bytes)
      ∧ (let r := { rec1 1 1 false with pulled := 1 }
        let s := { updating entry0 r 2 with wmk := { (updating entry0 r 2).wmk with binds := [(wkey 1 13, mark 1 2)] } }
        s.record 1 place = some r ∧ r.owner = false ∧ s.dieMet 1 r 3 = true ∧ s.dieMet 1 r 7 = false)
      ∧ ({ rec1 0 0 true with stalled := true } : Rec).stalled = true
      ∧ (let s := stalling; let t := s.taskOf 0 0
        t.version = some (place, 5) ∧ t.counted = false ∧ t.stalled = false ∧ t.phase = .window
          ∧ vrFuture (s.peek 1 place 64) 5 = true) := by
  unfold Clocked; decide +kernel

/-! ## Host commands -/

def withRings (c : CRing) (q : CQueue) (s : State) : State := { s with pci := { s.pci with fns := [(0, { cr := [(0, c)], cq := [(0, q)] })] } }
/-- A ring of 16 slots in HBM with one packet at its last slot. -/
def ringAt (log2 : Nat) : CRing := { enable := true, loc := false, log2 := log2, base := 0, head := 15, tail := 0 }
/-- A packet: opcode, flags, context, length, tag, parameters. -/
def packetBytes (op flags x n tag : Nat) (ps : List Byte) : List Byte :=
  slice ([BitVec.ofNat 8 op, BitVec.ofNat 8 flags, BitVec.ofNat 8 x, BitVec.ofNat 8 n] ++ toBytes 4 tag ++ ps) 0 64
/-- A context number's command that ring 0 of function 0 has begun, with its parameters. -/
def begunAs (op x : Nat) (ps : List Byte) (s : State) : State :=
  withRings { enable := true, log2 := 4, begun := [⟨op, 7, false, packetBytes op 0 x 0 7 ps, false⟩] } { enable := true, log2 := 4 } s
def withMsix (q : CQueue) (on mask : Bool) : State :=
  { ready with pci := { ready.pci with fns := [(0, { cq := [(0, q)], msixOn := on, msixMask := mask })] } }
theorem witness_ringsDoorbellsAndPackets :
    (let s := withRings (ringAt 4) { enable := true, log2 := 4 } ready; let c := (s.fnOf 0).crOf 0; let q := (s.fnOf 0).cqOf 0
      Clocked s ∧ s.fnExists 0 = true ∧ s.fnExists 1 = false ∧ (c.enable = true ∧ (15 : W64).toNat < 2 ^ c.log2)
        ∧ ¬ (c.enable = true ∧ (16 : W64).toNat < 2 ^ c.log2)
        ∧ (q.enable = true ∧ (15 : W64).toNat < 2 ^ q.log2 ∧ q.held = [] ∧ q.lost = 0) ∧ ¬ (q.enable = true ∧ (16 : W64).toNat < 2 ^ q.log2)
        ∧ c.error = false ∧ c.head ≠ c.tail ∧ s.nextPacket c none = none)
      ∧ (∀ on : Bool, let s := withMsix { unsignalled := 1 } on false;
        ((s.fnOf 0).cqOf 0).unsignalled ≠ 0 ∧ (s.fnOf 0).msixOn = on ∧ bit (fromBytes (mread 0 (s.fnOf 0).msix 12 4)) 0 = true)
      ∧ (let s := withMsix { unsignalled := 1, vector := 4 } true false;
        (s.fnOf 0).msixMask = false ∧ bit (fromBytes (mread 0 (s.fnOf 0).msix (16 * 4 + 12) 4)) 0 = false)
      ∧ ((withMsix { unsignalled := 1 } true true).fnOf 0).msixMask = true
      ∧ (let s := withRings (ringAt 4) {} ready; let c := (s.fnOf 0).crOf 0
        let good := packetBytes 0x38 2 0 4 7 []; let bad := packetBytes 0x3F 0 0 0 7 []
        s.nextPacket c (some good) = some good ∧ s.mayBegin 0 0 (bit (field good 1 1) 1) = true ∧ s.packetCode 0 good = 0
          ∧ (opRow (field good 0 1)).isSome = true ∧ s.nextPacket c (some bad) = some bad ∧ s.packetCode 0 bad = 0x101)
      ∧ (let s := withRings { ringAt 4 with begun := [⟨0x02, 1, true, [], false⟩] } {} ready; s.mayBegin 0 0 true = false ∧ s.mayBegin 0 0 false = true) := by
  unfold Clocked; decide +kernel

/-- A command of function 0's ring 0 for context `x`. -/
def cmd (x : Nat) : Cmd := ⟨0, 0, 7, false, x⟩
/-- A context with no pages, and the rest as given. -/
def ctxState (c : Ctx) : State := { ready with ctxs := [(1, c)] }
def emptyCtx : Ctx := { someCtx with pages := [], step := none }
/-- The parameters of CTX_CREATE, MAP_PAGES and UNMAP_PAGES. -/
def createPs : List Byte := toBytes 8 (2 ^ 64 - 1) ++ toBytes 8 0 ++ toBytes 2 0x0303
def mapPs (va pa count attr : Nat) : List Byte := toBytes 8 va ++ toBytes 8 pa ++ toBytes 4 count ++ toBytes 2 attr
def mapSpell (va pa count attr : Nat) : List Byte → Bool := fun p =>
  decide (field p 8 8 = va ∧ field p 0x10 8 = pa ∧ field p 0x18 4 = count ∧ field p 0x1C 2 = attr)
theorem witness_contextsAndPages :
    (let s := begunAs 0x01 0 createPs ready;
      Accepted s (cmd 0) 0x01 (fun p => decide (field p 8 8 = 2 ^ 64 - 1 ∧ field p 0x10 8 = 0 ∧ field p 0x18 1 = 3 ∧ field p 0x19 1 = 3))
        ∧ s.mayCreate 0 ≠ 0 ∧ ¬ ((cmd 0).fn ≠ 0 ∧ bits (s.limitsOf 0) 48 47 < 3) ∧ 0 % 0x200000 = 0
        ∧ 0 + 648 * 2 ^ 20 ≤ hbmBytes ∧ (range 64).find? (fun x => (s.ctx x).isNone) = some 0)
      ∧ (Accepted (begunAs 0x02 1 [] withCtx) (cmd 1) 0x02 (fun _ => true) ∧ (begunAs 0x02 1 [] withCtx).holdsDestroy (cmd 1) = false)
      ∧ (let ring (op : Nat) : CRing := { enable := true, log2 := 4, begun := [⟨op, 7, false, packetBytes op 0 1 0 7 [], false⟩] }
        let s : State := { withCtx with pci := { ready.pci with fns := [(0, { cr := [(0, ring 0x02), (1, ring 0x03)] })] } };
        s.holdsDestroy (cmd 1) = true)
      ∧ (let s := begunAs 0x03 1 (mapPs 0 0x200000 2 0xB) (ctxState emptyCtx);
        Accepted s (cmd 1) 0x03 (mapSpell 0 0x200000 2 0xB) ∧ s.ctx 1 = some emptyCtx ∧ s.mapOk (cmd 1) 0 0x200000 2 0xB = true
          ∧ s.poolUsed + 2 ≤ s.poolSize ∧ s.mapOk (cmd 1) 0x1000 0x200000 2 0xB = false)
      ∧ (let c := { emptyCtx with pages := [⟨slowBase, slowBase, 2 ^ 24, 0, 3⟩] }
        let s := begunAs 0x03 1 (mapPs 0 0 1 3) { ready with ctxs := (range 11).map (fun k => (k, c)) };
        Accepted s (cmd 1) 0x03 (mapSpell 0 0 1 3) ∧ s.ctx 1 = some c ∧ s.mapOk (cmd 1) 0 0 1 3 = true ∧ s.poolUsed = s.poolSize)
      ∧ (let s := begunAs 0x04 1 (toBytes 8 0x200000 ++ toBytes 4 1 ++ toBytes 1 1) withCtx
        Accepted s (cmd 1) 0x04 (fun p => decide (field p 8 8 = 0x200000 ∧ field p 0x10 4 = 1 ∧ field p 0x14 1 = 1)) ∧ s.ctx 1 = some someCtx
          ∧ 0x200000 % pageBytes 1 = 0 ∧ inTier 0x200000 (1 * pageBytes 1) = true ∧ s.storesThrough 1 0x200000 (1 * pageBytes 1) = false
          ∧ ∀ p ∈ someCtx.pages, spansMeet 0x200000 (1 * pageBytes 1) p.va p.bytes = true → p.size = 1 ∧ p.va % pageBytes 1 = 0)
      ∧ (asking aStore []).storesThrough 1 0 0x200000 = true
      ∧ (∀ halted : Bool, Accepted (begunAs 0x05 1 [] (ctxState { someCtx with suspended := halted })) (cmd 1) 0x05 (fun _ => true)) := by
  unfold Accepted Clocked; decide +kernel

/-- A graph of one task whose descriptor lies at 0x200000 of HBM and whose root list names `root`. -/
def graphAt (root : Nat) : State :=
  (withCtx.put 0x200080 (toBytes 4 root)).put 0x200000 (toBytes 8 (here 0x100) ++ toBytes 4 1 ++ toBytes 4 1 ++ toBytes 8 (here 0x80) ++ toBytes 8 (here 0x200))
def submitted (root addr : Nat) : State := (begunAs 0x08 1 (toBytes 8 addr) (graphAt root)).acts (cmd 1) 0x08 (fun p => decide (field p 8 8 = addr))
/-- The outcome of a submission's checks: 0 passed, 1 failed, 2 failed on an access. -/
def submitKind : Except (Nat × Option Acc) (List Byte × List Nat × Map Binding) → Nat
  | .ok _ => 0
  | .error (_, none) => 1
  | .error (_, some _) => 2
theorem of_submitKind {r : Except (Nat × Option Acc) (List Byte × List Nat × Map Binding)} :
    (submitKind r = 0 → ∃ d roots b, r = .ok (d, roots, b)) ∧ (submitKind r = 1 → ∃ c, r = .error (c, none))
      ∧ (submitKind r = 2 → ∃ c a, r = .error (c, some a)) := by
  rcases r with ⟨c, _ | a⟩ | ⟨d, roots, b⟩ <;> simp [submitKind]
theorem witness_graphsAndQueries :
    (∀ root : Fin 2, Accepted (begunAs 0x08 1 (toBytes 8 (here 0)) (graphAt root)) (cmd 1) 0x08 (fun p => decide (field p 8 8 = here 0)))
      ∧ (∃ d roots b, (submitted 0 (here 0)).submitChecks 1 (here 0) = .ok (d, roots, b))
      ∧ (∃ c, (submitted 1 (here 0)).submitChecks 1 (here 0) = .error (c, none))
      ∧ (∃ c a, (submitted 0 (here 0x40000000)).submitChecks 1 (here 0x40000000) = .error (c, some a))
      ∧ (let s := withGraph {} (begunAs 0x09 1 [] withCtx); let x := graph1 [] {}
        Accepted s (cmd 1) 0x09 (fun p => decide (field p 8 4 = 0)) ∧ s.graph (0 % 256) = some x ∧ x.ctx = (cmd 1).ctx
          ∧ x.handle (0 % 256) = 0 ∧ s.graph (255 % 256) = none)
      ∧ (let s := begunAs 0x38 0 (toBytes 4 2) ready; let spell : List Byte → Bool := fun p => decide (field p 8 4 = 2)
        Accepted s (cmd 0) 0x38 spell ∧ ((s.acts (cmd 0) 0x38 spell).queryResult 0 2).isSome = true)
      ∧ Accepted (begunAs 0x38 0 (toBytes 4 3) ready) (cmd 0) 0x38 (fun p => decide (field p 8 4 = 3)) := by
  unfold Accepted Clocked
  refine ⟨?_, of_submitKind.1 ?_, of_submitKind.2.1 ?_, of_submitKind.2.2 ?_, ?_, ?_, ?_⟩ <;> decide +kernel

def inJob (s : State) : State := { s with ctxRegs := [(1, { job := 7, members := 2 })] }
theorem each_of {p : Nat → Bool} {o : Option Nat} (h : (o.map p).getD true = true) (v : Nat) (e : o = some v) : p v = true := by
  subst e; simpa using h
/-- A context whose latched step is `k`, and its STEP_BEGIN of step 1. -/
def stepped (step : Option Nat) (halted : Bool) : Ctx := { someCtx with step := step, suspended := halted }
def stepping (step : Option Nat) (halted : Bool) : State := begunAs 0x0A 1 (toBytes 4 1) (ctxState (stepped step halted))
theorem witness_stepsBeginAndCommit :
    (∀ k : Fin 3, let o := [none, some 0, some (2 ^ 32 - 1)].getD k none; let s := stepping o false
      Accepted s (cmd 1) 0x0A (fun p => decide (field p 8 4 = 1)) ∧ s.ctx 1 = some (stepped o false) ∧ (o.map (newer 1)).getD true = true
        ∧ s.stepWaits 1 (stepped o false) 1 = false ∧ s.streamsOf 1 = [] ∧ (s.creg 1).boundary = 0)
      ∧ (∀ v, (stepped (some 0) false).step = some v → newer 1 v = true)
      ∧ (stepping none true).stepWaits 1 (stepped none true) 1 = true
      ∧ (∃ v, (stepped (some 1) false).step = some v ∧ newer 1 v = false)
      ∧ (let spell : List Byte → Bool := fun p => decide (field p 8 4 = 3); let s := begunAs 0x0B 1 (toBytes 4 3) withCtx
        let y : Ctx := { someCtx with commit := some ⟨cmd 1, 3, false⟩ }; let u := (s.acts (cmd 1) 0x0B spell).setCtx 1 y
        Accepted s (cmd 1) 0x0B spell ∧ s.ctx 1 = some someCtx ∧ someCtx.step = some 3 ∧ someCtx.commit = none ∧ u.mayCommit 1 y = true
          ∧ (s.creg 1).members = 0 ∧ ((inJob s).creg 1).members ≠ 0)
      ∧ (let c := { someCtx with cause := some 1 }; let spell : List Byte → Bool := fun p => decide (field p 8 4 = 3)
        let s := begunAs 0x0B 1 (toBytes 4 3) (ctxState c); let y : Ctx := { c with commit := some ⟨cmd 1, 3, false⟩ }
        c.commit = none ∧ c.step = some 3 ∧ ((s.acts (cmd 1) 0x0B spell).setCtx 1 y).mayCommit 1 y = false)
      ∧ (let w : CommitWait := ⟨cmd 1, 3, false⟩; let c := { someCtx with commit := some w }; let s := ctxState c
        Clocked s ∧ s.ctx 1 = some c ∧ c.commit = some w ∧ c.commit.isSome = true ∧ w.sent = false ∧ s.mayCommit 1 c = true
          ∧ (s.creg 1).members = 0 ∧ (inJob s).mayCommit 1 c = true ∧ ((inJob s).creg 1).members ≠ 0
          ∧ (ctxState { c with cause := some 1 }).mayCommit 1 { c with cause := some 1 } = false) := by
  unfold Accepted Clocked
  refine ⟨?_, each_of ?_, ?_, ⟨1, ?_⟩, ?_, ?_, ?_⟩ <;> decide +kernel

def ckptOf (flights : List Flight) : Ckpt := ⟨3, 1, 0, some (cmd 1), false, flights⟩
def copier (flights : List Flight) : Ctx := { someCtx with ckpt := some (ckptOf flights) }
def copying (size : Nat) (flights : List Flight) (pages : List Page) : State :=
  { ctxState { copier flights with pages := pages } with ctxRegs := [(1, { slotSize := size, localAt := 0x200000 })] }
def ckptPs (step targets : Nat) : List Byte := toBytes 4 step ++ toBytes 4 targets
def ckptSpell (step targets : Nat) : List Byte → Bool := fun p => decide (field p 8 4 = step ∧ field p 0xC 4 = targets)
/-- A boundary record of step 3 with nothing in it, in the half at 0 of the area at the global offset 0; RESTORE of a step from there. -/
def wideCtx : Ctx := { someCtx with pages := [⟨0, 0x200000, 128, 1, 0xB⟩] }
def boundaryAt (step : Nat) : State :=
  let withCtx : State := { withCtx with ctxs := [(1, wideCtx)] }
  begunAs 0x19 1 (toBytes 4 step ++ toBytes 4 3) ((withCtx.put 0x200000 (toBytes 4 3)).put 0x200010 (toBytes 8 1))
/-- What a RESTORE finds: 0 a record whose pieces are written, 1 nothing, 2 neither. -/
def foundKind (s : State) (x step source addr : Nat) (slot : List Byte) : Nat :=
  match s.findRestore x step source addr slot with
  | .ok (some f) => if (s.writePieces x 0 (f.bound.streams ++ f.pieces)).2.isNone then 0 else 2
  | .ok none => 1
  | .error _ => 2
theorem of_foundKind {s : State} {x step source addr : Nat} {slot : List Byte} :
    (foundKind s x step source addr slot = 0 →
        ∃ f t, s.findRestore x step source addr slot = .ok (some f) ∧ s.writePieces x 0 (f.bound.streams ++ f.pieces) = (t, none))
      ∧ (foundKind s x step source addr slot = 1 → s.findRestore x step source addr slot = .ok none) := by
  unfold foundKind
  split <;> rename_i h <;> simp only [h]
  · rename_i f
    refine ⟨fun e => ⟨f, (s.writePieces x 0 (f.bound.streams ++ f.pieces)).1, rfl, ?_⟩, ?_⟩
    · split at e
      · rename_i n; exact Prod.ext rfl (by simpa using n)
      · cases e
    · split <;> simp
  · simp
  · simp
/-- Whether both halves of context 1's boundary area at 0 can be read. -/
def halves (s : State) : Bool :=
  match s.readHalf 1 0 0, s.readHalf 1 0 1 with
  | .ok _, .ok _ => true
  | _, _ => false
theorem of_halves {s : State} (h : halves s = true) : ∃ l m, s.readHalf 1 0 0 = .ok l ∧ s.readHalf 1 0 1 = .ok m := by
  unfold halves at h
  split at h
  · exact ⟨_, _, by assumption, by assumption⟩
  · cases h
theorem witness_checkpointsCopyAndRestore :
    (∀ t : Fin 2, let s := begunAs 0x18 1 (ckptPs 3 t) withCtx
      Accepted s (cmd 1) 0x18 (ckptSpell 3 t) ∧ s.ctx 1 = some someCtx ∧ someCtx.step = some 3 ∧ someCtx.ckpt = none ∧ someCtx.step ≠ some 4)
      ∧ (let s := begunAs 0x18 1 (ckptPs 3 7) (copying 65536 [] []);
        Accepted s (cmd 1) 0x18 (ckptSpell 3 7) ∧ (copier []).step = some 3 ∧ (copier []).ckpt.isSome = true)
      ∧ (let s := copying 4096 [] someCtx.pages
        s.ctx 1 = some (copier []) ∧ (copier []).ckpt = some (ckptOf []) ∧ bit 1 0 = true ∧ s.committedAll 1 3 = true
          ∧ (copier []).suspended = false ∧ s.nxp.ops.any (fun o => decide (o.owner = OpOwner.thermos 1 0)) = false
          ∧ (s.copySlot 1 0 3).2 = .ended false)
      ∧ (let f : Flight := ⟨0, [], true⟩; ((copying 65536 [f] someCtx.pages).flyOn 1 f).2 = .ended true)
      ∧ ((copying 65536 [] []).copySlot 1 0 3).2 = .miss 0x20F000 true
      ∧ (let f : Flight := ⟨0, [[], []], true⟩; ((copying 65536 [f] someCtx.pages).flyOn 1 f).2 = .going { f with parts := [[]] })
      ∧ (let s := boundaryAt 3; Accepted s (cmd 1) 0x19 (fun p => decide (field p 8 4 = 3 ∧ field p 0xC 4 = 3 ∧ field p 0x10 8 = 0))
          ∧ s.ctx 1 = some wideCtx ∧ wideCtx.suspended = false ∧ s.restoreBad 1 3 0 = false)
      ∧ (∃ f t, (boundaryAt 3).findRestore 1 3 3 0 [] = .ok (some f)
          ∧ (boundaryAt 3).writePieces 1 0 (f.bound.streams ++ f.pieces) = (t, none))
      ∧ (boundaryAt 4).findRestore 1 4 3 0 [] = .ok none
      ∧ (∃ l m, (boundaryAt 3).readHalf 1 0 0 = .ok l ∧ (boundaryAt 3).readHalf 1 0 1 = .ok m)
      ∧ (let s := { copying 65536 [] [] with nxp := { ops := [⟨⟨0, 1, 0, 3, 9, 1, 0, 4, 7, 8, 0, false, []⟩, .thermos 1 0, 0, true, 0, false⟩] } };
        s.nxp.ops.any (fun o => decide (o.owner = OpOwner.thermos 1 0)) = true)
      ∧ bestHalf 3 [⟨3, [], [], []⟩, ⟨4, [], [], []⟩] = some ⟨3, [], [], []⟩ := by
  unfold Accepted Clocked
  refine ⟨?_, ?_, ?_, ?_, ?_, ?_, ?_, of_foundKind.1 ?_, of_foundKind.2 ?_, of_halves ?_, ?_, ?_⟩ <;> decide +kernel

/-- GROUP_WRITE of group 255 with one word, and its spelling. -/
def groupPs (mask : Nat) : List Byte := toBytes 2 255 ++ toBytes 2 mask ++ List.replicate 20 0 ++ toBytes 4 (0x3F800000 * (mask / 0x20 % 2))
def groupWords (mask : Nat) : List W32 := [0, 0, 0, 0, 0, BitVec.ofNat 32 (0x3F800000 * (mask / 0x20 % 2))]
def groupSpell (mask : Nat) : List Byte → Bool := fun p => decide (field p 8 1 = 255 ∧ field p 0xA 2 = mask)
  && (range 12).all (fun k => decide (field p (0xC + 4 * k) 4 = (((groupWords mask)[k]?).map BitVec.toNat).getD 0))
def merged (mask : Nat) : List Nat :=
  (range 16).map (fun k => if bit mask k then (((groupWords mask)[k]?).map BitVec.toNat).getD 0 else nth 0 (mget [] someCtx.groups 255) k)
def wmkWritePs (mode value : Nat) : List Byte := toBytes 8 (9 + mode * 2 ^ 20) ++ toBytes 8 value
theorem witness_groupsAndHandSetMarks :
    (∀ set : Bool, let mask := if set then 0x20 else 0; let s := begunAs 0x0C 1 (groupPs mask) withCtx
      Accepted s (cmd 1) 0x0C (groupSpell mask) ∧ s.ctx 1 = some someCtx ∧ mask < 4096 ∧ 255 < 256 ∧ entryOk (merged mask) = set)
      ∧ (∀ kind : Fin 3, let s := begunAs 0x10 1 (toBytes 4 9) (marked (kind + 1) 0 withCtx)
        Accepted s (cmd 1) 0x10 (fun p => decide (field p 8 4 = 9)) ∧ s.home (wkey 1 8) = .unbound
          ∧ s.home (wkey 1 9) = (if kind = 2 then .far (mark (kind + 1) 0) else .here (wkey 1 9) (mark (kind + 1) 0)))
      ∧ (mark 1 (2 ^ 64 - 1)).count < 2 ^ 64
      ∧ (∀ mode : Fin 2, let s := begunAs 0x11 1 (wmkWritePs mode (2 ^ 64 - 1)) (marked 1 0 withCtx)
        Accepted s (cmd 1) 0x11 (fun p =>
            decide (bits (field p 8 4) 19 0 = 9 ∧ bits (field p 8 4) 21 20 = mode ∧ field p 0x10 8 = 2 ^ 64 - 1))
          ∧ s.home (wkey 1 9) = .here (wkey 1 9) (mark 1 0)) := by
  unfold Accepted Clocked; decide +kernel

/-! ## Roll Call, replay, ingest, the fabric's packets -/

def testing (s : State) (mode : ClusterMode) : State :=
  { s with rcl := { s.rcl with run := some ⟨cmd 0, [0], 0, 0, 1⟩ }, clusters := [(0, { mode := mode })] }
/-- ROLLCALL_RUN of the clusters of a mask, and its spelling. -/
def rollPs (clusters maxpar : Nat) : List Byte := toBytes 8 clusters ++ toBytes 4 maxpar
def rollSpell (clusters maxpar : Nat) : List Byte → Bool := fun p => decide (field p 8 8 = clusters ∧ field p 0x10 4 = maxpar)
theorem witness_rollCallTestsClusters :
    (∀ k : Fin 2, let m := 2 ^ 35 * (k : Nat); let s := begunAs 0x1A 0 (rollPs m (4 * k)) ready
      Accepted s (cmd 0) 0x1A (rollSpell m (4 * k)) ∧ s.rcl.run = none
        ∧ (range 36).filter (fun n => !s.retired n && (decide (m = 0) || bit m n)) ≠ [])
      ∧ (let s : State := { ready with repair := { ready.repair with retired := 2 ^ 35 } };
        (range 36).filter (fun n => !s.retired n && (decide (2 ^ 35 = 0) || bit (2 ^ 35) n)) = [])
      ∧ (let s := begunAs 0x1A 0 (rollPs 1 1) (testing ready .rollcall); Accepted s (cmd 0) 0x1A (rollSpell 1 1) ∧ s.rcl.run.isSome = true)
      ∧ (let s := testing ready .service; let r : RollRun := ⟨cmd 0, [0], 0, 0, 1⟩
        Clocked s ∧ s.rcl.run = some r ∧ 0 ∈ r.left ∧ s.retired 0 = false ∧ (s.cluster 0).mode = .service
          ∧ (r.left.filter (fun m => !s.retired m && decide ((s.cluster m).mode = .service))).head? = some 0
          ∧ (r.left.filter (fun m => decide ((s.cluster m).mode = .rollcall))).length < r.maxpar ∧ s.holders 0 true = [])
      ∧ (testing (coreOf {} { phase := .running, cores := [17] }) .service).holders 0 true = [(0, 0)]
      ∧ (let s : State := { testing ready .service with repair := { ready.repair with retired := 1 } };
        s.rcl.run = some ⟨cmd 0, [0], 0, 0, 1⟩ ∧ s.retired 0 = true)
      ∧ (let s := { testing (marked 1 0 ready) .service with wmk := { binds := [(wkey 1 9, mark 1 0)] } }
        s.binding (wkey 1 9) = some (mark 1 0) ∧ (mark 1 0).eff = 1 ∧ (mark 1 0).home = 0)
      ∧ (let s := testing ready .rollcall; let misr := (range 24).map (fun b => nth 0 s.boot.image.sigs b)
        s.rcl.run = some ⟨cmd 0, [0], 0, 0, 1⟩ ∧ (s.cluster 0).mode ≠ .service ∧ (∀ b < 24, nth 0 misr b = nth 0 s.boot.image.sigs b)
          ∧ ∀ d ∈ s.repair.waiting, d.inCluster 0 = false) := by
  unfold Accepted Clocked; decide +kernel

/-- A context whose graph failed with LOAD_REGION, and the device with it. -/
def failedCtx : Ctx := { someCtx with cause := some 0x201, causes := 1, bound := [(9, 5)] }
def failing (policy : Nat) (quarantine : List (BitVec 24)) : State :=
  { marked 1 8 withCtx with
    ctxs := [(1, failedCtx)], ctxRegs := [(1, { boundary := here 0x10000, policy := policy })]
    sys := { ready.sys with quarantine := quarantine } }
/-- The state that step 3 of a replay of `s` leaves, before its streams rewind. -/
def resetFor (s : State) : State :=
  let u := (((s.setCtx 1 { failedCtx with replaying := true, stashReplay := false }).replayAborts 1 0x201 3).landAll 1).orphanRecords 1
  ((u.resetSet failedCtx.older).foldl State.clusterReset u).restartRecords 1 3
/-- The log with its last entry next, not full and full. -/
def logAt (full : Bool) (rd : Nat) : State := { ready with sys := { ready.sys with log := { wr := 4095, full := full, rd := rd, ovf := 2 ^ 32 - 1 } } }
theorem witness_scrubbingAndReplay_log :
    (logAt false 0).sys.log.full = false ∧ ((logAt false 0).sys.log.wr + 1) % 4096 = (logAt false 0).sys.log.rd
      ∧ (logAt true 4095).sys.log.full = true ∧ (logAt true 4095).sys.log.wr = (logAt true 4095).sys.log.rd := by decide +kernel
/-- The row of offset 0 gave a corrected error 24 h ago. -/
def errorBefore : State := { ready with sys := { ready.sys with time := 86400000000000, corrected := [(rowKey ready 0, 0)] } }
theorem witness_scrubbingAndReplay_again :
    errorBefore.sys.corrected.any (fun e => decide (e.1 = rowKey errorBefore 0 ∧ errorBefore.sys.time ≤ e.2 + 86400000000000)) = true := by
  have h : rowKey errorBefore 0 = rowKey ready 0 := rfl
  rw [h]; simp [errorBefore]
theorem witness_scrubbingAndReplay :
    (Clocked ready ∧ (regionOf 0).mapped = true ∧ ready.lostTarget 0 = false ∧ (regionOf slowBase).mapped = true
        ∧ ready.lostTarget slowBase = false ∧ ready.sys.corrected.any (fun e => decide (e.1 = rowKey ready 0)) = false)
      ∧ ({ ready with evl := { lost := [0, 1] } } : State).lostTarget slowBase = true
      ∧ (∀ n < 36, ready.doomed n = false)
      ∧ (withCtx.ctx 1 = some someCtx ∧ someCtx.cause = none)
      ∧ (let s := failing 0 []; s.ctx 1 = some failedCtx ∧ failedCtx.step = some 3 ∧ s.mayReplay 1 failedCtx 0x201 = false)
      ∧ (let s := failing (2 ^ 19) []
        (s.ctx 1 = some failedCtx ∧ s.mayReplay 1 failedCtx 0x201 = true ∧ failedCtx.recorded = []
          ∧ failedCtx.bound.find? (fun e => decide (e.1 = keyId (wkey 1 9))) = some (9, 5))
        ∧ (∀ e ∈ s.trh.graphs, e.2.ctx ≠ 1) ∧ s.sys.quarantine = [] ∧ s.repair.waiting = [] ∧ (∀ e ∈ s.evl.recs, e.2.ctx ≠ 1)
          ∧ s.streamsOf 1 = [] ∧ (∀ a ∈ s.wmk.adds, keyCtx a.key ≠ 1) ∧ s.binding (wkey 1 9) = some (mark 1 8) ∧ keyCtx (wkey 1 9) = 1)
      ∧ (let s := failing (2 ^ 19) [0x404100]
        s.mayReplay 1 failedCtx 0x201 = true
          ∧ s.sys.quarantine.any (fun q => decide (36 ≤ (crossingEnds q).1 ∧ 36 ≤ (crossingEnds q).2)) = true)
      ∧ ((resetFor (failing (2 ^ 19) [])).streamsOf 1 = []) := by
  unfold Clocked; decide +kernel

/-- A stream's block: a list of 2 entries at 0, slots of 8 KiB at 0x2000, Waymarks 9 and 10, clips of one frame of 16 × 16 in FP8, one
token. -/
def streamCfg : List Byte :=
  slice (([(8, 0), (4, 2), (4, 1), (8, 0), (8, 0x2000), (8, 0x2000), (4, 1), (4, 9), (4, 10), (4, 8 + 3 * 2 ^ 9), (8, 0), (4, 0)] :
      List (Nat × Nat)).flatMap (fun e => toBytes e.1 e.2)
    ++ (List.replicate 4 (16 : Nat)).flatMap (toBytes 2) ++ toBytes 2 1 ++ [1, 0, 1, 16, 16]) 0 256
def counts (p c : Nat) (s : State) : State := { s with wmk := { binds := [(wkey 1 9, mark 1 p), (wkey 1 10, mark 1 c)] } }
/-- A list of one reference to a clip of one byte. -/
def segmentBytes (n : Nat) : List Byte := slice (toBytes 8 (here 0) ++ toBytes 4 n) 0 32
def streamOf (clip : Option Clip) : IStream := { ctx := 1, cfg := streamCfg, cfgAddr := here 0x100, start := 0, next := 0, clip := clip }
/-- The device with one stream, whose list holds the first segment. -/
def streaming (clip : Option Clip) : State :=
  { counts 0 1 (withCtx.put 0x200200 (segmentBytes 1 ++ segmentBytes 0)) with ing0 := { streams := [(0, streamOf clip)] } }
/-- A replay of context 1 with a stream that has been fed so far. -/
def failingStream (fed : Nat) : State := { failing (2 ^ 19) [] with ing0 := { streams := [(0, { streamOf none with fed := fed })] } }
theorem witness_scrubbingAndReplay_streams :
    (let w := resetFor (failingStream 2); w.streamsOf 1 ≠ [] ∧ ∀ e ∈ w.streamsOf 1, w.rewinds e.2 = true)
      ∧ (let w := resetFor (failingStream 5); ∃ e ∈ w.streamsOf 1, w.rewinds e.2 = false) := by decide +kernel
/-- INGEST_FEED of one reference at an offset, its spelling, and the stream with the feed among its feeds. -/
def feedPs (segment : Nat) : List Byte := toBytes 8 0 ++ toBytes 8 segment ++ toBytes 4 1
def feedSpell (segment : Nat) : List Byte → Bool := fun p =>
  decide (field p 8 2 = 0 ∧ bit (field p 0xA 1) 0 = false ∧ field p 0x10 8 = segment ∧ field p 0x18 4 = 1)
def feeding (segment : Nat) : State := begunAs 0x21 1 (feedPs segment) (streaming none)
def fed (segment : Nat) (checked : Bool) : State :=
  ((feeding segment).acts (cmd 1) 0x21 (feedSpell segment)).modStream 0 (fun x => { x with feeds := [⟨cmd 1, false, segment, 1, checked⟩] })
theorem witness_streamsOpenFeedAndClose :
    (let s := begunAs 0x20 1 (toBytes 8 (here 0x100) ++ toBytes 8 0 ++ toBytes 1 2) (counts 0 1 (withCtx.put 0x200100 streamCfg));
      Accepted s (cmd 1) 0x20 (fun p => decide (field p 8 8 = here 0x100 ∧ field p 0x10 8 = 0 ∧ field p 0x18 1 = 2))
        ∧ here 0x100 % 256 = 0 ∧ s.isHere (here 0x100) = true
        ∧ s.read (agentOf 1) (localOf (here 0x100)) 256 = .data streamCfg ∧ streamCfgOk streamCfg = true
        ∧ s.marksOk 1 streamCfg 0 = true ∧ s.pickEngine 2 = some 0
        ∧ ((range 256).map (fun k => 256 * 0 + k)).find? (fun n => (s.stream n).isNone) = some 0)
      ∧ (∀ bad : Bool, let a := here (if bad then 0x220 else 0x200); let s := feeding a; let x := streamOf none
        Accepted s (cmd 1) 0x21 (feedSpell a) ∧ s.stream 0 = some x ∧ x.ctx = 1 ∧ x.final = false ∧ x.feeds.any Feed.final = false
          ∧ x.feeds = [] ∧ (fed a false).readG (x.who 0) a 32 = .data (segmentBytes (if bad then 0 else 1))
          ∧ (chunks 32 (segmentBytes (if bad then 0 else 1))).all (clipRefOk (bit (cgControl streamCfg) 3)) = !bad
          ∧ 1 ≤ cgCap x.cfg - x.inList ∧ (fed a true).readG (x.who 0) a 32 = .data (segmentBytes (if bad then 0 else 1)))
      ∧ (∃ w, (fed (here 0x200) true).putRefs 0 { streamOf none with feeds := [⟨cmd 1, false, here 0x200, 1, false⟩] }
          ((streamOf none).origin + (streamOf none).fed) (segmentBytes 1) = (w, none))
      ∧ (∀ x : Fin 2, let s := begunAs 0x22 1 (toBytes 2 (511 * x)) (streaming none)
        Accepted s (cmd 1) 0x22 (fun p => decide (field p 8 2 = 511 * x)) ∧ (s.stream 0).isSome = true ∧ s.stream 511 = none) := by
  unfold Accepted Clocked
  refine ⟨?_, ?_, of_wrote ?_, ?_⟩ <;> decide +kernel

theorem of_wrote2 {r : State × Option Acc} {f : State → State × Option Acc} (h : (wrote r && wrote (f r.1)) = true) :
    ∃ u v, r = (u, none) ∧ f u = (v, none) := by
  simp only [Bool.and_eq_true] at h
  obtain ⟨u, hu⟩ := of_wrote h.1
  obtain ⟨v, hv⟩ := of_wrote h.2
  exact ⟨u, v, hu, by rw [hu] at hv; exact hv⟩
def clip0 (finished : Bool) : Clip := ⟨0, 0, segmentBytes 1, [(false, [1])], 0, 0, false, 0, [none], 0, false, true, 0, false, finished⟩
/-- What a stream's next clip is: its clip, or nothing where its reference cannot be read. -/
def clipStarts (s : State) : Option Bool := ((s.startClip 0 (streamOf none) 0).2).map Clip.finished
theorem of_clipStarts {s : State} : (∀ b, clipStarts s = some b → ∃ u k, s.startClip 0 (streamOf none) 0 = (u, some k) ∧ k.finished = b)
    ∧ (clipStarts s = none → ∃ u, s.startClip 0 (streamOf none) 0 = (u, none)) := by
  unfold clipStarts
  rcases e : s.startClip 0 (streamOf none) 0 with ⟨u, _ | k⟩ <;> simp
/-- The stream's list holds its first reference, of `n` bytes, and the state at its turn. -/
def startable (n : Nat) (pages : List Page) : State :=
  let s := (streaming none).put 0x200000 (segmentBytes n)
  { s with ctxs := [(1, { someCtx with pages := pages })], ing0 := { streams := [(0, { streamOf none with fed := 1 })] } }
theorem witness_clipsDecodedAndWritten :
    (let s := streaming (some (clip0 false));
      Clocked s ∧ s.engineUp 0 = true ∧ ((s.turnOf 0).map (fun e => (e.1, e.2.clip)) = some (0, some (clip0 false)))
        ∧ (clip0 false).finished = false)
      ∧ ready.turnOf 1 = none
      ∧ (∃ u k, (startable 1 someCtx.pages).startClip 0 (streamOf none) 0 = (u, some k) ∧ k.finished = false)
      ∧ (∃ u k, (startable 0 someCtx.pages).startClip 0 (streamOf none) 0 = (u, some k) ∧ k.finished = true)
      ∧ (∃ u, (startable 1 []).startClip 0 (streamOf none) 0 = (u, none))
      ∧ ((startable 1 someCtx.pages).turnOf 0).map (fun e => e.2.clip) = some none
      ∧ (let s := streaming (some (clip0 true)); let k := clip0 true; let x := streamOf (some k)
        s.stream 0 = some x ∧ 0 / 256 = 0 ∧ x.stopped = false ∧ x.paused = false ∧ x.clip = some k ∧ k.finished = true ∧ s.slotReady x = true
          ∧ s.ctx x.ctx = some someCtx ∧ someCtx.suspended = false ∧ k.unsupported = false)
      ∧ (let x := streamOf (some (clip0 true)); let f := (clip0 true).filled (cgF x.cfg)
        let slot := field x.cfg 0x18 8 + (clip0 true).n % cgB x.cfg * field x.cfg 0x20 8
        ∃ u v, (streaming (some (clip0 true))).write (x.who 0) slot ((clip0 true).record f.2) = (u, none)
          ∧ u.write (x.who 0) (slot + 4096) (packBits (typeBits (cgType x.cfg)) (clipTensor x.cfg f.1)) = (v, none)) := by
  unfold Clocked
  refine ⟨?_, ?_, of_clipStarts.1 _ ?_, of_clipStarts.1 _ ?_, of_clipStarts.2 ?_, ?_, ?_, of_wrote2 ?_⟩ <;> decide +kernel

def ported (p : Port) : State := { ready with nxp := { ready.nxp with ports := [(17, p)] } }
/-- A packet whose fields are all at their greatest, with its data. -/
def widest : Packet := ⟨1, 255, 7, 2 ^ 16 - 1, 2 ^ 16 - 1, 2 ^ 16 - 1, 2 ^ 16 - 1, 2 ^ 13 - 1, 2 ^ 16 - 1, 1, 2 ^ 64 - 1, false, [1]⟩
theorem witness_portsFlitsAndLanes_packet : widest.data.length = dataAfter widest.op widest.length := rfl
theorem witness_portsFlitsAndLanes :
    (let x : Port := { state := 1, failed := 2, unacked := [(4095, [1])], resends := 8 };
      Clocked (ported x) ∧ (ported x).port 17 = x ∧ x.state ≠ 0 ∧ bit x.failed 4 = false ∧ bit x.failed 0 = false ∧ x.serves = true
        ∧ x.unacked ≠ [] ∧ 8 ≤ x.resends)
      ∧ (let x : Port := { state := 3, retrains := 3 };
        (ported x).port 17 = x ∧ x.state = 3 ∧ 3 ≤ x.retrains)
      ∧ (let x (spare failed : Nat) : Port := { state := 2, spare := spare, failed := failed }
        ({ x 4 6 with failed := 7 } : Port).failedLanes = 3 ∧ ({ x 7 1 with failed := 3 } : Port).failedLanes < 3
          ∧ ({ x 4 0 with failed := 16 } : Port).spare = 4 ∧ ({ x 4 0 with failed := 16 } : Port).failedLanes < 3)
      ∧ (let x : Port := { state := 2, rxSeq := 4095 }; let f := flitBytes 4095 0 true 0 0 0 []; let s := ported x;
        (s.port 17).serves = true ∧ f.length = 256 ∧ crc32 (f.take 252) = field f 252 4 ∧ field f 0 8 % 2 ^ 12 = x.rxSeq ∧ x.nak = false ∧ bit (field f 0 8) 24 = true)
      ∧ (let x : Port := { state := 2, rxSeq := 0, nak := true }; let f := flitBytes 4095 0 false 0 0 0 [];
        x.serves = true ∧ x.nak = true ∧ field f 0 8 % 2 ^ 12 ≠ x.rxSeq) := by
  unfold Clocked; decide +kernel

/-- A packet of opcode `op` from device 9 to a context that exports job 7, with the number that its stream expects. -/
def inbound (op addr : Nat) (rsv : Bool) (data : List Byte) : Packet := ⟨0, op, 0, 9, 3, 1, 65535, 5, if op = 4 then 0 else 7, 8, addr, rsv, data⟩
def receiving (next : Nat) (answers : List (Nat × Packet)) (op : Nat) : State :=
  let s := joined (marked 1 0 withCtx)
  { s with nxp := { s.nxp with rx := [⟨9, 0, 0, vcOf op, 1, next, [], answers⟩] } }
theorem witness_packetsPlacedInOrder :
    ∀ op : Fin 6, let p := inbound (op + 1) 0 false (toBytes 8 1); let s := receiving 65535 [] (op + 1)
      let old := receiving 0 [(65535, p)] (op + 1)
      Clocked s ∧ bit s.nxp.diesLost p.die = false ∧ p.rsv = false ∧ (inbound (op + 1) 0 true []).rsv = true
        ∧ (∀ r ∈ s.nxp.rx, r.src = p.src → r.epoch = p.epoch)
        ∧ (∃ q, s.nxp.rx.find? (fun q => q.of p) = some q ∧ p.sseq = q.next ∧ q.next < 65536 ∧ q.held = [])
        ∧ ∃ q, old.nxp.rx.find? (fun q => q.of p) = some q ∧ 32768 ≤ (p.sseq + 65536 - q.next) % 65536
          ∧ q.answers.find? (fun a => decide (a.1 = p.sseq)) = some (p.sseq, p) := by
  unfold Clocked
  intro op
  refine ⟨?_, ?_, rfl, rfl, ?_, ⟨⟨9, 0, 0, vcOf (op + 1), 1, 65535, [], []⟩, ?_⟩,
    ⟨⟨9, 0, 0, vcOf (op + 1), 1, 0, [], [(65535, inbound (op + 1) 0 false (toBytes 8 1))]⟩, ?_⟩⟩ <;> (revert op; decide +kernel)
/-- The number that a stream's packet bears, ahead of the stream's next by a distance. -/
def aheadBy (next sseq : Nat) : Nat := (sseq + 65536 - next) % 65536
/-- A stream that expects number 3, holds packet 5, and whose reorder buffer has room or has none for another. -/
def holding (size : Nat) : State :=
  let s := receiving 3 [] 2
  { s with nxp := { s.nxp with rx := s.nxp.rx.map (fun q => { q with held := [{ inbound 2 0 false (List.replicate size 0) with sseq := 5 }] }) } }
/-- A newer epoch of the source is known, and an older one; a lost die; a stream's first packet; packets ahead of their stream. -/
theorem witness_packetsPlacedInOrder_old :
    (let s := receiving 0 [] 1; (∃ r ∈ s.nxp.rx, r.src = 9 ∧ epochNewer r.epoch 0 = true)
      ∧ (∀ r ∈ s.nxp.rx, r.src = 9 → epochNewer r.epoch 2 = false) ∧ (∃ r ∈ s.nxp.rx, r.src = 9 ∧ r.epoch ≠ 2))
      ∧ bit ({ ready with nxp := { ready.nxp with diesLost := 1 } } : State).nxp.diesLost 0 = true
      ∧ (joined (marked 1 0 withCtx)).nxp.rx.find? (fun q => q.of { inbound 2 0 false (toBytes 8 1) with sseq := 0 }) = none
      ∧ (receiving 0 [] 1).nxp.rx.find? (fun q => q.of (inbound 1 0 false [])) = some ⟨9, 0, 0, vcOf 1, 1, 0, [], []⟩
      ∧ (1 ≤ aheadBy 3 4 ∧ aheadBy 3 4 < 32768 ∧ aheadBy 3 32770 < 32768 ∧ 32768 ≤ aheadBy 3 32771 ∧ 1 ≤ aheadBy 3 5)
      ∧ (let s := holding 8
        (∃ q ∈ s.nxp.rx, q.held.any (fun h => decide (h.sseq = 5)) = true ∧ q.held.any (fun h => decide (h.sseq = 4)) = false
          ∧ q.vc ≠ 0 ∧ (q.held.find? (fun p => decide (p.sseq = ({ q with next := 5 } : Stream).next))).isSome = true)
          ∧ s.reorderBytes 0 false + 24 + 8 ≤ 0xFC0000)
      ∧ (let s := holding 0
        let w (n : Nat) : Stream := ⟨9, 0, 0, 0, 1, 3, List.replicate n { inbound 4 0 false (List.replicate 8168 0) with sseq := 5 }, []⟩
        let t : State := { s with nxp := { s.nxp with rx := [w 32] } }
        0x40000 < t.reorderBytes 0 true + 24 + 8) := by decide +kernel

theorem of_done2 {r : State × Nat} {n : Nat} (h : r.2 = n) : ∃ u, r = (u, n) := ⟨r.1, Prod.ext rfl h⟩
/-- The same with the page NOSPEC. -/
def guarded : State :=
  { receiving 65535 [] 1 with ctxs := [(1, { someCtx with pages := [⟨0, 0x200000, 2, 1, 0xF⟩] })] }
theorem witness_packetEffects :
    (let s := receiving 65535 [] 1; s.servesRemote = true ∧ s.exporter 7 = some 1 ∧ s.exporter 8 = none)
      ∧ (∃ bs, (receiving 65535 [] 1).read ((receiving 65535 [] 1).remoteWho 1 0) 0 8 = .data bs)
      ∧ (∃ t, (receiving 65535 [] 1).write ((receiving 65535 [] 1).remoteWho 1 0) 0 ((toBytes 8 1).take 8) = (t, none))
      ∧ (guarded.servesRemote = true ∧ guarded.exporter 7 = some 1 ∧ (units 0 8).any (fun q => guarded.nospec 1 q.1) = true)
      ∧ (∃ t, (receiving 65535 [] 3).remoteWrite (inbound 3 0 false (toBytes 8 1)) ((toBytes 8 1).take 8) = (t, 0))
      ∧ (∃ t, (receiving 65535 [] 3).remoteWrite (inbound 3 0x40000000 false (toBytes 8 1)) ((toBytes 8 1).take 8) = (t, 0x505))
      ∧ (let s := receiving 65535 [] 4; let addr := wkey 1 9
        s.nxp.leaving = false ∧ s.servesRemote = true ∧ s.exported (wkey (bits addr 25 20) (bits addr 19 0)) = some (mark 1 0)
          ∧ field (toBytes 8 1) 0 8 ≠ 0)
      ∧ ((receiving 65535 [] 4).nxp.device ≠ 0x7FFF ∧ ready.nxp.device = 0x7FFF ∧ ready.servesRemote = false)
      ∧ ({ receiving 65535 [] 4 with wmk := { binds := [(wkey 1 9, { mark 1 0 with exported := false })] } } : State).exported (wkey 1 9)
          = none := by
  refine ⟨?_, of_gave ?_, of_wrote ?_, ?_, of_done2 ?_, of_done2 ?_, ?_, ?_, ?_⟩ <;> decide +kernel

def operation (resends : Nat) : Op := ⟨⟨0, 1, 0, 3, 9, 1, 0, 5, 7, 8, 0, false, []⟩, .copy 2, resends, true, 0, false⟩
def waitingOp (resends : Nat) : State := { ready with nxp := { ready.nxp with ops := [operation resends] } }
def answering (op addr : Nat) : Packet := ⟨0, op, 0, 9, 3, 1, 0, 5, 7, 0, addr, false, []⟩
/-- Thermos of context 1, and an Evile die of no record, issue bulk copies of eight bytes. -/
def copies : State := receiving 0 [] 1
def copier1 : CopyBy := .thermos 1 0
theorem witness_operationsEndOnce :
    (Clocked (waitingOp 0) ∧ bit (waitingOp 0).nxp.diesLost 0 = false ∧ (answering 8 0).rsv = false
        ∧ ready.opAt 0 5 = none ∧ (waitingOp 0).opAt 0 5 = some (operation 0) ∧ (answering 8 0).addr % 65536 = 0
        ∧ (answering 8 0x504).addr % 65536 ≠ 0 ∧ (answering 9 0).op = 9)
      ∧ ((waitingOp 2).opAt 0 5 = some (operation 2) ∧ (operation 2).resends < 3 ∧ (waitingOp 3).opAt 0 5 = some (operation 3))
      ∧ (Clocked copies ∧ copies.isHere (here 0) = true ∧ copies.isHere (9 * 2 ^ 48) = false ∧ (copies.get 0x200000 8).length = 8
        ∧ copies.copyCtx copier1 = some 1 ∧ copies.copyCtx (.evile 1 0) = none)
      ∧ copies.read (copies.copyWho copier1 1) 0 8 = .data (copies.get 0x200000 8)
      ∧ (∃ t, copies.write (copies.copyWho copier1 1) 0x40 (copies.get 0x200000 8) = (t, none))
      ∧ (∃ t c, copies.write (copies.copyWho copier1 1) 0x40000000 (copies.get 0x200000 8) = (t, some c))
      ∧ (∃ c, copies.read (copies.copyWho copier1 1) 0x40000000 8 = .stop c)
      ∧ (∃ u, copies.request (.copy 2) 0 1 6 9 8 0 false (copies.get 0x200000 8) = (u, 0))
      ∧ (∃ u, ready.request (.copy 2) 0 1 6 9 8 0 false (copies.get 0x200000 8) = (u, 0x501))
      ∧ (let s : State := { ready with nxp := { ready.nxp with copies := [(2, ⟨copier1, 0x502⟩)] } };
        (operation 0).owner = .copy 2 ∧ mfind s.nxp.copies 2 = some ⟨copier1, 0x502⟩
          ∧ s.nxp.ops.any (fun q => decide (q.owner = OpOwner.copy 2)) = false) := by
  have stops : ∀ {r : Rd}, gave r = false → ∃ c, r = .stop c := by intro r h; cases r <;> simp_all [gave]
  have fails : ∀ {r : State × Option Acc}, wrote r = false → ∃ t c, r = (t, some c) := by
    intro r h; obtain ⟨t, _ | c⟩ := r
    · simp [wrote] at h
    · exact ⟨t, c, rfl⟩
  unfold Clocked
  refine ⟨?_, ?_, ?_, ?_, of_wrote ?_, fails ?_, stops ?_, of_done2 ?_, of_done2 ?_, ?_⟩ <;> decide +kernel

/-! ## Membership, registers, Lantern, boot, clocks, the meter -/

/-- A device that is not a member, and one that is the active manager of hall 0, whose hall has the given members. -/
def joining (role request : Nat) (s : State) : State := { s with nxp := { s.nxp with joining := some (cmd 0, role, request) } }
def manager1 (members : Map Member) (s : State) : State :=
  { s with nxp := { s.nxp with device := 0x7FFC, mgr := 2, term := 4, members := members }, power := { s.power with mgrSel := true } }
def worker : Member := ⟨65535, 0, 0, false⟩
def msg (src ident term : Nat) : MgrMsg := ⟨src, term, ident, 3, 0, 32767, 7, 6, 2, 0, 1⟩

/-- FABRIC_JOIN and FABRIC_LEAVE that ring 0 has begun. -/
def joinSpell (role request : Nat) : List Byte → Bool := fun p => decide (field p 8 1 = role ∧ field p 0xA 2 = request)
def joins (role request : Nat) (s : State) : State := begunAs 0x28 0 (toBytes 2 role ++ toBytes 2 request) s
def leavesNow (s : State) : State := begunAs 0x29 0 [] s
/-- The active manager of hall 0 with one member, a port in service, and its fabric state changed by `f`. -/
def pairing (f : Fabric → Fabric) : State :=
  let s := manager1 [(9, worker)] ready; { s with nxp := f { s.nxp with ports := [(9, { state := 1 })] } }
theorem witness_membershipOfTheFabric :
    (let s := joins 1 0x4000 ready;
      Accepted s (cmd 0) 0x28 (joinSpell 1 0x4000) ∧ s.nxp.device = 0x7FFF ∧ s.nxp.joining = none ∧ decide (1 = 2) = s.managerMode)
      ∧ (let s := joins 2 0 { ready with power := { ready.power with mgrSel := true } };
        Accepted s (cmd 0) 0x28 (joinSpell 2 0) ∧ decide (2 = 2) = s.managerMode)
      ∧ (Accepted (joins 0 0 (joined ready)) (cmd 0) 0x28 (joinSpell 0 0) ∧ (joined ready).nxp.device ≠ 0x7FFF)
      ∧ (bit ready.nxp.diesLost (17 / 9) = false ∧ (ready.port 17).state = 0)
      ∧ ((joining 0 0 ready).nxp.joining = some (cmd 0, 0, 0) ∧ (joining 2 0x7FFD ready).nxp.joining = some (cmd 0, 2, 0x7FFD)
        ∧ (msg 0x7FFC 0x7FFE 1).ident % 32768 ≠ 0x7FFF ∧ (msg 0x7FFC 0x7FFF 1).ident % 32768 = 0x7FFF)
      ∧ (Accepted (leavesNow ready) (cmd 0) 0x29 (fun _ => true) ∧ (leavesNow ready).nxp.device = 0x7FFF
        ∧ Accepted (leavesNow (joined ready)) (cmd 0) 0x29 (fun _ => true) ∧ (leavesNow (joined ready)).nxp.ops = []
        ∧ Accepted (leavesNow (joined (waitingOp 0))) (cmd 0) 0x29 (fun _ => true)
        ∧ ({ waitingOp 0 with nxp := { (waitingOp 0).nxp with device := 3 } } : State).nxp.ops ≠ [])
      ∧ (let s := manager1 [(9, worker)] ready;
        Clocked s ∧ s.nxp.mgr = 2 ∧ s.grantId 0 0x3FFF = some 0x3FFF ∧ s.grantId 0 9 = some 0
          ∧ (({ s with nxp := { s.nxp with ports := [(9, { state := 1 })] } } : State).choosePort 1).isSome = true)
      ∧ (let s := manager1 [(9, worker)] ready;
        9 < 0x7FFC ∧ mfind s.nxp.members (9 + 32768 * s.nxp.hall) = some worker ∧ worker.state = 0 ∧ worker.spare = false
          ∧ (mput s.nxp.members 9 { worker with state := 1 }).find? (fun e => e.2.spare && decide (e.2.state = 0)) = none)
      ∧ (let s := manager1 [(9, worker), (0x4000, ⟨1, 0, 0, true⟩)] ready;
        (mput s.nxp.members 9 { worker with state := 1 }).find? (fun e => e.2.spare && decide (e.2.state = 0)) = some (0x4000, ⟨1, 0, 0, true⟩))
      ∧ ({ ready with nxp := { ready.nxp with mgr := 1 } } : State).nxp.mgr = 1 := by
  unfold Accepted Clocked; decide +kernel
theorem witness_membershipOfTheFabric_grants :
    (let s := manager1 [(0x7FFC, worker), (0x7FFD, ⟨1, 0, 1, false⟩)] ready; s.nxp.mgr = 2 ∧ s.grantId 2 0x7FFC = none)
      ∧ (mfind (manager1 [(9, ⟨1, 0, 1, false⟩)] ready).nxp.members 9 = some ⟨1, 0, 1, false⟩)
      ∧ ((pairing (fun n => { n with standby := true })).nxp.standby = true ∧ CanSend (pairing id)) := by
  unfold CanSend; decide +kernel

theorem epoch_of {m : Map Member} {k e : Nat} (h : (mfind m k).map Member.epoch = some e) (r : Member) (hr : mfind m k = some r) :
    r.epoch = e := by simpa [hr] using h
theorem witness_heartbeatsAndTerms :
    (let s := joined ready; Clocked s ∧ s.nxp.device ≠ 0x7FFF ∧ s.nxp.mgr ≠ 2)
      ∧ (let s := manager1 [(9, worker)] ready; let m := msg 0x7FFC 9 5; let n := msg 9 9 4
        s.nxp.device ≠ 0x7FFF ∧ s.nxp.mgr = 2 ∧ m.src / 32768 = s.nxp.hall ∧ 0x7FFC ≤ m.src % 32768 ∧ m.src % 32768 < 0x7FFF
          ∧ s.nxp.term < m.term ∧ n.src / 32768 = s.nxp.hall ∧ n.src % 32768 < 0x7FFC ∧ mfind s.nxp.members n.src = some worker
          ∧ worker.dies ≠ n.dies ∧ n.term ≤ s.nxp.term ∧ (msg 9 9 3).term < s.nxp.term
          ∧ mfind s.nxp.members n.ident = some worker ∧ ({ n with state := 2 } : MgrMsg).state = 2)
      ∧ (let s := manager1 [] ready; let m := msg 0x7FFD 9 4; s.nxp.standby = false ∧ m.src = s.other ∧ m.term = s.nxp.term)
      ∧ (let m := msg 0xFFFC 9 4; let s := pairing id; let t := pairing (fun n => { n with pair := true })
        s.nxp.device ≠ 0x7FFF ∧ m.src / 32768 ≠ s.nxp.hall ∧ t.nxp.pair = true ∧ s.nxp.mgr = 2 ∧ s.nxp.pair = false ∧ s.nxp.standby = false
          ∧ s.nxp.changes = [])
      ∧ (let s := joined ready; (msg 0x7FFC 0x7FFE 4).ident % 32768 = 0x7FFE ∧ s.nxp.term ≤ (msg 0x7FFC 0x7FFE 4).term ∧ s.nxp.mgr ≠ 2)
      ∧ (let s := joined ready; let m : MgrMsg := { msg 0x7FFE 9 0 with epoch := 1 }
        s.nxp.term ≤ m.term ∧ s.nxp.mgr ≠ 2 ∧ m.state = 0)
      ∧ ∀ r, mfind (joined ready).nxp.members 9 = some r → r.epoch = 1 := by
  unfold Clocked
  refine ⟨?_, ?_, ?_, ?_, ?_, ?_, epoch_of ?_⟩ <;> decide +kernel

def committing (step : Nat) : State := { ctxState { someCtx with commit := some ⟨cmd 1, step, true⟩ } with ctxRegs := [(1, { job := 7 })] }
/-- A READY of device 9 for step 6 of job 7, of two members. -/
def ready9 : ReadyRec := ⟨7, 6, 2, 9⟩
theorem witness_barriersCommitOrAbandon :
    (let s := pairing id; let m := msg 9 9 4
      let other := pairing (fun n => { n with ready := [⟨7, 6, 3, 8⟩] })
      Clocked s ∧ s.nxp.mgr = 2 ∧ (∃ q ∈ other.nxp.ready, q.job = m.job ∧ q.members ≠ m.members)
        ∧ (∀ q ∈ s.nxp.ready, q.job = m.job → q.members = m.members) ∧ s.nxp.standby = false
        ∧ (pairing (fun n => { n with standby := true })).nxp.standby = true ∧ ready9 ∉ s.nxp.ready
        ∧ ready9 ∈ (pairing (fun n => { n with standby := true, ready := [ready9] })).nxp.ready)
      ∧ (let s := pairing (fun n => { n with ready := [⟨7, 6, 2, 8⟩] })
        let n (s : State) := ((if s.nxp.ready.contains ready9 then s.nxp.ready else s.nxp.ready ++ [ready9]).filter
          (fun q => decide (q.job = ready9.job ∧ q.step = ready9.step))).length
        s.nxp.commits = [] ∧ n (pairing id) < ready9.members ∧ ready9.members ≤ n s ∧ s.nxp.standby = false ∧ s.nxp.pair = false
          ∧ (pairing (fun n => { n with pair := true })).nxp.pair = true) := by
  unfold Clocked; decide +kernel
theorem witness_barriersCommitOrAbandon_members :
    (let m := msg 0x7FFE 9 4; let c (step : Nat) : Ctx := { someCtx with commit := some ⟨cmd 1, step, true⟩ }
        (∀ b : Bool, let step := if b then 6 else 5; let s := committing step
          s.nxp.mgr ≠ 2 ∧ s.nxp.term ≤ m.term ∧ s.ctx 1 = some (c step) ∧ s.ofJob m.job = [(1, c step)])
        ∧ (let d : Ctx := { someCtx with step := some 6 }; let s : State := { ctxState d with ctxRegs := [(1, { job := 7 })] };
          s.ofJob m.job = [(1, d)] ∧ d.commit = none ∧ (c 6).committed = false ∧ m.state ≠ 0x504 ∧ d.step = some m.step ∧ d.committed = false
            ∧ d.cause = none ∧ d.told = false)
        ∧ (let d : Ctx := { someCtx with step := some 6, commit := some ⟨cmd 1, 6, true⟩ }
          let s : State := { ctxState d with ctxRegs := [(1, { job := 7 })] };
          s.ofJob m.job = [(1, d)] ∧ d.committed = false ∧ d.step = some m.step ∧ ({ m with state := 0x504 } : MgrMsg).state = 0x504)
        ∧ ({ someCtx with told := true } : Ctx).told = true ∧ ({ someCtx with cause := some 1 } : Ctx).cause ≠ none) := by
  decide +kernel
theorem witness_barriersCommitOrAbandon_mirror :
    (let s : State := { ready with nxp := { ready.nxp with mgr := 1, term := 4 } };
        s.nxp.mgr = 1 ∧ (msg 0x7FFC 9 4).src / 32768 = s.nxp.hall ∧ s.nxp.term ≤ (msg 0x7FFC 9 4).term ∧ (msg 0x7FFC 9 3).term < s.nxp.term
          ∧ s.nxp.mgr ≠ 0 ∧ (msg 0xFFFC 9 3).src / 32768 ≠ s.nxp.hall ∧ (manager1 [] ready).nxp.mgr = 2)
      ∧ (let m := { msg 0x7FFD 9 4 with request := 4 }
        let c : Change := ⟨{ msg 0x7FFC 9 4 with role := 4 }, [(9, 4, msg 0x7FFC 9 4)], none, none, none⟩
        let s : State := { ready with nxp := { ready.nxp with mgr := 2, standby := true, changes := [c] } };
        Clocked s ∧ s.nxp.mgr = 2 ∧ m.src / 32768 = s.nxp.hall ∧ s.nxp.term ≤ m.term ∧ s.nxp.changes = [c] ∧ c.msg.role = m.request
          ∧ m.request ≠ 6 ∧ c.msg.ident = m.ident ∧ c.msg.job = m.job ∧ c.msg.step = m.step)
      ∧ (∀ ack : Bool, let m := { msg 0x7FFD 9 4 with request := 6 }; let c : CommitRec := ⟨7, 6, false, ack⟩
        let s := pairing (fun n => { n with standby := true, commits := [c] })
        s.nxp.mgr = 2 ∧ m.src / 32768 = s.nxp.hall ∧ s.nxp.term ≤ m.term ∧ m.request = 6 ∧ s.nxp.commits = [c] ∧ c.job = m.job ∧ c.step = m.step)
      ∧ (∀ standby : Bool, let s := pairing (fun n => { n with pair := true, standby := standby, commits := [⟨7, 6, false, false⟩] })
        Clocked s ∧ s.nxp.mgr = 2 ∧ s.nxp.pair = true ∧ (∃ c ∈ s.nxp.commits, c.pairAck = false) ∧ s.nxp.changes = [] ∧ s.nxp.standby = standby)
      ∧ CanSend (pairing id) := by
  unfold Clocked CanSend; decide +kernel

/-- Cluster 0 is under Roll Call, so that the crossing into it is closed. -/
def shut : State := { ready with clusters := [(0, { mode := .rollcall })] }
def windowed (w : Nat) (s : State) : State := { s with pci := { s.pci with fns := [(0, { win := BitVec.ofNat 64 w })] } }
/-- The two pieces of memory that the window reaches at offset 4,095. -/
def windowUnits : List (Nat × Nat) := [(0x200FFF, 1), (0x201000, 7)]
theorem witness_windowReadsAndWrites :
    (let s := windowed (2 ^ 55 + 2 ^ 48) withCtx; let t : State := { s with bad := [0x201000] }
      Writes s 0 ∧ 4095 + 8 ≤ s.barSize 0 4 ∧ s.barSize 0 4 < 2 ^ 36 + 8 ∧ s.winUnits 0 false 4095 8 = some windowUnits
        ∧ s.badUnit windowUnits = none ∧ t.winUnits 0 false 4095 8 = some windowUnits ∧ t.badUnit windowUnits = some 0x201000
        ∧ s.winUnits 0 true 4095 8 = some windowUnits ∧ (∀ u ∈ windowUnits, s.mergesBad u.1 u.2 = false)
        ∧ t.winUnits 0 true 4095 8 = some windowUnits ∧ windowUnits.find? (fun u => t.mergesBad u.1 u.2) = some (0x201000, 7))
      ∧ (windowed 0 withCtx).winUnits 0 false 0 1 = none ∧ (windowed 0 withCtx).winUnits 0 true 0 1 = none
      ∧ (∀ n : Fin 2, let o := 0x614 - 4 * (n : Nat)
        o + 4 * ((n : Nat) + 1) ≤ ready.barSize 0 0 ∧ o % (4 * ((n : Nat) + 1)) = 0 ∧ (ready.barWord 0 (o / 8 * 8)).isSome = true)
      ∧ (ready.barBarred 0 0x100000 = none ∧ (ready.barWord 0 0x100000).isSome = true
        ∧ (shut.barWord 0 0x100000).isSome = true ∧ shut.barBarred 0 0x100000 = some (crossingInto 0))
      ∧ (ready.barSize 0 0 < 2 ^ 26 - 7 + 8 ∧ ready.barSize 0 4 < 2 ^ 34 - 7 + 8)
      ∧ (ready.barWord 0 0xF0000 = none ∧ 0xF0000 + 8 ≤ ready.barSize 0 0 ∧ 8 ≤ ready.barSize 0 2) := by
  unfold Writes Clocked; decide +kernel

theorem witness_registerWrites :
    (let s := withRings (ringAt 4) { enable := true } ready; let z := withRings {} {} ready
      Writes s 0 ∧ ((s.fnOf 0).crOf 0).enable = true ∧ ((s.fnOf 0).cqOf 0).enable = true ∧ ((z.fnOf 0).crOf 0).enable = false
        ∧ ((z.fnOf 0).cqOf 0).enable = false ∧ bit 0x19 0 = true ∧ 6 ≤ bits 0x19 5 2 ∧ bit 0 0 = false)
      ∧ (ready.owned 1 = 0 ∧ ({ ready with ctxs := [(1, { someCtx with fn := 1 })] } : State).owned 1 ≠ 0)
      ∧ (let s : State := { ready with pci := { ready.pci with
          vfEnable := true, numVfs := 1
          fns := [(1, { cr := [(0, { enable := true, log2 := 4, begun := [⟨0x01, 7, false, packetBytes 0x01 0 0 0 7 createPs, false⟩] })] })] } };
        Accepted s ⟨1, 0, 7, false, 0⟩ 0x01 (fun p =>
            decide (field p 8 8 = 2 ^ 64 - 1 ∧ field p 0x10 8 = 0 ∧ field p 0x18 1 = 3 ∧ field p 0x19 1 = 3))
          ∧ bits (s.limitsOf 1) 46 41 = 0)
      ∧ (ready.boot.state ≠ .recovery ∧ ready.ctxs = [] ∧ (1 : W32).toNat % 2 ≠ ready.hbm.ilv ∧ withCtx.ctxs ≠ [])
      ∧ (900 ≤ (900 : W32).toNat % 2 ^ 11 ∧ (1750 : W32).toNat % 2 ^ 11 ≤ 1750 ∧ (1750 : W32).toNat % 2 ^ 11 % 25 = 0
        ∧ ¬ (900 ≤ (899 : W32).toNat % 2 ^ 11))
      ∧ ((withGraph {} withCtx).jobRefused 1 0 = true ∧ withCtx.jobRefused 1 0x10007 = false)
      ∧ (blockOf 0xF0000 = none ∧ blockOf 0x610 = some (.sys, 0x610) ∧ sizeOk 0x610 8 = true ∧ ready.reaches .sys = true
          ∧ ready.barBarred 0 0x610 = none)
      ∧ (let s : State := { ready with boot := { ready.boot with state := .recovery } };
        blockOf 0xF0000 = none ∧ sizeOk 0xF0000 4 = true ∧ s.boot.state = .recovery ∧ s.reaches .trh = false
          ∧ blockOf 0x20000 = some (.trh, 0) ∧ sizeOk 0x20000 4 = true)
      ∧ (sizeOk 0x612 4 = false ∧ sizeOk 0x610 2 = false)
      ∧ (blockOf 0x100000 = some (.cls 0, 0) ∧ sizeOk 0x100000 8 = true ∧ shut.reaches (.cls 0) = true
        ∧ shut.barBarred 0 0x100000 = some (crossingInto 0)) := by
  unfold Accepted Writes Clocked; decide +kernel

theorem witness_functionsAndTheirReset :
    (let s : State := { ready with pci := { ready.pci with vfEnable := true, numVfs := 63 } }; Writes s 63)
      ∧ (ready.ctxs = [] ∧ ready.fnExists 63 = false ∧ ready.fnExists 0 = true ∧ ready.boot.state ≠ .booting)
      ∧ (Clocked State.reset ∧ State.reset.boot.state = .booting)
      ∧ (∀ f, ready.fnExists f = true →
        ({ ready with pci := { ready.pci with numVfs := 63, vfEnable := true } } : State).fnExists f = true) := by
  unfold Writes Clocked
  refine ⟨?_, ?_, ?_, fun f h => ?_⟩
  rotate_right
  · simp [State.fnExists, ready, State.reset] at h ⊢; exact Or.inl h
  all_goals decide +kernel

def asking8 (addr ctx : Nat) (s : State) : State := { s with lnt := { s.lnt with addr := BitVec.ofNat 64 addr, ctx := BitVec.ofNat 32 ctx } }
theorem witness_lanternReadsAndWrites :
    (let s := asking8 0x18 0 ready; let o := s.lnt.addr.toNat % 2 ^ 48
      Clocked s ∧ s.boot.state = .ready ∧ s.boot.lanternUsed = true ∧ s.lnt.translate = false ∧ o % 8 = 0 ∧ regionOf o = .hbm
        ∧ s.cross ⟨0, none, some 0x37⟩ o = .ok o
        ∧ s.lostTarget o = false ∧ s.uncorrectable o 8 = false ∧ s.mergesBad o 8 = false)
      ∧ (let s := asking8 0x610 0 ready; let r := s.lnt.addr.toNat % 2 ^ 26
        r % 8 = 0 ∧ blockOf r = some (.sys, 0x610) ∧ s.blockBarred 0x37 .sys = none)
      ∧ (let s : State := { marked 1 5 withCtx with lnt := { ctx := BitVec.ofNat 32 (1 + 9 * 2 ^ 6) } };
        (s.ctx s.lnt.ctxOf).isSome = true ∧ s.leaves s.lnt.ctxOf = false
          ∧ s.home (wkey s.lnt.ctxOf s.lnt.idOf) = .here (wkey 1 9) (mark 1 5))
      ∧ (let s := asking8 683 0 ready;
        s.lnt.addr.toNat % 2 ^ 10 ≤ 683 ∧ bits s.lnt.addr.toNat 27 16 % 8 = 0
          ∧ s.barred (some 0x37) (s.lnt.addr.toNat % 2 ^ 10 / 19) = none)
      ∧ (let s : State := { asking8 0x18 0 ready with sys := { ready.sys with quarantine := [crossingOf 0x37 0x27] } }
        Clocked s ∧ s.cross ⟨0, none, some 0x37⟩ 0x18 = .closed (crossingOf 0x37 0x27))
      ∧ (ready.lnt.ir ≠ 0x20 ∧ ready.boot.debugUsed = false ∧ ready.lnt.ir = 0x01)
      ∧ (({ jtag := some (0, 0, 0) } : LntVia).jtag = some (0, 0, 0) ∧ ({ ready.lnt with ir := 0x20 } : Lantern).ir = 0x20
        ∧ ({ ready.lnt with ir := 0xFF } : Lantern).ir ≠ 0x20)
      ∧ ({ ready.boot with debugUsed := true } : Boot).debugUsed = true := by
  unfold Clocked; decide +kernel

theorem witness_bootAndResets :
    (Clocked State.reset ∧ State.reset.boot.state = .booting ∧ State.reset.power.sampled = false)
      ∧ ({ State.reset.power with sampled := true, good := false } : Power).good = false
      ∧ imageCode [] ≠ 0 ∧ Clocked ready ∧ ready.power.good = true := by
  unfold Clocked; decide +kernel

theorem witness_clocksFollowTheirLimits :
    Clocked ready ∧ ({ ready.power with waiting := some 1700 } : Power).waiting = some 1700
      ∧ 105 ≤ (hottestOf [30, 105]).1 ∧ (100 ≤ (hottestOf [100, 30]).1 ∧ (hottestOf [100, 30]).1 < 105) := by
  unfold Clocked; decide

def metered (m : Meter) : State := { ready with mtr := m }
/-- METER_READ and ATTEST that ring 0 has begun. -/
def meterSpell (seq dest flags : Nat) : List Byte → Bool := fun p =>
  decide (field p 8 8 = seq ∧ field p 0x10 8 = dest ∧ field p 0x18 4 = flags)
def reads (seq dest flags : Nat) : State :=
  begunAs 0x30 0 (toBytes 8 seq ++ toBytes 8 dest ++ toBytes 4 flags) (metered { records := [(2, [1])], silent := true })
theorem witness_meterRecordsAndReports :
    (Clocked (metered { interval := 60000000, emitted := true }) ∧ (metered {}).power.good = true)
      ∧ (let s := metered { records := [(2, [1])], silent := true };
        s.mtr.silent = true ∧ s.mtr.find 0 = some (2, [1]) ∧ s.mtr.find 2 = some (2, [1]) ∧ s.mtr.find 3 = none ∧ s.mtr.emitted = false)
      ∧ (∀ f : Fin 3, Accepted (reads (2 + f) 0 f) (cmd 0) 0x30 (meterSpell (2 + f) 0 f))
      ∧ (let s := reads 2 0 0;
        0 + 5395 ≤ hbmBytes ∧ ∀ q ∈ units 0 ([1] : List Byte).length, s.lostTarget q.1 = false ∧ s.mergesBad q.1 q.2 = false)
      ∧ (let nonce : List Byte := List.replicate 32 3
        Accepted (begunAs 0x31 0 (nonce ++ toBytes 8 16) ready) (cmd 0) 0x31 (fun p => decide (slice p 8 32 = nonce ∧ field p 0x28 8 = 16)))
      ∧ (List.replicate 5395 (0 : Byte)).length = 5395 := by
  unfold Accepted Clocked
  refine ⟨?_, ?_, ?_, ?_, ?_, List.length_replicate⟩ <;> decide +kernel

/-! ## Worked examples of the spec -/

def exampleBlock : List FV := [0x447A0000, 0xC2160000, 0x3C23D70A].map ofF32 ++ List.replicate 29 FV.zero
/-- Table 2.8: scale byte and first three encodings of MX32 and of FB32. -/
theorem test_table_2_8 :
    (let q := quantBlock 1 3 0 (fun _ => none) exampleBlock; (q.1, q.2.1.take 3)) = (0x80, [0x7E, 0xD9, 0x03])
      ∧ (let q := quantBlock 3 3 0 (fun _ => none) exampleBlock; (q.1, q.2.1.take 3)) = (0x81, [0x78, 0xD1, 0x01]) := by
  decide +kernel
/-- "Why the pass sum is exact": 4,096 × 4,096 + 1 × 1 − 4,096 × 4,096 in one pass gives 1.0. -/
theorem test_pass_sum_is_exact :
    (let v (w : Nat) : Operand := some (ofF32 w, ofF32 0x3F800000);
      passF32 0 [(v 0x45800000, v 0x45800000), (v 0x3F800000, v 0x3F800000), (v 0xC5800000, v 0x45800000)]) = (0x3F800000, 0) := by
  decide +kernel
/-- The packet of Table 11.14 passes every check of a ring of a function that owns context 5, and its MAP_PAGES maps the last byte of the
40 GiB. -/
def packet11_14 : List Byte :=
  slice ([0x03, 0x00, 0x05, 0x18, 0x07, 0x01, 0x00, 0x00, 0, 0, 0, 0, 0x20, 0, 0, 0, 0, 0, 0, 0, 0x24, 0, 0, 0, 0x28, 0, 0, 0, 0x13] : List Byte) 0 64
theorem test_table_11_14 :
    (let s : State := { ready with ctxs := [(5, emptyCtx)] };
      (s.packetCode 0 packet11_14, s.mapOk ⟨0, 0, 0x107, false, 5⟩ (field packet11_14 8 8) (field packet11_14 0x10 8)
          (field packet11_14 0x18 4) (field packet11_14 0x1C 2),
        lookupPage [⟨0x002000000000, 0x002400000000, 40, 2, 0x13⟩] 0x0029FFFFFFFF)) = (0, true, some (0x002DFFFFFFFF, 0x13)) := by
  decide +kernel
/-- The footprint of the sequence-sharded activation: 440,401,920 bytes. -/
theorem test_sharded_footprint :
    dsFoot (slice (toBytes 12 0 ++ toBytes 4 0x2201 ++ toBytes 4 7168 ++ toBytes 4 30720 ++ toBytes 24 0 ++ toBytes 6 2048 ++ toBytes 6 458752
      ++ toBytes 48 0 ++ toBytes 4 31 ++ toBytes 4 (31 + 2 ^ 16)) 0 128) = (0, 440401919) := by decide +kernel

end Sys2Proof.Tests
end

section
/-! SUPPORT. Waymarks at their home: what releasing waits and applying an add leave as they were (R300 to R302, R308). -/

namespace Sys2Proof.Safety

/-- The clocks that run are not stopped. -/
theorem Clocked.stopped {s : Machine.State} (h : Clocked s) : s.power.stopped = false := h

end Sys2Proof.Safety

namespace Sys2Proof.Machine

open Sys2Proof.Safety

/-! ## The release of waits -/

/-- A core whose WAIT is satisfied: it issues the instruction after the WAIT, and Rambler keeps nothing it fetched before. -/
def Core.pastWait (k : Core) : Core :=
  let l : Live := { k.live with pc := k.live.pc + 1 }
  { k with seq := .issuing, live := l, ramb := k.ramb.resync l [] }

/-- A satisfied WAIT changes its core, Nunex and the coalescer of its cluster. -/
theorem State.passWait_eq (s : State) (c : Nat) :
    s.passWait c =
      { s.setCore c (s.core c).pastWait with nxp := (s.passWait c).nxp, clusters := (s.passWait c).clusters } := by
  simp only [State.passWait, State.syncRamb, State.setCore_core, State.setCore_setCore]
  split <;> rfl

theorem State.passWait_core (s : State) (c : Nat) : (s.passWait c).core c = (s.core c).pastWait := by
  rw [State.passWait_eq]
  exact s.setCore_core c (s.core c).pastWait

theorem State.passWait_otherCores (s : State) (c : Nat) : OtherCores c s (s.passWait c) := by
  intro d hd
  rw [State.passWait_eq]
  exact s.setCore_core_other (s.core c).pastWait hd.symm

theorem State.releaseWait_of_core {w : Wait} {c : Nat} (s : State) (h : w.who = .core c) :
    s.releaseWait w = (s.modWmk (fun m => { m with waits := m.waits.erase w })).passWait c := by
  unfold State.releaseWait; rw [h]

theorem State.releaseWait_core {w : Wait} {c : Nat} (s : State) (h : w.who = .core c) :
    (s.releaseWait w).core c = (s.core c).pastWait := by
  rw [s.releaseWait_of_core h, State.passWait_core]; rfl

theorem State.releaseWait_otherCores {w : Wait} {c : Nat} (s : State) (h : w.who = .core c) : OtherCores c s (s.releaseWait w) := by
  intro d hd
  rw [s.releaseWait_of_core h, State.passWait_otherCores _ c d hd]; rfl

/-- What the release of waits keeps: memory, the bindings and the adds in flight; a core that issues goes on issuing. -/
structure ReleaseKeeps (s t : State) : Prop where
  mem : t.mem = s.mem
  hbm : t.hbm = s.hbm
  binds : t.wmk.binds = s.wmk.binds
  adds : t.wmk.adds = s.wmk.adds
  issuing : ∀ c, (s.core c).seq = .issuing → (t.core c).seq = .issuing

theorem ReleaseKeeps.refl (s : State) : ReleaseKeeps s s := ⟨rfl, rfl, rfl, rfl, fun _ h => h⟩

theorem ReleaseKeeps.trans {s t u : State} (h : ReleaseKeeps s t) (k : ReleaseKeeps t u) : ReleaseKeeps s u :=
  ⟨k.mem.trans h.mem, k.hbm.trans h.hbm, k.binds.trans h.binds, k.adds.trans h.adds, fun c x => k.issuing c (h.issuing c x)⟩

theorem ReleaseKeeps.sameMemory {s t : State} (h : ReleaseKeeps s t) : SameMemory s t := by
  intro a; rw [State.byteAt, State.byteAt, h.mem, h.hbm]

theorem State.releaseWait_keeps (s : State) (w : Wait) : ReleaseKeeps s (s.releaseWait w) := by
  cases h : w.who with
  | core c =>
    have issuing (d : Nat) (hd : (s.core d).seq = .issuing) : ((s.releaseWait w).core d).seq = .issuing := by
      by_cases e : d = c
      · subst e; rw [s.releaseWait_core h]; rfl
      · rw [s.releaseWait_otherCores h d e, hd]
    refine ⟨?_, ?_, ?_, ?_, issuing⟩ <;> rw [s.releaseWait_of_core h, State.passWait_eq] <;> rfl
  | task _ _ _ | evile _ _ _ =>
    unfold State.releaseWait
    rw [h]
    exact ⟨rfl, rfl, rfl, rfl, fun _ x => x⟩

/-- Releasing a list of waits keeps what releasing one keeps, and every core that waits in the list goes on. -/
theorem State.foldl_releaseWait (l : List Wait) : ∀ s : State,
    ReleaseKeeps s (l.foldl State.releaseWait s)
      ∧ ∀ w ∈ l, ∀ c, w.who = .core c → ((l.foldl State.releaseWait s).core c).seq = .issuing := by
  induction l with
  | nil => exact fun s => ⟨.refl s, by simp⟩
  | cons v r ih =>
    intro s
    obtain ⟨keeps, goes⟩ := ih (s.releaseWait v)
    refine ⟨(s.releaseWait_keeps v).trans keeps, fun w hw c hc => ?_⟩
    rcases List.mem_cons.mp hw with rfl | hw
    · exact keeps.issuing c (by rw [s.releaseWait_core hc]; rfl)
    · exact goes w hw c hc

theorem State.releaseMet_keeps (s : State) (key n : Nat) : ReleaseKeeps s (s.releaseMet key n) := (State.foldl_releaseWait _ s).1

/-- A core whose wait is met at its home goes on (R302). -/
theorem State.releaseMet_issuing {s : State} {key n c : Nat} {w : Wait} (hw : w ∈ s.wmk.waits) (hc : w.who = .core c)
    (hk : w.key = key) (ht : w.threshold ≤ n) (hp : w.how ≠ .poll) (hr : w.released = false) :
    ((s.releaseMet key n).core c).seq = .issuing :=
  (State.foldl_releaseWait _ s).2 w (List.mem_filter.mpr ⟨hw, by simp [hk, ht, hp, hr]⟩) c hc

/-! ## An add at its home -/

/-- A key whose operations are applied here has a binding under the key of its count. -/
theorem State.binding_of_home {s : State} {k key : Nat} {b : Binding} (h : s.home k = .here key b) : s.binding key = some b := by
  unfold State.home at h
  split at h
  · cases h
  · split at h
    · cases h; assumption
    · split at h
      · split at h
        · rename_i he
          cases h
          unfold State.exported at he
          split at he
          · split at he
            · cases he; assumption
            · cases he
          · cases he
        · cases h
      · cases h

/-- What an add changes before it releases waits: the count of its key, the bank's counter and, where the count saturates, the marks. -/
theorem State.applyAdd_eq {s : State} {key inc : Nat} {b : Binding} (h : s.binding key = some b) :
    ∃ t : State, s.applyAdd key inc = t.releaseMet key (min (b.count + inc) (2 ^ 64 - 1)) ∧ t.mem = s.mem ∧ t.hbm = s.hbm
      ∧ t.wmk.waits = s.wmk.waits ∧ t.wmk.adds = s.wmk.adds
      ∧ t.wmk.binds = mput s.wmk.binds key { b with count := min (b.count + inc) (2 ^ 64 - 1) } := by
  refine ⟨_, by simp only [State.applyAdd, h, satAdd]; rfl, ?_⟩
  simp only [State.setCount, h]
  split <;> split <;> exact ⟨rfl, rfl, rfl, rfl, rfl⟩

/-- The state in which the add at a place of those in flight has left them. -/
def State.takeAdd (s : State) (n : Nat) : State := s.modWmk (fun m => { m with adds := m.adds.eraseIdx n })

theorem execWaymarkCountAdd_eq {s : State} {n : Nat} {a : Add} (hs : Clocked s) (ha : s.wmk.adds[n]? = some a) :
    execWaymarkCountAdd n s = .next (if s.addFirst n a then (s.takeAdd n).deliver a else s) := by
  simp only [execWaymarkCountAdd, hs.stopped, ha, Bool.false_eq_true, if_false]
  split <;> rfl

/-- An add whose home is here is applied there. -/
theorem State.deliver_here {s : State} {a : Add} {n key : Nat} {b : Binding} (h : s.home a.key = .here key b) :
    (s.takeAdd n).deliver a = (s.takeAdd n).applyAdd key a.inc := by
  unfold State.deliver
  rw [show (s.takeAdd n).home a.key = .here key b from h]

/-- Settles O32. An add at its home changes the count of its key and then releases the waits that the count meets, one after another;
no release undoes another. -/
theorem waymarksCountAndRelease : Obligations.WaymarksCountAndRelease := by
  unfold Obligations.WaymarksCountAndRelease
  refine ⟨fun s n a hs ha => ⟨fun hf => ?_, fun key b hf hh => ?_⟩, fun s n remote w hs hw hp hr => ⟨?_, ?_, ?_⟩, fun s w c hc => ?_⟩
  · exact (execWaymarkCountAdd_eq hs ha).trans (by simp [hf])
  · have hb := State.binding_of_home hh
    obtain ⟨t, ht, hmem, hhbm, hwaits, hadds, hbinds⟩ :=
      State.applyAdd_eq (s := s.takeAdd n) (inc := a.inc) hb
    have keeps := t.releaseMet_keeps key (min (b.count + a.inc) (2 ^ 64 - 1))
    have hbind (k : Nat) : (t.releaseMet key (min (b.count + a.inc) (2 ^ 64 - 1))).binding k =
        if key = k then some { b with count := min (b.count + a.inc) (2 ^ 64 - 1) } else s.binding k := by
      rw [State.binding, keeps.binds, hbinds, mfind_mput]; rfl
    refine ⟨t.releaseMet key (min (b.count + a.inc) (2 ^ 64 - 1)), ?_, keeps.adds.trans hadds, fun x => ?_, ?_, fun k hk => ?_, ?_⟩
    · rw [← ht]
      exact (execWaymarkCountAdd_eq hs ha).trans (by rw [if_pos hf, State.deliver_here hh])
    · rw [keeps.sameMemory x, State.byteAt, State.byteAt, hmem, hhbm]; rfl
    · rw [hbind, if_pos rfl]
    · rw [hbind, if_neg hk.symm]
    · exact fun v hv c hc hk hth hpoll hrel => State.releaseMet_issuing (hwaits ▸ hv) hc hk hth hpoll hrel
  · intro key b hh
    simp [exec, execWatchPoll, hw, hs.stopped, hp, hr, hh]
  · intro b v hh hv
    simp [exec, execWatchPoll, hw, hs.stopped, hp, hr, hh, hv]
  · rintro (hh | ⟨⟨b, hh⟩, hv⟩)
    · simp [exec, execWatchPoll, hw, hs.stopped, hp, hr, hh]
    · simp [exec, execWatchPoll, hw, hs.stopped, hp, hr, hh, hv]
  · have keeps := s.releaseWait_keeps w
    refine ⟨?_, ?_, ?_, keeps.sameMemory, s.releaseWait_otherCores hc⟩
    · rw [s.releaseWait_core hc]; rfl
    · rw [s.releaseWait_core hc]; rfl
    · rw [s.releaseWait_of_core hc, State.passWait_eq]; rfl

end Sys2Proof.Machine
end

section
/-! SUPPORT. Crossing timeouts and package-internal links: what CDC_TIMEOUT writes down and for whom it fails, what a corrected error
logs, and what the loss of an Evile die leaves (R15, R27 to R29, R281, R371, R400, R404, R406). -/

namespace Sys2Proof.Machine

open Sys2Proof.Safety

/-! ## Failing records of the Evile dies -/

/-- What failing or changing records keeps: every register of the SYS_ block and the lost dies. -/
structure RecordKeeps (s t : State) : Prop where
  sys : t.sys = s.sys
  lost : t.evl.lost = s.evl.lost

theorem RecordKeeps.refl (s : State) : RecordKeeps s s := ⟨rfl, rfl⟩

theorem RecordKeeps.trans {s t u : State} (h : RecordKeeps s t) (k : RecordKeeps t u) : RecordKeeps s u :=
  ⟨k.sys.trans h.sys, k.lost.trans h.lost⟩

theorem State.modRec_eq (s : State) (x a : Nat) (f : Rec → Rec) : s.modRec x a f = { s with evl := (s.modRec x a f).evl } := by
  unfold State.modRec
  split <;> rfl

theorem State.modRec_lost (s : State) (x a : Nat) (f : Rec → Rec) : (s.modRec x a f).evl.lost = s.evl.lost := by
  unfold State.modRec
  split <;> rfl

theorem State.modRec_keeps (s : State) (x a : Nat) (f : Rec → Rec) : RecordKeeps s (s.modRec x a f) :=
  ⟨by rw [State.modRec_eq], s.modRec_lost x a f⟩

@[simp] theorem State.modRec_record (s : State) (x a : Nat) (f : Rec → Rec) :
    (s.modRec x a f).record x a = (s.record x a).map f := by
  unfold State.modRec
  cases h : s.record x a with
  | none => simp [h]
  | some r => simp [State.setRec, State.record]

theorem State.addWait_eq (s : State) (key n : Nat) (who : Waiter) : s.addWait key n who = { s with wmk := (s.addWait key n who).wmk } := by
  unfold State.addWait
  split <;> rfl

/-- Arming a record changes the waits and nothing else. -/
theorem State.armRecord_eq (s : State) (x a : Nat) : s.armRecord x a = { s with wmk := (s.armRecord x a).wmk } := by
  unfold State.armRecord
  split
  · rfl
  · refine List.foldlRecOn (motive := fun t : State => t = { s with wmk := t.wmk }) _ _ rfl (fun t ht n _ => ?_)
    split
    · exact ht
    · rw [State.addWait_eq, ht]

@[simp] theorem State.armRecord_sys (s : State) (x a : Nat) : (s.armRecord x a).sys = s.sys := by rw [State.armRecord_eq]
@[simp] theorem State.armRecord_evl (s : State) (x a : Nat) : (s.armRecord x a).evl = s.evl := by rw [State.armRecord_eq]

/-- A failed record is marked, and its event is posted. -/
theorem State.failRecord_replied {s : State} {x a : Nat} (code : Nat) {r : Rec} (h : s.record x a = some r) :
    Replied ((s.modRec x a (fun r => { r with failed := true, pulling := none })).armRecord x a) (s.failRecord x a code) := by
  simp only [State.failRecord, h, Option.isNone_some, Bool.false_eq_true, if_false]
  exact State.event_replied ..

theorem State.failRecord_keeps (s : State) (x a code : Nat) : RecordKeeps s (s.failRecord x a code) := by
  cases h : s.record x a with
  | none => simp only [State.failRecord, h, Option.isNone_none, if_true]; exact .refl s
  | some r =>
    have rep := State.failRecord_replied code h
    refine (s.modRec_keeps x a (fun r => { r with failed := true, pulling := none })).trans ⟨?_, ?_⟩
    · rw [rep.sys, State.armRecord_sys]
    · rw [rep.evl, State.armRecord_evl]

/-- A record that fails reads failed. -/
theorem State.failRecord_failed {s : State} {x a : Nat} (code : Nat) {r : Rec} (h : s.record x a = some r) :
    ((s.failRecord x a code).record x a).map Rec.failed = some true := by
  rw [State.record, (State.failRecord_replied code h).evl, State.armRecord_evl, ← State.record, State.modRec_record, h]
  rfl

/-! ## Crossing timeouts -/

theorem execCdcTimeout_eq {s : State} (hs : Clocked s) (x : BitVec 24) (b : CdcBy) :
    execCdcTimeout x b s = .next ((s.cdc x (s.crossingShut x) (s.ctxOf b)).cdcFails b) := by
  simp [execCdcTimeout, hs.stopped]

/-- The entry that the log takes of a crossing timeout (Table 14.2). -/
theorem State.cdc_log (s : State) (x : BitVec 24) (closed : Bool) (ctx : Option Nat) :
    (s.cdc x closed ctx).sys.log =
      s.sys.log.push ⟨s.sys.time, 0x702, 6, (ctx.map (· + 64)).getD 0 + 128 * b2n closed, x.toNat, x.toNat, 1⟩ := by
  cases ctx <;> rfl

/-- The crossings in quarantine after a timeout: those before, and this one unless it is closed (R29). -/
theorem State.mem_cdc_quarantine (s : State) (x y : BitVec 24) (closed : Bool) (ctx : Option Nat) :
    y ∈ (s.cdc x closed ctx).sys.quarantine ↔ y ∈ s.sys.quarantine ∨ (y = x ∧ closed = false) := by
  show y ∈ (if closed = true ∨ s.sys.quarantine.contains x then s.sys.quarantine else s.sys.quarantine ++ [x]) ↔ _
  by_cases hc : closed = true
  · simp [hc]
  · by_cases hx : x ∈ s.sys.quarantine
    · simp only [List.contains_iff_mem, hx, or_true, if_true]
      exact ⟨.inl, fun h => h.elim id (fun e => e.1 ▸ hx)⟩
    · simp [hc, hx]

/-! The end of what issued the transfer, by issuer. -/

section
variable {s : State}

theorem State.cdcFails_pending {c k : Nat} {p : Pending} (h : (s.core c).live.pendings[k]? = some p) :
    s.cdcFails (.core c k) = s.failCore c 0x702 p.pc p.word := by simp only [State.cdcFails, State.issuerFailsWith, h]

theorem State.cdcFails_noPending {c k : Nat} (h : (s.core c).live.pendings[k]? = none) :
    s.cdcFails (.core c k) = s.failCore c 0x702 (s.core c).live.pc (s.insnOf c) := by
  simp only [State.cdcFails, State.issuerFailsWith, h]

theorem State.cdcFails_dma {g i : Nat} (h : s.going g i = true) : s.cdcFails (.dma g i) = s.failTask g i 0x702 := if_pos h

theorem State.cdcFails_thermos {n t : Nat} {cx : Ctx} {k : Ckpt} (hx : s.ctx n = some cx) (hk : cx.ckpt = some k)
    (ht : bit k.left t = true) : s.cdcFails (.thermos n t) = (s.spoil n t).endTarget n t k false := by
  simp only [State.cdcFails, State.issuerFailsWith, hx, Option.bind_some, hk, ht, if_true]

theorem State.cdcFails_ingest {e h : Nat} (he : engineOf h = e) : s.cdcFails (.ingest e h) = s.stopStream h 0x904 := if_pos he

theorem State.cdcFails_trailhead {g i : Nat} (h : (s.taskOf g i).phase = .running) :
    s.cdcFails (.trailhead g i) = s.failTask g i 0x702 := by
  simp [State.cdcFails, State.issuerFailsWith, h]

theorem State.cdcFails_host {h : Cmd} {b : Begun}
    (hb : ((s.fnOf h.fn).crOf h.ring).begun.find? (fun b => decide (packetCmd h.fn h.ring b.packet = h) && !b.acted) = some b) :
    s.cdcFails (.host h) = s.finish h b.opcode 0x702 [] := by
  simp only [State.cdcFails, State.issuerFailsWith, hb]

theorem State.cdcFails_pcie {f : Nat} (h : s.fnExists f = true) : s.cdcFails (.pcie f) = (s.badAccess f).unsupported f := if_pos h

end

/-- Settles O25, by what the timeout writes down and then issuer by issuer. -/
theorem crossingTimeoutIsRecorded : Obligations.CrossingTimeoutIsRecorded := by
  unfold Obligations.CrossingTimeoutIsRecorded
  intro s x hs
  have run (b : CdcBy) : exec (.cdcTimeout x b) s = .next ((s.cdc x (s.crossingShut x) (s.ctxOf b)).cdcFails b) :=
    execCdcTimeout_eq hs x b
  refine ⟨fun b => ⟨rfl, rfl, s.cdc_log .., rfl, fun y => s.mem_cdc_quarantine .., _, run b⟩, fun c k t _ => ⟨fun p hp => ?_, fun hp => ?_⟩,
    fun g i hg => ?_, fun n a r hr => ⟨_, run _, State.failRecord_failed 0x702 hr⟩, fun n t cx k hx hk ht => ?_, fun e h he => ?_,
    fun g i hp => ?_, fun h b hb => ?_, fun f hf => ?_, fun d t => run _, run _⟩
  all_goals refine (run _).trans (congrArg _ ?_)
  · exact State.cdcFails_pending hp
  · exact State.cdcFails_noPending hp
  · exact State.cdcFails_dma hg
  · exact State.cdcFails_thermos hx hk ht
  · exact State.cdcFails_ingest he
  · exact State.cdcFails_trailhead hp
  · exact State.cdcFails_host hb
  · exact State.cdcFails_pcie hf

end Sys2Proof.Machine
end

section
/-! SUPPORT. Package-internal links: what a corrected error logs, and what the loss of an Evile die keeps (R15, R281, R371, R406). -/

namespace Sys2Proof.Machine

open Sys2Proof.Safety

/-- Whether an entry of the log is one of the same error as `e`, of the second before it (R406). -/
def ErrEntry.mergesInto (e : ErrEntry) (k : Nat × ErrEntry) : Bool :=
  decide (k.2.code = e.code ∧ k.2.kind = e.kind ∧ k.2.source = e.source ∧ k.2.detail = e.detail ∧ e.time ≤ k.2.time + 1000000000)

/-- The entry that a corrected error makes (Table 14.2). -/
def State.correctedEntry (s : State) (kind source detail : Nat) : ErrEntry :=
  ⟨s.sys.time, eventCode kind, kind, 0, source, detail, 1⟩

/-- The entry that a corrected error is looked for by is the one that it would make. -/
theorem State.correctedEntry_mergesInto (s : State) (kind source detail : Nat) :
    (fun e : Nat × ErrEntry => e.2.code = eventCode kind && e.2.kind = kind && e.2.source = source && e.2.detail = detail
      && decide (s.sys.time ≤ e.2.time + 1000000000)) = (s.correctedEntry kind source detail).mergesInto := by
  funext e
  rw [Bool.eq_iff_iff]
  simp only [ErrEntry.mergesInto, Bool.and_eq_true, decide_eq_true_eq, and_assoc]
  rfl

/-- A corrected error adds 1 to the entry of its error of the last second (R406). -/
theorem State.logCorrected_merged {s : State} {kind source detail : Nat} {k : Nat × ErrEntry}
    (h : s.sys.log.entries.find? (s.correctedEntry kind source detail).mergesInto = some k) :
    s.logCorrected kind source detail = { s with sys := { s.sys with log := { s.sys.log with
      entries := mset {} s.sys.log.entries k.1 { k.2 with count := min (k.2.count + 1) (2 ^ 32 - 1) } } } } := by
  unfold State.logCorrected
  simp only [State.correctedEntry_mergesInto, h, satAdd]

/-- Where no entry of its error is of the last second, a corrected error is an entry of its own (R406). -/
theorem State.logCorrected_new {s : State} {kind source detail : Nat}
    (h : s.sys.log.entries.find? (s.correctedEntry kind source detail).mergesInto = none) :
    s.logCorrected kind source detail =
      { s with sys := { s.sys with log := s.sys.log.push (s.correctedEntry kind source detail) } } := by
  unfold State.logCorrected
  simp only [State.correctedEntry_mergesInto, h]
  rfl

/-- A corrected error changes nothing but the log. -/
theorem State.logCorrected_frame (s : State) (kind source detail : Nat) :
    s.logCorrected kind source detail =
      { s with sys := { s.sys with log := (s.logCorrected kind source detail).sys.log } } := by
  cases h : s.sys.log.entries.find? (s.correctedEntry kind source detail).mergesInto with
  | some k => rw [State.logCorrected_merged h]
  | none => rw [State.logCorrected_new h]

theorem State.logCorrected_plink (s : State) (kind source detail l : Nat) : (s.logCorrected kind source detail).plink l = s.plink l := by
  rw [State.logCorrected_frame]; rfl

theorem State.modLink_plink_other (s : State) {l k : Nat} (f : PLink → PLink) (h : k ≠ l) : (s.modLink l f).plink k = s.plink k := by
  simp [State.modLink, State.plink, mget_mset_other _ _ _ h.symm]

/-- The loss of an Evile die fails records or gives them to the other die; it keeps the SYS_ block, and the die is lost (R281). -/
theorem State.loseEvile_keeps (s : State) (d : Nat) : (s.loseEvile d).sys = s.sys ∧ (s.loseEvile d).evl.lost = s.evl.lost ++ [d] := by
  have keeps : RecordKeeps { s with evl := { s.evl with lost := s.evl.lost ++ [d] } } (s.loseEvile d) := by
    refine List.foldlRecOn (motive := RecordKeeps { s with evl := { s.evl with lost := s.evl.lost ++ [d] } }) _ _ (.refl _)
      (fun t ht e _ => ?_)
    dsimp only
    split
    · exact ht
    · split
      · exact ht.trans (t.failRecord_keeps ..)
      · exact ht.trans (t.modRec_keeps ..)
  exact ⟨keeps.sys, keeps.lost⟩

/-- The state in which a link is down and the log says so. -/
def State.downLink (s : State) (l : Nat) : State :=
  (s.modLink l (fun k => { k with state := .down })).log (eventCode 4) 4 none false (l % 2) (Config.eventDetail 4 l)

theorem State.downLink_state (s : State) (l : Nat) : ((s.downLink l).plink l).state = .down :=
  congrArg PLink.state (s.modLink_plink l (fun k => { k with state := .down }))

/-- A link that has failed to retrain three times goes down, and the die at its far end is lost. -/
theorem execLinkDown_eq {s : State} {l : Nat} (hs : Clocked s) (htr : (s.plink l).state = .training) (h3 : 3 ≤ (s.plink l).retrains) :
    execLinkDown l s = .next (if l < 2 then (s.downLink l).loseEvile l else (s.downLink l).losePortDie (l - 2)) := by
  have : ¬ (s.plink l).retrains < 3 := by omega
  simp only [execLinkDown, hs.stopped, htr, this, ne_eq, not_true, decide_false, Bool.or_self, Bool.false_eq_true, if_false]
  rfl

/-- Settles O26, event by event: what the link holds after it, and what the log and the lost dies hold. -/
theorem packageLinksRetrain : Obligations.PackageLinksRetrain := by
  unfold Obligations.PackageLinksRetrain
  intro s l flit hs
  refine ⟨fun hup => ?_, fun hup h8 => ?_, fun htr => ⟨?_, ?_⟩, fun htr h3 => ⟨fun hl => ?_, fun hl => ?_⟩⟩
  · let t := s.modLink l (fun k => { k with flit := flit, fails := if k.fails = 0 ∨ k.flit ≠ flit then 1 else k.fails + 1 })
    have frame := t.logCorrected_frame 4 (l % 2) (Config.eventDetail 4 l)
    refine ⟨t.logCorrected 4 (l % 2) (Config.eventDetail 4 l), ?_, ?_, ?_, ⟨fun h => ?_, fun k h => ?_⟩, fun k hk => ?_⟩
    · simp [exec, execPackageLinkReplay, hs.stopped, hup]; rfl
    · rw [frame]; rfl
    · exact (t.logCorrected_plink ..).trans (s.modLink_plink l _)
    · exact congrArg (fun u => u.sys.log) (State.logCorrected_new (s := t) h)
    · exact congrArg (fun u => u.sys.log) (State.logCorrected_merged (s := t) h)
    · exact (t.logCorrected_plink ..).trans (s.modLink_plink_other _ hk)
  · simp [exec, execPackageLinkRetrain, hs.stopped, hup, h8]
  · simp [exec, execPackageLinkRetrain, hs.stopped, htr]
  · simp [exec, execPackageLinkRetrained, hs.stopped, htr]
  · obtain ⟨hsys, hlost⟩ := (s.downLink l).loseEvile_keeps l
    refine ⟨(s.downLink l).loseEvile l, (execLinkDown_eq hs htr h3).trans (by rw [if_pos hl]), ?_, by simp [hlost]⟩
    exact (congrArg (fun y => (mget {} y.links l).state) hsys).trans (s.downLink_state l)
  · exact (execLinkDown_eq hs htr h3).trans (by rw [if_neg (by omega)]; rfl)

end Sys2Proof.Machine
end

section
/-! SUPPORT. Reads and writes of a function's BARs (R318 to R325, R405): one equation for each BAR and outcome. -/

namespace Sys2Proof.Safety

/-- A register write is one of a function that exists, while the clocks run. -/
theorem Writes.notHeld {s : Machine.State} {f : Nat} (h : Writes s f) : (s.power.stopped || !s.fnExists f) = false := by
  simp [h.1.stopped, h.2]

end Sys2Proof.Safety

namespace Sys2Proof.Machine

open Sys2Proof.Safety

/-! ## Reads -/

section
variable {s : State} {f o n : Nat}

/-- An address past the end of a BAR is not the function's. -/
theorem execBar4Read_past {bar : Nat} (hw : Writes s f) (h : s.barSize f bar < o + n) :
    execBar4Read f ⟨bar, o⟩ n s = .next (s.unsupported f) := by
  simp only [execBar4Read, hw.notHeld, h, Bool.false_eq_true, if_false, if_true]

theorem execBar4Read_window {bar : Nat} (hw : Writes s f) (h : o + n ≤ s.barSize f bar) (h0 : bar ≠ 0) (h2 : bar ≠ 2) :
    execBar4Read f ⟨bar, o⟩ n s = .next (s.bar4Read f o n) := by
  simp only [execBar4Read, hw.notHeld, Nat.not_lt.mpr h, Bool.false_eq_true, if_false]

theorem execBar4Read_zeros (hw : Writes s f) (h : o + n ≤ s.barSize f 2) :
    execBar4Read f ⟨2, o⟩ n s = .next (s.emit (.barData f (List.replicate n 0))) := by
  simp only [execBar4Read, hw.notHeld, Nat.not_lt.mpr h, Bool.false_eq_true, if_false]

theorem execBar4Read_registers (hw : Writes s f) (h : o + n ≤ s.barSize f 0) :
    execBar4Read f ⟨0, o⟩ n s = .next (s.bar0Read f o n) := by
  simp only [execBar4Read, hw.notHeld, Nat.not_lt.mpr h, Bool.false_eq_true, if_false]

theorem sizeOk_iff : sizeOk o n = true ↔ (n = 4 ∨ n = 8) ∧ o % n = 0 := by simp [sizeOk]

/-- A read of BAR0 that reaches a register and that every crossing serves gives the register's bytes (R320). -/
theorem State.bar0Read_served {w : W64} (hn : sizeOk o n = true) (hw : s.barWord f (o / 8 * 8) = some w) (hb : s.barBarred f o = none) :
    s.bar0Read f o n = s.emit (.barData f (slice (toBytes 8 w.toNat) (o % 8) n)) := by
  simp only [State.bar0Read, hn, hw, hb, if_true]

/-- A read of BAR0 over a crossing that does not serve is recorded, and completes with Unsupported Request (R28). -/
theorem State.bar0Read_barred {w : W64} {x : BitVec 24} (hn : sizeOk o n = true) (hw : s.barWord f (o / 8 * 8) = some w)
    (hb : s.barBarred f o = some x) : s.bar0Read f o n = ((s.cdc x (s.crossingShut x) none).badAccess f).unsupported f := by
  simp only [State.bar0Read, hn, hw, hb, if_true]

/-- A read of BAR0 of another size, out of alignment or outside every block completes with Unsupported Request (R320). -/
theorem State.bar0Read_refused (h : (if sizeOk o n then s.barWord f (o / 8 * 8) else none) = none) :
    s.bar0Read f o n = (s.badAccess f).unsupported f := by
  simp only [State.bar0Read, h]

/-! ## Writes of the window -/

theorem barWrite_reaches (hw : Writes s f) (h : o + n ≤ s.barSize f 4) :
    (s.power.stopped || !s.fnExists f || decide (s.barSize f 4 < o + n)) = false := by
  simp [hw.notHeld, Nat.not_lt.mpr h]

variable {data : List Byte}

/-- A write past the end of BAR4 is not the function's. -/
theorem execBar4Write_past (hw : Writes s f) (h : s.barSize f 4 < o + data.length) : execBar4Write f o data s = .next s := by
  simp only [execBar4Write, hw.notHeld, h, decide_true, Bool.or_true, if_true]

theorem execBar4Write_failed (hw : Writes s f) (h : o + data.length ≤ s.barSize f 4) (hl : s.winUnits f true o data.length = none) :
    execBar4Write f o data s = .next (s.badAccess f) := by
  simp only [execBar4Write, barWrite_reaches hw h, hl, Bool.false_eq_true, if_false]

theorem execBar4Write_bad {l : List (Nat × Nat)} {u : Nat × Nat} (hw : Writes s f) (h : o + data.length ≤ s.barSize f 4)
    (hl : s.winUnits f true o data.length = some l) (hu : l.find? (fun u => s.mergesBad u.1 u.2) = some u) :
    execBar4Write f o data s = .next (s.noteBad u.1) := by
  simp only [execBar4Write, barWrite_reaches hw h, hl, hu, Bool.false_eq_true, if_false]

theorem execBar4Write_stored {l : List (Nat × Nat)} (hw : Writes s f) (h : o + data.length ≤ s.barSize f 4)
    (hl : s.winUnits f true o data.length = some l) (hm : ∀ u ∈ l, s.mergesBad u.1 u.2 = false) :
    execBar4Write f o data s = .next (s.putUnits l data) := by
  have hnone : l.find? (fun u => s.mergesBad u.1 u.2) = none := by simpa using hm
  simp only [execBar4Write, barWrite_reaches hw h, hl, hnone, Bool.false_eq_true, if_false]

end

/-- A write of units changes no byte outside them. -/
theorem State.putUnits_byteAt {a : Nat} (l : List (Nat × Nat)) : ∀ (s : State) (bs : List Byte),
    (∀ u ∈ l, ¬ (u.1 ≤ a ∧ a < u.1 + u.2)) → (s.putUnits l bs).byteAt a = s.byteAt a := by
  induction l with
  | nil => exact fun _ _ _ => rfl
  | cons u r ih =>
    intro s bs h
    obtain ⟨hu, hr⟩ := List.forall_mem_cons.mp h
    have hlen : (bs.take u.2).length ≤ u.2 := by simp
    rw [State.putUnits, ih _ _ hr, State.byteAt_put_outside s u.1 _ (by omega)]

/-- Settles O53, BAR by BAR and outcome by outcome. -/
theorem windowReadsAndWrites : Obligations.WindowReadsAndWrites := by
  unfold Obligations.WindowReadsAndWrites
  refine ⟨fun s f bar o n hw => ⟨execBar4Read_past hw, fun hin h0 h2 => ⟨fun l hl hb => ?_, fun l pa hl hb => ?_, fun hl => ?_⟩,
    execBar4Read_zeros hw, fun hin => ⟨fun w hn ha hword => ⟨fun hb => ?_, fun x hb => ?_⟩, fun hbad => ?_⟩⟩, fun _ _ => rfl,
    fun s f o data hw => ⟨execBar4Write_past hw, fun l hin hl hm => ⟨execBar4Write_stored hw hin hl hm, fun a => State.putUnits_byteAt l s data⟩,
      fun l u hin hl hu => execBar4Write_bad hw hin hl hu, execBar4Write_failed hw⟩⟩
  · exact (execBar4Read_window hw hin h0 h2).trans (by simp only [State.bar4Read, hl, hb])
  · exact (execBar4Read_window hw hin h0 h2).trans (by simp only [State.bar4Read, hl, hb])
  · exact (execBar4Read_window hw hin h0 h2).trans (by simp only [State.bar4Read, hl])
  · exact (execBar4Read_registers hw hin).trans (congrArg _ (State.bar0Read_served (sizeOk_iff.mpr ⟨hn, ha⟩) hword hb))
  · exact (execBar4Read_registers hw hin).trans (congrArg _ (State.bar0Read_barred (sizeOk_iff.mpr ⟨hn, ha⟩) hword hb))
  · refine (execBar4Read_registers hw hin).trans (congrArg _ (State.bar0Read_refused ?_))
    by_cases hs : sizeOk o n = true
    · obtain ⟨hn, ha⟩ := sizeOk_iff.mp hs
      simpa [hs, hn, ha] using hbad
    · simp [hs]

end Sys2Proof.Machine
end

section
/-! SUPPORT. Register writes (R7, R198, R320 to R328, R343, R361, R450): what each register takes, register by register. -/

namespace Sys2Proof.Safety

/-- The PF exists: its register writes take place while the clocks run. -/
theorem Clocked.writes {s : Machine.State} (h : Clocked s) : Writes s 0 := ⟨h, rfl⟩

end Sys2Proof.Safety

namespace Sys2Proof.Machine

open Sys2Proof.Safety

theorem State.regWrite_eq {s : State} {f : Nat} (hw : Writes s f) (g : State → State) : s.regWrite f g = .next (g s) := by
  simp only [State.regWrite, hw.notHeld, Bool.false_eq_true, if_false]

theorem execPciCrWrite_eq {s : State} {f : Nat} (hw : Writes s f) (r : Nat) (v : W64) :
    execPciCrWrite f r v s = .next (s.writeCr f r v.toNat) := State.regWrite_eq hw _

theorem execPciCqWrite_eq {s : State} {f : Nat} (hw : Writes s f) (r : Nat) (v : W64) :
    execPciCqWrite f r false v s = .next (s.writeCq f r v.toNat) := State.regWrite_eq hw _

theorem execPciCqWrite_intr {s : State} {f : Nat} (hw : Writes s f) (r : Nat) (v : W64) :
    execPciCqWrite f r true v s = .next (s.writeIntr f r v.toNat) := State.regWrite_eq hw _

theorem execPciWinWrite_eq {s : State} {f : Nat} (hw : Writes s f) (v : W64) :
    execPciWinWrite f v s = .next (s.writeWin f v.toNat) := State.regWrite_eq hw _

theorem execPciVfLimitsWrite_eq {s : State} (hs : Clocked s) (vf : Nat) (v : W64) :
    execPciVfLimitsWrite vf v s = .next (s.writeLimits vf v.toNat) := State.regWrite_eq hs.writes _

theorem execSysDvfsWrite_eq {s : State} (hs : Clocked s) (v : W32) :
    execSysDvfsWrite v s = .next (s.writeDvfs v.toNat) := State.regWrite_eq hs.writes _

/-- Outside recovery BAR0 reaches the HBM_ block (R443). -/
theorem execHbmIlvWrite_eq {s : State} (hs : Clocked s) (hb : s.boot.state ≠ .recovery) (v : W32) :
    execHbmIlvWrite v s = .next (s.writeIlv v.toNat) := by
  have hr : s.reaches .hbm = true := by simp [State.reaches, hb]
  simp only [execHbmIlvWrite, State.regWrite_eq hs.writes, State.ifReached, hr, if_true]

/-- Outside recovery BAR0 reaches the NXP_ block (R443). -/
theorem execNxpJobWrite_eq {s : State} (hs : Clocked s) (hb : s.boot.state ≠ .recovery) (x : Nat) (v : W64) :
    execNxpJobWrite x v s = .next (s.writeJob x v.toNat) := by
  have hr : s.reaches (.nxp 0) = true := by simp [State.reaches, hb]
  simp only [execNxpJobWrite, State.regWrite_eq hs.writes, State.ifReached, hr, if_true]

/-! ## Rings -/

@[simp] theorem State.modFn_modFn (s : State) (n : Nat) (f g : Fn → Fn) : (s.modFn n f).modFn n g = s.modFn n (fun x => g (f x)) := by
  simp [State.modFn, State.fnOf]

@[simp] theorem State.modCr_modCr (s : State) (n r : Nat) (f g : CRing → CRing) :
    (s.modCr n r f).modCr n r g = s.modCr n r (fun c => g (f c)) := by
  simp [State.modCr, Fn.crOf]

@[simp] theorem State.modCq_modCq (s : State) (n q : Nat) (f g : CQueue → CQueue) :
    (s.modCq n q f).modCq n q g = s.modCq n q (fun c => g (f c)) := by
  simp [State.modCq, Fn.cqOf]

section
variable {s : State} {f r n : Nat}

/-- An enabled ring takes no new place (R326). -/
theorem State.writeCr_kept (he : ((s.fnOf f).crOf r).enable = true) (hb : bit n 0 = true) : s.writeCr f r n = s := by
  simp [State.writeCr, he, hb]

theorem State.writeCr_disables (he : ((s.fnOf f).crOf r).enable = true) (hb : bit n 0 = false) :
    s.writeCr f r n = s.modCr f r (fun c => { c with enable := false }) := by
  simp [State.writeCr, he, hb]

/-- A disabled ring of 64 entries or more takes its place and starts empty (R326). -/
theorem State.writeCr_enables (he : ((s.fnOf f).crOf r).enable = false) (hb : bit n 0 = true) (h6 : 6 ≤ bits n 5 2) :
    s.writeCr f r n = s.modCr f r (fun c => { c with
      loc := locAfter f c.loc (bit n 1), log2 := bits n 5 2, cq := bits n 7 6, base := n / 4096 * 4096
      enable := true, error := false, head := 0, tail := 0 }) := by
  simp [State.writeCr, he, hb, h6]

theorem State.writeCq_kept (he : ((s.fnOf f).cqOf r).enable = true) (hb : bit n 0 = true) : s.writeCq f r n = s := by
  simp [State.writeCq, he, hb]

/-- A disabled completion ring of 64 entries or more takes its place and starts its first pass (R327, R328). -/
theorem State.writeCq_enables (he : ((s.fnOf f).cqOf r).enable = false) (hb : bit n 0 = true) (h6 : 6 ≤ bits n 5 2) :
    s.writeCq f r n = s.modCq f r (fun c => { c with
      loc := locAfter f c.loc (bit n 1), log2 := bits n 5 2, vector := bits n 7 6, base := n / 4096 * 4096
      enable := true, error := false, tail := 0, head := 0, phase := true, unsignalled := 0 }) := by
  simp [State.writeCq, he, hb, h6]

end

/-! ## The window -/

/-- Whether PCI_WIN takes physical addressing: the PF's, or one that has it (Table 11.20). -/
def State.winPhys (s : State) (f v : Nat) : Bool := bit v 54 && (decide (f = 0) || bit (s.fnOf f).win.toNat 54)

/-- Whether PCI_WIN is enabled by a write: with physical addressing, or onto a context that the function owns (R322). -/
def State.winOn (s : State) (f v : Nat) : Bool := bit v 55 && (s.winPhys f v || s.owns f (bits v 53 48))

theorem bits_lt (w hi lo : Nat) : bits w hi lo < 2 ^ (hi + 1 - lo) := Nat.mod_lt _ (Nat.two_pow_pos _)

/-- Bits 54 and 55 of the word of PCI_WIN. -/
theorem winWord_flags {b x : Nat} (hb : b < 2 ^ 32) (hx : x < 2 ^ 6) (phys on : Bool) :
    bit (BitVec.ofNat 64 (b * 2 ^ 16 + x * 2 ^ 48 + b2n phys * 2 ^ 54 + b2n on * 2 ^ 55)).toNat 54 = phys
      ∧ bit (BitVec.ofNat 64 (b * 2 ^ 16 + x * 2 ^ 48 + b2n phys * 2 ^ 54 + b2n on * 2 ^ 55)).toNat 55 = on := by
  simp only [bit, BitVec.toNat_ofNat, Nat.testBit_eq_decide_div_mod_eq]
  cases phys <;> cases on <;> simp only [b2n, decide_eq_true_eq, decide_eq_false_iff_not, if_true, if_false, Bool.false_eq_true] <;> omega

/-- A write of PCI_WIN changes the functions alone. -/
theorem State.writeWin_eq (s : State) (f v : Nat) : s.writeWin f v = { s with pci := (s.writeWin f v).pci } := rfl

theorem State.writeWin_phys (s : State) (f v : Nat) : bit ((s.writeWin f v).fnOf f).win.toNat 54 = s.winPhys f v := by
  rw [State.writeWin, State.modFn_fnOf]
  exact (winWord_flags (bits_lt v 47 16) (bits_lt v 53 48) _ _).1

theorem State.writeWin_on (s : State) (f v : Nat) : bit ((s.writeWin f v).fnOf f).win.toNat 55 = s.winOn f v := by
  rw [State.writeWin, State.modFn_fnOf]
  exact (winWord_flags (bits_lt v 47 16) (bits_lt v 53 48) _ _).2

/-! ## Limits, interleave, clock, jobs -/

/-- A VF whose QUOTA is 0 may create no context (R343). -/
theorem State.mayCreate_zero {s : State} {f : Nat} (hf : f ≠ 0) (hq : bits (s.limitsOf f) 46 41 = 0) : s.mayCreate f = 0 := by
  simp [State.mayCreate, hf, hq]

/-- CTX_CREATE of a function that may create no context fails (R338). -/
theorem execCtxCreate_full {s : State} {h : Cmd} {seed saveArea prio eventCq : Nat}
    (ha : Accepted s h 0x01 (fun p =>
      decide (field p 8 8 = seed ∧ field p 0x10 8 = saveArea ∧ field p 0x18 1 = prio ∧ field p 0x19 1 = eventCq)))
    (hm : s.mayCreate h.fn = 0) :
    execCtxCreate h seed saveArea prio eventCq s = .next ((s.acts h 0x01 (fun p =>
      decide (field p 8 8 = seed ∧ field p 0x10 8 = saveArea ∧ field p 0x18 1 = prio ∧ field p 0x19 1 = eventCq))).finish h 0x01 0x104 []) :=
  (State.command_accepted ha _).trans (congrArg _ (if_pos hm))

theorem State.writeLimits_ignored {s : State} {vf : Nat} (ho : s.owned vf ≠ 0) (v : Nat) : s.writeLimits vf v = s := if_pos ho

theorem State.writeLimits_free {s : State} {vf : Nat} (ho : s.owned vf = 0) (v : Nat) : s.writeLimits vf v =
    { s with pci := { s.pci with limits := mset 0 s.pci.limits vf (BitVec.ofNat 64 (v % 2 ^ 49)) } } := if_neg (not_not.mpr ho)

theorem State.writeIlv_ignored {s : State} {v : Nat} (h : s.ctxs ≠ [] ∨ v % 2 = s.hbm.ilv) : s.writeIlv v = s := if_pos h

theorem State.writeIlv_changes {s : State} {v : Nat} (hc : s.ctxs = []) (hv : v % 2 ≠ s.hbm.ilv) :
    s.writeIlv v = { s.scrambleHbm with hbm := { s.scrambleHbm.hbm with ilv := v % 2 } } := if_neg (by simp [hc, hv])

theorem State.writeJob_refused {s : State} {x v : Nat} (h : s.jobRefused x v = true) : s.writeJob x v = s := if_pos h

theorem State.writeJob_taken {s : State} {x v : Nat} (h : s.jobRefused x v = false) :
    s.writeJob x v = s.modCreg x (fun r => { r with
      job := v % 65536, export_ := bit v 16, members := if bits v 32 18 ≤ 16384 then bits v 32 18 else r.members }) := by
  simp only [State.writeJob, h, Bool.false_eq_true, if_false]

theorem hbmBytes_le_of_region {a : Nat} (h : regionOf a ≠ .hbm) : hbmBytes ≤ a := by
  by_contra hlt
  exact h (if_pos (Nat.lt_of_not_le hlt))

/-- Removing entries by their keys changes what no other key reads. -/
theorem mget_filter_key {α : Type} (d : α) (p : Nat → Bool) (m : Map α) {k : Nat} (h : p k = true) :
    mget d (m.filter (fun e => p e.1)) k = mget d m k := by
  induction m with
  | nil => rfl
  | cons e r ih =>
    by_cases he : e.1 = k
    · simp [mget, he, h]
    · by_cases hp : p e.1 = true
      · simp [hp, mget, he, ih]
      · simp [hp, mget, he, ih]

/-- A byte outside HBM reads the same whatever the interleave has left undefined in HBM. -/
theorem Hbm.unlisted_outside {a : Nat} (h : hbmBytes ≤ a) (b : Hbm) : b.unlisted a = memDefault := by
  unfold Hbm.unlisted
  split
  · exact if_neg (Nat.not_lt.mpr h)
  · rfl

/-- A change of interleave leaves every byte outside HBM as it was (R198). -/
theorem State.scrambleHbm_byteAt {s : State} {a : Nat} (h : regionOf a ≠ .hbm) : s.scrambleHbm.byteAt a = s.byteAt a := by
  have ha := hbmBytes_le_of_region h
  rw [State.byteAt, State.byteAt, Hbm.unlisted_outside ha, Hbm.unlisted_outside ha]
  exact mget_filter_key _ (fun k => decide (regionOf k ≠ .hbm)) s.mem (by simpa using h)

/-- Moving the clock keeps its target (R430). -/
theorem State.setClock_target (s : State) : s.setClock.power.target = s.power.target := by
  unfold State.setClock
  dsimp only
  split
  · rfl
  · split
    · rfl
    · split <;> rfl

/-- A clock target out of range or between the steps of 25 MHz is ignored (R450). -/
theorem State.writeDvfs_ignored {s : State} {v : Nat} (h : ¬ (900 ≤ v % 2 ^ 11 ∧ v % 2 ^ 11 ≤ 1750 ∧ v % 2 ^ 11 % 25 = 0)) :
    s.writeDvfs v = s := if_neg h

theorem State.writeDvfs_target {s : State} {v : Nat} (h : 900 ≤ v % 2 ^ 11 ∧ v % 2 ^ 11 ≤ 1750 ∧ v % 2 ^ 11 % 25 = 0) :
    (s.writeDvfs v).power.target = v % 2 ^ 11 := by
  rw [State.writeDvfs, if_pos h, State.setClock_target]; rfl

/-! ## BAR0 -/

section
variable {s : State} {o size v : Nat}

/-- A write of BAR0 outside the map, of another size or out of alignment counts as a bad access (R320). -/
theorem State.hostWrite_bad (h : sizeOk o size = false ∨ (blockOf o = none ∧ s.boot.state ≠ .recovery)) :
    s.hostWrite o size v = s.badAccess 0 := by
  rcases h with hs | ⟨hb, hr⟩
  · simp only [State.hostWrite, hs, Bool.false_eq_true, if_false, State.bar0Write, and_false, Bool.not_false, if_true]
    split <;> rfl
  · simp [State.hostWrite, State.barBarred, hb, State.bar0Write, hr]

theorem State.hostWrite_recovery (hb : blockOf o = none) (hs : sizeOk o size = true) (hr : s.boot.state = .recovery) :
    s.hostWrite o size v = s := by
  simp [State.hostWrite, State.barBarred, hb, State.bar0Write, hr, hs]

variable {b : Block} {r : Nat}

/-- A write of a block that BAR0 does not reach is ignored (R320, R443). -/
theorem State.hostWrite_unreached (hb : blockOf o = some (b, r)) (hs : sizeOk o size = true) (hr : s.reaches b = false) :
    s.hostWrite o size v = s := by
  simp [State.hostWrite, State.barBarred, hb, State.bar0Write, hr, hs]

theorem State.hostWrite_served (hb : blockOf o = some (b, r)) (hs : sizeOk o size = true) (hr : s.reaches b = true)
    (hx : s.barBarred 0 o = none) :
    s.hostWrite o size v = s.setReg b (r / 8 * 8) (v * 2 ^ (8 * (o % 8))) ((2 ^ (8 * size) - 1) * 2 ^ (8 * (o % 8))) := by
  simp only [State.hostWrite, hx, ite_self, State.bar0Write, hb, hs, hr, Bool.not_true, Bool.false_eq_true, if_false]

/-- A write over a crossing that does not serve is recorded and dropped (R28). -/
theorem State.hostWrite_barred {x : BitVec 24} (hs : sizeOk o size = true) (hx : s.barBarred 0 o = some x) :
    s.hostWrite o size v = (s.cdc x (s.crossingShut x) none).badAccess 0 := by
  simp only [State.hostWrite, hs, hx, if_true]

end

/-- A register write of the PF that is not one of LNT_CMD is its write of BAR0 (R320). -/
theorem execRegisterWrite_pf {s : State} {o : Nat} (size : Nat) (v : W64) (hs : Clocked s) (ho : o ≠ 0xE0018) :
    execRegisterWrite 0 o size v s = .next (s.hostWrite o size v.toNat) := by
  simp [execRegisterWrite, State.regWrite_eq hs.writes, ho]

/-- Settles O54, register by register. -/
theorem registerWrites : Obligations.RegisterWrites := by
  unfold Obligations.RegisterWrites
  refine ⟨fun s f r v hw => ⟨fun he hb => ?_, fun he hb => ?_, fun he hb h6 => ?_⟩, fun s f r v hw => ⟨fun he hb => ?_, fun he hb h6 => ?_, ?_⟩,
    fun s f v hw => ⟨s.writeWin f v.toNat, ?_, s.writeWin_eq f _, fun hon => ?_, fun hp => ?_⟩, fun s vf v hs => ⟨fun ho => ?_, fun ho => ?_⟩,
    fun s h seed saveArea prio eventCq ha hf hq => ?_, fun s v hs hb => ⟨fun hk => ?_, fun hc hv => ?_⟩,
    fun s v hs => ⟨fun hk => ?_, fun h1 h2 h3 => ?_⟩, fun s x v hs hb => ⟨fun hj => ?_, fun hj => ?_⟩,
    fun s o size v hs ho => ⟨fun h => ?_, fun hb hz hr => ?_, fun b r hb hz hr => ?_, fun b r hb hz hr => ⟨fun hx => ?_, fun x hx => ?_⟩⟩⟩
  · exact (execPciCrWrite_eq hw r v).trans (congrArg _ (State.writeCr_kept he hb))
  · exact (execPciCrWrite_eq hw r v).trans (congrArg _ (State.writeCr_disables he hb))
  · exact (execPciCrWrite_eq hw r v).trans (congrArg _ (State.writeCr_enables he hb h6))
  · exact (execPciCqWrite_eq hw r v).trans (congrArg _ (State.writeCq_kept he hb))
  · exact (execPciCqWrite_eq hw r v).trans (congrArg _ (State.writeCq_enables he hb h6))
  · exact execPciCqWrite_intr hw r v
  · exact execPciWinWrite_eq hw v
  · rw [State.writeWin_on] at hon
    rw [State.writeWin_phys]
    simpa [State.winOn] using hon
  · rw [State.writeWin_phys] at hp
    simp only [State.winPhys, Bool.and_eq_true, Bool.or_eq_true, decide_eq_true_eq] at hp
    exact hp.2
  · exact (execPciVfLimitsWrite_eq hs vf v).trans (congrArg _ (State.writeLimits_ignored ho _))
  · exact (execPciVfLimitsWrite_eq hs vf v).trans (congrArg _ (State.writeLimits_free ho _))
  · exact execCtxCreate_full ha (State.mayCreate_zero hf hq)
  · exact (execHbmIlvWrite_eq hs hb v).trans (congrArg _ (State.writeIlv_ignored hk))
  · refine ⟨_, (execHbmIlvWrite_eq hs hb v).trans (congrArg _ (State.writeIlv_changes hc hv)), rfl, fun a ha => ?_⟩
    exact State.scrambleHbm_byteAt (s := s) ha
  · exact (execSysDvfsWrite_eq hs v).trans (congrArg _ (State.writeDvfs_ignored hk))
  · exact ⟨_, execSysDvfsWrite_eq hs v, State.writeDvfs_target ⟨h1, h2, h3⟩⟩
  · exact (execNxpJobWrite_eq hs hb x v).trans (congrArg _ (State.writeJob_refused hj))
  · exact (execNxpJobWrite_eq hs hb x v).trans (congrArg _ (State.writeJob_taken hj))
  · exact (execRegisterWrite_pf size v hs ho).trans (congrArg _ (State.hostWrite_bad h))
  · exact (execRegisterWrite_pf size v hs ho).trans (congrArg _ (State.hostWrite_recovery hb hz hr))
  · exact (execRegisterWrite_pf size v hs ho).trans (congrArg _ (State.hostWrite_unreached hb hz hr))
  · exact (execRegisterWrite_pf size v hs ho).trans (congrArg _ (State.hostWrite_served hb hz hr hx))
  · exact (execRegisterWrite_pf size v hs ho).trans (congrArg _ (State.hostWrite_barred hz hx))

end Sys2Proof.Machine
end

section
/-! SUPPORT. Lantern and JTAG (R454 to R458): what each operation answers, and what a scan of the LANTERN data register loads. -/

namespace Sys2Proof.Machine

open Sys2Proof.Safety

/-! ## A command through BAR0 -/

/-- The state in which a Lantern command that came through BAR0 runs. -/
def State.lntBusy (s : State) : State := { s with lnt := { s.lnt with state := 1, jtag := false } }

/-- The state in which a Lantern command has ended with an answer. -/
def LntAns.ended (a : LntAns) : State := { a.s with lnt := { a.s.lnt with state := 2, code := a.code, data := a.data.getD a.s.lnt.data } }

/-- Once Lantern has been used, a command through BAR0 of a device that is ready runs and ends (R455 to R457). -/
theorem State.lanternVia_bar0 {s : State} {v : LntVia} (hs : Clocked s) (hv : v.jtag = none) (hr : s.boot.state = .ready)
    (hu : s.boot.lanternUsed = true) (op : Nat) : s.lanternVia op v = .next (s.lntBusy.lntRun op).ended := by
  have hreach : s.reaches .lnt = true := by simp [State.reaches, hr]
  simp only [State.lanternVia, hs.stopped, hv, hreach, State.lantern, State.firstLantern, hu, Bool.false_eq_true, if_false, if_true]
  rfl

section
variable {s : State}

/-! ### Memory -/

/-- Without translation an aligned access of HBM or the slow tier reaches its own offset. -/
theorem State.lntPlace_physical {o : Nat} (ht : s.lnt.translate = false) (ho : o % 8 = 0) (hr : regionOf o = .hbm ∨ regionOf o = .slow)
    (store : Bool) : s.lntPlace o store = s.lntAcross o := by
  have hm : (regionOf o).mapped = true := by rcases hr with h | h <;> rw [h] <;> rfl
  simp only [State.lntPlace, ho, hm, hr, ht, ne_eq, not_true, Bool.true_eq_false, or_self, Bool.false_eq_true, if_false, if_true]

theorem State.lntAcross_served {o : Nat} (hc : s.cross ⟨0, none, some 0x37⟩ o = .ok o) (hl : s.lostTarget o = false) :
    s.lntAcross o = .ok o := by
  simp only [State.lntAcross, hc, hl, Bool.false_eq_true, if_false]

theorem State.lntAcross_closed {o : Nat} {x : BitVec 24} (hc : s.cross ⟨0, none, some 0x37⟩ o = .closed x) : s.lntAcross o = .closed x := by
  simp only [State.lntAcross, hc]

theorem State.lntMem_reads {pa : Nat} (hp : s.lntPlace (bits s.lnt.addr.toNat 47 0) false = .ok pa) (hu : s.uncorrectable pa 8 = false) :
    s.lntMem false = ⟨s, 0, some (BitVec.ofNat 64 (fromBytes (s.get pa 8)))⟩ := by
  simp only [State.lntMem, hp, hu, Bool.false_eq_true, if_false]

theorem State.lntMem_writes {pa : Nat} (hp : s.lntPlace (bits s.lnt.addr.toNat 47 0) true = .ok pa) (hm : s.mergesBad pa 8 = false) :
    s.lntMem true = ⟨s.put pa (toBytes 8 s.lnt.data.toNat), 0, none⟩ := by
  simp only [State.lntMem, hp, hm, Bool.false_eq_true, if_false, if_true]

theorem State.lntMem_closed {x : BitVec 24} {store : Bool} (hp : s.lntPlace (bits s.lnt.addr.toNat 47 0) store = .closed x) :
    s.lntMem store = (s.lntClosed x).lntFail 0x702 := by
  simp only [State.lntMem, hp]

/-! ### Registers, counts and sites -/

/-- A register offset that a block holds and whose crossings serve passes rows 2 and 6 of Table 15.26. -/
theorem State.lntReg?_served {r w : Nat} {b : Block} (hr : r % 8 = 0) (hb : blockOf r = some (b, w)) (hx : s.blockBarred 0x37 b = none) :
    s.lntReg? r = (0, none) := by
  simp only [State.lntReg?, hb, hr, hx, ne_eq, not_true, if_false]

section
variable {w : Nat} {b : Block} (hr : bits s.lnt.addr.toNat 25 0 % 8 = 0) (hb : blockOf (bits s.lnt.addr.toNat 25 0) = some (b, w))
  (hx : s.blockBarred 0x37 b = none)
include hr hb hx

theorem State.lntRegRead_served : s.lntRegRead = ⟨s, 0, some ((s.bar0 (bits s.lnt.addr.toNat 25 0)).getD 0)⟩ := by
  simp only [State.lntRegRead, State.lntReg?_served hr hb hx]

theorem State.lntRegWrite_served : s.lntRegWrite = ⟨s.bar0Write (bits s.lnt.addr.toNat 25 0) 8 s.lnt.data.toNat, 0, none⟩ := by
  simp only [State.lntRegWrite, State.lntReg?_served hr hb hx]

end

theorem State.lntWmkRead_here {k : Nat} {b : Binding} (hc : (s.ctx s.lnt.ctxOf).isSome = true) (hl : s.leaves s.lnt.ctxOf = false)
    (hh : s.home (wkey s.lnt.ctxOf s.lnt.idOf) = .here k b) : s.lntWmkRead = ⟨s, 0, some (BitVec.ofNat 64 b.count)⟩ := by
  simp [State.lntWmkRead, Option.ne_none_iff_isSome.mpr hc, hl, hh]

theorem State.lntWmkSet_here {k : Nat} {b : Binding} (hc : (s.ctx s.lnt.ctxOf).isSome = true) (hl : s.leaves s.lnt.ctxOf = false)
    (hh : s.home (wkey s.lnt.ctxOf s.lnt.idOf) = .here k b) : s.lntWmkSet = (s.handSet k s.lnt.data.toNat).lntFail 0 := by
  simp [State.lntWmkSet, Option.ne_none_iff_isSome.mpr hc, hl, hh]

theorem State.lntSite_served (hs : bits s.lnt.addr.toNat 9 0 ≤ 683) (ho : bits s.lnt.addr.toNat 27 16 % 8 = 0)
    (hx : s.barred (some 0x37) (bits s.lnt.addr.toNat 9 0 / 19) = none) :
    s.lntSite = ⟨s, 0, some (s.siteReg (bits s.lnt.addr.toNat 9 0) (bits s.lnt.addr.toNat 27 16))⟩ := by
  simp only [State.lntSite, Nat.not_lt.mpr hs, ho, hx, ne_eq, not_true, or_self, if_false]

end

/-! ## The JTAG registers -/

/-- What the LANTERN data register captures (R458). -/
def State.lntCapture (s : State) : Nat := 16 * (s.lntReg 0x20 % 2 ^ 32) + 2 ^ 36 * s.lnt.addr.toNat + 2 ^ 100 * s.lnt.data.toNat

/-- The state after a scan of the LANTERN data register has shifted out what it captured and loaded the three registers. -/
def State.lntLoaded (s : State) (ctx addr data : Nat) : State :=
  { s.emit (.tdo 168 s.lntCapture) with lnt := { s.lnt with
    ctx := BitVec.ofNat 32 (ctx % 2 ^ 27), addr := BitVec.ofNat 64 addr, data := BitVec.ofNat 64 data } }

theorem State.lntCapture_lt (s : State) : s.lntCapture < 2 ^ 168 := by
  have ha := s.lnt.addr.isLt
  have hd := s.lnt.data.isLt
  have hr : s.lntReg 0x20 % 2 ^ 32 < 2 ^ 32 := Nat.mod_lt _ (by decide)
  unfold State.lntCapture
  omega

section
variable {op : Nat} (hop : op < 16) (ctx addr data : Nat)
include hop

theorem lanternBits_lt : lanternBits op ctx addr data < 2 ^ 168 := by unfold lanternBits; omega

theorem lanternBits_op : lanternBits op ctx addr data % 16 = op := by unfold lanternBits; omega

theorem lanternBits_ctx : lanternBits op ctx addr data / 16 % 2 ^ 27 = ctx % 2 ^ 27 := by unfold lanternBits; omega

theorem lanternBits_addr : BitVec.ofNat 64 (lanternBits op ctx addr data / 2 ^ 36) = BitVec.ofNat 64 addr := by
  apply BitVec.eq_of_toNat_eq
  simp only [BitVec.toNat_ofNat, lanternBits]
  omega

theorem lanternBits_data : BitVec.ofNat 64 (lanternBits op ctx addr data / 2 ^ 100) = BitVec.ofNat 64 data := by
  apply BitVec.eq_of_toNat_eq
  simp only [BitVec.toNat_ofNat, lanternBits]
  omega

/-- Update-DR of the bits of an operation loads the three registers and starts it (R458). -/
theorem State.lanternUpdate_bits {t : State} (ht : Clocked t) (h0 : op ≠ 0) :
    t.lanternUpdate (lanternBits op ctx addr data) = ({ t with lnt := { t.lnt with
      ctx := BitVec.ofNat 32 (ctx % 2 ^ 27), addr := BitVec.ofNat 64 addr, data := BitVec.ofNat 64 data } } : State).lantern op true := by
  have hrun : ¬ (op = 0 ∨ t.power.stopped = true) := by simp [h0, ht.stopped]
  simp only [State.lanternUpdate, lanternBits_op hop, hrun, if_false, lanternBits_ctx hop, lanternBits_addr hop, lanternBits_data hop]

/-- A scan of the LANTERN data register shifts out what it captured, loads the three registers and starts the operation (R458). -/
theorem State.shiftDr_lantern {s : State} (hs : Clocked s) (hi : s.lnt.ir = 0x20) (h0 : op ≠ 0) :
    s.shiftDr 168 (lanternBits op ctx addr data) = (s.lntLoaded ctx addr data).lantern op true := by
  have hcap : s.drCapture = some (s.lntCapture, 168) := by
    rw [State.drCapture, hi]; rfl
  have hlt := s.lntCapture_lt
  have hbits := lanternBits_lt hop ctx addr data
  have hout : (s.lntCapture + lanternBits op ctx addr data % 2 ^ 168 * 2 ^ 168) % 2 ^ 168 = s.lntCapture := by omega
  have hin : (s.lntCapture + lanternBits op ctx addr data % 2 ^ 168 * 2 ^ 168) / 2 ^ 168 % 2 ^ 168 = lanternBits op ctx addr data := by omega
  simp only [State.shiftDr, hcap, hi, hout, hin, if_true]
  exact State.lanternUpdate_bits hop ctx addr data hs h0

end

/-- Each Lantern command is its operation, one of 1 to 7 (Table 15.25). -/
theorem exec_lanternCommand {v : LntVia} {op : Nat} {c : Instr} (hc : (op, c) ∈ [(1, Instr.regRead v), (2, .regWrite v), (3, .memRead v),
    (4, .memWrite v), (5, .wmkRead v), (6, .wmkSet v), (7, .siteRead v)]) (s : State) :
    exec c s = s.lanternVia op v ∧ op ≠ 0 ∧ op < 16 := by
  simp only [List.mem_cons, Prod.mk.injEq, List.not_mem_nil, or_false] at hc
  rcases hc with ⟨rfl, rfl⟩ | ⟨rfl, rfl⟩ | ⟨rfl, rfl⟩ | ⟨rfl, rfl⟩ | ⟨rfl, rfl⟩ | ⟨rfl, rfl⟩ | ⟨rfl, rfl⟩ <;>
    exact ⟨rfl, by decide, by decide⟩

/-- A Lantern command through JTAG runs only under the LANTERN instruction (R458). -/
theorem State.lanternVia_jtag {s : State} {v : LntVia} {ctx addr data op : Nat} (hs : Clocked s) (hv : v.jtag = some (ctx, addr, data))
    (h0 : op ≠ 0) (hop : op < 16) :
    s.lanternVia op v = .next (if s.lnt.ir = 0x20 then (s.lntLoaded ctx addr data).lantern op true else s) := by
  by_cases hi : s.lnt.ir = 0x20
  · simp only [State.lanternVia, hs.stopped, hv, hi, ne_eq, not_true, Bool.false_eq_true, if_false, if_true,
      State.shiftDr_lantern hop ctx addr data hs hi h0]
  · simp only [State.lanternVia, hs.stopped, hv, hi, ne_eq, not_false_eq_true, Bool.false_eq_true, if_false, if_true]

/-- A reserved operation completes with BAD_PARAM. -/
theorem State.lntRun_reserved (s : State) {op : Nat} (h8 : 8 ≤ op) : s.lntRun op = s.lntFail 0x102 := by
  obtain ⟨k, rfl⟩ := Nat.exists_eq_add_of_le' h8
  unfold State.lntRun
  split <;> rfl

theorem State.firstLantern_lnt (s : State) (op : Nat) : (s.firstLantern op).lnt = s.lnt := by
  unfold State.firstLantern
  split <;> rfl

/-- A reserved operation leaves the three registers (R455). -/
theorem State.lantern_reserved (s : State) {op : Nat} (h8 : 8 ≤ op) (jtag : Bool) :
    (s.lantern op jtag).lnt = { s.lnt with state := 2, jtag := jtag, code := 0x102 } := by
  simp only [State.lantern, State.lntRun_reserved _ h8, State.lntFail, State.firstLantern_lnt, Option.getD_none]

/-! ## The instruction register and the other data registers -/

/-- A scan of a data register of `w` bits other than LANTERN's shifts out what it captured, then what comes in (R454). -/
theorem State.shiftDr_plain {s : State} {v w : Nat} (hc : s.drCapture = some (v, w)) (hi : s.lnt.ir ≠ 0x20) (n tdi : Nat) :
    s.shiftDr n tdi = s.emit (.tdo n ((v + tdi % 2 ^ n * 2 ^ w) % 2 ^ n)) := by
  simp only [State.shiftDr, hc, hi, if_false]

/-- An instruction that R454 does not count, or not again, changes the instruction register alone. -/
theorem execJtagInstruction_load {s : State} {code : Byte} (h : s.boot.debugUsed = true ∨ (code ≠ 0x00 ∧ code ≠ 0x20)) :
    execJtagInstruction (.load code) s = .next { s with lnt := { s.lnt with ir := code } } := by
  have hc : (s.boot.debugUsed || !jtagCounts code) = true := by simpa [jtagCounts] using h
  simp only [execJtagInstruction, Bool.or_assoc, hc, Bool.or_true, if_true]

/-- The first EXTEST or LANTERN since cold reset extends measurement register 7 (R452, R454). -/
theorem execJtagInstruction_first {s : State} {code : Byte} (hs : Clocked s) (hd : s.boot.debugUsed = false)
    (hc : code = 0x00 ∨ code = 0x20) :
    execJtagInstruction (.load code) s = .next
      (({ s with lnt := { s.lnt with ir := code }, boot := { s.boot with debugUsed := true } } : State).extend 7
        (Config.measured 7 [0, code.toNat])) := by
  have hj : jtagCounts code = true := by simpa [jtagCounts] using hc
  simp only [execJtagInstruction, hs.stopped, hd, hj, Bool.not_true, Bool.or_self, Bool.false_eq_true, if_false]

/-- Extending a measurement register leaves the others. -/
theorem State.extend_measure_other (s : State) {r k : Nat} (d : BitVec 512) (h : k ≠ r) :
    mget 0 (s.extend r d).boot.measure k = mget 0 s.boot.measure k := mget_mset_other _ _ _ h.symm

/-- Settles O56, path by path: BAR0 operation by operation, then JTAG. -/
theorem lanternReadsAndWrites : Obligations.LanternReadsAndWrites := by
  unfold Obligations.LanternReadsAndWrites
  refine ⟨fun s v hs hv hr hu => ?_, fun s v ctx addr data op c hs hv hc => ?_, fun s code hs => ⟨execJtagInstruction_load, fun hd hc => ?_⟩,
    fun s n tdi => ⟨fun hi => ?_, fun h0 h1 h2 h20 => ?_⟩, fun s op ctx addr data hs hi h8 hop => ?_⟩
  · intro busy o r site key ends gives
    have run (op : Nat) {a : LntAns} (h : s.lntBusy.lntRun op = a) : s.lanternVia op v = .next a.ended := by
      rw [State.lanternVia_bar0 hs hv hr hu, h]
    have ready (op : Nat) : ¬ (s.lntBusy.boot.state ≠ .ready ∧ op ≠ 1) := fun h => h.1 hr
    refine ⟨fun ht ho hreg => ⟨fun hc hl => ⟨fun hb => ?_, fun hb => ?_⟩, fun x hc => ⟨?_, ?_⟩⟩,
      fun b w hr8 hb hx => ⟨?_, ?_⟩, fun k b hc hl hh => ⟨?_, ?_⟩, fun hsite hoff hx => ?_⟩
    · have place := (State.lntPlace_physical (s := s.lntBusy) ht ho hreg false).trans (State.lntAcross_served hc hl)
      exact run 3 ((if_neg (ready 3)).trans (State.lntMem_reads place hb))
    · have place := (State.lntPlace_physical (s := s.lntBusy) ht ho hreg true).trans (State.lntAcross_served hc hl)
      exact run 4 ((if_neg (ready 4)).trans (State.lntMem_writes place hb))
    · have place := (State.lntPlace_physical (s := s.lntBusy) ht ho hreg false).trans (State.lntAcross_closed hc)
      exact run 3 ((if_neg (ready 3)).trans (State.lntMem_closed place))
    · have place := (State.lntPlace_physical (s := s.lntBusy) ht ho hreg true).trans (State.lntAcross_closed hc)
      exact run 4 ((if_neg (ready 4)).trans (State.lntMem_closed place))
    · exact run 1 ((if_neg (ready 1)).trans (State.lntRegRead_served hr8 hb hx))
    · exact run 2 ((if_neg (ready 2)).trans (State.lntRegWrite_served hr8 hb hx))
    · exact run 5 ((if_neg (ready 5)).trans (State.lntWmkRead_here hc hl hh))
    · exact run 6 ((if_neg (ready 6)).trans (State.lntWmkSet_here hc hl hh))
    · exact run 7 ((if_neg (ready 7)).trans (State.lntSite_served hsite hoff hx))
  · obtain ⟨he, h0, hop⟩ := exec_lanternCommand hc s
    rw [he, State.lanternVia_jtag hs hv h0 hop]
    exact ⟨fun hi => by rw [if_neg hi], fun hi => by rw [if_pos hi]; rfl⟩
  · exact ⟨_, execJtagInstruction_first hs hd hc, rfl, rfl, fun r hr => State.extend_measure_other _ _ hr⟩
  · have hc : s.drCapture = some (idcode, 32) := if_pos hi
    refine congrArg _ ((State.shiftDr_plain hc (by rw [hi]; decide) 32 tdi).trans ?_)
    rw [Nat.add_mul_mod_self_right]; rfl
  · have hc : s.drCapture = some (0, 1) := by
      simp only [State.drCapture, h0, h1, h2, h20, or_self, if_false]
    refine congrArg _ ((State.shiftDr_plain hc h20 n tdi).trans ?_)
    rw [Nat.zero_add, pow_one]
  · refine ⟨_, congrArg Host.Outcome.next (State.shiftDr_lantern hop ctx addr data hs hi (by omega)), ?_⟩
    rw [State.lantern_reserved _ h8]
    exact ⟨rfl, rfl, rfl, rfl⟩

end Sys2Proof.Machine
end

section
/-! SUPPORT. Instructions that a unit is done with as they issue: what a unit reads of a core that has just issued, and what is left once
the instruction is off the unfinished ones (R128, R129). -/

namespace Sys2Proof.Machine

open Sys2Proof.Safety

/-! ## The core of an instruction that has just issued -/

/-- Its index has moved, the instruction is unfinished, and Rambler has heard of a fetch. -/
theorem issued_core (s : State) (c : Nat) (w : W64) (i : TileInsn) :
    (issued s c w i).core c = { s.core c with
      live := { (s.core c).live with pc := (s.core c).live.pc + 1, pendings := [record s c w i] }
      ramb := if isFetch i then (s.core c).ramb.tldIssued else (s.core c).ramb } := by
  unfold issued
  split <;> simp [passed, Core.modLive, State.modRamb]

theorem issued_plain (s : State) (c : Nat) (w : W64) {i : TileInsn} (hf : isFetch i = false) :
    issued s c w i = passed s c (fun l => { l with pendings := [record s c w i] }) := if_neg (by simp [hf])

section
variable (s : State) (c : Nat) (w : W64) (i : TileInsn)

@[simp] theorem issued_treg (t : Nat) : ((issued s c w i).core c).treg t = (s.core c).treg t := by rw [issued_core]; rfl
@[simp] theorem issued_accTile (n : Nat) : ((issued s c w i).core c).accTile n = (s.core c).accTile n := by rw [issued_core]; rfl
@[simp] theorem issued_accBad (n : Nat) (p : Nat → Nat → Bool) :
    ((issued s c w i).core c).accBad n p = (s.core c).accBad n p := by rw [issued_core]; rfl
@[simp] theorem issued_parity : ((issued s c w i).core c).parity = (s.core c).parity := by rw [issued_core]
@[simp] theorem issued_task : ((issued s c w i).core c).task = (s.core c).task := by rw [issued_core]
@[simp] theorem issued_shadow : ((issued s c w i).core c).live.shadow = (s.core c).live.shadow := by rw [issued_core]
@[simp] theorem issued_active : ((issued s c w i).core c).live.active = (s.core c).live.active := by rw [issued_core]
@[simp] theorem issued_carry : ((issued s c w i).core c).live.carry = (s.core c).live.carry := by rw [issued_core]
@[simp] theorem issued_width (d : Nat) : (issued s c w i).width d = s.width d := by unfold issued; split <;> rfl
@[simp] theorem issued_ctx (n : Nat) : (issued s c w i).ctx n = s.ctx n := by unfold issued; split <;> rfl

end

/-! ## The checks of a unit -/

theorem State.withTreg_inUse {α : Type} {s : State} {c t : Nat} (f : TReg → Res α) (h : ((s.core c).treg t).inUse = true) :
    s.withTreg c t f = f ((s.core c).treg t) := if_pos h

section
variable {s : State} {c : Nat} {tiles : List Nat} {p : Nat → Nat → Bool} (f : Res Unit)

theorem State.withAccs_good (h : ∀ a ∈ tiles, (s.core c).accBad a p = false) : s.withAccs c tiles p f = f :=
  if_neg (by simpa using h)

theorem State.withAccs_bad {a : Nat} (ha : a ∈ tiles) (h : (s.core c).accBad a p = true) :
    s.withAccs c tiles p f = .fail (s.noteAccBad c) 0x701 := if_pos (List.any_eq_true.mpr ⟨a, ha, h⟩)

end

/-! ## Work on one core -/

theorem State.modCore_congr {s : State} {c : Nat} {f g : Core → Core} (h : f (s.core c) = g (s.core c)) :
    s.modCore c f = s.modCore c g := by simp only [State.modCore, h]

/-- A core with other instructions unfinished. -/
def Core.withPendings (k : Core) (l : List Pending) : Core := k.modLive (fun v => { v with pendings := l })

/-- A core whose accumulator tile `n` has been replaced (R405). -/
def Core.putAcc (n : Nat) (a : AccTile) (k : Core) : Core :=
  { k with
    live := { k.live with acc := mset {} k.live.acc n a }
    badAcc := if (k.accTile n).inUse then k.badAcc else k.badAcc.filter (fun w => decide (w / 512 ≠ n)) }

/-- A core with arithmetic flags raised (R67). -/
def Core.raise (f : Nat) (k : Core) : Core := { k with flags := k.flags ||| BitVec.ofNat 4 f }

theorem State.setAcc_eq (s : State) (c n : Nat) (a : AccTile) : s.setAcc c n a = s.modCore c (Core.putAcc n a) := rfl

theorem State.setFlags_eq (s : State) (c f : Nat) : s.setFlags c f = s.modCore c (Core.raise f) := rfl

/-- The only unfinished instruction of a core, done. -/
theorem State.dropPending_only {s : State} {c : Nat} {p : Pending} (h : (s.core c).live.pendings = [p]) :
    s.dropPending c p = finished s c := State.modCore_congr (by simp [Core.modLive, h])

/-- A change of the live state that does not touch the index, made as the instruction passes. -/
theorem passed_modLive (s : State) (c : Nat) {f : Live → Live} (hf : ∀ l n, f { l with pc := n } = { f l with pc := n }) :
    (passed s c id).modCore c (fun k => k.modLive f) = passed s c f := by
  have hpc : (f (s.core c).live).pc = (s.core c).live.pc := (congrArg Live.pc (hf (s.core c).live (s.core c).live.pc) :)
  simp only [passed, State.modCore_modCore]
  refine State.modCore_congr ?_
  simp only [Core.modLive, id]
  rw [hf, hpc]

section
variable {s t : State} {c : Nat} {w : W64} {i : TileInsn} (h : Issues s c w i)
include h

/-- A unit's work that neither reads nor changes what is unfinished, done in the step in which its instruction issues. -/
theorem issueUnit_modCore (hf : isFetch i = false) {f : Core → Core} (hb : ∀ k l, f (k.withPendings l) = (f k).withPendings l)
    (hr : runInsn (issued s c w i) c i (record s c w i) = .ok ((issued s c w i).modCore c f) ()) :
    issueUnit c w i s = (passed s c id).modCore c f := by
  have hp : (s.core c).live.pendings = [] := h.2.2
  let next := (s.core c).modLive (fun v => { v with pc := v.pc + 1 })
  have before : (s.core c).modLive (fun v => { v with pc := v.pc + 1, pendings := [record s c w i] })
      = next.withPendings [record s c w i] := rfl
  have after : next = next.withPendings [] := by simp [next, Core.withPendings, Core.modLive, hp]
  rw [issueUnit_ok h hr, issued_plain _ _ _ hf]
  simp only [passed, State.dropPending, State.modCore_modCore, id]
  refine State.modCore_congr ?_
  rw [before, hb, show (s.core c).modLive (fun v => { v with pc := v.pc + 1 }) = _ from after, hb]
  simp [Core.withPendings, Core.modLive]

/-- An instruction that fails as it issues. -/
theorem issueUnit_fail {code : Nat} (hr : runInsn (issued s c w i) c i (record s c w i) = .fail t code) :
    issueUnit c w i s = t.failCore c code (s.core c).live.pc w := by rw [issueUnit_eq h, hr]

/-- An instruction that waits as it issues. -/
theorem issueUnit_wait (hr : runInsn (issued s c w i) c i (record s c w i) = .wait t) : issueUnit c w i s = t := by
  rw [issueUnit_eq h, hr]

/-- An instruction that misses in translation as it issues (R180). -/
theorem issueUnit_miss {va : Nat} {store : Bool} {x : CoreTask}
    (hr : runInsn (issued s c w i) c i (record s c w i) = .miss t va store) (hx : (t.core c).task = some x) :
    issueUnit c w i s = t.suspend x.ctx va store := by
  rw [issueUnit_eq h, hr]
  simp only [hx]

theorem issues_inService : s.inService c = true := by
  have hi := h.1
  simp only [State.issues, Bool.and_eq_true] at hi
  exact hi.1.1.1.1.2

/-- What the hardware of a core meets changes nothing of how the core issues (R77, R404). -/
theorem issues_meetErr (e : Option CoreErr) : Issues (s.meetErr c e) c w i := by
  obtain ⟨hi, hd, hp⟩ := h
  cases e with
  | none => exact ⟨hi, hd, hp⟩
  | some e =>
    refine ⟨Eq.trans ?_ hi, hd, ?_⟩
    · cases e <;> simp [State.meetErr, State.issues, State.interrupting, State.inService, State.retired, State.taskOf] <;> rfl
    · cases e <;> simpa [State.meetErr] using hp

end

@[simp] theorem State.meetErr_width (s : State) (c d : Nat) (e : Option CoreErr) : (s.meetErr c e).width d = s.width d := by
  cases e with
  | none => rfl
  | some e => cases e <;> rfl

end Sys2Proof.Machine
end

section
/-! SUPPORT. TWL and TMM: the window that becomes a stationary block, and what a product leaves (R69, R77, R112 to R115, R405). -/

namespace Sys2Proof.Machine

open Sys2Proof.Safety

/-- The stationary block that TWL takes from a register (R72, R75, R112). -/
def TReg.window (q : TReg) (width rb cb : Nat) (tr : Bool) : StatBlock :=
  ⟨tr, q.type, q.blk, (range 1024).map (fun e =>
    let k := e / 32; let j := e % 32
    let r := if tr then 32 * rb + j else 32 * rb + k
    let n := if tr then 32 * cb + k else 32 * cb + j
    if j < width ∧ r < q.rows ∧ n < q.cols then some (q.enc r n, q.scaleOf r n) else none)⟩

/-- A core with a block in its shadow buffer. -/
def Core.shadowed (b : StatBlock) (k : Core) : Core := k.modLive (fun l => { l with shadow := some b })

/-- The work of a TMM on its core: the active block, the tile and the flags (R69, R114). -/
def Core.product (b : StatBlock) (acc : Nat) (r : AccTile × Nat) (k : Core) : Core :=
  Core.raise r.2 (Core.putAcc acc r.1 (k.modLive (fun l => { l with active := some b, shadow := none })))

theorem windowOk_inside {q : TReg} {rb cb : Nat} (hr : 32 * rb < q.rows) (hc : 32 * cb < q.cols) : windowOk q rb cb = true := by
  simp [windowOk, hr, hc]

section
variable {s : State} {c t rb cb : Nat} (hu : ((s.core c).treg t).inUse = true) (hr : 32 * rb < ((s.core c).treg t).rows)
  (hc : 32 * cb < ((s.core c).treg t).cols)
include hu hr hc

theorem runTwl_inside (tr : Bool) : runTwl s c t rb cb tr =
    .ok (s.modCore c (Core.shadowed (((s.core c).treg t).window (s.width c) rb cb tr))) () := by
  rw [runTwl, State.withTreg_inUse _ hu, if_pos (windowOk_inside hr hc)]
  cases tr <;> rfl

variable {form acc cls : Nat} {b : StatBlock}
  (hb : (s.core c).live.shadow = some b ∨ ((s.core c).live.shadow = none ∧ (s.core c).live.active = some b))
  (hp : pairClass ((s.core c).treg t).type ((s.core c).treg t).blk b.type b.blk = some cls) (ht : b.trans = decide (form = 1))
  (ha : ((s.core c).accTile acc).accepts (accClassOf cls) (if form = 2 then .transposed else .normal) = true)
include hb hp ht ha

/-- A TMM that meets a parity error (R77). -/
theorem runTmm_parity {e : CoreErr} (hpar : (s.core c).parity = some e) :
    runTmm s c form t rb cb acc = .fail (s.arrayParity c e) 0x705 := by
  rw [runTmm, State.withTreg_inUse _ hu, if_pos (windowOk_inside hr hc)]
  obtain hs | ⟨hs, hb⟩ := hb
  · simp only [hs, hp, ht, ha, hpar, if_true, and_self]
  · simp only [hs, hb, hp, ht, ha, hpar, if_true, and_self]

/-- A TMM that meets no parity error: an uncorrectable word fails it, else it adds its sums (R69, R114, R405). -/
theorem runTmm_sums (hpar : (s.core c).parity = none) :
    runTmm s c form t rb cb acc = s.withAccs c [acc] (fun _ j => decide (j < s.width c)) (.ok (s.modCore c (Core.product b acc
      (tmmSums ((s.core c).treg t) b cls form rb cb (s.width c)
        (((s.core c).accTile acc).take (accClassOf cls) (if form = 2 then .transposed else .normal))))) ()) := by
  rw [runTmm, State.withTreg_inUse _ hu, if_pos (windowOk_inside hr hc)]
  simp only [State.setAcc_eq, State.setFlags_eq, State.modCore_setCore]
  rw [State.modCore]
  simp only [Core.product, Core.modLive]
  obtain hs | ⟨hs, hb⟩ := hb
  · simp only [hs, hp, ht, ha, hpar, if_true, and_self]
  · have active : { (s.core c).live with active := some b, shadow := none } = (s.core c).live := by rw [← hs, ← hb]
    rw [active]
    simp only [hs, hb, hp, ht, ha, hpar, if_true, and_self]

end

/-- A product's work as its instruction passes. -/
theorem passed_product (s : State) (c : Nat) (b : StatBlock) (acc : Nat) (r : AccTile × Nat) :
    (passed s c id).modCore c (Core.product b acc r) =
      ((passed s c (fun l => { l with active := some b, shadow := none })).setAcc c acc r.1).setFlags c r.2 := by
  rw [← passed_modLive s c (f := fun l => { l with active := some b, shadow := none }) (fun _ _ => rfl), State.setAcc_eq,
    State.setFlags_eq, State.modCore_modCore, State.modCore_modCore]
  rfl

/-- A TMM issues on the core that has met what the command brings (log 59). -/
theorem execTmm_eq {s : State} {c : Nat} {w : W64} {form t rb cb acc : Nat} (h : Issues s c w (.tmm form t rb cb acc))
    (err : Option CoreErr) :
    exec (.tmm c ⟨w, err⟩) s = .next (issueUnit c w (.tmm form t rb cb acc) (s.meetErr c err)) := by
  refine Eq.trans ?_ (atIssue_eq (issues_meetErr h err) rfl (issueUnit c w))
  simp [exec, execTmm, issues_inService h, tileRow]

/-- Settles O13: TWL by the window it takes, TMM by what the pass meets: nothing, a parity error, an uncorrectable word. -/
theorem stationaryLoadAndProduct : Obligations.StationaryLoadAndProduct := by
  unfold Obligations.StationaryLoadAndProduct
  refine ⟨fun s c w t rb cb tr h => ?_, fun s c w err form t rb cb acc cls b h => ?_⟩
  · intro q hu hr hc
    have run := runTwl_inside (s := issued s c w (.twl t rb cb tr)) (c := c) (t := t) (rb := rb) (cb := cb)
      (by rwa [issued_treg]) (by rwa [issued_treg]) (by rwa [issued_treg]) tr
    rw [issued_treg, issued_width] at run
    exact (atIssue_eq h rfl (issueUnit c w)).trans (congrArg _ ((issueUnit_modCore h rfl (fun _ _ => rfl) run).trans
      (passed_modLive s c (fun _ _ => rfl))))
  · intro m k q o hu hr hc hb hp ht ha
    have hm : Issues m c w (.tmm form t rb cb acc) := issues_meetErr h err
    have hr' : 32 * rb < (((issued m c w (.tmm form t rb cb acc)).core c).treg t).rows := by rwa [issued_treg]
    have hc' : 32 * cb < (((issued m c w (.tmm form t rb cb acc)).core c).treg t).cols := by rwa [issued_treg]
    have sums := runTmm_sums (by rwa [issued_treg]) hr' hc' (form := form) (acc := acc) (cls := cls)
      (by rwa [issued_shadow, issued_active]) (by rwa [issued_treg]) ht (by rwa [issued_accTile])
    rw [issued_width, State.meetErr_width, issued_parity, issued_treg, issued_accTile] at sums
    rw [execTmm_eq h]
    refine ⟨fun hpar hbad => congrArg _ ?_, fun e he => congrArg _ (issueUnit_fail hm ?_),
      fun hpar hbad => congrArg _ (issueUnit_fail hm ?_)⟩
    · have run := (sums hpar).trans (State.withAccs_good _ (by simpa using hbad))
      exact (issueUnit_modCore hm rfl (fun _ _ => rfl) run).trans (passed_product m c b acc _)
    · exact runTmm_parity (by rwa [issued_treg]) hr' hc' (by rwa [issued_shadow, issued_active]) (by rwa [issued_treg]) ht
        (by rwa [issued_accTile]) (by rwa [issued_parity])
    · exact (sums hpar).trans (State.withAccs_bad _ (List.mem_singleton.mpr rfl) (by rwa [issued_accBad]))

end Sys2Proof.Machine
end

section
/-! SUPPORT. TMV: the vector lane's products and the row unit (R80 to R82, R116, R117). -/

namespace Sys2Proof.Machine

open Sys2Proof.Safety

/-! ## Reading the weights changes nothing -/

/-- What a bind that is done has done. -/
theorem Res.bind_ok {α β : Type} {r : Res α} {f : State → α → Res β} {u : State} {b : β} (h : r.bind f = .ok u b) :
    ∃ v a, r = .ok v a ∧ f v a = .ok u b := by
  cases r with
  | ok v a => exact ⟨v, a, rfl, h⟩
  | fail => cases h
  | miss => cases h
  | wait => cases h

theorem Res.each_keeps {α β : Type} {f : State → α → Res β} (hf : ∀ s u a b, f s a = .ok u b → u = s) (l : List α) :
    ∀ {s u : State} {bs : List β}, Res.each f l s = .ok u bs → u = s := by
  induction l with
  | nil => intro s u bs h; cases h; rfl
  | cons a l ih =>
    intro s u bs h
    obtain ⟨v, b, hv, h⟩ := Res.bind_ok h
    obtain ⟨t, bs, ht, h⟩ := Res.bind_ok h
    cases h
    exact (ih ht).trans (hf _ _ _ _ hv)

theorem weightsAt_keeps {s u : State} {c : Nat} {w : Who} {p : Nat × Nat} {d : List Byte} (h : weightsAt s c w p = .ok u d) : u = s := by
  unfold weightsAt at h
  split at h
  · cases h
  · split at h
    · cases h
    · cases h; rfl

theorem weightRow_keeps {s u : State} {c wtype wblk n k : Nat} {w : Who} {x : Xfer} {r : Regs} {v : List Nat × List Nat}
    (h : weightRow s c w x r wtype wblk n k = .ok u v) : u = s := by
  unfold weightRow at h
  split at h
  · obtain ⟨t, d, ht, h⟩ := Res.bind_ok h
    rw [weightsAt_keeps ht] at h
    split at h
    · cases h; rfl
    · obtain ⟨t, e, ht, h⟩ := Res.bind_ok h
      cases h
      exact weightsAt_keeps ht
  · cases h

/-! ## Products -/

/-- The products of the vector lane that tile `acc + i` takes (R80). -/
def State.laneStep (q : TReg) (cls wtype wblk n acc c : Nat) (ws : List (List Nat × List Nat)) (s : State) (i : Nat) : State :=
  let p := laneTile q cls wtype wblk n i ws (((s.core c).accTile (acc + i)).take .fp32 .normal)
  (s.setAcc c (acc + i) p.1).setFlags c p.2

theorem State.laneStep_pendings (q : TReg) (cls wtype wblk n acc c : Nat) (ws : List (List Nat × List Nat)) (l : List Nat) :
    ∀ s : State, ((l.foldl (State.laneStep q cls wtype wblk n acc c ws) s).core c).live.pendings = (s.core c).live.pendings := by
  induction l with
  | nil => exact fun _ => rfl
  | cons i l ih =>
    intro s
    rw [List.foldl_cons, ih]
    simp [State.laneStep, State.setAcc, State.setFlags]

theorem runTmv_products {s u : State} {c t pair stride wtype wblk n acc cls : Nat} {r : Regs} {ws : List (List Nat × List Nat)}
    (hu : ((s.core c).treg t).inUse = true) (h1 : 1 ≤ ((s.core c).treg t).rows) (h8 : ((s.core c).treg t).rows ≤ 8) (hb : wblk ≤ 1)
    (hp : pairClass ((s.core c).treg t).type ((s.core c).treg t).blk wtype wblk = some cls) (hc : cls = 0 ∨ cls = 2)
    (ha : ∀ i < cdiv n 32, ((s.core c).accTile (acc + i)).accepts .fp32 .normal = true)
    (hg : ∀ i < cdiv n 32, (u.core c).accBad (acc + i) (fun r _ => decide (r < ((s.core c).treg t).rows)) = false)
    (hw : Res.each (fun z i => weightRow z c (s.whoCore c) ⟨pair, stride, false, false, 0, 0⟩ r wtype wblk n i)
      (range ((s.core c).treg t).cols) s = .ok u ws) :
    runTmv s c t pair stride wtype wblk n acc r =
      .ok ((range (cdiv n 32)).foldl (State.laneStep ((s.core c).treg t) cls wtype wblk n acc c ws) u) () := by
  have hall : ((range (cdiv n 32)).all fun i => ((s.core c).accTile (acc + i)).accepts .fp32 .normal) = true := by
    simpa [range] using ha
  rw [runTmv, State.withTreg_inUse _ hu]
  simp only [hb, h1, h8, hp, hc, hall, hw, Res.bind, and_self, if_true]
  exact State.withAccs_good _ (by simpa [range] using hg)

/-! ## The row unit -/

theorem fitsTile_tile (a n : Nat) : fitsTile (tmBase + a) n = decide (a + n ≤ 524288) := by simp [fitsTile]

theorem issued_rowElems (s : State) (c : Nat) (w : W64) (i : TileInsn) (q : TReg) (src : Bool) (o n : Nat) :
    rowElems ((issued s c w i).core c) q src o n = rowElems (s.core c) q src o n := by rw [issued_core]; rfl

/-- The place in tile memory of row `i` that the row unit reads from `o` (R117). -/
def TReg.rowPlace (q : TReg) (o i : Nat) : Nat := wrap 48 ((o : Int) + (i : Int) * (pitchOf q.type q.cols : Int))

theorem runTmvRow_combines {s : State} {c mode t pair col acc : Nat} {init src : Bool} {r : Regs}
    (hu : ((s.core c).treg t).inUse = true) (hb : ((s.core c).treg t).blk = 0) (hr : ((s.core c).treg t).rows ≤ 32)
    (hc : ((s.core c).treg t).cols ≤ 8192) (ha : ((s.core c).accTile acc).accepts .fp32 .normal = true)
    (hs : src = true → ∀ i < ((s.core c).treg t).rows, let a := ((s.core c).treg t).rowPlace (areg r (2 * pair)) i
      alignedFor ((s.core c).treg t).type a = true ∧ a + rowBytes ((s.core c).treg t).type ((s.core c).treg t).cols ≤ 524288)
    (hg : (s.core c).accBad acc (fun i j => decide (i < ((s.core c).treg t).rows ∧ j / 2 = col / 2)) = false) :
    runTmvRow s c mode t pair col acc init src r = .ok (s.modCore c (Core.putAcc acc ((range ((s.core c).treg t).rows).foldl
      (fun (a : AccTile) i => a.put i col (rowCombine mode init (a.get i col)
        (rowReduce mode (rowElems (s.core c) ((s.core c).treg t) src (areg r (2 * pair)) i))))
      (((s.core c).accTile acc).take .fp32 .normal)))) () := by
  have hfit : (!src || (range ((s.core c).treg t).rows).all (fun i =>
      let a := ((s.core c).treg t).rowPlace (areg r (2 * pair)) i
      alignedFor ((s.core c).treg t).type a
        && fitsTile (tmBase + a) (rowBytes ((s.core c).treg t).type ((s.core c).treg t).cols))) = true := by
    cases src with
    | false => rfl
    | true => simpa [range, fitsTile_tile] using hs rfl
  simp only [TReg.rowPlace] at hfit
  rw [runTmvRow, State.withTreg_inUse _ hu]
  simp only [hb, hr, hc, ha, hfit, and_self, if_true]
  exact State.withAccs_good _ (by simpa using hg)

/-- Settles O14: the products once the weights are read, which changes nothing; then the row unit. -/
theorem vectorLaneProductAndRows : Obligations.VectorLaneProductAndRows := by
  unfold Obligations.VectorLaneProductAndRows
  refine ⟨fun s u c w t pair stride wtype wblk n1 acc cls init src ws h => ?_,
    fun s c w mode t pair stride wtype wblk col acc init src hm h => ?_⟩
  · intro k q hu h1 h8 hb hp hc ha hg hw
    have run := runTmv_products (s := issued s c w (.tmv 0 t pair stride wtype wblk n1 acc init src)) (c := c) (t := t)
      (by rwa [issued_treg]) (by rwa [issued_treg]) (by rwa [issued_treg]) hb (by rwa [issued_treg]) hc
      (by simpa using ha) (by rwa [issued_treg]) (by rwa [issued_treg])
    have reads : u = issued s c w (.tmv 0 t pair stride wtype wblk n1 acc init src) :=
      Res.each_keeps (fun _ _ _ _ h => weightRow_keeps h) _ hw
    refine (atIssue_eq h rfl (issueUnit c w)).trans (congrArg _ ((issueUnit_ok h run).trans ?_))
    rw [State.dropPending_only, issued_treg]
    · rfl
    · rw [State.laneStep_pendings, reads, issued_pendings]
  · intro k q o hu hb hr hc ha hs hg a
    have run := runTmvRow_combines (s := issued s c w (.tmv mode t pair stride wtype wblk col acc init src)) (c := c) (t := t)
      (mode := mode) (r := k.live.a) (init := init) (by rwa [issued_treg]) (by rwa [issued_treg]) (by rwa [issued_treg])
      (by rwa [issued_treg]) (by rwa [issued_accTile]) (by rw [issued_treg]; exact hs) (by rwa [issued_accBad, issued_treg])
    simp only [issued_treg, issued_accTile, issued_rowElems] at run
    exact (atIssue_eq h (if_neg hm) (issueUnit c w)).trans
      (congrArg _ (issueUnit_modCore h rfl (fun _ _ => rfl) ((if_neg hm).trans run)))

end Sys2Proof.Machine
end

section
/-! SUPPORT. TDR: a drain whose record its checks accept (R83 to R94, R118 to R120, R129). -/

namespace Sys2Proof.Machine

open Sys2Proof.Safety

/-- What a TDR works with under a record: the generator inputs of its context and step, and the carry of its core. -/
def State.tdrOf (s : State) (c recNo : Nat) (x : Xfer) (idx nrows ncols : Nat) (turned rowEnd : Bool) (r : Regs) (d : List Byte) : Tdr :=
  let k := s.core c
  { record := d, recNo := recNo, x := x
    orows := if turned then ncols else nrows
    ocols := if turned then nrows else ncols
    rowEnd := rowEnd
    origin := areg r (2 * idx), rowStep := areg r (2 * idx + 1)
    seed := ((k.task.bind (fun t => s.ctx t.ctx)).map Ctx.seed).getD 0
    step := (k.task.map CoreTask.step).getD 0
    carry := k.live.carry }

/-- The rows of a drained tile: their pieces, flags and what they carry (R92). -/
def Tdr.rows (t : Tdr) (k : Core) (acc : Nat) (r : Regs) : List (List Piece × Nat × Option CarryRow) :=
  (range t.orows).map (t.row k (k.accTile acc) r)

/-- What is left of a drain once its rows are stored: its flags are raised, its carry kept, its tile released (R79, R92). -/
def State.drained (s : State) (c acc : Nat) (release : Bool) (t : Tdr) (rows : List (List Piece × Nat × Option CarryRow)) : State :=
  let kept := rows.filterMap (fun p => p.2.2)
  let f := s.setFlags c (rows.foldl (fun f p => f ||| p.2.1) 0)
  let g := f.modCore c (fun k => k.modLive (fun l =>
    { l with carry := if kept = [] then none else some ⟨t.recNo, t.origin, t.rowStep, t.orows, t.ocols, kept⟩ }))
  if release then g.setAcc c acc {} else g

section
variable (s : State) (c : Nat) (w : W64) (i : TileInsn)

theorem issued_drCheck (d : List Byte) : drCheck ((issued s c w i).core c) d = drCheck (s.core c) d := by rw [issued_core]; rfl

theorem issued_tdrRows (t : Tdr) (acc : Nat) (r : Regs) : t.rows ((issued s c w i).core c) acc r = t.rows (s.core c) acc r := by
  rw [issued_core]; rfl

theorem issued_tdrOf : (issued s c w i).tdrOf c = s.tdrOf c := by
  funext recNo x idx nrows ncols turned rowEnd r d
  simp only [State.tdrOf, issued_task, issued_carry, issued_ctx]

end

/-- A drain stores its rows and is then done. -/
theorem drain_eq (s : State) (c acc : Nat) (release : Bool) (t : Tdr) (r : Regs) (p : Pending) :
    let rows := t.rows (s.core c) acc r
    drain s c acc release t r p = ((s.modCore c (fun k => k.slots t.record)).storeAll c p
      (rows.flatMap (fun e => pieceStores (drType t.record) e.1))).bind (fun u _ => .ok (u.drained c acc release t rows) ()) := rfl

theorem runTdr_accepted {s : State} {c acc recNo : Nat} {x : Xfer} {idx nrows ncols : Nat} {release rowEnd : Bool} {r : Regs} {p : Pending}
    (hd : drCheck (s.core c) p.drain = 0) :
    let t := s.tdrOf c recNo x idx nrows ncols (decide (((s.core c).accTile acc).orient = .transposed)) rowEnd r p.drain
    (∀ y, (s.core c).live.carry = some y → t.continues y = true) →
    (s.core c).accBad acc (fun i j => decide (i < nrows ∧ j < ncols)) = false →
    runTdr s c acc recNo x idx release nrows ncols rowEnd r p = drain s c acc release t r p := by
  intro t hy hg
  have hcont : ((s.core c).live.carry.map t.continues).getD true = true := by
    cases hk : (s.core c).live.carry with
    | none => rfl
    | some y => exact hy y hk
  rw [runTdr]
  simp only [hd]
  exact (if_pos hcont).trans (State.withAccs_good _ (by simpa using hg))

/-- Settles O17: the drain of an accepted record is its stores, and it ends as they end: made, waiting for a place, or missing a page. -/
theorem drainWritesRows : Obligations.DrainWritesRows := by
  unfold Obligations.DrainWritesRows
  intro s u c w acc recNo dst stride idx nrows1 ncols1 pfx space release remote rowEnd i h k d tile tr x0 t hd hy hg rows stored
  have run : runInsn (issued s c w i) c i (record s c w i) = stored.bind (fun u _ => .ok (u.drained c acc release t rows) ()) := by
    have accepted := runTdr_accepted (s := issued s c w i) (c := c) (p := record s c w i) (acc := acc) (recNo := recNo) (x := t.x)
      (idx := idx) (nrows := nrows1 + 1) (ncols := ncols1 + 1) (rowEnd := rowEnd) (r := k.live.a) (release := release)
      (by rw [issued_drCheck]; exact hd)
    rw [issued_tdrOf, issued_accTile, issued_carry, issued_accBad] at accepted
    have drains := accepted hy hg
    rw [drain_eq, issued_tdrRows] at drains
    exact drains
  have issues : exec (.tdr c w) s = .next (issueUnit c w i s) := atIssue_eq h rfl _
  rw [issues]
  refine ⟨fun made => congrArg _ (issueUnit_ok h (run.trans ?_)), fun waits => congrArg _ (issueUnit_wait h (run.trans ?_)),
    fun va store y misses ht => congrArg _ (issueUnit_miss h (run.trans ?_) ht)⟩
  · rw [made]; rfl
  · rw [waits]; rfl
  · rw [misses]; rfl

end Sys2Proof.Machine
end

section
/-! SUPPORT. Roll Call (R96, R307, R424 to R426): what putting a cluster under test and returning it change, and what the end of a run
leaves as it was. -/

namespace Sys2Proof.Machine

open Sys2Proof.Safety

/-! ## Sparse maps -/

theorem mfind_map {α : Type} (f : α → α) (m : Map α) (k : Nat) :
    mfind (m.map (fun e => (e.1, f e.2))) k = (mfind m k).map f := by
  induction m with
  | nil => rfl
  | cons e r ih =>
    simp only [List.map_cons, mfind]
    split
    · rfl
    · exact ih

theorem mem_mins {α : Type} {m : Map α} {k : Nat} {v : α} {e : Nat × α} (h : e ∈ mins m k v) : e = (k, v) ∨ e ∈ m := by
  induction m with
  | nil => exact .inl (List.mem_singleton.mp h)
  | cons x r ih =>
    simp only [mins] at h
    split at h
    · exact List.mem_cons.mp h
    · rcases List.mem_cons.mp h with rfl | h
      · exact .inr List.mem_cons_self
      · exact (ih h).imp_right (List.mem_cons_of_mem _)

/-- The one entry of a key that has been written. -/
theorem mem_mset_key {α : Type} [DecidableEq α] {d v : α} {m : Map α} {k : Nat} {e : Nat × α} (h : e ∈ mset d m k v)
    (hk : e.1 = k) : e.2 = v := by
  have gone : e ∉ mdel m k := fun h => mem_mdel_ne m k e h hk
  unfold mset at h
  split at h
  · exact absurd h gone
  · rcases mem_mins h with rfl | h
    · rfl
    · exact absurd h gone

/-! ## Clusters that serve -/

/-- Every entry of a cluster is in service. -/
def State.entriesServe (n : Nat) (s : State) : Prop := ∀ e ∈ s.clusters, e.1 = n → e.2.mode = .service

theorem State.entriesServe.mode {n : Nat} {s : State} (h : s.entriesServe n) : (s.cluster n).mode = .service := by
  unfold State.entriesServe at h
  unfold State.cluster
  generalize s.clusters = m at h
  induction m with
  | nil => rfl
  | cons e r ih =>
    simp only [mget]
    split
    next he => exact h e List.mem_cons_self he
    · exact ih (fun x hx => h x (List.mem_cons_of_mem _ hx))

theorem State.modCluster_entriesServe (s : State) (n : Nat) : (s.modCluster n (fun q => { q with mode := .service })).entriesServe n := by
  intro e he hn
  rw [mem_mset_key he hn]

/-- A write of memory discards what the coalescers hold and changes no cluster's mode (R194). -/
theorem State.put_entriesServe {n : Nat} {s : State} (pa : Nat) (bs : List Byte) (h : s.entriesServe n) : (s.put pa bs).entriesServe n := by
  intro e he hn
  obtain ⟨x, hx, rfl⟩ := List.mem_map.mp (List.mem_filter.mp he).1
  exact h x hx hn

/-! ## Replies -/

/-- A property that a write of memory keeps, and that does not look at the functions, at what leaves the device and at host memory. A reply
does nothing else, so it keeps it: `Replied` says of which fields, and this of properties of the coalescers' clusters too. -/
structure ReplyKept (P : State → Prop) : Prop where
  put : ∀ s pa bs, P s → P (State.put s pa bs)
  host : ∀ (s : State) p o m, P s → P { s with pci := p, out := o, hostMem := m }

section
variable {P : State → Prop} (hP : ReplyKept P)
include hP

theorem ReplyKept.modFn {s : State} (f : Nat) (g : Fn → Fn) (h : P s) : P (s.modFn f g) := hP.host s _ s.out s.hostMem h

theorem ReplyKept.modCq {s : State} (f q : Nat) (g : CQueue → CQueue) (h : P s) : P (s.modCq f q g) := hP.modFn _ _ h

theorem ReplyKept.ringWrite {s : State} (loc : Bool) (a : Nat) (bs : List Byte) (h : P s) : P (s.ringWrite loc a bs) := by
  unfold State.ringWrite
  split
  · exact hP.put s a bs h
  · exact hP.host s s.pci s.out _ h

theorem ReplyKept.signal {s : State} (f q : Nat) (h : P s) : P (s.signal f q) := by
  have hq := hP.modCq f q (fun c => { c with unsignalled := 0 }) h
  unfold State.signal
  dsimp only
  split
  · exact hq
  · split
    · exact hP.modFn _ _ hq
    · exact hP.host _ _ _ _ hq

theorem ReplyKept.discardReply {s : State} (f q : Nat) (h : P s) : P (s.discardReply f q) := hP.modFn _ _ (hP.modCq _ _ _ h)

theorem ReplyKept.discardAll (f q : Nat) (l : List Reply) :
    ∀ {s : State}, P s → P (l.foldl (fun (s : State) _ => s.discardReply f q) s) := by
  induction l with
  | nil => exact fun h => h
  | cons _ _ ih => exact fun h => ih (hP.discardReply f q h)

theorem ReplyKept.writeReply {s : State} (f q : Nat) (r : Reply) (h : P s) : P (s.writeReply f q r) := by
  unfold State.writeReply
  dsimp only
  split
  · exact hP.discardAll f q _ (hP.modCq _ _ _ h)
  · split
    · exact hP.signal f q (hP.modCq _ _ _ (hP.ringWrite _ _ _ h))
    · exact hP.modCq _ _ _ (hP.ringWrite _ _ _ h)

theorem ReplyKept.drainCq (f q fuel : Nat) : ∀ {s : State}, P s → P (s.drainCq f q fuel) := by
  induction fuel with
  | zero => exact fun h => h
  | succ k ih =>
    intro s h
    unfold State.drainCq
    dsimp only
    split
    · exact h
    · split
      · split
        · exact ih (hP.writeReply _ _ _ h)
        · exact ih (hP.modCq _ _ _ (hP.writeReply _ _ _ h))
      · split
        · exact h
        · exact ih (hP.writeReply _ _ _ (hP.modCq _ _ _ h))

theorem ReplyKept.post {s : State} (f q : Nat) (r : Reply) (h : P s) : P (s.post f q r) := by
  unfold State.post
  dsimp only
  split
  · exact hP.discardReply f q h
  · split
    · split
      · exact hP.discardReply f q h
      · exact hP.drainCq f q _ (hP.modCq _ _ _ h)
    · exact hP.writeReply f q r h

theorem ReplyKept.finish {s : State} (c : Cmd) (op code : Nat) (bs : List Byte) (h : P s) : P (s.finish c op code bs) := by
  unfold State.finish State.endBegun
  dsimp only
  split
  · exact hP.modFn _ _ h
  · exact hP.post _ _ _ (hP.modFn _ _ h)

end

theorem State.entriesServe_replyKept (n : Nat) : ReplyKept (State.entriesServe n) :=
  ⟨fun _ pa bs => State.put_entriesServe pa bs, fun _ _ _ _ h => h⟩

/-! ## The steps of a test -/

/-- A Waymark of a cluster's bank as Trailhead takes it over or gives it back (R307). -/
def Binding.moved (n : Nat) (away : Bool) (b : Binding) : Binding := if b.eff = 1 ∧ b.home = n then { b with away := away } else b

theorem State.moveMarks_binding (s : State) (n k : Nat) (away : Bool) :
    (s.moveMarks n away).binding k = (s.binding k).map (Binding.moved n away) := by
  have hf : (fun (e : Nat × Binding) => if e.2.eff = 1 ∧ e.2.home = n then (e.1, { e.2 with away := away }) else e)
      = fun e => (e.1, Binding.moved n away e.2) := by
    funext e
    unfold Binding.moved
    split <;> rfl
  exact (congrArg (fun f => mfind (s.wmk.binds.map f) k) hf).trans (mfind_map _ _ _)

theorem State.moveMarks_home {s : State} {n k : Nat} {b : Binding} (h : s.binding k = some b) (he : b.eff = 1) (hn : b.home = n)
    (away : Bool) :
    (s.moveMarks n away).binding k = some { b with away := away } := by
  rw [State.moveMarks_binding, h]
  exact congrArg some (if_pos ⟨he, hn⟩)

/-- What a change of a core makes true, of whatever core, holds of every core so changed. -/
theorem State.foldl_modCore_core {Q : Core → Prop} {f : Core → Core} (hf : ∀ k, Q (f k)) (g : Nat → Nat) (l : List Nat) (c : Nat) :
    ∀ s : State, (Q (s.core c) ∨ c ∈ l.map g) → Q ((l.foldl (fun (s : State) j => s.modCore (g j) f) s).core c) := by
  induction l with
  | nil => exact fun s h => h.elim id (fun h => nomatch h)
  | cons j l ih =>
    intro s h
    refine ih _ ?_
    by_cases hc : g j = c
    · rw [← hc, State.modCore_core]
      exact .inl (hf _)
    · rw [State.modCore_core_other _ _ hc]
      exact h.imp_right (fun h => (List.mem_cons.mp h).resolve_left (Ne.symm hc))

/-- A core in wide-shallow mode, or out of it with what the tests leave (R96, R425 step 4). -/
def Core.tested (on : Bool) (k : Core) : Core :=
  if on then { k with wide := true } else { k with wide := false, live := {}, prog := [], badAcc := [] }

/-- What a change of any core keeps, a change of a cluster's cores keeps. -/
theorem State.wideShallow_keeps {P : State → Prop} (hP : ∀ s c f, P s → P (State.modCore s c f)) {s : State} (n : Nat) (on : Bool)
    (h : P s) : P (s.wideShallow n on) := List.foldlRecOn (motive := P) (range 18) _ h (fun _ hb _ _ => hP _ _ _ hb)

section
variable (s : State) (n : Nat) (on : Bool)

@[simp] theorem State.wideShallow_wmk : (s.wideShallow n on).wmk = s.wmk :=
  State.wideShallow_keeps (P := fun t => t.wmk = s.wmk) (fun _ _ _ h => h) n on rfl
@[simp] theorem State.wideShallow_rcl : (s.wideShallow n on).rcl = s.rcl :=
  State.wideShallow_keeps (P := fun t => t.rcl = s.rcl) (fun _ _ _ h => h) n on rfl
@[simp] theorem State.wideShallow_repair : (s.wideShallow n on).repair = s.repair :=
  State.wideShallow_keeps (P := fun t => t.repair = s.repair) (fun _ _ _ h => h) n on rfl
@[simp] theorem State.wideShallow_clusters : (s.wideShallow n on).clusters = s.clusters :=
  State.wideShallow_keeps (P := fun t => t.clusters = s.clusters) (fun _ _ _ h => h) n on rfl

@[simp] theorem State.moveMarks_rcl : (s.moveMarks n on).rcl = s.rcl := rfl
@[simp] theorem State.moveMarks_repair : (s.moveMarks n on).repair = s.repair := rfl
@[simp] theorem State.moveMarks_clusters : (s.moveMarks n on).clusters = s.clusters := rfl
@[simp] theorem State.moveMarks_cores : (s.moveMarks n on).cores = s.cores := rfl

end

theorem State.wideShallow_core {Q : Core → Prop} {on : Bool} (hf : ∀ k : Core, Q (k.tested on)) (s : State) (n : Nat) {j : Nat}
    (hj : j < 18) : Q ((s.wideShallow n on).core (18 * n + j)) :=
  State.foldl_modCore_core hf (fun j => 18 * n + j) (range 18) _ s
    (.inr (List.mem_map.mpr ⟨j, List.mem_range.mpr hj, rfl⟩))

/-- What clearing a range of memory keeps, the loss of a cluster's stores keeps. -/
theorem State.loseStores_keeps {P : State → Prop} (hP : ∀ s o n, P s → P (State.zeroRange s o n)) {s : State} (n : Nat) (h : P s) :
    P (s.loseStores n) :=
  hP _ _ _ (List.foldlRecOn (motive := P) (range 18) _ h (fun _ hb _ _ => hP _ _ _ hb))

theorem State.loseStores_rcl (s : State) (n : Nat) : (s.loseStores n).rcl = s.rcl :=
  State.loseStores_keeps (P := fun t => t.rcl = s.rcl) (fun _ _ _ h => h) n rfl

theorem State.loseStores_wmk (s : State) (n : Nat) : (s.loseStores n).wmk = s.wmk :=
  State.loseStores_keeps (P := fun t => t.wmk = s.wmk) (fun _ _ _ h => h) n rfl

section
variable (s : State) (n : Nat)

@[simp] theorem State.restoreStores_wmk : (s.restoreStores n).wmk = s.wmk := by unfold State.restoreStores; split <;> rfl
@[simp] theorem State.restoreStores_repair : (s.restoreStores n).repair = s.repair := by unfold State.restoreStores; split <;> rfl
@[simp] theorem State.restoreStores_cores : (s.restoreStores n).cores = s.cores := by unfold State.restoreStores; split <;> rfl
@[simp] theorem State.restoreStores_clusters : (s.restoreStores n).clusters = s.clusters := by unfold State.restoreStores; split <;> rfl
@[simp] theorem State.restoreStores_results : (s.restoreStores n).rcl.results = s.rcl.results := by
  unfold State.restoreStores; split <;> rfl

/-- Nothing of a cluster's stores stays saved once they have returned (R425 step 6). -/
theorem State.restoreStores_saved : mfind (s.restoreStores n).rcl.saved n = none := by
  unfold State.restoreStores
  split
  next h => exact h
  next => simp [mfind_mdel]

end

theorem State.saveStores_eq (s : State) (n : Nat) : s.saveStores n =
    ({ s with rcl := { s.rcl with saved := mput s.rcl.saved n (s.mem.filter (fun e => inStores n e.1), s.bad.filter (inStores n)) } } :
      State).loseStores n := by rw [State.saveStores]

@[simp] theorem State.saveStores_wmk (s : State) (n : Nat) : (s.saveStores n).wmk = s.wmk := by
  rw [State.saveStores_eq, State.loseStores_wmk]

/-- The stores that a test saves are those that stood there (R425 step 2). -/
theorem State.saveStores_saved (s : State) (n : Nat) :
    mfind (s.saveStores n).rcl.saved n = some (s.mem.filter (fun e => inStores n e.1), s.bad.filter (inStores n)) := by
  rw [State.saveStores_eq, State.loseStores_rcl, mfind_mput_same]

/-! ## The beginning of a test -/

section
variable (s : State) (n : Nat)

theorem State.beginTest_mode : ((s.beginTest n).cluster n).mode = .rollcall := by
  rw [State.cluster, State.beginTest, State.wideShallow_clusters, ← State.cluster, State.modCluster_cluster]

theorem State.beginTest_wide {j : Nat} (hj : j < 18) : ((s.beginTest n).core (18 * n + j)).wide = true :=
  State.wideShallow_core (Q := fun k => k.wide = true) (on := true) (fun _ => rfl) _ n hj

theorem State.beginTest_binding {k : Nat} {b : Binding} (h : s.binding k = some b) (he : b.eff = 1) (hn : b.home = n) :
    (s.beginTest n).binding k = some { b with away := true } := by
  rw [← State.moveMarks_home h he hn true, State.binding, State.binding, State.beginTest, State.wideShallow_wmk, State.modCluster_wmk,
    State.saveStores_wmk]

theorem State.beginTest_saved :
    mfind (s.beginTest n).rcl.saved n = some (s.mem.filter (fun e => inStores n e.1), s.bad.filter (inStores n)) := by
  rw [State.beginTest, State.wideShallow_rcl, State.modCluster_rcl, State.saveStores_saved]
  rfl

end

/-! ## The end of a test that found nothing -/

/-- The results of a test of a cluster whose signatures agree are noted (Tables 14.19, 14.20). -/
def State.notePass (s : State) (n : Nat) (misr : List Nat) : State :=
  { s with rcl := { s.rcl with
    results := mset 0 s.rcl.results n 3
    misr := (range 24).foldl (fun m b => mset 0 m (24 * n + b) (nth 0 misr b)) s.rcl.misr } }

/-- A cluster returned to service as it was before its test (R425 step 6). -/
def State.giveBack (s : State) (n : Nat) : State :=
  (((s.modCluster n (fun q => { q with mode := .service })).wideShallow n false).moveMarks n false).restoreStores n

/-- No decision waits and none is found: the cluster is given back. -/
theorem State.endTest_clean {s : State} {n : Nat} (h : ∀ d ∈ s.repair.waiting, d.inCluster n = false) :
    s.endTest n 0 [] = s.giveBack n := by
  have idle : s.repair.waiting.filter (fun d => d.inCluster n) = [] := List.filter_eq_nil_iff.mpr (fun d hd => by simp [h d hd])
  have settle (t : State) (ht : t.repair = s.repair) : t.settleDecisions (fun d => d.inCluster n) = t := by
    unfold State.settleDecisions
    rw [ht, if_pos idle]
  have found : findings n 0 [] = [] := rfl
  have few (b : Bool) : ¬ (2 ^ 19 ≤ 0 ∧ b = false) := fun h => absurd h.1 (by decide)
  rw [State.endTest, found, List.foldl_nil, settle, if_neg (few _), State.giveBack]
  rw [State.moveMarks_repair, State.wideShallow_repair, State.modCluster_repair]

section
variable (s : State) (n : Nat)

theorem State.giveBack_entriesServe : (s.giveBack n).entriesServe n := by
  have h := s.modCluster_entriesServe n
  rw [State.entriesServe] at h ⊢
  rwa [State.giveBack, State.restoreStores_clusters, State.moveMarks_clusters, State.wideShallow_clusters]

theorem State.giveBack_repair : (s.giveBack n).repair = s.repair := by
  rw [State.giveBack, State.restoreStores_repair, State.moveMarks_repair, State.wideShallow_repair, State.modCluster_repair]

theorem State.giveBack_results : (s.giveBack n).rcl.results = s.rcl.results := by
  rw [State.giveBack, State.restoreStores_results, State.moveMarks_rcl, State.wideShallow_rcl, State.modCluster_rcl]

theorem State.giveBack_saved : mfind (s.giveBack n).rcl.saved n = none := State.restoreStores_saved _ n

theorem State.giveBack_core {j : Nat} (hj : j < 18) :
    ((s.giveBack n).core (18 * n + j)).wide = false ∧ ((s.giveBack n).core (18 * n + j)).live = {} := by
  rw [State.core, State.giveBack, State.restoreStores_cores, State.moveMarks_cores, ← State.core]
  exact State.wideShallow_core (Q := fun k => k.wide = false ∧ k.live = {}) (on := false) (fun _ => ⟨rfl, rfl⟩) _ n hj

theorem State.giveBack_binding {k : Nat} {b : Binding} (h : s.binding k = some b) (he : b.eff = 1) (hn : b.home = n) :
    (s.giveBack n).binding k = some { b with away := false } := by
  have hw : ((s.modCluster n (fun q => { q with mode := .service })).wideShallow n false).binding k = some b := by
    rw [State.binding, State.wideShallow_wmk, State.modCluster_wmk]
    exact h
  rw [State.binding, State.giveBack, State.restoreStores_wmk]
  exact State.moveMarks_home hw he hn false

end

/-! ## The end of a run -/

section
variable (s : State) (r : RollRun)

/-- What a reply and a change of the run keep, the end of a run or its going on keeps. -/
theorem State.endRollCall_kept {P : State → Prop} (hP : ReplyKept P)
    (hr : ∀ (t : State) o, P t → P { t with rcl := { t.rcl with run := o } }) {s : State} (h : P s) : P (s.endRollCall r) := by
  unfold State.endRollCall
  split
  · exact hP.finish _ _ _ _ (hr _ _ h)
  · exact hr _ _ h

/-- The end of a run, or its going on, leaves repairs, cores, Waymarks, results and saved stores. -/
theorem State.endRollCall_kept_fields : (s.endRollCall r).repair = s.repair ∧ (s.endRollCall r).cores = s.cores
    ∧ (s.endRollCall r).wmk = s.wmk ∧ (s.endRollCall r).rcl.results = s.rcl.results ∧ (s.endRollCall r).rcl.saved = s.rcl.saved :=
  State.endRollCall_kept r (P := fun t => t.repair = s.repair ∧ t.cores = s.cores ∧ t.wmk = s.wmk ∧ t.rcl.results = s.rcl.results
    ∧ t.rcl.saved = s.rcl.saved) ⟨fun _ _ _ h => h, fun _ _ _ _ h => h⟩ (fun _ _ h => h) ⟨rfl, rfl, rfl, rfl, rfl⟩

end

/-! ## ROLLCALL_CLUSTER, by what it finds -/

section
variable {s : State} {n : Nat} {misr : List Nat} {rows : List (Nat × Nat × Nat)} {r : RollRun} (hs : Clocked s)
  (hr : s.rcl.run = some r) (hn : n ∈ r.left)
include hs hn

/-- The command reaches its run (R424). -/
theorem rollCall_reaches : (s.power.stopped || !r.left.contains n) = false := by simp [hs.stopped, hn]

include hr

theorem execRollcallCluster_retired (h : s.retired n = true) : execRollcallCluster n misr rows s =
    .next (s.endRollCall { r with left := r.left.filter (fun m => !s.retired m) }) := by
  simp only [execRollcallCluster, hr, rollCall_reaches hs hn, h, Bool.false_eq_true, if_false, if_true]

section
variable (h : s.retired n = false)
include h

/-- The next cluster's turn (R424, R425). -/
theorem execRollcallCluster_turn (hm : (s.cluster n).mode = .service)
    (hf : (r.left.filter (fun m => !s.retired m && decide ((s.cluster m).mode = .service))).head? = some n)
    (hp : (r.left.filter (fun m => decide ((s.cluster m).mode = .rollcall))).length < r.maxpar) :
    execRollcallCluster n misr rows s = .next (if s.holders n true = [] then s.beginTest n
      else (s.holders n true).foldl (fun (s : State) e => s.askInterrupt e.1 e.2) s) := by
  have first : (r.left.filter (fun m => !s.retired m && decide ((s.cluster m).mode = .service))).headD n = n := by
    rw [List.headD_eq_head?_getD, hf]; rfl
  have turn : ¬ (n ≠ n ∨ r.maxpar ≤ (r.left.filter (fun m => decide ((s.cluster m).mode = .rollcall))).length) := by
    rintro (h | h)
    · exact h rfl
    · omega
  simp only [execRollcallCluster, hr, rollCall_reaches hs hn, Bool.false_eq_true, if_false, h, hm, if_true, first, turn]
  by_cases hb : s.holders n true = [] <;> simp [hb]

/-- A cluster under test whose signatures agree is given back (R425). -/
theorem execRollcallCluster_agrees (hm : (s.cluster n).mode ≠ .service) (hg : ∀ b < 24, nth 0 misr b = nth 0 s.boot.image.sigs b)
    (hw : ∀ d ∈ s.repair.waiting, d.inCluster n = false) :
    let t := (s.notePass n misr).giveBack n
    execRollcallCluster n misr [] s = .next (t.endRollCall { r with
      left := r.left.filter (fun m => decide (m ≠ n) && !t.retired m), tested := r.tested + 2 ^ n }) := by
  have blocks : total ((range 24).map (fun b => if nth 0 misr b = nth 0 s.boot.image.sigs b then 0 else 2 ^ b)) = 0 := by
    have same : ∀ b ∈ range 24, (if nth 0 misr b = nth 0 s.boot.image.sigs b then 0 else 2 ^ b) = 0 :=
      fun b hb => if_pos (hg b (List.mem_range.mp hb))
    rw [List.map_congr_left same]
    rfl
  have unlogged : (range 24).filter (bit 0) = [] := rfl
  have passes : (decide (0 ≠ 0 ∨ ([] : List (Nat × Nat × Nat)) ≠ [])) = false := rfl
  have three : BitVec.ofNat 64 (1 + 2 * b2n (!false) + 4 * 0 + 2 ^ 32 * min ([] : List (Nat × Nat × Nat)).length 0xFFFF) = 3 := rfl
  intro t
  have back : t = (s.notePass n misr).endTest n 0 [] := (State.endTest_clean (s := s.notePass n misr) hw).symm
  clear_value t
  subst back
  simp only [execRollcallCluster, hr, rollCall_reaches hs hn, Bool.false_eq_true, if_false, h, hm, blocks, unlogged, passes, three,
    List.map_nil, List.append_nil, List.foldl_nil, State.notePass]

end
end

/-! ## ROLLCALL_RUN -/

theorem execRollcallRun_accepted {s : State} {h : Cmd} {clusters maxpar : Nat}
    (a : Accepted s h 0x1A (fun p => decide (field p 8 8 = clusters ∧ field p 0x10 4 = maxpar))) :
    let u := s.acts h 0x1A (fun p => decide (field p 8 8 = clusters ∧ field p 0x10 4 = maxpar))
    execRollcallRun h clusters maxpar s = .next (
      if maxpar = 0 ∨ 4 < maxpar ∨ 2 ^ 36 ≤ clusters then u.finish h 0x1A 0x102 []
      else if u.rcl.run.isSome then u.finish h 0x1A 0x708 []
      else u.endRollCall ⟨h, (range 36).filter (fun n => !u.retired n && (decide (clusters = 0) || bit clusters n)), 0, 0, maxpar⟩) :=
  State.command_accepted a _

/-- A run that names no cluster in service replies at once (R424). -/
theorem State.endRollCall_none {s : State} {r : RollRun} (h : r.left = []) (hr : s.rcl.run = none) :
    s.endRollCall r = s.finish r.cmd 0x1A 0 (toBytes 8 r.tested ++ toBytes 8 r.failed) := by
  have same : ({ s with rcl := { s.rcl with run := none } } : State) = s := by rw [← hr]
  rw [State.endRollCall, if_pos h, same]

/-- Settles O42: ROLLCALL_RUN by what it names; ROLLCALL_CLUSTER by what it finds: a turn, a retired cluster, a test that agrees. -/
theorem rollCallTestsClusters : Obligations.RollCallTestsClusters := by
  unfold Obligations.RollCallTestsClusters
  refine ⟨fun s h clusters maxpar => ?_,
    fun s n misr rows r hs hr hn h hm hf hp => ⟨fun hb => ⟨?_, s.beginTest_mode n, fun j hj => s.beginTest_wide n hj,
      fun k b hk he hh => s.beginTest_binding n hk he hh, s.beginTest_saved n⟩, fun hb => ?_⟩,
    fun s n misr rows r hs hr hn h => execRollcallCluster_retired hs hr hn h, fun s n misr r hs hr hn h hm hg hw => ?_⟩
  · intro spell u a l
    have run := execRollcallRun_accepted a
    have legal (h1 : 1 ≤ maxpar) (h4 : maxpar ≤ 4) (hc : clusters < 2 ^ 36) : ¬ (maxpar = 0 ∨ 4 < maxpar ∨ 2 ^ 36 ≤ clusters) := by
      omega
    have idle (hn : s.rcl.run = none) : ¬ u.rcl.run.isSome = true := by rw [show u.rcl.run = none from hn]; decide
    refine ⟨fun h1 h4 hc hn hl => run.trans (congrArg _ ?_), fun h1 h4 hc hn hl => run.trans (congrArg _ ?_),
      fun h1 h4 hc hn => run.trans (congrArg _ ?_), fun hx => run.trans (congrArg _ (if_pos hx))⟩
    · exact (if_neg (legal h1 h4 hc)).trans ((if_neg (idle hn)).trans (if_neg hl))
    · exact (if_neg (legal h1 h4 hc)).trans ((if_neg (idle hn)).trans (State.endRollCall_none hl hn))
    · exact (if_neg (legal h1 h4 hc)).trans (if_pos hn)
  · exact (execRollcallCluster_turn hs hr hn h hm hf hp).trans (congrArg _ (if_pos hb))
  · exact (execRollcallCluster_turn hs hr hn h hm hf hp).trans (congrArg _ (if_neg hb))
  · let v := (s.notePass n misr).giveBack n
    let r' : RollRun := { r with left := r.left.filter (fun m => decide (m ≠ n) && !v.retired m), tested := r.tested + 2 ^ n }
    obtain ⟨repair, cores, wmk, results, saved⟩ := v.endRollCall_kept_fields r'
    have serves := State.endRollCall_kept r' (State.entriesServe_replyKept n) (fun _ _ h => h)
      ((s.notePass n misr).giveBack_entriesServe n)
    refine ⟨_, execRollcallCluster_agrees hs hr hn h hm hg hw, serves.mode, ?_, ?_, ?_, fun j hj => ?_, fun k b hk he hh => ?_⟩
    · rw [results, State.giveBack_results]
      exact mget_mset_same 0 s.rcl.results n 3
    · rw [repair, State.giveBack_repair]
      rfl
    · rw [saved, State.giveBack_saved]
    · rw [State.core, cores, ← State.core]
      exact State.giveBack_core _ n hj
    · rw [State.binding, wmk]
      exact State.giveBack_binding (s.notePass n misr) n hk he hh

end Sys2Proof.Machine
end

section
/-! SUPPORT. The encoding of tile programs (Table 4.3): what a field of a packed word holds, and that the word of every legal
instruction decodes to it (R103). -/

namespace Sys2Proof

open Machine (bits bit b2n)

/-! ## Packed fields -/

/-- The bits that a list of fields takes. -/
def fieldBits (l : List (Nat × Nat)) : Nat := (l.map Prod.fst).sum

/-- Every field holds a value of its width. -/
def FieldsFit (l : List (Nat × Nat)) : Prop := ∀ f ∈ l, f.2 < 2 ^ f.1

theorem packFields_lt {l : List (Nat × Nat)} (h : FieldsFit l) : packFields l < 2 ^ fieldBits l := by
  induction l with
  | nil => simp [packFields, fieldBits]
  | cons f r ih =>
    obtain ⟨w, v⟩ := f
    have hv : v < 2 ^ w := h (w, v) List.mem_cons_self
    have hr : packFields r + 1 ≤ 2 ^ fieldBits r := ih fun f hf => h f (List.mem_cons_of_mem _ hf)
    calc v + 2 ^ w * packFields r < 2 ^ w * (packFields r + 1) := by rw [Nat.mul_add]; omega
      _ ≤ 2 ^ w * 2 ^ fieldBits r := Nat.mul_le_mul_left _ hr
      _ = 2 ^ fieldBits ((w, v) :: r) := by simp [fieldBits, Nat.pow_add]

section
variable {w v : Nat} {r : List (Nat × Nat)} (h : v < 2 ^ w)
include h

/-- Without its first field a packed word holds the others. -/
theorem packFields_shift (n : Nat) : packFields ((w, v) :: r) >>> (w + n) = packFields r >>> n := by
  rw [Nat.shiftRight_add, packFields, Nat.shiftRight_eq_div_pow _ w, Nat.add_mul_div_left _ _ (by positivity), Nat.div_eq_of_lt h,
    Nat.zero_add]

/-- The field at the bottom of a packed word. -/
theorem bits_first {hi : Nat} (hw : hi + 1 = w) : bits (packFields ((w, v) :: r)) hi 0 = v := by
  subst hw
  simp [bits, packFields, Nat.mod_eq_of_lt h]

/-- A field above the bottom one stands in what the bottom one leaves. -/
theorem bits_rest {hi lo : Nat} (hl : w ≤ lo) (hh : w ≤ hi) :
    bits (packFields ((w, v) :: r)) hi lo = bits (packFields r) (hi - w) (lo - w) := by
  obtain ⟨n, rfl⟩ := Nat.exists_eq_add_of_le hl
  obtain ⟨m, rfl⟩ := Nat.exists_eq_add_of_le hh
  simp only [bits, packFields_shift h, Nat.add_sub_cancel_left]
  congr 2
  omega

theorem bit_rest {i : Nat} (hi : w ≤ i) : bit (packFields ((w, v) :: r)) i = bit (packFields r) (i - w) := by
  obtain ⟨n, rfl⟩ := Nat.exists_eq_add_of_le hi
  simp only [bit, Nat.testBit, packFields_shift h, Nat.add_sub_cancel_left]

end

/-- A flag at the bottom of a packed word. -/
theorem bit_first (b : Bool) (r : List (Nat × Nat)) : bit (packFields ((1, b2n b) :: r)) 0 = b := by
  cases b <;> simp [bit, packFields, b2n]

/-- A reserved bit at the bottom of a packed word. -/
theorem bit_reserved (r : List (Nat × Nat)) : bit (packFields ((1, 0) :: r)) 0 = false := bit_first false r

theorem b2n_le (b : Bool) : b2n b ≤ 1 := by cases b <;> decide

/-! ## The fields of an instruction -/

theorem TileInsn.fieldsFit {i : TileInsn} (h : i.fits = true) : FieldsFit i.fields := by
  cases i <;> simp [TileInsn.fits] at h <;> simp [FieldsFit, TileInsn.fields, h, b2n_le]

theorem TileInsn.fieldBits_le (i : TileInsn) : fieldBits i.fields ≤ 64 := by cases i <;> simp [fieldBits, TileInsn.fields]

/-- The fields that a word packs are read back from it, and end at its highest one (Table 4.3). -/
theorem tileFields_packFields {i : TileInsn} (h : i.fits = true) :
    tileFields (packFields i.fields) = some (i, fieldBits i.fields) := by
  cases i <;> simp [TileInsn.fits] at h <;>
    simp [tileFields, TileInsn.fields, fieldBits, bits_first, bits_rest, bit_first, bit_reserved, bit_rest, b2n_le, h]

/-- Settles O8: every field reads back from the packed word, and nothing stands above the highest one. -/
theorem tileWordsRoundTrip : Obligations.TileWordsRoundTrip := by
  unfold Obligations.TileWordsRoundTrip
  intro i h
  obtain ⟨hfit, hlegal⟩ : i.fits = true ∧ i.legal = true := by simpa [TileInsn.wf] using h
  have below : packFields i.fields < 2 ^ fieldBits i.fields := packFields_lt (TileInsn.fieldsFit hfit)
  have word : (encodeTile i).toNat = packFields i.fields :=
    Nat.mod_eq_of_lt (below.trans_le (Nat.pow_le_pow_right (by decide) i.fieldBits_le))
  simp [decodeTile, word, tileFields_packFields hfit, below, hlegal]

end Sys2Proof
end

section
/-! SUPPORT. The sequencer's own instructions on one core: NOP, MOVA, ADDA, LOOP and ENDL (R125 to R127), and the faults of words that do
not decode (R103). -/

namespace Sys2Proof.Machine

open Safety

/-! ## Words that a core issues next -/

section
variable {s : State} {c : Nat} {w : W64} {i : TileInsn} {row : Nat} (h : s.issues c w = true) (f : TileInsn → State → State)
include h

/-- The sequencer takes a word of its own at once, whatever of the core is unfinished (log 10). -/
theorem atIssue_decoded (hd : decodeTile w = some i) (hrow : tileRow i = row) : atIssue row c w s f = .next (f i s) := by
  subst hrow
  obtain ⟨ho, hr⟩ := decodeTile_row hd
  simp [atIssue, h, Nat.not_le.mpr ho, hr, hd]

/-- A word of its row that does not decode faults at once (R103). -/
theorem atIssue_undecoded (hd : decodeTile w = none) (hrow : rowNo w = row) :
    atIssue row c w s f = .next (s.failCore c 0x303 (s.core c).live.pc w) := by
  simp [atIssue, h, hd, hrow]

/-- A reserved opcode faults at once (R103). -/
theorem atIssue_reserved (ho : 0x13 ≤ bits w.toNat 7 0) : atIssue row c w s f = .next (s.failCore c 0x303 (s.core c).live.pc w) := by
  simp [atIssue, h, ho]

end

theorem opcode_eq (w : W64) : bits w.toNat 7 0 = w.toNat % 256 := by simp [bits]

/-- A word whose fields break a condition of Table 4.3 does not decode (R103). -/
theorem decodeTile_illegal {w : W64} {i : TileInsn} {hi : Nat} (hf : tileFields w.toNat = some (i, hi)) (hl : i.legal = false) :
    decodeTile w = none := by simp [decodeTile, hf, hl]

/-! ## MOVA and ADDA -/

/-- An address register written as the instruction passes. -/
theorem stepPc_setA (s : State) (c n v : Nat) :
    (s.setA c n v).stepPc c 1 = passed s c (fun l => { l with a := mset 0 l.a n (BitVec.ofNat 48 v) }) := by
  simp [State.stepPc, State.setA, passed, Core.modLive]

/-- What a MOVA moves depends on its core's live state alone (R127). -/
theorem movaValue_eq (s : State) (c src as imm : Nat) : s.movaValue c src as imm = match src with
    | 0 => wrap 48 (signed 46 imm)
    | 1 => (mget 0 (s.core c).live.a as).toNat
    | 2 => (match as with
      | 0 => c
      | 1 => c / 18
      | 2 => c % 18
      | 3 => s.width c
      | 4 => ((s.core c).task.map CoreTask.ctx).getD 0
      | _ => ((s.core c).task.map CoreTask.step).getD 0)
    | _ => (mget 0 (s.core c).live.c as).toNat := rfl

/-- A MOVA with a reserved selector is not legal (R127). -/
theorem decodeTile_mova_reserved {w : W64} (ho : w.toNat % 256 = 0x11)
    (hs : (bits w.toNat 13 12 = 2 ∧ 6 ≤ bits w.toNat 17 14) ∨ (bits w.toNat 13 12 = 3 ∧ bits w.toNat 17 16 ≠ 0)) :
    decodeTile w = none := by
  have hf : tileFields w.toNat = some (.mova (bits w.toNat 11 8) (bits w.toNat 13 12) (bits w.toNat 17 14) (bits w.toNat 63 18), 64) := by
    simp [tileFields, opcode_eq, ho]
  refine decodeTile_illegal hf ?_
  obtain ⟨hsrc, has⟩ | ⟨hsrc, has⟩ := hs
  · simp [TileInsn.legal, hsrc, has]
  · have : 4 ≤ bits w.toNat 17 14 := by simp [bits, Nat.shiftRight_eq_div_pow] at has ⊢; omega
    simp [TileInsn.legal, hsrc, this]

section
variable {s : State} {c : Nat} {w : W64} (h : s.issues c w = true)
include h

theorem exec_nop (hd : decodeTile w = some .nop) : exec (.nop c w) s = .next (s.stepPc c 1) :=
  atIssue_decoded h (fun _ s => s.stepPc c 1) hd rfl

theorem exec_mova {ad src as imm : Nat} (hd : decodeTile w = some (.mova ad src as imm)) :
    exec (.mova c w) s = .next (doMova c ad src as imm s) := by
  change execMova c w s = _
  rw [execMova]
  exact atIssue_decoded h _ hd rfl

theorem exec_adda {ad : Nat} {src : Bool} {as imm : Nat} (hd : decodeTile w = some (.adda ad src as imm)) :
    exec (.adda c w) s = .next (doAdda c ad src as imm s) := by
  change execAdda c w s = _
  rw [execAdda]
  exact atIssue_decoded h _ hd rfl

theorem exec_loop {cnt stop a count : Nat} {reg : Bool} (hd : decodeTile w = some (.loop cnt stop reg a count)) :
    exec (.loop c w) s = .next (doLoop c w cnt stop reg a count s) := by
  change execLoop c w s = _
  rw [execLoop]
  exact atIssue_decoded h _ hd rfl

theorem exec_endl {cnt : Nat} (hd : decodeTile w = some (.endl cnt)) : exec (.endl c w) s = .next (doEndl c w cnt s) := by
  change execEndl c w s = _
  rw [execEndl]
  exact atIssue_decoded h _ hd rfl

end

/-- Settles O9, instruction by instruction: each changes its core's live state alone, and a reserved selector does not decode. -/
theorem movesOfAddressRegisters : Obligations.MovesOfAddressRegisters := by
  unfold Obligations.MovesOfAddressRegisters
  refine ⟨fun s c w h hd => exec_nop h hd,
    fun s c w ad src as imm h hd => (exec_mova h hd).trans (congrArg _ ((stepPc_setA s c ad _).trans (State.modCore_congr ?_))),
    fun s c w h ho hs => ?_,
    fun s c w ad src as imm h hd => (exec_adda h hd).trans (congrArg _ (stepPc_setA s c ad _))⟩
  · rw [movaValue_eq]
    rfl
  · have row : rowNo w = 0x11 := by simp [rowNo, opcode_eq, ho]
    change execMova c w s = _
    rw [execMova, atIssue_undecoded h _ (decodeTile_mova_reserved ho hs) row]

/-! ## Loops -/

/-- The five cases in which R126 refuses a LOOP. -/
theorem loopOk_iff (prog : List W64) (loops : List Loop) (p cnt stop : Nat) : loopOk prog loops p cnt stop = true ↔
    ¬ (stop ≤ p ∨ prog.length ≤ stop ∨ prog[stop]?.bind decodeTile ≠ some (.endl cnt) ∨ (∃ l ∈ loops, l.counter = cnt)
      ∨ ¬ (∀ l ∈ loops, stop < l.stop)) := by
  have endl : isEndl prog stop cnt = true ↔ prog[stop]?.bind decodeTile = some (.endl cnt) := by
    unfold isEndl
    cases prog[stop]? <;> simp
  simp only [loopOk, Bool.and_eq_true, decide_eq_true_eq, endl, List.all_eq_true]
  grind

section
variable {s : State} {c : Nat} {w : W64} {cnt : Nat}

/-- A LOOP that R126 accepts. -/
theorem doLoop_ok {stop a count n : Nat} {reg : Bool}
    (hok : loopOk (s.core c).prog (s.core c).live.loops (s.core c).live.pc cnt stop = true)
    (hn : (if reg then areg (s.core c).live.a a % 2 ^ 32 else count) = n) :
    doLoop c w cnt stop reg a count s = s.modCore c (fun k => k.modLive (fun l =>
      if n = 0 then { l with pc := stop + 1 }
      else { l with pc := l.pc + 1, c := mset 0 l.c cnt (BitVec.ofNat 32 n), loops := ⟨cnt, l.pc, stop⟩ :: l.loops })) := by
  refine (if_pos hok).trans (State.modCore_congr ?_)
  rw [hn]
  by_cases h0 : n = 0 <;> simp [Core.modLive, loopStep, h0]

theorem doLoop_bad {stop a count : Nat} {reg : Bool}
    (hbad : loopOk (s.core c).prog (s.core c).live.loops (s.core c).live.pc cnt stop = false) :
    doLoop c w cnt stop reg a count s = s.failCore c 0x303 (s.core c).live.pc w := if_neg (by simp [hbad])

/-- The ENDL of the innermost loop counts it down (R125). -/
theorem doEndl_innermost {start : Nat} {outer : List Loop}
    (hl : (s.core c).live.loops = ⟨cnt, start, (s.core c).live.pc⟩ :: outer) :
    doEndl c w cnt s = s.modCore c (fun k => k.modLive (fun l =>
      let v := mget 0 l.c cnt - 1
      if v = 0 then { l with pc := l.pc + 1, c := mset 0 l.c cnt v, loops := outer }
      else { l with pc := start + 1, c := mset 0 l.c cnt v })) := by
  simp only [doEndl, hl, and_self, if_true]
  refine State.modCore_congr ?_
  by_cases h0 : mget 0 (s.core c).live.c cnt - 1 = 0
  · simp only [Core.modLive, endlStep, if_pos h0]
  · simp only [Core.modLive, endlStep, if_neg h0, hl]

/-- An ENDL that is not the end of the innermost loop faults (R126). -/
theorem doEndl_stray (hs : ∀ l outer, (s.core c).live.loops = l :: outer → l.counter ≠ cnt ∨ l.stop ≠ (s.core c).live.pc) :
    doEndl c w cnt s = s.failCore c 0x303 (s.core c).live.pc w := by
  simp only [doEndl]
  split
  next l outer hl => exact if_neg (not_and_or.mpr (hs l outer hl))
  next => rfl

end

/-- Settles O10: a LOOP by whether R126 accepts it, an ENDL by whether it ends the innermost loop. -/
theorem loopsCountDown : Obligations.LoopsCountDown := by
  unfold Obligations.LoopsCountDown
  refine ⟨fun s c w cnt stop reg a count h hd => ?_, fun s c w cnt h hd => ⟨fun start outer hl => ?_, fun hs => ?_⟩⟩
  · intro k bad
    have refused : loopOk k.prog k.live.loops k.live.pc cnt stop = true ↔ ¬ bad := loopOk_iff ..
    refine ⟨fun hb => (exec_loop h hd).trans (congrArg _ (doLoop_bad ?_)),
      fun hb => (exec_loop h hd).trans (congrArg _ (doLoop_ok (refused.mpr hb) rfl))⟩
    exact Bool.eq_false_iff.mpr fun hok => refused.mp hok hb
  · exact (exec_endl h hd).trans (congrArg _ (doEndl_innermost hl))
  · exact (exec_endl h hd).trans (congrArg _ (doEndl_stray hs))

end Sys2Proof.Machine
end

section
/-! SUPPORT. TCFG, TZR and TMOV: configuration of tile registers, accumulator tiles zeroed, and moves between the two (R99 to R101,
R108, R121, R405). -/

namespace Sys2Proof.Machine

open Safety

/-! ## Configuration -/

/-- A core with a tile register replaced. -/
def Core.putTreg (t : Nat) (q : TReg) (k : Core) : Core := k.modLive (fun l => { l with tregs := mset {} l.tregs t q })

theorem State.setTreg_eq (s : State) (c t : Nat) (q : TReg) : s.setTreg c t q = s.modCore c (Core.putTreg t q) := rfl

/-- A tile register replaced as the instruction passes. -/
theorem passed_putTreg (s : State) (c t : Nat) (q : TReg) :
    (passed s c id).modCore c (Core.putTreg t q) = passed s c (fun l => { l with tregs := mset {} l.tregs t q }) :=
  passed_modLive s c (fun _ _ => rfl)

/-- An instruction whose one effect is a tile register. -/
theorem issueUnit_putTreg {s : State} {c : Nat} {w : W64} {i : TileInsn} (h : Issues s c w i) (hf : isFetch i = false) {t : Nat} {q : TReg}
    (hr : runInsn (issued s c w i) c i (record s c w i) = .ok ((issued s c w i).setTreg c t q) ()) :
    issueUnit c w i s = passed s c (fun l => { l with tregs := mset {} l.tregs t q }) :=
  (issueUnit_modCore h hf (f := Core.putTreg t q) (fun _ _ => rfl) hr).trans (passed_putTreg s c t q)

/-- What R100 refuses. -/
theorem cfgOk_refused {type blk rows cols : Nat}
    (h : 12 ≤ type ∨ 3 ≤ blk ∨ pairOk blk type = false ∨ 16384 < footprintOf type blk rows cols) : cfgOk type blk rows cols = false := by
  obtain h | h | h | h := h
  · have : typeOk type = false := by simp [typeOk]; omega
    simp [cfgOk, this]
  · simp [cfgOk, Nat.not_lt.mpr h]
  · simp [cfgOk, h]
  · simp [cfgOk, Nat.not_le.mpr h]

/-- A TCFG whose CLEAR comes with another field does not decode (R101). -/
theorem decodeTile_clear_reserved {w : W64} (ho : w.toNat % 256 = 0x01) (hc : bit w.toNat 41 = true) (hb : bits w.toNat 40 11 ≠ 0) :
    decodeTile w = none := by
  have hf : tileFields w.toNat = some (.tcfg (bits w.toNat 10 8) (bits w.toNat 14 11) (bits w.toNat 17 15) (bits w.toNat 25 18)
      (bits w.toNat 40 26) true, 42) := by simp [tileFields, opcode_eq, ho, hc]
  refine decodeTile_illegal hf (Bool.eq_false_iff.mpr fun legal => hb ?_)
  simp [TileInsn.legal, bits, Nat.shiftRight_eq_div_pow] at legal ⊢
  omega

/-- Settles O11: TCFG by whether R100 accepts the configuration, CLEAR by whether its other fields are 0. -/
theorem tileRegisterConfiguration : Obligations.TileRegisterConfiguration := by
  unfold Obligations.TileRegisterConfiguration
  refine ⟨fun s c w t type blk rows1 cols1 h hok => ?_, fun s c w t type blk rows1 cols1 h => ?_,
    fun s c w t type blk rows1 cols1 h hbad => ⟨?_, cfgOk_refused hbad⟩, fun s c w h ho hc hb => ?_⟩
  · exact (atIssue_eq h rfl (issueUnit c w)).trans (congrArg _ (issueUnit_putTreg h rfl (if_pos hok)))
  · exact (atIssue_eq h rfl (issueUnit c w)).trans (congrArg _ (issueUnit_putTreg h rfl rfl))
  · exact (atIssue_eq h rfl (issueUnit c w)).trans (congrArg _ (issueUnit_fail h (if_neg (by simp [cfgOk_refused hbad]))))
  · have row : rowNo w = 0x101 := by simp [rowNo, opcode_eq, ho, hc]
    exact atIssue_undecoded h (issueUnit c w) (decodeTile_clear_reserved ho hc hb) row

/-! ## Accumulator tiles -/

/-- A core whose accumulator tile has been written whole (R405). -/
def Core.fillAcc (n : Nat) (a : AccTile) (k : Core) : Core :=
  { k with live := { k.live with acc := mset {} k.live.acc n a }, badAcc := k.badAcc.filter (fun w => decide (w / 512 ≠ n)) }

theorem Core.fillAcc_withPendings (n : Nat) (a : AccTile) (k : Core) (l : List Pending) :
    Core.fillAcc n a (k.withPendings l) = (Core.fillAcc n a k).withPendings l := rfl

theorem State.fillAcc_eq (s : State) (c n : Nat) (a : AccTile) : s.fillAcc c n a = s.modCore c (Core.fillAcc n a) := by
  simp only [State.fillAcc, State.setAcc, State.modCore_modCore]
  refine State.modCore_congr ?_
  by_cases hu : ((s.core c).accTile n).inUse = true <;> simp [Core.fillAcc, hu]

/-- Changes of one core in a row are one change. -/
theorem State.foldl_modCore {α : Type} (c : Nat) (g : α → Core → Core) (l : List α) : ∀ (s : State) (f : Core → Core),
    l.foldl (fun s a => s.modCore c (g a)) (s.modCore c f) = s.modCore c (fun k => l.foldl (fun k a => g a k) (f k)) := by
  induction l with
  | nil => exact fun _ _ => rfl
  | cons a l ih =>
    intro s f
    rw [List.foldl_cons, State.modCore_modCore, ih]
    rfl

theorem foldl_passed {α : Type} (s : State) (c : Nat) (f : Live → Live) (g : α → Core → Core) (l : List α) :
    l.foldl (fun s a => s.modCore c (g a)) (passed s c f) = (passed s c f).modCore c (fun k => l.foldl (fun k a => g a k) k) := by
  rw [passed, State.foldl_modCore, State.modCore_modCore]

/-- Consecutive accumulator tiles written whole: the tiles, and what reads correctly again. -/
theorem Core.foldl_fillAcc (acc : Nat) (a : AccTile) (k : Core) (n : Nat) :
    (range n).foldl (fun k i => Core.fillAcc (acc + i) a k) k = { k with
      live := { k.live with acc := (range n).foldl (fun m i => mset {} m (acc + i) a) k.live.acc }
      badAcc := k.badAcc.filter (fun e => !decide (acc ≤ e / 512 ∧ e / 512 < acc + n)) } := by
  induction n with
  | zero =>
    have all : k.badAcc.filter (fun e => !decide (acc ≤ e / 512 ∧ e / 512 < acc + 0)) = k.badAcc :=
      List.filter_eq_self.mpr fun e _ => by simp; omega
    rw [all]
    rfl
  | succ n ih =>
    have later (e : Nat) : (decide (e / 512 ≠ acc + n) && !decide (acc ≤ e / 512 ∧ e / 512 < acc + n))
        = !decide (acc ≤ e / 512 ∧ e / 512 < acc + (n + 1)) := by
      rw [← decide_not, ← decide_not, ← Bool.decide_and]
      exact decide_eq_decide.mpr (by omega)
    simp only [range, List.range_succ, List.foldl_append, List.foldl_cons, List.foldl_nil] at ih ⊢
    rw [ih]
    simp only [Core.fillAcc, List.filter_filter, later]

/-- What is written whole in accumulator tiles as the instruction passes. -/
theorem passed_fillAcc (s : State) (c : Nat) (f : Map AccTile → Map AccTile) (g : List Nat → List Nat) :
    (passed s c id).modCore c (fun k => { k with live := { k.live with acc := f k.live.acc }, badAcc := g k.badAcc }) =
      (passed s c (fun l => { l with acc := f l.acc })).modCore c (fun k => { k with badAcc := g k.badAcc }) := by
  simp only [passed, State.modCore_modCore]
  rfl

theorem passed_fillAcc_one (s : State) (c n : Nat) (a : AccTile) : (passed s c id).modCore c (Core.fillAcc n a) =
    (passed s c (fun l => { l with acc := mset {} l.acc n a })).modCore c
      (fun k => { k with badAcc := k.badAcc.filter (fun e => decide (e / 512 ≠ n)) }) :=
  passed_fillAcc s c (fun m => mset {} m n a) _

/-- The tiles of a TZR, written whole (R121). -/
theorem runTzr_passed (s : State) (c acc count1 : Nat) (f : Live → Live) :
    runTzr (passed s c f) c acc (count1 + 1) = .ok ((passed s c f).modCore c (fun k => { k with
      live := { k.live with acc := (range (count1 + 1)).foldl (fun m n => mset {} m (acc + n) { inUse := true }) k.live.acc }
      badAcc := k.badAcc.filter (fun e => !decide (acc ≤ e / 512 ∧ e / 512 ≤ acc + count1)) })) () := by
  have last (e : Nat) : e / 512 < acc + (count1 + 1) ↔ e / 512 ≤ acc + count1 := by omega
  simp only [runTzr, State.fillAcc_eq, foldl_passed, Core.foldl_fillAcc, last]

/-- A TZR that would pass tile 63 does not decode (R121). -/
theorem decodeTile_tzr_past {w : W64} (ho : w.toNat % 256 = 0x08) (hp : 64 < bits w.toNat 13 8 + (bits w.toNat 19 14 + 1)) :
    decodeTile w = none := by
  have hf : tileFields w.toNat = some (.tzr (bits w.toNat 13 8) (bits w.toNat 19 14), 20) := by simp [tileFields, opcode_eq, ho]
  refine decodeTile_illegal hf ?_
  simp only [TileInsn.legal, decide_eq_false_iff_not]
  omega

/-! ## Moves -/

section
variable {s : State} {c td ts acc : Nat}

theorem runTmovReg_inUse (hu : ((s.core c).treg ts).inUse = true) :
    runTmovReg s c td ts = .ok (s.setTreg c td ((s.core c).treg ts)) () := State.withTreg_inUse _ hu

theorem runTmovOut_good (hg : (s.core c).accBad acc (fun _ _ => true) = false) :
    runTmovOut s c td acc = .ok (s.setTreg c td
      ((range 32).foldl (fun (q : TReg) r => q.setRow r ((range 32).flatMap (fun j => toBytes 4 (((s.core c).accTile acc).get r j))) [])
        ⟨true, if ((s.core c).accTile acc).cls = .int32 then 11 else 0, 0, 32, 32, [], []⟩)) () :=
  State.withAccs_good _ (by simpa using hg)

theorem runTmovIn_shaped {orient : Bool} (hu : ((s.core c).treg ts).inUse = true)
    (hs : (((s.core c).treg ts).type = 0 ∨ ((s.core c).treg ts).type = 11) ∧ ((s.core c).treg ts).blk = 0
      ∧ ((s.core c).treg ts).rows = 32 ∧ ((s.core c).treg ts).cols = 32) :
    runTmovIn s c ts acc orient = .ok (s.modCore c (Core.fillAcc acc ((range 1024).foldl
      (fun (a : AccTile) e => a.put (e / 32) (e % 32) (((s.core c).treg ts).enc (e / 32) (e % 32)))
      ⟨true, if ((s.core c).treg ts).type = 11 then .int32 else .fp32, if orient then .transposed else .normal, []⟩))) () := by
  rw [runTmovIn, State.withTreg_inUse _ hu, if_pos hs]
  exact congrArg (Res.ok · ()) (State.fillAcc_eq s c acc _)

end

/-- Settles O12: TZR by the tiles it writes whole, TMOV by its mode. -/
theorem accumulatorZeroAndMove : Obligations.AccumulatorZeroAndMove := by
  unfold Obligations.AccumulatorZeroAndMove
  refine ⟨fun s c w acc count1 h => ?_, fun s c w h ho hp => ?_, fun s c w td ts acc o h hu => ?_, fun s c w td ts acc o h => ?_,
    fun s c w td ts acc o h => ?_⟩
  · have run := runTzr_passed s c acc count1 (fun l => { l with pendings := [record s c w (.tzr acc count1)] })
    rw [← issued_plain s c w rfl] at run
    exact (atIssue_eq h rfl (issueUnit c w)).trans (congrArg _ ((issueUnit_modCore h rfl (fun _ _ => rfl) run).trans
      (passed_fillAcc s c (fun m => (range (count1 + 1)).foldl (fun m n => mset {} m (acc + n) { inUse := true }) m) _)))
  · have row : rowNo w = 0x08 := by simp [rowNo, opcode_eq, ho]
    exact atIssue_undecoded h (issueUnit c w) (decodeTile_tzr_past ho hp) row
  · have run := runTmovReg_inUse (s := issued s c w (.tmov 0 td ts acc o)) (c := c) (td := td) (ts := ts) (by rwa [issued_treg])
    rw [issued_treg] at run
    exact (atIssue_eq h rfl (issueUnit c w)).trans (congrArg _ (issueUnit_putTreg h rfl run))
  · intro a hg
    have run := runTmovOut_good (s := issued s c w (.tmov 1 td ts acc o)) (c := c) (td := td) (acc := acc) (by rwa [issued_accBad])
    rw [issued_accTile] at run
    exact (atIssue_eq h rfl (issueUnit c w)).trans (congrArg _ (issueUnit_putTreg h rfl run))
  · intro q hu htype hblk hrows hcols
    have run := runTmovIn_shaped (s := issued s c w (.tmov 2 td ts acc o)) (c := c) (ts := ts) (acc := acc) (orient := o)
      (by rwa [issued_treg]) (by rw [issued_treg]; exact ⟨htype, hblk, hrows, hcols⟩)
    rw [issued_treg] at run
    exact (atIssue_eq h rfl (issueUnit c w)).trans (congrArg _ ((issueUnit_modCore h rfl (Core.fillAcc_withPendings acc _) run).trans
      (passed_fillAcc_one s c acc _)))

end Sys2Proof.Machine
end

section
/-! SUPPORT. The store queue (R107, R182 to R184, R190, R200): what issuing requests keeps, and what a store that Rambler takes leaves. -/

namespace Sys2Proof.Machine

open Safety

/-! ## Requests that issue -/

/-- The stores on this device that a Rambler holds, in order: their first bytes and what they write (R182). -/
def Rambler.queued (m : Rambler) : List (Nat × List Byte) := (m.reqs.filter Req.localStore).map (fun q => (q.pa, q.data))

theorem queuedStores_eq (s : State) (c : Nat) : queuedStores s c = (s.core c).ramb.queued := rfl

/-- What checks, addresses and the stores on this device depend on stays, and Rambler of core `c` has taken stores behind those it held:
else requests have only issued, been counted or been discarded. -/
structure Rearranged (c : Nat) (l : List (Nat × List Byte)) (s t : State) : Prop where
  mem : t.mem = s.mem
  ctxs : t.ctxs = s.ctxs
  sys : t.sys = s.sys
  repair : t.repair = s.repair
  evl : t.evl = s.evl
  hbm : t.hbm = { s.hbm with occupancy := t.hbm.occupancy, stopped := t.hbm.stopped }
  device : t.nxp.device = s.nxp.device
  hall : t.nxp.hall = s.nxp.hall
  mode : ∀ n, (t.cluster n).mode = (s.cluster n).mode
  pendings : ∀ d, (t.core d).live.pendings = (s.core d).live.pendings
  queued : (t.core c).ramb.queued = (s.core c).ramb.queued ++ l

namespace Rearranged

variable {c : Nat}

theorem refl (s : State) : Rearranged c [] s s := by
  constructor
  case queued => exact (List.append_nil _).symm
  all_goals intros; rfl

theorem trans {l m : List (Nat × List Byte)} {s t u : State} (h : Rearranged c l s t) (k : Rearranged c m t u) :
    Rearranged c (l ++ m) s u where
  mem := k.mem.trans h.mem
  ctxs := k.ctxs.trans h.ctxs
  sys := k.sys.trans h.sys
  repair := k.repair.trans h.repair
  evl := k.evl.trans h.evl
  hbm := by rw [k.hbm, h.hbm]
  device := k.device.trans h.device
  hall := k.hall.trans h.hall
  mode n := (k.mode n).trans (h.mode n)
  pendings d := (k.pendings d).trans (h.pendings d)
  queued := by rw [k.queued, h.queued, List.append_assoc]

theorem andThen {l : List (Nat × List Byte)} {s t u : State} (h : Rearranged c l s t) (k : Rearranged c [] t u) :
    Rearranged c l s u := by simpa using h.trans k

section
variable {l : List (Nat × List Byte)} {s t : State} (h : Rearranged c l s t)
include h

theorem sameMemory : SameMemory s t := by
  intro a
  have : t.hbm.unlisted = s.hbm.unlisted := by rw [h.hbm]; rfl
  rw [State.byteAt, State.byteAt, h.mem, this]

theorem isHere (a : Nat) : t.isHere a = s.isHere a := by rw [State.isHere, State.isHere, h.device, h.hall]

theorem stackOf (pa : Nat) : t.stackOf pa = s.stackOf pa := by
  rw [State.stackOf, State.stackOf, show t.hbm.ilv = s.hbm.ilv by rw [h.hbm]]

theorem lostTarget (pa : Nat) : t.lostTarget pa = s.lostTarget pa := by
  simp only [State.lostTarget, h.stackOf, h.evl, show t.hbm.service = s.hbm.service by rw [h.hbm]]

theorem retired (n : Nat) : t.retired n = s.retired n := by rw [State.retired, State.retired, h.repair]

theorem barred (i : Option Nat) (n : Nat) : t.barred i n = s.barred i n := by
  simp only [State.barred, State.clusterClosed, h.retired, h.mode, h.sys]
  rfl

theorem cross (w : Who) (pa : Nat) : t.cross w pa = s.cross w pa := by
  simp only [State.cross, State.islandOf, h.barred, h.stackOf]

theorem mapped (x o : Nat) (store : Bool) : t.mapped x o store = s.mapped x o store := by
  rw [State.mapped, State.mapped, State.ctx, State.ctx, h.ctxs]

/-- Every access is checked as before. -/
theorem check (w : Who) (o : Nat) (store : Bool) : t.check w o store = s.check w o store := by
  simp only [State.check, h.retired, h.cross, h.mapped, h.lostTarget]

end

/-- A change of one core that keeps its unfinished instructions, and adds stores only to those of core `c`. -/
theorem modCore (s : State) (d : Nat) {f : Core → Core} {l : List (Nat × List Byte)} (hl : (f (s.core d)).live.pendings = (s.core d).live.pendings)
    (hq : (f (s.core d)).ramb.queued = (s.core d).ramb.queued ++ l) (hd : l ≠ [] → d = c) : Rearranged c l s (s.modCore d f) := by
  constructor
  case pendings =>
    intro e
    by_cases he : d = e
    · subst he; rw [State.modCore_core, hl]
    · rw [State.modCore_core_other _ _ he]
  case queued =>
    by_cases he : d = c
    · subst he; rw [State.modCore_core, hq]
    · have : l = [] := by by_contra hn; exact he (hd hn)
      rw [State.modCore_core_other _ _ he, this, List.append_nil]
  all_goals intros; rfl

/-- A change of one cluster that keeps its mode. -/
theorem modCluster (s : State) (n : Nat) {f : Cluster → Cluster} (hm : (f (s.cluster n)).mode = (s.cluster n).mode) :
    Rearranged c [] s (s.modCluster n f) := by
  constructor
  case mode =>
    intro m
    by_cases hn : n = m
    · subst hn; rw [State.modCluster_cluster, hm]
    · rw [show (s.modCluster n f).cluster m = s.cluster m from mget_mset_other _ _ _ hn]
  case queued => exact (List.append_nil _).symm
  all_goals intros; rfl

theorem countQueues (s : State) : Rearranged c [] s s.countQueues := by
  have fold (l : List Nat) : ∀ h : Hbm, ∃ o p, l.foldl (fun h n => h.queue n (s.queuedAt n)) h = { h with occupancy := o, stopped := p } := by
    induction l with
    | nil => exact fun h => ⟨_, _, rfl⟩
    | cons n l ih =>
      intro h
      obtain ⟨o, p, e⟩ := ih (h.queue n (s.queuedAt n))
      exact ⟨o, p, e⟩
  obtain ⟨o, p, e⟩ := fold (range 8) s.hbm
  have : s.countQueues = { s with hbm := { s.hbm with occupancy := o, stopped := p } } := by rw [State.countQueues, e]
  rw [this]
  constructor
  case queued => exact (List.append_nil _).symm
  all_goals intros; rfl

end Rearranged

/-- A sparse map changed at every entry, by a change that keeps the default. -/
theorem mget_map {α : Type} {d : α} {f : α → α} (hf : f d = d) (m : Map α) (k : Nat) :
    mget d (m.map (fun e => (e.1, f e.2))) k = f (mget d m k) := by
  induction m with
  | nil => exact hf.symm
  | cons e m ih =>
    obtain ⟨j, v⟩ := e
    by_cases hj : j = k <;> simp [mget, hj, ih]

theorem State.goReq_store (s : State) (q : Req) : (s.goReq q).localStore = q.localStore ∧ (s.goReq q).pa = q.pa ∧ (s.goReq q).data = q.data := by
  unfold State.goReq
  split <;> exact ⟨rfl, rfl, rfl⟩

/-- Requests changed one by one, each to one that stores the same. -/
theorem Rambler.queued_map {m n : Rambler} {f : Req → Req} (hm : n.reqs = m.reqs.map f)
    (hf : ∀ q ∈ m.reqs, (f q).localStore = q.localStore ∧ (f q).pa = q.pa ∧ (f q).data = q.data) : n.queued = m.queued := by
  unfold Rambler.queued
  rw [hm]
  generalize m.reqs = l at hf
  induction l with
  | nil => rfl
  | cons q l ih =>
    obtain ⟨hs, hp, hd⟩ := hf q List.mem_cons_self
    have tail := ih fun r hr => hf r (List.mem_cons_of_mem _ hr)
    cases hq : q.localStore <;> simp_all

/-- The requests that a go lets through (R200). -/
def Core.goReqs (s : State) (k : Core) : Core := { k with ramb := { k.ramb with reqs := k.ramb.reqs.map s.goReq } }

/-- Every core with the requests that a go lets through. -/
def State.goAll (s : State) : State := { s with cores := s.cores.map (fun (e : Nat × Core) => (e.1, e.2.goReqs s)) }

theorem State.goAll_core (s : State) (d : Nat) : s.goAll.core d = (s.core d).goReqs s := mget_map (f := Core.goReqs s) rfl s.cores d

theorem State.settleQueues_eq (s : State) : s.settleQueues =
    if s.countQueues.cores.any (fun e => e.2.ramb.reqs.any (fun q => decide (q.st = .held))) then s.countQueues.goAll.countQueues
    else s.countQueues := rfl

theorem Rearranged.goAll {c : Nat} (s : State) : Rearranged c [] s s.goAll := by
  constructor
  case pendings => intro d; rw [State.goAll_core]; rfl
  case queued =>
    rw [State.goAll_core, List.append_nil]
    exact Rambler.queued_map (f := s.goReq) rfl fun q _ => s.goReq_store q
  all_goals intros; rfl

theorem Rearranged.settleQueues {c : Nat} (s : State) : Rearranged c [] s s.settleQueues := by
  rw [State.settleQueues_eq]
  split
  · exact ((countQueues s).trans (goAll _)).trans (countQueues _)
  · exact countQueues s

/-! ## The sort window -/

/-- Putting another request in the place of one. -/
theorem upd_cons {α : Type} (a : α) (l : List α) (f : α → α) : upd (a :: l) 0 f = f a :: l ∧ ∀ i, upd (a :: l) (i + 1) f = a :: upd l i f := by
  have same : l.mapIdx (fun _ x => x) = l := by induction l <;> simp_all
  simp [upd, same]

/-- A request replaced by one that stores the same. -/
theorem Rambler.queued_upd {m n : Rambler} {i : Nat} {q r : Req} (hi : m.reqs[i]? = some q) (hn : n.reqs = upd m.reqs i (fun _ => r))
    (hs : r.localStore = q.localStore) (hp : r.pa = q.pa) (hd : r.data = q.data) : n.queued = m.queued := by
  unfold Rambler.queued
  rw [hn]
  clear hn
  generalize m.reqs = l at hi
  induction l generalizing i with
  | nil => cases hi
  | cons a l ih =>
    cases i with
    | zero =>
      obtain rfl : a = q := by simpa using hi
      cases ha : a.localStore <;> simp [(upd_cons _ _ _).1, hs, hp, hd, ha]
    | succ i =>
      have tail := ih (i := i) (by simpa using hi)
      cases ha : a.localStore <;> simp [(upd_cons _ _ _).2, ha, tail]

/-- The request that issues next is one that waits in the window. -/
theorem Rambler.pick_mem {m : Rambler} {i : Nat} {q : Req} (h : m.pick = some (i, q)) : m.reqs[i]? = some q := by
  have ready : (i, q) ∈ m.ready := by
    unfold Rambler.pick at h
    split at h
    · cases h
    · next e he => cases h; rw [he]; exact List.mem_singleton_self _
    · next e r _ he =>
      rw [he]
      obtain h | ⟨_, h⟩ := Option.or_eq_some_iff.mp h
      · obtain h | ⟨_, h⟩ := Option.or_eq_some_iff.mp h
        · exact List.mem_of_find?_eq_some h
        · exact List.mem_of_find?_eq_some h
      · cases h; exact List.mem_cons_self
  have listed := (List.mem_filter.mp ready).1
  simp only [List.mem_mapIdx, Prod.mk.injEq] at listed
  obtain ⟨j, hj, rfl, rfl⟩ := listed
  exact List.getElem?_eq_getElem hj

namespace Rearranged

variable {c : Nat}

theorem countServed (s : State) (n g i pu : Nat) : Rearranged c [] s (s.countServed n g i pu) := modCluster s n rfl

/-- A request issues, in the place of itself, as its unit may be counted at the coalescer. -/
theorem sent {s u : State} {d i : Nat} {q r : Req} {f : Rambler → Rambler} (hq : (s.core d).ramb.reqs[i]? = some q)
    (moved : Rearranged c [] s u) (hc : u.cores = s.cores) (hf : ∀ m, (f m).reqs = upd m.reqs i (fun _ => r))
    (hr : r.localStore = q.localStore ∧ r.pa = q.pa ∧ r.data = q.data) : Rearranged c [] s (u.modRamb d f) := by
  obtain ⟨store, pa, data⟩ := hr
  refine moved.andThen (modCore u d rfl ((Rambler.queued_upd ?_ (hf _) store pa data).trans (List.append_nil _).symm) (absurd rfl))
  rw [State.core, hc]
  exact hq

theorem issueReq {s : State} {d i : Nat} {q : Req} (hq : (s.core d).ramb.reqs[i]? = some q) :
    Rearranged c [] s (s.issueReq d i q) := by
  unfold State.issueReq
  dsimp only
  split
  · exact sent hq (refl s) rfl (fun _ => rfl) ⟨rfl, rfl, rfl⟩
  · split
    · exact sent hq (countServed ..) rfl (fun _ => rfl) ⟨rfl, rfl, rfl⟩
    · exact sent hq (countServed ..) rfl (fun _ => rfl) ⟨rfl, rfl, rfl⟩
    · exact sent hq (refl s) rfl (fun _ => rfl) ⟨rfl, rfl, rfl⟩

theorem issueReqs (d n : Nat) : ∀ s : State, Rearranged c [] s (s.issueReqs d n) := by
  induction n with
  | zero => exact refl
  | succ n ih =>
    intro s
    unfold State.issueReqs
    split
    · exact refl s
    · next i q h =>
      split at h
      · exact (issueReq (Rambler.pick_mem h)).trans (ih _)
      · cases h

theorem issueWindow (s : State) (d : Nat) : Rearranged c [] s (s.issueWindow d) := (issueReqs d _ s).trans (settleQueues _)

theorem discardReads (s : State) (d : Nat) (p : Nat → Bool) : Rearranged c [] s (s.discardReads d p) := by
  constructor
  case queued => exact (List.append_nil _).symm
  all_goals intros; rfl

end Rearranged

/-! ## Stores -/

/-- Reads that are dropped are no stores. -/
theorem Rambler.queued_dropReads (m : Rambler) (p : Req → Bool) : (m.dropReads p).queued = m.queued := by
  let kept : Rambler := { m with reqs := m.reqs.filter (fun q => !(q.load && p q && decide (q.st = .window))) }
  have voided : (m.dropReads p).queued = kept.queued :=
    Rambler.queued_map rfl fun q _ => by split <;> exact ⟨rfl, rfl, rfl⟩
  have stores : kept.reqs.filter Req.localStore = m.reqs.filter Req.localStore := by
    refine (List.filter_filter ..).trans (List.filter_congr fun q _ => ?_)
    cases hl : q.load <;> simp [Req.localStore, hl]
  rw [voided, Rambler.queued, stores, Rambler.queued]

theorem Rambler.queued_append {m n : Rambler} {q : Req} (hn : n.reqs = m.reqs ++ [q]) :
    n.queued = m.queued ++ if q.localStore then [(q.pa, q.data)] else [] := by
  unfold Rambler.queued
  rw [hn]
  cases hq : q.localStore <;> simp [hq]

theorem Rearranged.noteStore (s : State) (c : Nat) (q : Req) :
    Rearranged c (if q.localStore then [(q.pa, q.data)] else []) s (s.noteStore c q) := by
  refine Rearranged.andThen (Rearranged.modCore s c rfl ?_ fun _ => rfl) (Rearranged.discardReads _ c _)
  exact (Rambler.queued_append rfl).trans (congrArg (· ++ _) (Rambler.queued_dropReads ..))

theorem Rearranged.noteStore_here (s : State) (c : Nat) {q : Req} {pa : Nat} {bs : List Byte} (hl : q.load = false) (hs : q.scope ≤ 1)
    (hp : q.pa = pa) (hd : q.data = bs) : Rearranged c [(pa, bs)] s (s.noteStore c q) := by
  simpa [Req.localStore, hl, hs, hp, hd] using Rearranged.noteStore s c q

theorem storeScope_le (c o : Nat) : storeScope c o ≤ 1 := by
  unfold storeScope
  split
  · split <;> omega
  · exact Nat.le_refl 1

/-- The result of a failed check is never that of an access that is done. -/
theorem accRes_ne_ok {α : Type} {s u : State} {w : Who} {a : Acc} {store : Bool} {x : α} : accRes s w a store ≠ .ok u x := by
  cases a <;> nofun

/-- A store of one unit on this device that Rambler takes stands behind the others, at the offset that its check gives (R182). -/
theorem State.storeUnit_ok {s u : State} {c : Nat} {w : Who} {p : Pending} {o m : Nat} {bs : List Byte}
    (h : s.storeUnit c w p o m bs = .ok u ()) : ∃ pa, s.check w o true = .ok pa ∧ Rearranged c [(pa, bs)] s u := by
  unfold State.storeUnit at h
  split at h
  · next pa hpa =>
    refine ⟨pa, hpa, ?_⟩
    cases hf : leavesCluster pa <;> simp only [hf, Bool.false_eq_true, if_false, if_true] at h <;> split at h
    · cases h
    · split at h
      · cases h
      · cases h
        exact Rearranged.noteStore_here s c rfl (storeScope_le ..) rfl rfl
    · cases h
    · split at h
      · cases h
      · cases h
        refine Rearranged.andThen (Rearranged.noteStore_here s c rfl ?_ rfl rfl) (Rearranged.issueWindow ..)
        exact storeScope_le ..
  · exact absurd h accRes_ne_ok

/-- What a store to any place keeps: every byte of memory, and the core's unfinished instructions. -/
structure Storing (c : Nat) (s t : State) : Prop where
  mem : SameMemory s t
  pendings : (t.core c).live.pendings = (s.core c).live.pendings

theorem Rearranged.storing {c : Nat} {l : List (Nat × List Byte)} {s t : State} (h : Rearranged c l s t) : Storing c s t :=
  ⟨h.sameMemory, h.pendings c⟩

theorem Storing.trans {c : Nat} {s t u : State} (h : Storing c s t) (k : Storing c t u) : Storing c s u :=
  ⟨fun a => (k.mem a).trans (h.mem a), k.pendings.trans h.pendings⟩

theorem Storing.request (s : State) (c : Nat) (owner : OpOwner) (die ctx op dst len addr : Nat) (spec : Bool) (bs : List Byte) :
    Storing c s (s.request owner die ctx op dst len addr spec bs).1 := by
  rw [State.request_eq]
  exact ⟨fun _ => rfl, rfl⟩

theorem State.storeRemote_ok {s u : State} {c : Nat} {w : Who} {p : Pending} {a m : Nat} {bs : List Byte}
    (h : s.storeRemote c w p a m bs = .ok u ()) : Storing c s u := by
  unfold State.storeRemote at h
  split at h
  · cases h
  · dsimp only at h
    split at h
    · cases h
    · cases h
      exact (Storing.request ..).trans (Rearranged.noteStore ..).storing

theorem Core.tileWrite_pendings (k : Core) (o : Nat) (bs : List Byte) : (k.tileWrite o bs).live.pendings = k.live.pendings := rfl

/-- A write of tile memory. -/
theorem Rearranged.tileWrite (s : State) (c o : Nat) (bs : List Byte) : Rearranged c [] s (s.modCore c (fun k => k.tileWrite o bs)) :=
  .modCore s c rfl (List.append_nil _).symm (absurd rfl)

/-- A store that Rambler takes, with the place in the queue that it has on this device. -/
def State.queuedAs (s : State) (w : Who) (x : Store) : Option (Nat × List Byte) :=
  match s.check w (localOf x.at_) true with
  | .ok pa => some (pa, x.bytes)
  | _ => none

section
variable {s u : State} {c : Nat} {w : Who} {p : Pending}

theorem State.storeOne_ok {x : Store} (h : s.storeOne c w p x = .ok u ()) : Storing c s u := by
  unfold State.storeOne at h
  split at h
  · cases h
  · split at h
    · cases h
      exact (Rearranged.tileWrite ..).storing
    · split at h
      · obtain ⟨_, _, stored⟩ := State.storeUnit_ok h
        exact stored.storing
      · exact State.storeRemote_ok h

/-- A store at an address of this device: into tile memory where it stands above every address, else into the queue. -/
theorem State.storeOne_here {x : Store} (h : s.storeOne c w p x = .ok u ()) (hx : s.isHere x.at_ = true) :
    (x.at_ < tmBase → ∃ e, s.queuedAs w x = some e ∧ Rearranged c [e] s u) ∧ (tmBase ≤ x.at_ → Rearranged c [] s u) := by
  unfold State.storeOne at h
  split at h
  · cases h
  · split at h
    · next ht =>
      cases h
      exact ⟨fun hl => absurd ht (Nat.not_le.mpr hl), fun _ => .tileWrite ..⟩
    · next ht =>
      obtain ⟨pa, hpa, stored⟩ := State.storeUnit_ok h
      exact ⟨fun _ => ⟨(pa, x.bytes), by simp [State.queuedAs, hpa], stored⟩, fun hl => absurd hl ht⟩

theorem State.storeList_ok {l : List Store} : ∀ {s : State} {n : Nat}, s.storeList c w p n l = .ok u () → Storing c s u := by
  induction l with
  | nil =>
    intro s n h
    cases h
    exact (Rearranged.refl _).storing
  | cons x l ih =>
    intro s n h
    unfold State.storeList at h
    split at h
    · next v _ hv => exact (State.storeOne_ok hv).trans (ih h)
    all_goals cases h

theorem Rearranged.queuedAs {l : List (Nat × List Byte)} (h : Rearranged c l s u) (x : Store) : u.queuedAs w x = s.queuedAs w x := by
  rw [State.queuedAs, State.queuedAs, h.check]

/-- Stores at addresses of this device: those below tile memory are queued in order, and each passes its check. -/
theorem State.storeList_here {l : List Store} : ∀ {s : State} {n : Nat}, s.storeList c w p n l = .ok u () →
    (∀ y ∈ l, s.isHere y.at_ = true) → (∀ y ∈ l, y.at_ < tmBase → (s.queuedAs w y).isSome = true)
      ∧ ((∀ y ∈ l, y.at_ < tmBase) → Rearranged c (l.filterMap (s.queuedAs w)) s u) := by
  induction l with
  | nil =>
    intro s n h _
    cases h
    exact ⟨by simp, fun _ => .refl _⟩
  | cons x l ih =>
    intro s n h here
    unfold State.storeList at h
    split at h
    · next v _ hv =>
      obtain ⟨below, above⟩ := State.storeOne_here hv (here x List.mem_cons_self)
      have rest {m : List (Nat × List Byte)} (r : Rearranged c m s v) := ih h fun y hy => by
        rw [r.isHere]; exact here y (List.mem_cons_of_mem _ hy)
      by_cases hx : x.at_ < tmBase
      · obtain ⟨e, he, r⟩ := below hx
        obtain ⟨checked, moved⟩ := rest r
        simp only [r.queuedAs] at checked moved
        refine ⟨fun y hy => ?_, fun hl => ?_⟩
        · obtain rfl | hy := List.mem_cons.mp hy
          · simp [he]
          · exact checked y hy
        · rw [List.filterMap_cons_some he]
          exact r.trans (moved fun y hy => hl y (List.mem_cons_of_mem _ hy))
      · obtain ⟨checked, _⟩ := rest (above (Nat.not_lt.mp hx))
        simp only [(above (Nat.not_lt.mp hx)).queuedAs] at checked
        refine ⟨fun y hy hl => ?_, fun hl => absurd (hl x List.mem_cons_self) hx⟩
        obtain rfl | hy := List.mem_cons.mp hy
        · exact absurd hl hx
        · exact checked y hy hl
    all_goals cases h

end

/-! ## Addresses of stores -/

/-- Register space stands at the top of every device's offsets, and takes no store (Table 6.2). -/
theorem State.check_ok_below {s : State} {w : Who} {o pa : Nat} {store : Bool} (h : s.check w o store = .ok pa) : o < 0xFF0000000000 := by
  by_contra ho
  have : regionOf o = .registers := by
    simp only [regionOf, hbmBytes, slowBase, slowEnd, clusterBase, coreBase]
    repeat' (first | rfl | omega | split)
  simp [State.check, this] at h

/-- Units climb: one beyond the last address of all stands behind one in register space. -/
theorem unitsOf_below (k : Nat) : ∀ o n : Nat, o < tmBase →
    (∀ q ∈ unitsOf k o n, q.1 < tmBase → localOf q.1 < 0xFF0000000000) → ∀ q ∈ unitsOf k o n, q.1 < tmBase := by
  induction k with
  | zero => intro o n _ _ q hq; cases hq
  | succ k ih =>
    intro o n ho hl q hq
    unfold unitsOf at hq hl
    split at hq
    · cases hq
    · next hn =>
      rw [if_neg hn] at hl
      have first : localOf o < 0xFF0000000000 := hl (o, _) List.mem_cons_self ho
      obtain rfl | hq := List.mem_cons.mp hq
      · exact ho
      · refine ih _ _ ?_ (fun r hr => hl r (List.mem_cons_of_mem _ hr)) q hq
        simp only [localOf, tmBase] at first ho ⊢
        omega

/-- The stores of single units that a store makes lie below tile memory where it does and they pass their checks (R174). -/
theorem Store.cut_below {x : Store} (hx : x.at_ < tmBase)
    (hl : ∀ y ∈ x.cut, y.at_ < tmBase → localOf y.at_ < 0xFF0000000000) : ∀ y ∈ x.cut, y.at_ < tmBase := by
  unfold Store.cut at hl ⊢
  split
  · simpa using hx
  · next hu =>
    rw [if_neg hu] at hl
    simp only [List.mem_map, forall_exists_index, and_imp, forall_apply_eq_imp_iff₂] at hl ⊢
    exact unitsOf_below _ _ _ hx hl

theorem placeAt_below (r : Regs) (remote : Bool) (pfx : Nat) {o : Nat} (ho : o < 2 ^ 48) : placeAt r false remote pfx o < tmBase := by
  have : areg r pfx % 65536 < 65536 := Nat.mod_lt _ (by decide)
  simp only [placeAt, Bool.false_eq_true, if_false, tmBase]
  split <;> omega

theorem rowAt_lt (base off : Int) (i : Nat) (stride : Int) : rowAt base off i stride < 2 ^ 48 := by
  simp only [rowAt, wrap]
  omega

/-- The stores of a row in memory lie below tile memory. -/
theorem Xfer.storesOf_below {x : Xfer} (hs : x.space = false) (r : Regs) (q : TReg) (i : Nat) : ∀ y ∈ x.storesOf r q i, y.at_ < tmBase := by
  have data : x.dataAt r i < tmBase := by rw [Xfer.dataAt, hs]; exact placeAt_below _ _ _ (rowAt_lt ..)
  have scale : x.scaleAt r i < tmBase := by rw [Xfer.scaleAt, hs]; exact placeAt_below _ _ _ (rowAt_lt ..)
  unfold Xfer.storesOf
  split
  · simpa using data
  · simpa using ⟨data, scale⟩

theorem State.queuedAs_below {s : State} {w : Who} {x : Store} (h : (s.queuedAs w x).isSome = true) : localOf x.at_ < 0xFF0000000000 := by
  unfold State.queuedAs at h
  split at h
  · next hpa => exact State.check_ok_below hpa
  · cases h

/-! ## TST -/

theorem runTst_inUse {s : State} {c t : Nat} (hu : ((s.core c).treg t).inUse = true) (x : Xfer) (r : Regs) (p : Pending) :
    runTst s c t x r p = s.storeAll c p ((range ((s.core c).treg t).rows).flatMap (x.storesOf r ((s.core c).treg t))) :=
  State.withTreg_inUse _ hu

theorem State.dropPending_ramb (s : State) (c : Nat) (p : Pending) : ((s.dropPending c p).core c).ramb = (s.core c).ramb := by
  simp [State.dropPending, Core.modLive]

/-- Stores into tile memory, whole and in order. -/
theorem State.storeList_tile {c : Nat} {w : Who} {p : Pending} (l : List Store) : ∀ (s : State) (n : Nat),
    (∀ y ∈ l, y.ok = true ∧ tmBase ≤ y.at_ ∧ y.m = 0) → s.storeList c w p n l =
      .ok (l.foldl (fun s y => s.modCore c (fun k => k.tileWrite (y.at_ - tmBase) y.bytes)) s) () := by
  induction l with
  | nil => exact fun _ _ _ => rfl
  | cons x l ih =>
    intro s n hl
    obtain ⟨hok, ht, hm⟩ := hl x List.mem_cons_self
    have one : s.storeOne c w p x = .ok (s.modCore c (fun k => k.tileWrite (x.at_ - tmBase) x.bytes)) () := by
      simp [State.storeOne, hok, ht, hm, mergeLast]
    simp only [State.storeList, one]
    exact ih _ _ fun y hy => hl y (List.mem_cons_of_mem _ hy)

/-- What the rows of a register leave in a core's tile memory. -/
def Core.storeRows (x : Xfer) (r : Regs) (q : TReg) (k : Core) : Core :=
  (range q.rows).foldl (fun (k : Core) i =>
    let k := k.tileWrite (x.dataOff r i) (q.row i)
    if q.blk = 0 then k else k.tileWrite (x.scaleOff r i) (q.scaleRow i)) k

theorem Core.storeRows_withPendings (x : Xfer) (r : Regs) (q : TReg) (k : Core) (l : List Pending) :
    Core.storeRows x r q (k.withPendings l) = (Core.storeRows x r q k).withPendings l := by
  unfold Core.storeRows
  induction range q.rows generalizing k with
  | nil => rfl
  | cons i is ih =>
    simp only [List.foldl_cons]
    rw [← ih]
    by_cases hb : q.blk = 0 <;> simp only [hb, if_true, if_false] <;> rfl

section
variable {x : Xfer} {r : Regs} {q : TReg} (hs : x.space = true) (hok : ∀ i < q.rows, x.rowOk r q i = true)
include hs

theorem Xfer.storesOf_tile (i : Nat) : ∀ y ∈ x.storesOf r q i, y.ok = x.rowOk r q i ∧ tmBase ≤ y.at_ ∧ y.m = 0 := by
  have data : tmBase ≤ x.dataAt r i := by simp [Xfer.dataAt, placeAt, hs]
  have scale : tmBase ≤ x.scaleAt r i := by simp [Xfer.scaleAt, placeAt, hs]
  unfold Xfer.storesOf
  split
  · simpa using data
  · simpa using ⟨data, scale⟩

theorem Xfer.foldl_storesOf (i : Nat) (k : Core) : (x.storesOf r q i).foldl (fun k y => k.tileWrite (y.at_ - tmBase) y.bytes) k =
    (let k := k.tileWrite (x.dataOff r i) (q.row i)
     if q.blk = 0 then k else k.tileWrite (x.scaleOff r i) (q.scaleRow i)) := by
  have data : x.dataAt r i - tmBase = x.dataOff r i := by simp [Xfer.dataAt, placeAt, hs]
  have scale : x.scaleAt r i - tmBase = x.scaleOff r i := by simp [Xfer.scaleAt, placeAt, hs]
  by_cases hb : q.blk = 0 <;> simp [Xfer.storesOf, hb, data, scale]

include hok

/-- The rows of a register stored into tile memory, once their checks pass (R106, R107). -/
theorem State.storeAll_tile (s : State) (c : Nat) (f : Live → Live) {p : Pending} (hp : p.done = 0) :
    (passed s c f).storeAll c p ((range q.rows).flatMap (x.storesOf r q)) =
      .ok ((passed s c f).modCore c (Core.storeRows x r q)) () := by
  have good : ∀ y ∈ (range q.rows).flatMap (x.storesOf r q), y.ok = true ∧ tmBase ≤ y.at_ ∧ y.m = 0 := by
    intro y hy
    obtain ⟨i, hi, hy⟩ := List.mem_flatMap.mp hy
    obtain ⟨ok, place⟩ := x.storesOf_tile hs i y hy
    exact ⟨ok.trans (hok i (List.mem_range.mp hi)), place⟩
  have whole : ((range q.rows).flatMap (x.storesOf r q)).flatMap Store.cut = (range q.rows).flatMap (x.storesOf r q) :=
    (List.flatMap_congr fun y hy => if_pos (by simp [(good y hy).2.1])).trans (List.flatMap_singleton' _)
  rw [State.storeAll, whole, hp, List.drop_zero, State.storeList_tile _ _ _ good,
    foldl_passed s c f (fun (y : Store) k => k.tileWrite (y.at_ - tmBase) y.bytes)]
  simp only [List.foldl_flatMap, x.foldl_storesOf hs]
  rfl

end

/-- Settles O16: into tile memory row by row; into memory through the store queue, and as the stores end: made, waiting, or missing a page. -/
theorem tileStores : Obligations.TileStores := by
  unfold Obligations.TileStores
  refine ⟨fun s c w t base stride pfx offset remote h => ?_, fun s u c w t base stride pfx offset remote => ?_⟩
  · intro k q x r hu hok
    have run := State.storeAll_tile (x := x) rfl hok s c
      (fun l => { l with pendings := [record s c w (.tst t base stride true remote pfx offset)] })
      (p := record s c w (.tst t base stride true remote pfx offset)) rfl
    rw [← issued_plain s c w rfl] at run
    have unit := runTst_inUse (s := issued s c w (.tst t base stride true remote pfx offset)) (c := c) (t := t)
      (by rwa [issued_treg]) x r (record s c w (.tst t base stride true remote pfx offset))
    rw [issued_treg] at unit
    exact (atIssue_eq h rfl (issueUnit c w)).trans (congrArg _
      (issueUnit_modCore h rfl (f := Core.storeRows x r q) (Core.storeRows_withPendings x r q) (unit.trans run)))
  · intro i h q x z stores hu
    have unit := runTst_inUse (s := z) (c := c) (t := t) (by rwa [issued_treg]) x (s.core c).live.a (record s c w i)
    rw [issued_treg] at unit
    have issues : exec (.tst c w) s = .next (issueUnit c w i s) := atIssue_eq h rfl _
    rw [issues]
    refine ⟨fun made => ⟨congrArg _ (issueUnit_ok h (unit.trans made)), fun a => ?_, fun here => ?_⟩,
      fun waits => congrArg _ (issueUnit_wait h (unit.trans waits)),
      fun va store y misses hy => congrArg _ (issueUnit_miss h (unit.trans misses) hy)⟩
    · exact (State.storeList_ok made).mem a
    · obtain ⟨checked, moved⟩ := State.storeList_here made here
      have below : ∀ y ∈ stores.flatMap Store.cut, y.at_ < tmBase := by
        intro y hy
        obtain ⟨x', hx', hy⟩ := List.mem_flatMap.mp hy
        obtain ⟨n, _, hx⟩ := List.mem_flatMap.mp hx'
        refine Store.cut_below (Xfer.storesOf_below rfl _ _ _ x' hx) (fun y' hy' hl => ?_) y hy
        exact State.queuedAs_below (checked y' (List.mem_flatMap.mpr ⟨x', hx', hy'⟩) hl)
      rw [queuedStores_eq, State.dropPending_ramb, (moved below).queued]
      have started : (z.core c).ramb.queued = queuedStores s c := by
        change ((issued s c w i).core c).ramb.queued = _
        rw [issued_core]
        rfl
      rw [started]
      rfl

end Sys2Proof.Machine
end

section
/-! SUPPORT. HALO and BLR: the strip stored and its add put behind the core's stores (R110, R182), and a Blanket delivery taken (R109). -/

namespace Sys2Proof.Machine

open Safety

section
variable {s u : State} {c t side n dst stride id : Nat} {r : Regs} {p : Pending}
  (hu : ((s.core c).treg t).inUse = true) (hok : haloOk ((s.core c).treg t) side n = true)
include hu hok

/-- A HALO on a register in use with a strip that R110 accepts: the strip's stores, then its add. -/
theorem runHalo_inUse : runHalo s c t side n dst stride id r p =
    let l := (haloStrip ((s.core c).treg t) side n).mapIdx
      (fun i b => haloRow ((s.core c).treg t).type (rowAt (areg r dst) 0 i (dataStride r stride)) b)
    (s.storeAll c p l).bind (fun s _ =>
      match (s.core c).task.map CoreTask.ctx with
      | none => .ok s ()
      | some x =>
        if (s.binding (wkey x id)).isNone then .fail s 0xA04
        else if (s.core c).storingBefore p || decide (128 ≤ (s.core c).ramb.wq.length) then
          .wait (s.handed c p ((l.flatMap Store.cut).length - p.done))
        else
          let b := (s.core c).ramb.stores 1
          if b = 0 then s.coreAdd c id 1
          else .ok (s.modRamb c (fun m => { m with wq := m.wq ++ [⟨id, 1, b, p.pc, p.word, false⟩] })) ()) :=
  (State.withTreg_inUse _ hu).trans (if_pos hok)

variable (hs : s.storeAll c p ((haloStrip ((s.core c).treg t) side n).mapIdx
    (fun i b => haloRow ((s.core c).treg t).type (rowAt (areg r dst) 0 i (dataStride r stride)) b)) = .ok u ())
include hs

/-- Once the strip has entered the store queue and no earlier unfinished instruction stores, the add waits in the Waymark queue behind
the core's stores to this device (R182). -/
theorem runHalo_stored {x : CoreTask} (ht : (u.core c).task = some x) (hb : (u.binding (wkey x.ctx id)).isSome = true)
    (first : (u.core c).storingBefore p = false) (behind : (u.core c).ramb.stores 1 ≠ 0) (place : (u.core c).ramb.wq.length < 128) :
    runHalo s c t side n dst stride id r p =
      .ok (u.modRamb c (fun m => { m with wq := m.wq ++ [⟨id, 1, (u.core c).ramb.stores 1, p.pc, p.word, false⟩] })) () := by
  rw [runHalo_inUse hu hok]
  simp only [hs, Res.bind, ht, Option.map_some]
  have bound : (u.binding (wkey x.ctx id)).isNone = false := by simpa [Option.isSome_iff_ne_none] using hb
  simp [bound, first, behind, place]

end

/-- No unfinished instruction is before the only one. -/
theorem Core.storingBefore_only {k : Core} {p : Pending} (h : k.live.pendings = [p]) : k.storingBefore p = false := by
  simp [Core.storingBefore, h]

section
variable {s : State} {c t ch : Nat} (hu : ((s.core c).treg t).inUse = true)
include hu

/-- A BLR whose channel has a delivery (R109). -/
theorem runBlr_delivered {d : Nat × List Byte} (hd : (s.core c).deliveries.find? (fun d => decide (d.1 = ch)) = some d)
    (hl : d.2.length = ((s.core c).treg t).footprint) : runBlr s c t ch =
      .ok ((s.modCore c (fun k => { k with deliveries := k.deliveries.erase d })).setTreg c t (((s.core c).treg t).fill d.2)) () := by
  simp only [runBlr, State.withTreg_inUse _ hu, hd, hl, if_true]

/-- A BLR whose channel has none (R109). -/
theorem runBlr_empty (hd : (s.core c).deliveries.find? (fun d => decide (d.1 = ch)) = none) : runBlr s c t ch = .wait s := by
  simp only [runBlr, State.withTreg_inUse _ hu, hd]

end

/-- A core whose register is filled with a delivery, which is used up (R109). -/
def Core.take (t : Nat) (d : Nat × List Byte) (k : Core) : Core :=
  Core.putTreg t ((k.treg t).fill d.2) { k with deliveries := k.deliveries.erase d }

/-- Settles O18: the strip's stores end, made or missing a page, or the channel has a delivery or none. -/
theorem stripsAndDeliveries : Obligations.StripsAndDeliveries := by
  unfold Obligations.StripsAndDeliveries
  refine ⟨fun s u c w t side n1 dst stride id task => ?_,
    fun s u c w t side n1 dst stride id va store y => ?_,
    fun s c w t ch d h => ?_, fun s c w t ch h hu hd => ?_⟩
  · intro i h q r hu hok stored ht hb behind place
    have pendings : (u.core c).live.pendings = [record s c w i] := (State.storeList_ok stored).pendings.trans (issued_pendings ..)
    have run := runHalo_stored (s := issued s c w i) (c := c) (t := t) (side := side) (n := n1 + 1) (dst := dst) (stride := stride)
      (id := id) (r := r) (p := record s c w i) (by rwa [issued_treg]) (by rwa [issued_treg]) (by rwa [issued_treg])
      ht hb (Core.storingBefore_only pendings) behind place
    exact (atIssue_eq h rfl (issueUnit c w)).trans (congrArg _ (issueUnit_ok h run))
  · intro i h q hu hok misses hy
    have run := runHalo_inUse (s := issued s c w i) (c := c) (t := t) (side := side) (n := n1 + 1) (dst := dst) (stride := stride)
      (id := id) (r := (s.core c).live.a) (p := record s c w i) (by rwa [issued_treg]) (by rwa [issued_treg])
    rw [issued_treg] at run
    simp only [show q = (s.core c).treg t from rfl] at misses
    simp only [misses, Res.bind] at run
    exact (atIssue_eq h rfl (issueUnit c w)).trans (congrArg _ (issueUnit_miss h run hy))
  · intro q hu hd hl
    have run := runBlr_delivered (s := issued s c w (.blr t ch)) (c := c) (t := t) (ch := ch) (d := d) (by rwa [issued_treg])
      (by rwa [issued_core]) (by rwa [issued_treg])
    have unit : issueUnit c w (.blr t ch) s = (passed s c id).modCore c (Core.take t d) := by
      refine issueUnit_modCore h rfl (f := Core.take t d) (fun k l => rfl) (run.trans ?_)
      rw [State.setTreg, State.modCore_modCore]
      exact congrArg (Res.ok · ()) (State.modCore_congr rfl)
    refine (atIssue_eq h rfl (issueUnit c w)).trans (congrArg _ (unit.trans ?_))
    simp only [passed, State.modCore_modCore]
    exact State.modCore_congr rfl
  · have run := runBlr_empty (s := issued s c w (.blr t ch)) (c := c) (t := t) (ch := ch) (by rwa [issued_treg]) (by rwa [issued_core])
    exact (atIssue_eq h rfl (issueUnit c w)).trans (congrArg _ (issueUnit_wait h run))

end Sys2Proof.Machine
end

section
/-! SUPPORT. The end of a task on one core (R139, R203, R216): what CORE_TASK_END tests, and what it leaves of a core that is done. -/

namespace Sys2Proof.Machine

open Safety

/-- Memory whose bytes and unlisted bytes are as before reads as before. -/
theorem sameMemory_of_eq {s t : State} (hm : t.mem = s.mem) (hh : t.hbm = s.hbm) : SameMemory s t := by
  intro a
  rw [State.byteAt, State.byteAt, hm, hh]

/-- A state whose cores are another's with one changed has every other core as before. -/
theorem otherCores_of_modCore {s t : State} {c : Nat} {f : Core → Core} (h : t.cores = (s.modCore c f).cores) : OtherCores c s t := by
  intro d hd
  rw [State.core, h]
  exact s.modCore_core_other f (Ne.symm hd)

theorem State.core_of_modCore {s t : State} {c : Nat} {f : Core → Core} (h : t.cores = (s.modCore c f).cores) :
    t.core c = f (s.core c) := by
  rw [State.core, h]
  exact s.modCore_core c f

/-- What a task is after a change of it: changed, or none where its graph's slot is free. -/
theorem State.modTask_taskOf (s : State) (g i : Nat) (f : Task → Task) :
    (s.modTask g i f).taskOf g i = if (s.graph g).isSome then f (s.taskOf g i) else {} := by
  cases h : s.graph g <;> simp [State.modTask, State.modGraph, State.taskOf, h, Graph.task, Graph.setTask]

/-! ## CORE_TASK_END -/

section
variable {s : State} {c : Nat} {t : CoreTask}

/-- The end of a tile program on a core that runs it (R139). -/
theorem execCoreTaskEnd_program (ht : (s.core c).task = some t) (hr : s.runs c = true) (hh : t.hand = true) (hp : (s.core c).prog ≠ [])
    (hpc : (s.core c).live.pc = (s.core c).prog.length) (hn : (s.core c).live.pendings = []) :
    execCoreTaskEnd c s = .next (if (s.core c).live.carry.isSome then
      s.failCore c 0x301 ((s.core c).prog.length - 1) ((s.core c).prog.getD ((s.core c).prog.length - 1) 0) else s.coreDone c t) := by
  simp only [execCoreTaskEnd, ht, hr, hh, hn, hpc, hp]
  cases (s.core c).live.carry <;> simp

/-- The end of a mapped task's units on a core that runs it, once Blanket has brought what it takes (R203, R216). -/
theorem execCoreTaskEnd_mapped (ht : (s.core c).task = some t) (hr : s.runs c = true) (hh : t.hand = false)
    (hd : (s.taskOf t.graph t.task).dmaLeft = []) (hb : s.blanketed c t = true) :
    execCoreTaskEnd c s = .next (s.taskRes c (s.handUnits c t) (fun s =>
      if (s.jobOf t.graph t.task).segmentsIn (s.taskOf t.graph t.task) c then s.taskRes c (s.runUnits c t) (fun s => s.coreDone c t)
      else s)) := by
  simp [execCoreTaskEnd, ht, hr, hh, hd, hb]

theorem State.coreDone_cores (s : State) (c : Nat) (t : CoreTask) : (s.coreDone c t).cores = (s.modCore c Core.finished).cores := by
  simp [State.coreDone, State.discardReads]

theorem State.coreDone_left (s : State) (c : Nat) (t : CoreTask) : c ∉ ((s.coreDone c t).taskOf t.graph t.task).left := by
  rw [State.coreDone, State.modTask_taskOf]
  split
  · simp
  · exact List.not_mem_nil

theorem State.coreDone_sameMemory (s : State) (c : Nat) (t : CoreTask) : SameMemory s (s.coreDone c t) :=
  sameMemory_of_eq (by simp [State.coreDone, State.discardReads]) (by simp [State.coreDone, State.discardReads])

end

/-- Settles O21: a tile program's end with and without a carry; a mapped task's, before and after its segments are there. -/
theorem taskEndsOnCore : Obligations.TaskEndsOnCore := by
  unfold Obligations.TaskEndsOnCore
  refine ⟨fun s c t ht hr hh hp hpc hn => ⟨fun free => ?_, fun carries => ?_⟩,
    fun s v c t ht hr hh hd hb handed => ⟨fun out => ?_, fun u here ran => ?_⟩⟩
  · have done : (s.coreDone c t).core c = (s.core c).finished := State.core_of_modCore (State.coreDone_cores s c t)
    have ended : execCoreTaskEnd c s = .next (s.coreDone c t) := by
      rw [execCoreTaskEnd_program ht hr hh hp hpc hn, free]
      rfl
    refine ⟨s.coreDone c t, ended, ?_, ?_, ?_, ?_, s.coreDone_left c t, s.coreDone_sameMemory c t,
      otherCores_of_modCore (s.coreDone_cores c t)⟩ <;> rw [done] <;> rfl
  · exact (execCoreTaskEnd_program ht hr hh hp hpc hn).trans (congrArg _ (if_pos (Option.isSome_iff_ne_none.mpr carries)))
  · refine (execCoreTaskEnd_mapped ht hr hh hd hb).trans (congrArg _ ?_)
    simp only [handed, State.taskRes]
    exact if_neg (by simp [out])
  · refine (execCoreTaskEnd_mapped ht hr hh hd hb).trans (congrArg _ ?_)
    simp only [handed, State.taskRes, here, ran, if_true]

end Sys2Proof.Machine
end

section
/-! SUPPORT. Interruption and restart of a core (R135, R140 to R142, R294): the core freed, its live state saved and put back, its program
loaded. -/

namespace Sys2Proof.Machine

open Safety

/-! ## A core with nothing on its way -/

theorem Core.quiet_noStores {k : Core} (h : k.quiet = true) : k.ramb.reqs.filter Req.localStore = [] := by
  obtain ⟨-, loads⟩ := Bool.and_eq_true_iff.mp h
  refine List.filter_eq_nil_iff.mpr fun q hq local_ => ?_
  have : q.load = true := by
    by_contra hl
    simp only [Bool.not_eq_true', List.any_eq_false] at loads
    exact loads q hq (by simpa using hl)
  simp [Req.localStore, this] at local_

theorem Core.cleared_quiet (k : Core) : k.cleared.quiet = true := by
  simp only [Core.quiet, Core.cleared, List.isEmpty_nil, Bool.true_and, Bool.not_eq_true', List.any_eq_false]
  intro q hq
  obtain ⟨q, hq, rfl⟩ := List.mem_map.mp hq
  simp_all

/-- What clearing quiet cores keeps, and that it frees them: memory, the graphs and the clusters stay, and a core without a task, or
quiet, stays so. -/
structure Freed (s t : State) : Prop where
  mem : t.mem = s.mem
  trh : t.trh = s.trh
  clusters : t.clusters = s.clusters
  free : ∀ c, (s.core c).task = none → (t.core c).task = none
  quiet : ∀ c, (s.core c).quiet = true → (t.core c).quiet = true

theorem Freed.refl (s : State) : Freed s s := ⟨rfl, rfl, rfl, fun _ => id, fun _ => id⟩

theorem Freed.trans {s t u : State} (h : Freed s t) (k : Freed t u) : Freed s u :=
  ⟨k.mem.trans h.mem, k.trh.trans h.trh, k.clusters.trans h.clusters, fun c => k.free c ∘ h.free c, fun c => k.quiet c ∘ h.quiet c⟩

section
variable {s : State} {c : Nat} (hq : (s.core c).quiet = true)
include hq

theorem State.clearCore_quiet : s.clearCore c = ((s.modCore c Core.cleared).dropCoreWaits c).orphanOps c := by
  rw [State.clearCore, State.flushStores, Core.quiet_noStores hq, List.foldl_nil]

theorem State.clearCore_core : (s.clearCore c).core c = (s.core c).cleared := by
  rw [State.clearCore_quiet hq]
  exact s.modCore_core c _

theorem State.clearCore_core_other {d : Nat} (hd : c ≠ d) : (s.clearCore c).core d = s.core d := by
  rw [State.clearCore_quiet hq]
  exact s.modCore_core_other _ hd

theorem State.clearCore_freed : Freed s (s.clearCore c) := by
  have kept (P : Core → Prop) (cleared : P (s.core c).cleared) (d : Nat) (h : P (s.core d)) : P ((s.clearCore c).core d) := by
    by_cases hd : c = d
    · subst hd; rwa [State.clearCore_core hq]
    · rwa [State.clearCore_core_other hq hd]
  constructor
  case free => exact fun d => kept (·.task = none) rfl d
  case quiet => exact fun d => kept (·.quiet = true) (Core.cleared_quiet _) d
  all_goals rw [State.clearCore_quiet hq]; rfl

end

theorem State.foldl_clearCore_freed (l : List Nat) : ∀ s : State, (∀ d ∈ l, (s.core d).quiet = true) →
    Freed s (l.foldl State.clearCore s) := by
  induction l with
  | nil => exact fun s _ => .refl s
  | cons c l ih =>
    intro s hq
    have first := State.clearCore_freed (hq c (List.mem_cons_self ..))
    exact first.trans (ih _ fun d hd => first.quiet d (hq d (List.mem_cons_of_mem _ hd)))

/-! ## INTERRUPT -/

/-- The graph of a state whose graphs stand as in another. -/
theorem State.taskOf_congr {s t : State} (h : t.trh = s.trh) (g i : Nat) : t.taskOf g i = s.taskOf g i := by
  rw [State.taskOf, State.graph, h]; rfl

theorem State.graph_congr {s t : State} (h : t.trh = s.trh) (g : Nat) : t.graph g = s.graph g := by
  rw [State.graph, h]; rfl

theorem State.taskOf_graph {s : State} {g : Nat} {x : Graph} (h : s.graph g = some x) (i : Nat) : s.taskOf g i = x.task i := by
  rw [State.taskOf, h]

/-- A core's state saved in its task, and its handed units taken back (R140). -/
def Task.save (c : Nat) (live : Live) (theirs : Task → Nat → Bool) (x : Task) : Task :=
  { x with saves := mput x.saves c ((mfind x.saves c).getD live), handed := x.handed.filter (fun u => !theirs x u) }

section
variable {s : State} {c : Nat} {t : CoreTask} {g : Graph} (hg : s.graph t.graph = some g)

/-- The units of a task that a core runs or combines, which a saved core takes back (R140). -/
def State.unitsOn (s : State) (c : Nat) (t : CoreTask) (x : Task) (u : Nat) : Bool :=
  let n := max 1 (s.jobOf t.graph t.task).segments
  unitCore x.units u = c || unitCore x.units (u - u % n) = c

/-- The state of a core saved, the core free: what INTERRUPT does before it looks whether the task is wholly saved (R140). -/
def State.savedFirst (s : State) (c : Nat) (t : CoreTask) : State :=
  ((s.modTask t.graph t.task (Task.save c (s.core c).live (s.unitsOn c t))).clearCore c).modCluster (clusterOf c) (fun q => { q with
    held := q.held.filter (fun h => !decide (h.graph = t.graph ∧ h.task = t.task))
    chunks := q.chunks.map (fun (h : Chunk) => if h.members.contains c then { h with data := [] } else h) })

theorem State.saved_eq : s.saved c t =
    let u := s.savedFirst c t
    let x := u.taskOf t.graph t.task
    if x.left.all (fun c => (mfind x.saves c).isSome) then
      ((x.cores.filter (fun d => decide ((u.core d).task = some t))).foldl State.clearCore u).modTask t.graph t.task
        (fun x => { x with phase := .interrupted, interruptReq := false })
    else u := rfl

include hg

theorem State.savedFirst_spec (hc : (s.core c).quiet = true) :
    let u := s.savedFirst c t
    u.core c = (s.core c).cleared ∧ u.mem = s.mem ∧ (u.graph t.graph).isSome = true
      ∧ (∃ h, u.taskOf t.graph t.task = { g.task t.task with
        saves := mput (g.task t.task).saves c ((mfind (g.task t.task).saves c).getD (s.core c).live), handed := h })
      ∧ ∀ d, d ≠ c → u.core d = s.core d := by
  intro u
  let v := s.modTask t.graph t.task (Task.save c (s.core c).live (s.unitsOn c t))
  have cores (d : Nat) : v.core d = s.core d := by simp [v, State.core]
  have quiet : (v.core c).quiet = true := by rwa [cores]
  have freed := State.clearCore_freed quiet
  have trh : u.trh = v.trh := freed.trh
  have slot : v.graph t.graph = some (g.setTask t.task (Task.save c (s.core c).live (s.unitsOn c t) (g.task t.task))) := by
    simp [v, State.modTask, State.modGraph, hg]
  refine ⟨?_, freed.mem.trans (by simp [v]), ?_, ⟨(Task.save c (s.core c).live (s.unitsOn c t) (g.task t.task)).handed, ?_⟩, fun d hd => ?_⟩
  · exact (State.clearCore_core quiet).trans (by rw [cores])
  · rw [State.graph_congr trh, slot]; rfl
  · rw [State.taskOf_congr trh, State.modTask_taskOf, hg, State.taskOf_graph hg]
    rfl
  · exact (State.clearCore_core_other quiet (Ne.symm hd)).trans (cores d)

/-- What saving a quiet core leaves (R135, R140): the core is free, memory as it was, and the task holds its live state, and is
interrupted once it holds all. -/
theorem State.saved_spec (new : mfind (g.task t.task).saves c = none) (hc : (s.core c).quiet = true)
    (others : ∀ d ∈ (g.task t.task).cores, (s.core d).task = some t → (s.core d).quiet = true) :
    let v := s.saved c t
    (v.core c).task = none ∧ v.mem = s.mem ∧ mfind (v.taskOf t.graph t.task).saves c = some (s.core c).live
      ∧ ((∀ d ∈ (g.task t.task).left, d = c ∨ (mfind (g.task t.task).saves d).isSome = true) →
          (v.taskOf t.graph t.task).phase = .interrupted ∧ (v.taskOf t.graph t.task).interruptReq = false) := by
  intro v
  obtain ⟨core, mem, slot, ⟨handed, task⟩, rest⟩ := State.savedFirst_spec hg hc
  have free : ((s.savedFirst c t).core c).task = none := by rw [core]; rfl
  have hv : v = _ := State.saved_eq
  rw [new] at task
  simp only [task] at hv
  have all : ((g.task t.task).left.all fun d => (mfind (mput (g.task t.task).saves c (s.core c).live) d).isSome) = true ↔
      ∀ d ∈ (g.task t.task).left, d = c ∨ (mfind (g.task t.task).saves d).isSome = true := by
    rw [List.all_eq_true]
    refine forall₂_congr fun d _ => ?_
    rw [mfind_mput]
    by_cases hd : d = c
    · simp [hd]
    · simp [hd, Ne.symm hd]
  by_cases h : ((g.task t.task).left.all fun d => (mfind (mput (g.task t.task).saves c (s.core c).live) d).isSome) = true
  · rw [if_pos (by simpa using h)] at hv
    have freed := State.foldl_clearCore_freed ((g.task t.task).cores.filter fun d => decide (((s.savedFirst c t).core d).task = some t))
      (s.savedFirst c t) fun d hd => by
        obtain ⟨hd, ht⟩ := List.mem_filter.mp hd
        by_cases hcd : d = c
        · rw [hcd, core]; exact Core.cleared_quiet _
        · rw [rest d hcd] at ht ⊢
          exact others d hd (by simpa using ht)
    have slot' := slot
    rw [← State.graph_congr freed.trh] at slot'
    have kept : v.taskOf t.graph t.task = _ := (congrArg (State.taskOf · t.graph t.task) hv).trans (State.modTask_taskOf ..)
    rw [if_pos slot', State.taskOf_congr freed.trh, task] at kept
    refine ⟨?_, ?_, ?_, fun _ => ?_⟩
    · rw [hv]
      simpa [State.core] using freed.free c free
    · rw [hv]
      simpa using freed.mem.trans mem
    · rw [kept]; simp
    · rw [kept]; exact ⟨rfl, rfl⟩
  · rw [if_neg (by simpa using h)] at hv
    rw [hv]
    exact ⟨free, mem, by rw [task]; simp, fun yes => absurd (all.mpr yes) h⟩

end

section
variable {s : State} {c : Nat} {t : CoreTask} {g : Graph} {cx : Ctx} (up : Clocked s) (service : s.inService c = true)
  (ht : (s.core c).task = some t)

section
variable (hg : s.graph t.graph = some g) (asked : (g.task t.task).interruptReq = true) (left : c ∈ (g.task t.task).left)
  (sound : (s.core c).seq ≠ .faulted)
  (quiet : ∀ d, (d = c ∨ (d ∈ (g.task t.task).cores ∧ (d ∉ (g.task t.task).left ∨ (s.core d).task = some t))) → (s.core d).quiet = true)
  (hx : s.ctx t.ctx = some cx)
include up service ht hg asked left sound quiet hx

omit ht hg hx in
/-- Nothing keeps INTERRUPT from a core that is ready for it (R135, R140). -/
theorem interrupt_ready : (s.power.stopped || !s.inService c || !(g.task t.task).interruptReq || !(g.task t.task).left.contains c
    || !(s.core c).quiet || !((g.task t.task).cores.filter (fun d => !(g.task t.task).left.contains d)).all (fun d => (s.core d).quiet)
    || decide ((s.core c).seq = .faulted)) = false := by
  have others : ((g.task t.task).cores.filter (fun d => !(g.task t.task).left.contains d)).all (fun d => (s.core d).quiet) = true := by
    refine List.all_eq_true.mpr fun d hd => ?_
    obtain ⟨hd, gone⟩ := List.mem_filter.mp hd
    exact quiet d (.inr ⟨hd, .inl (by simpa using gone)⟩)
  have := quiet c (.inl rfl)
  simp_all [Clocked]

theorem execInterrupt_saved (saved : (mfind (g.task t.task).saves c).isSome = true) : execInterrupt c s = .next (s.saved c t) := by
  simp only [execInterrupt, ht, State.taskOf_graph hg]
  rw [interrupt_ready up service asked left sound quiet, if_neg Bool.false_ne_true, hx]
  exact if_pos saved

theorem execInterrupt_written {u : State} (new : mfind (g.task t.task).saves c = none)
    (good : (range 64).any (fun n => (s.core c).accBad n (fun _ _ => true)) = false)
    (written : s.write (agentOf t.ctx) (cx.recordAt c) (s.recordBytes c) = (u, none)) :
    execInterrupt c s = .next (u.advance.saved c t) := by
  simp only [execInterrupt, ht, State.taskOf_graph hg]
  rw [interrupt_ready up service asked left sound quiet, if_neg Bool.false_ne_true, hx]
  simp [new, good, written]

end

/-! ## CORE_RESUME -/

/-- A core with a live state put back, and both table slots empty (R141). -/
def Core.restored (l : Live) (k : Core) : Core := { k with live := l, t1 := 0, t1off := 0, t2 := 0, t2off := 0 }

/-- A core whose program is loaded, and which begins to issue it (R136). -/
def Core.started (prog : List W64) (k : Core) : Core :=
  { k with prog := prog, seq := .issuing, ramb := { k.ramb.resync k.live k.live.pendings with stop := .stepping } }

/-- The program that a core of a task reads (R136). -/
def State.entryOf (s : State) (c : Nat) (t : CoreTask) :=
  ctEntry (s.taskOf t.graph t.task).op (((s.taskOf t.graph t.task).cores.findIdx? (· = c)).getD 0)

theorem State.startCore_loaded (hh : t.hand = true) {bs : List Byte}
    (read : s.readG (s.whoCore c) (ctProgram (s.entryOf c t)) (8 * ctLength (s.entryOf c t)) = .data bs) :
    s.startCore c t = s.modCore c (Core.started
      ((range (ctLength (s.entryOf c t))).map (fun i => BitVec.ofNat 64 (field bs (8 * i) 8)))) := by
  have load : s.loadProgram c t = (s.modCore c (fun k => { k with
      prog := (range (ctLength (s.entryOf c t))).map (fun i => BitVec.ofNat 64 (field bs (8 * i) 8)) }), none) := by
    unfold State.loadProgram
    unfold State.entryOf at read
    simp only [read]
    rfl
  simp only [State.startCore, hh, load, Bool.not_true, Bool.false_eq_true, if_false, State.modCore_modCore]
  rfl

/-- Reading memory looks at no core and at no graph. -/
theorem State.readUnits_withTasks (s : State) (cores : Map Core) (trh : Trailhead) (w : Who) (us : List (Nat × Nat)) :
    ({ s with cores := cores, trh := trh } : State).readUnits w us = s.readUnits w us := by
  induction us with
  | nil => rfl
  | cons u us ih =>
    simp only [State.readUnits, ih]
    rfl

theorem State.readG_withTasks (s : State) (cores : Map Core) (trh : Trailhead) (w : Who) (a n : Nat) :
    ({ s with cores := cores, trh := trh } : State).readG w a n = s.readG w a n := by
  simp only [State.readG, State.read, State.readUnits_withTasks]
  rfl

/-- Work of a core with nothing unfinished. -/
theorem State.progress_none {s : State} {c : Nat} (h : (s.core c).live.pendings = []) : s.progress c = s := by
  rw [State.progress, h]
  split <;> rfl

section
variable {l : Live} (hl : l.pendings = [])
include hl

theorem State.restoreCore_eq : s.restoreCore c t l =
    (s.modCore c (Core.restored l)).modTask t.graph t.task (fun x => { x with saves := mdel x.saves c }) := by
  have : ({ l with pendings := l.pendings.map (fun p => { p with done := 0 }) } : Live) = l := by rw [hl, List.map_nil, ← hl]
  rw [State.restoreCore, this]
  rfl

theorem State.restoreCore_cores : (s.restoreCore c t l).cores = (s.modCore c (Core.restored l)).cores := by
  rw [State.restoreCore_eq hl, State.modTask_cores]

theorem State.restoreCore_taskOf : (s.restoreCore c t l).taskOf t.graph t.task =
    { s.taskOf t.graph t.task with saves := mdel (s.taskOf t.graph t.task).saves c } := by
  rw [State.restoreCore_eq hl, State.modTask_taskOf]
  cases h : s.graph t.graph with
  | none => simp [State.taskOf, h, mdel]
  | some g => simp [h]

theorem State.restoreCore_readG (w : Who) (a n : Nat) : (s.restoreCore c t l).readG w a n = s.readG w a n := by
  have only : s.restoreCore c t l = { s with cores := (s.restoreCore c t l).cores, trh := (s.restoreCore c t l).trh } := by
    rw [State.restoreCore_eq hl, State.modTask, State.modGraph]
    split <;> rfl
  rw [only, State.readG_withTasks]

include ht in
/-- The task of a restored core, and what it may reach, are as they were (R141). -/
theorem State.restoreCore_whoCore : (s.restoreCore c t l).whoCore c = s.whoCore c := by
  have core : (s.restoreCore c t l).core c = (s.core c).restored l := State.core_of_modCore (State.restoreCore_cores hl)
  have task : ((s.restoreCore c t l).core c).task = some t := by rw [core]; exact ht
  simp only [State.whoCore, task, ht, State.restoreCore_taskOf hl]

end

section
variable (left : c ∈ (s.taskOf t.graph t.task).left) (asked : (s.taskOf t.graph t.task).interruptReq = false)
  (idle : (s.core c).seq = .idle) (hx : s.ctx t.ctx = some cx) (open_ : cx.suspended = false)
include up service ht left asked idle hx open_

omit ht in
/-- Nothing keeps CORE_RESUME from a core that may begin (R136, R141, R142). -/
theorem resume_ready : (s.power.stopped || !s.inService c || ((s.ctx t.ctx).map Ctx.suspended).getD true
    || (s.taskOf t.graph t.task).interruptReq || !(s.taskOf t.graph t.task).left.contains c
    || decide ((s.core c).seq ≠ .idle)) = false := by simp_all [Clocked]

theorem execCoreResume_new (new : mfind (s.taskOf t.graph t.task).saves c = none) :
    execCoreResume c s = .next (s.startCore c t) := by
  simp only [execCoreResume, ht]
  rw [resume_ready up service left asked idle hx open_, if_neg Bool.false_ne_true, hx, new]

theorem execCoreResume_saved {l : Live} {rec : List Byte} (found : mfind (s.taskOf t.graph t.task).saves c = some l)
    (read : s.read (agentOf t.ctx) (cx.recordAt c) l.recordSize = .data rec) :
    execCoreResume c s = .next (((s.restoreCore c t l).startCore c t).progress c) := by
  simp only [execCoreResume, ht]
  rw [resume_ready up service left asked idle hx open_, if_neg Bool.false_ne_true, hx, found]
  simp only [read]

end

end

/-- Settles O22: a core saved or saved before; a core restored, or begun afresh. -/
theorem interruptAndResume : Obligations.InterruptAndResume := by
  unfold Obligations.InterruptAndResume
  refine ⟨fun s u c t g cx up service ht hg asked left sound quiet hx => ⟨fun saved => ?_, fun new good written => ?_⟩,
    fun s c t cx bs up service ht hh idle hx open_ asked left => ?_⟩
  · exact execInterrupt_saved up service ht hg asked left sound quiet hx saved
  · have ran := execInterrupt_written up service ht hg asked left sound quiet hx new good written
    have kept := s.write_eq (agentOf t.ctx) (cx.recordAt c) (s.recordBytes c)
    rw [written] at kept
    have cores : u.cores = s.cores := (congrArg State.cores kept :)
    have trh : u.trh = s.trh := (congrArg State.trh kept :)
    have core (d : Nat) : u.advance.core d = s.core d := by rw [State.core, State.advance_cores, cores]; rfl
    have graph : u.advance.graph t.graph = some g := (State.graph_congr (u.advance_trh.trans trh) _).trans hg
    obtain ⟨free, mem, live, whole⟩ := State.saved_spec (s := u.advance) (c := c) graph new (by rw [core]; exact quiet c (.inl rfl))
      fun d hd htd => by rw [core] at htd ⊢; exact quiet d (.inr ⟨hd, .inr htd⟩)
    exact ⟨_, ran, free, mem, by rw [← core]; exact live, whole⟩
  · intro x e prog read
    refine ⟨fun new => ?_, fun l rec found none_ readRec => ?_⟩
    · have ran := execCoreResume_new up service ht left asked idle hx open_ new
      simp only [State.startCore_loaded hh (s := s) read] at ran
      refine ⟨_, ran, ?_, ?_, ?_, ?_, fun a => rfl, otherCores_of_modCore rfl⟩ <;> rw [State.modCore_core] <;> rfl
    · have ran := execCoreResume_saved up service ht left asked idle hx open_ found readRec
      have entry : (s.restoreCore c t l).entryOf c t = s.entryOf c t := by
        simp only [State.entryOf, State.restoreCore_taskOf none_]
      have read' : (s.restoreCore c t l).readG ((s.restoreCore c t l).whoCore c) (ctProgram ((s.restoreCore c t l).entryOf c t))
          (8 * ctLength ((s.restoreCore c t l).entryOf c t)) = .data bs := by
        rw [entry, State.restoreCore_whoCore ht none_, State.restoreCore_readG none_]
        exact read
      have started := State.startCore_loaded hh read'
      rw [entry] at started
      have cores : ((s.restoreCore c t l).startCore c t).cores =
          (s.modCore c (fun k => ((k.restored l).started prog))).cores := by
        rw [started, State.modCore, State.setCore, State.core_of_modCore (State.restoreCore_cores none_)]
        simp only [State.restoreCore_cores none_]
        simp [State.modCore, State.setCore]
        rfl
      have core := State.core_of_modCore cores
      rw [State.progress_none (by rw [core]; exact none_)] at ran
      refine ⟨_, ran, ?_, ?_, ?_, ?_, ?_, ?_, ?_, otherCores_of_modCore cores⟩
      · rw [core]; rfl
      · rw [core]; rfl
      · rw [core]; rfl
      · rw [core]; rfl
      · rw [core]; rfl
      · rw [started, State.modCore_taskOf, State.restoreCore_taskOf none_]
        simp [mfind_mdel]
      · refine sameMemory_of_eq ?_ ?_ <;> rw [started, State.restoreCore_eq none_] <;> simp

end Sys2Proof.Machine
end

section
/-! SUPPORT. FENCE with LOADS against what it is said to discard (R124, R186, R194). -/

namespace Sys2Proof.Machine

open Safety

/-- The word of a FENCE over the core's own stores, with LOADS 1 (Table 4.3). -/
def fenceWord : W64 := 0x40E#64

/-- A core at that FENCE, with one demand read of its own on its way (R183). -/
def fencingCore : Core where
  task := some { graph := 0, task := 0, ctx := 0, step := 0, hand := true }
  seq := .issuing
  prog := [fenceWord]
  ramb := { reqs := [{ unit := 0, pa := 0, load := true, st := .sent }] }

/-- A device in service whose core 0 is there. -/
def fencing : State := { State.reset with
  cores := [(0, fencingCore)] }

theorem fencing_issues : Issues fencing 0 fenceWord (.fence 0 true) := ⟨by decide, by decide, rfl⟩

theorem fencing_fusable : fencing.fusable 0 0 true = none := rfl

/-- The FENCE passes, and keeps the read that its own core has demanded: only what was fetched ahead is discarded. -/
theorem exec_fencing : ∃ u, exec (.fence 0 fenceWord) fencing = .next u
    ∧ (u.core 0).ramb.reqs.map Req.void = [false] := ⟨fencing.passFence 0 true, rfl, rfl⟩

/-- Refutes O19: the clause of a FENCE with LOADS says that no load that is on its way is wanted any more, and one that a tile load of
the core has demanded still is. Core 0 has one, unmarked as a fetch ahead, and issues the FENCE with none of its stores
unacknowledged. -/
theorem not_waitSignalAndFence : ¬ Obligations.WaitSignalAndFence := by
  unfold Obligations.WaitSignalAndFence
  rintro ⟨-, -, fence⟩
  obtain ⟨pass, -⟩ := fence fencing 0 fenceWord 0 true fencing_issues
  obtain ⟨-, discards, -⟩ := pass fencing_fusable
  obtain ⟨t, ran, -, -, voided, -⟩ := discards rfl rfl
  obtain ⟨u, ran', kept⟩ := exec_fencing
  obtain rfl : u = t := Host.Outcome.next.inj (ran'.symm.trans ran)
  rw [voided] at kept
  exact absurd kept (by decide)

end Sys2Proof.Machine
end

section
/-! SUPPORT. A TLD whose row is at hand in its cluster's coalescer, at a core whose sort window is full (R107, R184, R194, R200). -/

namespace Sys2Proof.Machine

open Safety

/-- TLD t0 from a0 at the device that a1 names, REMOTE 1 (Table 4.3). -/
def remoteLoad : TileInsn := .tld 0 0 0 false true 1 0

/-- Its word. -/
def remoteLoadWord : W64 := 0x180002#64

/-- A store to a cluster's store in the sort window, and once it has gone (R184). -/
def waitingStore : Req := { unit := clusterBase, pa := clusterBase, load := false, st := .window }
def goneStore : Req := { waitingStore with st := .sent }

/-- Core 0 at that TLD: the register is one byte, and 64 stores fill the sort window. -/
def loadingCore : Core where
  task := some { graph := 0, task := 0, ctx := 0, step := 0, hand := true }
  seq := .issuing
  prog := [remoteLoadWord]
  live := { a := [(1, 5)], tregs := [(0, { inUse := true, type := 3, rows := 1, cols := 1 })] }
  ramb := { reqs := List.replicate 64 waitingStore, cycle := 256 }

/-- Core 1, with a store that is held back at its cluster port though its controller has not sent stop (R200). -/
def heldCore : Core where
  ramb := { reqs := [{ waitingStore with st := .held }] }

/-- The two cores, and the byte in their cluster's coalescer (R194). -/
def loading : State := { State.reset with
  cores := [(0, loadingCore), (1, heldCore)]
  clusters := [(0, { held := [⟨0, 0, tmBase + 5 * 2 ^ 48, 1, [7]⟩] })] }

theorem loading_issues : Issues loading 0 remoteLoadWord remoteLoad := ⟨by decide, by decide, rfl⟩

/-! ## The full window issues -/

/-- The oldest of the stores that wait goes next. -/
theorem Rambler.pick_stores {m : Rambler} {k n : Nat} (hm : m.reqs = List.replicate k goneStore ++ List.replicate (n + 1) waitingStore)
    (hc : 256 ≤ m.cycle) : m.pick = some (k, waitingStore) := by
  have ready : ∃ l, m.ready = (k, waitingStore) :: l := by
    have gone : ((List.replicate k goneStore).mapIdx (fun i q => (i, q))).filter (fun e => decide (e.2.st = .window) &&
        !(e.2.load && (m.reqs.take e.1).any (fun q => !q.load && decide (q.st = .window) && decide (q.pa / 256 = e.2.pa / 256)))) = [] := by
      refine List.filter_eq_nil_iff.mpr fun e he => ?_
      obtain ⟨i, hi, rfl⟩ := List.mem_mapIdx.mp he
      simp [goneStore]
    rw [Rambler.ready, show m.reqs.mapIdx (fun i q => (i, q)) = _ by rw [hm, List.mapIdx_append, List.replicate_succ, List.mapIdx_cons],
      List.filter_append, gone]
    simp only [List.length_replicate, Nat.zero_add, List.nil_append]
    rw [List.filter_cons_of_pos (by simp [waitingStore])]
    exact ⟨_, rfl⟩
  obtain ⟨l, ready⟩ := ready
  cases l <;> simp [Rambler.pick, ready, waitingStore, hc]

theorem upd_stores (k n : Nat) (q : Req) : upd (List.replicate k goneStore ++ List.replicate (n + 1) waitingStore) k (fun _ => q) =
    List.replicate k goneStore ++ q :: List.replicate n waitingStore := by
  refine List.ext_getElem (by simp [upd]) fun i hi hj => ?_
  rcases Nat.lt_trichotomy i k with h | h | h
  · simp [upd, h, Nat.ne_of_lt h]
  · simp [upd, h]
  · obtain ⟨d, rfl⟩ := Nat.exists_eq_add_of_lt h
    simp [upd, Nat.add_assoc]

/-- A window with `k` stores gone, and `n` that wait, at an issue count. -/
def Rambler.window (k n cycle : Nat) (m : Rambler) : Rambler :=
  { m with reqs := List.replicate k goneStore ++ List.replicate n waitingStore, cycle := cycle }

section
variable {s : State} {c : Nat} (ops : s.nxp.ops = [])

theorem State.issueReq_stores (k n cycle : Nat) : (s.modRamb c (Rambler.window k (n + 1) cycle)).issueReq c k waitingStore =
    s.modRamb c (Rambler.window (k + 1) n (cycle + 1)) := by
  have region : regionOf waitingStore.pa ≠ .hbm := by decide
  have free (t : State) : t.stoppedAt waitingStore.pa = false := by simp [State.stoppedAt, region]
  simp only [State.issueReq, show waitingStore.load = false from rfl, Bool.false_eq_true, if_false, free, region, State.modRamb,
    State.modCore_modCore]
  refine State.modCore_congr ?_
  simp only [Rambler.window, upd_stores]
  rw [List.replicate_succ' (n := k), List.append_assoc, List.singleton_append]
  rfl

include ops

/-- Every store of the window goes, and nothing else changes. -/
theorem State.issueReqs_stores : ∀ n k cycle : Nat, k + n ≤ 64 → 256 ≤ cycle →
    (s.modRamb c (Rambler.window k n cycle)).issueReqs c n = s.modRamb c (Rambler.window (k + n) 0 (cycle + n)) := by
  intro n
  induction n with
  | zero => exact fun k cycle _ _ => rfl
  | succ n ih =>
    intro k cycle few old
    have tags : (s.modRamb c (Rambler.window k (n + 1) cycle)).tagsOf c < 128 := by
      rw [State.tagsOf, show (s.modRamb c (Rambler.window k (n + 1) cycle)).nxp.ops = [] from ops, State.modRamb, State.modCore_core]
      refine lt_of_le_of_lt (Nat.add_le_add (List.length_filter_le ..) (le_refl _)) ?_
      simp [Rambler.window]
      omega
    have next : ((s.modRamb c (Rambler.window k (n + 1) cycle)).core c).ramb.pick = some (k, waitingStore) :=
      Rambler.pick_stores (by rw [State.modRamb, State.modCore_core]; rfl) (by rw [State.modRamb, State.modCore_core]; exact old)
    rw [State.issueReqs, if_pos tags, next]
    refine (congrArg (State.issueReqs · c n) (State.issueReq_stores k n cycle)).trans ?_
    rw [ih (k + 1) (cycle + 1) (by omega) (by omega), Nat.add_right_comm k, Nat.add_right_comm cycle]
    rfl

end

/-- One row of a TLD, as the obligation writes it. -/
def tldRow (x : Xfer) (r : Regs) (q : TReg) (c t : Nat) (v : State) (n : Nat) : Res (List Byte × List Byte) :=
  (loadRow v c (v.whoCore c) x r q n).bind (fun v d =>
    .ok ((v.consume c (x.rowRanges r q n) (((range q.rows).drop (n + 1)).flatMap (x.rowRanges r q))).setTreg c t
      (((v.core c).treg t).setRow n d.1 d.2)) d)

/-- The states in which core 1's store stands after a list of rows, where each row was at hand. -/
def heldAfter (r : Res (List (List Byte × List Byte))) : List ReqState :=
  match r with
  | .ok u _ => (u.core 1).ramb.reqs.map Req.st
  | _ => []

/-- The state in which the TLD's unit begins. -/
def loadingIssued : State := issued loading 0 remoteLoadWord remoteLoad

/-- The same but for Rambler's requests. -/
def loadingBase : State := loading.modCore 0 (fun k => { k with
  live := { k.live with pc := 1, pendings := [record loading 0 remoteLoadWord remoteLoad] }
  ramb := k.ramb.tldIssued })

/-- The window of core 0 has issued, and the controllers count what is on its way. -/
def loadingSettled : State := (loadingBase.modRamb 0 (Rambler.window 64 0 320)).settleQueues

theorem loadingIssued_eq : loadingIssued = loadingBase.modRamb 0 (Rambler.window 0 64 256) := rfl

theorem loadingIssued_issueWindow : loadingIssued.issueWindow 0 = loadingSettled := by
  have windowed : (loadingIssued.core 0).ramb.windowed = 64 := by decide +kernel
  rw [State.issueWindow, windowed, loadingIssued_eq, State.issueReqs_stores rfl 64 0 256 (by decide) (by decide)]
  exact congrArg State.settleQueues rfl

theorem loadingIssued_entryFor : loadingIssued.entryFor 0 [tmBase + 5 * 2 ^ 48] = loadingSettled := by
  have full : 64 ≤ (loadingIssued.core 0).ramb.windowed := by decide +kernel
  have few : loadingSettled.lqUsed 0 < 384 := by decide +kernel
  simp only [State.entryFor, full, if_true, loadingIssued_issueWindow, few]

/-- Who reads, and how the row is addressed. -/
def loadingWho : Who := loadingIssued.whoCore 0
def loadingXfer : Xfer := ⟨0, 0, false, true, 1, signed 24 0⟩

/-- The coalescer has served the byte that the row needs (R194). -/
def loadingServed : State :=
  (((loadingSettled.takeAgain 0 (tmBase + 5 * 2 ^ 48)).countServed 0 0 0 (tmBase + 5 * 2 ^ 48)).modRamb 0 (fun m =>
    { m with lq := m.lq ++ [⟨tmBase + 5 * 2 ^ 48, tmBase + 5 * 2 ^ 48, 1, [7]⟩] }))

theorem loadingSettled_readRemote :
    (loadingSettled.takeAgain 0 (tmBase + 5 * 2 ^ 48)).readRemote 0 loadingWho (5 * 2 ^ 48, 1) false = (loadingServed, 0) := by
  let z := loadingSettled.takeAgain 0 (tmBase + 5 * 2 ^ 48)
  have task : (z.core 0).task = loadingCore.task := by decide +kernel
  have path : z.pathOf 0 0 0 (tmBase + 5 * 2 ^ 48) 1 = .served [7] := by decide +kernel
  simp only [State.readRemote]
  rw [show (loadingSettled.takeAgain 0 (tmBase + 5 * 2 ^ 48)) = z from rfl, task]
  simp only [loadingCore]
  rw [show z.pathOf (clusterOf 0) 0 0 (tmBase + 5 * 2 ^ 48 / 256 * 256) (unitMask (5 * 2 ^ 48) 1) = .served [7] from path]
  rfl

theorem loadingIssued_demandUnit :
    loadingIssued.demandUnit 0 loadingWho [tmBase + 5 * 2 ^ 48] (5 * 2 ^ 48, 1) = .ok loadingServed true := by
  have key : loadingIssued.unitKey (5 * 2 ^ 48) = tmBase + 5 * 2 ^ 48 := by decide +kernel
  have away : loadingIssued.isHere (5 * 2 ^ 48) = false := by decide +kernel
  have none_ : ((loadingIssued.core 0).ramb.entry (tmBase + 5 * 2 ^ 48) (5 * 2 ^ 48) 1).isSome = false := by decide +kernel
  have new : loadingIssued.coming 0 (tmBase + 5 * 2 ^ 48) (unitMask (5 * 2 ^ 48) 1) = false := by decide +kernel
  have asks : loadingSettled.mayAsk 0 = true := by decide +kernel
  have got : ((loadingServed.core 0).ramb.entry (tmBase + 5 * 2 ^ 48) (5 * 2 ^ 48) 1).isSome = true := by decide +kernel
  simp only [State.demandUnit, key, away, none_, new, loadingIssued_entryFor, asks, loadingSettled_readRemote, got, Bool.not_true,
    Bool.false_eq_true, if_false]

/-- The row is one unit, asked for on demand. -/
theorem loadingIssued_demand_one : loadingIssued.demand 0 loadingWho [(5 * 2 ^ 48, 1)] =
    (Res.each (fun s p => s.demandUnit 0 loadingWho [tmBase + 5 * 2 ^ 48] p) [(5 * 2 ^ 48, 1)] loadingIssued).bind (fun s got =>
      if got.all (fun b => b) then .ok s () else .wait (s.issueWindow 0)) := by
  have parts : ([(5 * 2 ^ 48, 1)].filter (fun p => decide (p.1 < tmBase))).flatMap (fun p => units p.1 p.2) = [(5 * 2 ^ 48, 1)] := by
    decide +kernel
  have key : loadingIssued.unitKey (5 * 2 ^ 48) = tmBase + 5 * 2 ^ 48 := by decide +kernel
  rw [State.demand, parts]
  simp only [Res.each, List.map_cons, List.map_nil, key]

theorem loadingIssued_demand : loadingIssued.demand 0 loadingWho [(5 * 2 ^ 48, 1)] = .ok loadingServed () := by
  rw [loadingIssued_demand_one, Res.each, loadingIssued_demandUnit]
  rfl

theorem loadRow_loading : loadRow loadingIssued 0 loadingWho loadingXfer loadingCore.live.a (loadingCore.treg 0) 0 =
    (loadingServed.loadAt 0 loadingWho (5 * 2 ^ 48, 1)).bind (fun s d => .ok s (d, [])) := by
  have fits : loadingXfer.rowOk loadingCore.live.a (loadingCore.treg 0) 0 = true := by decide +kernel
  have ranges : loadingXfer.rowRanges loadingCore.live.a (loadingCore.treg 0) 0 = [(5 * 2 ^ 48, 1)] := by decide +kernel
  rw [loadRow, if_pos fits, ranges, loadingIssued_demand]
  rfl

theorem ok_of_heldAfter {r : Res (List (List Byte × List Byte))} (h : heldAfter r = [.sent]) :
    ∃ u rows, r = .ok u rows ∧ (u.core 1).ramb.reqs.map Req.st = [.sent] := by
  cases r with
  | ok u rows => exact ⟨u, rows, rfl, h⟩
  | wait | fail | miss => cases h

theorem heldAfter_loading :
    heldAfter (Res.each (tldRow loadingXfer loadingCore.live.a (loadingCore.treg 0) 0 0) (range (loadingCore.treg 0).rows)
      loadingIssued) = [.sent] := by
  have one : range (loadingCore.treg 0).rows = [0] := by decide +kernel
  rw [one, Res.each, tldRow, show loadingIssued.whoCore 0 = loadingWho from rfl, loadRow_loading]
  decide +kernel

/-- Refutes O15: the clause of a TLD from memory whose rows are all at hand says that no other core changes. A demand read at a core
whose sort window is full makes the window issue, and with it every request of any core that a go lets through: here core 1's store. -/
theorem not_tileLoads : ¬ Obligations.TileLoads := by
  unfold Obligations.TileLoads
  rintro ⟨-, loads, -⟩
  obtain ⟨u, rows, each, sent⟩ := ok_of_heldAfter heldAfter_loading
  obtain ⟨loaded, -⟩ := loads loading u 0 remoteLoadWord 0 0 0 1 0 true loading_issues rfl
  obtain ⟨-, -, others, -⟩ := loaded rows each
  have kept : u.core 1 = heldCore :=
    (u.modCore_core_other (c := 0) (d := 1) _ (by decide)).symm.trans (others 1 (by decide))
  rw [kept] at sent
  exact absurd sent (by decide)

end Sys2Proof.Machine
end

section
/-! SUPPORT. A function that the map of functions lists twice, and a reset that takes the first of the two out (R332, R339, R344). -/

namespace Sys2Proof.Machine

open Safety

/-- A short command that a ring has begun. -/
def shortBegun : Begun := ⟨0, 0, false, [], false⟩

/-- Function 1 with nothing but its window, enabled and translating through context 0 (R323). -/
def windowedFn : Fn := { win := BitVec.ofNat 64 (2 ^ 55) }

/-- A function whose command ring 0 has begun two short commands. -/
def crowdedFn : Fn := { cr := [(0, { begun := [shortBegun, shortBegun] })] }

/-- A function-level reset of VF 2, which owns context 0, while function 1 stands twice in the map of functions: what it is, and, behind
it, what no reader finds. -/
def twiceListed : State := { State.reset with
  pending := [.functionLevelReset 2]
  ctxs := [(0, { fn := 2, seed := 0, saveArea := 0, prio := 0, eventCq := 0 })]
  pci := { fns := [(1, windowedFn), (1, crowdedFn)], numVfs := 2, vfEnable := true } }

/-- No ring that a reader finds has begun a command. -/
theorem twiceListed_rings : RingsInRange twiceListed := by
  intro f r
  by_cases hf : f = 1
  · subst hf; simp [State.fnOf, twiceListed, mget, windowedFn, Fn.crOf]
  · simp [State.fnOf, twiceListed, mget, Ne.symm hf, Fn.crOf]

/-- The reset ends context 0, which closes the window; the first entry of function 1 is then one at reset, and goes. -/
theorem step_twiceListed : ∃ t, step twiceListed = .next t ∧ ((t.fnOf 1).crOf 0).begun = [shortBegun, shortBegun] :=
  ⟨({ twiceListed with pending := [] } : State).resetFn 2, rfl, by decide⟩

/-- Refutes O7: its third part does not ask that the map of functions lists each function once. Where one is listed twice, the end of a
context takes out the first entry (`State.closeWindows` drops a function that is back at reset) and leaves what stood behind it, here a
ring that has begun two short commands. -/
theorem not_stepKeepsQueuesBounded : ¬ Obligations.StepKeepsQueuesBounded := by
  unfold Obligations.StepKeepsQueuesBounded
  rintro ⟨-, -, rings⟩
  obtain ⟨t, stepped, crowded⟩ := step_twiceListed
  have bounded := rings twiceListed t twiceListed_rings stepped 1 0
  rw [crowded] at bounded
  exact absurd bounded (by decide)

end Sys2Proof.Machine
end

section
/-! SUPPORT. The failure of a task leaves every core's fault record as it is (R133, R296): each operation that ends a task's work, in the
order of the model. -/

namespace Sys2Proof.Machine

open Safety

/-- Every core's fault record is as before. -/
structure SameFaults (s t : State) : Prop where
  fault : ∀ c, (t.core c).fault = (s.core c).fault

namespace SameFaults

theorem refl (s : State) : SameFaults s s := ⟨fun _ => rfl⟩

section
variable {s t : State} (h : SameFaults s t)
include h

theorem of_cores {u : State} (hu : u.cores = t.cores) : SameFaults s u := by
  refine ⟨fun c => ?_⟩
  rw [State.core, hu]
  exact h.fault c

theorem modCore (c : Nat) {f : Core → Core} (hf : ∀ k, (f k).fault = k.fault) : SameFaults s (t.modCore c f) := by
  refine ⟨fun d => ?_⟩
  by_cases hd : c = d
  · subst hd; rw [State.modCore_core, hf, h.fault]
  · rw [State.modCore_core_other _ _ hd, h.fault]

end

theorem foldl {s : State} {α : Type} {f : State → α → State} (hf : ∀ t a, SameFaults s t → SameFaults s (f t a)) :
    ∀ (l : List α) (t : State), SameFaults s t → SameFaults s (l.foldl f t) := by
  intro l
  induction l with
  | nil => exact fun _ h => h
  | cons a l ih => exact fun t h => ih _ (hf t a h)

/-! ## Tasks off their cores, waits and marks -/

section
variable {s t : State} (h : SameFaults s t)
include h

theorem modTask (g i : Nat) (f : Task → Task) : SameFaults s (t.modTask g i f) := h.of_cores (State.modTask_cores ..)

theorem setGraph (g : Nat) (x : Graph) : SameFaults s (t.setGraph g x) := h.of_cores rfl

theorem dropTaskWaits (g i : Nat) : SameFaults s (t.dropTaskWaits g i) := h.of_cores rfl

theorem event (x code : Nat) (bs : List Byte) : SameFaults s (t.event x code bs) := h.of_cores (t.event_replied x code bs).cores

theorem flushStores (c : Nat) : SameFaults s (t.flushStores c) :=
  foldl (f := State.landStore) (fun _ _ h => h.of_cores rfl) _ _ h

theorem clearCore (c : Nat) : SameFaults s (t.clearCore c) :=
  ((h.flushStores c).modCore c (f := Core.cleared) fun _ => rfl).of_cores rfl

theorem clearTask (g i : Nat) : SameFaults s (t.clearTask g i) := by
  unfold State.clearTask
  dsimp only
  refine modTask (foldl (fun u n h => h.of_cores (State.modCluster_cores ..)) _ _ ?_) ..
  exact foldl (fun _ c h => h.clearCore c) _ _ h

theorem suspend (x va : Nat) (store : Bool) : SameFaults s (t.suspend x va store) := by
  unfold State.suspend
  split
  · exact h
  · split
    · exact h
    · dsimp only
      refine event ?_ ..
      exact h.of_cores rfl

theorem sendAdd (src : Agent) (key inc : Nat) (by_ : Option (Nat × Nat)) : SameFaults s (t.sendAdd src key inc by_).1 :=
  h.of_cores (by rw [State.sendAdd_eq])

theorem releaseVersion (g i : Nat) : SameFaults s (t.releaseVersion g i) := by
  unfold State.releaseVersion
  split
  · exact h
  · dsimp only
    split
    · exact (h.sendAdd ..).modTask ..
    · exact h

theorem releaseGraph (g : Nat) : SameFaults s (t.releaseGraph g) := by
  unfold State.releaseGraph
  split
  · exact h
  · refine foldl (fun u e h => ?_) _ _ h
    split
    · exact h
    · exact h.releaseVersion ..

theorem releaseStash (g i : Nat) : SameFaults s (t.releaseStash g i) := by
  unfold State.releaseStash
  split
  · exact h
  · dsimp only
    split
    · exact h
    · split
      · exact h.setGraph ..
      · exact h

/-! ## The end of a graph -/

theorem replayCause (x : Nat) (step : Option Nat) (code : Nat) : SameFaults s (t.replayCause x step code) := by
  unfold State.replayCause
  split
  · split
    · exact h
    · split
      · exact h.of_cores rfl
      · exact h.event ..
  · exact h

theorem graphFail (g code i : Nat) : SameFaults s (t.graphFail g code i) := h.of_cores (State.modGraph_cores ..)

theorem clearTasks (g : Nat) (l : Map Task) :
    SameFaults s (l.foldl (fun s e => if e.2.cores = [] then s else s.clearTask g e.1) t) := by
  refine foldl (fun u e h => ?_) _ _ h
  split
  · exact h
  · exact h.clearTask ..

theorem endGraph (g code : Nat) : SameFaults s (t.endGraph g code) := by
  unfold State.endGraph
  split
  · exact h
  · dsimp only
    have released (l : Map Task) := (h.clearTasks g l).releaseGraph g
    split
    · exact (released _).of_cores rfl
    · refine replayCause (of_cores ?_ (State.post_replied ..).cores) ..
      exact ((released _).of_cores rfl).of_cores (State.modCtx_cores ..)

theorem settle (g : Nat) : SameFaults s (t.settle g) := by
  unfold State.settle
  split
  · exact h
  · split
    · split
      · exact h
      · exact h.endGraph ..
    · split
      · exact h.endGraph ..
      · split
        · exact (h.graphFail ..).endGraph ..
        · exact h

theorem taskFails (g i code : Nat) : SameFaults s (t.taskFails g i code) := by
  unfold State.taskFails
  split
  · exact h
  · dsimp only
    refine settle (graphFail (releaseStash ?_ ..) ..) ..
    refine of_cores (t := ((((t.clearTask g i).dropTaskWaits g i).releaseVersion g i).modTask g i _)) ?_ rfl
    exact (((h.clearTask ..).dropTaskWaits ..).releaseVersion ..).modTask ..

/-! ## Tasks that come into the window -/

theorem addDecision (d : Decision) : SameFaults s (t.addDecision d) := by
  unfold State.addDecision
  split
  · exact h
  · exact h.of_cores rfl

theorem recordPa (pa : Nat) : SameFaults s (t.recordPa pa) := by
  unfold State.recordPa
  split
  · exact h.addDecision _
  · exact h.addDecision _
  · exact h.addDecision _
  · exact h

theorem markAcc (w : Who) (a : Acc) : SameFaults s (t.markAcc w a) := by
  unfold State.markAcc
  split
  · exact h.of_cores rfl
  · exact (h.of_cores (State.log_cores ..)).recordPa _
  · exact h

theorem poke (x a : Nat) (bs : List Byte) : SameFaults s (t.poke x a bs) :=
  h.of_cores (by rw [State.poke, State.write_eq])

theorem countTask (g i : Nat) : SameFaults s (t.countTask g i) := by
  unfold State.countTask
  split
  · exact h
  · dsimp only
    split
    · split
      · exact h
      · split
        · exact (h.poke ..).modTask ..
        · exact h
    · exact h

theorem nameVersion (g i : Nat) (x : Graph) (d : List Byte) : SameFaults s ((t.nameVersion g i x d).toOption.getD t) := by
  unfold State.nameVersion
  split
  · exact h
  · split
    · exact h
    · dsimp only
      split
      · exact h
      · split
        · exact h
        · exact (h.modTask ..).countTask ..

theorem addWait (key threshold : Nat) (who : Waiter) : SameFaults s (t.addWait key threshold who) := by
  unfold State.addWait
  split <;> exact h.of_cores rfl

theorem loadTask (g i : Nat) : SameFaults s (t.loadTask g i) := by
  unfold State.loadTask
  split
  · exact h
  · split
    · split
      · exact h.suspend ..
      · exact (h.markAcc ..).taskFails ..
      · split
        · exact h.suspend ..
        · exact foldl (fun _ _ h => h.addWait ..) _ _ ((h.nameVersion ..).modTask ..)
    · exact h

end

theorem unspillSome {s : State} (n : Nat) : ∀ t : State, SameFaults s t → SameFaults s (t.unspillSome n) := by
  induction n with
  | zero => exact fun _ h => h
  | succ n ih =>
    intro t h
    rw [State.unspillSome]
    split
    · exact h
    · split
      · exact ih _ (((h.setGraph ..).modTask ..).loadTask ..)
      · exact h

theorem failTask {s t : State} (h : SameFaults s t) (g i code : Nat) : SameFaults s (t.failTask g i code) :=
  unspillSome _ _ (h.taskFails g i code)

end SameFaults

end Sys2Proof.Machine
end

section
/-! SUPPORT. Words that do not decode, and instructions on tile registers that are not in use (R103, R133, Table 4.6). -/

namespace Sys2Proof.Machine

open Safety

/-! ## A core that stops on a fault (R133) -/

section
variable {s : State} {c : Nat} {x : CoreTask} (ht : (s.core c).task = some x) (code pc : Nat) (w : W64)
include ht

theorem State.failCore_core : (s.failCore c code pc w).core c =
    (let k := ((s.setCore c ((s.core c).recordFault code pc x.ctx w)).failTask x.graph x.task code).core c
     { k with seq := .faulted, live := { k.live with pc := pc } }) := by
  simp only [State.failCore, ht]
  exact State.modCore_core ..

theorem State.failCore_seq : ((s.failCore c code pc w).core c).seq = .faulted := by rw [State.failCore_core ht]

theorem State.failCore_pc : ((s.failCore c code pc w).core c).live.pc = pc := by rw [State.failCore_core ht]

/-- The record holds this fault unless it holds an earlier one. -/
theorem State.failCore_fault : ((s.failCore c code pc w).core c).fault =
    if (s.core c).fault.valid then (s.core c).fault else ⟨code, pc, true, x.ctx, w⟩ := by
  rw [State.failCore_core ht]
  refine (((SameFaults.refl _).failTask x.graph x.task code).fault c).trans ?_
  rw [State.setCore_core, Core.recordFault]
  split <;> rfl

end

/-! ## Words that do not decode -/

theorem decodeTile_reserved {w : W64} (ho : 0x13 ≤ w.toNat % 256) : decodeTile w = none := by
  cases hd : decodeTile w with
  | none => rfl
  | some i =>
    have := (decodeTile_row hd).1
    rw [opcode_eq] at this
    omega

theorem decodeTile_above {w : W64} {i : TileInsn} {hi : Nat} (hf : tileFields w.toNat = some (i, hi)) (hw : 2 ^ hi ≤ w.toNat) :
    decodeTile w = none := by simp [decodeTile, hf, Nat.not_lt.mpr hw]

theorem exec_reserved {s : State} {c : Nat} {w : W64} (h : s.issues c w = true) (ho : 0x13 ≤ w.toNat % 256) :
    exec (.nop c w) s = .next (s.failCore c 0x303 (s.core c).live.pc w) :=
  atIssue_reserved h (fun _ s => s.stepPc c 1) (by rwa [opcode_eq])

/-! ## Registers not in use -/

/-- The instructions that read tile register `t` whatever it holds (Table 4.6). -/
def ReadsTreg (t : Nat) (i : TileInsn) : Prop :=
  (∃ a b e f g h, i = .tst t a b e f g h) ∨ (∃ a b e, i = .twl t a b e) ∨ (∃ f a b e, i = .tmm f t a b e)
    ∨ (∃ m a b e f g h j k, i = .tmv m t a b e f g h j k) ∨ (∃ a b e f g, i = .halo t a b e f g)
    ∨ (∃ m a b e, m ≠ 1 ∧ i = .tmov m a t b e)

theorem State.withTreg_unused {α : Type} {s : State} {c t : Nat} (f : TReg → Res α) (h : ((s.core c).treg t).inUse = false) :
    s.withTreg c t f = .fail s 0x302 := if_neg (by simp [h])

/-- A unit that reads a register not in use fails and has done nothing. -/
theorem runInsn_unused {s : State} {c t : Nat} {i : TileInsn} (hi : ReadsTreg t i) (hu : ((s.core c).treg t).inUse = false) (p : Pending) :
    runInsn s c i p = .fail s 0x302 := by
  obtain ⟨a, b, e, f, g, h, rfl⟩ | ⟨a, b, e, rfl⟩ | ⟨f, a, b, e, rfl⟩ | ⟨m, a, b, e, f, g, h, j, k, rfl⟩ | ⟨a, b, e, f, g, rfl⟩
    | ⟨m, a, b, e, hm, rfl⟩ := hi
  · simp only [runInsn, runTst, State.withTreg_unused _ hu]
  · simp only [runInsn, runTwl, State.withTreg_unused _ hu]
  · simp only [runInsn, runTmm, State.withTreg_unused _ hu]
  · by_cases hm : m = 0
    · exact (if_pos hm).trans (State.withTreg_unused _ hu)
    · exact (if_neg hm).trans (State.withTreg_unused _ hu)
  · simp only [runInsn, runHalo, State.withTreg_unused _ hu]
  · simp only [runInsn]
    split
    · simp only [runTmovReg, State.withTreg_unused _ hu]
    · exact absurd rfl hm
    · simp only [runTmovIn, State.withTreg_unused _ hu]

theorem issueUnit_unused {s : State} {c t : Nat} {w : W64} {i : TileInsn} (h : Issues s c w i) (hi : ReadsTreg t i)
    (hu : ((s.core c).treg t).inUse = false) :
    issueUnit c w i s = (issued s c w i).failCore c 0x302 (s.core c).live.pc w :=
  issueUnit_fail h (runInsn_unused hi (by rwa [issued_treg]) _)

/-- Settles O20: what does not decode, by the word; a reserved opcode at a core; a unit whose register is not in use, by the unit. -/
theorem illegalWordsAndUnusedRegisters : Obligations.IllegalWordsAndUnusedRegisters := by
  unfold Obligations.IllegalWordsAndUnusedRegisters
  refine ⟨fun w ho => decodeTile_reserved ho, fun w i hi hf hw => decodeTile_above hf hw, fun s c w x h ho ht => ?_,
    fun s c w i t h => ?_⟩
  · exact ⟨_, exec_reserved h ho, State.failCore_seq ht _ _ _, State.failCore_pc ht _ _ _, State.failCore_fault ht _ _ _⟩
  · intro command hi hu
    have unit := congrArg Host.Outcome.next (α := State) (β := Out State) (issueUnit_unused h hi hu)
    obtain ⟨a, b, e, f, g, k, rfl⟩ | ⟨a, b, e, rfl⟩ | ⟨f, a, b, e, rfl⟩ | ⟨m, a, b, e, f, g, k, j, l, rfl⟩ | ⟨a, b, e, f, g, rfl⟩
      | ⟨m, a, b, e, hm, rfl⟩ := hi
    · exact (atIssue_eq h rfl (issueUnit c w)).trans unit
    · exact (atIssue_eq h rfl (issueUnit c w)).trans unit
    · exact (execTmm_eq h none).trans unit
    · by_cases hm : m = 0
      · rw [show command = .tmv c w from if_pos hm]
        exact (atIssue_eq h (if_pos hm) (issueUnit c w)).trans unit
      · rw [show command = .tmvRow c w from if_neg hm]
        exact (atIssue_eq h (if_neg hm) (issueUnit c w)).trans unit
    · exact (atIssue_eq h rfl (issueUnit c w)).trans unit
    · exact (atIssue_eq h rfl (issueUnit c w)).trans unit

end Sys2Proof.Machine
end

section
/-! SUPPORT. TASK_DISPATCH (R290 to R293, R299, R246): the turns of the contexts, what trying a ready task or an interrupted one answers,
and what stands on the cores of a task that resumes. -/

namespace Sys2Proof.Machine

open Sys2Proof.Safety

/-! ## The turns of the contexts -/

section
variable {s : State}

/-- Contexts without a candidate are passed over. -/
theorem State.tryTurns_idle_append {l : List Nat} (r : List Nat) (h : ∀ y ∈ l, s.candidates y = []) :
    s.tryTurns (l ++ r) = s.tryTurns r := by
  induction l with
  | nil => rfl
  | cons y l ih =>
    rw [List.forall_mem_cons] at h
    rw [List.cons_append, State.tryTurns, h.1]
    exact ih h.2

theorem State.tryTurns_idle {l : List Nat} (h : ∀ y ∈ l, s.candidates y = []) : s.tryTurns l = (s, false) := by
  rw [← List.append_nil l, State.tryTurns_idle_append [] h, State.tryTurns]

/-- The turns up to a context's, its own, and the ones after it. -/
theorem State.turns_split (s : State) {n : Nat} (hn : n < 64) :
    ∃ later, s.turns = (List.range n).map (fun m => (s.trh.rr + 1 + m) % 64) ++ (s.trh.rr + 1 + n) % 64 :: later
      ∧ ∀ y ∈ later, ∃ k, n < k ∧ k < 64 ∧ y = (s.trh.rr + 1 + k) % 64 := by
  obtain ⟨m, hm⟩ : ∃ m, 64 = n + (m + 1) := ⟨63 - n, by omega⟩
  refine ⟨(List.range m).map (fun k => (s.trh.rr + 1 + (n + (k + 1))) % 64), ?_, fun y hy => ?_⟩
  · rw [State.turns, show range 64 = List.range (n + (m + 1)) from congrArg List.range hm, List.range_add, List.range_succ_eq_map]
    simp [Function.comp_def]
  · obtain ⟨k, hk, rfl⟩ := List.mem_map.mp hy
    have := List.mem_range.mp hk
    exact ⟨n + (k + 1), by omega, by omega, rfl⟩

theorem execTaskDispatch_turns (hc : Clocked s) (hm : readyMiss s = none) : exec .taskDispatch s = .next (s.tryTurns s.turns).1 := by
  change execTaskDispatch s = _
  unfold Clocked at hc
  unfold readyMiss at hm
  simp only [execTaskDispatch, hc, hm, Bool.false_eq_true, if_false]

/-- No context has a candidate (R290). -/
theorem execTaskDispatch_idle (hc : Clocked s) (hm : readyMiss s = none) (h : ∀ x < 64, s.candidates x = []) :
    exec .taskDispatch s = .next s := by
  rw [execTaskDispatch_turns hc hm, State.tryTurns_idle]
  intro y hy
  obtain ⟨k, -, rfl⟩ := List.mem_map.mp hy
  exact h _ (Nat.mod_lt _ (by decide))

/-- A ready task's structure that misses suspends its context (R180). -/
theorem execTaskDispatch_miss {x va : Nat} (hc : Clocked s) (hm : readyMiss s = some (x, va)) :
    exec .taskDispatch s = .next (s.suspend x va false) := by
  change execTaskDispatch s = _
  unfold Clocked at hc
  unfold readyMiss at hm
  simp only [execTaskDispatch, hc, hm, Bool.false_eq_true, if_false]

section
variable {n : Nat} {c : Cand} {rest : List Cand} (hc : Clocked s) (hm : readyMiss s = none) (hn : n < 64)
  (before : ∀ m < n, s.candidates ((s.trh.rr + 1 + m) % 64) = []) (here : s.candidates ((s.trh.rr + 1 + n) % 64) = c :: rest)
include hc hm hn before here

/-- The first candidate of the first context that has one is served (R290). -/
theorem execTaskDispatch_served {t : State} (ht : s.tryCand c = (t, true)) : exec .taskDispatch s = .next t := by
  obtain ⟨later, turns, -⟩ := s.turns_split hn
  rw [execTaskDispatch_turns hc hm, turns, State.tryTurns_idle_append _ (by simpa using before), State.tryTurns, here, State.tryAll, ht]

/-- The only candidate of its context is not served, and no later context has one then: what trying it has left stays (R144, R290). -/
theorem execTaskDispatch_waits {t : State} (ht : s.tryCand c = (t, false)) (alone : rest = [])
    (h : ∀ y < 64, t.candidates y = [] ∨ y = (s.trh.rr + 1 + n) % 64 ∨ ∃ m < n, y = (s.trh.rr + 1 + m) % 64) :
    exec .taskDispatch s = .next t := by
  obtain ⟨later, turns, after⟩ := s.turns_split hn
  have idle : ∀ y ∈ later, t.candidates y = [] := by
    intro y hy
    obtain ⟨k, hk, hk', rfl⟩ := after y hy
    obtain none | same | ⟨m, hmn, same⟩ := h _ (Nat.mod_lt (s.trh.rr + 1 + k) (by decide : 0 < 64))
    · exact none
    · omega
    · omega
  rw [execTaskDispatch_turns hc hm, turns, State.tryTurns_idle_append _ (by simpa using before), State.tryTurns, here, alone,
    State.tryAll, ht]
  simp only [State.tryAll, State.tryTurns_idle idle]

end
end

/-! ## A ready task -/

/-- The state in which a ready task's checks run: beside the stash areas that its graph would take (R242). -/
def State.besideAreas (s : State) (g : Nat) (x : Graph) : State :=
  match s.takeAreas g x with
  | .ok (some u) => u
  | _ => s

/-- What the checks of a ready task answer (R299). -/
def State.readyChecks (s : State) (g i : Nat) (x : Graph) : Ld Loaded :=
  (s.besideAreas g x).loadChecks g x i ((s.freeCores x g i).take (s.coresWanted x i))

section
variable {s : State} {g i : Nat} {x : Graph} {l : Loaded} {e : LdErr}

theorem State.tryCand_ready {c : Cand} (hg : s.graph c.g = some x) (hp : (x.task c.i).phase ≠ .interrupted) :
    s.tryCand c = s.tryReady c.g c.i x := by
  simp only [State.tryCand, hg, if_neg hp]

theorem State.tryReady_spared_fails (hs : s.spared x i = true) (h : s.dispatchChecks (s.loader x i []) x i = .error e) :
    s.tryReady g i x = (s.loadFails g i x.ctx e, true) := by
  rw [State.tryReady, if_pos hs, State.trySpared, h]

theorem State.tryReady_spared {d : List Nat × List Byte} (hs : s.spared x i = true)
    (h : s.dispatchChecks (s.loader x i []) x i = .ok d) : s.tryReady g i x = (s.runNull g i ⟨d.1, [], []⟩, true) := by
  rw [State.tryReady, if_pos hs, State.trySpared, h]

section
variable (hs : s.spared x i = false)
include hs

theorem State.tryReady_checkFails (h : s.readyChecks g i x = .error e) : s.tryReady g i x = (s.loadFails g i x.ctx e, true) := by
  rw [State.tryReady, if_neg (by simp [hs])]
  dsimp only
  split
  next e' h' => rw [Except.error.inj (h.symm.trans h')]
  next l _ h' _ => cases h.symm.trans h'
  next l h' _ => cases h.symm.trans h'
  next l _ h' _ => cases h.symm.trans h'

theorem State.tryReady_areasFail (h : s.readyChecks g i x = .ok l) (ha : s.takeAreas g x = .error e) :
    s.tryReady g i x = (s.loadFails g i x.ctx e, true) := by
  simp only [State.readyChecks, State.besideAreas, ha] at h
  simp [State.tryReady, hs, h, ha]

/-- The task waits with its copies: for its graph's areas, or for cores, stores or staging (R144, R290). -/
theorem State.tryReady_noRoom (h : s.readyChecks g i x = .ok l)
    (ha : s.takeAreas g x = .ok none ∨ ∃ u, s.takeAreas g x = .ok (some u) ∧ u.placeFor g i x l = none) :
    s.tryReady g i x = (s.keepLoaded g i l, false) := by
  obtain ha | ⟨u, ha, hp⟩ := ha
  · simp only [State.readyChecks, State.besideAreas, ha] at h
    simp [State.tryReady, hs, h, ha]
  · simp only [State.readyChecks, State.besideAreas, ha] at h
    simp [State.tryReady, hs, h, ha, State.tryStart, hp]

/-- The task has its areas, its cores and its reservations, and starts on them (R263, R290). -/
theorem State.tryReady_starts {u s2 s3 : State} {cores : List Nat} {staging : Option (Nat × Nat)} (h : s.readyChecks g i x = .ok l)
    (ha : s.takeAreas g x = .ok (some u)) (hp : u.placeFor g i x l = some (cores, staging)) (hu : u.updateChecks x = .ok s2)
    (hr : s2.reserve g i l.m = (s3, 0)) :
    s.tryReady g i x = (if tdKind ((s3.noteDispatch x.ctx g i).taskDesc x i) = 2 then (s3.noteDispatch x.ctx g i).runNull g i l
      else (s3.noteDispatch x.ctx g i).startTask g i x cores l staging, true) := by
  simp only [State.readyChecks, State.besideAreas, ha] at h
  simp [State.tryReady, hs, h, ha, State.tryStart, hp, hu, hr]

end
end

/-! ## An interrupted task -/

/-- A grant that passes to a context leaves the graphs (R292). -/
theorem State.own_graphs (s : State) (x : Nat) (e : Nat × Nat) : (s.own x e).trh.graphs = s.trh.graphs :=
  List.foldlRecOn (motive := fun t : State => t.trh.graphs = s.trh.graphs) s.trh.owners _ rfl
    fun t ht a _ => by dsimp only; split <;> exact ht

theorem State.foldl_own_graphs (s : State) (x : Nat) (l : List (Nat × Nat)) :
    (l.foldl (fun s e => s.own x e) s).trh.graphs = s.trh.graphs :=
  List.foldlRecOn (motive := fun t : State => t.trh.graphs = s.trh.graphs) l _ rfl fun t ht e _ => (t.own_graphs x e).trans ht

/-- A core of a task that resumes: the task stands on it, and a core that had ended its part stays ended (R293). -/
def State.resumeOn (g i : Nat) (x : Graph) (s : State) (c : Nat) : State :=
  let t := x.task i
  let s := s.placeCore g i x.ctx t.step (decide (tdKind t.copy = 1)) [] c
  if t.left.contains c then s else s.modCore c Core.finished

section
variable (g i : Nat) (x : Graph)

theorem State.resumeOn_trh (s : State) (c : Nat) : (s.resumeOn g i x c).trh = s.trh := by
  unfold State.resumeOn
  dsimp only
  split <;> rfl

theorem State.resumeOn_task (s : State) (c : Nat) :
    ((State.resumeOn g i x s c).core c).task = some ⟨g, i, x.ctx, (x.task i).step, decide (tdKind (x.task i).copy = 1)⟩ := by
  unfold State.resumeOn State.placeCore
  dsimp only
  split
  · rw [State.modCore_core]
  · rw [State.modCore_core, State.modCore_core]; rfl

theorem State.resumeOn_core_other (s : State) {c d : Nat} (h : c ≠ d) : (State.resumeOn g i x s c).core d = s.core d := by
  unfold State.resumeOn State.placeCore
  dsimp only
  split
  · exact s.modCore_core_other _ h
  · rw [State.modCore_core_other _ _ h, State.modCore_core_other _ _ h]

theorem State.foldl_resumeOn_trh (s : State) (l : List Nat) : (l.foldl (State.resumeOn g i x) s).trh = s.trh :=
  List.foldlRecOn (motive := fun t : State => t.trh = s.trh) l _ rfl fun t ht c _ => (t.resumeOn_trh g i x c).trans ht

/-- The task stands on every core that was resumed. -/
theorem State.foldl_resumeOn_task {k : Nat} (l : List Nat) : ∀ s : State,
    ((s.core k).task = some ⟨g, i, x.ctx, (x.task i).step, decide (tdKind (x.task i).copy = 1)⟩ ∨ k ∈ l) →
    ((l.foldl (State.resumeOn g i x) s).core k).task = some ⟨g, i, x.ctx, (x.task i).step, decide (tdKind (x.task i).copy = 1)⟩ := by
  induction l with
  | nil => exact fun s h => h.resolve_right List.not_mem_nil
  | cons c l ih =>
    intro s h
    refine ih _ ?_
    by_cases hk : c = k
    · subst hk; exact .inl (s.resumeOn_task g i x c)
    · rw [s.resumeOn_core_other g i x hk]
      exact h.imp_right fun hm => (List.mem_cons.mp hm).resolve_left (Ne.symm hk)

end

/-- An interrupted task's dispatch is noted and its grants pass to its context again, before it stands on its cores (R292, R293). -/
def State.regranted (s : State) (g i : Nat) (x : Graph) : State :=
  (x.task i).grants.foldl (fun s e => s.own x.ctx e) (s.noteDispatch x.ctx g i)

theorem State.regranted_graph (s : State) (g i : Nat) (x : Graph) (k : Nat) : (s.regranted g i x).graph k = s.graph k := by
  rw [State.graph, State.regranted, State.foldl_own_graphs]
  rfl

/-- An interrupted task whose cores, grants and widths are at hand runs on its cores again (R293). -/
theorem State.tryResume_runs {s : State} {g i : Nat} {x : Graph} (hg : s.graph g = some x)
    (free : ∀ k ∈ (x.task i).cores, s.inService k = true ∧ (s.core k).task = none ∧ s.reservedBy x.ctx g i k = false)
    (grants : s.grantsClash x.ctx (x.task i).grants = false) (widths : s.widthsOk (x.task i) = true) :
    ∃ u, s.tryResume g i x = some u ∧ (u.taskOf g i).phase = .running
      ∧ ∀ k ∈ (x.task i).cores, (u.core k).task = some ⟨g, i, x.ctx, (x.task i).step, decide (tdKind (x.task i).copy = 1)⟩ := by
  have ok : (x.task i).cores.all (fun c => s.inService c && decide ((s.core c).task = none) && !s.reservedBy x.ctx g i c) = true :=
    List.all_eq_true.mpr fun k hk => by simp [free k hk]
  have noted : (s.noteDispatch x.ctx g i).widthsOk (x.task i) = true := widths
  refine ⟨(x.task i).cores.foldl (State.resumeOn g i x) ((s.regranted g i x).modTask g i
    (fun t => { t with phase := .running, dispatched := (s.regranted g i x).trh.dispatched })), ?_, ?_, ?_⟩
  · simp only [State.tryResume, ok, grants, noted, Bool.not_true, Bool.or_false, Bool.false_eq_true, if_false]
    rfl
  · rw [State.taskOf_congr (State.foldl_resumeOn_trh g i x _ _), State.modTask_taskOf, State.regranted_graph, hg]
    rfl
  · exact fun k hk => State.foldl_resumeOn_task g i x _ _ (.inr hk)

theorem State.tryCand_resumes {s u : State} {c : Cand} {x : Graph} (hg : s.graph c.g = some x)
    (hp : (x.task c.i).phase = .interrupted) (hr : s.tryResume c.g c.i x = some u) : s.tryCand c = (u, true) := by
  simp only [State.tryCand, hg, if_pos hp, hr]

/-- Settles O29: no candidate and a miss, by the instruction; the first candidate, by what trying it answers: an interrupted task resumes;
a spared one ends or fails; another fails, starts, or waits with its copies. -/
theorem dispatchStartsTheFirstTask : Obligations.DispatchStartsTheFirstTask := by
  unfold Obligations.DispatchStartsTheFirstTask
  refine ⟨fun s => execTaskDispatch_idle, fun s x va => execTaskDispatch_miss, fun s n c rest x hc hm hn before here hg => ?_⟩
  have served {t : State} : s.tryCand c = (t, true) → exec .taskDispatch s = .next t := execTaskDispatch_served hc hm hn before here
  refine ⟨fun hp => ?_, fun hp hs => ?_, fun hp hs => ?_⟩
  · intro t free grants widths
    obtain ⟨u, resumed, running⟩ := State.tryResume_runs hg free grants widths
    exact ⟨u, served (State.tryCand_resumes hg hp resumed), running⟩
  · have ready := State.tryCand_ready hg hp
    exact ⟨fun e he => served (ready.trans (State.tryReady_spared_fails hs he)),
      fun d hd => served (ready.trans (State.tryReady_spared hs hd))⟩
  · have ready := State.tryCand_ready hg hp
    refine ⟨fun e he => ?_, fun l e hl he => ?_, fun u s2 s3 l cores staging hl ha hpl hu hr => ?_, fun u l hl ha alone others => ?_⟩
    · exact served (ready.trans (State.tryReady_checkFails hs he))
    · exact served (ready.trans (State.tryReady_areasFail hs hl he))
    · exact served (ready.trans (State.tryReady_starts hs hl ha hpl hu hr))
    · exact execTaskDispatch_waits hc hm hn before here
        (ready.trans (State.tryReady_noRoom hs hl (ha.imp_right fun h => ⟨u, h⟩))) alone others

end Sys2Proof.Machine
end

section
/-! SUPPORT. CLUSTER_DMA_TRANSFER (R171, R208, R210): a unit that its cluster's engine completes is no longer left. -/

namespace Sys2Proof.Machine

section
variable {s u : State} {n g i k : Nat} (going : s.going g i = true) (service : (s.cluster n).mode = .service)
  (present : s.retired n = false) (held : s.readsLost g i (s.jobOf g i).b = false)
include going service present held

/-- A unit of a GATHER, or a unit or a pass of a copy, at its turn and on its cluster: the copy's passes go in order, on the cluster that
holds the staging (R171, R210). -/
theorem execClusterDmaTransfer_unit (op : (s.jobOf g i).op = 8 ∨ (s.jobOf g i).op = 0xA) (left : k ∈ (s.taskOf g i).dmaLeft)
    (turn : s.copyStaged (s.jobOf g i).b (s.jobOf g i).m = true → (s.taskOf g i).dmaLeft.headD 0 = k)
    (place : if s.copyStaged (s.jobOf g i).b (s.jobOf g i).m then (s.cluster n).staging.map (fun e => (e.1, e.2.1)) = some (g, i)
      else clusterOf (unitCore (s.taskOf g i).units k) = n)
    (done : (if (s.jobOf g i).op = 8 then gatherUnit s (s.jobOf g i) n k else permuteUnit s (s.jobOf g i) n k) = .ok u ()) :
    execClusterDmaTransfer n g i k s = .next (u.modTask g i (fun t => { t with dmaLeft := t.dmaLeft.filter (· ≠ k) })) := by
  have some_ : (s.taskOf g i).dmaLeft ≠ [] := List.ne_nil_of_mem left
  have moves : (s.jobOf g i).moves = true := by
    obtain op | op := op <;> simp [Job.moves, op]
  have block : (s.jobOf g i).op ≠ 9 := by omega
  have mine : ((s.taskOf g i).dmaLeft.contains k
      && (decide ((s.jobOf g i).op ≠ 0xA ∨ s.copyStaged (s.jobOf g i).b (s.jobOf g i).m = false)
      || decide ((s.taskOf g i).dmaLeft.headD 0 = k))) = true := by
    cases staged : s.copyStaged (s.jobOf g i).b (s.jobOf g i).m
    · simp [left]
    · rw [turn staged]; simp [left]
  have here : (if s.copyStaged (s.jobOf g i).b (s.jobOf g i).m then
      decide ((s.cluster n).staging.map (fun e => (e.1, e.2.1)) = some (g, i))
      else decide (clusterOf (unitCore (s.taskOf g i).units k) = n)) = true := by
    split at place
    next staged => rw [if_pos staged, decide_eq_true place]
    next plain => rw [if_neg plain, decide_eq_true place]
  simp only [execClusterDmaTransfer, going, moves, some_, service, present, block, mine, here, held, if_false]
  obtain op | op := op
  · rw [if_pos op] at done
    simp [op, done, State.dmaRes]
  · rw [if_neg (by rw [op]; decide)] at done
    simp [op, done, State.dmaRes]

/-- A table block of a SCATTER on the cluster of the core that it is dealt to: every entry that names it is done (R208, R210). -/
theorem execClusterDmaTransfer_block (op : (s.jobOf g i).op = 9) (plain : s.copyStaged (s.jobOf g i).b (s.jobOf g i).m = false)
    (left : ∃ e ∈ namers s (s.jobOf g i) k, e.1 ∈ (s.taskOf g i).dmaLeft)
    (place : clusterOf (nth 0 (s.taskOf g i).cores (k % max 1 (s.taskOf g i).cores.length)) = n)
    (done : scatterUnit s (s.jobOf g i) n (nth 0 (s.taskOf g i).cores (k % max 1 (s.taskOf g i).cores.length))
      (namers s (s.jobOf g i) k) = .ok u ()) :
    execClusterDmaTransfer n g i k s = .next (u.modTask g i (fun t => { t with
      dmaLeft := t.dmaLeft.filter (fun v => !((namers s (s.jobOf g i) k).map (fun e => e.1)).contains v) })) := by
  have moves : (s.jobOf g i).moves = true := by simp [Job.moves, op]
  have mine : (namers s (s.jobOf g i) k).any (fun e => (s.taskOf g i).dmaLeft.contains e.1) = true := by
    simpa [List.any_eq_true] using left
  have some_ : (s.taskOf g i).dmaLeft ≠ [] := by
    obtain ⟨e, -, he⟩ := left
    exact List.ne_nil_of_mem he
  simp only [execClusterDmaTransfer, going, moves, some_, service, present, op, plain, held, if_true, Bool.false_eq_true, if_false, mine,
    place, done, State.dmaRes]
  simp

end

/-- Settles O27: a unit, or a pass of a staged copy, by what the engine does with it; a SCATTER's block, by the entries that name it. -/
theorem dmaUnitsComplete : Obligations.DmaUnitsComplete := by
  unfold Obligations.DmaUnitsComplete
  intro s u n g i k t j going service present held
  refine ⟨fun op left plain place done => ?_, fun o op staged left turn place done => ?_, fun op plain => ?_⟩
  · exact execClusterDmaTransfer_unit going service present held op left (fun h => absurd h (by rw [plain]; decide))
      (by rwa [if_neg (by rw [plain]; decide)]) done
  · exact execClusterDmaTransfer_unit going service present held (.inr op) left (fun _ => turn) (by rw [if_pos staged, place]; rfl)
      (by rw [if_neg (by rw [op]; decide)]; exact done)
  · intro core es left place done
    exact execClusterDmaTransfer_block going service present held op plain left place done

end Sys2Proof.Machine
end

section
/-! SUPPORT. What every operation of the model keeps: the queue of commands, and the canonical form of both memories
(R172, log 3). -/

namespace Sys2Proof.Machine

/-- The parts of a state that what is kept speaks of: the queue, the memories, and what an unlisted byte of HBM reads as. -/
def State.frame (s : State) : List Instr × List Host.Cell × List Host.Cell × Option Nat :=
  (s.pending, s.mem, s.hostMem, s.hbm.undef)

/-- Folds that change a controller's queues leave what an unlisted byte reads as. -/
theorem Hbm.undef_foldl {f : Hbm → Nat → Hbm} (hf : ∀ b n, (f b n).undef = b.undef) (l : List Nat) :
    ∀ b : Hbm, (l.foldl f b).undef = b.undef := by
  induction l with
  | nil => exact fun _ => rfl
  | cons n l ih => exact fun b => (ih _).trans (hf b n)

theorem regionOf_eq_hbm (o : Nat) : regionOf o = .hbm ↔ o < hbmBytes := by
  unfold regionOf
  grind

/-- Outside HBM an unlisted byte reads the same whatever HBM's mode has been. -/
theorem Hbm.unlisted_above (a b : Hbm) {o : Nat} (h : ¬ o < hbmBytes) : a.unlisted o = b.unlisted o := by
  have (c : Hbm) : c.unlisted o = memDefault := by
    unfold Hbm.unlisted
    split <;> simp [h]
  rw [this, this]

/-- Entries that a filter keeps stay canonical where both defaults agree on them. -/
theorem mwfBy_filter_of_agree {d e : Nat → Byte} {p : Nat × Byte → Bool} (agree : ∀ c, p c = true → e c.1 = d c.1)
    {m : Map Byte} :
    ∀ {lo : Nat}, mwfBy d lo m = true → mwfBy e lo (m.filter p) = true := by
  induction m with
  | nil => exact fun _ => rfl
  | cons c r ih =>
    intro lo h
    simp only [mwfBy, Bool.and_eq_true, decide_eq_true_eq] at h
    by_cases hp : p c
    · simp [hp, mwfBy, h.1, agree c hp, ih h.2]
    · simp only [List.filter_cons, hp]
      exact mwfBy_of_le (ih h.2) (h.1.1.trans (Nat.le_succ _))

/-- Bytes written one by one keep a memory canonical. -/
theorem mwfBy_writes (d : Nat → Byte) (cells : List (Nat × Byte)) : ∀ {m : Map Byte}, mwfBy d 0 m = true →
    mwfBy d 0 (cells.foldl (fun m e => mwriteBy d m e.1 [e.2]) m) = true := by
  induction cells with
  | nil => exact fun h => h
  | cons e cells ih => exact fun h => ih (mwfBy_mwriteBy _ _ _ h)

end Sys2Proof.Machine

namespace Sys2Proof.Safety

open Machine

/-- `t` is reached from `s` by operations that leave the queue as it is and the memories canonical where they were. -/
structure Kept (s t : State) : Prop where
  pending : t.pending = s.pending
  memory : MemoryOk s → MemoryOk t

/-- A command ends in a state that keeps what `s` has. -/
def Ended (s : State) (o : Out State) : Prop := ∃ t, o = .next t ∧ Kept s t

/-- The state that an access reaches, however it ends, keeps what `s` has. -/
def KeptRes {α : Type} (s : State) : Res α → Prop
  | .ok t _ | .fail t _ | .miss t _ _ | .wait t => Kept s t

namespace Kept

section
variable {s t : State} (h : Kept s t)
include h

/-- An operation that leaves the frame as it is keeps what is kept. -/
theorem same {u : State} (e : u.frame = t.frame) : Kept s u := by
  obtain ⟨hp, hm, hh, hu⟩ : u.pending = t.pending ∧ u.mem = t.mem ∧ u.hostMem = t.hostMem ∧ u.hbm.undef = t.hbm.undef := by
    simpa [State.frame] using e
  refine ⟨hp.trans h.pending, fun m => ?_⟩
  have := h.memory m
  unfold MemoryOk Hbm.unlisted at *
  rwa [hm, hh, hu]

/-- Every field outside the frame may change. -/
theorem set (tick bad cores clusters sys repair boot power ctxs ctxRegs thmSel trh wmk evl pci nxp ing0 ing1 rcl mtr lnt out) :
    Kept s { t with
      tick := tick, bad := bad, cores := cores, clusters := clusters, sys := sys, repair := repair, boot := boot, power := power
      ctxs := ctxs, ctxRegs := ctxRegs, thmSel := thmSel, trh := trh, wmk := wmk, evl := evl, pci := pci, nxp := nxp
      ing0 := ing0, ing1 := ing1, rcl := rcl, mtr := mtr, lnt := lnt, out := out } :=
  h.same rfl

/-- What a reply keeps is kept. -/
theorem replied {u : State} (r : Replied t u) : Kept s u := ⟨r.pending.trans h.pending, r.memory ∘ h.memory⟩

/-- The end of a command. -/
theorem next : Ended s (.next t) := ⟨t, rfl, h⟩

end

theorem refl (s : State) : Kept s s := ⟨rfl, id⟩

/-- Both branches of a choice keep what is kept. -/
theorem branch {s a b : State} {c : Prop} {_ : Decidable c} (ha : Kept s a) (hb : Kept s b) :
    Kept s (if c then a else b) := by
  split
  · exact ha
  · exact hb

theorem foldl {s : State} {α : Type} {f : State → α → State} (hf : ∀ u a, Kept s u → Kept s (f u a)) :
    ∀ (l : List α) {t : State}, Kept s t → Kept s (l.foldl f t) := by
  intro l
  induction l with
  | nil => exact fun h => h
  | cons a l ih => exact fun h => ih (hf _ a h)

theorem foldl_fst {s : State} {α β : Type} {f : State × β → α → State × β} (hf : ∀ r a, Kept s r.1 → Kept s (f r a).1) :
    ∀ (l : List α) {r : State × β}, Kept s r.1 → Kept s (l.foldl f r).1 := by
  intro l
  induction l with
  | nil => exact fun h => h
  | cons a l ih => exact fun h => ih (hf _ a h)

/-- The state of a pair that a pattern names. -/
theorem of_fst {s u : State} {α : Type} {p : State × α} {a : α} (h : Kept s p.1) (e : p = (u, a)) : Kept s u := by
  rw [e] at h
  exact h

end Kept

/-- The state of an end that a pattern names. -/
theorem Ended.of_next {s u : State} {o : Out State} (h : Ended s o) (e : o = .next u) : Kept s u := by
  obtain ⟨v, ev, k⟩ := h
  cases ev.symm.trans e
  exact k

/-- Both branches of a choice end well. -/
theorem Ended.branch {s : State} {a b : Out State} {c : Prop} {_ : Decidable c} (ha : Ended s a) (hb : Ended s b) :
    Ended s (if c then a else b) := by
  split
  · exact ha
  · exact hb

namespace KeptRes

/-! The state of an end that a pattern names. -/

section
variable {α : Type} {s u : State} {r : Res α} (h : KeptRes s r)
include h

theorem of_ok {a : α} (e : r = .ok u a) : Kept s u := by subst e; exact h
theorem of_fail {c : Nat} (e : r = .fail u c) : Kept s u := by subst e; exact h
theorem of_miss {v : Nat} {w : Bool} (e : r = .miss u v w) : Kept s u := by subst e; exact h
theorem of_wait (e : r = .wait u) : Kept s u := by subst e; exact h

end

theorem branch {α : Type} {s : State} {a b : Res α} {c : Prop} {_ : Decidable c} (ha : KeptRes s a) (hb : KeptRes s b) :
    KeptRes s (if c then a else b) := by
  split
  · exact ha
  · exact hb

theorem bind {α β : Type} {s : State} {r : Res α} {f : State → α → Res β} (h : KeptRes s r)
    (hf : ∀ u a, Kept s u → KeptRes s (f u a)) : KeptRes s (r.bind f) := by
  cases r with
  | ok u a => exact hf u a h
  | fail u c => exact h
  | miss u v w => exact h
  | wait u => exact h

theorem each {α β : Type} {s : State} {f : State → α → Res β} (hf : ∀ u a, Kept s u → KeptRes s (f u a)) :
    ∀ (l : List α) {t : State}, Kept s t → KeptRes s (Res.each f l t) := by
  intro l
  induction l with
  | nil => exact fun h => h
  | cons a l ih => exact fun h => (hf _ a h).bind fun _ _ h => (ih h).bind fun _ _ h => h

end KeptRes

end Sys2Proof.Safety
end

section
/-! SUPPORT. What the shared operations keep: updates by number, memory, the log, replies, the fabric, Waymarks, tasks and
graphs. -/

namespace Sys2Proof.Safety

open Machine

namespace Kept

section
variable {s t : State} (h : Kept s t)
include h

/-! ## Updates by number -/

theorem setCore (c k) : Kept s (t.setCore c k) := h.set ..
theorem modCore (c f) : Kept s (t.modCore c f) := h.setCore ..
theorem setCluster (n k) : Kept s (t.setCluster n k) := h.set ..
theorem modCluster (n f) : Kept s (t.modCluster n f) := h.setCluster ..
theorem modCreg (n f) : Kept s (t.modCreg n f) := h.set ..
theorem setCtx (n x) : Kept s (t.setCtx n x) := h.set ..

theorem modCtx (n f) : Kept s (t.modCtx n f) := by
  unfold State.modCtx
  split
  · exact h.setCtx ..
  · exact h

theorem setGraph (g x) : Kept s (t.setGraph g x) := h.set ..

theorem modGraph (g f) : Kept s (t.modGraph g f) := by
  unfold State.modGraph
  split
  · exact h.setGraph ..
  · exact h

theorem modTask (g i f) : Kept s (t.modTask g i f) := h.modGraph ..
theorem modFn (f g) : Kept s (t.modFn f g) := h.set ..
theorem modPort (p f) : Kept s (t.modPort p f) := h.set ..

theorem modEngine (e f) : Kept s (t.modEngine e f) := by
  unfold State.modEngine
  split <;> exact h.set ..

theorem emit (e) : Kept s (t.emit e) := h.set ..

/-! ## Memory and the log -/

theorem put (pa bs) : Kept s (t.put pa bs) := h.replied (t.put_replied pa bs)

theorem writeUnits (w bs us) : Kept s (t.writeUnits w bs us).1 :=
  State.writeUnits_keeps (P := Kept s) (fun _ pa bs k => k.put pa bs) w us t bs h

theorem write (w o bs) : Kept s (t.write w o bs).1 := h.writeUnits ..
theorem log (code kind ctx closed source detail) : Kept s (t.log code kind ctx closed source detail) := h.set ..

theorem logCorrected (kind source detail) : Kept s (t.logCorrected kind source detail) := by
  unfold State.logCorrected
  dsimp only
  split
  · exact h.set ..
  · exact h.log ..

theorem cdc (x closed ctx) : Kept s (t.cdc x closed ctx) := (h.set ..).log ..

theorem addDecision (d) : Kept s (t.addDecision d) := by
  unfold State.addDecision
  split
  · exact h
  · dsimp only
    exact (h.log ..).set ..

theorem recordPa (pa) : Kept s (t.recordPa pa) := by
  unfold State.recordPa
  split
  · exact h.addDecision ..
  · dsimp only
    exact h.addDecision ..
  · exact h.addDecision ..
  · exact h

theorem markAcc (w a) : Kept s (t.markAcc w a) := by
  unfold State.markAcc
  split
  · exact h.cdc ..
  · exact (h.log ..).recordPa ..
  · exact h

theorem advance : Kept s t.advance := h.set ..

theorem countQueues : Kept s t.countQueues := by
  refine h.same ?_
  simp only [State.frame, State.countQueues]
  rw [Hbm.undef_foldl (f := fun b n => b.queue n (t.queuedAt n)) fun _ _ => rfl]

theorem settleQueues : Kept s t.settleQueues := by
  unfold State.settleQueues
  dsimp only
  split
  · exact (h.countQueues.set ..).countQueues
  · exact h.countQueues

theorem passNs : Kept s t.passNs := by
  unfold State.passNs
  split
  · exact h
  · exact h.same rfl

theorem landStore (q) : Kept s (t.landStore q) := h.put ..
theorem flushStores (c) : Kept s (t.flushStores c) := foldl (fun _ _ h => h.landStore ..) _ h

/-! ## Replies -/

theorem modCq (f q g) : Kept s (t.modCq f q g) := h.modFn ..
theorem modCr (f r g) : Kept s (t.modCr f r g) := h.modFn ..
theorem ringWrite (loc a bs) : Kept s (t.ringWrite loc a bs) := h.replied (t.ringWrite_replied loc a bs)
theorem sendMsix (f v) : Kept s (t.sendMsix f v) := h.emit ..

theorem signal (f q) : Kept s (t.signal f q) := by
  unfold State.signal
  dsimp only
  split
  · exact h.modCq ..
  · split
    · exact (h.modCq ..).modFn ..
    · exact (h.modCq ..).sendMsix ..

theorem sendPending (f) : Kept s (t.sendPending f) := by
  unfold State.sendPending
  refine foldl (fun u a h => ?_) _ h
  dsimp only
  split
  · exact (h.sendMsix ..).modFn ..
  · exact h

theorem discardReply (f q) : Kept s (t.discardReply f q) := (h.modCq ..).modFn ..

theorem drainCq (f q k) : Kept s (t.drainCq f q k) := h.replied (t.drainCq_replied f q k)
theorem post (f q r) : Kept s (t.post f q r) := h.replied (t.post_replied f q r)
theorem event (x code bs) : Kept s (t.event x code bs) := h.replied (t.event_replied x code bs)
theorem pfEvent (code result) : Kept s (t.pfEvent code result) := h.post ..
theorem fabricChange (a b c) : Kept s (t.fabricChange a b c) := h.replied (t.fabricChange_replied a b c)
theorem finish (c op code bs) : Kept s (t.finish c op code bs) := h.replied (t.finish_replied c op code bs)
theorem badAccess (f) : Kept s (t.badAccess f) := h.modFn ..
theorem unsupported (f) : Kept s (t.unsupported f) := (h.modFn ..).emit ..

/-! ## The fabric -/

theorem transmitOver (port k) : Kept s (t.transmitOver port k) := by
  unfold State.transmitOver
  split
  · exact (h.modPort ..).emit ..
  · exact h

theorem transmit (k) : Kept s (t.transmit k) := h.transmitOver ..

theorem nextSseq (sdie ddie vc dst) : Kept s (t.nextSseq sdie ddie vc dst).1 := by
  unfold State.nextSseq
  split
  · exact h
  · dsimp only
    exact h.set ..

theorem build (die op dst tag job len addr spec data) : Kept s (t.build die op dst tag job len addr spec data).1 :=
  h.nextSseq ..

theorem dropHeldFar (a n) : Kept s (t.dropHeldFar a n) := h.set ..

theorem sendOp (owner d op dst job len addr spec data) : Kept s (t.sendOp owner d op dst job len addr spec data) := by
  unfold State.sendOp
  split
  · dsimp only
    exact ((h.build ..).transmit ..).set ..
  · dsimp only
    exact h.set ..

theorem request (owner die ctx op dst len addr spec data) :
    Kept s (t.request owner die ctx op dst len addr spec data).1 := by
  unfold State.request
  dsimp only
  split
  · exact h
  · split
    · exact h
    · split
      · exact h
      · split
        · exact h
        · split
          · dsimp only
            exact h.cdc ..
          · dsimp only
            exact (branch (h.dropHeldFar ..) h).sendOp ..

theorem sendWaiting (die n) : Kept s (t.sendWaiting die n) := by
  induction n generalizing t with
  | zero => exact h
  | succ n ih =>
    unfold State.sendWaiting
    split
    · dsimp only
      exact ih (((h.build ..).transmit ..).set ..)
    · exact h

theorem endOp (die tag) : Kept s (t.endOp die tag) := (h.set ..).sendWaiting ..

theorem sendManagerOver (p dst subcode m) : Kept s (t.sendManagerOver p dst subcode m) := by
  unfold State.sendManagerOver
  dsimp only
  exact ((h.build ..).modPort ..).emit ..

theorem sendManager (dst subcode m) : Kept s (t.sendManager dst subcode m) := by
  unfold State.sendManager
  split
  · exact h.sendManagerOver ..
  · exact h

theorem sendJoin (m) : Kept s (t.sendJoin m) := foldl (fun _ _ h => h.sendManagerOver ..) _ h

/-! ## Waymarks -/

theorem modWmk (f) : Kept s (t.modWmk f) := h.set ..
theorem informCtx (x code) : Kept s (t.informCtx x code) := h.set ..
theorem discardReads (c p) : Kept s (t.discardReads c p) := h.set ..
theorem freshReads (n g i) : Kept s (t.freshReads n g i) := (h.modCluster ..).set ..
theorem syncRamb (c) : Kept s (t.syncRamb c) := (h.setCore ..).discardReads ..

theorem passWait (c) : Kept s (t.passWait c) := by
  unfold State.passWait
  dsimp only
  split
  · exact ((h.setCore ..).syncRamb ..).freshReads ..
  · exact (h.setCore ..).syncRamb ..

theorem releaseWait (w) : Kept s (t.releaseWait w) := by
  unfold State.releaseWait
  split
  · exact (h.modWmk ..).passWait ..
  · exact h.modWmk ..
  · exact h.modWmk ..

theorem releaseMet (key count) : Kept s (t.releaseMet key count) := foldl (fun _ _ h => h.releaseWait ..) _ h

theorem setCount (key count) : Kept s (t.setCount key count) := by
  unfold State.setCount
  split
  · exact h.modWmk ..
  · exact h

theorem applyAdd (key inc) : Kept s (t.applyAdd key inc) := by
  unfold State.applyAdd
  split
  · exact h
  · dsimp only
    refine releaseMet ?_ ..
    split
    · exact ((branch ((h.setCount ..).modCluster ..) (h.setCount ..)).modWmk ..).informCtx ..
    · split
      · exact (h.setCount ..).modCluster ..
      · exact h.setCount ..

theorem handSet (key value) : Kept s (t.handSet key value) := (((h.setCount ..).modWmk ..).informCtx ..).releaseMet ..

theorem sendAdd (src key inc by_) : Kept s (t.sendAdd src key inc by_).1 := by
  unfold State.sendAdd
  split
  · exact h
  · split
    · exact h
    · exact h.request ..
    · dsimp only
      exact h.modWmk ..
    · dsimp only
      exact h.modWmk ..

theorem addWait (key threshold who) : Kept s (t.addWait key threshold who) := by
  unfold State.addWait
  split
  · exact h.modWmk ..
  · exact h.modWmk ..
  · exact h
  · exact h

theorem dropCoreWaits (c) : Kept s (t.dropCoreWaits c) := h.modWmk ..
theorem dropTaskWaits (g t') : Kept s (t.dropTaskWaits g t') := h.modWmk ..
theorem dropEvileWaits (p) : Kept s (t.dropEvileWaits p) := h.modWmk ..
theorem dropGraphWaits (g) : Kept s (t.dropGraphWaits g) := h.modWmk ..

/-! ## Versions, cores and the end of a graph -/

theorem writeG (w owner die a bs) : Kept s (t.writeG w owner die a bs).1 := by
  unfold State.writeG
  split
  · exact h.write ..
  · refine foldl_fst (fun r a h => ?_) _ h
    dsimp only
    split
    · exact h
    · exact h.request ..

theorem poke (x a bs) : Kept s (t.poke x a bs) := h.write ..

theorem countTask (g i) : Kept s (t.countTask g i) := by
  unfold State.countTask
  split
  · exact h
  · dsimp only
    split
    · split
      · exact h
      · split
        · exact (h.poke ..).modTask ..
        · exact h
    · exact h

theorem nameVersion (g i x d) {u} (e : t.nameVersion g i x d = .ok u) : Kept s u := by
  unfold State.nameVersion at e
  split at e
  · cases e
    exact h
  · split at e
    · cases e
    · dsimp only at e
      split at e
      · cases e
        exact h
      · split at e
        · cases e
        · cases e
          exact (h.modTask ..).countTask ..

theorem nameVersion_getD (g i x d) : Kept s ((t.nameVersion g i x d).toOption.getD t) := by
  cases e : t.nameVersion g i x d with
  | error => exact h
  | ok u => exact h.nameVersion _ _ _ _ e

theorem countGraph (g) : Kept s (t.countGraph g) := by
  unfold State.countGraph
  split
  · exact h
  · split
    · exact h
    · refine foldl (fun u i h => ?_) _ h
      split
      · exact h.nameVersion_getD ..
      · exact h

theorem countWaiting (x a) : Kept s (t.countWaiting x a) := by
  unfold State.countWaiting
  refine foldl (fun u a h => ?_) _ h
  split
  · refine foldl (fun u a h => ?_) _ h
    split
    · split
      · exact h.countTask ..
      · exact h
    · exact h
  · exact h

theorem releaseVersion (g i) : Kept s (t.releaseVersion g i) := by
  unfold State.releaseVersion
  split
  · exact h
  · dsimp only
    split
    · exact (h.sendAdd ..).modTask ..
    · exact h

theorem releaseStash (g i) : Kept s (t.releaseStash g i) := by
  unfold State.releaseStash
  split
  · exact h
  · dsimp only
    split
    · exact h
    · split
      · exact h.setGraph ..
      · exact h

theorem orphanOps (c) : Kept s (t.orphanOps c) := h.set ..
theorem clearCore (c) : Kept s (t.clearCore c) := (((h.flushStores ..).modCore ..).dropCoreWaits ..).orphanOps ..

theorem clearTask (g i) : Kept s (t.clearTask g i) := by
  unfold State.clearTask
  dsimp only
  exact (foldl (fun _ _ h => h.modCluster ..) _ (foldl (fun _ _ h => h.clearCore ..) _ h)).modTask ..

theorem graphFail (g code i) : Kept s (t.graphFail g code i) := h.modGraph ..

theorem releaseGraph (g) : Kept s (t.releaseGraph g) := by
  unfold State.releaseGraph
  split
  · exact h
  · exact foldl (fun _ _ h => branch h (h.releaseVersion ..)) _ h

theorem replayCause (x step code) : Kept s (t.replayCause x step code) := by
  unfold State.replayCause
  split
  · split
    · exact h
    · split
      · exact h.setCtx ..
      · exact h.event ..
  · exact h

theorem endGraph (g code) : Kept s (t.endGraph g code) := by
  unfold State.endGraph
  split
  · exact h
  · dsimp only
    split
    · exact ((foldl (fun _ _ h => branch h (h.clearTask ..)) _ h).releaseGraph ..).dropGraphWaits ..
    · refine replayCause ?_ ..
      refine post ?_ ..
      exact ((((foldl (fun _ _ h => branch h (h.clearTask ..)) _ h).releaseGraph ..).dropGraphWaits ..).set ..).modCtx ..

theorem settle (g) : Kept s (t.settle g) := by
  unfold State.settle
  split
  · exact h
  · split
    · split
      · exact h
      · exact h.endGraph ..
    · split
      · exact h.endGraph ..
      · split
        · exact (h.graphFail ..).endGraph ..
        · exact h

theorem informTask (g i code) : Kept s (t.informTask g i code) := (h.modTask ..).modGraph ..

theorem suspend (x va store) : Kept s (t.suspend x va store) := by
  unfold State.suspend
  split
  · exact h
  · split
    · exact h
    · dsimp only
      exact ((h.setCtx ..).set ..).event ..

theorem taskFails (g i code) : Kept s (t.taskFails g i code) := by
  unfold State.taskFails
  split
  · exact h
  · dsimp only
    refine settle ?_ ..
    exact ((((((h.clearTask ..).dropTaskWaits ..).releaseVersion ..).modTask ..).set ..).releaseStash ..).graphFail ..

/-! ## Ready tasks and the window -/

theorem loadTask (g i) : Kept s (t.loadTask g i) := by
  unfold State.loadTask
  split
  · exact h
  · split
    · split
      · exact h.suspend ..
      · exact (h.markAcc ..).taskFails ..
      · split
        · exact h.suspend ..
        · exact foldl (fun _ _ h => h.addWait ..) _ ((h.nameVersion_getD ..).modTask ..)
    · exact h

theorem spillTask (g i) : Kept s (t.spillTask g i) := by
  unfold State.spillTask
  split
  · exact h
  · dsimp only
    split
    next e => exact (((h.modTask ..).modGraph ..).writeG ..).of_fst e
    next e => exact ((((h.modTask ..).modGraph ..).writeG ..).of_fst e).suspend ..
    next e => exact (((((h.modTask ..).modGraph ..).writeG ..).of_fst e).markAcc ..).graphFail ..

theorem enterWindow (g i) : Kept s (t.enterWindow g i) := by
  unfold State.enterWindow
  split
  · exact (h.modTask ..).loadTask ..
  · exact h.spillTask ..

theorem unspillSome (n) : Kept s (t.unspillSome n) := by
  induction n generalizing t with
  | zero => exact h
  | succ n ih =>
    unfold State.unspillSome
    split
    · exact h
    · split
      · dsimp only
        exact ih (((h.setGraph ..).modTask ..).loadTask ..)
      · exact h

theorem unspill : Kept s t.unspill := h.unspillSome ..

theorem makeReady (g i) : Kept s (t.makeReady g i) := by
  unfold State.makeReady
  split
  · exact h.enterWindow ..
  · exact h.graphFail ..

theorem loadAgain (x) : Kept s (t.loadAgain x) :=
  (foldl (fun _ _ h => branch (foldl (fun _ _ h => h.loadTask ..) _ h) h) _ h).unspill

theorem failTask (g i code) : Kept s (t.failTask g i code) := (h.taskFails ..).unspill

theorem countSuccessor (g j) : Kept s (t.countSuccessor g j) := by
  unfold State.countSuccessor
  split
  · exact h
  · dsimp only
    split
    · exact (h.markAcc ..).graphFail ..
    · split
      · exact (h.markAcc ..).graphFail ..
      · split
        next e => exact (((h.writeG ..).of_fst e).markAcc ..).graphFail ..
        next e =>
          have h := (h.writeG ..).of_fst e
          refine branch ?_ ?_
          · exact h.graphFail ..
          · refine branch ?_ ?_
            · exact h.makeReady ..
            · exact h

theorem completeTask (g i) : Kept s (t.completeTask g i) := by
  unfold State.completeTask
  dsimp only
  split
  · exact h.failTask ..
  · split
    · exact h
    · refine unspill ?_
      refine settle ?_ ..
      split
      · refine post ?_ ..
        refine releaseStash ?_ ..
        refine foldl (fun _ _ h => h.countSuccessor ..) _ (modGraph (modTask (foldl (fun _ _ h => h.sendAdd ..) _ ?_) ..) ..)
        exact ((h.clearTask ..).dropTaskWaits ..).releaseVersion ..
      · refine releaseStash ?_ ..
        refine foldl (fun _ _ h => h.countSuccessor ..) _ (modGraph (modTask (foldl (fun _ _ h => h.sendAdd ..) _ ?_) ..) ..)
        exact ((h.clearTask ..).dropTaskWaits ..).releaseVersion ..

theorem abortGraph (g) : Kept s (t.abortGraph g) := (h.endGraph ..).unspill

theorem addFailed (key code by_) : Kept s (t.addFailed key code by_) := by
  unfold State.addFailed
  dsimp only
  split
  · split
    · exact h.event ..
    · exact h
  · split
    · split
      · exact h.event ..
      · exact h
    · split
      · split
        · exact h.event ..
        · exact h
      · split
        · exact (((branch (h.event ..) h).graphFail ..).settle ..).unspill
        · exact (branch (h.event ..) h).modTask ..

theorem failCore (c code pc insn) : Kept s (t.failCore c code pc insn) := by
  unfold State.failCore
  dsimp only
  split
  · exact h
  · exact ((h.setCore ..).failTask ..).modCore ..

end

end Kept

end Sys2Proof.Safety
end

section
/-! SUPPORT. What retirement and the operand forms of tile instructions keep. -/

namespace Sys2Proof.Safety

open Machine

namespace Kept

section
variable {s t : State} (h : Kept s t)
include h

/-! ## Retirement and repair -/

theorem extend (r new) : Kept s (t.extend r new) := h.set ..
theorem newGeneration : Kept s t.newGeneration := ((h.set ..).extend ..).pfEvent ..

/-- Zeros in the place of what a store range holds. -/
theorem zeroRange (o n) : Kept s (t.zeroRange o n) :=
  ⟨h.pending, fun m => ⟨mwfBy_filter _ _ (h.memory m).1, (h.memory m).2⟩⟩

theorem failAll (l code) : Kept s (t.failAll l code) := by
  unfold State.failAll
  split
  · exact h
  · exact foldl (fun _ _ h => branch (h.failTask ..) h) _ h

theorem loseStash (n) : Kept s (t.loseStash n) := h.set ..
theorem loseStores (n) : Kept s (t.loseStores n) := (foldl (fun _ _ h => h.zeroRange ..) _ h).zeroRange ..

theorem rehome (n) : Kept s (t.rehome n) := by
  unfold State.rehome
  refine foldl (fun u a h => ?_) _ h
  split
  · dsimp only
    exact (h.modWmk ..).releaseMet ..
  · exact h

theorem retire (n) : Kept s (t.retire n) := by
  unfold State.retire
  split
  · exact h
  · dsimp only
    exact ((((((h.failAll ..).set ..).loseStash ..).loseStores ..).rehome ..).log ..).set ..

theorem retireDoomed : Kept s t.retireDoomed := by
  unfold State.retireDoomed
  split
  · exact h
  · refine foldl (fun u a h => ?_) _ h
    split
    · dsimp only
      exact ((h.retire ..).set ..).newGeneration
    · exact h

theorem decideOn (d) : Kept s (t.decideOn d) := (h.addDecision ..).retireDoomed

theorem noteAcc (w a) : Kept s (t.noteAcc w a) := by
  unfold State.noteAcc
  split
  · exact (h.markAcc ..).retireDoomed
  · exact h.markAcc ..

/-! ## Operands -/

theorem accRes {α : Type} (w a store) : KeptRes (α := α) s (Machine.accRes t w a store) := by
  unfold Machine.accRes
  split
  · exact h
  · exact h.noteAcc ..

theorem setTreg (c t' r) : Kept s (t.setTreg c t' r) := h.modCore ..
theorem setAcc (c n a) : Kept s (t.setAcc c n a) := h.modCore ..
theorem fillAcc (c n a) : Kept s (t.fillAcc c n a) := (h.setAcc ..).modCore ..
theorem modRamb (c f) : Kept s (t.modRamb c f) := h.modCore ..
theorem countServed (n g i pu) : Kept s (t.countServed n g i pu) := h.modCluster ..
theorem hold (n g i pu mask data) : Kept s (t.hold n g i pu mask data) := h.modCluster ..

theorem holdUnit (w n g i pu) : Kept s (t.holdUnit w n g i pu) := by
  unfold State.holdUnit
  split
  · exact h.noteAcc ..
  · exact h.hold ..

theorem coalesce (w n g i pu keep) : Kept s (t.coalesce w n g i pu keep) := by
  unfold State.coalesce
  split
  · split
    · exact h.holdUnit ..
    · exact h
  · exact h.countServed ..

theorem coalesceFar (n g i u mask) : Kept s (t.coalesceFar n g i u mask) := by
  unfold State.coalesceFar
  dsimp only
  split
  · exact h.hold ..
  · exact h.countServed ..

theorem coalesceRange (n g i w p) : Kept s (t.coalesceRange n g i w p) := by
  unfold State.coalesceRange
  split
  · refine foldl (fun u a h => ?_) _ h
    split
    · split
      · exact h.coalesce ..
      · exact h
    · exact h
  · exact foldl (fun _ _ h => h.coalesceFar ..) _ h

theorem issueReq (c i q) : Kept s (t.issueReq c i q) := by
  unfold State.issueReq
  dsimp only
  refine modRamb ?_ ..
  split
  · exact h
  · split
    · dsimp only
      exact h.countServed ..
    · dsimp only
      exact h.countServed ..
    · exact h

theorem issueReqs (c n) : Kept s (t.issueReqs c n) := by
  induction n generalizing t with
  | zero => exact h
  | succ n ih =>
    unfold State.issueReqs
    split
    · exact h
    · exact ih (h.issueReq ..)

theorem issueWindow (c) : Kept s (t.issueWindow c) := (h.issueReqs ..).settleQueues
theorem dropFetch (c) : Kept s (t.dropFetch c) := h.modRamb ..
theorem enterRead (c key pa mask spec) : Kept s (t.enterRead c key pa mask spec) := h.modRamb ..

theorem readRemote (c w p spec) : Kept s (t.readRemote c w p spec).1 := by
  unfold State.readRemote
  dsimp only
  split
  · exact h
  · split
    · dsimp only
      exact (h.countServed ..).modRamb ..
    · dsimp only
      exact (h.countServed ..).modRamb ..
    · exact h.request ..

theorem prefetch (c w p) : Kept s (t.prefetch c w p) := by
  unfold State.prefetch
  dsimp only
  split
  · exact h
  · split
    · split
      · split
        · exact h.dropFetch ..
        · split
          · exact (h.noteAcc ..).dropFetch ..
          · exact h.enterRead ..
      · exact h.dropFetch ..
    · split
      next e => exact (h.readRemote ..).of_fst e
      next e => exact ((h.readRemote ..).of_fst e).dropFetch ..

theorem prefetchAll (c w l) : Kept s (t.prefetchAll c w l).1 := by
  induction l generalizing t with
  | nil => exact h
  | cons a l ih =>
    unfold State.prefetchAll
    dsimp only
    split
    · split
      · dsimp only
        exact h.issueWindow ..
      · dsimp only
        exact ih ((h.issueWindow ..).prefetch ..)
    · split
      · exact h
      · dsimp only
        exact ih (h.prefetch ..)

theorem entryFor (c need) : Kept s (t.entryFor c need) := by
  unfold State.entryFor
  dsimp only
  refine branch ?_ ?_
  · split
    · exact h.issueWindow ..
    · exact h
  · exact (branch (h.issueWindow ..) h).modRamb ..

theorem onDemand (c key) : Kept s (t.onDemand c key) := h.modRamb ..
theorem takeAgain (c key) : Kept s (t.takeAgain c key) := h.modRamb ..

theorem demandUnit (c w need p) : KeptRes s (t.demandUnit c w need p) := by
  unfold State.demandUnit
  dsimp only
  split
  · split
    · split
      · exact h
      · split
        · exact h.noteAcc ..
        · split
          · exact h.onDemand ..
          · exact branch (((h.entryFor ..).takeAgain ..).enterRead ..) (h.entryFor ..)
    · exact h.accRes ..
  · split
    · exact h
    · split
      · exact h.onDemand ..
      · split
        · exact h.entryFor ..
        · split <;>
            next e => exact (((h.entryFor ..).takeAgain ..).readRemote ..).of_fst e

theorem demand (c w l) : KeptRes s (t.demand c w l) := by
  unfold State.demand
  dsimp only
  refine (KeptRes.each (fun _ _ h => h.demandUnit ..) _ h).bind fun u a h => ?_
  split
  · exact h
  · exact h.issueWindow ..

theorem loadUnit (c w p) : KeptRes s (t.loadUnit c w p) := by
  unfold State.loadUnit
  split
  · exact h
  · split
    · exact h
    · split
      · split
        · exact h.noteAcc ..
        · exact h
      · exact h.accRes ..

theorem loadAt (c w p) : KeptRes s (t.loadAt c w p) := by
  unfold State.loadAt
  split
  · exact h
  · exact (KeptRes.each (fun _ _ h => h.loadUnit ..) _ h).bind fun _ _ h => h

theorem consume (c l later) : Kept s (t.consume c l later) := by
  unfold State.consume
  dsimp only
  exact h.modRamb ..

theorem noteStore (c q) : Kept s (t.noteStore c q) := (h.modRamb ..).discardReads ..

theorem storeUnit (c w p o m bs) : KeptRes s (t.storeUnit c w p o m bs) := by
  unfold State.storeUnit
  split
  · dsimp only
    split
    · exact h.noteAcc ..
    · refine KeptRes.branch ?_ ?_
      · exact h
      · exact branch ((h.noteStore ..).issueWindow ..) (h.noteStore ..)
  · exact h.accRes ..

theorem storeRemote (c w p a m bs) : KeptRes s (t.storeRemote c w p a m bs) := by
  unfold State.storeRemote
  split
  · exact h
  · dsimp only
    split
    · exact h.request ..
    · exact (h.request ..).noteStore ..

theorem storeOne (c w p x) : KeptRes s (t.storeOne c w p x) := by
  unfold State.storeOne
  split
  · exact h
  · split
    · dsimp only
      exact h.modCore ..
    · split
      · exact h.storeUnit ..
      · exact h.storeRemote ..

theorem handed (c p n) : Kept s (t.handed c p n) := h.modCore ..

theorem storeList (c w p n l) : KeptRes s (t.storeList c w p n l) := by
  induction l generalizing t c w p n with
  | nil => exact h
  | cons a l ih =>
    unfold State.storeList
    split
    next e => exact ih ((h.storeOne ..).of_ok e) ..
    next e => exact ((h.storeOne ..).of_wait e).handed ..
    next e => exact (h.storeOne ..).of_fail e
    next e => exact (h.storeOne ..).of_miss e

theorem storeAll (c p l) : KeptRes s (t.storeAll c p l) := h.storeList ..

/-! ## Tile instructions -/

theorem withTreg {α : Type} (c i) {f : TReg → Res α} (hf : ∀ r, KeptRes s (f r)) : KeptRes s (t.withTreg c i f) := by
  unfold State.withTreg
  dsimp only
  split
  · exact hf _
  · exact h

theorem setFlags (c f) : Kept s (t.setFlags c f) := h.modCore ..

theorem runTcfg (c t' type blk rows cols) : KeptRes s (Machine.runTcfg t c t' type blk rows cols) := by
  unfold Machine.runTcfg
  split
  · exact h.setTreg ..
  · exact h

theorem runTcfgClear (c t') : KeptRes s (Machine.runTcfgClear t c t') := h.setTreg ..

theorem loadRow (c w x r t' i) : KeptRes s (Machine.loadRow t c w x r t' i) := by
  unfold Machine.loadRow
  split
  · refine (h.demand ..).bind fun u a h => ?_
    refine (h.loadAt ..).bind fun u a h => ?_
    split
    · exact h
    · exact (h.loadAt ..).bind fun _ _ h => h
  · exact h

theorem loadRows (c t' x r q p n l) : KeptRes s (Machine.loadRows t c t' x r q p n l) := by
  induction l generalizing t c t' x r q p n with
  | nil => exact h
  | cons a l ih =>
    unfold Machine.loadRows
    split
    next e => exact ih ((((h.loadRow ..).of_ok e).consume ..).setTreg ..) ..
    next e => exact ((h.loadRow ..).of_wait e).handed ..
    next e => exact (h.loadRow ..).of_fail e
    next e => exact (h.loadRow ..).of_miss e

theorem runTld (c t' x r p) : KeptRes s (Machine.runTld t c t' x r p) := h.withTreg _ _ fun _ => h.loadRows ..
theorem runTst (c t' x r p) : KeptRes s (Machine.runTst t c t' x r p) := h.withTreg _ _ fun _ => h.storeAll ..

theorem runTwl (c t' rb cb tr) : KeptRes s (Machine.runTwl t c t' rb cb tr) := by
  unfold Machine.runTwl
  refine h.withTreg _ _ fun q => ?_
  split
  · dsimp only
    exact h.modCore ..
  · exact h

theorem recordColumn (site col) : Kept s (t.recordColumn site col) := by
  unfold State.recordColumn
  dsimp only
  split
  · exact h
  · refine branch ?_ ?_ <;> exact h.decideOn ..

theorem arrayParity (c e) : Kept s (t.arrayParity c e) := by
  unfold State.arrayParity
  dsimp only
  split
  · exact ((h.log ..).modCore ..).recordColumn ..
  · exact ((h.log ..).modCore ..).decideOn ..
  · exact (h.log ..).modCore ..

theorem noteAccBad (c) : Kept s (t.noteAccBad c) := (h.log ..).decideOn ..

theorem withAccs (c tiles p) {f : Res Unit} (hf : KeptRes s f) : KeptRes s (t.withAccs c tiles p f) := by
  unfold State.withAccs
  split
  · exact h.noteAccBad ..
  · exact hf

theorem runTmm (c form t' rb cb acc) : KeptRes s (Machine.runTmm t c form t' rb cb acc) := by
  unfold Machine.runTmm
  refine h.withTreg _ _ fun q => ?_
  dsimp only
  split
  · split
    · exact h
    · split
      · exact h
      · refine KeptRes.branch ?_ ?_
        · split
          · exact h.arrayParity ..
          · exact h.withAccs _ _ _ (((h.setCore ..).setAcc ..).setFlags ..)
        · exact h
  · exact h

theorem weightsAt (c w p) : KeptRes s (Machine.weightsAt t c w p) := by
  unfold Machine.weightsAt
  split
  · exact h
  · split
    · exact h.noteAcc ..
    · exact h

theorem weightRow (c w x r wtype wblk n k) : KeptRes s (Machine.weightRow t c w x r wtype wblk n k) := by
  unfold Machine.weightRow
  dsimp only
  split
  · refine (h.weightsAt ..).bind fun u a h => ?_
    split
    · exact h
    · exact (h.weightsAt ..).bind fun _ _ h => h
  · exact h

theorem runTmv (c t' pair stride wtype wblk n acc r) : KeptRes s (Machine.runTmv t c t' pair stride wtype wblk n acc r) := by
  unfold Machine.runTmv
  refine h.withTreg _ _ fun q => ?_
  split
  · exact h
  · dsimp only
    split
    · refine (KeptRes.each (fun _ _ h => h.weightRow ..) _ h).bind fun u a h => ?_
      exact h.withAccs _ _ _ (foldl (fun _ _ h => (h.setAcc ..).setFlags ..) _ h)
    · exact h

theorem runTmvRow (c mode t' pair col acc init srcTm r) :
    KeptRes s (Machine.runTmvRow t c mode t' pair col acc init srcTm r) := by
  unfold Machine.runTmvRow
  refine h.withTreg _ _ fun q => ?_
  dsimp only
  split
  · split
    · exact h.withAccs _ _ _ (h.setAcc ..)
    · exact h
  · exact h

theorem runTzr (c acc count) : KeptRes s (Machine.runTzr t c acc count) := foldl (fun _ _ h => h.fillAcc ..) _ h
theorem runTmovReg (c td ts) : KeptRes s (Machine.runTmovReg t c td ts) := h.withTreg _ _ fun _ => h.setTreg ..
theorem runTmovOut (c td acc) : KeptRes s (Machine.runTmovOut t c td acc) := h.withAccs _ _ _ (h.setTreg ..)

theorem runTmovIn (c ts acc orient) : KeptRes s (Machine.runTmovIn t c ts acc orient) := by
  unfold Machine.runTmovIn
  refine h.withTreg _ _ fun q => ?_
  split
  · dsimp only
    exact h.fillAcc ..
  · exact h

theorem coreAdd (c id inc) : KeptRes s (t.coreAdd c id inc) := by
  unfold State.coreAdd
  split
  · exact h
  · dsimp only
    split <;> exact h.sendAdd ..

theorem runHalo (c t' side n dst stride id r p) : KeptRes s (Machine.runHalo t c t' side n dst stride id r p) := by
  unfold Machine.runHalo
  refine h.withTreg _ _ fun q => ?_
  split
  · dsimp only
    refine (h.storeAll ..).bind fun u a h => ?_
    split
    · exact h
    · split
      · exact h
      · split
        · exact h.handed ..
        · split
          · exact h.coreAdd ..
          · exact h.modRamb ..
  · exact h

theorem runBlr (c t' ch) : KeptRes s (Machine.runBlr t c t' ch) := by
  unfold Machine.runBlr
  refine h.withTreg _ _ fun q => ?_
  split
  · exact h
  · dsimp only
    split
    · exact (h.modCore ..).setTreg ..
    · exact h.modCore ..

theorem drain (c acc release t' r p) : KeptRes s (Machine.drain t c acc release t' r p) := by
  unfold Machine.drain
  dsimp only
  refine ((h.modCore ..).storeAll ..).bind fun _ _ h => ?_
  exact branch (((h.setFlags ..).modCore ..).setAcc ..) ((h.setFlags ..).modCore ..)

theorem runTdr (c acc recNo x idx release nrows ncols rowEnd r p) :
    KeptRes s (Machine.runTdr t c acc recNo x idx release nrows ncols rowEnd r p) := by
  unfold Machine.runTdr
  dsimp only
  split
  · exact h
  · refine KeptRes.branch ?_ ?_
    · exact h.withAccs _ _ _ (h.drain ..)
    · exact h

end

end Kept

end Sys2Proof.Safety
end

section
/-! SUPPORT. What issuing and running tile instructions keeps. -/

namespace Sys2Proof.Safety

open Machine

namespace Kept

section
variable {s t : State} (h : Kept s t)
include h

/-! ## Issue -/

theorem runInsn (c i p) : KeptRes s (Machine.runInsn t c i p) := by
  unfold Machine.runInsn
  dsimp only
  split
  · split
    · exact h.runTcfgClear ..
    · exact h.runTcfg ..
  · exact h.runTld ..
  · exact h.runTst ..
  · exact h.runTwl ..
  · exact h.runTmm ..
  · split
    · exact h.runTmv ..
    · exact h.runTmvRow ..
  · exact h.runTdr ..
  · exact h.runTzr ..
  · split
    · exact h.runTmovReg ..
    · exact h.runTmovOut ..
    · exact h.runTmovIn ..
  · exact h.runHalo ..
  · exact h.runBlr ..
  · exact h

theorem dropPending (c p) : Kept s (t.dropPending c p) := h.modCore ..

theorem runPendings (c l l') : Kept s (t.runPendings c l l') := by
  induction l generalizing t c l' with
  | nil => exact h
  | cons a l ih =>
    unfold State.runPendings
    dsimp only
    refine branch ?_ ?_
    · exact ih h ..
    · split
      next e => exact ih (((h.runInsn ..).of_ok e).dropPending ..) ..
      next e => exact ih ((h.runInsn ..).of_wait e) ..
      next e => exact ((h.runInsn ..).of_fail e).failCore ..
      next e =>
        have h := (h.runInsn ..).of_miss e
        split
        · exact h.suspend ..
        · exact h

theorem progress (c) : Kept s (t.progress c) := by
  unfold State.progress
  split
  · exact h
  · exact h.runPendings ..

theorem progressAll : Kept s t.progressAll := foldl (fun _ _ h => h.progress ..) _ h

theorem atIssue (row c w) {f : TileInsn → State → State} (hf : ∀ i, Kept s (f i t)) :
    Ended s (Machine.atIssue row c w t f) := by
  unfold Machine.atIssue
  split
  · exact h.next
  · split
    · exact (h.failCore ..).next
    · split
      · exact h.next
      · split
        · exact (h.failCore ..).next
        · exact (hf _).next

theorem stepPc (c n) : Kept s (t.stepPc c n) := h.modCore ..

theorem issueUnit (c w i) : Kept s (Machine.issueUnit c w i t) := by
  unfold Machine.issueUnit
  dsimp only
  refine branch ?_ ?_
  · split
    · exact h
    · exact h.progress ..
  · refine progress ?_ ..
    split
    · exact (((branch h (h.progress ..)).modCore ..).stepPc ..).modRamb ..
    · exact ((branch h (h.progress ..)).modCore ..).stepPc ..

theorem execNop (c w) : Ended s (Machine.execNop c w t) := h.atIssue _ _ _ fun _ => h.stepPc ..
theorem execTcfg (c w) : Ended s (Machine.execTcfg c w t) := h.atIssue _ _ _ fun _ => h.issueUnit ..
theorem execTcfgClear (c w) : Ended s (Machine.execTcfgClear c w t) := h.atIssue _ _ _ fun _ => h.issueUnit ..
theorem execTld (c w) : Ended s (Machine.execTld c w t) := h.atIssue _ _ _ fun _ => h.issueUnit ..
theorem execTst (c w) : Ended s (Machine.execTst c w t) := h.atIssue _ _ _ fun _ => h.issueUnit ..
theorem execTwl (c w) : Ended s (Machine.execTwl c w t) := h.atIssue _ _ _ fun _ => h.issueUnit ..

theorem meetErr (c x) : Kept s (t.meetErr c x) := by
  unfold State.meetErr
  split
  · exact h
  · exact h.modCore ..
  · exact h.modCore ..

theorem execTmm (c r) : Ended s (Machine.execTmm c r t) := by
  unfold Machine.execTmm
  dsimp only
  exact (branch (h.meetErr ..) h).atIssue _ _ _ fun _ => (branch (h.meetErr ..) h).issueUnit ..

theorem execTmv (c w) : Ended s (Machine.execTmv c w t) := h.atIssue _ _ _ fun _ => h.issueUnit ..
theorem execTmvRow (c w) : Ended s (Machine.execTmvRow c w t) := h.atIssue _ _ _ fun _ => h.issueUnit ..
theorem execTdr (c w) : Ended s (Machine.execTdr c w t) := h.atIssue _ _ _ fun _ => h.issueUnit ..
theorem execTzr (c w) : Ended s (Machine.execTzr c w t) := h.atIssue _ _ _ fun _ => h.issueUnit ..
theorem execTmov (c w) : Ended s (Machine.execTmov c w t) := h.atIssue _ _ _ fun _ => h.issueUnit ..
theorem execHalo (c w) : Ended s (Machine.execHalo c w t) := h.atIssue _ _ _ fun _ => h.issueUnit ..
theorem execBlr (c w) : Ended s (Machine.execBlr c w t) := h.atIssue _ _ _ fun _ => h.issueUnit ..

/-! ## The sequencer -/

theorem setA (c n v) : Kept s (t.setA c n v) := h.modCore ..
theorem doMova (c ad src as imm) : Kept s (Machine.doMova c ad src as imm t) := (h.setA ..).stepPc ..
theorem doAdda (c ad src as imm) : Kept s (Machine.doAdda c ad src as imm t) := (h.setA ..).stepPc ..

theorem execMova (c w) : Ended s (Machine.execMova c w t) := by
  unfold Machine.execMova
  refine h.atIssue _ _ _ fun i => ?_
  split
  · exact h.doMova ..
  · exact h

theorem execAdda (c w) : Ended s (Machine.execAdda c w t) := by
  unfold Machine.execAdda
  refine h.atIssue _ _ _ fun i => ?_
  split
  · exact h.doAdda ..
  · exact h

theorem setFlow (c f) : Kept s (t.setFlow c f) := h.modCore ..

theorem doLoop (c w cnt stop reg a count) : Kept s (Machine.doLoop c w cnt stop reg a count t) := by
  unfold Machine.doLoop
  dsimp only
  split
  · exact h.setFlow ..
  · exact h.failCore ..

theorem doEndl (c w cnt) : Kept s (Machine.doEndl c w cnt t) := by
  unfold Machine.doEndl
  dsimp only
  split
  · split
    · exact h.setFlow ..
    · exact h.failCore ..
  · exact h.failCore ..

theorem execLoop (c w) : Ended s (Machine.execLoop c w t) := by
  unfold Machine.execLoop
  refine h.atIssue _ _ _ fun i => ?_
  split
  · exact h.doLoop ..
  · exact h

theorem execEndl (c w) : Ended s (Machine.execEndl c w t) := by
  unfold Machine.execEndl
  refine h.atIssue _ _ _ fun i => ?_
  split
  · exact h.doEndl ..
  · exact h

theorem doWait (c w id thr imm) : Kept s (Machine.doWait c w id thr imm t) := by
  unfold Machine.doWait
  dsimp only
  split
  · exact h
  · split
    · exact h.failCore ..
    · split
      · exact h.passWait ..
      · exact (h.addWait ..).modCore ..

theorem execWait (c w) : Ended s (Machine.execWait c w t) := by
  unfold Machine.execWait
  refine h.atIssue _ _ _ fun i => ?_
  split
  · exact h.doWait ..
  · exact h

theorem doSig (c w id inc reg a) : Kept s (Machine.doSig c w id inc reg a t) := by
  unfold Machine.doSig
  dsimp only
  split
  · exact h
  · split
    next e => exact ((h.coreAdd ..).of_ok e).stepPc ..
    next e => exact ((h.coreAdd ..).of_fail e).failCore ..
    next e => exact (h.coreAdd ..).of_miss e
    next e => exact (h.coreAdd ..).of_wait e

theorem execSig (c w) : Ended s (Machine.execSig c w t) := by
  unfold Machine.execSig
  refine h.atIssue _ _ _ fun i => ?_
  split
  · exact h.doSig ..
  · exact h

theorem passFence (c loads) : Kept s (t.passFence c loads) := by
  unfold State.passFence
  dsimp only
  split
  · exact h.modCore ..
  · split
    · exact (((h.modCore ..).syncRamb ..).freshReads ..).progress ..
    · exact (h.modCore ..).syncRamb ..

theorem sendEntry (c e) : KeptRes s (t.sendEntry c e) := by
  unfold State.sendEntry
  split
  · dsimp only
    split
    · exact h
    · split <;> exact h.request ..
  · exact h.coreAdd ..

theorem sendHeld (c n) : Kept s (t.sendHeld c n) := by
  induction n generalizing t with
  | zero => exact h
  | succ n ih =>
    unfold State.sendHeld
    split
    · split
      · exact h
      · split
        next e => exact ih (((h.modRamb ..).sendEntry ..).of_ok e)
        next e => exact (((h.modRamb ..).sendEntry ..).of_fail e).failCore ..
        next e => exact ((h.modRamb ..).sendEntry ..).of_miss e
        next e => exact ((h.modRamb ..).sendEntry ..).of_wait e
    · exact h

theorem doFence (c w scope loads) : Kept s (Machine.doFence c w scope loads t) := by
  unfold Machine.doFence
  dsimp only
  split
  · exact (((h.modCore ..).stepPc ..).modRamb ..).sendHeld ..
  · split
    · exact h.passFence ..
    · exact h.modCore ..

theorem execFence (c w) : Ended s (Machine.execFence c w t) := by
  unfold Machine.execFence
  refine h.atIssue _ _ _ fun i => ?_
  split
  · exact h.doFence ..
  · exact h

theorem fenceCheck (c) : Kept s (t.fenceCheck c) := by
  unfold State.fenceCheck
  dsimp only
  split
  · split
    · split
      · split
        · exact h.doFence ..
        · exact h
      · exact h
    · exact h
  · exact h

theorem refetchOne (c e) : Kept s (t.refetchOne c e) := by
  unfold State.refetchOne
  dsimp only
  split
  · exact h
  · split
    · exact h.modRamb ..
    · split
      · exact h
      · split
        · exact (h.modRamb ..).enterRead ..
        · split
          next e => exact ((h.modRamb ..).readRemote ..).of_fst e
          next e => exact (((h.modRamb ..).readRemote ..).of_fst e).dropFetch ..

theorem refetch (c) : Kept s (t.refetch c) := foldl (fun _ _ h => h.refetchOne ..) _ h
theorem goOn (c) : Kept s (t.goOn c) := ((branch h ((h.refetch ..).issueWindow ..)).progress ..).fenceCheck ..

theorem acked (c i) : Kept s (t.acked c i) := by
  unfold State.acked
  split
  · exact h
  · dsimp only
    exact (((h.modRamb ..).issueWindow ..).sendHeld ..).goOn ..

end

end Kept

end Sys2Proof.Safety
end

section
/-! SUPPORT. What the units of mapped tasks, parameter records and update rules keep. -/

namespace Sys2Proof.Machine

/-- What a check that a structure passes has gone through. -/
theorem Ld.of_bind {α β : Type} {r : Ld α} {f : α → Ld β} {b : β} (e : r >>= f = .ok b) : ∃ a, r = .ok a ∧ f a = .ok b := by
  cases r with
  | error => cases e
  | ok a => exact ⟨a, rfl, e⟩

end Sys2Proof.Machine

namespace Sys2Proof.Safety

open Machine

namespace Kept

section
variable {s t : State} (h : Kept s t)
include h

/-! ## Mapped tasks -/

theorem ownStore (c w a n) : Kept s (t.ownStore c w a n) := by
  unfold State.ownStore
  refine foldl (fun u a h => ?_) _ h
  split
  · dsimp only
    split
    · exact h
    · exact (h.modRamb ..).refetch ..
  · exact h

theorem storeNow (j c w a bs) : KeptRes s (Machine.storeNow t j c w a bs) := by
  unfold Machine.storeNow
  split
  · exact h
  · split
    · exact h
    · split
      next e =>
        have h := (h.writeG ..).of_fst e
        exact branch (h.ownStore ..) h
      next e => exact ((h.writeG ..).of_fst e).accRes ..

theorem storePart (j c w t' r first es scales) : KeptRes s (Machine.storePart t j c w t' r first es scales) := by
  unfold Machine.storePart
  refine KeptRes.bind ?_ fun u a h => ?_
  · refine KeptRes.each (fun u a h => ?_) _ h
    split
    · exact h.storeNow ..
    · exact h
  · exact h.storeNow ..

theorem jobEmit (j c w t' r vs) : KeptRes s (Job.emit j t c w t' r vs) := (h.storePart ..).bind fun _ _ h => h
theorem putReserve (c k bs) : Kept s (t.putReserve c k bs) := h.put ..

theorem jobHandPartials (j v t' c u) : Kept s (Job.handPartials j t v t' c u) := by
  unfold Job.handPartials
  dsimp only
  split
  · exact h
  · split
    · exact h
    · exact foldl (fun _ _ h => foldl (fun _ _ h => h.putReserve ..) _ h) _ h

theorem jobSpillFwd (j v c u) : Kept s (Job.spillFwd j t v c u) := by
  unfold Job.spillFwd
  dsimp only
  split
  · exact h
  · exact foldl (fun _ _ h => h.putReserve ..) _ h

theorem jobSpillBwd (j v c h' k0 rows) : Kept s (Job.spillBwd j t v c h' k0 rows) := by
  unfold Job.spillBwd
  dsimp only
  split
  · exact h
  · exact foldl (fun _ _ h => branch h (h.putReserve ..)) _ h

theorem jobHandSegment (j v t' u) : Kept s (Job.handSegment j t v t' u) := foldl (fun _ _ h => branch h (h.put ..)) _ h
theorem storeSlice (j c w x lo hi) : KeptRes s (Machine.storeSlice t j c w x lo hi) := h.storePart ..

theorem jobRunGroup (j t' c w g) : KeptRes s (Job.runGroup j t t' c w g) := by
  unfold Job.runGroup
  dsimp only
  exact (KeptRes.each (fun _ _ h => h.storeSlice ..) _ (foldl (fun _ _ h => h.jobHandPartials ..) _ h)).bind fun _ _ h => h

theorem jobRunSlice (j c w u) : KeptRes s (Job.runSlice j t c w u) :=
  (KeptRes.each (fun _ _ h => h.storePart ..) _ h).bind fun _ _ h => h

theorem jobUnit (j c w u) : KeptRes s (Job.unit j t c w u) := by
  unfold Job.unit
  dsimp only
  split
  · exact h
  · refine KeptRes.bind ?_ fun u a h => ?_
    · refine KeptRes.each (fun u a h => ?_) _ (branch (h.jobSpillFwd ..) h)
      refine (h.storePart ..).bind fun u a h => ?_
      split
      · exact h.storePart ..
      · exact h
    · exact h

theorem jobRunAll (j t' c w) : KeptRes s (Job.runAll j t t' c w) := by
  unfold Job.runAll
  split
  · exact KeptRes.each (fun _ _ h => h.jobRunSlice ..) _ h
  · split
    · exact KeptRes.each (fun _ _ h => h.jobRunGroup ..) _ h
    · exact KeptRes.each (fun _ _ h => h.jobUnit ..) _ h

theorem jobHandHalo (j t' c) : Kept s (Job.handHalo j t t' c) := by
  unfold Job.handHalo
  split
  · exact h
  · dsimp only
    exact foldl (fun _ _ h => foldl (fun _ _ h => branch (h.put ..) h) _ h) _ h

/-! ## Parameter records -/

theorem setRec (x a r) : Kept s (t.setRec x a r) := h.set ..

theorem modRec (x a f) : Kept s (t.modRec x a f) := by
  unfold State.modRec
  split
  · exact h.setRec ..
  · exact h

theorem putG (x a bs) : Kept s (t.putG x a bs) := by
  unfold State.putG
  refine foldl_fst (fun r a h => ?_) _ h
  dsimp only
  split
  · exact h.put ..
  · exact h

theorem putWords (x a vs) : Kept s (t.putWords x a vs) := h.putG ..

theorem putRow (x t' r es scales) : Kept s (t.putRow x t' r es scales) := by
  unfold State.putRow
  dsimp only
  refine putG ?_ ..
  refine foldl (fun u a h => ?_) _ h
  split
  · exact h.putG ..
  · exact h

theorem setSlot (x a j st tag) : Kept s (t.setSlot x a j st tag) := by
  unfold State.setSlot
  dsimp only
  refine poke ?_ ..
  split
  · exact h.poke ..
  · exact h

theorem armRecord (x a) : Kept s (t.armRecord x a) := by
  unfold State.armRecord
  split
  · exact h
  · dsimp only
    exact foldl (fun _ _ h => branch h (h.addWait ..)) _ (h.modWmk ..)

theorem dieAdd (x r id inc) : Kept s (t.dieAdd x r id inc) := h.sendAdd ..

theorem failRecord (x a code) : Kept s (t.failRecord x a code) := by
  unfold State.failRecord
  split
  · exact h
  · exact ((h.modRec ..).armRecord ..).event ..

theorem dieWork (x a reads writes) {f : State → State} (hf : ∀ u, Kept s u → Kept s (f u)) :
    Kept s (t.dieWork x a reads writes f) := by
  unfold State.dieWork
  split
  · exact hf _ h
  · split
    · exact (h.noteAcc ..).failRecord ..
    · exact hf _ h

theorem publish (x r) : Kept s (t.publish x r) := foldl (fun _ _ h => h.request ..) _ h

/-! ## The update rules -/

theorem updWriteSlot (u r w) : Kept s (Upd.writeSlot u t r w) := h.putRow ..
theorem updWriteBank (u j r l) : Kept s (Upd.writeBank u t j r l) := foldl (fun _ _ h => h.putG ..) _ h

theorem updWriteRow (u k r m v w) : Kept s (Upd.writeRow u t k r m v w) := by
  unfold Upd.writeRow
  dsimp only
  split
  · exact h.putG ..
  · exact h.updWriteBank ..

theorem copyG (x src dst n) : Kept s (t.copyG x src dst n) := h.putG ..

theorem updCopySlot (u) : Kept s (Upd.copySlot u t) := by
  unfold Upd.copySlot
  dsimp only
  split
  · exact h.copyG ..
  · exact (h.copyG ..).copyG ..

theorem updApplyJournal (u) : Kept s (Upd.applyJournal u t) := by
  unfold Upd.applyJournal
  dsimp only
  split
  · exact h
  · refine putG ?_ ..
    refine foldl (fun u a h => ?_) _ h
    refine putG ?_ ..
    refine foldl_fst (fun r a h => ?_) _ h
    dsimp only
    exact h.putG ..

theorem replayJournal (x r) : Kept s (t.replayJournal x r) := by
  unfold State.replayJournal
  dsimp only
  split
  · exact h
  · exact h.updApplyJournal ..

theorem openRecord (x index e) : Kept s (t.openRecord x index e) := by
  unfold State.openRecord
  dsimp only
  split
  · exact (h.setRec ..).armRecord ..
  · split
    · exact ((((h.setRec ..).replayJournal ..).dieAdd ..).publish ..).armRecord ..
    · exact (h.setRec ..).armRecord ..

theorem openUpdates (x) {u} (e : t.openUpdates x = .ok u) : Kept s u := by
  unfold State.openUpdates at e
  split at e
  · cases e
    exact h
  · dsimp only at e
    obtain ⟨_, _, e⟩ := Ld.of_bind e
    obtain ⟨hd, _, e⟩ := Ld.of_bind e
    obtain ⟨_, _, e⟩ := Ld.of_bind e
    obtain ⟨rows, _, e⟩ := Ld.of_bind e
    obtain ⟨_, _, e⟩ := Ld.of_bind e
    cases e
    exact foldl (fun _ _ h => h.openRecord ..) _ h

end

end Kept

end Sys2Proof.Safety
end

section
/-! SUPPORT. What the end of a task, the cluster DMA engines and Rambler keep. -/

namespace Sys2Proof.Safety

open Machine

namespace Kept

section
variable {s t : State} (h : Kept s t)
include h

/-! ## The end of a task on a core -/

theorem storeF32 (j c w t' r vs) : KeptRes s (Machine.storeF32 t j c w t' r vs) := h.storePart ..

theorem freeScratch (j c w t') : KeptRes s (Machine.freeScratch t j c w t') := by
  unfold Machine.freeScratch
  split
  · exact h
  · refine KeptRes.bind ?_ fun u a h => ?_
    · refine KeptRes.each (fun u a h => ?_) _ h
      dsimp only
      exact h.advance.storeF32 ..
    · exact h

theorem flagAll (l) : Kept s (t.flagAll l) := foldl (fun _ _ h => h.setFlags ..) _ h

theorem jobFinishReduce (j c w deal) : KeptRes s (Job.finishReduce j t c w deal) := by
  unfold Job.finishReduce
  dsimp only
  exact (KeptRes.each (fun _ _ h => h.jobEmit ..) _ h).bind fun _ _ h => h.flagAll ..

theorem jobReadScratch (j w) : KeptRes s (Job.readScratch j t w) := by
  unfold Job.readScratch
  split
  · exact h.accRes ..
  · exact h

theorem jobFinishNorm (j c w) : KeptRes s (Job.finishNorm j t c w) := by
  unfold Job.finishNorm
  dsimp only
  split
  · exact h
  · refine (h.jobReadScratch ..).bind fun u a h => ?_
    refine KeptRes.bind ?_ fun u a h => ?_
    · split
      · exact h.storeF32 ..
      · exact h
    · refine KeptRes.bind ?_ fun u a h => ?_
      · split
        · exact h.storeF32 ..
        · exact h
      · exact h.freeScratch ..

theorem jobFinishAttn (j c w cores widths) : KeptRes s (Job.finishAttn j t c w cores widths) := by
  unfold Job.finishAttn
  dsimp only
  refine ((foldl (fun _ _ h => foldl (fun _ _ h => h.jobSpillBwd ..) _ h) _ h).jobReadScratch ..).bind fun u _ h => ?_
  refine KeptRes.bind (KeptRes.each (fun u e h => ?_) _ h) fun _ _ h => h.freeScratch ..
  exact (h.jobEmit ..).bind fun _ _ h => h.setFlags ..

theorem jobFinishMuon (j c w deal) : KeptRes s (Job.finishMuon j t c w deal) := by
  unfold Job.finishMuon
  dsimp only
  refine (KeptRes.each (fun _ _ h => h.storeF32 ..) _ h).bind fun _ _ h => ?_
  exact ((h.flagAll ..).freeScratch ..).bind fun _ _ h => h.freeScratch ..

theorem jobFinish (j c w t') : KeptRes s (Job.finish j t c w t') := by
  unfold Job.finish
  split
  · exact h.jobFinishReduce ..
  · exact h.jobFinishNorm ..
  · exact h.jobFinishAttn ..
  · exact h.jobFinishMuon ..
  · exact h

theorem noteClamps (g i n) : Kept s (t.noteClamps g i n) := by
  unfold State.noteClamps
  split
  · exact h
  · split
    · exact h
    · dsimp only
      split
      · exact h.set ..
      · exact (h.set ..).informTask ..

theorem strictRes (g n strict) : KeptRes s (Machine.strictRes t g n strict) := by
  unfold Machine.strictRes
  split
  · exact h
  · split
    · exact h
    · exact h.set ..

theorem clampRes (g i n strict) {f : State → Res Unit} (hf : ∀ u, Kept s u → KeptRes s (f u)) :
    KeptRes s (Machine.clampRes t g i n strict f) :=
  (h.strictRes ..).bind fun u _ h => (hf u h).bind fun _ _ h => h.noteClamps ..

theorem taskRes (c) {r : Res Unit} {f : State → State} (hr : KeptRes s r) (hf : ∀ u, Kept s u → Kept s (f u)) :
    Kept s (t.taskRes c r f) := by
  unfold State.taskRes
  cases r with
  | ok u _ => exact hf u hr
  | fail u code => exact Kept.failCore hr ..
  | miss u va store =>
    dsimp only
    split
    · exact Kept.suspend hr ..
    · exact h
  | wait u => exact h

theorem coreDone (c t') : Kept s (t.coreDone c t') := (((h.modCore ..).discardReads ..).modCluster ..).modTask ..

theorem demandLoads (c t' w l) : KeptRes s (t.demandLoads c t' w l) := by
  unfold State.demandLoads
  dsimp only
  split
  · exact h
  · exact foldl (fun _ _ h => h.coalesceRange ..) _ h

theorem handUnits (c t') : KeptRes s (t.handUnits c t') := by
  unfold State.handUnits
  dsimp only
  split
  · exact h
  · split
    · exact h
    · split
      · exact h.accRes ..
      · exact (foldl (fun _ _ h => h.jobHandSegment ..) _ h).modTask ..

theorem runUnits (c t') : KeptRes s (t.runUnits c t') := by
  unfold State.runUnits
  dsimp only
  split
  · exact h
  · split
    · exact h
    · split
      · exact h.accRes ..
      · exact h.arrayParity ..
      · split
        · exact h.noteAccBad ..
        · refine h.clampRes _ _ _ _ fun u h => ?_
          refine (h.demandLoads ..).bind fun u a h => ?_
          refine (h.jobRunAll ..).bind fun u a h => ?_
          split
          · exact ((h.setFlags ..).jobHandHalo ..).jobFinish ..
          · exact (h.setFlags ..).jobHandHalo ..

theorem execCoreTaskEnd (c) : Ended s (Machine.execCoreTaskEnd c t) := by
  unfold Machine.execCoreTaskEnd
  split
  · exact h.next
  · dsimp only
    split
    · exact h.next
    · split
      · split
        · exact h.next
        · split
          · exact (h.goOn ..).next
          · split
            · exact (h.failCore ..).next
            · exact (h.coreDone ..).next
      · split
        · exact h.next
        · refine Kept.next ?_
          refine h.taskRes _ ?_ fun u h => ?_
          · exact h.handUnits ..
          · split
            · refine h.taskRes _ ?_ fun u h => ?_
              · exact h.runUnits ..
              · exact h.coreDone ..
            · exact h

theorem saved (c t') : Kept s (t.saved c t') := by
  unfold State.saved
  dsimp only
  split
  · exact (foldl (fun _ _ h => h.clearCore ..) _ (((h.modTask ..).clearCore ..).modCluster ..)).modTask ..
  · exact ((h.modTask ..).clearCore ..).modCluster ..

theorem execInterrupt (c) : Ended s (Machine.execInterrupt c t) := by
  unfold Machine.execInterrupt
  split
  · exact h.next
  · dsimp only
    split
    · exact h.next
    · split
      · exact h.next
      · split
        · exact (h.saved ..).next
        · split
          · exact ((h.noteAccBad ..).failCore ..).next
          · split
            next e => exact (((h.write ..).of_fst e).advance.saved ..).next
            next e => exact (((h.write ..).of_fst e).advance.suspend ..).next
            next e => exact (((((h.write ..).of_fst e).noteAcc ..).advance).failTask ..).next

theorem loadProgram (c t') : Kept s (t.loadProgram c t').1 := by
  unfold State.loadProgram
  dsimp only
  split
  · dsimp only
    exact h.modCore ..
  · exact h

theorem startCore (c t') : Kept s (t.startCore c t') := by
  unfold State.startCore
  split
  · exact h.modCore ..
  · split
    next e => exact ((h.loadProgram ..).of_fst e).modCore ..
    next e => exact ((h.loadProgram ..).of_fst e).suspend ..
    next e => exact (((h.loadProgram ..).of_fst e).noteAcc ..).failCore ..

theorem restoreCore (c t' l) : Kept s (t.restoreCore c t' l) := by
  unfold State.restoreCore
  dsimp only
  exact (h.modCore ..).modTask ..

theorem execCoreResume (c) : Ended s (Machine.execCoreResume c t) := by
  unfold Machine.execCoreResume
  split
  · exact h.next
  · dsimp only
    split
    · exact h.next
    · split
      · split
        · exact (((h.restoreCore ..).startCore ..).progress ..).next
        · exact (h.suspend ..).next
        · exact ((h.noteAcc ..).failTask ..).next
      · exact (h.startCore ..).next

/-! ## The cluster DMA engines -/

theorem dmaRes (g i x) {r : Res Unit} {f : State → State} (hr : KeptRes s r) (hf : ∀ u, Kept s u → Kept s (f u)) :
    Kept s (t.dmaRes g i x r f) := by
  unfold State.dmaRes
  cases r with
  | ok u _ => exact hf u hr
  | fail u code => exact Kept.failTask hr ..
  | miss u va store => exact Kept.suspend hr ..
  | wait u => exact h

theorem dmaWrite (j n a bs) : KeptRes s (Machine.dmaWrite t j n a bs) := by
  unfold Machine.dmaWrite
  split
  · exact h
  · split
    next e => exact (h.writeG ..).of_fst e
    next e => exact ((h.writeG ..).of_fst e).accRes ..

theorem dmaRow (j n t' r first es) : KeptRes s (Machine.dmaRow t j n t' r first es) := by
  unfold Machine.dmaRow
  refine KeptRes.bind ?_ fun u a h => ?_
  · refine KeptRes.each (fun u a h => ?_) _ h
    split
    · exact h.dmaWrite ..
    · exact h
  · exact h

theorem dmaScales (j n t' r first bs) : KeptRes s (Machine.dmaScales t j n t' r first bs) := by
  unfold Machine.dmaScales
  split
  · exact h
  · exact h.dmaWrite ..

theorem dmaCheck (j n store l) : KeptRes s (Machine.dmaCheck t j n store l) := by
  unfold Machine.dmaCheck
  split
  · exact h.accRes ..
  · exact h

theorem dmaLoad (j n l) : KeptRes s (Machine.dmaLoad t j n l) := by
  unfold Machine.dmaLoad
  refine (h.dmaCheck ..).bind fun u a h => ?_
  split
  · exact h
  · exact foldl (fun _ _ h => h.coalesceRange ..) _ h

theorem gatherRun (j n blk e q) : KeptRes s (Machine.gatherRun t j n blk e q) := by
  unfold Machine.gatherRun
  dsimp only
  exact (h.dmaLoad ..).bind fun _ _ h => (h.dmaRow ..).bind fun _ _ h => h.dmaScales ..

theorem gatherUnit (j n u) : KeptRes s (Machine.gatherUnit t j n u) := by
  unfold Machine.gatherUnit
  dsimp only
  refine (h.dmaLoad ..).bind fun u a h => ?_
  refine h.clampRes _ _ _ _ fun u h => ?_
  exact (KeptRes.each (fun _ _ h => h.gatherRun ..) _ h).bind fun _ _ h => h

theorem scatterRun (j n es q) : KeptRes s (Machine.scatterRun t j n es q) := by
  unfold Machine.scatterRun
  dsimp only
  split
  · exact h
  · split
    · exact (h.dmaRow ..).bind fun _ _ h => (h.dmaScales ..).bind fun _ _ h => h
    · exact (h.dmaRow ..).bind fun _ _ h => h

theorem scatterUnit (j n core es) : KeptRes s (Machine.scatterUnit t j n core es) := by
  unfold Machine.scatterUnit
  dsimp only
  refine (h.dmaLoad ..).bind fun u a h => ?_
  refine h.clampRes _ _ _ _ fun u h => ?_
  refine (h.dmaLoad ..).bind fun _ _ h => (h.dmaCheck ..).bind fun _ _ h => ?_
  exact (KeptRes.each (fun _ _ h => h.scatterRun ..) _ h).bind fun _ _ h => h.setFlags ..

theorem permuteRow (j n src r) : KeptRes s (Machine.permuteRow t j n src r) := by
  unfold Machine.permuteRow
  dsimp only
  refine KeptRes.bind ?_ fun u a h => ?_
  · split
    · exact h
    · exact h.dmaLoad ..
  · exact (h.dmaRow ..).bind fun _ _ h => h.dmaScales ..

theorem permuteRows (j n src rows) : KeptRes s (Machine.permuteRows t j n src rows) := by
  unfold Machine.permuteRows
  exact (KeptRes.each (fun _ _ h => h.permuteRow ..) _ h).bind fun _ _ h => h

theorem permuteUnit (j n u) : KeptRes s (Machine.permuteUnit t j n u) := by
  unfold Machine.permuteUnit
  dsimp only
  split
  · split
    · exact (h.dmaLoad ..).bind fun _ _ h => h.put ..
    · exact h.permuteRows ..
  · exact h.permuteRows ..

theorem execClusterDmaTransfer (n g i u) : Ended s (Machine.execClusterDmaTransfer n g i u t) := by
  unfold Machine.execClusterDmaTransfer
  dsimp only
  split
  · exact h.next
  · refine Ended.branch ?_ ?_
    · exact h.next
    · refine Kept.next ?_
      refine h.dmaRes _ _ _ ?_ fun u h => ?_
      · split
        · exact h
        · split
          · exact h.gatherUnit ..
          · exact h.scatterUnit ..
          · exact h.permuteUnit ..
      · exact h.modTask ..

theorem stageChunk (n ch slot x data) : Kept s (t.stageChunk n ch slot x data) := (h.put ..).modCluster ..

theorem execBlanketFetch (n ch) : Ended s (Machine.execBlanketFetch n ch t) := by
  unfold Machine.execBlanketFetch
  dsimp only
  split
  · exact h.next
  · split
    · exact h.next
    · split
      · exact h.next
      · refine Kept.next ?_
        refine h.dmaRes _ _ _ ?_ fun u h => ?_
        · exact h.dmaLoad ..
        · exact h.stageChunk ..

theorem stashWrite (j a bs) : KeptRes s (Machine.stashWrite t j a bs) := by
  unfold Machine.stashWrite
  split
  · split
    · exact h.accRes ..
    · exact h.put ..
  · split
    · exact h
    · split
      next e => exact (h.write ..).of_fst e
      next e => exact ((h.write ..).of_fst e).accRes ..

theorem execStashCopy (g i) : Ended s (Machine.execStashCopy g i t) := by
  unfold Machine.execStashCopy
  dsimp only
  split
  · split
    · exact h.next
    · refine Kept.next ?_
      refine h.dmaRes _ _ _ ?_ fun u h => ?_
      · split
        · exact h.accRes ..
        · exact (KeptRes.each (fun _ _ h => h.stashWrite ..) _ h).bind fun _ _ h => h
      · exact h.modGraph ..
  · exact h.next

/-! ## Rambler -/

theorem stopRamb (c r) : Kept s (t.stopRamb c r) := h.modRamb ..

theorem rambParts (c w l f) : Kept s (t.rambParts c w l f) := by
  unfold State.rambParts
  dsimp only
  split <;> exact (h.prefetchAll ..).modRamb ..

theorem rambReplay (c w p rest) : Kept s (t.rambReplay c w p rest) := by
  unfold State.rambReplay
  dsimp only
  split
  · exact h.rambParts ..
  · exact h.modRamb ..

theorem rambStep (c w) : Kept s (t.rambStep c w) := by
  unfold State.rambStep
  dsimp only
  split
  · exact h.stopRamb ..
  · split
    · exact h.stopRamb ..
    · exact h.stopRamb ..
    · exact h.modRamb ..
    · exact h.modRamb ..
    · split
      · exact h.modRamb ..
      · exact h.stopRamb ..
    · split
      · split
        · exact h.modRamb ..
        · exact h.stopRamb ..
      · exact h.stopRamb ..
    · split
      · exact h.modRamb ..
      · split
        · exact h.modRamb ..
        · split
          · exact h.stopRamb ..
          · exact h.rambParts ..
    · exact h.modRamb ..
    · exact h.modRamb ..

theorem rambMapped (c t' w) : Kept s (t.rambMapped c t' w) := by
  unfold State.rambMapped
  dsimp only
  split
  · exact h.stopRamb ..
  · split
    · exact h.stopRamb ..
    · exact h.rambParts ..

theorem rambRun (c t' w n) : Kept s (t.rambRun c t' w n) := by
  induction n generalizing t with
  | zero => exact h
  | succ n ih =>
    unfold State.rambRun
    dsimp only
    split
    · refine branch ?_ ?_
      · refine ih ?_
        split
        · exact h.rambReplay ..
        · split
          · exact h.rambStep ..
          · exact h.rambMapped ..
      · split
        · exact h.rambReplay ..
        · split
          · exact h.rambStep ..
          · exact h.rambMapped ..
    · exact h

theorem execRamblerFetch (c steps) : Ended s (Machine.execRamblerFetch c steps t) := by
  unfold Machine.execRamblerFetch
  split
  · exact h.next
  · split
    · exact (h.issueWindow ..).next
    · split
      · exact (h.issueWindow ..).next
      · dsimp only
        exact ((((branch h (h.modCluster ..)).rambRun ..).issueWindow ..).goOn ..).next

theorem answerMerged (n g i pu data) : Kept s (t.answerMerged n g i pu data) := by
  unfold State.answerMerged
  refine foldl (fun u a h => ?_) _ h
  dsimp only
  split
  · exact h.modRamb ..
  · exact h

theorem loadReturns (c i q bad) : Kept s (t.loadReturns c i q bad) := by
  unfold State.loadReturns
  dsimp only
  split
  · exact h.modRamb ..
  · split
    · split
      · exact h.modRamb ..
      · exact (h.modRamb ..).modRamb ..
    · refine branch ?_ ?_
      · split
        · refine answerMerged ?_ ..
          split
          · exact (branch ((h.modRamb ..).set ..) (h.modRamb ..)).noteAcc ..
          · split
            · exact (h.modRamb ..).set ..
            · exact h.modRamb ..
        · refine dropFetch ?_ ..
          refine answerMerged ?_ ..
          split
          · exact (branch ((h.modRamb ..).set ..) (h.modRamb ..)).noteAcc ..
          · split
            · exact (h.modRamb ..).set ..
            · exact h.modRamb ..
      · split
        · refine branch ?_ ?_
          · exact ((branch ((h.modRamb ..).set ..) (h.modRamb ..)).answerMerged ..).holdUnit ..
          · exact (branch ((h.modRamb ..).set ..) (h.modRamb ..)).answerMerged ..
        · refine modRamb ?_ ..
          refine branch ?_ ?_
          · exact ((branch ((h.modRamb ..).set ..) (h.modRamb ..)).answerMerged ..).holdUnit ..
          · exact (branch ((h.modRamb ..).set ..) (h.modRamb ..)).answerMerged ..

theorem storeReturns (c i q) : Kept s (t.storeReturns c i q) := by
  unfold State.storeReturns
  split
  · exact ((h.noteAcc ..).acked ..).failCore ..
  · exact (h.landStore ..).acked ..

theorem queuesSettled : Kept s t.queuesSettled := by
  unfold State.queuesSettled
  dsimp only
  split
  · exact h.settleQueues
  · exact h.settleQueues.progressAll

theorem execMemoryResponse (c tag bad) : Ended s (Machine.execMemoryResponse c tag bad t) := by
  unfold Machine.execMemoryResponse
  split
  · exact h.next
  · split
    · exact h.next
    · split
      · exact h.next
      · split
        · exact ((((h.loadReturns ..).queuesSettled).issueWindow ..).goOn ..).next
        · split
          · exact h.next
          · exact ((h.storeReturns ..).queuesSettled).next

end

end Kept

end Sys2Proof.Safety
end

section
/-! SUPPORT. What Trailhead and the parameter update keep. -/

namespace Sys2Proof.Safety

open Machine

namespace Kept

section
variable {s t : State} (h : Kept s t)
include h

/-! ## Trailhead -/

theorem own (x g) : Kept s (t.own x g) := (foldl (fun _ _ h => branch (h.zeroRange ..) h) _ h).set ..

theorem takeAreas (g x) {u} (e : t.takeAreas g x = .ok (some u)) : Kept s u := by
  unfold State.takeAreas at e
  split at e
  · cases e
    exact h
  · obtain ⟨a, _, e⟩ := Ld.of_bind e
    split at e
    · cases e
      exact h
    · dsimp only at e
      split at e
      · split at e
        · cases e
        · cases e
          exact h.setGraph ..
      · cases e

theorem keepLoaded (g i l) : Kept s (t.keepLoaded g i l) := h.modTask ..

theorem reserve (g i m) : Kept s (t.reserve g i m).1 := by
  unfold State.reserve
  split
  · exact h
  · dsimp only
    split
    · split
      · dsimp only
        exact h.setGraph ..
      · split
        · dsimp only
          exact ((h.setGraph ..).set ..).informTask ..
        · exact h
    · exact h

theorem placeCore (g i x step hand entry c) : Kept s (t.placeCore g i x step hand entry c) := h.modCore ..

theorem startCores (cores) : Kept s (t.startCores cores) := by
  unfold State.startCores
  refine foldl (fun u a h => ?_) _ h
  split
  · split
    · exact h
    · exact h.startCore ..
  · exact h

theorem startTask (g i x cores l staging) : Kept s (t.startTask g i x cores l staging) := by
  unfold State.startTask
  dsimp only
  refine startCores ?_ ..
  refine foldl (fun u a h => ?_) _ ?_
  · exact h.placeCore ..
  · refine modTask ?_ ..
    refine modTask ?_ ..
    refine foldl (fun u a h => ?_) _ ?_
    · exact h.own ..
    · split
      · exact h.modCluster ..
      · exact h

theorem noteDispatch (x g i) : Kept s (t.noteDispatch x g i) := h.set ..

theorem updateChecks (x) {u} (e : t.updateChecks x = .ok u) : Kept s u := by
  unfold State.updateChecks at e
  split at e
  · cases e
    exact h
  · exact h.openUpdates _ e

theorem loadFails (g i x e) : Kept s (t.loadFails g i x e) := by
  unfold State.loadFails
  split
  · exact h.failTask ..
  · exact h.suspend ..
  · exact (h.noteAcc ..).failTask ..

theorem tryComplete (g i) : Kept s (t.tryComplete g i) := by
  unfold State.tryComplete
  dsimp only
  split
  · exact h
  · split
    · exact h
    · split
      · exact h.suspend ..
      · split
        · exact h
        · split
          · exact h.suspend ..
          · exact h.completeTask ..

theorem runNull (g i l) : Kept s (t.runNull g i l) := (h.modTask ..).tryComplete ..

theorem tryStart (g i x l) {v} (e : t.tryStart g i x l = some v) : Kept s v := by
  unfold State.tryStart at e
  split at e
  · cases e
  · split at e
    · cases e
      exact h.loadFails ..
    next u eu =>
      have h := h.updateChecks _ eu
      dsimp only at e
      split at e
      · cases e
        exact (h.reserve ..).failTask ..
      · cases e
        exact branch (((h.reserve ..).noteDispatch ..).runNull ..) (((h.reserve ..).noteDispatch ..).startTask ..)

theorem tryResume (g i x) {v} (e : t.tryResume g i x = some v) : Kept s v := by
  unfold State.tryResume at e
  dsimp only at e
  split at e
  · cases e
  · split at e
    · cases e
      exact (h.noteDispatch ..).failTask ..
    · cases e
      refine foldl (fun _ _ h => ?_) _ ((foldl (fun _ _ h => h.own ..) _ (h.noteDispatch ..)).modTask ..)
      exact branch (h.placeCore ..) ((h.placeCore ..).modCore ..)

theorem trySpared (g i x) : Kept s (t.trySpared g i x).1 := by
  unfold State.trySpared
  split
  · dsimp only
    exact h.loadFails ..
  · dsimp only
    exact h.runNull ..

theorem tryReady (g i x) : Kept s (t.tryReady g i x).1 := by
  unfold State.tryReady
  dsimp only
  split
  · exact h.trySpared ..
  · rcases ea : t.takeAreas g x with a | _ | u
    · dsimp only
      split
      · exact h.loadFails ..
      · exact h.loadFails ..
      next e => cases e
      next e => cases e
    · dsimp only
      split
      · exact h.loadFails ..
      next e => cases e
      · exact h.keepLoaded ..
      next e => cases e
    · dsimp only
      split
      · exact h.loadFails ..
      next e => cases e
      next e => cases e
      next e =>
        cases e
        split
        next e => exact (h.takeAreas _ _ ea).tryStart _ _ _ _ e
        · exact h.keepLoaded ..

theorem tryCand (c) : Kept s (t.tryCand c).1 := by
  unfold State.tryCand
  split
  · split
    · split
      next e => exact h.tryResume _ _ _ e
      · exact h
    · exact h.tryReady ..
  · exact h

theorem tryAll (l) : Kept s (t.tryAll l).1 := by
  induction l generalizing t with
  | nil => exact h
  | cons a l ih =>
    unfold State.tryAll
    split
    next e => exact (h.tryCand ..).of_fst e
    next e => exact ih ((h.tryCand ..).of_fst e)

theorem tryTurns (l) : Kept s (t.tryTurns l).1 := by
  induction l generalizing t with
  | nil => exact h
  | cons a l ih =>
    unfold State.tryTurns
    split
    next e => exact (h.tryAll ..).of_fst e
    next e => exact ih ((h.tryAll ..).of_fst e)

theorem execTaskDispatch : Ended s (Machine.execTaskDispatch t) := by
  unfold Machine.execTaskDispatch
  split
  · exact h.next
  · split
    · exact (h.suspend ..).next
    · exact (h.tryTurns ..).next

theorem execTaskCoreReserve (x) : Ended s (Machine.execTaskCoreReserve x t) := by
  unfold Machine.execTaskCoreReserve
  split
  · split
    · exact h.next
    · exact (h.set ..).next
  · exact h.next

theorem askInterrupt (g i) : Kept s (t.askInterrupt g i) := h.modTask ..

theorem preempt (want need n l) : Kept s (t.preempt want need n l) := by
  induction l generalizing t want need n with
  | nil => exact h
  | cons a l ih =>
    unfold State.preempt
    split
    · exact h
    · dsimp only
      split
      · exact ih h ..
      · exact ih (h.askInterrupt ..) ..

theorem execPreempt (x) : Ended s (Machine.execPreempt x t) := by
  unfold Machine.execPreempt
  dsimp only
  split
  · exact h.next
  · split
    · exact h.next
    · exact (h.preempt ..).next

theorem execTaskComplete (g i) : Ended s (Machine.execTaskComplete g i t) := by
  unfold Machine.execTaskComplete
  split
  · exact h.next
  · exact (h.tryComplete ..).next

theorem deliver (a) : Kept s (t.deliver a) := by
  unfold State.deliver
  split
  · exact h.applyAdd ..
  · exact h.addFailed ..
  · exact h.addFailed ..
  · split
    next e => exact (h.sendAdd ..).of_fst e
    next e => exact ((h.sendAdd ..).of_fst e).addFailed ..

theorem execWaymarkCountAdd (n) : Ended s (Machine.execWaymarkCountAdd n t) := by
  unfold Machine.execWaymarkCountAdd
  split
  · exact h.next
  · split
    · exact h.next
    · split
      · exact ((h.modWmk ..).deliver ..).next
      · exact h.next

theorem waitRefused (w) : Kept s (t.waitRefused w) := by
  unfold State.waitRefused
  dsimp only
  split
  · exact (h.modWmk ..).failCore ..
  · exact (h.modWmk ..).failTask ..
  · exact h

theorem execWatchPoll (n remote) : Ended s (Machine.execWatchPoll n remote t) := by
  unfold Machine.execWatchPoll
  split
  · exact h.next
  · split
    · exact h.next
    · split
      · exact h.next
      · exact (h.waitRefused ..).next
      · exact (h.waitRefused ..).next
      · exact (branch (h.releaseWait ..) h).next
      · exact (branch (h.releaseWait ..) h).next

/-! ## The parameter update -/

theorem sendChunk (x r k bs) : Kept s (t.sendChunk x r k bs) := foldl (fun _ _ h => h.request ..) _ h

theorem execContributionSend (x a) : Ended s (Machine.execContributionSend x a t) := by
  unfold Machine.execContributionSend
  split
  · exact h.next
  · dsimp only
    split
    · exact h.next
    · split
      · exact (h.armRecord ..).next
      · refine Kept.next ?_
        refine h.dieWork _ _ _ _ fun u h => ?_
        split
        · exact ((((h.modRec ..).advance).set ..).dieAdd ..).armRecord ..
        · exact (((h.modRec ..).advance).sendChunk ..).armRecord ..

theorem discardRound (x a) : Kept s (t.discardRound x a) := by
  unfold State.discardRound
  split
  · exact h
  · dsimp only
    split
    · exact h.dieAdd ..
    · exact ((h.dieAdd ..).setRec ..).publish ..

theorem execContributionTake (x a) : Ended s (Machine.execContributionTake x a t) := by
  unfold Machine.execContributionTake
  split
  · exact h.next
  · dsimp only
    split
    · exact h.next
    · split
      · exact (h.armRecord ..).next
      · split
        · exact (((h.modRec ..).discardRound ..).armRecord ..).next
        · refine Kept.next ?_
          refine h.dieWork _ _ _ _ fun u h => ?_
          exact (((foldl (fun _ _ h => h.putWords ..) _ h).modRec ..).dieAdd ..).armRecord ..

theorem updCompute (u) : Kept s (Upd.compute u t) := by
  unfold Upd.compute
  dsimp only
  split
  · exact h.modRec ..
  · split
    · refine dieAdd ?_ ..
      refine modRec ?_ ..
      split
      · exact (foldl (fun _ _ h => (h.putRow ..).updWriteBank ..) _ (h.updCopySlot ..)).putG ..
      · exact (foldl (fun _ _ h => (h.putRow ..).updWriteBank ..) _ h).putG ..
    · refine modRec ?_ ..
      split
      · exact (foldl (fun _ _ h => (h.updWriteRow ..).updWriteSlot ..) _ (h.updCopySlot ..)).putG ..
      · exact (foldl (fun _ _ h => (h.updWriteRow ..).updWriteSlot ..) _ h).putG ..

theorem execSlotAcquire (x a) : Ended s (Machine.execSlotAcquire x a t) := by
  unfold Machine.execSlotAcquire
  split
  · exact h.next
  · dsimp only
    split
    · exact h.next
    · split
      · exact h.next
      · split
        · exact (h.failRecord ..).next
        · split
          · exact (h.armRecord ..).next
          · refine Kept.next ?_
            exact ((h.setSlot ..).modRec ..).dieWork _ _ _ _ fun _ h => (h.updCompute ..).armRecord ..

theorem updFinishC (u) : Kept s (Upd.finishC u t) :=
  ((foldl (fun _ _ h => (h.putWords ..).updWriteSlot ..) _ h).modRec ..).armRecord ..

theorem execPhaseC (x a) : Ended s (Machine.execPhaseC x a t) := by
  unfold Machine.execPhaseC
  split
  · exact h.next
  · split
    · exact h.next
    · split
      · exact (h.armRecord ..).next
      · split
        · exact h.next
        · dsimp only
          refine Kept.next ?_
          exact h.dieWork _ _ _ _ fun _ h => h.updFinishC ..

theorem judge (x group v) : Kept s (t.judge x group v) := by
  unfold State.judge
  dsimp only
  split
  · exact (foldl (fun _ _ h => h.modRec ..) _ h).event ..
  · exact foldl (fun _ _ h => h.modRec ..) _ h

theorem thermosRef (x a) : Kept s (t.thermosRef x a) := by
  unfold State.thermosRef
  split
  · split
    · exact h
    · dsimp only
      split
      · exact (h.poke ..).modRec ..
      · exact h
  · exact h

theorem updCommit (u held) : Kept s (Upd.commit u t held) := by
  unfold Upd.commit
  dsimp only
  refine set ?_ ..
  refine armRecord ?_ ..
  refine modRec ?_ ..
  refine publish ?_ ..
  refine branch ?_ ?_
  · refine updApplyJournal ?_ ..
    refine thermosRef ?_ ..
    exact ((branch (branch ((h.updCopySlot ..).putG ..) ((h.updCopySlot ..).copyG ..)) h).setSlot ..).countWaiting ..
  · refine thermosRef ?_ ..
    exact ((branch (branch ((h.updCopySlot ..).putG ..) ((h.updCopySlot ..).copyG ..)) h).setSlot ..).countWaiting ..

theorem applyWaiting (x) : Kept s (t.applyWaiting x) := by
  unfold State.applyWaiting
  refine foldl (fun u a h => ?_) _ h
  dsimp only
  exact h.dieWork _ _ _ _ fun _ h => (h.updApplyJournal ..).modRec ..

theorem execUpdateCommit (x a) : Ended s (Machine.execUpdateCommit x a t) := by
  unfold Machine.execUpdateCommit
  split
  · exact h.next
  · dsimp only
    split
    · exact h.next
    · split
      · exact (branch (h.judge ..) h).next
      · refine Kept.next ?_
        exact (branch (h.judge ..) h).dieWork _ _ _ _ fun _ h => h.updCommit ..

theorem startPull (u p) : Kept s (t.startPull u p) := by
  unfold State.startPull
  dsimp only
  refine branch ?_ ?_
  · refine foldl_fst (fun r a h => ?_) _ ((h.setSlot ..).modRec ..)
    split
    · exact h
    · exact h.request ..
  · refine failRecord ?_ ..
    refine foldl_fst (fun r a h => ?_) _ ((h.setSlot ..).modRec ..)
    split
    · exact h
    · exact h.request ..

theorem endPull (x a r) : Kept s (t.endPull x a r) := ((h.modRec ..).dieAdd ..).armRecord ..

theorem execVersionPull (x a p) : Ended s (Machine.execVersionPull x a p t) := by
  unfold Machine.execVersionPull
  split
  · exact h.next
  · split
    · exact h.next
    · split
      · split
        · exact h.next
        · exact (((h.setSlot ..).countWaiting ..).endPull ..).next
      · dsimp only
        split
        · exact (h.armRecord ..).next
        · split
          · exact (h.endPull ..).next
          · split
            · exact (h.armRecord ..).next
            · exact (h.startPull ..).next

theorem markStalled (x a) : Kept s (t.markStalled x a).1 := by
  unfold State.markStalled
  refine foldl_fst (fun r a h => ?_) _ h
  split
  · exact h
  · refine foldl_fst (fun r a h => ?_) _ h
    split
    · split
      · dsimp only
        exact h.modTask ..
      · exact h
    · exact h

theorem execVersionStallLimit (x record) : Ended s (Machine.execVersionStallLimit x record t) := by
  unfold Machine.execVersionStallLimit
  dsimp only
  refine Ended.branch ?_ ?_
  · exact h.next
  · exact ((branch ((h.markStalled ..).modRec ..) (h.markStalled ..)).event ..).next

end

end Kept

end Sys2Proof.Safety
end

section
/-! SUPPORT. What the command processor and the Nunex ports keep. -/

namespace Sys2Proof.Safety

open Machine

namespace Kept

section
variable {s t : State} (h : Kept s t)
include h

/-! ## Commands -/

theorem acts (h' op spell) : Kept s (t.acts h' op spell) := h.modCr ..

theorem serve (c op spell) {f : State → State} (hf : ∀ u, Kept s u → Kept s (f u)) : Ended s (t.serve c op spell f) := by
  unfold State.serve
  split
  · exact h.next
  · split
    · exact (hf _ h).next
    · exact (h.finish ..).next

theorem command (c op spell) {f : State → State} (hf : ∀ u, Kept s u → Kept s (f u)) : Ended s (t.command c op spell f) :=
  h.serve _ _ _ fun _ h => hf _ (h.acts ..)

theorem execCommandDoorbell (f r v) : Ended s (Machine.execCommandDoorbell f r v t) := by
  unfold Machine.execCommandDoorbell
  dsimp only
  split
  · exact h.next
  · split
    · exact (h.modCr ..).next
    · exact (h.badAccess ..).next

theorem execCompletionDoorbell (f r v) : Ended s (Machine.execCompletionDoorbell f r v t) := by
  unfold Machine.execCompletionDoorbell
  dsimp only
  split
  · exact h.next
  · split
    · exact ((h.modCq ..).drainCq ..).next
    · exact (h.badAccess ..).next

theorem execMsixDelay (f r) : Ended s (Machine.execMsixDelay f r t) := by
  unfold Machine.execMsixDelay
  split
  · exact h.next
  · exact (h.signal ..).next

theorem execCommandPacket (f r host) : Ended s (Machine.execCommandPacket f r host t) := by
  unfold Machine.execCommandPacket
  dsimp only
  split
  · exact h.next
  · split
    · exact ((h.modCr ..).post ..).next
    · split
      · exact h.next
      · split
        · exact (((h.modCr ..).modCr ..).modCtx ..).next
        · exact ((h.modCr ..).post ..).next

/-! ## Links -/

theorem logPort (p) : Kept s (t.logPort p) := h.log ..
theorem portChange (kind p) : Kept s (t.portChange kind p) := (h.logPort ..).fabricChange ..
theorem takeDown (p) : Kept s (t.takeDown p) := (h.modPort ..).portChange ..

theorem movePacket (p v bs) : Kept s (t.movePacket p v bs) := by
  unfold State.movePacket
  split
  · dsimp only
    exact (h.modPort ..).set ..
  · exact h.modPort ..

theorem moveWaiting (p) : Kept s (t.moveWaiting p) := by
  unfold State.moveWaiting
  refine foldl (fun u a h => ?_) _ h
  dsimp only
  exact foldl (fun _ _ h => h.movePacket ..) _ (h.modPort ..)

theorem execLaneFail (p l) : Ended s (Machine.execLaneFail p l t) := by
  unfold Machine.execLaneFail
  dsimp only
  split
  · exact h.next
  · split
    · exact ((h.modPort ..).takeDown ..).next
    · split
      · exact (((h.modPort ..).modPort ..).logPort ..).next
      · split
        · exact ((((h.modPort ..).modPort ..).moveWaiting ..).portChange ..).next
        · exact (((h.modPort ..).modPort ..).portChange ..).next

theorem replayFlits (p) : Kept s (t.replayFlits p) := (h.modPort ..).emit ..

theorem sendNak (p) : Kept s (t.sendNak p) := by
  unfold State.sendNak
  dsimp only
  split
  · exact h
  · exact h.modPort ..

theorem execFlitAckTimeout (p) : Ended s (Machine.execFlitAckTimeout p t) := by
  unfold Machine.execFlitAckTimeout
  split
  · exact h.next
  · exact (h.replayFlits ..).next

theorem execPortRetrain (p) : Ended s (Machine.execPortRetrain p t) := by
  unfold Machine.execPortRetrain
  dsimp only
  split
  · exact h.next
  · split
    · exact (h.modPort ..).next
    · split
      · exact ((h.modPort ..).logPort ..).next
      · exact h.next

theorem execPortDown (p) : Ended s (Machine.execPortDown p t) := by
  unfold Machine.execPortDown
  split
  · exact h.next
  · exact (h.takeDown ..).next

theorem execPortRetrained (p lane3) : Ended s (Machine.execPortRetrained p lane3 t) := by
  unfold Machine.execPortRetrained
  dsimp only
  split
  · exact h.next
  · refine (modPort (branch ?_ (modPort (replayFlits ?_ ..) ..)) ..).next <;>
      exact branch ((h.modPort ..).portChange ..) ((h.modPort ..).logPort ..)

end

end Kept

end Sys2Proof.Safety
end

section
/-! SUPPORT. What the fabric keeps. -/

namespace Sys2Proof.Safety

open Machine

namespace Kept

section
variable {s t : State} (h : Kept s t)
include h

theorem setStream' (n x) : Kept s (t.setStream' n x) := by
  unfold State.setStream'
  exact h.modEngine ..

theorem modStream (h' f) : Kept s (t.modStream h' f) := by
  unfold State.modStream
  split
  · exact h.setStream' ..
  · exact h

theorem ingestEvent (x h' code n) : Kept s (t.ingestEvent x h' code n) := h.event ..
theorem orphanReads (h') : Kept s (t.orphanReads h') := h.set ..

theorem stopStream (h' code) : Kept s (t.stopStream h' code) := by
  unfold State.stopStream
  split
  · split
    · exact h
    · exact ((h.orphanReads ..).setStream' ..).ingestEvent ..
  · exact h

theorem answerFar (c key mask data) : Kept s (t.answerFar c key mask data) := by
  unfold State.answerFar
  split
  · exact h
  · refine foldl (fun u a h => ?_) _ h
    dsimp only
    split
    · exact (h.modRamb ..).goOn ..
    · exact h

theorem arriveFar (o c key data) : Kept s (t.arriveFar o c key data) := by
  unfold State.arriveFar
  split
  · exact h
  · dsimp only
    exact (((branch h (h.hold ..)).modRamb ..).answerFar ..).goOn ..

theorem coreOpFails (o c key code) : Kept s (t.coreOpFails o c key code) := by
  unfold State.coreOpFails
  split
  · dsimp only
    split
    · exact ((h.answerFar ..).dropFetch ..).goOn ..
    · exact (h.answerFar ..).failCore ..
  · split <;> exact h.failCore ..

theorem answer (p code data) : Kept s (t.answer p code data).1 := h.build ..

theorem respondLate (p code) : Kept s (t.respondLate p code) := by
  unfold State.respondLate
  dsimp only
  exact ((h.answer ..).set ..).transmit ..

theorem flightFails (x t') : Kept s (t.flightFails x t') := h.modCtx ..

theorem issuerFails (b code) : Kept s (t.issuerFails b code) := by
  unfold State.issuerFails
  split
  · split
    · exact h.failTask ..
    · exact h
  · exact h.failRecord ..
  · exact h.flightFails ..

theorem copyOver (b code) : Kept s (t.copyOver b code) := by
  unfold State.copyOver
  dsimp only
  split
  · exact h.emit ..
  · exact (h.emit ..).issuerFails ..

theorem copyFailed (i code) : Kept s (t.copyFailed i code) := by
  unfold State.copyFailed
  split
  · exact h.set ..
  · exact h

theorem copyEnd (i) : Kept s (t.copyEnd i) := by
  unfold State.copyEnd
  split
  · split
    · exact h
    · exact (h.set ..).copyOver ..
  · exact h

theorem opFails (o code) : Kept s (t.opFails o code) := by
  unfold State.opFails
  split
  · exact h.coreOpFails ..
  · exact (h.answerFar ..).goOn ..
  · exact h.goOn ..
  · split
    · exact h.failTask ..
    · exact h
  · exact h.failRecord ..
  · exact h.addFailed ..
  · exact (h.set ..).respondLate ..
  · exact h.flightFails ..
  · exact (h.copyFailed ..).copyEnd ..
  · split
    · exact ((h.graphFail ..).settle ..).unspill
    · exact h
  · exact h.stopStream ..
  · exact h

theorem opDone (o data) : Kept s (t.opDone o data) := by
  unfold State.opDone
  split
  · split
    · exact h.arriveFar ..
    · split
      · exact h.acked ..
      · exact h
  · exact (h.answerFar ..).goOn ..
  · exact h.goOn ..
  · split
    · exact h
    · exact h.respondLate ..
  · exact h.copyEnd ..
  · exact h.modStream ..
  · exact h

theorem tryLeave : Kept s t.tryLeave := by
  unfold State.tryLeave
  split
  · exact h
  · split
    · exact h
    · dsimp only
      exact ((h.sendManager ..).set ..).finish ..

theorem failOps (sel code) : Kept s (t.failOps sel code) := by
  unfold State.failOps
  dsimp only
  exact (((foldl (fun _ _ h => h.opFails ..) _ (h.set ..)).sendWaiting ..).sendWaiting ..).tryLeave

theorem remoteWrite (p data) : Kept s (t.remoteWrite p data).1 := by
  unfold State.remoteWrite
  split
  · exact h
  · split
    · dsimp only
      split
      · dsimp only
        exact h.set ..
      · exact h
    · dsimp only
      split
      next e => exact (h.write ..).of_fst e
      next e =>
        have h := (h.write ..).of_fst e
        dsimp only
        exact h.noteAcc ..

theorem remoteRead' (p n) : Kept s (t.remoteRead' p n).1 := by
  unfold State.remoteRead'
  split
  · exact h
  · dsimp only
    split
    · exact h
    · split
      · exact h
      · dsimp only
        exact h.noteAcc ..
      · dsimp only
        split
        · exact h
        · exact h.noteAcc ..

theorem remoteAdd (ref inc) : Kept s (t.remoteAdd ref inc).1 := by
  unfold State.remoteAdd
  split
  · exact h
  · dsimp only
    split
    · split
      · dsimp only
        split
        · exact h
        · exact h.applyAdd ..
      · exact h
    · exact h

theorem pulled (p) : Kept s (t.pulled p).1 := by
  unfold State.pulled
  dsimp only
  split
  · dsimp only
    exact h.remoteRead' ..
  · split
    · dsimp only
      exact h.remoteRead' ..
    · split
      · dsimp only
        refine foldl_fst (fun r a h => ?_) _ (h.remoteRead' ..)
        split
        · exact h
        · exact h.request ..
      · split
        · dsimp only
          refine foldl_fst (fun r a h => ?_) _ (h.remoteRead' ..)
          split
          · exact h
          · exact h.request ..
        · dsimp only
          refine foldl_fst (fun r a h => ?_) _ (h.remoteRead' ..)
          split
          · exact h
          · exact h.request ..

theorem place (p) : Kept s (t.place p).1 := by
  unfold State.place
  split
  · dsimp only
    exact h.remoteRead' ..
  · dsimp only
    split
    · split
      · split
        · exact h
        · dsimp only
          exact h.remoteAdd ..
      · split
        · exact h
        · dsimp only
          exact h.remoteAdd ..
    · split
      · dsimp only
        exact h.remoteWrite ..
      · dsimp only
        exact (h.remoteWrite ..).remoteAdd ..
  · dsimp only
    exact h.remoteAdd ..
  · exact h.pulled ..
  · dsimp only
    exact h.set ..
  · dsimp only
    exact h.remoteWrite ..

theorem placeAnswer (p q) : Kept s (t.placeAnswer p q).1 := by
  unfold State.placeAnswer
  dsimp only
  split
  · dsimp only
    split
    · exact h
    · exact h.place ..
  · dsimp only
    refine transmit ?_ ..
    refine answer ?_ ..
    split
    · exact h
    · exact h.place ..

theorem placeHeld (q n) : Kept s (t.placeHeld q n).1 := by
  induction n generalizing t q with
  | zero => exact h
  | succ n ih =>
    unfold State.placeHeld
    split
    · dsimp only
      exact ih (h.placeAnswer ..) ..
    · exact h

theorem dropPacket (die) : Kept s (t.dropPacket die) := h.set ..
theorem setStream (q) : Kept s (t.setStream q) := h.set ..

theorem arrive (p) : Kept s (t.arrive p) := by
  unfold State.arrive
  split
  · exact h
  · dsimp only
    split
    · exact (((h.set ..).placeAnswer ..).placeHeld ..).setStream ..
    · split
      · split
        · exact (h.set ..).transmit ..
        · exact h.set ..
      · split
        · exact h.set ..
        · refine branch ?_ ?_
          · exact (h.set ..).setStream ..
          · exact (((h.set ..).dropPacket ..).build ..).transmit ..

theorem receive (op p) {f : State → State} (hf : ∀ u, Kept s u → Kept s (f u)) : Ended s (t.receive op p f) := by
  unfold State.receive
  split
  · exact h.next
  · split
    · exact (h.dropPacket ..).next
    · split
      · exact h.next
      · exact (hf _ h).next

theorem takeResponse (p) : Kept s (t.takeResponse p) := by
  unfold State.takeResponse
  split
  · exact h
  · dsimp only
    exact (branch ((h.endOp ..).opDone ..) ((h.endOp ..).opFails ..)).tryLeave

theorem takeNak (p) : Kept s (t.takeNak p) := by
  unfold State.takeNak
  split
  · exact h.transmit ..
  · exact h

theorem execRead (p) : Ended s (Machine.execRead p t) := h.receive _ _ fun _ h => h.arrive ..
theorem execWrite (p) : Ended s (Machine.execWrite p t) := h.receive _ _ fun _ h => h.arrive ..
theorem execWriteSignal (p) : Ended s (Machine.execWriteSignal p t) := h.receive _ _ fun _ h => h.arrive ..
theorem execWaymarkAdd (p) : Ended s (Machine.execWaymarkAdd p t) := h.receive _ _ fun _ h => h.arrive ..
theorem execBulkPull (p) : Ended s (Machine.execBulkPull p t) := h.receive _ _ fun _ h => h.arrive ..
theorem execBulkWrite (p) : Ended s (Machine.execBulkWrite p t) := h.receive _ _ fun _ h => h.arrive ..
theorem execResponse (p) : Ended s (Machine.execResponse p t) := h.receive _ _ fun _ h => h.takeResponse ..
theorem execE2eNak (p) : Ended s (Machine.execE2eNak p t) := h.receive _ _ fun _ h => h.takeNak ..

theorem packetIn (p) : Kept s (t.packetIn p) := by
  unfold State.packetIn
  split
  · exact h.dropPacket ..
  · split
    · exact h.takeResponse ..
    · exact h.takeNak ..
    · exact h.arrive ..

theorem execResendTimeout (die tag) : Ended s (Machine.execResendTimeout die tag t) := by
  unfold Machine.execResendTimeout
  split
  · exact h.next
  · split
    · exact h.next
    · split
      · exact (((h.endOp ..).opFails ..).tryLeave).next
      · dsimp only
        exact ((h.set ..).transmitOver ..).next

theorem newCopy (b) : Kept s (t.newCopy b).1 := h.set ..

theorem sendCopy (x die i op dst l) : Kept s (t.sendCopy x die i op dst l) := by
  unfold State.sendCopy
  dsimp only
  refine branch ?_ ?_
  · refine foldl_fst (fun r a h => ?_) _ h
    split
    · exact h
    · exact h.request ..
  · refine copyEnd ?_ ..
    refine copyFailed ?_ ..
    refine foldl_fst (fun r a h => ?_) _ h
    split
    · exact h
    · exact h.request ..

theorem copyStops (b w a store) : Kept s (t.copyStops b w a store) := by
  unfold State.copyStops
  split
  · exact h.suspend ..
  · exact (h.noteAcc ..).copyOver ..

theorem execBulkCopy (y die src dst n) : Ended s (Machine.execBulkCopy y die src dst n t) := by
  unfold Machine.execBulkCopy
  dsimp only
  split
  · exact h.next
  · split
    · exact h.next
    · split
      · split
        · exact (h.copyStops ..).next
        · split
          · split
            next e => exact (((h.write ..).of_fst e).copyOver ..).next
            next e => exact (((h.write ..).of_fst e).copyStops ..).next
          · exact ((h.newCopy ..).sendCopy ..).next
      · split
        · exact ((h.newCopy ..).sendCopy ..).next
        · exact (h.copyOver ..).next

end

end Kept

end Sys2Proof.Safety
end

section
/-! SUPPORT. What the fabric manager keeps. -/

namespace Sys2Proof.Safety

open Machine

namespace Kept

section
variable {s t : State} (h : Kept s t)
include h

theorem toMembers (sub m) : Kept s (t.toMembers sub m) := foldl (fun _ _ h => h.sendManager ..) _ h
theorem restorePorts : Kept s t.restorePorts := foldl (fun _ _ h => branch h (branch ((h.modPort ..).logPort ..) h)) _ h

theorem execFabricJoin (h' role request) : Ended s (Machine.execFabricJoin h' role request t) := by
  unfold Machine.execFabricJoin
  refine h.command _ _ _ fun u h => ?_
  split
  · exact h.finish ..
  · dsimp only
    exact ((branch h.restorePorts h).set ..).sendJoin ..

theorem takeId (ident epoch role term mgr) : Kept s (t.takeId ident epoch role term mgr) := h.set ..

theorem execJoinTimeout : Ended s (Machine.execJoinTimeout t) := by
  unfold Machine.execJoinTimeout
  split
  · exact h.next
  · split
    · exact h.next
    · split
      · dsimp only
        exact (((h.takeId ..).set ..).finish ..).next
      · exact ((h.set ..).finish ..).next

theorem recordCommit (hall job step) : Kept s (t.recordCommit hall job step) := by
  unfold State.recordCommit
  split
  · exact h
  · exact h.set ..

theorem sendCommits : Kept s t.sendCommits := foldl (fun _ _ h => h.toMembers ..) _ (h.set ..)

theorem addReady (r) : Kept s (t.addReady r) := by
  unfold State.addReady
  dsimp only
  refine branch ?_ ?_
  · exact h.set ..
  · refine sendCommits ?_
    refine set ?_ ..
    refine branch ?_ ?_
    · exact (branch (((h.set ..).recordCommit ..).sendManager ..) ((h.set ..).recordCommit ..)).sendManager ..
    · refine branch ?_ ?_
      · exact ((h.set ..).recordCommit ..).sendManager ..
      · exact (h.set ..).recordCommit ..

theorem setPair (on) : Kept s (t.setPair on) := (((h.set ..).sendCommits).toMembers ..).fabricChange ..

theorem act (c) : Kept s (t.act c) := by
  unfold State.act
  dsimp only
  split
  · refine setPair ?_ ..
    split
    · refine addReady ?_ ..
      split
      · exact (foldl (fun _ _ h => h.sendManager ..) _ h).fabricChange ..
      · exact foldl (fun _ _ h => h.sendManager ..) _ h
    · split
      · exact (foldl (fun _ _ h => h.sendManager ..) _ h).fabricChange ..
      · exact foldl (fun _ _ h => h.sendManager ..) _ h
  · split
    · refine addReady ?_ ..
      split
      · exact (foldl (fun _ _ h => h.sendManager ..) _ h).fabricChange ..
      · exact foldl (fun _ _ h => h.sendManager ..) _ h
    · split
      · exact (foldl (fun _ _ h => h.sendManager ..) _ h).fabricChange ..
      · exact foldl (fun _ _ h => h.sendManager ..) _ h

theorem change (waits c) : Kept s (t.change waits c) := by
  unfold State.change
  split
  · exact (h.set ..).sendManager ..
  · exact h.act ..

theorem announce (waits id first event) : Kept s (t.announce waits id first event) := by
  unfold State.announce
  split
  · exact h
  · dsimp only
    exact h.change ..

theorem execJoin (m) : Ended s (Machine.execJoin m t) := by
  unfold Machine.execJoin
  split
  · exact h.next
  · split
    · exact (h.sendManager ..).next
    · dsimp only
      exact ((h.set ..).announce ..).next

theorem execGrant (m) : Ended s (Machine.execGrant m t) := by
  unfold Machine.execGrant
  split
  · exact h.next
  · split
    · split
      · exact ((h.set ..).finish ..).next
      · dsimp only
        exact ((h.takeId ..).finish ..).next
    · split
      · exact ((h.takeId ..).fabricChange ..).next
      · exact h.next

theorem execFabricLeave (h') : Ended s (Machine.execFabricLeave h' t) := by
  unfold Machine.execFabricLeave
  refine h.command _ _ _ fun u h => ?_
  split
  · exact h.finish ..
  · exact (h.set ..).tryLeave

theorem abandonStep (job step) : Kept s (t.abandonStep job step) := (h.set ..).change ..
theorem abandonFor (id) : Kept s (t.abandonFor id) := foldl (fun _ _ h => h.abandonStep ..) _ h

theorem execReady (m) : Ended s (Machine.execReady m t) := by
  unfold Machine.execReady
  split
  · exact h.next
  · split
    · exact (h.sendManager ..).next
    · dsimp only
      exact (h.change ..).next

theorem endCommit (x code) : Kept s (t.endCommit x code) := by
  unfold State.endCommit
  split
  · exact (h.modCtx ..).finish ..
  · exact h

theorem execCommit (m) : Ended s (Machine.execCommit m t) := by
  unfold Machine.execCommit
  split
  · exact h.next
  · exact (foldl (fun _ _ h => branch (h.endCommit ..) h) _ h).next

theorem execAbandon (m) : Ended s (Machine.execAbandon m t) := by
  unfold Machine.execAbandon
  split
  · exact h.next
  · split
    · exact (h.abandonStep ..).next
    · split
      · exact h.next
      · dsimp only
        exact (foldl (fun _ _ h => branch ((branch (h.endCommit ..) h).modCtx ..) (branch (h.endCommit ..) h)) _ h).next

theorem takeRecord (m kind) : Kept s (t.takeRecord m kind) := by
  unfold State.takeRecord
  split
  · exact h.set ..
  · exact h.set ..
  · exact h.set ..
  · exact h.set ..
  · exact h.set ..
  · exact h

theorem mirrorAcked (m) : Kept s (t.mirrorAcked m) := by
  unfold State.mirrorAcked
  dsimp only
  split
  · split
    · exact (h.set ..).act ..
    · exact h
  · exact (h.set ..).sendCommits

theorem execMirror (m kind) : Ended s (Machine.execMirror m kind t) := by
  unfold Machine.execMirror
  dsimp only
  split
  · exact h.next
  · split
    · split
      · exact (h.mirrorAcked ..).next
      · exact h.next
    · exact ((branch ((branch (h.takeRecord ..) h).recordCommit ..) (branch (h.takeRecord ..) h)).sendManager ..).next

theorem changePair (on) : Kept s (t.changePair on) := by
  unfold State.changePair
  split
  · exact h
  · exact h.change ..

theorem execPairBroken : Ended s (Machine.execPairBroken t) := by
  unfold Machine.execPairBroken
  split
  · exact h.next
  · exact (h.changePair ..).next

theorem seeTerm (term) : Kept s (t.seeTerm term) := by
  unfold State.seeTerm
  split
  · exact h.set ..
  · exact h

theorem newStandby : Kept s t.newStandby := by
  unfold State.newStandby
  dsimp only
  refine foldl (fun _ _ h => h.sendManager ..) _ (foldl (fun _ _ h => branch (h.sendManager ..) h) _ ?_)
  exact (foldl (fun _ _ h => h.sendManager ..) _ (h.set ..)).sendManager ..

theorem execHeartbeat (m) : Ended s (Machine.execHeartbeat m t) := by
  unfold Machine.execHeartbeat
  split
  · exact h.next
  · split
    · split
      · exact (h.changePair ..).next
      · exact h.next
    · dsimp only
      split
      · split
        · exact h.newStandby.next
        · exact (h.seeTerm ..).next
      · split
        · split
          · exact ((h.set ..).announce ..).next
          · exact h.next
        · exact h.next

theorem execHeartbeatTimer : Ended s (Machine.execHeartbeatTimer t) := by
  unfold Machine.execHeartbeatTimer
  split
  · exact h.next
  · dsimp only
    split
    · exact ((branch ((h.toMembers ..).sendManager ..) (h.toMembers ..)).sendManager ..).next
    · exact (h.sendManager ..).next

theorem loseStandby : Kept s t.loseStandby := (foldl (fun _ _ h => h.act ..) _ (h.set ..)).sendCommits

theorem execMemberFailed (ident) : Ended s (Machine.execMemberFailed ident t) := by
  unfold Machine.execMemberFailed
  dsimp only
  split
  · exact h.next
  · split
    · exact h.next
    · split
      · exact ((branch (((h.set ..).abandonFor ..).loseStandby) ((h.set ..).abandonFor ..)).announce ..).next
      · exact (((((h.set ..).abandonFor ..).set ..).announce ..).announce ..).next

theorem execManagerSilence : Ended s (Machine.execManagerSilence t) := by
  unfold Machine.execManagerSilence
  split
  · exact h.next
  · dsimp only
    exact (((h.set ..).toMembers ..).fabricChange ..).next

theorem execTakeover (m) : Ended s (Machine.execTakeover m t) := by
  unfold Machine.execTakeover
  split
  · exact h.next
  · exact ((h.seeTerm ..).fabricChange ..).next

theorem execMembership (m) : Ended s (Machine.execMembership m t) := by
  unfold Machine.execMembership
  split
  · exact h.next
  · split
    · exact (branch h (h.fabricChange ..)).next
    · split
      · split
        · split
          · exact h.next
          · dsimp only
            exact (((h.set ..).abandonFor ..).announce ..).next
        · exact h.next
      · dsimp only
        refine Kept.next ?_
        split
        · split
          · split
            · exact (branch (((h.seeTerm ..).set ..).failOps ..) ((h.seeTerm ..).set ..)).fabricChange ..
            · split
              · exact (branch (((h.seeTerm ..).set ..).failOps ..) ((h.seeTerm ..).set ..)).fabricChange ..
              · split
                · exact (branch (((h.seeTerm ..).set ..).failOps ..) ((h.seeTerm ..).set ..)).fabricChange ..
                · split
                  · exact ((h.seeTerm ..).set ..).failOps ..
                  · exact (h.seeTerm ..).set ..
          · split
            · exact (branch (((h.seeTerm ..).set ..).failOps ..) ((h.seeTerm ..).set ..)).fabricChange ..
            · split
              · exact (branch (((h.seeTerm ..).set ..).failOps ..) ((h.seeTerm ..).set ..)).fabricChange ..
              · split
                · exact (branch (((h.seeTerm ..).set ..).failOps ..) ((h.seeTerm ..).set ..)).fabricChange ..
                · split
                  · exact ((h.seeTerm ..).set ..).failOps ..
                  · exact (h.seeTerm ..).set ..
        · split
          · exact (branch (((h.seeTerm ..).set ..).failOps ..) ((h.seeTerm ..).set ..)).fabricChange ..
          · split
            · exact (branch (((h.seeTerm ..).set ..).failOps ..) ((h.seeTerm ..).set ..)).fabricChange ..
            · split
              · exact (branch (((h.seeTerm ..).set ..).failOps ..) ((h.seeTerm ..).set ..)).fabricChange ..
              · split
                · exact ((h.seeTerm ..).set ..).failOps ..
                · exact (h.seeTerm ..).set ..

theorem manage (e) : Ended s (t.manage e) := by
  unfold State.manage
  split
  · exact h.execJoin ..
  · exact h.execGrant ..
  · exact h.execHeartbeat ..
  · exact h.execMembership ..
  · exact h.execReady ..
  · exact h.execCommit ..
  · exact h.execAbandon ..
  · exact h.execMirror ..
  · exact h.execTakeover ..
  · exact h.next

theorem takeInbox : Kept s t.takeInbox := by
  refine foldl (fun u a h => ?_) _ (h.set ..)
  split
  next e => exact (h.manage a).of_next e
  · exact h

theorem unpackFlit (p v payload) : Kept s (t.unpackFlit p v payload) :=
  (foldl (fun _ _ h => h.packetIn ..) _ (h.modPort ..)).takeInbox

theorem execFlitReceive (p f fec) : Ended s (Machine.execFlitReceive p f fec t) := by
  unfold Machine.execFlitReceive
  dsimp only
  split
  · exact h.next
  · split
    · exact (h.sendNak ..).next
    · exact (((branch ((h.advance.modPort ..).replayFlits ..) (h.advance.modPort ..)).modPort ..).unpackFlit ..).next

end

end Kept

end Sys2Proof.Safety
end

section
/-! SUPPORT. What ingest keeps. -/

namespace Sys2Proof.Safety

open Machine

namespace Kept

section
variable {s t : State} (h : Kept s t)
include h

theorem ingestFails (h' x a store) : Kept s (t.ingestFails h' x a store) := by
  unfold State.ingestFails
  split
  · exact h.suspend ..
  · exact (h.noteAcc ..).stopStream ..

theorem execIngestOpen (h' config start engine) : Ended s (Machine.execIngestOpen h' config start engine t) := by
  unfold Machine.execIngestOpen
  refine h.serve _ _ _ fun u h => ?_
  split
  · exact h.finish ..
  · split
    · exact h.suspend ..
    · exact (h.noteAcc ..).finish ..
    · split
      · exact h.finish ..
      · split
        · exact h.finish ..
        · split
          · exact h.finish ..
          · dsimp only
            exact ((h.setStream' ..).modCtx ..).finish ..

theorem closeStream (h') : Kept s (t.closeStream h') := by
  unfold State.closeStream
  split
  · exact h
  · dsimp only
    exact foldl (fun _ _ h => h.finish ..) _ ((h.orphanReads ..).modEngine ..)

theorem execIngestClose (h' handle) : Ended s (Machine.execIngestClose h' handle t) := by
  unfold Machine.execIngestClose
  refine h.command _ _ _ fun u h => ?_
  split
  · exact h.finish ..
  · split
    · exact h.finish ..
    · exact (h.closeStream ..).finish ..

theorem dropFeed (h' f code) : Kept s (t.dropFeed h' f code) := (h.modStream ..).finish ..

theorem feedStops (h' x f a store) : Kept s (t.feedStops h' x f a store) := by
  unfold State.feedStops
  dsimp only
  split
  · exact h.ingestFails ..
  · exact (h.ingestFails ..).dropFeed ..

theorem checkFeed (h' x f) : Kept s (t.checkFeed h' x f).1 := by
  unfold State.checkFeed
  split
  · exact h
  · split
    · dsimp only
      exact h.feedStops ..
    · split
      · dsimp only
        exact h.modStream ..
      · dsimp only
        exact h.dropFeed ..

theorem putRefs (h' x pos bs) : Kept s (t.putRefs h' x pos bs).1 := by
  unfold State.putRefs
  refine foldl_fst (fun r a h => ?_) _ h
  split
  · exact h
  · exact h.write ..

theorem pump (h' n) : Kept s (t.pump h' n) := by
  induction n generalizing t with
  | zero => exact h
  | succ n ih =>
    unfold State.pump
    split
    · exact h
    · split
      · exact h
      · split
        next e =>
          have h := (h.checkFeed ..).of_fst e
          split
          · exact h
          · exact ih h
        next e =>
          have h := (h.checkFeed ..).of_fst e
          dsimp only
          split
          · exact h
          · split
            · exact h.feedStops ..
            · split
              next e => exact ((h.putRefs ..).of_fst e).feedStops ..
              next e =>
                have h := (h.putRefs ..).of_fst e
                split
                · exact ih (((h.modStream ..).modStream ..).dropFeed ..)
                · exact (h.modStream ..).modStream ..

theorem execIngestFeed (h' handle final segment count) :
    Ended s (Machine.execIngestFeed h' handle final segment count t) := by
  unfold Machine.execIngestFeed
  refine h.command _ _ _ fun u h => ?_
  split
  · exact h.finish ..
  · split
    · exact h.finish ..
    · exact (h.modStream ..).pump ..

theorem askSource (h' x f) : Kept s (t.askSource h' x f).1 := by
  unfold State.askSource
  refine foldl_fst (fun r a h => ?_) _ h
  split
  · exact h
  · dsimp only
    exact h.request ..

theorem setFetch (h' f) : Kept s (t.setFetch h' f) := h.modStream ..

theorem sourceOn (h' x pos n x') : Kept s (t.sourceOn h' x pos n x').1 := by
  induction n generalizing t h' x pos x' with
  | zero => exact h
  | succ n ih =>
    unfold State.sourceOn
    split
    · dsimp only
      split
      · dsimp only
        exact (h.askSource ..).ingestFails ..
      · split
        · exact ih h ..
        · dsimp only
          exact (h.askSource ..).setFetch ..
    · split
      · dsimp only
        exact h.ingestFails ..
      · split
        · dsimp only
          exact h.setFetch ..
        · dsimp only
          split
          · exact ih h ..
          · dsimp only
            exact h.ingestFails ..

theorem startClip (h' x pos) : Kept s (t.startClip h' x pos).1 := by
  unfold State.startClip
  split
  · exact h.sourceOn ..
  · split
    · dsimp only
      exact h.ingestFails ..
    · dsimp only
      exact h.sourceOn ..

theorem execDecodeAccessUnit (e) : Ended s (Machine.execDecodeAccessUnit e t) := by
  unfold Machine.execDecodeAccessUnit
  split
  · exact h.next
  · split
    · exact h.next
    · dsimp only
      split
      · refine Kept.next ?_
        refine advance ?_
        split
        · dsimp only
          exact h.modEngine ..
        · exact (h.modEngine ..).startClip ..
      · split
        · refine Kept.next ?_
          refine modStream ?_ ..
          split
          · dsimp only
            exact h.modEngine ..
          · exact (h.modEngine ..).startClip ..
        · refine Kept.next ?_
          refine advance ?_
          refine modEngine ?_ ..
          refine modStream ?_ ..
          split
          · dsimp only
            exact h.modEngine ..
          · exact (h.modEngine ..).startClip ..

theorem execClipWrite (e h') : Ended s (Machine.execClipWrite e h' t) := by
  unfold Machine.execClipWrite
  split
  · exact h.next
  · split
    · exact h.next
    · split
      · exact h.next
      · dsimp only
        split
        next e => exact (((h.write ..).of_fst e).ingestFails ..).next
        next e =>
          have h := (h.write ..).of_fst e
          split
          next e => exact (((h.write ..).of_fst e).ingestFails ..).next
          next e =>
            have h := (h.write ..).of_fst e
            refine Kept.next (pump (sendAdd ?_ ..) ..)
            refine branch (ingestEvent ?_ ..) ?_ <;> exact branch ((h.modStream ..).modEngine ..) (h.modStream ..)

theorem writeCursors (x step) : Kept s (t.writeCursors x step).1 := by
  unfold State.writeCursors
  refine foldl_fst (fun r a h => ?_) _ h
  split
  · exact h
  · split
    next e => exact (h.write ..).of_fst e
    next e =>
      have h := (h.write ..).of_fst e
      dsimp only
      exact h.suspend ..
    next e =>
      have h := (h.write ..).of_fst e
      dsimp only
      exact h.ingestFails ..

theorem rewind (h' x) : Kept s (t.rewind h' x) := (((h.orphanReads ..).setCount ..).setCount ..).modStream ..

end

end Kept

end Sys2Proof.Safety
end

section
/-! SUPPORT. What repair keeps. -/

namespace Sys2Proof.Safety

open Machine

namespace Kept

section
variable {s t : State} (h : Kept s t)
include h

theorem replaceCore (site) : Kept s (t.replaceCore site) := by
  unfold State.replaceCore
  dsimp only
  split
  · exact h.set ..
  · split
    · exact (h.set ..).retire ..
    · exact (h.set ..).modCore ..

theorem decide_ (d) : Kept s (t.decide_ d) := by
  unfold State.decide_
  split
  · dsimp only
    split
    · exact h
    · split
      · exact (h.set ..).replaceCore ..
      · exact h.set ..
  · dsimp only
    split
    · exact h
    · split
      · exact h.set ..
      · split
        · exact (h.set ..).replaceCore ..
        · split
          · exact h.retire ..
          · exact h
  · exact h.replaceCore ..
  · exact (h.set ..).replaceCore ..
  · split
    · exact h.set ..
    · exact h

theorem settleDecisions (sel) : Kept s (t.settleDecisions sel) := by
  unfold State.settleDecisions
  dsimp only
  split
  · exact h
  · exact (foldl (fun _ _ h => h.decide_ ..) _ (h.set ..)).newGeneration

theorem moveMarks (n away) : Kept s (t.moveMarks n away) := h.modWmk ..
theorem saveStores (n) : Kept s (t.saveStores n) := (h.set ..).loseStores ..

theorem restoreStores (n) : Kept s (t.restoreStores n) := by
  unfold State.restoreStores
  split
  · exact h
  next cells bad _ =>
    exact ⟨h.pending, fun m => ⟨mwfBy_writes _ cells (h.memory m).1, (h.memory m).2⟩⟩

theorem clusterReset (n) : Kept s (t.clusterReset n) := by
  unfold State.clusterReset
  dsimp only
  refine settleDecisions ?_ ..
  exact ((((foldl (fun _ _ h => h.flushStores ..) _ (h.failAll ..)).loseStash ..).loseStores ..).set ..).moveMarks ..

theorem wideShallow (n on) : Kept s (t.wideShallow n on) := foldl (fun _ _ h => h.modCore ..) _ h

theorem endRollCall (r) : Kept s (t.endRollCall r) := by
  unfold State.endRollCall
  split
  · exact (h.set ..).finish ..
  · exact h.set ..

theorem execRollcallRun (h' clusters maxpar) : Ended s (Machine.execRollcallRun h' clusters maxpar t) := by
  unfold Machine.execRollcallRun
  refine h.command _ _ _ fun u h => ?_
  split
  · exact h.finish ..
  · split
    · exact h.finish ..
    · dsimp only
      exact h.endRollCall ..

theorem beginTest (n) : Kept s (t.beginTest n) := (((h.moveMarks ..).saveStores ..).modCluster ..).wideShallow ..

theorem endTest (n blocks rows) : Kept s (t.endTest n blocks rows) := by
  unfold State.endTest
  dsimp only
  refine restoreStores ?_ ..
  split
  · refine newGeneration ?_
    refine retire ?_ ..
    exact (foldl (fun _ _ h => h.addDecision ..) _ (((h.modCluster ..).wideShallow ..).moveMarks ..)).settleDecisions ..
  · exact (foldl (fun _ _ h => h.addDecision ..) _ (((h.modCluster ..).wideShallow ..).moveMarks ..)).settleDecisions ..

theorem execRollcallCluster (n misr rows) : Ended s (Machine.execRollcallCluster n misr rows t) := by
  unfold Machine.execRollcallCluster
  split
  · exact h.next
  · split
    · exact h.next
    · split
      · exact (h.endRollCall ..).next
      · split
        · dsimp only
          split
          · exact h.next
          · split
            · exact (foldl (fun _ _ h => h.askInterrupt ..) _ h).next
            · exact (h.beginTest ..).next
        · dsimp only
          exact (((foldl (fun _ _ h => h.log ..) _ (h.set ..)).endTest ..).endRollCall ..).next

end

end Kept

end Sys2Proof.Safety
end

section
/-! SUPPORT. What submission and Thermos keep. -/

namespace Sys2Proof.Safety

open Machine

namespace Kept

section
variable {s t : State} (h : Kept s t)
include h

/-! ## Submission -/

theorem submitMarks (x a) : Kept s (t.submitMarks x a) := by
  unfold State.submitMarks
  split
  · exact h.noteAcc ..
  · exact h

theorem acceptGraph (x fn cq tag addr dist d b again) : Kept s (t.acceptGraph x fn cq tag addr dist d b again).1 :=
  (h.set ..).modCtx ..

theorem startGraph (g roots) : Kept s (t.startGraph g roots) := by
  unfold State.startGraph
  exact ((foldl (fun _ _ h => h.makeReady ..) _ (h.countGraph ..)).settle ..).unspill

theorem execGraphSubmit (h' addr) : Ended s (Machine.execGraphSubmit h' addr t) := by
  unfold Machine.execGraphSubmit
  refine h.command _ _ _ fun u h => ?_
  split
  · exact (h.submitMarks ..).finish ..
  · dsimp only
    exact ((h.acceptGraph ..).finish ..).startGraph ..

theorem execGraphAbort (h' handle) : Ended s (Machine.execGraphAbort h' handle t) := by
  unfold Machine.execGraphAbort
  refine h.command _ _ _ fun u h => ?_
  dsimp only
  refine finish ?_ ..
  split
  · split
    · exact h.abortGraph ..
    · exact h
  · exact h

/-! ## Thermos -/

theorem startCkpt (x step targets cmd) : Kept s (t.startCkpt x step targets cmd) := by
  unfold State.startCkpt
  split
  · exact h
  · split
    · exact h.setCtx ..
    · dsimp only
      exact foldl (fun _ _ h => h.thermosRef ..) _ (h.setCtx ..)

theorem writeBoundary (x step clean groups) : Kept s (t.writeBoundary x step clean groups).1 := by
  unfold State.writeBoundary
  dsimp only
  split
  · exact h
  · split
    next e => exact (h.write ..).of_fst e
    · exact h.suspend ..
    · exact (h.noteAcc ..).modCtx ..

theorem latchStep (h' c step groups) : Kept s (t.latchStep h' c step groups) := by
  unfold State.latchStep
  dsimp only
  split
  · exact h.suspend ..
  next e =>
    have k := ((h.setCtx ..).writeCursors ..).of_fst e
    split
    · exact h.suspend ..
    next e =>
      have k := (k.writeBoundary ..).of_fst e
      exact ((branch (k.startCkpt ..) k).modCtx ..).finish ..

theorem execStepBegin (h' step) : Ended s (Machine.execStepBegin h' step t) := by
  unfold Machine.execStepBegin
  refine h.serve _ _ _ fun u h => ?_
  split
  · exact h
  · split
    · exact (h.setCtx ..).finish ..
    · split
      · exact h
      · exact h.latchStep ..

theorem tryCommit (x) : Kept s (t.tryCommit x) := by
  unfold State.tryCommit
  split
  · exact h
  · split
    · exact h
    · split
      · exact h
      · split
        · exact h.endCommit ..
        · exact (h.setCtx ..).sendManager ..

theorem execStepCommit (h' step) : Ended s (Machine.execStepCommit h' step t) := by
  unfold Machine.execStepCommit
  refine h.serve _ _ _ fun u h => ?_
  split
  · exact h
  · split
    · exact h.finish ..
    · split
      · exact h
      · exact ((h.acts ..).setCtx ..).tryCommit ..

theorem execStepCommitReady (x) : Ended s (Machine.execStepCommitReady x t) := by
  unfold Machine.execStepCommitReady
  split
  · exact h.next
  · exact (h.tryCommit ..).next

theorem execCheckpoint (h' step targets) : Ended s (Machine.execCheckpoint h' step targets t) := by
  unfold Machine.execCheckpoint
  refine h.command _ _ _ fun u h => ?_
  split
  · exact h.finish ..
  · split
    · exact h.finish ..
    · exact h.startCkpt ..

theorem writePieces (x t' l) : Kept s (t.writePieces x t' l).1 := by
  unfold State.writePieces
  refine foldl_fst (fun r a h => ?_) _ h
  split
  · exact h
  · exact h.writeG ..

theorem spoil (x t') : Kept s (t.spoil x t') := by
  unfold State.spoil
  split
  · exact h
  · exact h.writePieces ..

theorem copySlot (x t' step) : Kept s (t.copySlot x t' step).1 := by
  unfold State.copySlot
  dsimp only
  split
  · exact h
  · exact (h.noteAcc ..).spoil ..
  · split
    · exact h
    · split
      · exact h
      next e => exact ((h.writePieces ..).of_fst e).noteAcc ..
      next e => exact (h.writePieces ..).of_fst e

theorem flyOn (x f) : Kept s (t.flyOn x f).1 := by
  unfold State.flyOn
  split
  · exact h
  · exact h
  · split <;>
      next e => exact (h.writePieces ..).of_fst e

theorem endCkpt (x) : Kept s (t.endCkpt x) := by
  unfold State.endCkpt
  split
  · exact h
  · split
    · exact h
    · split
      · exact h
      · dsimp only
        split
        · refine startCkpt ?_ ..
          split
          · refine finish ?_ ..
            refine modCtx ?_ ..
            refine modCreg ?_ ..
            refine applyWaiting ?_ ..
            refine foldl (fun u a h => ?_) _ h
            split
            · exact (h.sendAdd ..).modRec ..
            · exact h
          · refine modCtx ?_ ..
            refine modCreg ?_ ..
            refine applyWaiting ?_ ..
            refine foldl (fun u a h => ?_) _ h
            split
            · exact (h.sendAdd ..).modRec ..
            · exact h
        · split
          · refine finish ?_ ..
            refine modCtx ?_ ..
            refine modCreg ?_ ..
            refine applyWaiting ?_ ..
            refine foldl (fun u a h => ?_) _ h
            split
            · exact (h.sendAdd ..).modRec ..
            · exact h
          · refine modCtx ?_ ..
            refine modCreg ?_ ..
            refine applyWaiting ?_ ..
            refine foldl (fun u a h => ?_) _ h
            split
            · exact (h.sendAdd ..).modRec ..
            · exact h

theorem endTarget (x t' k ok) : Kept s (t.endTarget x t' k ok) := ((branch (h.modCreg ..) h).modCtx ..).endCkpt ..

theorem execCheckpointCopy (x t' fail) : Ended s (Machine.execCheckpointCopy x t' fail t) := by
  unfold Machine.execCheckpointCopy
  split
  · exact h.next
  · split
    · exact h.next
    · split
      · exact ((h.spoil ..).endTarget ..).next
      · split
        · exact h.next
        · dsimp only
          split
          · refine Kept.next ?_
            refine endTarget ?_ ..
            split
            · exact h.flyOn ..
            · exact h.copySlot ..
          · refine Kept.next ?_
            refine modCtx ?_ ..
            split
            · exact h.flyOn ..
            · exact h.copySlot ..
          · exact (h.suspend ..).next

end

end Kept

end Sys2Proof.Safety
end

section
/-! SUPPORT. What restoring and replay keep. -/

namespace Sys2Proof.Safety

open Machine

namespace Kept

section
variable {s t : State} (h : Kept s t)
include h

theorem restoreMarks (x b) : Kept s (t.restoreMarks x b) := by
  unfold State.restoreMarks
  dsimp only
  refine foldl (fun u a h => ?_) _ ?_
  · exact (h.setCount ..).setCount ..
  · split
    · exact h.modWmk ..
    · exact h

theorem restored (x f) : Kept s (t.restored x f) := (h.restoreMarks ..).modCtx ..

theorem execRestore (h' step source addr slot) : Ended s (Machine.execRestore h' step source addr slot t) := by
  unfold Machine.execRestore
  refine h.serve _ _ _ fun u h => ?_
  dsimp only
  split
  · exact h.finish ..
  · split
    · exact h
    · split
      · exact h.suspend ..
      · exact h.finish ..
      · split
        · exact h.suspend ..
        next e => exact (((h.writePieces ..).of_fst e).noteAcc ..).finish ..
        next e =>
          have h := (h.writePieces ..).of_fst e
          exact (branch ((h.restored ..).modCreg ..) (h.restored ..)).finish ..

theorem refuseReplay (x step) : Kept s (t.refuseReplay x step) := foldl (fun _ _ h => h.event ..) _ (h.modCtx ..)
theorem orphanRecords (x) : Kept s (t.orphanRecords x) := h.set ..

theorem landAll (x) : Kept s (t.landAll x) := by
  unfold State.landAll
  dsimp only
  refine foldl (fun u a h => ?_) _ (h.modWmk ..)
  split
  · exact h.applyAdd ..
  · exact h

theorem restartRecord (x step r) : Kept s (t.restartRecord x step r) := by
  unfold State.restartRecord
  dsimp only
  refine branch ?_ ?_
  · refine armRecord ?_ ..
    refine publish ?_ ..
    exact ((foldl (fun _ _ h => branch (h.setSlot ..) h) _ (foldl (fun _ _ h => h.setCount ..) _ h)).setRec ..).dieAdd ..
  · refine armRecord ?_ ..
    exact (foldl (fun _ _ h => branch (h.setSlot ..) h) _ (foldl (fun _ _ h => h.setCount ..) _ h)).setRec ..

theorem restartRecords (x step) : Kept s (t.restartRecords x step) :=
  foldl (fun _ _ h => h.restartRecord ..) _ (h.dropEvileWaits ..)

theorem restoreCounts (x bound own) : Kept s (t.restoreCounts x bound own) :=
  foldl (fun _ _ h => branch h (h.setCount ..)) _ h

theorem resubmit (x r) : Kept s (t.resubmit x r) := by
  unfold State.resubmit
  split
  · exact ((h.submitMarks ..).modCtx ..).post ..
  · dsimp only
    exact ((h.poke ..).acceptGraph ..).startGraph ..

theorem pauseStreams (x) : Kept s (t.pauseStreams x) := h.set ..

theorem replayAborts (x cause step) : Kept s (t.replayAborts x cause step) := by
  unfold State.replayAborts
  dsimp only
  exact (foldl (fun _ _ h => h.abortGraph ..) _ (branch ((h.modCtx ..).sendManager ..) h)).pauseStreams ..

theorem replayAgain (x step cause c own) : Kept s (t.replayAgain x step cause c own) := by
  unfold State.replayAgain
  dsimp only
  exact foldl (fun _ _ h => h.resubmit ..) _ ((((h.restoreCounts ..).event ..).log ..).modCtx ..)

theorem execStepReplay (x) : Ended s (Machine.execStepReplay x t) := by
  unfold Machine.execStepReplay
  split
  · exact h.next
  · split
    · split
      · exact h.next
      · split
        · exact (h.refuseReplay ..).next
        · dsimp only
          split
          · exact (((((h.setCtx ..).replayAborts ..).landAll ..).orphanRecords ..).refuseReplay ..).next
          · split
            · refine Kept.next (refuseReplay (foldl (fun _ _ h => h.stopStream ..) _ (restartRecords ?_ ..)) ..)
              exact foldl (fun _ _ h => h.clusterReset ..) _ ((((h.setCtx ..).replayAborts ..).landAll ..).orphanRecords ..)
            · refine Kept.next (replayAgain (foldl (fun _ _ h => h.rewind ..) _ (restartRecords ?_ ..)) ..)
              exact foldl (fun _ _ h => h.clusterReset ..) _ ((((h.setCtx ..).replayAborts ..).landAll ..).orphanRecords ..)
    · exact h.next

end

end Kept

end Sys2Proof.Safety
end

section
/-! SUPPORT. What the context commands keep. -/

namespace Sys2Proof.Safety

open Machine

namespace Kept

section
variable {s t : State} (h : Kept s t)
include h

theorem create (x fn seed saveArea prio eventCq) : Kept s (t.create x fn seed saveArea prio eventCq) := by
  unfold State.create
  dsimp only
  exact (((h.setCtx ..).modCreg ..).modWmk ..).set ..

theorem execCtxCreate (h' seed saveArea prio eventCq) : Ended s (Machine.execCtxCreate h' seed saveArea prio eventCq t) := by
  unfold Machine.execCtxCreate
  refine h.command _ _ _ fun u h => ?_
  split
  · exact h.finish ..
  · split
    · exact h.finish ..
    · split
      · exact h.finish ..
      · exact (h.create ..).finish ..

theorem closeWindows (x) : Kept s (t.closeWindows x) := h.set ..

theorem endWaiting (x c) : Kept s (t.endWaiting x c) := by
  unfold State.endWaiting
  dsimp only
  refine foldl (fun u a h => ?_) _ ?_
  · exact h.finish ..
  · split
    · refine finish ?_ ..
      refine foldl (fun u a h => ?_) _ ?_
      · exact h.finish ..
      · split
        · exact h.finish ..
        · exact h
    · refine foldl (fun u a h => ?_) _ ?_
      · exact h.finish ..
      · split
        · exact h.finish ..
        · exact h

theorem destroy (x) : Kept s (t.destroy x) := by
  unfold State.destroy
  split
  · exact h
  · dsimp only
    refine closeWindows ?_ ..
    refine set ?_ ..
    refine orphanRecords ?_ ..
    refine dropEvileWaits ?_ ..
    exact (foldl (fun _ _ h => h.closeStream ..) _ (foldl (fun _ _ h => h.abortGraph ..) _ h)).endWaiting ..

theorem execCtxDestroy (h') : Ended s (Machine.execCtxDestroy h' t) := by
  unfold Machine.execCtxDestroy
  refine h.serve _ _ _ fun u h => ?_
  split
  · exact h
  · exact (h.destroy ..).finish ..

theorem execMapPages (h' va pa count attr) : Ended s (Machine.execMapPages h' va pa count attr t) := by
  unfold Machine.execMapPages
  refine h.command _ _ _ fun u h => ?_
  split
  · exact h.finish ..
  · split
    · exact h.finish ..
    · exact (h.modCtx ..).finish ..

theorem discardFetched (x va n) : Kept s (t.discardFetched x va n) := h.set ..

theorem execUnmapPages (h' va count size) : Ended s (Machine.execUnmapPages h' va count size t) := by
  unfold Machine.execUnmapPages
  refine h.serve _ _ _ fun u h => ?_
  dsimp only
  split
  · exact h.finish ..
  · split
    · exact h
    · exact ((h.discardFetched ..).modCtx ..).finish ..

theorem execResume (h') : Ended s (Machine.execResume h' t) := by
  unfold Machine.execResume
  refine h.command _ _ _ fun u h => ?_
  split
  · exact h.finish ..
  · dsimp only
    exact (foldl (fun _ _ h => h.pump ..) _ ((h.modCtx ..).loadAgain ..)).finish ..

theorem execGroupWrite (h' group mask words) : Ended s (Machine.execGroupWrite h' group mask words t) := by
  unfold Machine.execGroupWrite
  refine h.command _ _ _ fun u h => ?_
  split
  · exact h
  · dsimp only
    split
    · exact h.finish ..
    · exact (h.setCtx ..).finish ..

theorem execWaymarkRead (h' id remote) : Ended s (Machine.execWaymarkRead h' id remote t) := by
  unfold Machine.execWaymarkRead
  refine h.command _ _ _ fun u h => ?_
  split
  · exact h.finish ..
  · exact h.finish ..
  · exact h.finish ..
  · split <;> exact h.finish ..

theorem execWaymarkWrite (h' id mode value remote) : Ended s (Machine.execWaymarkWrite h' id mode value remote t) := by
  unfold Machine.execWaymarkWrite
  refine h.command _ _ _ fun u h => ?_
  split
  · exact h.finish ..
  · split
    · exact h.finish ..
    · exact h.finish ..
    · exact (h.handSet ..).finish ..
    · exact h.finish ..

theorem execQuery (h' sel) : Ended s (Machine.execQuery h' sel t) := by
  unfold Machine.execQuery
  refine h.command _ _ _ fun u h => ?_
  split <;> exact h.finish ..

end

end Kept

end Sys2Proof.Safety
end

section
/-! SUPPORT. What package links and power keep. -/

namespace Sys2Proof.Safety

open Machine

namespace Kept

section
variable {s t : State} (h : Kept s t)
include h

/-! ## Crossings and links -/

theorem modLink (l f) : Kept s (t.modLink l f) := h.set ..

theorem issuerFailsWith (b code) : Kept s (t.issuerFailsWith b code) := by
  unfold State.issuerFailsWith
  split
  · split <;> exact h.failCore ..
  · split
    · exact h.failTask ..
    · exact h
  · exact h.failRecord ..
  · split
    · split
      · exact (h.spoil ..).endTarget ..
      · exact h
    · exact h
  · split
    · exact h.stopStream ..
    · exact h
  · exact h.failOps ..
  · exact h.set ..
  · split
    · exact h
    · exact h.failTask ..
  · split
    · exact h.finish ..
    · exact h
  · split
    · exact (h.badAccess ..).unsupported ..
    · exact h

theorem cdcFails (b) : Kept s (t.cdcFails b) := h.issuerFailsWith ..

theorem correctedIn (key kind source detail) {f : State → State} (hf : ∀ u, Kept s u → Kept s (f u)) :
    Kept s (t.correctedIn key kind source detail f) := by
  unfold State.correctedIn
  exact branch (hf _ (h.logCorrected ..)) ((h.logCorrected ..).set ..)

theorem correctedAt (pa) : Kept s (t.correctedAt pa) := h.correctedIn _ _ _ _ fun _ h => (h.recordPa ..).retireDoomed

theorem wordError (pa outcome) : Kept s (t.wordError pa outcome) := by
  unfold State.wordError
  split
  · exact h
  · split
    · exact h.correctedAt ..
    · split
      · dsimp only
        exact (((h.set ..).log ..).recordPa ..).retireDoomed
      · exact h

theorem recordSram (k unit row) : Kept s (t.recordSram k unit row) := by
  unfold State.recordSram
  split
  · exact h.decideOn ..
  · exact h

theorem execScrub (at_ outcome) : Ended s (Machine.execScrub at_ outcome t) := by
  unfold Machine.execScrub
  split
  · exact h.next
  · split
    · exact (h.wordError ..).next
    · split
      · refine Kept.next ?_
        exact h.correctedIn _ _ _ _ fun _ h => h.recordSram ..
      · exact (((h.log ..).recordSram ..).issuerFailsWith ..).next
    · split
      · exact (h.logCorrected ..).next
      · split
        · dsimp only
          exact ((h.log ..).set ..).next
        · exact h.next
    · split
      · exact h.next
      · exact ((h.log ..).issuerFailsWith ..).next

theorem execCdcTimeout (x b) : Ended s (Machine.execCdcTimeout x b t) := by
  unfold Machine.execCdcTimeout
  split
  · exact h.next
  · exact ((h.cdc ..).cdcFails ..).next

theorem execPackageLinkReplay (x) : Ended s (Machine.execPackageLinkReplay x t) := by
  unfold Machine.execPackageLinkReplay
  split
  · exact h.next
  · exact ((h.modLink ..).logCorrected ..).next

theorem execPackageLinkRetrain (l) : Ended s (Machine.execPackageLinkRetrain l t) := by
  unfold Machine.execPackageLinkRetrain
  dsimp only
  split
  · exact h.next
  · split
    · exact (h.modLink ..).next
    · split
      · exact (h.modLink ..).next
      · exact h.next

theorem execPackageLinkRetrained (l) : Ended s (Machine.execPackageLinkRetrained l t) := by
  unfold Machine.execPackageLinkRetrained
  split
  · exact h.next
  · exact (h.modLink ..).next

theorem loseEvile (d) : Kept s (t.loseEvile d) :=
  foldl (fun _ _ h => branch h (branch (h.failRecord ..) (h.modRec ..))) _ (h.set ..)

theorem losePortDie (d) : Kept s (t.losePortDie d) := by
  unfold State.losePortDie
  dsimp only
  refine fabricChange ?_ ..
  refine foldl (fun u a h => ?_) _ (modEngine (failOps (set ?ports ..) ..) ..)
  case ports => exact foldl (fun _ _ h => branch (h.modPort ..) ((h.modPort ..).logPort ..)) _ h
  exact (h.stopStream ..).closeStream ..

theorem execLinkDown (l) : Ended s (Machine.execLinkDown l t) := by
  unfold Machine.execLinkDown
  dsimp only
  split
  · exact h.next
  · exact (branch (((h.modLink ..).log ..).loseEvile ..) (((h.modLink ..).log ..).losePortDie ..)).next

/-! ## Clock, voltage and temperature -/

theorem setVout (mv) : Kept s (t.setVout mv) := (h.set ..).emit ..

theorem setClock : Kept s t.setClock := by
  unfold State.setClock
  dsimp only
  split
  · exact h.set ..
  · split
    · exact (h.set ..).setVout ..
    · split
      · exact h.set ..
      · exact (h.set ..).setVout ..

theorem modPower (f) : Kept s (t.modPower f) := h.set ..

theorem execPwrBrake : Ended s (Machine.execPwrBrake t) := by
  unfold Machine.execPwrBrake
  split
  · exact h.next
  · exact ((h.modPower ..).setClock).next

theorem execPwrBrakeRelease : Ended s (Machine.execPwrBrakeRelease t) := by
  unfold Machine.execPwrBrakeRelease
  split
  · exact h.next
  · exact ((h.modPower ..).setClock).next

theorem execPowerGood : Ended s (Machine.execPowerGood t) := by
  unfold Machine.execPowerGood
  split
  · exact h.next
  · split
    · exact h.next
    · exact (h.modPower ..).next

theorem execThermalSample (l) : Ended s (Machine.execThermalSample l t) := by
  unfold Machine.execThermalSample
  split
  · exact h.next
  · dsimp only
    split
    · exact ((h.modPower ..).modPower ..).next
    · refine (modPower (branch (setClock ?_) (branch (branch (setClock ?_) ?_) ?_)) ..).next <;> exact (h.modPower ..).modPower ..

end

end Kept

end Sys2Proof.Safety
end

section
/-! SUPPORT. What boot and the resets keep. -/

namespace Sys2Proof.Safety

open Machine

namespace Kept

section
variable {s t : State} (h : Kept s t)
include h

/-! ## Boot -/

theorem recover (copy code) : Kept s (t.recover copy code) := h.same rfl

theorem addLanes (lanes) : Kept s (t.addLanes lanes) := by
  unfold State.addLanes
  dsimp only
  split
  · exact h
  · exact (h.set ..).newGeneration

theorem measureBoot (b copy) : Kept s (t.measureBoot b copy) := (((h.extend ..).extend ..).extend ..).extend ..

theorem scrambleHbm : Kept s t.scrambleHbm := by
  refine advance ⟨h.pending, fun m => ⟨?_, (h.memory m).2⟩⟩
  refine mwfBy_filter_of_agree (fun e p => Hbm.unlisted_above _ _ ?_) (h.memory m).1
  simpa [regionOf_eq_hbm] using p

theorem loadIlv (mode) : Kept s (t.loadIlv mode) := by
  unfold State.loadIlv
  exact branch (h.scrambleHbm.same rfl) (h.same rfl)

theorem bootFrom (b copy failedStacks lanes) : Kept s (t.bootFrom b copy failedStacks lanes) := by
  unfold State.bootFrom
  dsimp only
  refine setClock (foldl (fun _ _ h => h.modPort ..) _ (addLanes (settleDecisions (measureBoot ?_ ..) ..) ..))
  exact (h.loadIlv _).same rfl

theorem runBoot (r) : Kept s (t.runBoot r) := h.set ..

theorem execBoot (i0 i1 failedStacks lanes) : Ended s (Machine.execBoot i0 i1 failedStacks lanes t) := by
  unfold Machine.execBoot
  split
  · exact h.next
  · dsimp only
    split
    · exact (h.runBoot ..).next
    · split
      · exact ((h.runBoot ..).bootFrom ..).next
      · exact ((h.runBoot ..).recover ..).next

/-! ## Resets -/

theorem afterReset : Kept s t.afterReset := ⟨h.pending, fun m => ⟨rfl, (h.memory m).2⟩⟩
theorem execColdReset : Ended s (Machine.execColdReset t) := (h.afterReset.set ..).next
theorem landSome : Kept s t.landSome := foldl (fun _ _ h => branch (h.landStore ..) h) _ h

/-- What a warm reset leaves of the memories, whatever the rest of the state becomes. -/
theorem warmMemory {u : State} (p : Nat × Byte → Bool) (hp : u.pending = t.pending) (hm : u.mem = t.mem.filter p)
    (hh : u.hostMem = t.hostMem) (hu : u.hbm.undef = t.hbm.undef) : Kept s u := by
  refine ⟨hp.trans h.pending, fun m => ?_⟩
  have := h.memory m
  unfold MemoryOk Hbm.unlisted at *
  rw [hm, hh, hu]
  exact ⟨mwfBy_filter _ _ this.1, this.2⟩

theorem execWarmReset (perst) : Ended s (Machine.execWarmReset perst t) := by
  unfold Machine.execWarmReset
  split
  · exact h.next
  · dsimp only
    refine Kept.next (extend (setClock ?_) ..)
    exact warmMemory (branch h.landSome.advance h) _ rfl rfl rfl rfl

theorem resetCtx (x) : Kept s (t.resetCtx x) := (((h.destroy ..).modCreg ..).modWmk ..).set ..
theorem resetFn (f) : Kept s (t.resetFn f) := (foldl (fun _ _ h => h.resetCtx ..) _ h).set ..

theorem execFunctionLevelReset (f) : Ended s (Machine.execFunctionLevelReset f t) := by
  unfold Machine.execFunctionLevelReset
  split
  · exact h.next
  · split
    · dsimp only
      exact ((foldl (fun _ _ h => h.resetFn ..) _ h).set ..).next
    · exact (h.resetFn ..).next

theorem execPerstRelease : Ended s (Machine.execPerstRelease t) := ((h.set ..).advance).next
theorem writeVfs (n enable) : Kept s (t.writeVfs n enable) := foldl (fun _ _ h => h.resetFn ..) _ (h.set ..)

theorem writeMsixCap (f enable mask) : Kept s (t.writeMsixCap f enable mask) := by
  unfold State.writeMsixCap
  split
  · exact (h.modFn ..).sendPending ..
  · exact h

theorem execVfEnable (w enable) : Ended s (Machine.execVfEnable w enable t) := by
  unfold Machine.execVfEnable
  split
  · exact h.next
  · split
    · exact (h.emit ..).next
    · split
      · exact (h.writeVfs ..).next
      · exact (h.writeMsixCap ..).next
      · exact (h.set ..).next
      · exact (h.modFn ..).next

end

end Kept

end Sys2Proof.Safety
end

section
/-! SUPPORT. What register writes keep. -/

namespace Sys2Proof.Safety

open Machine

namespace Kept

section
variable {s t : State} (h : Kept s t)
include h

theorem writeIlv (v) : Kept s (t.writeIlv v) := by
  unfold State.writeIlv
  exact branch h (h.scrambleHbm.same rfl)

theorem writeCr (f r v) : Kept s (t.writeCr f r v) := by
  unfold State.writeCr
  dsimp only
  split
  · split
    · exact h
    · exact h.modCr ..
  · split
    · exact (h.modCr ..).modCr ..
    · exact h.modCr ..

theorem writeCq (f r v) : Kept s (t.writeCq f r v) := by
  unfold State.writeCq
  dsimp only
  split
  · split
    · exact h
    · exact foldl (fun _ _ h => h.discardReply ..) _ (h.modCq ..)
  · split
    · exact (h.modCq ..).modCq ..
    · exact h.modCq ..

theorem writeIntr (f r v) : Kept s (t.writeIntr f r v) := h.modCq ..

theorem writeWin (f v) : Kept s (t.writeWin f v) := by
  unfold State.writeWin
  dsimp only
  exact h.modFn ..

theorem writeMsix (f o v) : Kept s (t.writeMsix f o v) := (h.modFn ..).sendPending ..

theorem writeLimits (vf v) : Kept s (t.writeLimits vf v) := by
  unfold State.writeLimits
  split
  · exact h
  · exact h.set ..

theorem pciWrite (f o v m) : Kept s (t.pciWrite f o v m) := by
  unfold State.pciWrite
  dsimp only
  split
  · split
    · exact h.writeCr ..
    · exact h
  · split
    · split
      · exact h.writeCq ..
      · split
        · exact h.writeIntr ..
        · exact h
    · split
      · exact h.writeWin ..
      · split
        · exact h.writeMsix ..
        · split
          · exact h.writeLimits ..
          · exact h

theorem writeDvfs (v) : Kept s (t.writeDvfs v) := by
  unfold State.writeDvfs
  dsimp only
  split
  · exact (h.modPower ..).setClock
  · exact h

theorem writeJob (n v) : Kept s (t.writeJob n v) := by
  unfold State.writeJob
  split
  · exact h
  · exact h.modCreg ..

theorem writeNxpCtl (v) : Kept s (t.writeNxpCtl v) := h.set ..

theorem setReg (b o v m) : Kept s (t.setReg b o v m) := by
  unfold State.setReg
  dsimp only
  split
  · exact h.pciWrite ..
  · split
    · exact h.set ..
    · exact h.set ..
    · exact h.set ..
    · exact h.set ..
    · split
      · exact h
      · exact h.writeDvfs ..
    · exact h
  · split
    · exact h.set ..
    · exact h
  · split
    · exact h.modWmk ..
    · split
      · exact h.modWmk ..
      · exact h
  · split
    · exact h.writeIlv ..
    · exact h
  · split
    · exact h.set ..
    · exact h
  · split
    · exact h.writeNxpCtl ..
    · split
      · exact h.writeJob ..
      · exact h
  · split
    · exact h.set ..
    · exact h.modCreg ..
  · split
    · exact h.set ..
    · exact h
  · split
    · exact h.set ..
    · exact h.set ..
    · exact h.set ..
    · exact h
  · split
    · exact h.modCore ..
    · exact h.modCore ..
    · exact h
  · exact h
  · exact h
  · exact h

theorem bar0Write (o size v) : Kept s (t.bar0Write o size v) := by
  unfold State.bar0Write
  split
  · split
    · exact h
    · exact h.badAccess ..
  · split
    · exact h.badAccess ..
    · split
      · exact h
      · exact h.setReg ..

theorem hostWrite (o size v) : Kept s (t.hostWrite o size v) := by
  unfold State.hostWrite
  split
  · exact (h.cdc ..).badAccess ..
  · exact h.bar0Write ..

theorem vfWrite (f o size v) : Kept s (t.vfWrite f o size v) := by
  unfold State.vfWrite
  split
  · exact h.badAccess ..
  · exact h.pciWrite ..

theorem regWrite (n) {f : State → State} (hf : ∀ u, Kept s u → Kept s (f u)) : Ended s (t.regWrite n f) := by
  unfold State.regWrite
  exact Ended.branch h.next (hf _ h).next

theorem ifReached (b) {f : State → State} (hf : ∀ u, Kept s u → Kept s (f u)) : Kept s (t.ifReached b f) := by
  unfold State.ifReached
  exact branch (hf _ h) h

theorem execPciCrWrite (f r v) : Ended s (Machine.execPciCrWrite f r v t) := h.regWrite _ fun _ h => h.writeCr ..

theorem execPciCqWrite (f r intr v) : Ended s (Machine.execPciCqWrite f r intr v t) := by
  unfold Machine.execPciCqWrite
  refine h.regWrite _ fun u h => ?_
  split
  · exact h.writeIntr ..
  · exact h.writeCq ..

theorem execPciWinWrite (f v) : Ended s (Machine.execPciWinWrite f v t) := h.regWrite _ fun _ h => h.writeWin ..

theorem execPciVfLimitsWrite (vf v) : Ended s (Machine.execPciVfLimitsWrite vf v t) :=
  h.regWrite _ fun _ h => h.writeLimits ..

theorem execHbmIlvWrite (v) : Ended s (Machine.execHbmIlvWrite v t) :=
  h.regWrite _ fun _ h => h.ifReached _ fun _ h => h.writeIlv ..

theorem execSysDvfsWrite (v) : Ended s (Machine.execSysDvfsWrite v t) := h.regWrite _ fun _ h => h.writeDvfs ..

theorem execNxpJobWrite (x v) : Ended s (Machine.execNxpJobWrite x v t) :=
  h.regWrite _ fun _ h => h.ifReached _ fun _ h => h.writeJob ..

theorem noteBad (pa) : Kept s (t.noteBad pa) := ((h.log ..).recordPa ..).retireDoomed

theorem bar0Read (f o n) : Kept s (t.bar0Read f o n) := by
  unfold State.bar0Read
  split
  · exact h.emit ..
  · exact ((h.cdc ..).badAccess ..).unsupported ..
  · exact (h.badAccess ..).unsupported ..

theorem bar4Read (f o n) : Kept s (t.bar4Read f o n) := by
  unfold State.bar4Read
  split
  · exact (h.badAccess ..).unsupported ..
  · split
    · exact (h.noteBad ..).unsupported ..
    · exact h.emit ..

theorem execBar4Read (f p n) : Ended s (Machine.execBar4Read f p n t) := by
  unfold Machine.execBar4Read
  split
  · exact h.next
  · split
    · exact (h.unsupported ..).next
    · split
      · exact (h.bar0Read ..).next
      · exact (h.emit ..).next
      · exact (h.bar4Read ..).next

theorem putUnits (l bs) : Kept s (t.putUnits l bs) := by
  induction l generalizing t bs with
  | nil => exact h
  | cons e l ih => exact ih (h.put ..) _

theorem execBar4Write (f o data) : Ended s (Machine.execBar4Write f o data t) := by
  unfold Machine.execBar4Write
  split
  · exact h.next
  · split
    · exact (h.badAccess ..).next
    · split
      · exact (h.noteBad ..).next
      · exact (h.putUnits ..).next

end

end Kept

end Sys2Proof.Safety
end

section
/-! SUPPORT. What metering keeps. -/

namespace Sys2Proof.Safety

open Machine

namespace Kept

section
variable {s t : State} (h : Kept s t)
include h

theorem hostWrites (a bs) : Kept s { t with hostMem := mwrite memDefault t.hostMem a bs } :=
  ⟨h.pending, fun m => ⟨(h.memory m).1, mwfBy_mwriteBy _ bs a (h.memory m).2⟩⟩

theorem tickActive : Kept s t.tickActive := foldl (fun _ _ h => branch (h.modCreg ..) h) _ h

theorem execMeterSample (codes) : Ended s (Machine.execMeterSample codes t) := by
  unfold Machine.execMeterSample
  split
  · exact h.next
  · dsimp only
    exact ((h.set ..).tickActive).next

theorem continueSerials (h') : Kept s (t.continueSerials h') := foldl (fun _ _ h => h.modCreg ..) _ h
theorem clearActive : Kept s t.clearActive := foldl (fun _ _ h => h.modCreg ..) _ h

theorem execMeterRecord : Ended s (Machine.execMeterRecord t) := by
  unfold Machine.execMeterRecord
  split
  · exact h.next
  · dsimp only
    exact (((branch ((h.set ..).continueSerials ..) h).set ..).clearActive).next

theorem execMeterSilent : Ended s (Machine.execMeterSilent t) := by
  unfold Machine.execMeterSilent
  split
  · exact h.next
  · dsimp only
    exact (((h.log ..).set ..).pfEvent ..).next

theorem execMeterRead (h' seq dest flags) : Ended s (Machine.execMeterRead h' seq dest flags t) := by
  unfold Machine.execMeterRead
  refine h.command _ _ _ fun u h => ?_
  dsimp only
  split
  · exact h.finish ..
  · split
    · exact h.finish ..
    · split
      · exact (h.hostWrites ..).finish ..
      · split
        · exact h.finish ..
        · split
          · exact (h.noteBad ..).finish ..
          · exact (h.putUnits ..).finish ..

theorem execAttest (h' nonce dest) : Ended s (Machine.execAttest h' nonce dest t) :=
  h.command _ _ _ fun _ h => (h.hostWrites ..).finish ..

theorem mctp (answer) : Ended s (t.mctp answer) := by
  unfold State.mctp
  split
  · exact h.next
  · split <;> exact (h.emit ..).next

theorem execGetRecord (seq) : Ended s (Machine.execGetRecord seq t) := by
  unfold Machine.execGetRecord
  split <;> exact h.mctp ..

theorem execSetChainHead (r) : Ended s (Machine.execSetChainHead r t) := by
  unfold Machine.execSetChainHead
  split
  · exact h.next
  · exact (h.set ..).next

theorem execGetAttestation (nonce) : Ended s (Machine.execGetAttestation nonce t) := h.mctp ..
theorem execGetTelemetry : Ended s (Machine.execGetTelemetry t) := h.mctp ..

end

end Kept

end Sys2Proof.Safety
end

section
/-! SUPPORT. What Lantern keeps. -/

namespace Sys2Proof.Safety

open Machine

namespace Kept

section
variable {s t : State} (h : Kept s t)
include h

/-! ## Operations: the state that each answers with -/

theorem lntClosed (x) : Kept s (t.lntClosed x) := h.cdc ..

theorem lntRegRead : Kept s t.lntRegRead.s := by
  unfold State.lntRegRead
  dsimp only
  split
  · exact h
  · exact h.lntClosed ..
  · exact h

theorem lntRegWrite : Kept s t.lntRegWrite.s := by
  unfold State.lntRegWrite
  dsimp only
  split
  · exact h.bar0Write ..
  · exact h.lntClosed ..
  · exact h

theorem lntMem (store) : Kept s (t.lntMem store).s := by
  unfold State.lntMem
  split
  · split
    · split
      · exact h.noteBad ..
      · exact h.put ..
    · split
      · exact h.noteBad ..
      · exact h
  · exact h.lntClosed ..
  · exact h

theorem lntWmkRead : Kept s t.lntWmkRead.s := by
  unfold State.lntWmkRead
  dsimp only
  split
  · exact h
  · split
    · exact h
    · exact h
    · exact h
    · split <;> exact h.advance

theorem lntWmkSet : Kept s t.lntWmkSet.s := by
  unfold State.lntWmkSet
  dsimp only
  split
  · exact h
  · split
    · exact h
    · exact h
    · exact h.handSet ..
    · exact h.advance

theorem lntSite : Kept s t.lntSite.s := by
  unfold State.lntSite
  dsimp only
  split
  · exact h
  · split
    · exact h.lntClosed ..
    · exact h

theorem lntRun (op) : Kept s (t.lntRun op).s := by
  unfold State.lntRun
  split
  · exact h
  · split
    · exact h.lntRegRead
    · exact h.lntRegWrite
    · exact h.lntMem _
    · exact h.lntMem _
    · exact h.lntWmkRead
    · exact h.lntWmkSet
    · exact h.lntSite
    · exact h

/-! ## Commands -/

theorem firstLantern (op) : Kept s (t.firstLantern op) := by
  unfold State.firstLantern
  split
  · exact h
  · exact (h.set ..).extend ..

theorem lantern (op jtag) : Kept s (t.lantern op jtag) := by
  unfold State.lantern
  exact (((h.firstLantern ..).set ..).lntRun ..).set ..

theorem lanternUpdate (r) : Kept s (t.lanternUpdate r) := by
  unfold State.lanternUpdate
  split
  · exact h
  · exact (h.set ..).lantern ..

theorem shiftDr (n tdi) : Kept s (t.shiftDr n tdi) := by
  unfold State.shiftDr
  split
  · exact (h.emit ..).advance
  · dsimp only
    split
    · exact (h.emit ..).lanternUpdate ..
    · exact h.emit ..

theorem lanternVia (op v) : Ended s (t.lanternVia op v) := by
  unfold State.lanternVia
  split
  · exact h.next
  · split
    · split
      · exact (h.lantern ..).next
      · exact h.next
    · split
      · exact h.next
      · exact (h.shiftDr ..).next

theorem execRegRead (v) : Ended s (Machine.execRegRead v t) := h.lanternVia ..
theorem execRegWrite (v) : Ended s (Machine.execRegWrite v t) := h.lanternVia ..
theorem execMemRead (v) : Ended s (Machine.execMemRead v t) := h.lanternVia ..
theorem execMemWrite (v) : Ended s (Machine.execMemWrite v t) := h.lanternVia ..
theorem execWmkRead (v) : Ended s (Machine.execWmkRead v t) := h.lanternVia ..
theorem execWmkSet (v) : Ended s (Machine.execWmkSet v t) := h.lanternVia ..
theorem execSiteRead (v) : Ended s (Machine.execSiteRead v t) := h.lanternVia ..

theorem execJtagInstruction (code) : Ended s (Machine.execJtagInstruction code t) := by
  unfold Machine.execJtagInstruction
  split
  · exact (h.shiftDr ..).next
  · dsimp only
    split
    · exact (h.set ..).next
    · exact ((h.set ..).extend ..).next

theorem execRegisterWrite (f o size v) : Ended s (Machine.execRegisterWrite f o size v t) := by
  unfold Machine.execRegisterWrite
  refine h.regWrite _ fun u h => ?_
  split
  · exact h.vfWrite ..
  · dsimp only
    refine branch ?_ ?_
    · exact (h.hostWrite ..).lantern ..
    · exact h.hostWrite ..

end

end Kept

end Sys2Proof.Safety
end

section
/-! SUPPORT. What every command and every step keeps. -/

namespace Sys2Proof.Safety

open Machine

namespace Kept

/-- Every command leaves the queue as it is and the memories canonical. -/
theorem exec {s t : State} (h : Kept s t) (c : Instr) : Ended s (Machine.exec c t) := by
  cases c with
  | nop => exact h.execNop ..
  | tcfg => exact h.execTcfg ..
  | tcfgClear => exact h.execTcfgClear ..
  | tld => exact h.execTld ..
  | tst => exact h.execTst ..
  | twl => exact h.execTwl ..
  | tmm => exact h.execTmm ..
  | tmv => exact h.execTmv ..
  | tmvRow => exact h.execTmvRow ..
  | tdr => exact h.execTdr ..
  | tzr => exact h.execTzr ..
  | tmov => exact h.execTmov ..
  | halo => exact h.execHalo ..
  | blr => exact h.execBlr ..
  | wait => exact h.execWait ..
  | sig => exact h.execSig ..
  | fence => exact h.execFence ..
  | loop => exact h.execLoop ..
  | endl => exact h.execEndl ..
  | mova => exact h.execMova ..
  | adda => exact h.execAdda ..
  | coreTaskEnd => exact h.execCoreTaskEnd ..
  | interrupt => exact h.execInterrupt ..
  | coreResume => exact h.execCoreResume ..
  | ramblerFetch => exact h.execRamblerFetch ..
  | cdcTimeout => exact h.execCdcTimeout ..
  | packageLinkRetrain => exact h.execPackageLinkRetrain ..
  | linkDown => exact h.execLinkDown ..
  | taskDispatch => exact h.execTaskDispatch
  | taskCoreReserve => exact h.execTaskCoreReserve ..
  | preempt => exact h.execPreempt ..
  | blanketFetch => exact h.execBlanketFetch ..
  | stashCopy => exact h.execStashCopy ..
  | taskComplete => exact h.execTaskComplete ..
  | waymarkCountAdd => exact h.execWaymarkCountAdd ..
  | watchPoll => exact h.execWatchPoll ..
  | versionStallLimit => exact h.execVersionStallLimit ..
  | contributionSend => exact h.execContributionSend ..
  | contributionTake => exact h.execContributionTake ..
  | slotAcquire => exact h.execSlotAcquire ..
  | phaseC => exact h.execPhaseC ..
  | updateCommit => exact h.execUpdateCommit ..
  | versionPull => exact h.execVersionPull ..
  | commandDoorbell => exact h.execCommandDoorbell ..
  | completionDoorbell => exact h.execCompletionDoorbell ..
  | commandPacket => exact h.execCommandPacket ..
  | msixDelay => exact h.execMsixDelay ..
  | ctxCreate => exact h.execCtxCreate ..
  | ctxDestroy => exact h.execCtxDestroy ..
  | mapPages => exact h.execMapPages ..
  | unmapPages => exact h.execUnmapPages ..
  | resume => exact h.execResume ..
  | graphSubmit => exact h.execGraphSubmit ..
  | graphAbort => exact h.execGraphAbort ..
  | stepBegin => exact h.execStepBegin ..
  | stepCommit => exact h.execStepCommit ..
  | stepCommitReady => exact h.execStepCommitReady ..
  | groupWrite => exact h.execGroupWrite ..
  | waymarkRead => exact h.execWaymarkRead ..
  | waymarkWrite => exact h.execWaymarkWrite ..
  | checkpoint => exact h.execCheckpoint ..
  | checkpointCopy => exact h.execCheckpointCopy ..
  | restore => exact h.execRestore ..
  | rollcallRun => exact h.execRollcallRun ..
  | rollcallCluster => exact h.execRollcallCluster ..
  | ingestOpen => exact h.execIngestOpen ..
  | ingestFeed => exact h.execIngestFeed ..
  | ingestClose => exact h.execIngestClose ..
  | decodeAccessUnit => exact h.execDecodeAccessUnit ..
  | clipWrite => exact h.execClipWrite ..
  | fabricJoin => exact h.execFabricJoin ..
  | joinTimeout => exact h.execJoinTimeout
  | fabricLeave => exact h.execFabricLeave ..
  | meterRead => exact h.execMeterRead ..
  | attest => exact h.execAttest ..
  | query => exact h.execQuery ..
  | bar4Read => exact h.execBar4Read ..
  | bar4Write => exact h.execBar4Write ..
  | pciCrWrite => exact h.execPciCrWrite ..
  | pciCqWrite => exact h.execPciCqWrite ..
  | pciWinWrite => exact h.execPciWinWrite ..
  | pciVfLimitsWrite => exact h.execPciVfLimitsWrite ..
  | hbmIlvWrite => exact h.execHbmIlvWrite ..
  | sysDvfsWrite => exact h.execSysDvfsWrite ..
  | nxpJobWrite => exact h.execNxpJobWrite ..
  | registerWrite => exact h.execRegisterWrite ..
  | functionLevelReset => exact h.execFunctionLevelReset ..
  | regRead => exact h.execRegRead ..
  | regWrite => exact h.execRegWrite ..
  | memRead => exact h.execMemRead ..
  | memWrite => exact h.execMemWrite ..
  | wmkRead => exact h.execWmkRead ..
  | wmkSet => exact h.execWmkSet ..
  | siteRead => exact h.execSiteRead ..
  | jtagInstruction => exact h.execJtagInstruction ..
  | laneFail => exact h.execLaneFail ..
  | flitReceive => exact h.execFlitReceive ..
  | flitAckTimeout => exact h.execFlitAckTimeout ..
  | portRetrain => exact h.execPortRetrain ..
  | portDown => exact h.execPortDown ..
  | read => exact h.execRead ..
  | write => exact h.execWrite ..
  | writeSignal => exact h.execWriteSignal ..
  | waymarkAdd => exact h.execWaymarkAdd ..
  | bulkPull => exact h.execBulkPull ..
  | bulkWrite => exact h.execBulkWrite ..
  | bulkCopy => exact h.execBulkCopy ..
  | response => exact h.execResponse ..
  | e2eNak => exact h.execE2eNak ..
  | resendTimeout => exact h.execResendTimeout ..
  | join => exact h.execJoin ..
  | grant => exact h.execGrant ..
  | heartbeat => exact h.execHeartbeat ..
  | heartbeatTimer => exact h.execHeartbeatTimer
  | memberFailed => exact h.execMemberFailed ..
  | managerSilence => exact h.execManagerSilence
  | membership => exact h.execMembership ..
  | ready => exact h.execReady ..
  | commit => exact h.execCommit ..
  | abandon => exact h.execAbandon ..
  | mirror => exact h.execMirror ..
  | takeover => exact h.execTakeover ..
  | pairBroken => exact h.execPairBroken
  | stepReplay => exact h.execStepReplay ..
  | scrub => exact h.execScrub ..
  | boot => exact h.execBoot ..
  | coldReset => exact h.execColdReset
  | warmReset => exact h.execWarmReset ..
  | pwrBrake => exact h.execPwrBrake
  | thermalSample => exact h.execThermalSample ..
  | meterSample => exact h.execMeterSample ..
  | meterRecord => exact h.execMeterRecord
  | meterSilent => exact h.execMeterSilent
  | getRecord => exact h.execGetRecord ..
  | setChainHead => exact h.execSetChainHead ..
  | getAttestation => exact h.execGetAttestation ..
  | getTelemetry => exact h.execGetTelemetry
  | memoryResponse => exact h.execMemoryResponse ..
  | clusterDmaTransfer => exact h.execClusterDmaTransfer ..
  | packageLinkReplay => exact h.execPackageLinkReplay ..
  | packageLinkRetrained => exact h.execPackageLinkRetrained ..
  | portRetrained => exact h.execPortRetrained ..
  | perstRelease => exact h.execPerstRelease
  | pwrBrakeRelease => exact h.execPwrBrakeRelease
  | powerGood => exact h.execPowerGood
  | vfEnable => exact h.execVfEnable ..

end Kept

/-- The queue is no part of what makes a memory canonical. -/
theorem MemoryOk.setPending {s : State} (m : MemoryOk s) (l : List Instr) : MemoryOk { s with pending := l } := m

theorem step_keeps_memory {s t : State} (m : MemoryOk s) (e : step s = .next t) : MemoryOk t := by
  unfold step at e
  split at e
  · cases e
    exact (Kept.refl s).passNs.memory m
  next c rest _ => exact (((Kept.refl { s with pending := rest }).exec c).of_next e).memory (m.setPending rest)

/-- Settles O4: every operation of the model keeps both memories canonical, so every command does, and time does. -/
theorem stepKeepsMemoryCanonical : Obligations.StepKeepsMemoryCanonical := by
  unfold Obligations.StepKeepsMemoryCanonical
  exact fun _ _ => step_keeps_memory

end Sys2Proof.Safety
end

section
/-! SUPPORT. RAMBLER_FETCH of a core that runs a tile program (R184 to R186): one step, by the instruction that Rambler stands at. -/

namespace Sys2Proof.Machine

open Safety

section
variable {s : State} {c : Nat} {w : W64} (word : (s.core c).prog[(s.core c).ramb.pc]? = some w) (y : Who)
include word

/-- Rambler waits at a WAIT (R186). -/
theorem State.rambStep_wait {a b e} (i : decodeTile w = some (.wait a b e)) : s.rambStep c y = s.stopRamb c .wait := by
  simp only [State.rambStep, word, i]

/-- Rambler waits at a FENCE with LOADS (R186). -/
theorem State.rambStep_fence {a} (i : decodeTile w = some (.fence a true)) : s.rambStep c y = s.stopRamb c .fence := by
  simp only [State.rambStep, word, i]

/-- Rambler steps over an instruction that it does not follow: one that moves no address or counter, and configures nothing. -/
theorem State.rambStep_over (i : decodeTile w = some .nop ∨ ∃ a b, decodeTile w = some (.twl a b 0 false)) :
    s.rambStep c y = s.modRamb c (fun m => { m with pc := m.pc + 1, at_ := 0, stop := .stepping }) := by
  obtain i | ⟨a, b, i⟩ := i <;> simp only [State.rambStep, word, i, shapeStep]

section
variable {q base stride pfx offset : Nat} {remote : Bool}
  (i : decodeTile w = some (.tld q base stride false remote pfx offset)) (late : (s.core c).ramb.late = 0)
include i late

/-- Rambler goes no further than 64 TLDs ahead (R186). -/
theorem State.rambStep_ahead (far : 64 ≤ (s.core c).ramb.ahead) : s.rambStep c y = s.stopRamb c .ahead := by
  simp [State.rambStep, word, i, late, far]

/-- Rambler asks for a TLD's rows from where it stands in them, and goes on once all are asked for (R183, R185). -/
theorem State.rambStep_tld {u : State} {n : Nat} {l : List (Nat × Nat)} (near : (s.core c).ramb.ahead < 64)
    (rows : tldParts ⟨base, stride, false, remote, pfx, signed 24 offset⟩ (s.core c).ramb.a (mget {} (s.core c).ramb.cfgs q) = l)
    (asked : s.prefetchAll c y (l.drop (s.core c).ramb.at_) = (u, n)) :
    s.rambStep c y = u.modRamb c (fun m =>
      if (s.core c).ramb.at_ + n < l.length then { m with at_ := (s.core c).ramb.at_ + n, stop := .full }
      else { m with pc := m.pc + 1, ahead := m.ahead + 1, at_ := 0, stop := .stepping }) := by
  subst rows
  simp only [State.rambStep, word, i, late, Nat.not_le.mpr near, State.rambParts, asked, Bool.false_eq_true, ne_eq, not_true, if_false]
  split <;> rfl

end

end

/-- One step that Rambler is free to make, then the sort window and the core's unfinished instructions (R184). -/
theorem execRamblerFetch_step {s : State} {c : Nat} {t : CoreTask} (clocked : Clocked s) (service : s.inService c = true)
    (plain : s.interrupting c = false) (task : (s.core c).task = some t) (hand : t.hand = true) (started : (s.core c).seq ≠ .idle)
    (sound : (s.core c).seq ≠ .faulted) (free : (s.core c).ramb.stop = .stepping) (none_ : (s.core c).ramb.replay = []) :
    exec (.ramblerFetch c 1) s = .next (((s.rambStep c (s.whoCore c)).issueWindow c).goOn c) := by
  have runs : s.rambRun c t (s.whoCore c) 1 = s.rambStep c (s.whoCore c) := by
    simp [State.rambRun, free, none_, hand]
  have power : s.power.stopped = false := clocked
  simp [exec, execRamblerFetch, power, service, task, plain, started, sound, hand, runs]

/-- Settles O23: the command is one step of Rambler, and a step is what the instruction that it stands at asks for. -/
theorem ramblerSteps : Obligations.RamblerSteps := by
  unfold Obligations.RamblerSteps
  intro s c t w clocked service plain task hand started sound free none_ word
  have fetch := execRamblerFetch_step clocked service plain task hand started sound free none_
  refine ⟨fun a b e i => ?_, fun a i => ?_, fun i => ?_, fun u n q base stride pfx offset remote i late =>
    ⟨fun far => ?_, fun near asked => ?_⟩⟩
  · exact fetch.trans (by rw [State.rambStep_wait word _ i]; rfl)
  · exact fetch.trans (by rw [State.rambStep_fence word _ i]; rfl)
  · exact fetch.trans (by rw [State.rambStep_over word _ i])
  · exact fetch.trans (by rw [State.rambStep_ahead word _ i late far]; rfl)
  · exact fetch.trans (by rw [State.rambStep_tld word _ i late near rfl asked])

end Sys2Proof.Machine
end

section
/-! SUPPORT. Contexts and their pages (R178, R179, R181, R338, R339): which byte a list of runs maps, what an unmapping leaves of a run,
and what each command answers. -/

namespace Sys2Proof.Machine

open Safety

/-! ## Runs of pages -/

/-- Whether a run maps a virtual offset. -/
def Page.Maps (p : Page) (a : Nat) : Prop := p.va ≤ a ∧ a < p.va + p.bytes

theorem lookupPage_none {l : List Page} {a : Nat} (h : ∀ p ∈ l, ¬ p.Maps a) : lookupPage l a = none := by
  induction l with
  | nil => rfl
  | cons p l ih =>
    obtain ⟨hp, hl⟩ := List.forall_mem_cons.mp h
    exact (if_neg hp).trans (ih hl)

/-- A run behind others that do not map an offset maps it itself. -/
theorem lookupPage_append_last {l : List Page} {p : Page} {a : Nat} (h : ∀ q ∈ l, ¬ q.Maps a) (m : p.Maps a) :
    lookupPage (l ++ [p]) a = some (p.pa + (a - p.va), p.attr) := by
  induction l with
  | nil => exact if_pos m
  | cons q l ih =>
    obtain ⟨hq, hl⟩ := List.forall_mem_cons.mp h
    exact (if_neg hq).trans (ih hl)

/-- A run that maps an offset of a range meets the range. -/
theorem Page.Maps.meets {p : Page} {va n k : Nat} (m : p.Maps (va + k)) (hk : k < n) : spansMeet va n p.va p.bytes = true := by
  obtain ⟨lo, hi⟩ := m
  simp only [spansMeet, Bool.and_eq_true, decide_eq_true_eq]
  omega

/-- What an unmapping leaves of a run that it meets: the pages before the range and the pages behind it. -/
theorem Page.without_meets {p : Page} {va n size : Nat} (sized : p.size = size) (meets : spansMeet va n p.va p.bytes = true) :
    p.without va n size =
      (if (va - p.va) / pageBytes size = 0 then [] else [{ p with count := (va - p.va) / pageBytes size }])
      ++ (if p.count ≤ (va + n - p.va) / pageBytes size then []
        else [{ p with va := p.va + (va + n - p.va) / pageBytes size * pageBytes size
                       pa := p.pa + (va + n - p.va) / pageBytes size * pageBytes size
                       count := p.count - (va + n - p.va) / pageBytes size }]) := by
  simp only [Page.without, sized, meets, ne_eq, not_true, Bool.true_eq_false, or_self, if_false]

/-- The pages before a range map none of it. -/
theorem Page.before_range {p : Page} {va k size : Nat} (sized : p.size = size) (some_ : (va - p.va) / pageBytes size ≠ 0) :
    ¬ ({ p with count := (va - p.va) / pageBytes size } : Page).Maps (va + k) := by
  rintro ⟨-, hi⟩
  have below : (va - p.va) / pageBytes size * pageBytes size ≤ va - p.va := Nat.div_mul_le_self ..
  have starts : p.va < va := Nat.lt_of_sub_ne_zero fun none_ => some_ (by simp [none_])
  simp only [Page.bytes, sized] at hi
  omega

/-- The pages behind a range map none of it, where the range and the run are made of whole pages. -/
theorem Page.behind_range {p : Page} {va count k size c pa : Nat} (whole : va % pageBytes size = 0) (aligned : p.va % pageBytes size = 0)
    (starts : p.va < va + count * pageBytes size) (hk : k < count * pageBytes size) :
    ¬ ({ p with va := p.va + (va + count * pageBytes size - p.va) / pageBytes size * pageBytes size, pa := pa, count := c } : Page).Maps
      (va + k) := by
  rintro ⟨lo, -⟩
  have pages : pageBytes size ∣ va + count * pageBytes size - p.va :=
    Nat.dvd_sub (Nat.dvd_add (Nat.dvd_of_mod_eq_zero whole) (Nat.dvd_mul_left ..)) (Nat.dvd_of_mod_eq_zero aligned)
  simp only [Nat.div_mul_cancel pages] at lo
  omega

/-- What an unmapping leaves of a run maps no byte of the range. -/
theorem Page.without_maps_none {p : Page} {va count k size : Nat} (whole : va % pageBytes size = 0) (hk : k < count * pageBytes size)
    (fits : spansMeet va (count * pageBytes size) p.va p.bytes = true → p.size = size ∧ p.va % pageBytes size = 0) :
    ∀ q ∈ p.without va (count * pageBytes size) size, ¬ q.Maps (va + k) := by
  intro q hq
  by_cases meets : spansMeet va (count * pageBytes size) p.va p.bytes = true
  · obtain ⟨sized, aligned⟩ := fits meets
    have starts : p.va < va + count * pageBytes size := by
      simp only [spansMeet, Bool.and_eq_true, decide_eq_true_eq] at meets
      exact meets.2
    rw [Page.without_meets sized meets, List.mem_append] at hq
    obtain hq | hq := hq
    · split at hq
      · cases hq
      next some_ => exact List.mem_singleton.mp hq ▸ Page.before_range sized some_
    · split at hq
      · cases hq
      · exact List.mem_singleton.mp hq ▸ Page.behind_range whole aligned starts hk
  · have apart : p.without va (count * pageBytes size) size = [p] := if_pos (.inr (Bool.eq_false_iff.mpr meets))
    rw [apart, List.mem_singleton] at hq
    exact hq ▸ fun m => meets (m.meets hk)

/-! ## The context that a command acts on -/

theorem State.setCtx_ctx_apply (s : State) (x y : Nat) (c : Ctx) : (s.setCtx x c).ctx y = if x = y then some c else s.ctx y :=
  mfind_mput s.ctxs x y c

theorem State.modCtx_of_some {s : State} {x : Nat} {c : Ctx} (h : s.ctx x = some c) (f : Ctx → Ctx) : s.modCtx x f = s.setCtx x (f c) := by
  simp only [State.modCtx, h]

/-- The context numbers after CTX_CREATE (R338). -/
theorem State.create_ctx (s : State) (x fn seed saveArea prio eventCq y : Nat) :
    (s.create x fn seed saveArea prio eventCq).ctx y =
      if x = y then some { fn := fn, seed := seed, saveArea := saveArea, prio := prio, eventCq := eventCq } else s.ctx y :=
  s.setCtx_ctx_apply x y _

/-- A context that has ended is none (R339). -/
theorem State.destroy_ctx (s : State) (x : Nat) : (s.destroy x).ctx x = none := by
  unfold State.destroy
  split
  next none_ => exact none_
  · exact (mfind_mdel _ x x).trans (if_pos rfl)

/-! ## The commands -/

section
variable {s : State} {h : Cmd}

/-- CTX_CREATE that passes its checks makes the lowest free number (R338). -/
theorem execCtxCreate_creates {seed saveArea prio eventCq x : Nat} {spell : List Byte → Bool}
    (spells : spell = fun p =>
      decide (field p 8 8 = seed ∧ field p 0x10 8 = saveArea ∧ field p 0x18 1 = prio ∧ field p 0x19 1 = eventCq))
    (a : Accepted s h 0x01 spell) (may : s.mayCreate h.fn ≠ 0) (limit : ¬ (h.fn ≠ 0 ∧ bits (s.limitsOf h.fn) 48 47 < prio))
    (hprio : prio < 4) (hcq : eventCq < 4) (aligned : saveArea % 0x200000 = 0) (fits : saveArea + 648 * 2 ^ 20 ≤ hbmBytes)
    (free : (range 64).find? (fun x => (s.ctx x).isNone) = some x) :
    execCtxCreate h seed saveArea prio eventCq s =
      .next (((s.acts h 0x01 spell).create x h.fn seed saveArea prio eventCq).finish h 0x01 0 (toBytes 1 x)) := by
  subst spells
  unfold execCtxCreate
  rw [State.command_accepted a]
  have sound : ¬ ((h.fn ≠ 0 ∧ bits (s.limitsOf h.fn) 48 47 < prio) ∨ 4 ≤ prio ∨ 4 ≤ eventCq ∨ saveArea % 0x200000 ≠ 0
      ∨ hbmBytes < saveArea + 648 * 2 ^ 20) := by
    simp only [not_or]
    exact ⟨limit, by omega, by omega, not_not.mpr aligned, by omega⟩
  refine congrArg Host.Outcome.next ((if_neg may).trans ((if_neg sound).trans ?_))
  have freeAfter (spell) : (range 64).find? (fun y => ((s.acts h 0x01 spell).ctx y).isNone) = some x := free
  rw [freeAfter]

/-- CTX_DESTROY ends the context at once, or waits for a command of it on another ring (R339). -/
theorem execCtxDestroy_eq (a : Accepted s h 0x02 (fun _ => true)) :
    execCtxDestroy h s = .next (if s.holdsDestroy h then s else (s.destroy h.ctx).finish h 0x02 0 []) := by
  unfold execCtxDestroy
  exact State.serve_accepted a _

/-- MAP_PAGES, by its checks (R178, R340). -/
theorem execMapPages_eq {va pa count attr : Nat} {spell : List Byte → Bool}
    (spells : spell = fun p => decide (field p 8 8 = va ∧ field p 0x10 8 = pa ∧ field p 0x18 4 = count ∧ field p 0x1C 2 = attr))
    (a : Accepted s h 0x03 spell) {c : Ctx} (hc : s.ctx h.ctx = some c) :
    execMapPages h va pa count attr s = .next (
      if s.mapOk h va pa count attr = false then (s.acts h 0x03 spell).finish h 0x03 0x102 []
      else if s.poolSize < s.poolUsed + count then (s.acts h 0x03 spell).finish h 0x03 0x406 []
      else ((s.acts h 0x03 spell).setCtx h.ctx { c with pages := c.pages ++ [⟨va, pa, count, bits attr 4 3, attr⟩] }).finish
        h 0x03 0 []) := by
  subst spells
  unfold execMapPages
  rw [State.command_accepted a, State.modCtx_of_some (s := s.acts _ _ _) hc]
  simp only [Bool.not_eq_true']
  rfl

/-- UNMAP_PAGES of a range that it may name waits for the stores translated through it, or unmaps it (R179). -/
theorem execUnmapPages_eq {va count size : Nat}
    (a : Accepted s h 0x04 (fun p => decide (field p 8 8 = va ∧ field p 0x10 4 = count ∧ field p 0x14 1 = size)))
    {c : Ctx} (hc : s.ctx h.ctx = some c) (sized : size < 3) (whole : va % pageBytes size = 0) (some_ : 1 ≤ count)
    (few : count ≤ 2 ^ 24) (tier : inTier va (count * pageBytes size) = true) :
    execUnmapPages h va count size s = .next (
      if s.storesThrough h.ctx va (count * pageBytes size) then s
      else ((s.discardFetched h.ctx va (count * pageBytes size)).modCtx h.ctx (fun k =>
        { k with pages := c.pages.flatMap (fun p => p.without va (count * pageBytes size) size) })).finish h 0x04 0 []) := by
  unfold execUnmapPages
  rw [State.serve_accepted a]
  have sound : ¬ (3 ≤ size ∨ va % pageBytes size ≠ 0 ∨ count = 0 ∨ 2 ^ 24 < count ∨ inTier va (count * pageBytes size) = false) := by
    simp only [not_or, tier]
    exact ⟨by omega, not_not.mpr whole, by omega, by omega, by decide⟩
  have kept : (s.discardFetched h.ctx va (count * pageBytes size)).ctx h.ctx = some c := hc
  simp only [sound, if_false, State.modCtx_of_some kept]

/-- RESUME, by whether the context is suspended (R181). -/
theorem execResume_eq (a : Accepted s h 0x05 (fun _ => true)) {c : Ctx} (hc : s.ctx h.ctx = some c) :
    execResume h s = .next (
      if c.suspended = false then (s.acts h 0x05).finish h 0x05 0 []
      else
        let t := ((s.acts h 0x05).setCtx h.ctx { c with suspended := false }).loadAgain h.ctx
        ((t.streamsOf h.ctx).foldl (fun (s : State) e => s.pump e.1 (e.2.feeds.length + 1)) t).finish h 0x05 0 []) := by
  unfold execResume
  rw [State.command_accepted a]
  have suspended : (s.acts h 0x05).ctxSuspended h.ctx = c.suspended := by
    show ((s.ctx h.ctx).map Ctx.suspended).getD true = _
    rw [hc]
    rfl
  rw [State.modCtx_of_some (s := s.acts _ _ _) hc]
  simp only [suspended, Bool.not_eq_true']

end

/-- A range that MAP_PAGES may map meets no run that is mapped already (R178). -/
theorem State.mapOk_apart {s : State} {h : Cmd} {va pa count attr : Nat} (ok : s.mapOk h va pa count attr = true) {c : Ctx}
    (hc : s.ctx h.ctx = some c) {p : Page} (hp : p ∈ c.pages) :
    spansMeet va (count * pageBytes (bits attr 4 3)) p.va p.bytes = false := by
  simp only [State.mapOk, hc, Bool.and_eq_true, Bool.not_eq_true', Option.map_some, Option.getD_some] at ok
  exact Bool.eq_false_iff.mpr (List.any_eq_false.mp ok.1.2 p hp)

/-- Settles O37: each command by its equation; the new run alone maps its range, and what an unmapping leaves maps none of its own. -/
theorem contextsAndPages : Obligations.ContextsAndPages := by
  unfold Obligations.ContextsAndPages
  refine ⟨fun s h seed saveArea prio eventCq x => ?_, fun s h a => ⟨fun free => ?_, fun busy => ?_⟩, fun s h va pa count attr c => ?_,
    fun s h va count size c a hc sized whole some_ few tier => ⟨fun done => ⟨?_, fun fits k hk => ?_⟩, fun stores => ?_⟩,
    fun s h c a hc => ⟨fun suspended => ?_, fun goes => ?_⟩⟩
  · intro spell u a may limit hprio hcq aligned fits free
    exact ⟨execCtxCreate_creates rfl a may limit hprio hcq aligned fits free,
      fun y => State.create_ctx u x h.fn seed saveArea prio eventCq y⟩
  · exact ⟨(execCtxDestroy_eq a).trans (by rw [if_neg (Bool.eq_false_iff.mp free)]), s.destroy_ctx h.ctx⟩
  · exact (execCtxDestroy_eq a).trans (by rw [if_pos busy])
  · intro spell u a hc pages
    have run := execMapPages_eq rfl a hc
    refine ⟨fun ok room => ⟨?_, fun k hk => ?_⟩, fun ok full => ?_, fun bad => ?_⟩
    · exact run.trans (by rw [if_neg (by simp [ok]), if_neg (Nat.not_lt.mpr room)])
    · have others (p) (hp : p ∈ c.pages) : ¬ p.Maps (va + k) := fun m =>
        Bool.eq_false_iff.mp (State.mapOk_apart ok hc hp) (m.meets hk)
      exact (lookupPage_append_last others ⟨Nat.le_add_right .., Nat.add_lt_add_left hk _⟩).trans (by simp)
    · exact run.trans (by rw [if_neg (by simp [ok]), if_pos full])
    · exact run.trans (by rw [if_pos bad])
  · exact (execUnmapPages_eq a hc sized whole some_ few tier).trans (by rw [if_neg (Bool.eq_false_iff.mp done)])
  · refine lookupPage_none fun q hq => ?_
    obtain ⟨p, hp, hq⟩ := List.mem_flatMap.mp hq
    exact Page.without_maps_none whole hk (fits p hp) q hq
  · exact (execUnmapPages_eq a hc sized whole some_ few tier).trans (by rw [if_pos stores])
  · exact (execResume_eq a hc).trans (by rw [if_neg (by simp [suspended])])
  · exact (execResume_eq a hc).trans (by rw [if_pos goes])

end Sys2Proof.Machine
end

section
/-! SUPPORT. What a packet does at its destination (R188, R305, R361, R367): the accesses of the context that exports its job, and the
effect of each opcode by them. -/

namespace Sys2Proof.Machine

variable {s t : State} {p : Packet}

/-! ## Accesses on behalf of a remote requester -/

/-- The context that serves a packet: none where the device serves nothing, or none exports the packet's job (R361). -/
theorem State.served_none (h : s.servesRemote = false ∨ s.exporter p.job = none) :
    (if s.servesRemote then s.exporter p.job else none) = none := by
  obtain h | h := h <;> simp [h]

theorem State.remoteWrite_unserved (h : s.servesRemote = false ∨ s.exporter p.job = none) (data : List Byte) :
    s.remoteWrite p data = (s, 0x504) := by
  simp only [State.remoteWrite, State.served_none h]

theorem State.remoteRead'_unserved (h : s.servesRemote = false ∨ s.exporter p.job = none) (n : Nat) :
    s.remoteRead' p n = (s, 0x504, []) := by
  simp only [State.remoteRead', State.served_none h]

section
variable {x : Nat} (serves : s.servesRemote = true) (exports : s.exporter p.job = some x)
include serves exports

/-- A write that the exporting context makes whole; it is none of a landing slot. -/
theorem State.remoteWrite_exports (memory : p.addr < 2 ^ 63) {data : List Byte}
    (written : s.write (s.remoteWho x (bits p.flags 2 2)) (localOf p.addr) data = (t, none)) : s.remoteWrite p data = (t, 0) := by
  have landing : isLanding p.addr = false := by simpa [isLanding] using memory
  simp [State.remoteWrite, serves, exports, landing, written]

/-- A speculative READ of a NOSPEC page reads nothing (R188). -/
theorem State.remoteRead'_nospec {n : Nat} (read : p.op = 1)
    (secret : (bit p.flags 0 && (units (localOf p.addr) n).any (fun q => s.nospec x q.1)) = true) :
    s.remoteRead' p n = (s, 0x504, []) := by
  simp only [State.remoteRead', serves, exports, read, decide_true, Bool.true_and, secret, if_true]

theorem State.remoteRead'_exports {n : Nat} {bs : List Byte} (read : p.op = 1)
    (open_ : (bit p.flags 0 && (units (localOf p.addr) n).any (fun q => s.nospec x q.1)) = false)
    (data : s.read (s.remoteWho x (bits p.flags 2 2)) (localOf p.addr) n = .data bs) : s.remoteRead' p n = (s, 0, bs) := by
  simp only [State.remoteRead', serves, exports, read, decide_true, Bool.true_and, open_, if_true, Bool.false_eq_true, if_false, data]

end

/-- A device that leaves, or has left, takes no add (R374). -/
theorem State.remoteAdd_left (h : s.nxp.leaving = true ∨ s.nxp.device = 0x7FFF) (ref inc : Nat) : s.remoteAdd ref inc = (s, 0x504) := by
  simp only [State.remoteAdd, if_pos h]

section
variable (stays : s.nxp.leaving = false) (member : s.nxp.device ≠ 0x7FFF) {ref inc : Nat}
include stays member

theorem State.remoteAdd_unexported (none_ : s.exported (wkey (bits ref 25 20) (bits ref 19 0)) = none) :
    s.remoteAdd ref inc = (s, 0xA04) := by
  simp [State.remoteAdd, stays, member, none_]

theorem State.remoteAdd_exported {b : Binding} (bound : s.exported (wkey (bits ref 25 20) (bits ref 19 0)) = some b)
    (serves : s.servesRemote = true) (adds : inc ≠ 0) :
    s.remoteAdd ref inc = (s.applyAdd (wkey (bits ref 25 20) (bits ref 19 0)) inc, 0) := by
  simp [State.remoteAdd, stays, member, bound, serves, adds]

end

/-! ## The effect of an opcode -/

theorem State.place_read (op : p.op = 1) {c : Nat} {bs : List Byte} (r : s.remoteRead' p p.length = (t, c, bs)) :
    s.place p = (t, some (c, bs)) := by
  simp only [State.place, op, r]

/-- WRITE and BULK_WRITE. -/
theorem State.place_write (op : p.op = 2 ∨ p.op = 6) {c : Nat} (w : s.remoteWrite p (p.data.take p.length) = (t, c)) :
    s.place p = (t, some (c, [])) := by
  obtain op | op := op <;> simp only [State.place, op, w]

/-- WRITE_SIGNAL whose data is written: the answer is the add's (R367). -/
theorem State.place_signal (op : p.op = 3) (some_ : p.length ≠ 0) (w : s.remoteWrite p (p.data.take p.length) = (t, 0)) :
    s.place p = ((t.remoteAdd (field p.data p.length 8) (field p.data (p.length + 8) 8)).1,
      some ((t.remoteAdd (field p.data p.length 8) (field p.data (p.length + 8) 8)).2, [])) := by
  simp only [State.place, op, some_, if_false, w, ne_eq, not_true]

/-- WRITE_SIGNAL whose data is not written adds nothing (R367). -/
theorem State.place_signal_fails (op : p.op = 3) (some_ : p.length ≠ 0) {c : Nat} (fails : c ≠ 0)
    (w : s.remoteWrite p (p.data.take p.length) = (t, c)) : s.place p = (t, some (c, [])) := by
  simp only [State.place, op, some_, if_false, w, ne_eq, fails, not_false_eq_true, if_true]

theorem State.place_add (op : p.op = 4) {c : Nat} (a : s.remoteAdd p.addr (field p.data 0 8) = (t, c)) :
    s.place p = (t, some (c, [])) := by
  simp only [State.place, op, a]

/-- A BULK_PULL whose source no context serves. -/
theorem State.pulled_unserved (h : s.servesRemote = false ∨ s.exporter p.job = none) : s.pulled p = (s, some (0x504, [])) := by
  have source := State.remoteRead'_unserved (p := { p with addr := field p.data 0 8 }) h (field p.data 16 8)
  simp only [State.pulled, source]
  rfl

/-- A memory packet that no context serves is answered with 0x504 and does nothing (R361). -/
theorem State.place_unserved (op : p.op = 1 ∨ p.op = 2 ∨ p.op = 5 ∨ p.op = 6) (h : s.servesRemote = false ∨ s.exporter p.job = none) :
    s.place p = (s, some (0x504, [])) := by
  obtain op | op | op | op := op
  · exact State.place_read op (State.remoteRead'_unserved h _)
  · exact State.place_write (.inl op) (State.remoteWrite_unserved h _)
  · simp only [State.place, op, State.pulled_unserved h]
  · exact State.place_write (.inr op) (State.remoteWrite_unserved h _)

/-- Settles O48: the effect of each opcode, by what the access or the add that it makes answers. -/
theorem packetEffects : Obligations.PacketEffects := by
  unfold Obligations.PacketEffects
  intro s p
  refine ⟨fun x op serves exports => ⟨fun bs open_ data => ?_, fun secret => ?_⟩, fun x t op memory serves exports written => ?_,
    fun op h => ?_, fun t op some_ w => ?_, fun t c op some_ fails w => ?_, fun op left => ?_, fun op stays member =>
    ⟨fun b bound serves adds => ?_, fun none_ => ?_⟩⟩
  · exact State.place_read op (State.remoteRead'_exports serves exports op open_ data)
  · exact State.place_read op (State.remoteRead'_nospec serves exports op secret)
  · exact State.place_write op (State.remoteWrite_exports serves exports memory written)
  · exact State.place_unserved op h
  · exact State.place_signal op some_ w
  · exact State.place_signal_fails op some_ fails w
  · exact State.place_add op (State.remoteAdd_left left _ _)
  · exact State.place_add op (State.remoteAdd_exported stays member bound serves adds)
  · exact State.place_add op (State.remoteAdd_unexported stays member none_)

end Sys2Proof.Machine
end

section
/-! SUPPORT. Blanket chunks and the stash copy: which chunk a channel brings next, the slot that takes it (R215, R216), and the copy of a
saved tensor into its reservation (R245). -/

namespace Sys2Proof.Machine

section
variable {s u : State} {n ch : Nat}

/-- Every task of every graph, in the order in which a channel looks for its next chunk. -/
def State.blanketTasks (s : State) : List (Nat × Nat) :=
  s.trh.graphs.flatMap (fun (e : Nat × Graph) => e.2.tasks.map (fun t => (e.1, t.1)))

/-- The bytes of ranges of global addresses, in the order of the ranges. -/
def State.bytesOf (s : State) (c : Nat) (l : List (Nat × Nat)) : List Byte :=
  l.flatMap (fun p => (range p.2).map (fun k => s.byteG c (p.1 + k)))

/-! ## The chunk that a channel brings next -/

/-- With no chunk of the channel discarded, the next one is the one after the last, for the members that have not finished (R216). -/
theorem State.nextChunk_fresh {g i k : Nat} {group : List Nat} (going : s.going g i = true)
    (here : ∃ c ∈ (s.taskOf g i).cores, clusterOf c = n) (channel : ((s.jobOf g i).channels (s.taskOf g i) n)[ch]? = some (k, group))
    (kept : ∀ h ∈ (s.cluster n).chunks, h.channel = ch → h.data ≠ []) :
    s.nextChunk n ch g i =
      let d := mget 0 (s.cluster n).fetched (4 * (g * 2 ^ 24 + i) + ch)
      let m := group.filter (fun c => (s.taskOf g i).left.contains c
        && decide (16384 * d < rangeBytes ((s.jobOf g i).stream s (s.taskOf g i) c k)))
      if m = [] then none else some ⟨g, i, k, group, d, m, false⟩ := by
  have onCluster : (s.taskOf g i).cores.any (fun c => decide (clusterOf c = n)) = true := by simpa using here
  have none_discarded : (s.cluster n).chunks.find?
      (fun h => decide (h.channel = ch ∧ h.data = []) && h.members.any group.contains) = none := by
    rw [List.find?_eq_none]
    intro h mem discarded
    rw [Bool.and_eq_true, decide_eq_true_iff] at discarded
    exact kept h mem discarded.1.1 discarded.1.2
  simp only [State.nextChunk, going, onCluster, channel, none_discarded, Bool.not_true, Bool.or_self, Bool.false_eq_true, if_false]

/-! ## A chunk in its slot -/

/-- The slot holds the chunk's bytes. -/
theorem State.stageChunk_byteAt {slot k : Nat} {x : NextChunk} {data : List Byte} (inside : k < data.length) :
    (u.stageChunk n ch slot x data).byteAt (stagingAt n ch slot + k) = nth 0 data k := by
  calc (u.stageChunk n ch slot x data).byteAt (stagingAt n ch slot + k)
      = (u.put (stagingAt n ch slot) data).byteAt (stagingAt n ch slot + k) := rfl
    _ = data[k] := u.byteAt_put_inside _ _ inside
    _ = nth 0 data k := (List.getD_eq_getElem data 0 inside).symm

/-- A chunk brought for the first time joins its cluster's chunks. -/
theorem State.stageChunk_chunks {slot : Nat} {x : NextChunk} {data : List Byte} (first : x.again = false) :
    ((u.stageChunk n ch slot x data).cluster n).chunks
      = ((u.put (stagingAt n ch slot) data).cluster n).chunks ++ [⟨ch, slot, x.number, data, x.members⟩] := by
  simp [State.stageChunk, first]

/-! ## BLANKET_FETCH -/

section
variable (present : s.retired n = false) (service : (s.cluster n).mode = .service)
include present service

/-- A channel with no chunk to bring does nothing. -/
theorem execBlanketFetch_idle (nothing : s.blanketTasks.findSome? (fun e => s.nextChunk n ch e.1 e.2) = none) :
    execBlanketFetch n ch s = .next s := by
  rw [State.blanketTasks] at nothing
  simp [execBlanketFetch, present, service, nothing]

/-- A channel whose next chunk has a slot brings the chunk's bytes there. -/
theorem execBlanketFetch_staged {slot : Nat} {x : NextChunk} (valid : ch < 4)
    (next : s.blanketTasks.findSome? (fun e => s.nextChunk n ch e.1 e.2) = some x) (place : (s.cluster n).slotFor ch x = some slot)
    (loaded : dmaLoad s (s.jobOf x.graph x.task) n
      ((s.jobOf x.graph x.task).chunkRanges s (s.taskOf x.graph x.task) x.group x.operand x.number) = .ok u ()) :
    execBlanketFetch n ch s = .next (u.stageChunk n ch slot x (s.bytesOf (s.jobOf x.graph x.task).ctx
      ((s.jobOf x.graph x.task).chunkRanges s (s.taskOf x.graph x.task) x.group x.operand x.number))) := by
  rw [State.blanketTasks] at next
  have guard : (s.retired n || decide ((s.cluster n).mode ≠ .service) || decide (4 ≤ ch)) = false := by
    simp [present, service, valid]
  simp only [execBlanketFetch, guard, Bool.false_eq_true, if_false, next, place, loaded, State.dmaRes, State.bytesOf]

end

/-! ## STASH_COPY -/

/-- The saved tensor in its home buffer, as the SAVE descriptor (copied at 51) and its shard (copied at 52) give it. -/
def Job.savedSrc (j : Job) : Src := ⟨j.m.desc 51, j.m.at_ 52, none⟩

/-- The copy of a saved tensor whose rows are all readable ends with its reservation marked copied (R245). -/
theorem execStashCopy_copied {g i : Nat} {x : Graph} {h : Stash} {done : List Unit} (graph : s.graph g = some x)
    (fills : s.stashFill g i = some h) (going : s.going g i = true) (cores : (s.taskOf g i).left = [])
    (units : (s.taskOf g i).dmaLeft = [])
    (readable : (s.jobOf g i).savedSrc.badRow s (s.jobOf g i).who (range (dsRows (s.jobOf g i).savedSrc.d)) = none)
    (written : Res.each (fun t (e : Nat × List Byte) => stashWrite t (s.jobOf g i) e.1 e.2)
      ((h.granules.map (granuleAt x)).zip (chunks 65536 ((s.jobOf g i).savedSrc.dense s (s.jobOf g i).ctx))) s = .ok u done) :
    execStashCopy g i s = .next (u.modGraph g (fun x => { x with stash := x.stash.map (fun (v : Stash) =>
      if v.layer = h.layer ∧ v.mbatch = h.mbatch then { v with copied := true } else v) })) := by
  unfold Job.savedSrc at readable written
  have ended : decide ((s.taskOf g i).left ≠ [] ∨ (s.taskOf g i).dmaLeft ≠ []) = false := by simp [cores, units]
  simp only [execStashCopy, graph, fills, going, ended, Bool.not_true, Bool.or_self, Bool.false_eq_true, if_false, readable, written,
    Res.bind, State.dmaRes]

end

/-- Settles O28: a channel by whether it has a chunk to bring, and what its slot then holds; the chunk that is next; the stash copy. -/
theorem chunksAndStashCopies : Obligations.ChunksAndStashCopies := by
  unfold Obligations.ChunksAndStashCopies
  refine ⟨?_, ?_, ?_⟩
  · intro s n ch present service valid next
    refine ⟨execBlanketFetch_idle present service, ?_⟩
    intro u slot x some_ place j l loaded data
    refine ⟨execBlanketFetch_staged present service valid some_ place loaded, fun k => State.stageChunk_byteAt, fun first => ?_⟩
    rw [State.stageChunk_chunks first]
    exact List.mem_append_right _ (List.mem_singleton_self _)
  · intro s n ch g i k group q t j d m going here channel kept some_
    exact (State.nextChunk_fresh going here channel kept).trans (if_neg some_)
  · intro s u g i x h done graph fills going cores units j src readable written
    exact execStashCopy_copied graph fills going cores units readable written

end Sys2Proof.Machine
end

section
/-! SUPPORT. The waits of the Evile dies, by where a record stands, and what the computing commands of an update do once they are met (R251,
R261, R271, R278, R302). -/

namespace Sys2Proof.Machine

open Safety

section
variable {s : State} {x a : Nat} {r : Rec} {u : Upd}

/-- A record takes contributions and has every one of its round (R268, R278). -/
def State.RoundWhole (s : State) (x : Nat) (r : Rec) : Prop :=
  r.phase = .taking ∧ r.taken = (r.rounds + 1) * chunkCount (s.weightOf x r.bytes) (prSparse r.bytes) * prR r.bytes

/-! ## Waits that are met -/

/-- A count at its home on this device meets every threshold above 0 that it has reached (R302). -/
theorem State.metNow_of_countHere {id n : Nat} (positive : n ≠ 0) (reached : n ≤ s.countHere x id) : s.metNow (wkey x id) n = true := by
  unfold State.countHere at reached
  unfold State.metNow
  split
  · next home => simpa [home] using reached
  · next away =>
    split at reached
    · next home => exact absurd home (away _ _)
    · exact absurd (Nat.le_zero.mp reached) positive

/-- A record's wait on one of its Waymarks is met where the count has reached the one threshold that it waits for there. -/
theorem State.dieMet_of_reached {mark id n : Nat} (only : ∀ w ∈ s.waitsOf x r, w.1 = mark → w.2 = (id, n))
    (reached : n ≤ s.countHere x id) : s.dieMet x r mark = true := by
  simp only [State.dieMet, List.all_eq_true, List.mem_filter, decide_eq_true_eq]
  rintro w ⟨mem, isMark⟩
  have positive : w.2.2 ≠ 0 := of_decide_eq_true (List.mem_filter.mp mem).2
  have same := only w mem isMark
  rw [same] at positive ⊢
  rw [State.metNow_of_countHere positive reached, Bool.true_or]

/-- The slot that the next version goes to is free: a replica waits for it, and an owner once the round is whole (R251, R278). -/
theorem State.dieMet_slot (stands : r.owner = false ∨ s.RoundWhole x r)
    (reached : let v := s.peek x (prVersion r.bytes) 64; vrAcq v (vrNext v) ≤ s.countHere x (vrMark v (vrNext v))) :
    s.dieMet x r 7 = true := by
  refine State.dieMet_of_reached (fun w mem isSlot => ?_) reached
  obtain ⟨mark, id, n⟩ := w
  obtain replica | ⟨taking, whole⟩ := stands
  · simp_all [State.waitsOf]
  · cases owns : r.owner <;> simp_all [State.waitsOf]

/-- Every replica has pulled the last version (R278). -/
theorem State.dieMet_pulled (owns : r.owner = true) (whole : s.RoundWhole x r)
    (reached : (prR r.bytes - 1) * (r.published - 1) ≤ s.countHere x (prMark r.bytes 4)) : s.dieMet x r 4 = true := by
  refine State.dieMet_of_reached (fun w mem isPulled => ?_) reached
  obtain ⟨mark, id, n⟩ := w
  obtain ⟨taking, taken⟩ := whole
  simp_all [State.waitsOf]

/-- The orthogonalised rows are there (R271). -/
theorem State.dieMet_odone (owns : r.owner = true) (phase : r.phase = .phaseB)
    (reached : r.layers ≤ s.countHere x (prMark r.bytes 6)) : s.dieMet x r 6 = true := by
  refine State.dieMet_of_reached (fun w mem isDone => ?_) reached
  obtain ⟨mark, id, n⟩ := w
  simp_all [State.waitsOf]

/-- The owner has published the version that a replica pulls next (R279). -/
theorem State.dieMet_ready (replica : r.owner = false) (reached : r.pulled + 1 ≤ s.countHere x (prMark r.bytes 3)) :
    s.dieMet x r 3 = true := by
  refine State.dieMet_of_reached (fun w mem isReady => ?_) reached
  obtain ⟨mark, id, n⟩ := w
  simp_all [State.waitsOf]

/-! ## The values of an update -/

/-- An update works for the record from the version record's newest slot to the other one (R251). -/
theorem State.updOf_fields (update : s.updOf x a r = some u) :
    u.x = x ∧ u.r = r ∧ u.v = s.peek x a 64 ∧ u.new_ = vrNext u.v := by
  unfold State.updOf at update
  dsimp only at update
  split at update
  · cases update
  · next newest =>
    split at update
    · cases update
    · cases update
      exact ⟨rfl, rfl, rfl, by simp [vrNext, newest]⟩

/-! ## SLOT_ACQUIRE -/

section
variable (clocked : Clocked s) (present : s.record x a = some r) (going : r.failed = false) (owns : r.owner = true)
  (applied : r.unapplied = false) (whole : s.RoundWhole x r) (update : s.updOf x a r = some u)
include clocked present going owns applied whole update

/-- What SLOT_ACQUIRE does with a record whose round is whole: by its group's entry, then by its waits. -/
theorem execSlotAcquire_eq : execSlotAcquire x a s = .next (
    if geValid u.e = false then s.failRecord x a 0x604
    else if s.dieMet x r 7 = false ∨ s.dieMet x r 4 = false then s.armRecord x a
    else ((s.setSlot x a u.new_ 2 none).modRec x a (fun r => { r with
      step := u.tag, slot := u.new_, nonfinite := false, journalFull := false, stalled := false })).dieWork x a u.reads u.writes
        (fun v => (u.compute v).armRecord x a)) := by
  have guard : (s.power.stopped || !r.owner || r.failed || r.unapplied || decide (r.phase ≠ .taking)
      || decide (r.taken ≠ (r.rounds + 1) * chunkCount (s.weightOf x r.bytes) (prSparse r.bytes) * prR r.bytes)) = false := by
    simp [clocked.stopped, owns, going, applied, whole.1, whole.2]
  simp only [execSlotAcquire, present, guard, update, Bool.or_eq_true, Bool.not_eq_true', Bool.false_eq_true, if_false,
    apply_ite Host.Outcome.next]

end

/-! ## PHASE_C -/

/-- What phase C does of an update: the rows' new w go to the bank and through the weight's layout, and the record has computed (R271). -/
theorem Upd.finishC_eq (version : prVersion u.b = a) :
    u.finishC s =
      let om : Src := ⟨s.peek u.x (prMat u.b 1) 128, [], none⟩
      let o (q : Nat) := (range u.s0).map (fun c => om.enc s u.x (coordsOf om.d q c))
      let w (q : Nat) := ((u.old s q).1.zip (o q)).map (fun e => u.phaseC e.1 e.2)
      ((u.rows.foldl (fun (s : State) q =>
          u.writeSlot (s.putWords u.x (u.arr u.new_ 0 + 4 * (q * u.s0)) (w q)) q (w q)) s).modRec u.x a (fun r => { r with
        phase := .computed
        nonfinite := r.nonfinite || u.rows.any (fun q => (o q).any f32bad || (w q).any f32bad) })).armRecord u.x a := by
  simp only [Upd.finishC, version, List.foldl_map, List.any_map, Function.comp_def]

/-- Work is done on the state that the die finds, so that work that agrees there is the same. -/
theorem State.dieWork_congr {reads writes : State → List (Nat × Nat)} {f g : State → State} (same : f s = g s) :
    s.dieWork x a reads writes f = s.dieWork x a reads writes g := by
  simp only [State.dieWork, same]

/-- PHASE_C once the orthogonalised rows are there (R271). -/
theorem execPhaseC_met (clocked : Clocked s) (present : s.record x a = some r) (going : r.failed = false) (phase : r.phase = .phaseB)
    (met : s.dieMet x r 6 = true) (update : s.updOf x a r = some u) :
    execPhaseC x a s = .next (s.dieWork x a
      (fun v => u.matRanges v 1 ++ u.rows.map (fun q => (u.arr u.cur 0 + 4 * (q * u.s0), 4 * u.s0)))
      (fun _ => u.rows.map (fun q => (u.arr u.new_ 0 + 4 * (q * u.s0), 4 * u.s0)) ++ u.slotRanges u.new_ u.rows)
      u.finishC) := by
  simp [execPhaseC, present, clocked.stopped, going, phase, met, update]

end

/-- Settles O34: SLOT_ACQUIRE by the group's entry and the waits; PHASE_C by its equation. -/
theorem updatesAcquireAndCompute : Obligations.UpdatesAcquireAndCompute := by
  unfold Obligations.UpdatesAcquireAndCompute
  refine ⟨?_, ?_⟩
  · intro s x a r u clocked present version going owns applied taking taken update
    obtain ⟨-, -, hv, hnew⟩ := State.updOf_fields update
    have whole : s.RoundWhole x r := ⟨taking, taken⟩
    have acquire := execSlotAcquire_eq clocked present going owns applied whole update
    refine ⟨fun valid free pulled => ?_, fun invalid => ?_, fun valid unmet => ?_⟩
    · have slotMet : s.dieMet x r 7 = true :=
        State.dieMet_slot (.inr whole) (by rw [version]; rw [hnew, hv] at free; exact free)
      have pulledMet := State.dieMet_pulled owns whole pulled
      exact acquire.trans (by simp [valid, slotMet, pulledMet])
    · exact acquire.trans (by simp [invalid, State.failRecord, present])
    · exact acquire.trans (by simp [valid, unmet])
  · intro s x a r u clocked present version going phase owns reached update om o w wRows
    obtain ⟨hx, hr, -, -⟩ := State.updOf_fields update
    have bytes : u.b = r.bytes := congrArg Rec.bytes hr
    refine (execPhaseC_met clocked present going phase (State.dieMet_odone owns phase reached) update).trans ?_
    refine congrArg Host.Outcome.next (State.dieWork_congr ?_)
    rw [Upd.finishC_eq (a := a) (by rw [bytes, version]), hx, bytes]

end Sys2Proof.Machine
end

section
/-! SUPPORT. The commit of an update (R277 to R279, R419): until a record goes on to its next round, only its verdict and its checkpoint's
reference may change; then it goes on and its die counts. -/

namespace Sys2Proof.Machine

open Safety

/-! ## The same round -/

/-- `t` is reached from `s` by steps that change no core and no counter of a die, and of the record only the verdict and the slot that a
checkpoint refers to. -/
structure SameRound (x a : Nat) (s t : State) : Prop where
  cores : t.cores = s.cores
  committed : t.evl.committed = s.evl.committed
  withheld : t.evl.withheld = s.evl.withheld
  record : ∀ r, s.record x a = some r → ∃ verdict thermos, t.record x a = some { r with verdict := verdict, thermos := thermos }

@[simp] theorem State.poke_evl (s : State) (x a : Nat) (bs : List Byte) : (s.poke x a bs).evl = s.evl := by
  rw [State.poke, State.write_eq]

/-- A record reads the same where the Evile dies are the same. -/
theorem State.record_congr {s t : State} (evl : t.evl = s.evl) (x a : Nat) : t.record x a = s.record x a := by
  rw [State.record, evl, ← State.record]

/-- What a key reads after a record is replaced. -/
theorem State.setRec_record (s : State) (x a y b : Nat) (r : Rec) :
    (s.setRec y b r).record x a = if recKey y b = recKey x a then some r else s.record x a := mfind_mput ..

namespace SameRound

theorem refl (x a : Nat) (s : State) : SameRound x a s s := ⟨rfl, rfl, rfl, fun r h => ⟨r.verdict, r.thermos, h⟩⟩

theorem foldl {x a : Nat} {s : State} {α : Type} {f : State → α → State} (hf : ∀ t e, SameRound x a s t → SameRound x a s (f t e))
    (l : List α) {t : State} (h : SameRound x a s t) : SameRound x a s (l.foldl f t) :=
  List.foldlRecOn (motive := SameRound x a s) l f h fun t ht e _ => hf t e ht

theorem foldl_fst {x a : Nat} {s : State} {α β : Type} {f : State × β → α → State × β}
    (hf : ∀ p e, SameRound x a s p.1 → SameRound x a s (f p e).1) (l : List α) {p : State × β} (h : SameRound x a s p.1) :
    SameRound x a s (l.foldl f p).1 :=
  List.foldlRecOn (motive := fun p : State × β => SameRound x a s p.1) l f h fun p hp e _ => hf p e hp

section
variable {x a : Nat} {s t : State} (h : SameRound x a s t)
include h

theorem of_same {u : State} (cores : u.cores = t.cores) (evl : u.evl = t.evl) : SameRound x a s u := by
  refine ⟨cores.trans h.cores, evl ▸ h.committed, evl ▸ h.withheld, fun r present => ?_⟩
  rw [State.record_congr evl]
  exact h.record r present

theorem modRec (y b : Nat) {f : Rec → Rec} (hf : ∀ r, ∃ verdict thermos, f r = { r with verdict := verdict, thermos := thermos }) :
    SameRound x a s (t.modRec y b f) := by
  unfold State.modRec
  split
  · next q found =>
    refine ⟨h.cores, h.committed, h.withheld, fun r present => ?_⟩
    obtain ⟨verdict, thermos, now⟩ := h.record r present
    rw [State.setRec_record]
    split
    · next same =>
      have isRecord : q = { r with verdict := verdict, thermos := thermos } := by
        rw [State.record, same, ← State.record, now] at found
        exact (Option.some.inj found).symm
      obtain ⟨verdict', thermos', changed⟩ := hf q
      exact ⟨verdict', thermos', by rw [changed, isRecord]⟩
    · exact ⟨verdict, thermos, now⟩
  · exact h

/-! ## Memory and tasks -/

theorem putG (y b : Nat) (bs : List Byte) : SameRound x a s (t.putG y b bs) := by
  unfold State.putG
  refine foldl_fst (fun p e h => ?_) _ h
  dsimp only
  split
  · exact h.of_same rfl rfl
  · exact h

theorem copySlot (u : Upd) : SameRound x a s (u.copySlot t) := by
  unfold Upd.copySlot
  dsimp only
  split
  · exact h.putG ..
  · exact (h.putG ..).putG ..

theorem applyJournal (u : Upd) : SameRound x a s (u.applyJournal t) := by
  unfold Upd.applyJournal
  dsimp only
  split
  · exact h
  · refine putG (foldl (fun v k h => putG (foldl_fst (fun p e h => ?_) _ h) ..) _ h) ..
    exact h.putG ..

theorem poke (y b : Nat) (bs : List Byte) : SameRound x a s (t.poke y b bs) :=
  h.of_same (by rw [State.poke, State.write_eq]) (State.poke_evl ..)

theorem setSlot (y b j st : Nat) (tag : Option Nat) : SameRound x a s (t.setSlot y b j st tag) := by
  unfold State.setSlot
  dsimp only
  split
  · exact (h.poke ..).poke ..
  · exact h.poke ..

theorem countTask (g i : Nat) : SameRound x a s (t.countTask g i) := by
  unfold State.countTask
  split
  · exact h
  · dsimp only
    split
    · split
      · exact h
      · split
        · exact (h.poke ..).of_same (State.modTask_cores ..) (State.modTask_evl ..)
        · exact h
    · exact h

theorem countWaiting (y b : Nat) : SameRound x a s (t.countWaiting y b) := by
  unfold State.countWaiting
  refine foldl (fun v e h => ?_) _ h
  split
  · refine foldl (fun v e h => ?_) _ h
    split
    · split
      · exact h.countTask ..
      · exact h
    · exact h
  · exact h

/-! ## The group's verdict, a checkpoint's reference, publication -/

theorem event (y code : Nat) (bs : List Byte) : SameRound x a s (t.event y code bs) :=
  h.of_same (t.event_replied y code bs).cores (t.event_replied y code bs).evl

theorem judge (y group step : Nat) : SameRound x a s (t.judge y group step) := by
  unfold State.judge
  dsimp only
  have judged (verdict : Bool) : SameRound x a s ((t.groupRecs y group).foldl (fun s r =>
      s.modRec y (prVersion r.bytes) (fun r => { r with verdict := some verdict })) t) :=
    foldl (fun v r h => h.modRec _ _ fun q => ⟨_, q.thermos, rfl⟩) _ h
  split
  · exact (judged _).event ..
  · exact judged _

theorem thermosRef (y b : Nat) : SameRound x a s (t.thermosRef y b) := by
  unfold State.thermosRef
  split
  · split
    · exact h
    · dsimp only
      split
      · exact (h.poke ..).modRec _ _ fun q => ⟨q.verdict, _, rfl⟩
      · exact h
  · exact h

theorem publish (y : Nat) (r : Rec) : SameRound x a s (t.publish y r) :=
  foldl (fun _ _ h => h.of_same (by rw [State.request_eq]) (by rw [State.request_eq])) _ h

end

end SameRound

/-- The verdict on a group makes no word of memory uncorrectable. -/
theorem State.judge_clean {s : State} (x group step : Nat) (clean : s.bad = []) : (s.judge x group step).bad = [] := by
  have kept : ReplyKept (fun s : State => s.bad = []) := ⟨fun s pa bs h => by simp [State.put, h], fun _ _ _ _ h => h⟩
  have judged (f : Rec → Rec) (l : List Rec) : (l.foldl (fun s r => s.modRec x (prVersion r.bytes) f) s).bad = [] :=
    List.foldlRecOn (motive := fun t : State => t.bad = []) l _ clean fun t ht r _ => by rw [State.modRec_eq]; exact ht
  unfold State.judge State.event
  dsimp only
  split
  · split
    · exact kept.post _ _ _ (judged ..)
    · exact judged ..
  · exact judged ..

/-! ## UPDATE_COMMIT -/

/-- The record as it goes on to its next round, its step committed; `waits` if its journal waits for a checkpoint (R278, R419). -/
def Rec.nextRound (r : Rec) (waits : Bool) : Rec :=
  { r with
    phase := .taking, unapplied := waits, rounds := r.rounds + 1, present := [], committed := some r.step, verdict := none
    published := r.published + 1 }

/-- From `s` to `t` an update commits, `held` if it is withheld: its record goes on to the next round and its die counts (R277, R278). -/
structure Commits (u : Upd) (held : Bool) (s t : State) : Prop where
  cores : t.cores = s.cores
  committed : t.evl.committed = mset 0 s.evl.committed u.r.die (wrapAdd 32 (mget 0 s.evl.committed u.r.die) 1)
  withheld : t.evl.withheld =
    if held then mset 0 s.evl.withheld u.r.die (satAdd 32 (mget 0 s.evl.withheld u.r.die) 1) else s.evl.withheld
  record : ∀ r, s.record u.x (prVersion u.b) = some r → ∃ waits thermos,
    t.record u.x (prVersion u.b) = some { r.nextRound waits with thermos := thermos }

/-- A change of a record changes no counter of a die. -/
theorem State.modRec_counts (s : State) (x a : Nat) (f : Rec → Rec) :
    (s.modRec x a f).evl.committed = s.evl.committed ∧ (s.modRec x a f).evl.withheld = s.evl.withheld := by
  unfold State.modRec
  split <;> exact ⟨rfl, rfl⟩

/-- The record goes on to its next round from where the steps before have left it; cores and counters are still as they were. -/
theorem SameRound.nextRound {x a : Nat} {s t : State} (h : SameRound x a s t) (waits : Bool) :
    let v := (t.modRec x a (fun r => r.nextRound waits)).armRecord x a
    v.cores = s.cores ∧ v.evl.committed = s.evl.committed ∧ v.evl.withheld = s.evl.withheld
      ∧ ∀ r, s.record x a = some r → ∃ thermos, v.record x a = some { r.nextRound waits with thermos := thermos } := by
  dsimp only
  obtain ⟨committed, withheld⟩ := t.modRec_counts x a (fun r => r.nextRound waits)
  refine ⟨?_, ?_, ?_, fun r present => ?_⟩
  · rw [State.armRecord_eq, State.modRec_eq]
    exact h.cores
  · rw [State.armRecord_evl, committed, h.committed]
  · rw [State.armRecord_evl, withheld, h.withheld]
  · obtain ⟨verdict, thermos, now⟩ := h.record r present
    refine ⟨thermos, ?_⟩
    rw [State.record_congr (State.armRecord_evl ..), State.modRec_record, now]
    rfl

/-- Every step of a commit but the last keeps the round; the last is the next round's beginning, and the die's counts. -/
theorem Upd.commit_commits (u : Upd) (s : State) (held : Bool) : Commits u held s (u.commit s held) := by
  have refl := SameRound.refl u.x (prVersion u.b) s
  have copied : SameRound u.x (prVersion u.b) s (if held then
      (if prSparse u.b then (u.copySlot s).putG u.x (prJournal u.b) (u.journalHeader 0 ((u.copySlot s).word u.x (u.bank u.cur)))
        else (u.copySlot s).copyG u.x (u.bank u.cur) (u.bank u.new_) (bankSize u.arrays)) else s) := by
    split
    · split <;> exact (refl.copySlot u).putG ..
    · exact refl
  have shown := ((copied.setSlot u.x (prVersion u.b) u.r.slot 1 (some ((u.r.step + 1) % 2 ^ 32))).countWaiting u.x
    (prVersion u.b)).thermosRef u.x (prVersion u.b)
  unfold Upd.commit
  dsimp only
  generalize (((if held then _ else s).setSlot u.x (prVersion u.b) u.r.slot 1 _).countWaiting u.x (prVersion u.b)).thermosRef
    u.x (prVersion u.b) = t at shown ⊢
  generalize (prSparse u.b && !held && (Option.map _ _).getD false) = waits
  have published : SameRound u.x (prVersion u.b) s
      ((if prSparse u.b = true ∧ held = false ∧ waits = false then u.applyJournal t else t).publish u.x u.r) := by
    refine SameRound.publish ?_ ..
    split
    · exact shown.applyJournal u
    · exact shown
  generalize State.publish _ u.x u.r = v at published ⊢
  obtain ⟨cores, committed, withheld, record⟩ := published.nextRound waits
  exact ⟨cores, congrArg (fun m => mset 0 m u.r.die (wrapAdd 32 (mget 0 m u.r.die) 1)) committed,
    congrArg (fun m => if held then mset 0 m u.r.die (satAdd 32 (mget 0 m u.r.die) 1) else m) withheld,
    fun r present => ⟨waits, record r present⟩⟩

/-- The state with the verdict on a record's group made, where it was not made before (R277). -/
def State.judgedFor (s : State) (x : Nat) (r : Rec) : State := if r.verdict.isNone then s.judge x (prGroup r.bytes) r.step else s

theorem State.judgedFor_sameRound (s : State) (x a : Nat) (r : Rec) : SameRound x a s (s.judgedFor x r) := by
  unfold State.judgedFor
  split
  · exact (SameRound.refl x a s).judge ..
  · exact .refl x a s

theorem State.judgedFor_clean {s : State} (x : Nat) (r : Rec) (clean : s.bad = []) : (s.judgedFor x r).bad = [] := by
  unfold State.judgedFor
  split
  · exact State.judge_clean _ _ _ clean
  · exact clean

/-- UPDATE_COMMIT once its record has computed and every record of the group has finished the step (R277). -/
theorem execUpdateCommit_eq {s : State} {x a : Nat} {r : Rec} {u : Upd} (clocked : Clocked s) (present : s.record x a = some r)
    (going : r.failed = false) (owns : r.owner = true) (computed : r.phase = .computed)
    (finished : ∀ q ∈ s.groupRecs x (prGroup r.bytes), q.finishedFor r.step = true) :
    let w := s.judgedFor x r
    let held := ((w.record x a).bind Rec.verdict).getD false
    w.updOf x a r = some u →
    execUpdateCommit x a s =
      .next (w.dieWork x a (fun v => u.commitReads v held) (fun v => u.commitWrites v held) (fun v => u.commit v held)) := by
  intro w held update
  have guard : (s.power.stopped || r.failed || !r.owner || decide (r.phase ≠ .computed)
      || !(s.groupRecs x (prGroup r.bytes)).all (fun q => q.finishedFor r.step)) = false := by
    simpa [clocked.stopped, going, owns, computed] using finished
  simp only [execUpdateCommit, present, guard, Bool.false_eq_true, if_false]
  rw [← State.judgedFor, show (s.judgedFor x r).updOf x a r = some u from update]

end Sys2Proof.Machine
end

section
/-! SUPPORT. Pulls of a version by a replica (R251, R279), and the report of an update or a task that waits too long (R252). -/

namespace Sys2Proof.Machine

open Safety

section
variable {s : State} {x a : Nat} {r : Rec} {p : OwnerSlot}

/-! ## Records after the updates of a die -/

@[simp] theorem State.setSlot_evl (s : State) (x a j st : Nat) (tag : Option Nat) : (s.setSlot x a j st tag).evl = s.evl := by
  unfold State.setSlot
  dsimp only
  split <;> simp only [State.poke_evl]

@[simp] theorem State.dieAdd_evl (s : State) (x : Nat) (r : Rec) (id inc : Nat) : (s.dieAdd x r id inc).evl = s.evl := by
  rw [State.dieAdd, State.sendAdd_eq]

/-- A record whose pull is over has pulled one version more. -/
theorem State.endPull_record (s : State) (x a : Nat) (r : Rec) :
    (s.endPull x a r).record x a = (s.record x a).map (fun r => { r with pulled := r.pulled + 1, stalled := false, pulling := none }) := by
  rw [State.endPull, State.record_congr (State.armRecord_evl ..), State.record_congr (State.dieAdd_evl ..), State.modRec_record]

/-! ## VERSION_PULL -/

section
variable (clocked : Clocked s) (present : s.record x a = some r) (going : r.failed = false) (replica : r.owner = false)
include clocked present going replica

/-- A pull in progress ends once its copies have been answered (R279). -/
theorem execVersionPull_pulling {tag : Nat} (pulling : r.pulling = some tag) :
    execVersionPull x a p s = .next (if s.pullsOut x a then s
      else ((s.setSlot x a r.slot 1 (some tag)).countWaiting x a).endPull x a r) := by
  simp [execVersionPull, present, clocked.stopped, going, replica, pulling, apply_ite Host.Outcome.next]

/-- With no pull in progress, a version that READY_WMK does not allow is waited for; one that is held needs no copy; another is copied
once its slot is free (R251, R279). -/
theorem execVersionPull_idle (idle : r.pulling = none) :
    execVersionPull x a p s = .next (
      let v := s.peek x a 64
      if s.dieMet x r 3 = false then s.armRecord x a
      else if (vrHolds v p.tag).isSome then s.endPull x a r
      else if s.dieMet x r 7 = false then s.armRecord x a
      else s.startPull ⟨x, r, s.weightOf x r.bytes, v, [], p.tag, 1 - vrNext v, vrNext v, 0⟩ p) := by
  simp [execVersionPull, present, clocked.stopped, going, replica, idle, apply_ite Host.Outcome.next]

end

/-- A pull of one copy is one BULK_PULL to the owner; one that cannot be issued fails the record (R279, R369). -/
theorem State.startPull_single {u : Upd} {q : Nat × Nat × Nat} {w : State} {code : Nat} (one : u.pulls p = [q])
    (sent : ((s.setSlot u.x (prVersion u.b) u.new_ 2 none).modRec u.x (prVersion u.b) (fun r =>
        { r with pulling := some p.tag, slot := u.new_ })).request (.record (recKey u.x (prVersion u.b))) u.r.die u.x 5
      (prOwnerDev u.b) 24 0 false (toBytes 8 q.2.1 ++ toBytes 8 q.2.2 ++ toBytes 8 q.1) = (w, code)) :
    s.startPull u p = if code = 0 then w else w.failRecord u.x (prVersion u.b) code := by
  simp only [State.startPull, one, List.foldl_cons, List.foldl_nil, ne_eq, not_true_eq_false, if_false, sent]

end

/-! ## VERSION_STALL_LIMIT -/

/-- A flag that every step of a fold keeps once it is set, and that the step of some entry sets, is set at the end. -/
theorem foldl_flag {σ α : Type} {f : σ × Bool → α → σ × Bool} (keeps : ∀ p e, p.2 = true → (f p e).2 = true)
    {l : List α} {e : α} (mem : e ∈ l) (sets : ∀ p, (f p e).2 = true) : ∀ p, (l.foldl f p).2 = true := by
  induction l with
  | nil => exact absurd mem List.not_mem_nil
  | cons d l ih =>
    intro p
    rcases List.mem_cons.mp mem with rfl | later
    · exact List.foldlRecOn (motive := fun p : σ × Bool => p.2 = true) l f (sets p) fun p h e _ => keeps p e h
    · exact ih later _

/-- A task that waits for a version of a record and was not marked before is reported (R252). -/
theorem State.markStalled_reports {s : State} {x a g i v : Nat} {y : Graph} {t : Task} (graph : (g, y) ∈ s.trh.graphs) (ctx : y.ctx = x)
    (task : (i, t) ∈ y.tasks) (version : t.version = some (a, v)) (uncounted : t.counted = false) (unmarked : t.stalled = false)
    (window : t.phase = .window) (future : vrFuture (s.peek x a 64) v = true) : (s.markStalled x a).2 = true := by
  unfold State.markStalled
  refine foldl_flag (fun p e set => ?_) graph (fun p => ?_) _
  · split
    · exact set
    · refine List.foldlRecOn (motive := fun p : State × Bool => p.2 = true) _ _ set fun p set k _ => ?_
      split
      · split
        · rfl
        · exact set
      · exact set
  · rw [if_neg (not_not_intro ctx)]
    refine foldl_flag (fun p k set => ?_) task (fun p => ?_) p
    · split
      · split
        · rfl
        · exact set
      · exact set
    · simp [version, uncounted, unmarked, window, future]

section
variable {s : State} {x : Nat} {a : BitVec 64} (clocked : Clocked s)
include clocked

/-- An update that waits for a version, its slot or its readers is reported once, and marked (R252). -/
theorem execVersionStallLimit_update {r : Rec} (present : s.record x a.toNat = some r) (going : r.failed = false)
    (unmarked : r.stalled = false) (waits : r.owner = true ∧ s.RoundWhole x r
      ∨ r.owner = false ∧ s.dieMet x r 3 = true ∧ s.dieMet x r 7 = false) :
    execVersionStallLimit x a s = .next (((s.markStalled x a.toNat).1.modRec x a.toNat (fun r => { r with stalled := true })).event x
      0x601 (toBytes 8 a.toNat)) := by
  unfold execVersionStallLimit
  obtain ⟨owns, taking, taken⟩ | ⟨replica, ready, slot⟩ := waits
  · simp [present, going, unmarked, clocked.stopped, owns, taking, taken]
  · simp [present, going, unmarked, clocked.stopped, replica, ready, slot]

/-- Where the record has no update to report, the tasks that were not marked before are. -/
theorem execVersionStallLimit_tasks (quiet : ∀ r, s.record x a.toNat = some r → r.failed = true ∨ r.stalled = true) :
    execVersionStallLimit x a s = .next (if (s.markStalled x a.toNat).2 then
      (s.markStalled x a.toNat).1.event x 0x601 (toBytes 8 a.toNat) else s) := by
  unfold execVersionStallLimit
  cases present : s.record x a.toNat with
  | none => cases marks : (s.markStalled x a.toNat).2 <;> simp [clocked.stopped, present, marks]
  | some r =>
    have reported : (!r.failed && !r.stalled) = false := by
      rcases quiet r present with failed | marked
      · simp [failed]
      · simp [marked]
    cases marks : (s.markStalled x a.toNat).2 <;> simp [clocked.stopped, present, marks, reported]

end

/-! ## The obligation -/

/-- Settles O35: the commit, by the verdict it finds; the pull, by whether one is in progress and what its waits allow; the report, by what
waits. -/
theorem commitsPullsAndStalls : Obligations.CommitsPullsAndStalls := by
  unfold Obligations.CommitsPullsAndStalls
  refine ⟨?_, ?_, ?_⟩
  · intro s x a r u clocked present version going owns computed finished w held update
    have commit := execUpdateCommit_eq clocked present going owns computed finished update
    refine ⟨commit, fun clean => ?_⟩
    obtain ⟨hx, hr, -, -⟩ := State.updOf_fields update
    have hb : u.b = r.bytes := congrArg Rec.bytes hr
    have judged : SameRound x a s w := s.judgedFor_sameRound x a r
    have decided (verdict : Bool) (known : r.verdict = some verdict) : held = verdict := by
      simp [held, w, known, present]
    obtain ⟨cores, committed, withheld, record⟩ := u.commit_commits w held
    rw [hx, hb, version] at record
    rw [hr] at committed withheld
    refine ⟨u.commit w held, commit.trans ?_, cores.trans judged.cores, ?_, fun known => ?_, fun known => ?_, ?_⟩
    · exact congrArg Host.Outcome.next (if_pos (State.judgedFor_clean x r clean))
    · rw [committed, judged.committed, mget_mset_same, wrapAdd]
    · rw [withheld, decided true known, if_pos rfl, judged.withheld, mget_mset_same, satAdd]
    · rw [withheld, decided false known, if_neg Bool.false_ne_true, judged.withheld]
    · obtain ⟨verdict, thermos, now⟩ := judged.record r present
      obtain ⟨waits, thermos', next⟩ := record _ now
      exact ⟨_, next, rfl, rfl, rfl, rfl, rfl, rfl, rfl⟩
  · intro s x a p r clocked present version going replica v done
    refine ⟨fun idle reached => ?_, fun tag pulling => ?_, fun idle unmet => ?_⟩
    · have ready : s.dieMet x r 3 = true := State.dieMet_ready replica reached
      have pull := execVersionPull_idle (p := p) clocked present going replica idle
      refine ⟨fun holds => ⟨pull.trans ?_, ?_⟩, fun lacks free => ?_⟩
      · simp only [ready, Bool.true_eq_false, if_false]
        exact congrArg Host.Outcome.next (if_pos holds)
      · exact (s.endPull_record x a r).trans (by rw [present]; rfl)
      · have slotMet : s.dieMet x r 7 = true := State.dieMet_slot (.inl replica) (by rw [version]; exact free)
        refine ⟨pull.trans ?_, ?_, fun q w code one sent => ?_⟩
        · simp [ready, slotMet, show vrHolds (s.peek x a 64) p.tag = none from lacks, v]
        · exact (State.modRec_record ..).trans (by rw [State.record_congr (State.setSlot_evl ..), present]; rfl)
        · have single := State.startPull_single (s := s) (u := ⟨x, r, s.weightOf x r.bytes, v, [], p.tag, 1 - vrNext v, vrNext v, 0⟩)
            (w := w) (code := code) one (by simpa only [Upd.b, version] using sent)
          simpa only [Upd.b, version] using single
    · have pull := execVersionPull_pulling (p := p) clocked present going replica pulling
      exact ⟨fun out => pull.trans (by rw [if_pos out]), fun answered => pull.trans (by simp [answered, done, State.endPull])⟩
    · exact (execVersionPull_idle clocked present going replica idle).trans (by simp [unmet])
  · intro s x a clocked m report
    refine ⟨fun r present going unmarked waits => ?_, fun quiet => execVersionStallLimit_tasks clocked quiet, ?_⟩
    · exact execVersionStallLimit_update clocked present going unmarked (by simpa [State.RoundWhole] using waits)
    · intro g i y t v graph ctx task version uncounted unmarked window future
      exact State.markStalled_reports graph ctx task version uncounted unmarked window future

end Sys2Proof.Machine
end

section
/-! SUPPORT. Contributions of a record (R267, R268, R302, R405): when the waits of its die are met, what work on uncorrectable words does,
and the two commands that move a chunk into its slot and add it to the gradient sum. -/

namespace Sys2Proof.Machine

open Safety

section
variable {s : State} {x a : Nat} {r : Rec} {reads writes : State → List (Nat × Nat)} {f : State → State}

/-! ## Work of a die -/

/-- Work that meets no uncorrectable word is done. -/
theorem State.dieWork_done (readsGood : s.metBad x (reads s) = none) (writesGood : (f s).metBad x (writes s) = none) :
    s.dieWork x a reads writes f = f s := by
  unfold State.dieWork
  split
  · rfl
  · rw [readsGood, writesGood]
    rfl

/-- Work that reads an uncorrectable word is not done: the word is noted and the record fails. -/
theorem State.dieWork_met {b : Nat} (bad : s.bad ≠ []) (met : s.metBad x (reads s) = some b) :
    s.dieWork x a reads writes f = (s.noteAcc (agentOf x) (.bad b)).failRecord x a 0x701 := by
  unfold State.dieWork
  rw [if_neg bad, met]
  rfl

/-! ## Waits of a contribution -/

/-- A die's waits on one Waymark of a record are met where every count has reached what the record needs of it. -/
theorem State.dieMet_of_counts {mark : Nat} (reached : ∀ w ∈ s.waitsOf x r, w.1 = mark → w.2.2 ≤ s.countHere x w.2.1) :
    s.dieMet x r mark = true := by
  simp only [State.dieMet, List.all_eq_true, List.mem_filter, decide_eq_true_eq]
  rintro w ⟨mem, isMark⟩
  have positive : w.2.2 ≠ 0 := of_decide_eq_true (List.mem_filter.mp mem).2
  rw [State.metNow_of_countHere positive (reached w mem isMark), Bool.true_or]

/-- A die waits on GRAD and CREDIT for the next chunk of its gradient alone; every other wait of it has a mark from 2 on (R267, R302). -/
theorem State.waitsOf_contribution {w : Nat × Nat × Nat} (mem : w ∈ s.waitsOf x r) :
    w = (0, prMark r.bytes 0, prInc r.bytes * (r.sent / max 1 (chunkCount (s.weightOf x r.bytes) (prSparse r.bytes)) + 1))
      ∨ w = (1, prMark r.bytes 1, r.sent * prR r.bytes + s.rankOf r.bytes + 1) ∨ 2 ≤ w.1 := by
  simp only [State.waitsOf, List.mem_filter, List.mem_append, List.mem_cons, List.not_mem_nil, or_false] at mem
  obtain ⟨(grad | credit) | later, -⟩ := mem
  · exact .inl grad
  · exact .inr (.inl credit)
  · refine .inr (.inr ?_)
    revert w
    split
    · simp
    · split
      · split <;> simp
      · simp
      · simp

/-- The signals of the gradient of the next chunk have come (R267). -/
theorem State.dieMet_grad
    (reached : prInc r.bytes * (r.sent / max 1 (chunkCount (s.weightOf x r.bytes) (prSparse r.bytes)) + 1)
      ≤ s.countHere x (prMark r.bytes 0)) : s.dieMet x r 0 = true := by
  refine State.dieMet_of_reached (fun w mem isGrad => ?_) reached
  rcases State.waitsOf_contribution mem with rfl | rfl | later
  · rfl
  · cases isGrad
  · omega

/-- The slot of the next chunk has been given back (R267). -/
theorem State.dieMet_credit (reached : r.sent * prR r.bytes + s.rankOf r.bytes + 1 ≤ s.countHere x (prMark r.bytes 1)) :
    s.dieMet x r 1 = true := by
  refine State.dieMet_of_reached (fun w mem isCredit => ?_) reached
  rcases State.waitsOf_contribution mem with rfl | rfl | later
  · cases isCredit
  · rfl
  · omega

/-- The next contribution of a round that is not whole has landed in its slot (R268). -/
theorem State.dieMet_fill (owns : r.owner = true) (phase : r.phase = .taking)
    (part : r.taken < (r.rounds + 1) * chunkCount (s.weightOf x r.bytes) (prSparse r.bytes) * prR r.bytes)
    (reached : r.taken / prSlots r.bytes + 1 ≤ s.countHere x (prMark r.bytes 2 + r.taken % prSlots r.bytes)) :
    s.dieMet x r 2 = true := by
  refine State.dieMet_of_reached (fun w mem isFill => ?_) reached
  obtain ⟨mark, id, n⟩ := w
  have open_ := part.ne
  simp_all [State.waitsOf]

/-! ## CONTRIBUTION_SEND -/

/-- What a die does with the next chunk of a record's gradient: it lands in the owner's own window with an add to the slot's FILL, or
goes to the owner as packets (R267). -/
def State.moveChunk (s : State) (x a : Nat) (r : Rec) : State :=
  let b := r.bytes
  let k := (r.sent * prR b + s.rankOf b) % prSlots b
  let bs := s.contribution x b (r.sent % chunkCount (s.weightOf x b) (prSparse b))
  let u := (s.modRec x a (fun r => { r with sent := r.sent + 1 })).advance
  if r.owner then
    (({ u with evl := { u.evl with
        landing := mwrite 0 u.evl.landing (landingKey x (prMark b 2) k 0) bs } } : State).dieAdd x r (prMark b 2 + k) 1).armRecord x a
  else (u.sendChunk x r k bs).armRecord x a

/-- CONTRIBUTION_SEND of a record that has not failed, by its waits (R267). -/
theorem execContributionSend_eq (clocked : Clocked s) (present : s.record x a = some r) (going : r.failed = false) :
    execContributionSend x a s = .next (
      if s.dieMet x r 0 = false ∨ s.dieMet x r 1 = false then s.armRecord x a
      else s.dieWork x a
        (fun v => v.contributionAt x r.bytes (r.sent % chunkCount (s.weightOf x r.bytes) (prSparse r.bytes)))
        (fun _ => []) (fun _ => s.moveChunk x a r)) := by
  simp only [execContributionSend, present, clocked.stopped, going, Bool.or_self, Bool.false_eq_true, if_false,
    Bool.or_eq_true, Bool.not_eq_true', apply_ite Host.Outcome.next]
  refine congrArg _ (congrArg Host.Outcome.next (State.dieWork_congr ?_))
  rfl

end

/-- Settles O33: a die's work by what it meets; the waits by the counts that a record needs; each command by its equation. -/
theorem contributionsAreSummed : Obligations.ContributionsAreSummed := by
  unfold Obligations.ContributionsAreSummed
  refine ⟨fun s x a reads writes f => ⟨fun good => if_pos good, State.dieWork_done, fun b => State.dieWork_met⟩,
    fun s x r mark => State.dieMet_of_counts, ?_, ?_⟩
  · intro s x a r clocked present going b nc i k bs u
    have send := execContributionSend_eq clocked present going
    refine ⟨fun grad credit => ?_, fun unmet => send.trans (by rw [if_pos unmet])⟩
    have met : ¬ (s.dieMet x r 0 = false ∨ s.dieMet x r 1 = false) := by
      simp [State.dieMet_grad grad, State.dieMet_credit credit]
    rw [if_neg met] at send
    exact ⟨fun owns => send.trans (by rw [State.moveChunk, if_pos owns]),
      fun replica => send.trans (by rw [State.moveChunk, if_neg (by simp [replica])])⟩
  · intro s x a r clocked present going owns phase kept dense b d nc i k part landed
    have met : s.dieMet x r 2 = true := State.dieMet_fill owns phase (by rw [dense]; exact part) landed
    have open_ : ¬ (r.rounds + 1) * chunkCount (s.weightOf x r.bytes) false * prR r.bytes ≤ r.taken := Nat.not_le.mpr part
    show execContributionTake x a s = _
    -- the first contribution of a chunk sets the sum and reads nothing; a later one adds to what it reads
    by_cases first : r.taken % prR r.bytes = 0
    all_goals
      simp only [execContributionTake, present, clocked.stopped, going, owns, phase, kept, dense, open_, met, first, i, b, d, nc, k]
      simp only [Bool.not_true, Bool.not_false, Bool.false_and, Bool.and_true, Bool.true_and, Bool.or_self, Bool.false_eq_true, ne_eq,
        not_true_eq_false, decide_false, decide_true, if_false, if_true, List.filter_true, List.filter_false, List.map_nil,
        List.filter_nil, List.append_nil]
      exact congrArg Host.Outcome.next (State.dieWork_congr rfl)

end Sys2Proof.Machine
end

section
/-! SUPPORT. GROUP_WRITE, WAYMARK_READ and WAYMARK_WRITE (R259, R313 to R315): the pending entries after a write, the count as bytes, and a
hand-set count, which no release of a wait undoes. -/

namespace Sys2Proof.Machine

open Safety

/-! ## Bytes -/

/-- `n` bytes hold a value modulo 256ⁿ (R3). -/
theorem fromBytes_toBytes (n v : Nat) : fromBytes (toBytes n v) = v % 256 ^ n := by
  induction n generalizing v with
  | zero => rw [pow_zero, Nat.mod_one]; rfl
  | succ n ih =>
    calc fromBytes (toBytes (n + 1) v) = v % 256 + 256 * (v / 256 % 256 ^ n) := by
          simp only [toBytes, fromBytes, ih, BitVec.toNat_ofNat]
      _ = v % 256 ^ (n + 1) := by rw [pow_succ', Nat.mod_mul]

/-- The first field of a structure, as it was written. -/
theorem field_toBytes_append (n v : Nat) (l : List Byte) : field (toBytes n v ++ l) 0 n = v % 256 ^ n := by
  rw [field, slice, List.drop_zero, List.take_left' (toBytes_length n v), toBytes_length, Nat.sub_self, List.replicate_zero,
    List.append_nil, fromBytes_toBytes]

/-! ## Group entries -/

/-- The entries of a context after entry `group` is written: one of zeros is listed no more. -/
def writeEntry (m : Map (List Nat)) (group : Nat) (e : List Nat) : Map (List Nat) :=
  if e.all (fun v => decide (v = 0)) then mdel m group else mset [] m group e

theorem writeEntry_other (m : Map (List Nat)) {group k : Nat} (e : List Nat) (other : k ≠ group) :
    mget [] (writeEntry m group e) k = mget [] m k := by
  unfold writeEntry
  split
  · exact mget_mdel_other [] m other
  · exact mget_mset_other [] m e other.symm

theorem nth_of_all_zero {e : List Nat} (zero : e.all (fun v => decide (v = 0)) = true) (k : Nat) : nth 0 e k = 0 := by
  rw [nth, List.getD_eq_getElem?_getD]
  cases at_ : e[k]? with
  | none => rfl
  | some v => exact of_decide_eq_true (List.all_eq_true.mp zero v (List.mem_of_getElem? at_))

/-- Every word of the entry reads as it was written. -/
theorem writeEntry_word (m : Map (List Nat)) (group : Nat) (e : List Nat) (k : Nat) :
    nth 0 (mget [] (writeEntry m group e) group) k = nth 0 e k := by
  unfold writeEntry
  split
  next zero => rw [mget_mdel_same, nth_of_all_zero zero]; rfl
  next => rw [mget_mset_same]

section
variable {s : State} {h : Cmd} {spell : List Byte → Bool}

/-- That a command acts leaves the home of every key. -/
theorem State.acts_home (s : State) (h : Cmd) (op : Nat) (spell : List Byte → Bool) (k : Nat) :
    (s.acts h op spell).home k = s.home k := rfl

/-- GROUP_WRITE, by whether it breaks its rules (R259). -/
theorem execGroupWrite_eq {group mask : Nat} {words : List W32} {c : Ctx}
    (spells : spell = fun p => decide (field p 8 1 = group ∧ field p 0xA 2 = mask)
      && (range 12).all (fun k => decide (field p (0xC + 4 * k) 4 = ((words[k]?).map BitVec.toNat).getD 0)))
    (a : Accepted s h 0x0C spell) (hc : s.ctx h.ctx = some c) :
    execGroupWrite h group mask words s =
      let e := mergeEntry (mget [] c.groups group) mask words
      .next (if 4096 ≤ mask ∨ 256 ≤ group ∨ entryOk e = false then (s.acts h 0x0C spell).finish h 0x0C 0x102 []
        else ((s.acts h 0x0C spell).setCtx h.ctx { c with groups := writeEntry c.groups group e }).finish h 0x0C 0 []) := by
  subst spells
  unfold execGroupWrite
  rw [State.command_accepted a]
  have hu (f) : (s.acts h 0x0C f).ctx h.ctx = some c := hc
  rw [hu]
  rfl

/-! ## WAYMARK_READ -/

section
variable {mark : Nat} {remote : Option (List Byte)} (spells : spell = fun p => decide (field p 8 4 = mark))
  (a : Accepted s h 0x10 spell)
include spells a

/-- WAYMARK_READ of an identifier without a usable binding (R313). -/
theorem execWaymarkRead_unbound (nowhere : s.home (wkey h.ctx mark) = .unbound ∨ s.home (wkey h.ctx mark) = .refused) :
    execWaymarkRead h mark remote s = .next ((s.acts h 0x10 spell).finish h 0x10 0xA04 []) := by
  subst spells
  rcases nowhere with home | home <;> simp only [execWaymarkRead, State.command_accepted a, State.acts_home, home]

/-- WAYMARK_READ of a count of this device (R313). -/
theorem execWaymarkRead_here {k : Nat} {b : Binding} (home : s.home (wkey h.ctx mark) = .here k b) :
    execWaymarkRead h mark remote s = .next ((s.acts h 0x10 spell).finish h 0x10 0 (s.markResult k b)) := by
  subst spells
  simp only [execWaymarkRead, State.command_accepted a, State.acts_home, home]
  rfl

/-- WAYMARK_READ of a count of another device is what that device answers (R313). -/
theorem execWaymarkRead_far {b : Binding} (home : s.home (wkey h.ctx mark) = .far b) :
    execWaymarkRead h mark remote s =
      .next ((s.acts h 0x10 spell).finish h 0x10 (if remote.isSome then 0 else 0xA04) (remote.getD [])) := by
  subst spells
  cases remote <;> simp [execWaymarkRead, State.command_accepted a, State.acts_home, home]

end

/-- The count stands first in the result (Table 11.10). -/
theorem State.markResult_count {k : Nat} {b : Binding} (small : b.count < 2 ^ 64) : field (s.markResult k b) 0 8 = b.count := by
  simp only [State.markResult, List.append_assoc]
  rw [field_toBytes_append]
  exact Nat.mod_eq_of_lt small

/-! ## WAYMARK_WRITE -/

/-- The release of a wait leaves the marks of hand-set contexts. -/
theorem State.releaseWait_handset (s : State) (w : Wait) : (s.releaseWait w).wmk.handset = s.wmk.handset := by
  cases who : w.who with
  | core c => rw [s.releaseWait_of_core who, State.passWait_eq]; rfl
  | task _ _ _ | evile _ _ _ => rw [State.releaseWait, who]; rfl

theorem State.foldl_releaseWait_handset (l : List Wait) (s : State) :
    (l.foldl State.releaseWait s).wmk.handset = s.wmk.handset := by
  induction l generalizing s with
  | nil => rfl
  | cons w l ih => rw [List.foldl_cons, ih, State.releaseWait_handset]

section
variable {k v : Nat} {b : Binding} (bound : s.binding k = some b)
include bound

theorem State.setCount_of_bound : s.setCount k v = s.modWmk (fun m => { m with binds := mput m.binds k { b with count := v } }) := by
  simp only [State.setCount, bound]

/-- A hand-set Waymark holds the value that was set (R314). -/
theorem State.handSet_binding : (s.handSet k v).binding k = some { b with count := v } := by
  simp only [State.handSet, State.setCount_of_bound bound, State.binding]
  rw [(State.releaseMet_keeps _ k v).binds]
  exact mfind_mput_same ..

/-- The context of a hand-set Waymark is marked (R315). -/
theorem State.handSet_handset : (s.handSet k v).wmk.handset = s.wmk.handset ||| BitVec.ofNat 64 (2 ^ keyCtx k) := by
  simp only [State.handSet, State.setCount_of_bound bound]
  exact State.foldl_releaseWait_handset ..

end

section
variable {mark mode value : Nat} {remote : Bool}
  (spells : spell = fun p => decide (bits (field p 8 4) 19 0 = mark ∧ bits (field p 8 4) 21 20 = mode ∧ field p 0x10 8 = value))
  (a : Accepted s h 0x11 spell) (defined : mode < 2)
include spells a defined

/-- WAYMARK_WRITE of an identifier without a usable binding (R314). -/
theorem execWaymarkWrite_unbound (nowhere : s.home (wkey h.ctx mark) = .unbound ∨ s.home (wkey h.ctx mark) = .refused) :
    execWaymarkWrite h mark mode value remote s = .next ((s.acts h 0x11 spell).finish h 0x11 0xA04 []) := by
  subst spells
  rcases nowhere with home | home <;>
    simp only [execWaymarkWrite, State.command_accepted a, if_neg (Nat.not_le.mpr defined), State.acts_home, home]

/-- WAYMARK_WRITE of a count of this device sets it, or raises it (R314). -/
theorem execWaymarkWrite_here {k : Nat} {b : Binding} (home : s.home (wkey h.ctx mark) = .here k b) :
    execWaymarkWrite h mark mode value remote s =
      .next (((s.acts h 0x11 spell).handSet k (if mode = 0 then value else max b.count value)).finish h 0x11 0 []) := by
  subst spells
  simp only [execWaymarkWrite, State.command_accepted a, if_neg (Nat.not_le.mpr defined), State.acts_home, home]

/-- WAYMARK_WRITE of a count of another device is what that device has done (R314). -/
theorem execWaymarkWrite_far {b : Binding} (home : s.home (wkey h.ctx mark) = .far b) :
    execWaymarkWrite h mark mode value remote s =
      .next ((s.acts h 0x11 spell).finish h 0x11 (if remote then 0 else 0xA04) []) := by
  subst spells
  simp only [execWaymarkWrite, State.command_accepted a, if_neg (Nat.not_le.mpr defined), State.acts_home, home]

end

end

/-- Settles O41: each command by the home of its Waymark, or by the entry that it would leave. -/
theorem groupsAndHandSetMarks : Obligations.GroupsAndHandSetMarks := by
  unfold Obligations.GroupsAndHandSetMarks
  refine ⟨?_, ?_, ?_⟩
  · intro s h group mask words c spell u a hc e
    have write := execGroupWrite_eq rfl a hc
    refine ⟨fun hmask hgroup ok => ⟨writeEntry c.groups group e, write.trans ?_, fun k other => writeEntry_other _ e other,
      writeEntry_word _ group e⟩, fun broken => write.trans (congrArg Host.Outcome.next (if_pos broken))⟩
    have kept : ¬ (4096 ≤ mask ∨ 256 ≤ group ∨ entryOk e = false) := by
      rintro (wide | high | bad)
      · omega
      · omega
      · exact Bool.noConfusion (ok.symm.trans bad)
    exact congrArg Host.Outcome.next (if_neg kept)
  · intro s h mark remote spell u a
    refine ⟨execWaymarkRead_unbound rfl a, fun k b home => ⟨execWaymarkRead_here rfl a home, State.markResult_count⟩,
      fun b r home answer => ?_, fun b home silent => ?_⟩
    · exact (execWaymarkRead_far rfl a home).trans (by rw [answer]; rfl)
    · exact (execWaymarkRead_far rfl a home).trans (by rw [silent]; rfl)
  · intro s h mark mode value remote spell u a defined
    refine ⟨execWaymarkWrite_unbound rfl a defined, fun k b home => ?_, fun b => execWaymarkWrite_far rfl a defined⟩
    have bound : u.binding k = some b := State.binding_of_home home
    exact ⟨execWaymarkWrite_here rfl a defined home, State.handSet_binding bound, State.handSet_handset bound⟩

end Sys2Proof.Machine
end

section
/-! SUPPORT. STEP_BEGIN and STEP_COMMIT (R260, R341, R377, R414): what latching a step does once its writes are made, and what a commit
does by its conditions. -/

namespace Sys2Proof.Machine

open Safety

section
variable {s : State} {h : Cmd} {step : Nat} {c : Ctx}

/-! ## STEP_BEGIN -/

/-- A boundary record that there is no area for, or that its half takes, is written (R407). -/
theorem State.writeBoundary_written {v w : State} {x : Nat} {clean : Bool} {groups : Map (List Nat)}
    (written : (v.creg x).boundary = 0 ∧ w = v ∨ (v.creg x).boundary ≠ 0
      ∧ v.write (agentOf x) ((v.creg x).boundary + step % 2 * halfBytes) (v.boundaryBytes x step clean groups) = (w, none)) :
    v.writeBoundary x step clean groups = (w, true) := by
  unfold State.writeBoundary
  rcases written with ⟨none_, rfl⟩ | ⟨some_, takes⟩
  · exact if_pos none_
  · simp only [if_neg some_, takes]

/-- A context with the step latched, the generation of the entries given and the counts of its bindings (R260, R407). -/
def State.latched (s : State) (x : Nat) (c : Ctx) (step : Nat) (groups : Map (List Nat)) : State :=
  s.setCtx x (Ctx.latch { c with older := s.repair.waiting } step groups (!s.trh.graphs.any (fun e => decide (e.2.ctx = x)))
    ((s.bindsOf x).map (fun e => (keyId e.1, e.2.count))))

/-- A step whose cursors and boundary record are written: an automatic checkpoint starts where the policy asks for one, and the command
replies OK (R260, R397, R407, R419). -/
theorem State.latchStep_written {groups : Map (List Nat)} {v w : State}
    (cursors : (s.latched h.ctx c step groups).writeCursors h.ctx step = (v, true))
    (boundary : v.writeBoundary h.ctx step (!s.trh.graphs.any (fun e => decide (e.2.ctx = h.ctx))) groups = (w, true)) :
    s.latchStep h c step groups =
      let p := (w.creg h.ctx).policy
      (if bits p 15 0 ≠ 0 ∧ step % bits p 15 0 = 0 ∧ bits p 18 16 ≠ 0 then
        (w.startCkpt h.ctx step (bits p 18 16) none).modCtx h.ctx (fun c => c.unlatch h)
      else w.modCtx h.ctx (fun c => c.unlatch h)).finish h 0x0A 0 [] := by
  unfold State.latched at cursors
  simp only [State.latchStep, cursors, boundary]
  split <;> rfl

/-- STEP_BEGIN of a context, by whether its step is newer and whether it must wait (R260, R341). -/
theorem execStepBegin_eq (a : Accepted s h 0x0A (fun p => decide (field p 8 4 = step))) (hc : s.ctx h.ctx = some c) :
    execStepBegin h step s = .next (
      if (c.step.map (fun v => !newer step v)).getD false then (s.setCtx h.ctx (c.unlatch h)).finish h 0x0A 0x102 []
      else if s.stepWaits h.ctx c step then s
      else s.latchStep h c step (c.entriesOf h)) := by
  unfold execStepBegin
  rw [State.serve_accepted a, hc]

/-- A step that is newer than the latched one, if there is one, is not refused. -/
theorem not_stale_of_newer (later : ∀ v, c.step = some v → newer step v = true) :
    ¬ (c.step.map (fun v => !newer step v)).getD false = true := by
  cases latched : c.step with
  | none => exact Bool.false_ne_true
  | some v => simp [later v latched]

/-! ## STEP_COMMIT -/

/-- A commit whose conditions do not hold waits. -/
theorem State.tryCommit_waits {x : Nat} {w : CommitWait} (hc : s.ctx x = some c) (pending : c.commit = some w)
    (not_ : s.mayCommit x c = false) : s.tryCommit x = s := by
  simp [State.tryCommit, hc, pending, not_]

section
variable {x : Nat} {w : CommitWait} (hc : s.ctx x = some c) (pending : c.commit = some w) (fresh : w.sent = false)
include hc pending fresh

/-- A commit without a barrier whose conditions hold replies (R414). -/
theorem State.tryCommit_replies (may : s.mayCommit x c = true) (alone : (s.creg x).members = 0) :
    s.tryCommit x = (s.setCtx x { c with commit := none, committed := true }).finish w.cmd 0x0B 0 [] := by
  simp [State.tryCommit, State.endCommit, hc, pending, fresh, may, alone, State.modCtx_of_some hc]

/-- A commit with a barrier whose conditions hold reports READY (R377). -/
theorem State.tryCommit_reports (may : s.mayCommit x c = true) (barrier : (s.creg x).members ≠ 0) :
    s.tryCommit x = (s.setCtx x { c with commit := some { w with sent := true } }).sendManager s.manager 5
      { s.msg with job := (s.creg x).job, step := w.step, members := (s.creg x).members } := by
  simp [State.tryCommit, hc, pending, fresh, may, barrier]

end

/-- STEP_COMMIT of a context, by its step and whether another one waits (R341, R377). -/
theorem execStepCommit_eq (a : Accepted s h 0x0B (fun p => decide (field p 8 4 = step))) (hc : s.ctx h.ctx = some c) :
    execStepCommit h step s = .next (
      if c.step ≠ some step then s.finish h 0x0B 0x102 []
      else if c.commit.isSome then s
      else ((s.acts h 0x0B (fun p => decide (field p 8 4 = step))).setCtx h.ctx
        { c with commit := some ⟨h, step, false⟩ }).tryCommit h.ctx) := by
  unfold execStepCommit
  rw [State.serve_accepted a, hc]

/-- A STEP_COMMIT of the latched step, with no other one waiting, waits for its conditions from now on (R377, R414). -/
theorem execStepCommit_waits (a : Accepted s h 0x0B (fun p => decide (field p 8 4 = step))) (hc : s.ctx h.ctx = some c)
    (latched : c.step = some step) (idle : c.commit = none) :
    execStepCommit h step s = .next (((s.acts h 0x0B (fun p => decide (field p 8 4 = step))).setCtx h.ctx
      { c with commit := some ⟨h, step, false⟩ }).tryCommit h.ctx) := by
  rw [execStepCommit_eq a hc, if_neg (not_not.mpr latched), idle]
  rfl

/-- STEP_COMMIT_READY while the clocks run (R414). -/
theorem execStepCommitReady_eq (clocked : Clocked s) (x : Nat) : execStepCommitReady x s = .next (s.tryCommit x) := by
  rw [execStepCommitReady, clocked.stopped]
  rfl

end

/-- Settles O39: STEP_BEGIN by its equation and what latching a step does; both commit commands by what trying a commit does. -/
theorem stepsBeginAndCommit : Obligations.StepsBeginAndCommit := by
  unfold Obligations.StepsBeginAndCommit
  refine ⟨?_, ?_, ?_⟩
  · intro s h step c a hc groups done_ clean begun
    have begin_ := execStepBegin_eq a hc
    refine ⟨fun later free v w cursors written => ?_, fun quiet => ?_, fun later held => ?_, fun ⟨v, latched, stale⟩ => ?_⟩
    · refine begin_.trans (congrArg Host.Outcome.next ?_)
      rw [if_neg (not_stale_of_newer later), if_neg (by simp [free])]
      exact State.latchStep_written cursors (State.writeBoundary_written written)
    · have none_ : begun.streamsOf h.ctx = [] := quiet
      rw [State.writeCursors, none_]
      rfl
    · exact begin_.trans (congrArg Host.Outcome.next ((if_neg (not_stale_of_newer later)).trans (if_pos held)))
    · exact begin_.trans (congrArg Host.Outcome.next (if_pos (by simp [latched, stale])))
  · intro s h step c spell a hc y u told
    have commit := execStepCommit_eq a hc
    have hu : u.ctx h.ctx = some y := State.setCtx_ctx ..
    refine ⟨fun other => commit.trans (congrArg Host.Outcome.next (if_pos other)), fun latched busy => ?_,
      fun latched idle may alone => ?_, fun latched idle may barrier => ?_, fun latched idle not_ => ?_⟩
    · exact commit.trans (congrArg Host.Outcome.next ((if_neg (not_not.mpr latched)).trans (if_pos busy)))
    · have replies := State.tryCommit_replies hu rfl rfl may alone
      exact (execStepCommit_waits a hc latched idle).trans (congrArg Host.Outcome.next replies)
    · have reports := State.tryCommit_reports hu rfl rfl may barrier
      exact (execStepCommit_waits a hc latched idle).trans (congrArg Host.Outcome.next reports)
    · have waits := State.tryCommit_waits hu rfl not_
      exact (execStepCommit_waits a hc latched idle).trans (congrArg Host.Outcome.next waits)
  · intro s x c w clocked hc pending fresh
    have ready := execStepCommitReady_eq clocked x
    refine ⟨fun may alone => ?_, fun may barrier => ?_, fun not_ => ?_⟩
    · exact ready.trans (congrArg Host.Outcome.next (State.tryCommit_replies hc pending fresh may alone))
    · exact ready.trans (congrArg Host.Outcome.next (State.tryCommit_reports hc pending fresh may barrier))
    · exact ready.trans (congrArg Host.Outcome.next (State.tryCommit_waits hc pending not_))

end Sys2Proof.Machine
end

section
/-! SUPPORT. TASK_COMPLETE (R295): the homes of the Waymarks until a task's signals are sent, and, from there to the end of the completion,
what stays: a core without a task gets none, and an add on its way stays on its way. -/

namespace Sys2Proof.Machine

open Safety

/-! ## Homes -/

/-- What the home of a key rests on (R305, R356): the bindings, the contexts, and what this device is called. -/
def State.homing (s : State) : Map Binding × Map Ctx × Nat × Nat := (s.wmk.binds, s.ctxs, s.nxp.device, s.nxp.hall)

/-- Every operation on a Waymark is applied where it was applied before. -/
theorem State.home_congr {s t : State} (h : t.homing = s.homing) (k : Nat) : t.home k = s.home k := by
  simp only [State.homing, Prod.mk.injEq] at h
  obtain ⟨binds, ctxs, device, hall⟩ := h
  have binding (j : Nat) : t.binding j = s.binding j := by rw [State.binding, binds, ← State.binding]
  have exported (j : Nat) : t.exported j = s.exported j := by
    rw [State.exported, binding, State.ctx, ctxs, ← State.ctx, ← State.exported]
  have isHere (a : Nat) : t.isHere a = s.isHere a := by rw [State.isHere, device, hall, ← State.isHere]
  rw [State.home, binding]
  simp only [exported, isHere]
  rw [← State.home]

theorem State.foldl_homing {α : Type} {f : State → α → State} (hf : ∀ t a, (f t a).homing = t.homing) (l : List α) (s : State) :
    (l.foldl f s).homing = s.homing :=
  List.foldlRecOn (motive := fun t : State => t.homing = s.homing) l f rfl fun t ht a _ => (hf t a).trans ht

theorem State.modTask_homing (s : State) (g i : Nat) (f : Task → Task) : (s.modTask g i f).homing = s.homing := by
  simp only [State.homing, State.modTask_wmk, State.modTask_ctxs, State.modTask_nxp]

theorem State.setOps_homing (s : State) (l : List Op) : State.homing { s with nxp := { s.nxp with ops := l } } = s.homing := rfl

theorem State.dropCoreWaits_homing (s : State) (c : Nat) : (s.dropCoreWaits c).homing = s.homing := rfl

theorem State.dropTaskWaits_homing (s : State) (g i : Nat) : (s.dropTaskWaits g i).homing = s.homing := rfl

theorem State.modCore_homing (s : State) (c : Nat) (f : Core → Core) : (s.modCore c f).homing = s.homing := rfl

theorem State.flushStores_homing (s : State) (c : Nat) : (s.flushStores c).homing = s.homing :=
  State.foldl_homing (f := State.landStore) (fun _ _ => rfl) _ s

theorem State.clearCore_homing (s : State) (c : Nat) : (s.clearCore c).homing = s.homing := by
  unfold State.clearCore State.orphanOps
  rw [State.setOps_homing, State.dropCoreWaits_homing, State.modCore_homing, State.flushStores_homing]

theorem State.clearTask_homing (s : State) (g i : Nat) : (s.clearTask g i).homing = s.homing := by
  unfold State.clearTask
  dsimp only
  refine (State.modTask_homing ..).trans ((State.foldl_homing ?_ ..).trans (State.foldl_homing State.clearCore_homing ..))
  exact fun _ _ => rfl

theorem State.transmit_homing (s : State) (k : Packet) : (s.transmit k).homing = s.homing := by
  unfold State.transmit State.transmitOver
  split <;> rfl

theorem State.build_homing (s : State) (die op dst tag job len addr : Nat) (spec : Bool) (bs : List Byte) :
    (s.build die op dst tag job len addr spec bs).1.homing = s.homing := by
  unfold State.build State.nextSseq
  dsimp only
  split <;> rfl

theorem State.sendOp_homing (s : State) (owner : OpOwner) (d op dst job len addr : Nat) (spec : Bool) (bs : List Byte) :
    (s.sendOp owner d op dst job len addr spec bs).homing = s.homing := by
  unfold State.sendOp
  split
  · dsimp only
    rw [State.setOps_homing, State.transmit_homing, State.build_homing]
  · rfl

/-- A request to another device moves no Waymark. -/
theorem State.request_homing (s : State) (owner : OpOwner) (die ctx op dst len addr : Nat) (spec : Bool) (bs : List Byte) :
    (s.request owner die ctx op dst len addr spec bs).1.homing = s.homing := by
  unfold State.request
  dsimp only
  split
  · rfl
  · split
    · rfl
    · split
      · rfl
      · split
        · rfl
        · split
          · rfl
          · refine (State.sendOp_homing ..).trans ?_
            split <;> rfl

/-- An add sent to one Waymark moves no other. -/
theorem State.sendAdd_homing (s : State) (src : Agent) (key inc : Nat) (by_ : Option (Nat × Nat)) :
    (s.sendAdd src key inc by_).1.homing = s.homing := by
  unfold State.sendAdd
  split
  · rfl
  · split
    · rfl
    · exact State.request_homing ..
    · rfl
    · rfl

theorem State.releaseVersion_homing (s : State) (g i : Nat) : (s.releaseVersion g i).homing = s.homing := by
  unfold State.releaseVersion
  split
  · rfl
  · dsimp only
    split
    · exact (State.modTask_homing ..).trans (State.sendAdd_homing ..)
    · rfl

/-! ## Cores without a task, adds on their way -/

/-- From `s` to `t` a core without a task gets none, and an add on its way stays on its way. -/
structure Onward (s t : State) : Prop where
  idle : ∀ c, (s.core c).task = none → (t.core c).task = none
  adds : s.wmk.adds ⊆ t.wmk.adds

namespace Onward

theorem refl (s : State) : Onward s s := ⟨fun _ => id, List.Subset.refl _⟩

/-- Both branches of a choice go onward. -/
theorem branch {s a b : State} {c : Prop} {_ : Decidable c} (ha : Onward s a) (hb : Onward s b) : Onward s (if c then a else b) := by
  split
  · exact ha
  · exact hb

/-- The state of a pair that a pattern names. -/
theorem of_fst {s u : State} {α : Type} {p : State × α} {a : α} (h : Onward s p.1) (e : p = (u, a)) : Onward s u := by
  rw [e] at h
  exact h

theorem foldl {s : State} {α : Type} {f : State → α → State} (hf : ∀ t a, Onward s t → Onward s (f t a)) (l : List α) {t : State}
    (h : Onward s t) : Onward s (l.foldl f t) :=
  List.foldlRecOn (motive := Onward s) l f h fun t ht a _ => hf t a ht

theorem foldl_fst {s : State} {α β : Type} {f : State × β → α → State × β} (hf : ∀ p a, Onward s p.1 → Onward s (f p a).1)
    (l : List α) {p : State × β} (h : Onward s p.1) : Onward s (l.foldl f p).1 :=
  List.foldlRecOn (motive := fun p : State × β => Onward s p.1) l f h fun p hp a _ => hf p a hp

section
variable {s t : State} (h : Onward s t)
include h

theorem of_same {u : State} (cores : u.cores = t.cores) (adds : u.wmk.adds = t.wmk.adds) : Onward s u := by
  refine ⟨fun c none_ => ?_, adds ▸ h.adds⟩
  rw [State.core, cores]
  exact h.idle c none_

theorem setGraph (g : Nat) (x : Graph) : Onward s (t.setGraph g x) := h.of_same rfl rfl

theorem modGraph (g : Nat) (f : Graph → Graph) : Onward s (t.modGraph g f) :=
  h.of_same (State.modGraph_cores ..) (congrArg Waymarks.adds (State.modGraph_wmk ..))

theorem modTask (g i : Nat) (f : Task → Task) : Onward s (t.modTask g i f) := h.modGraph ..

theorem graphFail (g code i : Nat) : Onward s (t.graphFail g code i) := h.modGraph ..

theorem replied {u : State} (r : Replied t u) : Onward s u := h.of_same r.cores (congrArg Waymarks.adds r.wmk)

theorem event (x code : Nat) (bs : List Byte) : Onward s (t.event x code bs) := h.replied (t.event_replied x code bs)

theorem setTrh (v : Trailhead) : Onward s { t with trh := v } := h.of_same rfl rfl

theorem modCtx (x : Nat) (f : Ctx → Ctx) : Onward s (t.modCtx x f) :=
  h.of_same (State.modCtx_cores ..) (congrArg Waymarks.adds (State.modCtx_wmk ..))

theorem dropGraphWaits (g : Nat) : Onward s (t.dropGraphWaits g) := h.of_same rfl rfl

theorem dropTaskWaits (g i : Nat) : Onward s (t.dropTaskWaits g i) := h.of_same rfl rfl

/-! ## The end of a task's work -/

theorem flushStores (c : Nat) : Onward s (t.flushStores c) := foldl (f := State.landStore) (fun _ _ h => h.of_same rfl rfl) _ h

theorem clearCore (c : Nat) : Onward s (t.clearCore c) := by
  have flushed := h.flushStores c
  refine of_same (t := (t.flushStores c).modCore c Core.cleared) ⟨fun d none_ => ?_, flushed.adds⟩ rfl rfl
  by_cases same : c = d
  · subst same
    rw [State.modCore_core]
    rfl
  · rw [State.modCore_core_other _ _ same]
    exact flushed.idle d none_

theorem clearTask (g i : Nat) : Onward s (t.clearTask g i) := by
  unfold State.clearTask
  dsimp only
  refine modTask (foldl (fun u n h => h.of_same (State.modCluster_cores ..) rfl) _ ?_) ..
  exact foldl (fun _ c h => h.clearCore c) _ h

theorem sendAdd (src : Agent) (key inc : Nat) (by_ : Option (Nat × Nat)) : Onward s (t.sendAdd src key inc by_).1 := by
  unfold State.sendAdd
  have queued : Onward s (t.modWmk (fun m => { m with adds := m.adds ++ [⟨src, key, inc, by_⟩] })) :=
    ⟨h.idle, List.subset_append_of_subset_left _ h.adds⟩
  split
  · exact h
  · split
    · exact h
    · exact h.of_same (by rw [State.request_eq]) (by rw [State.request_eq])
    · exact queued
    · exact queued

theorem releaseVersion (g i : Nat) : Onward s (t.releaseVersion g i) := by
  unfold State.releaseVersion
  split
  · exact h
  · dsimp only
    split
    · exact (h.sendAdd ..).modTask ..
    · exact h

theorem releaseGraph (g : Nat) : Onward s (t.releaseGraph g) := by
  unfold State.releaseGraph
  split
  · exact h
  · refine foldl (fun u e h => ?_) _ h
    split
    · exact h
    · exact h.releaseVersion ..

theorem releaseStash (g i : Nat) : Onward s (t.releaseStash g i) := by
  unfold State.releaseStash
  split
  · exact h
  · dsimp only
    split
    · exact h
    · split
      · exact h.setGraph ..
      · exact h

/-! ## The end of a graph -/

theorem replayCause (x : Nat) (step : Option Nat) (code : Nat) : Onward s (t.replayCause x step code) := by
  unfold State.replayCause
  split
  · split
    · exact h
    · split
      · exact h.of_same rfl rfl
      · exact h.event ..
  · exact h

theorem clearTasks (g : Nat) (l : Map Task) : Onward s (l.foldl (fun s e => if e.2.cores = [] then s else s.clearTask g e.1) t) := by
  refine foldl (fun u e h => ?_) _ h
  split
  · exact h
  · exact h.clearTask ..

theorem endGraph (g code : Nat) : Onward s (t.endGraph g code) := by
  unfold State.endGraph
  split
  · exact h
  · dsimp only
    have released (l : Map Task) : Onward s _ := ((h.clearTasks g l).releaseGraph g).dropGraphWaits g
    split
    · exact released _
    · refine replayCause (replied ?_ (State.post_replied ..)) ..
      exact ((released _).setTrh _).modCtx ..

theorem settle (g : Nat) : Onward s (t.settle g) := by
  unfold State.settle
  split
  · exact h
  · split
    · split
      · exact h
      · exact h.endGraph ..
    · split
      · exact h.endGraph ..
      · split
        · exact (h.graphFail ..).endGraph ..
        · exact h

theorem suspend (x va : Nat) (store : Bool) : Onward s (t.suspend x va store) := by
  unfold State.suspend
  split
  · exact h
  · split
    · exact h
    · dsimp only
      refine event ?_ ..
      exact h.of_same rfl rfl

theorem taskFails (g i code : Nat) : Onward s (t.taskFails g i code) := by
  unfold State.taskFails
  split
  · exact h
  · dsimp only
    refine settle (graphFail (releaseStash (setTrh ?_ _) ..) ..) ..
    exact (((h.clearTask ..).dropTaskWaits ..).releaseVersion ..).modTask ..

/-! ## Reads and writes of structures -/

theorem addDecision (d : Decision) : Onward s (t.addDecision d) := by
  unfold State.addDecision
  split
  · exact h
  · exact h.of_same rfl rfl

theorem recordPa (pa : Nat) : Onward s (t.recordPa pa) := by
  unfold State.recordPa
  split
  · exact h.addDecision _
  · exact h.addDecision _
  · exact h.addDecision _
  · exact h

theorem markAcc (w : Who) (a : Acc) : Onward s (t.markAcc w a) := by
  unfold State.markAcc
  split
  · exact h.of_same rfl rfl
  · exact recordPa (h.of_same (State.log_cores ..) rfl) _
  · exact h

theorem write (w : Who) (o : Nat) (bs : List Byte) : Onward s (t.write w o bs).1 :=
  h.of_same (by rw [State.write_eq]) (by rw [State.write_eq])

theorem writeG (w : Who) (owner : OpOwner) (die a : Nat) (bs : List Byte) : Onward s (t.writeG w owner die a bs).1 := by
  unfold State.writeG
  split
  · exact h.write ..
  · refine foldl_fst (fun p e h => ?_) _ h
    dsimp only
    split
    · exact h
    · exact h.of_same (by rw [State.request_eq]) (by rw [State.request_eq])

/-! ## Tasks that come into the window -/

theorem countTask (g i : Nat) : Onward s (t.countTask g i) := by
  unfold State.countTask
  split
  · exact h
  · dsimp only
    split
    · split
      · exact h
      · split
        · exact (h.write ..).modTask ..
        · exact h
    · exact h

theorem nameVersion (g i : Nat) (x : Graph) (d : List Byte) : Onward s ((t.nameVersion g i x d).toOption.getD t) := by
  unfold State.nameVersion
  split
  · exact h
  · split
    · exact h
    · dsimp only
      split
      · exact h
      · split
        · exact h
        · exact (h.modTask ..).countTask ..

theorem addWait (key threshold : Nat) (who : Waiter) : Onward s (t.addWait key threshold who) := by
  unfold State.addWait
  split <;> exact h.of_same rfl rfl

theorem loadTask (g i : Nat) : Onward s (t.loadTask g i) := by
  unfold State.loadTask
  split
  · exact h
  · split
    · split
      · exact h.suspend ..
      · exact (h.markAcc ..).taskFails ..
      · split
        · exact h.suspend ..
        · exact foldl (fun _ _ h => h.addWait ..) _ ((h.nameVersion ..).modTask ..)
    · exact h

theorem spillTask (g i : Nat) : Onward s (t.spillTask g i) := by
  unfold State.spillTask
  split
  · exact h
  · dsimp only
    have spilled := (h.modTask g i (fun t => { t with phase := .spilled })).modGraph g (fun x =>
      { x with spill := x.spill ++ [i], spilled := x.spilled + 1 })
    split
    next e => exact (spilled.writeG ..).of_fst e
    next e => exact ((spilled.writeG ..).of_fst e).suspend ..
    next e => exact (((spilled.writeG ..).of_fst e).markAcc ..).graphFail ..

theorem enterWindow (g i : Nat) : Onward s (t.enterWindow g i) := by
  unfold State.enterWindow
  split
  · exact (h.modTask ..).loadTask ..
  · exact h.spillTask ..

theorem makeReady (g i : Nat) : Onward s (t.makeReady g i) := by
  unfold State.makeReady
  split
  · exact h.enterWindow ..
  · exact h.graphFail ..

theorem unspillSome (n : Nat) : Onward s (t.unspillSome n) := by
  induction n generalizing t with
  | zero => exact h
  | succ n ih =>
    rw [State.unspillSome]
    split
    · exact h
    · split
      · exact ih (((h.setGraph ..).modTask ..).loadTask ..)
      · exact h

theorem unspill : Onward s t.unspill := h.unspillSome _

/-! ## Completion -/

theorem countSuccessor (g j : Nat) : Onward s (t.countSuccessor g j) := by
  unfold State.countSuccessor
  split
  · exact h
  · dsimp only
    split
    · exact (h.markAcc ..).graphFail ..
    · split
      · exact (h.markAcc ..).graphFail ..
      · split
        next e => exact (((h.writeG ..).of_fst e).markAcc ..).graphFail ..
        next e =>
          have counted := (h.writeG ..).of_fst e
          exact branch (counted.graphFail ..) (branch (counted.makeReady ..) counted)

theorem countSuccessors (g : Nat) (l : List Nat) : Onward s (l.foldl (fun s j => s.countSuccessor g j) t) :=
  foldl (fun _ j h => h.countSuccessor g j) l h

end

end Onward

/-- The signals of a task are sent, one after another, from its context (R295 step 3). -/
def State.signalled (s : State) (ctx : Nat) (d : List Byte) (by_ : Option (Nat × Nat)) (l : List Nat) : State :=
  l.foldl (fun s k => (s.sendAdd .trailhead (wkey ctx (tdSignal d k).1) (tdSignal d k).2 by_).1) s

section
variable {ctx : Nat} {d : List Byte} {by_ : Option (Nat × Nat)}

theorem Onward.signalled {s t : State} (h : Onward s t) (l : List Nat) : Onward s (t.signalled ctx d by_ l) :=
  Onward.foldl (fun _ _ h => h.sendAdd ..) l h

/-- A signal of the list is on its way to its home here (R295, R300). -/
theorem State.signalled_adds {n k : Nat} {b : Binding} (some_ : (tdSignal d n).2 ≠ 0) {l : List Nat} (member : n ∈ l) (s : State)
    (home : s.home (wkey ctx (tdSignal d n).1) = .here k b) :
    ⟨.trailhead, wkey ctx (tdSignal d n).1, (tdSignal d n).2, by_⟩ ∈ (s.signalled ctx d by_ l).wmk.adds := by
  induction l generalizing s with
  | nil => cases member
  | cons m l ih =>
    rcases List.mem_cons.mp member with rfl | later
    · have rest := (Onward.refl (s.sendAdd .trailhead (wkey ctx (tdSignal d n).1) (tdSignal d n).2 by_).1).signalled
        (ctx := ctx) (d := d) (by_ := by_) l
      refine rest.adds ?_
      rw [State.sendAdd_home home some_]
      exact List.mem_append_right _ (List.mem_singleton_self _)
    · exact ih later _ ((State.home_congr (State.sendAdd_homing ..) _).trans home)

end

/-! ## The cores of a task that ends -/

/-- A core that is cleared has no task (R139). -/
theorem State.clearCore_frees (s : State) (c : Nat) : ((s.clearCore c).core c).task = none := by
  have cleared : (s.clearCore c).cores = ((s.flushStores c).modCore c Core.cleared).cores := by
    unfold State.clearCore
    generalize s.flushStores c = t
    rfl
  rw [State.core_of_modCore cleared]
  rfl

/-- Each core of a list is free once the list is cleared. -/
theorem State.foldl_clearCore_frees {c : Nat} {l : List Nat} (member : c ∈ l) (s : State) :
    ((l.foldl State.clearCore s).core c).task = none := by
  induction l generalizing s with
  | nil => cases member
  | cons d l ih =>
    rcases List.mem_cons.mp member with rfl | later
    · exact (Onward.foldl (fun _ e h => h.clearCore e) l (Onward.refl (s.clearCore c))).idle c (s.clearCore_frees c)
    · exact ih later _

/-- Whether a core runs a task. -/
def State.runsOn (s : State) (g i c : Nat) : Bool :=
  match (s.core c).task with
  | some k => decide (k.graph = g ∧ k.task = i)
  | none => false

/-- A task that is cleared leaves the cores that run it, and no other core changes (R133). -/
theorem State.clearTask_cores (s : State) (g i : Nat) :
    (s.clearTask g i).cores = (((s.taskOf g i).cores.filter (s.runsOn g i)).foldl State.clearCore s).cores := by
  unfold State.clearTask
  dsimp only
  refine (State.modTask_cores ..).trans (List.foldlRecOn (motive := fun t : State => t.cores = _) _ _ rfl fun t ht n _ => ?_)
  exact (State.modCluster_cores ..).trans ht

theorem State.clearTask_frees {s : State} {g i c : Nat} (mine : c ∈ (s.taskOf g i).cores) (runs : s.runsOn g i c = true) :
    ((s.clearTask g i).core c).task = none := by
  rw [State.core, State.clearTask_cores]
  exact State.foldl_clearCore_frees (List.mem_filter.mpr ⟨mine, runs⟩) s

/-! ## TASK_COMPLETE -/

/-- The state of a task that completes, its cores free and its signals sent (R295 steps 2 and 3). -/
def State.freedAndSignalled (s : State) (g i : Nat) (x : Graph) : State :=
  (((s.clearTask g i).dropTaskWaits g i).releaseVersion g i).signalled x.ctx (s.taskDesc x i) (some (x.handle g, i))
    (range (min 2 (tdNsig (s.taskDesc x i))))

section
variable {s : State} {g i : Nat} {x : Graph} (found : s.graph g = some x)
include found

theorem State.taskOf_of_graph : s.taskOf g i = x.task i := by rw [State.taskOf, found]

/-- What is left of a completion once the cores are free and the signals sent takes neither back. -/
theorem State.completeTask_onward (sound : (x.task i).failing = 0) : Onward (s.freedAndSignalled g i x) (s.completeTask g i) := by
  have sent := Onward.refl (s.freedAndSignalled g i x)
  unfold State.completeTask
  simp only [State.taskOf_of_graph found, sound, ne_eq, not_true_eq_false, if_false, found]
  have counted (f : Task → Task) (f' : Graph → Graph) (l : List Nat) :=
    (((sent.modTask g i f).modGraph g f').countSuccessors g l).releaseStash g i
  exact (Onward.branch ((counted ..).replied (State.post_replied ..)) (counted ..)).settle g |>.unspill

/-- A task whose work and writes have ended completes, if nothing that it reads misses and its stash is copied (R245, R295). -/
theorem execTaskComplete_eq (clocked : Clocked s) (running : (x.task i).phase = .running) (done_ : (x.task i).left = [])
    (moved : (x.task i).dmaLeft = []) (written : s.writesDone g i = true) (others : s.fillMiss g i = none)
    (copied : s.stashFill g i = none) (counters : s.countMiss g i = none) :
    execTaskComplete g i s = .next (s.completeTask g i) := by
  have ended :
      ¬ ((x.task i).phase ≠ .running ∨ (x.task i).left ≠ [] ∨ (x.task i).dmaLeft ≠ [] ∨ s.writesDone g i = false) := by
    simp [running, done_, moved, written]
  simp only [execTaskComplete, clocked.stopped, Bool.false_eq_true, if_false, State.tryComplete, found, State.taskOf_of_graph found, ended,
    others, copied, Option.isSome_none, counters]

/-- The cores that still ran the task are free (R295 step 2). -/
theorem State.completeTask_frees (sound : (x.task i).failing = 0) {c : Nat} (mine : c ∈ (x.task i).cores) (runs : s.runsOn g i c = true) :
    ((s.completeTask g i).core c).task = none := by
  rw [← State.taskOf_of_graph found] at mine
  refine (State.completeTask_onward found sound).idle c ?_
  exact ((((Onward.refl _).dropTaskWaits g i).releaseVersion g i).signalled _).idle c (State.clearTask_frees mine runs)

/-- Each signal whose home is here is on its way (R295 step 3). -/
theorem State.completeTask_signals (sound : (x.task i).failing = 0) {n k : Nat} {b : Binding}
    (named : n < min 2 (tdNsig (s.taskDesc x i))) (home : s.home (wkey x.ctx (tdSignal (s.taskDesc x i) n).1) = .here k b)
    (some_ : (tdSignal (s.taskDesc x i) n).2 ≠ 0) :
    ⟨.trailhead, wkey x.ctx (tdSignal (s.taskDesc x i) n).1, (tdSignal (s.taskDesc x i) n).2, some (x.handle g, i)⟩
      ∈ (s.completeTask g i).wmk.adds := by
  have before : (((s.clearTask g i).dropTaskWaits g i).releaseVersion g i).homing = s.homing := by
    rw [State.releaseVersion_homing, State.dropTaskWaits_homing, State.clearTask_homing]
  refine (State.completeTask_onward found sound).adds ?_
  exact State.signalled_adds some_ (List.mem_range.mpr named) _ ((State.home_congr before _).trans home)

end

/-- Settles O31: the completion by its equation; its beginning frees the cores and sends the signals, and the rest of it takes
neither back. -/
theorem taskCompletionSignals : Obligations.TaskCompletionSignals := by
  unfold Obligations.TaskCompletionSignals
  intro s g i x clocked found t running done_ moved sound written others copied counters
  refine ⟨execTaskComplete_eq found clocked running done_ moved written others copied counters,
    fun c mine ⟨k, runs, graph, task⟩ => State.completeTask_frees found sound mine ?_,
    fun n k b named home some_ => State.completeTask_signals found sound named home some_⟩
  rw [State.runsOn, runs]
  exact decide_eq_true ⟨graph, task⟩

end Sys2Proof.Machine
end

section
/-! SUPPORT. TASK_CORE_RESERVE and PREEMPT (R290, R293): a reservation kept once, and which tasks asking victims leaves asked. -/

namespace Sys2Proof.Machine

open Safety

/-! ## TASK_CORE_RESERVE -/

/-- The first task of a context's order is reserved for, unless it was before (R290). -/
theorem execTaskCoreReserve_eq {s : State} {x : Nat} {c : Cand} {rest : List Cand} (clocked : Clocked s)
    (first : s.candidates x = c :: rest) :
    execTaskCoreReserve x s = .next (if (x, c.g, c.i) ∈ s.trh.reserved then s
      else { s with trh := { s.trh with reserved := s.trh.reserved ++ [(x, c.g, c.i)] } }) := by
  simp only [execTaskCoreReserve, first, clocked.stopped, Bool.false_or, List.contains_iff_mem]
  split <;> rfl

/-! ## Asking one task -/

/-- A change of a task leaves every other task. -/
theorem State.modTask_taskOf_other (s : State) {g i g' i' : Nat} (f : Task → Task) (other : ¬ (g = g' ∧ i = i')) :
    (s.modTask g i f).taskOf g' i' = s.taskOf g' i' := by
  cases found : s.graph g with
  | none => rw [State.modTask, State.modGraph, found]
  | some x =>
    have slots : (s.modTask g i f).graph g' = if g = g' then some (x.setTask i (f (x.task i))) else s.graph g' := by
      rw [State.modTask, State.modGraph, found]
      exact mfind_mput ..
    by_cases slot : g = g'
    · subst slot
      simp only [State.taskOf, slots, found, if_pos]
      exact mget_mset_other _ _ _ fun task => other ⟨rfl, task⟩
    · simp only [State.taskOf, slots, if_neg slot]

/-- What asking tasks to interrupt may change: that a task in `l` is asked; one with work left stays asked. -/
structure Asks (l : List Cand) (s t : State) : Prop where
  cores : t.cores = s.cores
  mem : t.mem = s.mem
  left : ∀ g i, (t.taskOf g i).left = (s.taskOf g i).left
  stays : ∀ g i, (s.taskOf g i).left ≠ [] → (s.taskOf g i).interruptReq = true → (t.taskOf g i).interruptReq = true
  only : ∀ g i, (t.taskOf g i).interruptReq = true → (s.taskOf g i).interruptReq = true ∨ ∃ y ∈ l, y.g = g ∧ y.i = i

theorem Asks.refl (l : List Cand) (s : State) : Asks l s s := ⟨rfl, rfl, fun _ _ => rfl, fun _ _ _ => id, fun _ _ => .inl⟩

theorem Asks.trans {l : List Cand} {s t u : State} (h : Asks l s t) (k : Asks l t u) : Asks l s u where
  cores := k.cores.trans h.cores
  mem := k.mem.trans h.mem
  left g i := (k.left g i).trans (h.left g i)
  stays g i work asked := k.stays g i (by rwa [h.left]) (h.stays g i work asked)
  only g i asked := (k.only g i asked).elim (h.only g i) .inr

/-- A task is asked if it has work left (R293). -/
theorem State.askInterrupt_taskOf (s : State) (g i : Nat) :
    (s.askInterrupt g i).taskOf g i = { s.taskOf g i with interruptReq := decide ((s.taskOf g i).left ≠ []) } := by
  rw [State.askInterrupt, State.modTask_taskOf]
  cases found : s.graph g with
  | none => simp [State.taskOf, found]
  | some x => rfl

theorem State.askInterrupt_asks {l : List Cand} (s : State) {v : Cand} (member : v ∈ l) : Asks l s (s.askInterrupt v.g v.i) := by
  have same := s.askInterrupt_taskOf v.g v.i
  have others (g i) (other : ¬ (v.g = g ∧ v.i = i)) : (s.askInterrupt v.g v.i).taskOf g i = s.taskOf g i :=
    s.modTask_taskOf_other _ other
  refine ⟨State.modTask_cores .., State.modTask_mem .., fun g i => ?_, fun g i work asked => ?_, fun g i asked => ?_⟩
  all_goals by_cases asks : v.g = g ∧ v.i = i
  · obtain ⟨rfl, rfl⟩ := asks; rw [same]
  · rw [others g i asks]
  · obtain ⟨rfl, rfl⟩ := asks; rw [same]; exact decide_eq_true work
  · rwa [others g i asks]
  · exact .inr ⟨v, member, asks⟩
  · exact .inl (by rwa [others g i asks] at asked)

/-! ## PREEMPT -/

/-- Asking victims in turn asks tasks of the list alone. -/
theorem State.preempt_asks {all : List Cand} (want : List Nat) (need : Nat) (l : List Cand) (sub : l ⊆ all) (s : State) (got : Nat) :
    Asks all s (s.preempt want need got l) := by
  induction l generalizing s got with
  | nil => exact .refl all s
  | cons v r ih =>
    rw [List.cons_subset] at sub
    rw [State.preempt]
    dsimp only
    split
    · exact .refl all s
    · split
      · exact ih sub.2 s got
      · exact (s.askInterrupt_asks sub.1).trans (ih sub.2 _ _)

/-- The first victim that holds a core that the task needs is asked, while the task lacks cores. -/
theorem State.preempt_asks_first {want : List Nat} {need got : Nat} {v : Cand} {rest : List Cand} (s : State) (lacks : got < need)
    (holds : ∃ k ∈ (s.taskOf v.g v.i).cores, k ∈ want) (work : (s.taskOf v.g v.i).left ≠ []) :
    ((s.preempt want need got (v :: rest)).taskOf v.g v.i).interruptReq = true := by
  obtain ⟨k, held, wanted⟩ := holds
  have some_ : ((s.taskOf v.g v.i).cores.filter want.contains).length ≠ 0 :=
    List.length_pos_iff_exists_mem.mpr ⟨k, List.mem_filter.mpr ⟨held, List.contains_iff_mem.mpr wanted⟩⟩ |>.ne'
  have asked := s.askInterrupt_taskOf v.g v.i
  rw [State.preempt, if_neg (Nat.not_le.mpr lacks)]
  simp only [some_, if_false]
  refine (State.preempt_asks want need rest (List.Subset.refl rest) _ _).stays v.g v.i ?_ ?_
  · rwa [asked]
  · rw [asked]
    exact decide_eq_true work

/-- PREEMPT for the first task of a context that lacks cores (R293). -/
theorem execPreempt_eq {s : State} {x : Nat} {c : Cand} (clocked : Clocked s)
    (lacking : (s.candidates x).find? (fun c =>
      decide (((s.needs c).1.filter (fun k => decide ((s.core k).task = none))).length < (s.needs c).2)) = some c) :
    execPreempt x s = .next (s.preempt (s.needs c).1 (s.needs c).2
      ((s.needs c).1.filter (fun k => decide ((s.core k).task = none))).length (s.victims (((s.ctx x).map Ctx.prio).getD 0))) := by
  unfold execPreempt
  simp only [lacking, clocked.stopped, Bool.false_eq_true, if_false]

/-- Settles O30: a reservation by whether it is kept already; of the victims in turn, the first is asked, and no task outside the list. -/
theorem reservationAndPreemption : Obligations.ReservationAndPreemption := by
  unfold Obligations.ReservationAndPreemption
  refine ⟨fun s x c rest clocked first => ⟨fun fresh => ?_, fun kept => ?_⟩, fun s x c v rest clocked => ?_⟩
  · exact (execTaskCoreReserve_eq clocked first).trans (by rw [if_neg fresh])
  · exact (execTaskCoreReserve_eq clocked first).trans (by rw [if_pos kept])
  · intro want free lacking order holds work
    have lacks : free c < (s.needs c).2 := by simpa using List.find?_some lacking
    have asks := State.preempt_asks (want c) (s.needs c).2 (s.victims (((s.ctx x).map Ctx.prio).getD 0)) (List.Subset.refl _) s (free c)
    refine ⟨_, execPreempt_eq clocked lacking, ?_, asks.cores, asks.mem, asks.only⟩
    rw [order]
    exact s.preempt_asks_first lacks holds work

end Sys2Proof.Machine
end

section
/-! SUPPORT. GRAPH_SUBMIT, GRAPH_ABORT and QUERY (R285, R298, R342): each command by what its checks, its handle or its selector answers,
and the slot that an accepted graph takes. -/

namespace Sys2Proof.Machine

open Safety

section
variable {s : State} {h : Cmd} {spell : List Byte → Bool}

/-! ## GRAPH_SUBMIT -/

section
variable {addr : Nat} (spells : spell = fun p => decide (field p 8 8 = addr)) (a : Accepted s h 0x08 spell)
include spells a

/-- GRAPH_SUBMIT of a graph that fails a check replies its code, and what a failed read marks is marked (R285). -/
theorem execGraphSubmit_refused {code : Nat} {read : Option Acc}
    (fails : (s.acts h 0x08 spell).submitChecks h.ctx addr = .error (code, read)) :
    execGraphSubmit h addr s = .next (((s.acts h 0x08 spell).submitMarks h.ctx read).finish h 0x08 code []) := by
  subst spells
  simp only [execGraphSubmit, State.command_accepted a, fails]

/-- GRAPH_SUBMIT of a graph that passes its checks replies its handle and starts its roots (R285, R288). -/
theorem execGraphSubmit_accepted {d : List Byte} {roots : List Nat} {b : Map Binding}
    (passes : (s.acts h 0x08 spell).submitChecks h.ctx addr = .ok (d, roots, b)) :
    let u := s.acts h 0x08 spell
    let y := u.acceptGraph h.ctx h.fn ((u.fnOf h.fn).crOf h.ring).cq h.tag addr (s.distanceOf h.ctx) d b false
    execGraphSubmit h addr s = .next ((y.1.finish h 0x08 0 (toBytes 4 y.2)).startGraph (y.2 % 256) roots) := by
  subst spells
  simp only [execGraphSubmit, State.command_accepted a, passes]
  rfl

end

/-- A descriptor that is not aligned is refused before anything is read (R283, R285). -/
theorem State.submitChecks_unaligned (s : State) (x : Nat) {addr : Nat} (unaligned : addr % 128 ≠ 0) :
    s.submitChecks x addr = .error (0x102, none) := by
  simp [State.submitChecks, unaligned]

/-- A graph as it is accepted, with no task begun (R285). -/
def State.newGraph (s : State) (x fn cq tag addr dist : Nat) (d : List Byte) : Graph :=
  { gen := mget 0 s.trh.gens s.freeSlot, ctx := x, tag := tag, fn := fn, cq := cq, addr := addr, desc := d, order := s.trh.order
    step := (s.ctx x).bind Ctx.step, distance := dist }

section
variable (s : State) (x fn cq tag addr dist : Nat) (d : List Byte) (b : Map Binding) (again : Bool)

/-- That a command acts leaves the graph slots. -/
theorem State.acts_freeSlot (h : Cmd) (op : Nat) (spell : List Byte → Bool) : (s.acts h op spell).freeSlot = s.freeSlot := rfl

/-- The handle of an accepted graph is its slot with the slot's generation (R285, Table 11.10). -/
theorem State.acceptGraph_handle :
    (s.acceptGraph x fn cq tag addr dist d b again).2 = s.freeSlot + 256 * (mget 0 s.trh.gens s.freeSlot % 2 ^ 24) := rfl

/-- An accepted graph takes the lowest free slot (R285). -/
theorem State.acceptGraph_graph :
    (s.acceptGraph x fn cq tag addr dist d b again).1.graph s.freeSlot = some (s.newGraph x fn cq tag addr dist d) := by
  rw [State.acceptGraph, State.graph, State.modCtx_trh]
  exact mfind_mput_same ..

end

/-! ## GRAPH_ABORT -/

section
variable {handle : Nat} (spells : spell = fun p => decide (field p 8 4 = handle)) (a : Accepted s h 0x09 spell)
include spells a

/-- GRAPH_ABORT ends the graph of its context that its handle names (R298). -/
theorem execGraphAbort_ends {x : Graph} (found : s.graph (handle % 256) = some x) (owns : x.ctx = h.ctx)
    (names : x.handle (handle % 256) = handle) :
    execGraphAbort h handle s = .next (((s.acts h 0x09 spell).abortGraph (handle % 256)).finish h 0x09 0 []) := by
  subst spells
  have kept (f) : (s.acts h 0x09 f).graph (handle % 256) = some x := found
  simp only [execGraphAbort, State.command_accepted a, kept, if_pos (And.intro owns names)]

/-- GRAPH_ABORT of a handle that is no unfinished graph's of its context does nothing (R298). -/
theorem execGraphAbort_nothing
    (strange : ∀ x, s.graph (handle % 256) = some x → x.ctx ≠ h.ctx ∨ x.handle (handle % 256) ≠ handle) :
    execGraphAbort h handle s = .next ((s.acts h 0x09 spell).finish h 0x09 0 []) := by
  subst spells
  have kept (f) : (s.acts h 0x09 f).graph (handle % 256) = s.graph (handle % 256) := rfl
  simp only [execGraphAbort, State.command_accepted a, kept]
  cases found : s.graph (handle % 256) with
  | none => rfl
  | some x => simp only [if_neg (not_and_or.mpr (strange x found))]

end

/-! ## QUERY -/

section
variable {sel : Nat} (spells : spell = fun p => decide (field p 8 4 = sel)) (a : Accepted s h 0x38 spell)
include spells a

/-- QUERY replies the result of its selector (R342). -/
theorem execQuery_result {r : List Byte} (result : (s.acts h 0x38 spell).queryResult h.fn sel = some r) :
    execQuery h sel s = .next ((s.acts h 0x38 spell).finish h 0x38 0 r) := by
  subst spells
  simp only [execQuery, State.command_accepted a, result]

/-- QUERY of a selector without a result (R342). -/
theorem execQuery_refused (none_ : (s.acts h 0x38 spell).queryResult h.fn sel = none) :
    execQuery h sel s = .next ((s.acts h 0x38 spell).finish h 0x38 0x102 []) := by
  subst spells
  simp only [execQuery, State.command_accepted a, none_]

end

end

/-- Table 11.11 has no selector above 2. -/
theorem State.queryResult_none (s : State) (fn : Nat) {sel : Nat} (beyond : 3 ≤ sel) : s.queryResult fn sel = none := by
  unfold State.queryResult
  split
  · omega
  · omega
  · omega
  · rfl

/-- Settles O38: a submission by what its checks answer, an abort by whether its handle is of a graph, a query by its selector. -/
theorem graphsAndQueries : Obligations.GraphsAndQueries := by
  unfold Obligations.GraphsAndQueries
  refine ⟨?_, ?_, ?_⟩
  · intro s h addr spell u a
    have refused {code : Nat} {read : Option Acc} := execGraphSubmit_refused (code := code) (read := read) rfl a
    refine ⟨fun unaligned => ?_, fun code fails => ?_, fun code read fails => ?_, fun d roots b passes => ?_⟩
    · exact refused (read := none) (u.submitChecks_unaligned h.ctx unaligned)
    · exact refused (read := none) fails
    · exact refused (read := some read) fails
    · have slot : u.freeSlot = s.freeSlot := s.acts_freeSlot ..
      intro y
      have handle : y.2 = _ := u.acceptGraph_handle ..
      have graph : y.1.graph u.freeSlot = some _ := u.acceptGraph_graph ..
      rw [slot] at handle graph
      exact ⟨execGraphSubmit_accepted rfl a passes, handle, _, graph, rfl, rfl, rfl, rfl⟩
  · intro s h handle spell u a
    exact ⟨fun x found owns names => execGraphAbort_ends rfl a found owns names, execGraphAbort_nothing rfl a⟩
  · intro s h sel spell u a
    refine ⟨fun zero => ?_, fun r => execQuery_result rfl a, fun beyond => execQuery_refused rfl a (u.queryResult_none h.fn beyond)⟩
    subst zero
    exact execQuery_result rfl a rfl

end Sys2Proof.Machine
end

section
/-! SUPPORT. A counter behind an entry that the map of functions lists first (R427): the end of a context brings it out. -/

namespace Sys2Proof.Machine

open Safety

/-- A function that has lost more events than EVENTS_LOST can count. -/
def overcountedFn : Fn := { eventsLost := 2 ^ 32 }

/-- Function 1 stands twice in the map of functions, as in `twiceListed`: its window, and, behind it, a counter out of its range that no
reader finds. -/
def twiceCounted : State := { twiceListed with pci := { twiceListed.pci with fns := [(1, windowedFn), (1, overcountedFn)] } }

/-- A reader finds function 1 with its window, and every other function at reset. -/
theorem twiceCounted_fnOf (f : Nat) : twiceCounted.fnOf f = if f = 1 then windowedFn else {} := by
  by_cases hf : f = 1 <;> simp [State.fnOf, twiceCounted, mget, hf, eq_comm (a := (1 : Nat))]

/-- No counter that a reader finds has counted anything. -/
theorem twiceCounted_inRange : CountersInRange twiceCounted := by
  have engines (e : Nat) : (twiceCounted.engine e).gops < 2 ^ 32 ∧ (twiceCounted.engine e).unsupported < 2 ^ 32 := by
    unfold State.engine
    split <;> decide
  have functions (f : Nat) : (twiceCounted.fnOf f).eventsLost < 2 ^ 32 ∧ (twiceCounted.fnOf f).badAccess < 2 ^ 16
      ∧ ∀ q, ((twiceCounted.fnOf f).cqOf q).lost < 2 ^ 32 := by
    rw [twiceCounted_fnOf]
    split <;> exact ⟨by decide, by decide, fun _ => Nat.two_pow_pos 32⟩
  have ports (p : Nat) : (twiceCounted.port p).replays < 2 ^ 16 ∧ (twiceCounted.port p).fec < 2 ^ 32 :=
    ⟨Nat.two_pow_pos 16, Nat.two_pow_pos 32⟩
  exact ⟨by decide, by decide, ⟨by decide, by decide, ports⟩, engines, functions, by decide, fun _ => Nat.two_pow_pos 32, by decide⟩

/-- The reset of VF 2 ends context 0, which closes the window of function 1: its first entry is then one at reset, and goes. -/
theorem step_twiceCounted : ∃ t, step twiceCounted = .next t ∧ (t.fnOf 1).eventsLost = 2 ^ 32 :=
  ⟨({ twiceCounted with pending := [] } : State).resetFn 2, rfl, by decide⟩

/-- Refutes O6: its first part does not ask that the map of functions lists each function once. Where one is listed twice, the end of a
context takes out the first entry (`State.closeWindows` drops a function that is back at reset) and a reader finds what stood behind it,
here an EVENTS_LOST of 2 ^ 32. -/
theorem not_stepKeepsCountersInRange : ¬ Obligations.StepKeepsCountersInRange := by
  unfold Obligations.StepKeepsCountersInRange
  rintro ⟨counters, -⟩
  obtain ⟨t, stepped, beyond⟩ := step_twiceCounted
  obtain ⟨-, -, -, -, functions, -⟩ := counters twiceCounted t twiceCounted_inRange stepped
  exact absurd (functions 1).1 (by rw [beyond]; decide)

end Sys2Proof.Machine
end

section
/-! SUPPORT. The rings of a function (R325 to R332): its doorbells, the signal of a completion ring by whether MSI-X is enabled and
masked, and COMMAND_PACKET by what the fetch, the ring's order and the packet's checks answer. -/

namespace Sys2Proof.Machine

open Safety

/-! ## Doorbells -/

section
variable {s : State} {f r : Nat} {v : W64}

/-- A doorbell of a function that does not exist does nothing (R317). -/
theorem execCommandDoorbell_absent (absent : s.fnExists f = false) : execCommandDoorbell f r v s = .next s := by
  simp [execCommandDoorbell, absent]

/-- A doorbell of a function that exists moves TAIL of an enabled ring to an entry of it, and counts as a bad access otherwise
(R325, R326). -/
theorem execCommandDoorbell_present (clocked : Clocked s) (present : s.fnExists f = true) : execCommandDoorbell f r v s =
    if ((s.fnOf f).crOf r).enable = true ∧ v.toNat < 2 ^ ((s.fnOf f).crOf r).log2 then
      .next (s.modCr f r (fun c => { c with tail := v.toNat }))
    else .next (s.badAccess f) := by
  simp [execCommandDoorbell, clocked.stopped, present]

/-- A doorbell of a function that does not exist does nothing (R317). -/
theorem execCompletionDoorbell_absent (absent : s.fnExists f = false) : execCompletionDoorbell f r v s = .next s := by
  simp [execCompletionDoorbell, absent]

/-- A doorbell of a function that exists moves HEAD of an enabled ring to an entry of it, so that the ring writes what it holds, and
counts as a bad access otherwise (R325, R327). -/
theorem execCompletionDoorbell_present (clocked : Clocked s) (present : s.fnExists f = true) : execCompletionDoorbell f r v s =
    if ((s.fnOf f).cqOf r).enable = true ∧ v.toNat < 2 ^ ((s.fnOf f).cqOf r).log2 then
      .next ((s.modCq f r (fun c => { c with head := v.toNat })).drainCq f r (((s.fnOf f).cqOf r).held.length + 2))
    else .next (s.badAccess f) := by
  simp [execCompletionDoorbell, clocked.stopped, present]

end

/-- A ring that holds no reply and has lost none writes nothing (R327). -/
theorem State.drainCq_nothing {s : State} {f q : Nat} (held : ((s.fnOf f).cqOf q).held = []) (lost : ((s.fnOf f).cqOf q).lost = 0)
    (fuel : Nat) : s.drainCq f q fuel = s := by
  cases fuel with
  | zero => rfl
  | succ k => simp [State.drainCq, held, lost]

/-! ## MSI-X -/

section
variable {s : State} {f q : Nat}

/-- While MSI-X Enable is 0 a ring's signal only ends its count (R329). -/
theorem State.signal_off (off : (s.fnOf f).msixOn = false) :
    s.signal f q = s.modCq f q (fun c => { c with unsignalled := 0 }) := by
  simp [State.signal, off]

/-- The signal of a masked vector sets its pending bit (R329). -/
theorem State.signal_masked (on : (s.fnOf f).msixOn = true) (masked : (s.fnOf f).vectorMasked ((s.fnOf f).cqOf q).vector = true) :
    s.signal f q = (s.modCq f q (fun c => { c with unsignalled := 0 })).modFn f
      (fun y => { y with pba := y.pba ||| 2 ^ ((s.fnOf f).cqOf q).vector }) := by
  simp [State.signal, on, masked]

/-- The signal of another vector sends its message (R329). -/
theorem State.signal_sends (on : (s.fnOf f).msixOn = true) (open_ : (s.fnOf f).vectorMasked ((s.fnOf f).cqOf q).vector = false) :
    s.signal f q = (s.modCq f q (fun c => { c with unsignalled := 0 })).sendMsix f ((s.fnOf f).cqOf q).vector := by
  simp [State.signal, on, open_]

/-- What a ring's update leaves of its function's MSI-X table. -/
theorem State.modCq_vectorField (g : CQueue → CQueue) (v o n : Nat) :
    ((s.modCq f q g).fnOf f).vectorField v o n = (s.fnOf f).vectorField v o n := by
  simp [State.modCq, Fn.vectorField]

/-- MSIX_DELAY signals a ring that has replies not yet signalled (R329). -/
theorem execMsixDelay_signals (clocked : Clocked s) (due : ((s.fnOf f).cqOf q).unsignalled ≠ 0) :
    execMsixDelay f q s = .next (s.signal f q) := by
  simp [execMsixDelay, clocked.stopped, due]

end

/-! ## COMMAND_PACKET -/

/-- HEAD of a ring is past the packet that was read (R326). -/
def State.pastPacket (s : State) (f r : Nat) : State := s.modCr f r (fun c => { c with head := (c.head + 1) % 2 ^ c.log2 })

section
variable {s : State} {f r : Nat} {host : Option (List Byte)} (clocked : Clocked s) (enabled : ((s.fnOf f).crOf r).enable = true)
  (going : ((s.fnOf f).crOf r).error = false) (waiting : ((s.fnOf f).crOf r).head ≠ ((s.fnOf f).crOf r).tail)
include clocked enabled going waiting

/-- A read of the next packet that fails stops the ring, and RING_ERROR says so (R326). -/
theorem execCommandPacket_lost (lost : s.nextPacket ((s.fnOf f).crOf r) host = none) :
    execCommandPacket f r host s = .next ((s.modCr f r (fun c => { c with error := true })).post f ((s.fnOf f).crOf r).cq
      ⟨0, 0x105, 0, 0, 3, [], r⟩) := by
  simp [execCommandPacket, clocked.stopped, enabled, going, waiting, lost]

variable {p : List Byte} (fetched : s.nextPacket ((s.fnOf f).crOf r) host = some p)
include fetched

/-- A packet whose turn has not come stays in its ring (R332). -/
theorem execCommandPacket_waits (order : s.mayBegin f r (bit (field p 1 1) 1) = false) : execCommandPacket f r host s = .next s := by
  simp [execCommandPacket, clocked.stopped, enabled, going, waiting, fetched, order]

variable (order : s.mayBegin f r (bit (field p 1 1) 1) = true)
include order

/-- A packet that passes every check begins its command (R331, R332). -/
theorem execCommandPacket_begins {row : OpRow} (passes : (s.pastPacket f r).packetCode f p = 0)
    (named : opRow (field p 0 1) = some row) :
    execCommandPacket f r host s = .next (((s.pastPacket f r).modCr f r
      (fun c => { c with begun := c.begun ++ [⟨field p 0 1, field p 4 4, row.long, p, false⟩] })).modCtx (field p 2 1 % 64)
        (fun c => c.begins (packetCmd f r p) (field p 0 1))) := by
  unfold State.pastPacket at passes ⊢
  simp only [execCommandPacket, clocked.stopped, enabled, going, waiting, fetched, order, passes, named,
    Bool.not_true, Bool.or_self, decide_false, Bool.false_eq_true, if_false]

/-- A packet that fails a check is answered with that check's code (R331). -/
theorem execCommandPacket_refused (fails : (s.pastPacket f r).packetCode f p ≠ 0) :
    execCommandPacket f r host s = .next ((s.pastPacket f r).post f ((s.fnOf f).crOf r).cq
      ⟨field p 4 4, (s.pastPacket f r).packetCode f p, field p 0 1, field p 2 1 % 64, 0, [], r⟩) := by
  unfold State.pastPacket at fails ⊢
  simp only [execCommandPacket, clocked.stopped, enabled, going, waiting, fetched, order, Bool.not_true,
    Bool.or_self, decide_false, Bool.false_eq_true, if_false]
  split
  · next passes _ => exact absurd passes fails
  · rfl

end

/-- Settles O36: each doorbell by whether its function exists and its ring takes it, the signal by MSI-X Enable and the mask, a packet
by what the fetch, the ring's order and the checks answer. -/
theorem ringsDoorbellsAndPackets : Obligations.RingsDoorbellsAndPackets := by
  unfold Obligations.RingsDoorbellsAndPackets
  refine ⟨?_, ?_, ?_, ?_, fun c h op => rfl⟩
  · intro s f r v clocked c
    exact ⟨fun present enabled inRange => (execCommandDoorbell_present clocked present).trans (if_pos ⟨enabled, inRange⟩),
      fun present bad => (execCommandDoorbell_present clocked present).trans (if_neg bad), execCommandDoorbell_absent⟩
  · intro s f r v clocked c u
    refine ⟨fun present enabled inRange => ⟨(execCompletionDoorbell_present clocked present).trans (if_pos ⟨enabled, inRange⟩),
      fun held lost => ?_⟩, fun present bad => (execCompletionDoorbell_present clocked present).trans (if_neg bad),
      execCompletionDoorbell_absent⟩
    have ring : (u.fnOf f).cqOf r = { c with head := v.toNat } := s.modCq_cqOf f r _
    exact u.drainCq_nothing (by rw [ring]; exact held) (by rw [ring]; exact lost) _
  · intro s f r clocked due x v entry u
    have signals := execMsixDelay_signals clocked due
    refine ⟨fun on masked => ?_, fun on unmasked clear => ?_, fun off => ?_⟩
    · exact signals.trans (congrArg _ (State.signal_masked on (Bool.or_eq_true_iff.mpr masked)))
    · have sent := State.signal_sends on (Bool.or_eq_false_iff.mpr ⟨unmasked, clear⟩)
      rw [State.sendMsix, State.modCq_vectorField, State.modCq_vectorField] at sent
      exact signals.trans (congrArg _ sent)
    · exact signals.trans (congrArg _ (State.signal_off off))
  · intro s f r host clocked c enabled going waiting
    refine ⟨execCommandPacket_lost clocked enabled going waiting, fun p fetched order => ?_,
      fun p => execCommandPacket_waits clocked enabled going waiting⟩
    exact ⟨fun row => execCommandPacket_begins clocked enabled going waiting fetched order,
      execCommandPacket_refused clocked enabled going waiting fetched order⟩

end Sys2Proof.Machine
end

section
/-! SUPPORT. Which VFs exist (R317): nothing that ends a context (R339) writes NumVFs or VF Enable, each operation in the order of the
model. -/

namespace Sys2Proof.Machine

/-- NumVFs and VF Enable (R317). -/
def Pci.vfs (p : Pci) : Nat × Bool := (p.numVfs, p.vfEnable)

theorem State.foldl_vfs {α : Type} {f : State → α → State} (hf : ∀ t a, (f t a).pci.vfs = t.pci.vfs) (l : List α) (s : State) :
    (l.foldl f s).pci.vfs = s.pci.vfs :=
  List.foldlRecOn (motive := fun t : State => t.pci.vfs = s.pci.vfs) l f rfl fun t ht a _ => (hf t a).trans ht

section
variable (s : State)

/-! ## Replies -/

@[simp] theorem State.modFn_vfs (f : Nat) (g : Fn → Fn) : (s.modFn f g).pci.vfs = s.pci.vfs := rfl
@[simp] theorem State.modCq_vfs (f q : Nat) (g : CQueue → CQueue) : (s.modCq f q g).pci.vfs = s.pci.vfs := rfl
@[simp] theorem State.modCr_vfs (f r : Nat) (g : CRing → CRing) : (s.modCr f r g).pci.vfs = s.pci.vfs := rfl
@[simp] theorem State.discardReply_vfs (f q : Nat) : (s.discardReply f q).pci.vfs = s.pci.vfs := rfl

@[simp] theorem State.ringWrite_pci (loc : Bool) (a : Nat) (bs : List Byte) : (s.ringWrite loc a bs).pci = s.pci := by
  unfold State.ringWrite
  split <;> rfl

@[simp] theorem State.signal_vfs (f q : Nat) : (s.signal f q).pci.vfs = s.pci.vfs := by
  unfold State.signal
  dsimp only
  split
  · rfl
  · split <;> rfl

@[simp] theorem State.writeReply_vfs (f q : Nat) (r : Reply) : (s.writeReply f q r).pci.vfs = s.pci.vfs := by
  unfold State.writeReply
  dsimp only
  split
  · rw [State.foldl_vfs fun t _ => t.discardReply_vfs f q, State.modCq_vfs]
  · split <;> simp

@[simp] theorem State.drainCq_vfs (f q fuel : Nat) : (s.drainCq f q fuel).pci.vfs = s.pci.vfs := by
  induction fuel generalizing s with
  | zero => rfl
  | succ k ih =>
    unfold State.drainCq
    dsimp only
    split
    · rfl
    · split
      · rw [ih]
        split <;> simp
      · split
        · rfl
        · simp [ih]

@[simp] theorem State.post_vfs (f q : Nat) (r : Reply) : (s.post f q r).pci.vfs = s.pci.vfs := by
  unfold State.post
  dsimp only
  split
  · rfl
  · split
    · split <;> simp
    · simp

@[simp] theorem State.event_vfs (x code : Nat) (bs : List Byte) : (s.event x code bs).pci.vfs = s.pci.vfs := by
  unfold State.event
  split <;> simp

@[simp] theorem State.finish_vfs (h : Cmd) (op code : Nat) (bs : List Byte) : (s.finish h op code bs).pci.vfs = s.pci.vfs := by
  unfold State.finish State.endBegun
  dsimp only
  split <;> simp

/-! ## The end of a task's work -/

@[simp] theorem State.dropTaskWaits_pci (g i : Nat) : (s.dropTaskWaits g i).pci = s.pci := rfl

@[simp] theorem State.clearCore_vfs (c : Nat) : (s.clearCore c).pci.vfs = s.pci.vfs :=
  State.foldl_vfs (f := State.landStore) (fun _ _ => rfl) _ s

@[simp] theorem State.clearTask_vfs (g i : Nat) : (s.clearTask g i).pci.vfs = s.pci.vfs := by
  unfold State.clearTask
  rw [State.modTask_pci]
  refine (State.foldl_vfs (fun _ _ => ?_) ..).trans (State.foldl_vfs State.clearCore_vfs ..)
  rfl

@[simp] theorem State.sendAdd_pci (src : Agent) (key inc : Nat) (by_ : Option (Nat × Nat)) :
    (s.sendAdd src key inc by_).1.pci = s.pci := by
  rw [State.sendAdd_eq]

@[simp] theorem State.releaseVersion_pci (g i : Nat) : (s.releaseVersion g i).pci = s.pci := by
  unfold State.releaseVersion
  split
  · rfl
  · dsimp only
    split <;> simp

@[simp] theorem State.releaseGraph_vfs (g : Nat) : (s.releaseGraph g).pci.vfs = s.pci.vfs := by
  unfold State.releaseGraph
  split
  · rfl
  · refine State.foldl_vfs (fun t e => ?_) _ s
    split <;> simp

@[simp] theorem State.releaseStash_pci (g i : Nat) : (s.releaseStash g i).pci = s.pci := by
  unfold State.releaseStash
  split
  · rfl
  · dsimp only
    split
    · rfl
    · split <;> rfl

/-! ## The end of a graph -/

@[simp] theorem State.replayCause_vfs (x : Nat) (step : Option Nat) (code : Nat) : (s.replayCause x step code).pci.vfs = s.pci.vfs := by
  unfold State.replayCause
  split
  · split
    · rfl
    · split <;> simp
  · rfl

@[simp] theorem State.graphFail_pci (g code i : Nat) : (s.graphFail g code i).pci = s.pci := State.modGraph_pci ..

theorem State.clearTasks_vfs (g : Nat) (l : Map Task) :
    (l.foldl (fun (s : State) e => if e.2.cores = [] then s else s.clearTask g e.1) s).pci.vfs = s.pci.vfs := by
  refine State.foldl_vfs (fun t e => ?_) l s
  split <;> simp

@[simp] theorem State.endGraph_vfs (g code : Nat) : (s.endGraph g code).pci.vfs = s.pci.vfs := by
  unfold State.endGraph
  split
  · rfl
  · dsimp only
    have released (l : Map Task) := (State.releaseGraph_vfs _ g).trans (s.clearTasks_vfs g l)
    split
    · exact released _
    · rw [State.replayCause_vfs, State.post_vfs, State.modCtx_pci]
      exact released _

@[simp] theorem State.settle_vfs (g : Nat) : (s.settle g).pci.vfs = s.pci.vfs := by
  unfold State.settle
  split
  · rfl
  · split
    · split <;> simp
    · split
      · simp
      · split <;> simp

@[simp] theorem State.suspend_vfs (x va : Nat) (store : Bool) : (s.suspend x va store).pci.vfs = s.pci.vfs := by
  unfold State.suspend
  split
  · rfl
  · split <;> simp

@[simp] theorem State.taskFails_vfs (g i code : Nat) : (s.taskFails g i code).pci.vfs = s.pci.vfs := by
  unfold State.taskFails
  split <;> simp

/-! ## Tasks that come into the window -/

@[simp] theorem State.addDecision_pci (d : Decision) : (s.addDecision d).pci = s.pci := by
  unfold State.addDecision
  split <;> rfl

@[simp] theorem State.recordPa_pci (pa : Nat) : (s.recordPa pa).pci = s.pci := by
  unfold State.recordPa
  split <;> simp

@[simp] theorem State.markAcc_pci (w : Who) (a : Acc) : (s.markAcc w a).pci = s.pci := by
  unfold State.markAcc
  split
  · rfl
  · simp
  · rfl

@[simp] theorem State.poke_pci (x a : Nat) (bs : List Byte) : (s.poke x a bs).pci = s.pci := by
  rw [State.poke, State.write_eq]

@[simp] theorem State.countTask_pci (g i : Nat) : (s.countTask g i).pci = s.pci := by
  unfold State.countTask
  split
  · rfl
  · dsimp only
    split
    · split
      · rfl
      · split <;> simp
    · rfl

@[simp] theorem State.nameVersion_pci (g i : Nat) (x : Graph) (d : List Byte) : ((s.nameVersion g i x d).toOption.getD s).pci = s.pci := by
  unfold State.nameVersion
  split
  · rfl
  · split
    · rfl
    · dsimp only
      split
      · rfl
      · split
        · rfl
        · exact (State.countTask_pci ..).trans (State.modTask_pci ..)

@[simp] theorem State.addWait_pci (key threshold : Nat) (who : Waiter) : (s.addWait key threshold who).pci = s.pci := by
  rw [State.addWait_eq]

@[simp] theorem State.loadTask_vfs (g i : Nat) : (s.loadTask g i).pci.vfs = s.pci.vfs := by
  unfold State.loadTask
  split
  · rfl
  · split
    · split
      · simp
      · simp
      · split
        · simp
        · rw [State.foldl_vfs fun t _ => congrArg Pci.vfs (State.addWait_pci t ..)]
          simp
    · rfl

@[simp] theorem State.unspillSome_vfs (n : Nat) : (s.unspillSome n).pci.vfs = s.pci.vfs := by
  induction n generalizing s with
  | zero => rfl
  | succ n ih =>
    rw [State.unspillSome]
    split
    · rfl
    · split
      · simp [ih]
      · rfl

/-! ## The end of a context -/

@[simp] theorem State.abortGraph_vfs (g : Nat) : (s.abortGraph g).pci.vfs = s.pci.vfs := by
  simp [State.abortGraph, State.unspill]

@[simp] theorem State.closeStream_vfs (h : Nat) : (s.closeStream h).pci.vfs = s.pci.vfs := by
  unfold State.closeStream
  split
  · rfl
  · rw [State.foldl_vfs fun t _ => State.finish_vfs t .., State.modEngine_pci]
    rfl

@[simp] theorem State.endWaiting_vfs (x : Nat) (c : Ctx) : (s.endWaiting x c).pci.vfs = s.pci.vfs := by
  unfold State.endWaiting
  dsimp only
  rw [State.foldl_vfs fun t _ => State.finish_vfs t ..]
  split
  · rw [State.finish_vfs, State.foldl_vfs fun t _ => State.finish_vfs t ..]
    split <;> simp
  · rw [State.foldl_vfs fun t _ => State.finish_vfs t ..]
    split <;> simp

@[simp] theorem State.dropEvileWaits_pci (p : Nat → Nat → Bool) : (s.dropEvileWaits p).pci = s.pci := rfl
@[simp] theorem State.orphanRecords_pci (x : Nat) : (s.orphanRecords x).pci = s.pci := rfl
@[simp] theorem State.closeWindows_vfs (x : Nat) : (s.closeWindows x).pci.vfs = s.pci.vfs := rfl

/-- The end of a context leaves NumVFs and VF Enable. -/
@[simp] theorem State.destroy_vfs (x : Nat) : (s.destroy x).pci.vfs = s.pci.vfs := by
  unfold State.destroy
  split
  · rfl
  · dsimp only
    rw [State.closeWindows_vfs, State.orphanRecords_pci, State.dropEvileWaits_pci, State.endWaiting_vfs,
      State.foldl_vfs fun t _ => t.closeStream_vfs _, State.foldl_vfs fun t _ => t.abortGraph_vfs _]

theorem State.resetCtx_vfs (x : Nat) : (s.resetCtx x).pci.vfs = s.pci.vfs := s.destroy_vfs x

/-- A function's reset leaves NumVFs and VF Enable. -/
theorem State.resetFn_vfs (f : Nat) : (s.resetFn f).pci.vfs = s.pci.vfs :=
  State.foldl_vfs (f := fun (t : State) (e : Nat × Ctx) => t.resetCtx e.1) (fun t _ => t.resetCtx_vfs _) _ s

end

end Sys2Proof.Machine
end

section
/-! SUPPORT. Functions and their reset (R317, R329, R344, R443, R444): what a function-level reset leaves of a function, what a write to a
configuration space does once boot has ended, and the width and rate that the link trains to. -/

namespace Sys2Proof.Machine

open Safety

/-! ## Function-level reset -/

section
variable (s : State)

/-- A function that has been reset holds its reset values (R344). -/
theorem State.resetFn_fnOf (f : Nat) : (s.resetFn f).fnOf f = {} := mget_mdel_same ..

variable {s} (none_ : s.ctxs = [])
include none_

/-- Without contexts the reset of a function is its return to its reset values. -/
theorem State.resetFn_of_no_context (f : Nat) : s.resetFn f = { s with pci := { s.pci with fns := mdel s.pci.fns f } } := by
  simp [State.resetFn, none_]

/-- Without contexts the reset of a function is no other's. -/
theorem State.resetFn_fnOf_other {f g : Nat} (other : f ≠ g) : (s.resetFn f).fnOf g = s.fnOf g := by
  rw [State.resetFn_of_no_context none_]
  exact mget_mdel_other _ _ other.symm

/-- Without contexts each function of a list holds its reset values once all of the list are reset. -/
theorem State.foldl_resetFn_fnOf {f : Nat} {l : List Nat} (reset : f ∈ l ∨ s.fnOf f = {}) : (l.foldl State.resetFn s).fnOf f = {} := by
  induction l generalizing s with
  | nil => exact reset.resolve_left (List.not_mem_nil)
  | cons g l ih =>
    have none' : (s.resetFn g).ctxs = [] := by rw [State.resetFn_of_no_context none_]; exact none_
    refine ih none' ?_
    by_cases same : g = f
    · exact .inr (same ▸ s.resetFn_fnOf g)
    · rw [State.resetFn_fnOf_other none_ same]
      exact reset.imp_left fun member => (List.mem_cons.mp member).resolve_left (Ne.symm same)

end

/-- Every function is reset, and the VFs, their limits and the size of BAR4 with them (R344). -/
def State.resetPf (s : State) : State :=
  let t := (range 64).foldl State.resetFn s
  { t with pci := { t.pci with vfEnable := false, numVfs := 0, limits := [], bar4 := 4 } }

/-- Without contexts the PF's reset leaves every function with its reset values. -/
theorem State.resetPf_fnOf {s : State} (none_ : s.ctxs = []) {f : Nat} (below : f < 64) : s.resetPf.fnOf f = {} := by
  have reset := State.foldl_resetFn_fnOf none_ (.inl (List.mem_range.mpr below))
  unfold State.resetPf range
  generalize (List.range 64).foldl State.resetFn s = t at reset ⊢
  exact reset

section
variable {s : State}

/-- The reset of a function that does not exist does nothing (R317). -/
theorem execFunctionLevelReset_absent {f : Nat} (absent : s.fnExists f = false) : execFunctionLevelReset f s = .next s := by
  simp [execFunctionLevelReset, absent]

/-- A VF that exists is reset (R344). -/
theorem execFunctionLevelReset_vf {f : Nat} (writes : Writes s f) (vf : f ≠ 0) : execFunctionLevelReset f s = .next (s.resetFn f) := by
  simp only [execFunctionLevelReset, writes.notHeld, Bool.false_eq_true, if_false, if_neg vf]

/-- The reset of the PF resets every function and takes the VFs away (R344). -/
theorem execFunctionLevelReset_pf (clocked : Clocked s) : execFunctionLevelReset 0 s = .next s.resetPf := by
  simp only [execFunctionLevelReset, clocked.writes.notHeld, Bool.false_eq_true, if_false, if_true, State.resetPf]

/-! ## Configuration writes -/

/-- Until boot ends a configuration write is to be tried again (R444). -/
theorem execVfEnable_booting (clocked : Clocked s) (booting : s.boot.state = .booting) (w : CfgWrite) (enable : Bool) :
    execVfEnable w enable s = .next (s.emit .cfgRetry) := by
  simp only [execVfEnable, clocked.stopped, Bool.false_eq_true, if_false, if_pos booting]

/-- From the end of boot on a configuration write takes place. -/
theorem execVfEnable_booted (clocked : Clocked s) (booted : s.boot.state ≠ .booting) (w : CfgWrite) (enable : Bool) :
    execVfEnable w enable s = .next (match w with
      | .vfs n => s.writeVfs n enable
      | .msix f mask => s.writeMsixCap f enable mask
      | .bar4 k => { s with pci := { s.pci with bar4 := if k ≤ 6 then k else s.pci.bar4 } }
      | .aer f b => s.modFn f (fun x => { x with aer := x.aer - (x.aer &&& b) })) := by
  simp only [execVfEnable, clocked.stopped, Bool.false_eq_true, if_false, if_neg booted]
  cases w <;> rfl

/-- NumVFs and VF Enable as they are written, before a VF that they take away is reset (R317, R443). -/
def State.withVfs (s : State) (n : Nat) (enable : Bool) : State :=
  { s with pci := { s.pci with numVfs := if s.boot.state = .recovery then 0 else min n 63, vfEnable := enable } }

/-- The reset of the VFs that are taken away leaves NumVFs and VF Enable as they were written (R317). -/
theorem State.writeVfs_vfs (n : Nat) (enable : Bool) : (s.writeVfs n enable).pci.vfs = (s.withVfs n enable).pci.vfs :=
  State.foldl_vfs State.resetFn_vfs _ (s.withVfs n enable)

/-- A write that takes no VF away resets none (R317). -/
theorem State.writeVfs_of_kept {n : Nat} {enable : Bool} (kept : ∀ f, s.fnExists f = true → (s.withVfs n enable).fnExists f = true) :
    s.writeVfs n enable = s.withVfs n enable := by
  have gone : (range 64).filter (fun f => s.fnExists f && !(s.withVfs n enable).fnExists f) = [] :=
    List.filter_eq_nil_iff.mpr fun f _ => by
      cases present : s.fnExists f with
      | false => simp
      | true => simp [kept f present]
  unfold State.withVfs at gone ⊢
  simp only [State.writeVfs, gone, List.foldl_nil]

/-- A function whose MSI-X is disabled or masked as a whole sends nothing that is pending (R329). -/
theorem State.sendPending_quiet {f : Nat} (quiet : (s.fnOf f).msixOn = false ∨ (s.fnOf f).msixMask = true) : s.sendPending f = s := by
  refine List.foldl_fixed' (fun v => ?_) _
  rcases quiet with off | masked
  · simp [off]
  · simp [Fn.vectorMasked, masked]

/-! ## PERST# -/

/-- The widths of Table 11.21. -/
theorem two_pow_mod_five_mem (k : Nat) : 2 ^ (k % 5) ∈ [1, 2, 4, 8, 16] := by
  have widths : ∀ j < 5, 2 ^ j ∈ [1, 2, 4, 8, 16] := by decide
  exact widths _ (Nat.mod_lt k (by decide))

end

/-- Settles O55: a reset by which function it is of, a configuration write by whether boot has ended and what it writes, and the training of
the link by its equation. -/
theorem functionsAndTheirReset : Obligations.FunctionsAndTheirReset := by
  unfold Obligations.FunctionsAndTheirReset
  refine ⟨?_, fun s f _ => execFunctionLevelReset_absent, ?_,
    fun s w enable clocked booting => execVfEnable_booting clocked booting w enable, ?_, ?_, fun s k enable clocked booted => execVfEnable_booted clocked booted (.bar4 k) enable,
    fun s f b enable clocked booted => execVfEnable_booted clocked booted (.aer f b) enable, ?_⟩
  · intro s f writes vf
    exact ⟨execFunctionLevelReset_vf writes vf, s.resetFn_fnOf f, congrArg Prod.fst (s.resetFn_vfs f)⟩
  · intro s clocked
    exact ⟨s.resetPf, execFunctionLevelReset_pf clocked, rfl, rfl, rfl, fun none_ f below => State.resetPf_fnOf none_ below⟩
  · intro s n enable clocked booted m u
    have vfs := s.writeVfs_vfs n enable
    exact ⟨_, execVfEnable_booted clocked booted (.vfs n) enable, congrArg Prod.fst vfs, congrArg Prod.snd vfs, State.writeVfs_of_kept⟩
  · intro s f enable mask clocked booted u
    have written := execVfEnable_booted clocked booted (.msix f mask) enable
    refine ⟨fun present => ⟨written.trans (congrArg _ (if_pos present)), fun quiet => State.sendPending_quiet ?_⟩, fun absent => ?_⟩
    · rw [State.modFn_fnOf]
      exact quiet
    · exact written.trans (congrArg _ (if_neg (Bool.eq_false_iff.mp absent)))
  · intro s
    exact ⟨_, rfl, two_pow_mod_five_mem _, Nat.mod_lt _ (by decide), rfl⟩

end Sys2Proof.Machine
end

section
/-! SUPPORT. The tags of Nunex and the lanes of its ports (R349, R362): what sending and ending an operation do to the tags in use, and
what a port's own operations leave of its lanes. -/

namespace Sys2Proof.Machine

/-! ## Tags -/

/-- The die and the tag of each operation that is sent (R362). -/
def tagKeys (l : List Op) : List (Nat × Nat) := (l.filter Op.sent).map (fun o => (o.packet.die, o.packet.tag))

@[simp] theorem tagKeys_nil : tagKeys [] = [] := rfl
@[simp] theorem tagKeys_append (l m : List Op) : tagKeys (l ++ m) = tagKeys l ++ tagKeys m := by simp [tagKeys]

/-- An operation that waits for a tag holds none. -/
@[simp] theorem tagKeys_cons_waiting {o : Op} (l : List Op) (waits : o.sent = false) : tagKeys (o :: l) = tagKeys l := by
  simp [tagKeys, waits]

@[simp] theorem tagKeys_cons_sent {o : Op} (l : List Op) (sent : o.sent = true) :
    tagKeys (o :: l) = (o.packet.die, o.packet.tag) :: tagKeys l := by
  simp [tagKeys, sent]

/-- A change of each operation that leaves its packet, and whether it is sent, leaves the tags. -/
theorem tagKeys_map {f : Op → Op} (packet : ∀ o, (f o).packet = o.packet) (sent : ∀ o, (f o).sent = o.sent) (l : List Op) :
    tagKeys (l.map f) = tagKeys l := by
  simp [tagKeys, List.filter_map, Function.comp_def, packet, sent]

/-- Operations that end take their tags with them. -/
theorem tagKeys_filter (p : Op → Bool) (l : List Op) : (tagKeys (l.filter p)).Sublist (tagKeys l) :=
  (List.filter_sublist.filter _).map _

/-- An element found with its index stands there. -/
theorem findIdx_getElem? {α : Type} {p : α → Bool} {l : List α} {i : Nat} {a : α} (e : findIdx p l = some (i, a)) :
    l[i]? = some a ∧ p a = true := by
  obtain ⟨j, _, h⟩ := List.mem_mapIdx.mp (List.mem_of_find?_eq_some e)
  cases h
  exact ⟨List.getElem?_eq_getElem _, List.find?_some (p := fun e : Nat × α => p e.2) e⟩

/-- An update by index at the element's place. -/
theorem upd_middle {α : Type} (l m : List α) (a : α) (f : α → α) : upd (l ++ a :: m) l.length f = l ++ f a :: m := by
  induction l with
  | nil => exact (upd_cons a m f).1
  | cons b l ih => exact ((upd_cons b _ f).2 _).trans (congrArg _ ih)

/-- An operation that waited and is sent adds its tag to those in use (R362). -/
theorem tagKeys_upd {o k : Op} {l : List Op} {i : Nat} (at_ : l[i]? = some o) (waits : o.sent = false) (sent : k.sent = true) :
    (tagKeys (upd l i (fun _ => k))).Perm ((k.packet.die, k.packet.tag) :: tagKeys l) := by
  obtain ⟨below, here⟩ := List.getElem?_eq_some_iff.mp at_
  obtain ⟨before, behind, rfl, rfl⟩ : ∃ b r, l = b ++ o :: r ∧ b.length = i :=
    ⟨l.take i, l.drop (i + 1), by rw [← here, List.getElem_cons_drop, List.take_append_drop], List.length_take_of_le below.le⟩
  simp [upd_middle, waits, sent]

/-- The lowest free tag is one of the die's 4,608, and no operation sent from it holds it (R362). -/
theorem State.freeTag_spec {s : State} {die t : Nat} (e : s.freeTag die = some t) : t < 4608 ∧ (die, t) ∉ tagKeys s.nxp.ops := by
  unfold State.freeTag range at e
  refine ⟨List.mem_range.mp (List.mem_of_find?_eq_some e), fun used => ?_⟩
  obtain ⟨o, holds, key⟩ := List.mem_map.mp used
  cases key
  have free := List.find?_some e
  simp only [Bool.not_eq_true', List.contains_eq_mem, decide_eq_false_iff_not] at free
  exact free (List.mem_map.mpr ⟨o, by simpa using List.mem_filter.mp holds, rfl⟩)

@[simp] theorem State.build_ops (s : State) (die op dst tag job len addr : Nat) (spec : Bool) (bs : List Byte) :
    (s.build die op dst tag job len addr spec bs).1.nxp.ops = s.nxp.ops := by
  unfold State.build State.nextSseq
  dsimp only
  split <;> rfl

@[simp] theorem State.build_die (s : State) (die op dst tag job len addr : Nat) (spec : Bool) (bs : List Byte) :
    (s.build die op dst tag job len addr spec bs).2.die = die := rfl
@[simp] theorem State.build_tag (s : State) (die op dst tag job len addr : Nat) (spec : Bool) (bs : List Byte) :
    (s.build die op dst tag job len addr spec bs).2.tag = tag := rfl

@[simp] theorem State.transmit_ops (s : State) (k : Packet) : (s.transmit k).nxp.ops = s.nxp.ops := by
  unfold State.transmit State.transmitOver
  split <;> rfl

/-! ## Lanes -/

/-- What a port's range speaks of: its failed lanes, its spare and its state (R349, Table 12.15). -/
def Port.lanes (x : Port) : Nat × Nat × Nat := (x.failed, x.spare, x.state)

theorem Port.sendFlits_lanes (n : Nat) : ∀ x : Port, (x.sendFlits n).lanes = x.lanes := by
  induction n with
  | zero => exact fun _ => rfl
  | succ n ih =>
    intro x
    unfold Port.sendFlits
    split
    · rfl
    · exact ih _

@[simp] theorem Port.pump_lanes (x : Port) : x.pump.lanes = x.lanes := x.sendFlits_lanes _
@[simp] theorem Port.send_lanes (x : Port) (k : Packet) : (x.send k).lanes = x.lanes := Port.pump_lanes _
@[simp] theorem Port.sendBytes_lanes (x : Port) (v : Nat) (bs : List Byte) : (x.sendBytes v bs).lanes = x.lanes := Port.pump_lanes _

@[simp] theorem Port.ackTo_lanes (x : Port) (ack : Nat) : (x.ackTo ack).lanes = x.lanes := by
  unfold Port.ackTo
  split <;> rfl

/-- A lane that fails is one of the five (R349). -/
theorem failed_add_lane {failed l : Nat} (inRange : failed < 2 ^ 5) (lane : l < 5) (good : bit failed l = false) :
    failed + 2 ^ l < 2 ^ 5 := by
  have all : ∀ f < 2 ^ 5, ∀ l < 5, bit f l = false → f + 2 ^ l < 2 ^ 5 := by decide
  exact all _ inRange _ lane good

end Sys2Proof.Machine

namespace Sys2Proof.Safety

open Machine

/-- The tags in use are in range and distinct. -/
theorem tagsInRange_iff {s : State} :
    TagsInRange s ↔ (∀ k ∈ tagKeys s.nxp.ops, k.2 < 4608) ∧ (tagKeys s.nxp.ops).Nodup := by
  refine and_congr_left fun _ => ?_
  simp only [tagKeys, List.forall_mem_map, List.mem_filter, and_imp]

/-- A port's failed lanes, its spare and its state are in range (R349, Table 12.15). -/
def LanesInRange (x : Port) : Prop := x.failed < 2 ^ 5 ∧ (x.spare < 5 ∨ x.spare = 7) ∧ x.state < 4

theorem LanesInRange.of_lanes {x y : Port} (h : LanesInRange x) (e : y.lanes = x.lanes) : LanesInRange y := by
  cases x
  cases y
  cases e
  exact h

/-- A port that comes to another of the four states. -/
theorem LanesInRange.inState {x : Port} (h : LanesInRange x) (n : Nat) (state : n < 4) {y : Port}
    (e : y.lanes = (x.failed, x.spare, n) := by rfl) : LanesInRange y := by
  cases y
  cases e
  exact ⟨h.1, h.2.1, state⟩

/-- `t` is reached from `s` by operations that keep the tags and the lanes in range where they were. -/
structure Wired (s t : State) : Prop where
  tags : TagsInRange s → TagsInRange t
  ports : PortsInRange s → PortsInRange t

/-- A command ends in a state that keeps what `s` has. -/
def WiredOut (s : State) (o : Out State) : Prop := ∃ t, o = .next t ∧ Wired s t

/-- The state that an access reaches, however it ends, keeps what `s` has. -/
def WiredRes {α : Type} (s : State) : Res α → Prop
  | .ok t _ | .fail t _ | .miss t _ _ | .wait t => Wired s t

namespace Wired

section
variable {s t : State} (h : Wired s t)
include h

/-- An operation that gives no operation a tag and leaves the ports keeps both. -/
theorem fewer {u : State} (ops : (tagKeys u.nxp.ops).Sublist (tagKeys t.nxp.ops)) (ports : u.nxp.ports = t.nxp.ports) : Wired s u where
  tags m := by
    obtain ⟨low, distinct⟩ := tagsInRange_iff.mp (h.tags m)
    exact tagsInRange_iff.mpr ⟨fun k o => low k (ops.subset o), distinct.sublist ops⟩
  ports m p := by
    unfold State.port
    rw [ports]
    exact h.ports m p

/-- An operation that leaves the operations and the ports keeps both. -/
theorem same {u : State} (e : (u.nxp.ops, u.nxp.ports) = (t.nxp.ops, t.nxp.ports)) : Wired s u := by
  obtain ⟨ops, ports⟩ := Prod.mk.inj e
  exact h.fewer (by rw [ops]) ports

/-- An operation that is given a free tag (R362). -/
theorem sent {u : State} {die n : Nat} (free : n < 4608 ∧ (die, n) ∉ tagKeys t.nxp.ops)
    (ops : (tagKeys u.nxp.ops).Perm ((die, n) :: tagKeys t.nxp.ops)) (ports : u.nxp.ports = t.nxp.ports) : Wired s u where
  tags m := by
    obtain ⟨low, distinct⟩ := tagsInRange_iff.mp (h.tags m)
    obtain ⟨below, new⟩ := free
    refine tagsInRange_iff.mpr ⟨fun k o => ?_, ops.nodup_iff.mpr (List.nodup_cons.mpr ⟨new, distinct⟩)⟩
    rcases List.mem_cons.mp (ops.mem_iff.mp o) with rfl | o
    · exact below
    · exact low k o
  ports m p := by
    unfold State.port
    rw [ports]
    exact h.ports m p

/-- Each operation changes, but for its packet and whether it is sent. -/
theorem eachOp {f : Op → Op} (keeps : ∀ o, (f o).packet = o.packet ∧ (f o).sent = o.sent) :
    Wired s { t with nxp := { t.nxp with ops := t.nxp.ops.map f } } :=
  h.fewer (by rw [tagKeys_map (fun o => (keeps o).1) fun o => (keeps o).2]) rfl

/-- Operations end. -/
theorem someOps (p : Op → Bool) : Wired s { t with nxp := { t.nxp with ops := t.nxp.ops.filter p } } :=
  h.fewer (tagKeys_filter ..) rfl

/-- Every field but Nunex may change. -/
theorem set (pending tick mem hostMem bad cores clusters sys repair boot power hbm ctxs ctxRegs thmSel trh wmk evl pci ing0 ing1 rcl mtr
    lnt out) :
    Wired s { t with
      pending := pending, tick := tick, mem := mem, hostMem := hostMem, bad := bad, cores := cores, clusters := clusters, sys := sys
      repair := repair, boot := boot, power := power, hbm := hbm, ctxs := ctxs, ctxRegs := ctxRegs, thmSel := thmSel, trh := trh
      wmk := wmk, evl := evl, pci := pci, ing0 := ing0, ing1 := ing1, rcl := rcl, mtr := mtr, lnt := lnt, out := out } :=
  h.same rfl

/-- Every field of Nunex but the operations and the ports may change. -/
theorem nunex (device hall epoch role leaving joining leaveCmd eventCq resendUs rx txSeqs drops0 drops1 members epochs mgr pair term standby
    ready jobs left_ commits changes recorded copies nextCopy inbox diesLost) :
    Wired s { t with nxp := { t.nxp with
      device := device, hall := hall, epoch := epoch, role := role, leaving := leaving, joining := joining, leaveCmd := leaveCmd
      eventCq := eventCq, resendUs := resendUs, rx := rx, txSeqs := txSeqs, drops0 := drops0, drops1 := drops1, members := members
      epochs := epochs, mgr := mgr, pair := pair, term := term, standby := standby, ready := ready, jobs := jobs, left_ := left_
      commits := commits, changes := changes, recorded := recorded, copies := copies, nextCopy := nextCopy, inbox := inbox
      diesLost := diesLost } } :=
  h.same rfl

/-- What a reply keeps is kept. -/
theorem replied {u : State} (r : Replied t u) : Wired s u := h.same (by rw [r.nxp])

/-- A port changes, within its range. -/
theorem modPort {p : Nat} {f : Port → Port} (range : LanesInRange (t.port p) → LanesInRange (f (t.port p))) :
    Wired s (t.modPort p f) where
  tags := h.tags
  ports m q := by
    have here := h.ports m
    by_cases e : p = q
    · subst e
      rw [State.modPort_port]
      exact range (here p)
    · rw [show (t.modPort p f).port q = t.port q from mget_mset_other _ _ _ e]
      exact here q

/-- A port changes but for its lanes. -/
theorem modPort_lanes {p : Nat} {f : Port → Port} (lanes : ∀ x, (f x).lanes = x.lanes) : Wired s (t.modPort p f) :=
  h.modPort fun r => r.of_lanes (lanes _)

/-- Every field of a port but its lanes may change. -/
theorem linkOf (p) (replays fec txSeq unacked tx starts used owed turn rxSeq discarding nak nakDue rx resends retrains : Port → _) :
    Wired s (t.modPort p (fun x => { x with
      replays := replays x, fec := fec x, txSeq := txSeq x, unacked := unacked x, tx := tx x, starts := starts x, used := used x
      owed := owed x, turn := turn x, rxSeq := rxSeq x, discarding := discarding x, nak := nak x, nakDue := nakDue x, rx := rx x
      resends := resends x, retrains := retrains x })) :=
  h.modPort_lanes fun _ => rfl

/-- The end of a command. -/
theorem next : WiredOut s (.next t) := ⟨t, rfl, h⟩

end

theorem refl (s : State) : Wired s s := ⟨id, id⟩

/-- Nunex as a reset leaves it: no operation, and every port as it is at first (Table 12.15). -/
theorem unused {s t : State} (e : t.nxp = {}) : Wired s t where
  tags _ := tagsInRange_iff.mpr (by simp [e])
  ports _ p := by
    rw [show t.port p = {} by rw [State.port, e]; rfl]
    decide

/-- Both branches of a choice keep what is kept. -/
theorem branch {s a b : State} {c : Prop} {_ : Decidable c} (ha : Wired s a) (hb : Wired s b) :
    Wired s (if c then a else b) := by
  split
  · exact ha
  · exact hb

theorem foldl {s : State} {α : Type} {f : State → α → State} (hf : ∀ u a, Wired s u → Wired s (f u a)) :
    ∀ (l : List α) {t : State}, Wired s t → Wired s (l.foldl f t) := by
  intro l
  induction l with
  | nil => exact fun h => h
  | cons a l ih => exact fun h => ih (hf _ a h)

theorem foldl_fst {s : State} {α β : Type} {f : State × β → α → State × β} (hf : ∀ r a, Wired s r.1 → Wired s (f r a).1) :
    ∀ (l : List α) {r : State × β}, Wired s r.1 → Wired s (l.foldl f r).1 := by
  intro l
  induction l with
  | nil => exact fun h => h
  | cons a l ih => exact fun h => ih (hf _ a h)

/-- The state of a pair that a pattern names. -/
theorem of_fst {s u : State} {α : Type} {p : State × α} {a : α} (h : Wired s p.1) (e : p = (u, a)) : Wired s u := by
  rw [e] at h
  exact h

end Wired

/-- The state of an end that a pattern names. -/
theorem WiredOut.of_next {s u : State} {o : Out State} (h : WiredOut s o) (e : o = .next u) : Wired s u := by
  obtain ⟨v, ev, k⟩ := h
  cases ev.symm.trans e
  exact k

/-- Both branches of a choice end well. -/
theorem WiredOut.branch {s : State} {a b : Out State} {c : Prop} {_ : Decidable c} (ha : WiredOut s a) (hb : WiredOut s b) :
    WiredOut s (if c then a else b) := by
  split
  · exact ha
  · exact hb

namespace WiredRes

/-! The state of an end that a pattern names. -/

section
variable {α : Type} {s u : State} {r : Res α} (h : WiredRes s r)
include h

theorem of_ok {a : α} (e : r = .ok u a) : Wired s u := by subst e; exact h
theorem of_fail {c : Nat} (e : r = .fail u c) : Wired s u := by subst e; exact h
theorem of_miss {v : Nat} {w : Bool} (e : r = .miss u v w) : Wired s u := by subst e; exact h
theorem of_wait (e : r = .wait u) : Wired s u := by subst e; exact h

end

theorem branch {α : Type} {s : State} {a b : Res α} {c : Prop} {_ : Decidable c} (ha : WiredRes s a) (hb : WiredRes s b) :
    WiredRes s (if c then a else b) := by
  split
  · exact ha
  · exact hb

theorem bind {α β : Type} {s : State} {r : Res α} {f : State → α → Res β} (h : WiredRes s r)
    (hf : ∀ u a, Wired s u → WiredRes s (f u a)) : WiredRes s (r.bind f) := by
  cases r with
  | ok u a => exact hf u a h
  | fail u c => exact h
  | miss u v w => exact h
  | wait u => exact h

theorem each {α β : Type} {s : State} {f : State → α → Res β} (hf : ∀ u a, Wired s u → WiredRes s (f u a)) :
    ∀ (l : List α) {t : State}, Wired s t → WiredRes s (Res.each f l t) := by
  intro l
  induction l with
  | nil => exact fun h => h
  | cons a l ih => exact fun h => (hf _ a h).bind fun _ _ h => (ih h).bind fun _ _ h => h

end WiredRes

end Sys2Proof.Safety
end

section
/-! SUPPORT. Tags and lanes: what the shared operations keep (updates by number, memory, the log, replies, the fabric, Waymarks, tasks
and graphs), in the order of the model, as every section on tags and lanes below. -/

namespace Sys2Proof.Safety

open Machine

namespace Wired

section
variable {s t : State} (h : Wired s t)
include h

/-! ## Updates by number -/

theorem setCore (c k) : Wired s (t.setCore c k) := h.set ..
theorem modCore (c f) : Wired s (t.modCore c f) := h.setCore ..
theorem setCluster (n k) : Wired s (t.setCluster n k) := h.set ..
theorem modCluster (n f) : Wired s (t.modCluster n f) := h.setCluster ..
theorem modCreg (n f) : Wired s (t.modCreg n f) := h.set ..
theorem setCtx (n x) : Wired s (t.setCtx n x) := h.set ..

theorem modCtx (n f) : Wired s (t.modCtx n f) := by
  unfold State.modCtx
  split
  · exact h.setCtx ..
  · exact h

theorem setGraph (g x) : Wired s (t.setGraph g x) := h.set ..

theorem modGraph (g f) : Wired s (t.modGraph g f) := by
  unfold State.modGraph
  split
  · exact h.setGraph ..
  · exact h

theorem modTask (g i f) : Wired s (t.modTask g i f) := h.modGraph ..
theorem modFn (f g) : Wired s (t.modFn f g) := h.set ..

theorem modEngine (e f) : Wired s (t.modEngine e f) := by
  unfold State.modEngine
  split <;> exact h.set ..

theorem emit (e) : Wired s (t.emit e) := h.set ..

/-! ## Memory and the log -/

theorem put (pa bs) : Wired s (t.put pa bs) := h.replied (t.put_replied pa bs)

theorem writeUnits (w bs us) : Wired s (t.writeUnits w bs us).1 :=
  State.writeUnits_keeps (P := Wired s) (fun _ pa bs k => k.put pa bs) w us t bs h

theorem write (w o bs) : Wired s (t.write w o bs).1 := h.writeUnits ..
theorem log (code kind ctx closed source detail) : Wired s (t.log code kind ctx closed source detail) := h.set ..

theorem logCorrected (kind source detail) : Wired s (t.logCorrected kind source detail) := by
  unfold State.logCorrected
  dsimp only
  split
  · exact h.set ..
  · exact h.log ..

theorem cdc (x closed ctx) : Wired s (t.cdc x closed ctx) := (h.set ..).log ..

theorem addDecision (d) : Wired s (t.addDecision d) := by
  unfold State.addDecision
  split
  · exact h
  · dsimp only
    exact (h.log ..).set ..

theorem recordPa (pa) : Wired s (t.recordPa pa) := by
  unfold State.recordPa
  split
  · exact h.addDecision ..
  · dsimp only
    exact h.addDecision ..
  · exact h.addDecision ..
  · exact h

theorem markAcc (w a) : Wired s (t.markAcc w a) := by
  unfold State.markAcc
  split
  · exact h.cdc ..
  · exact (h.log ..).recordPa ..
  · exact h

theorem advance : Wired s t.advance := h.set ..

theorem countQueues : Wired s t.countQueues := by
  exact h.set ..

theorem settleQueues : Wired s t.settleQueues := by
  unfold State.settleQueues
  dsimp only
  split
  · exact (h.countQueues.set ..).countQueues
  · exact h.countQueues

theorem passNs : Wired s t.passNs := by
  unfold State.passNs
  split
  · exact h
  · exact h.same rfl

theorem landStore (q) : Wired s (t.landStore q) := h.put ..
theorem flushStores (c) : Wired s (t.flushStores c) := foldl (fun _ _ h => h.landStore ..) _ h

/-! ## Replies -/

theorem modCq (f q g) : Wired s (t.modCq f q g) := h.modFn ..
theorem modCr (f r g) : Wired s (t.modCr f r g) := h.modFn ..
theorem ringWrite (loc a bs) : Wired s (t.ringWrite loc a bs) := h.replied (t.ringWrite_replied loc a bs)
theorem sendMsix (f v) : Wired s (t.sendMsix f v) := h.emit ..

theorem signal (f q) : Wired s (t.signal f q) := by
  unfold State.signal
  dsimp only
  split
  · exact h.modCq ..
  · split
    · exact (h.modCq ..).modFn ..
    · exact (h.modCq ..).sendMsix ..

theorem sendPending (f) : Wired s (t.sendPending f) := by
  unfold State.sendPending
  refine foldl (fun u a h => ?_) _ h
  dsimp only
  split
  · exact (h.sendMsix ..).modFn ..
  · exact h

theorem discardReply (f q) : Wired s (t.discardReply f q) := (h.modCq ..).modFn ..

theorem drainCq (f q k) : Wired s (t.drainCq f q k) := h.replied (t.drainCq_replied f q k)
theorem post (f q r) : Wired s (t.post f q r) := h.replied (t.post_replied f q r)
theorem event (x code bs) : Wired s (t.event x code bs) := h.replied (t.event_replied x code bs)
theorem pfEvent (code result) : Wired s (t.pfEvent code result) := h.post ..
theorem fabricChange (a b c) : Wired s (t.fabricChange a b c) := h.replied (t.fabricChange_replied a b c)
theorem finish (c op code bs) : Wired s (t.finish c op code bs) := h.replied (t.finish_replied c op code bs)
theorem badAccess (f) : Wired s (t.badAccess f) := h.modFn ..
theorem unsupported (f) : Wired s (t.unsupported f) := (h.modFn ..).emit ..

/-! ## The fabric -/

theorem transmitOver (port k) : Wired s (t.transmitOver port k) := by
  unfold State.transmitOver
  split
  · exact (h.modPort_lanes fun x => x.send_lanes _).emit ..
  · exact h

theorem transmit (k) : Wired s (t.transmit k) := h.transmitOver ..

theorem nextSseq (sdie ddie vc dst) : Wired s (t.nextSseq sdie ddie vc dst).1 := by
  unfold State.nextSseq
  split
  · exact h
  · dsimp only
    exact h.nunex ..

theorem build (die op dst tag job len addr spec data) : Wired s (t.build die op dst tag job len addr spec data).1 :=
  h.nextSseq ..

theorem dropHeldFar (a n) : Wired s (t.dropHeldFar a n) := h.set ..

theorem sendOp (owner d op dst job len addr spec' data) : Wired s (t.sendOp owner d op dst job len addr spec' data) := by
  unfold State.sendOp
  split
  next n free =>
    have spec : t.freeTag d = some n := by split at free <;> simp_all
    have moved := (h.build d op dst n job len addr spec' data).transmit (t.build d op dst n job len addr spec' data).2
    exact moved.sent (by simpa using State.freeTag_spec spec) (by simp) rfl
  · exact h.fewer (by simp) rfl

theorem request (owner die ctx op dst len addr spec data) :
    Wired s (t.request owner die ctx op dst len addr spec data).1 := by
  unfold State.request
  dsimp only
  split
  · exact h
  · split
    · exact h
    · split
      · exact h
      · split
        · exact h
        · split
          · dsimp only
            exact h.cdc ..
          · dsimp only
            exact (branch (h.dropHeldFar ..) h).sendOp ..

theorem sendWaiting (die n) : Wired s (t.sendWaiting die n) := by
  induction n generalizing t with
  | zero => exact h
  | succ n ih =>
    unfold State.sendWaiting
    split
    next i o n waits free =>
      obtain ⟨at_, test⟩ := findIdx_getElem? waits
      let b := t.build die o.packet.op o.packet.dst n o.packet.job o.packet.length o.packet.addr (bit o.packet.flags 0) o.packet.data
      have moved : Wired s (b.1.transmit b.2) := (h.build ..).transmit ..
      have ops : (b.1.transmit b.2).nxp.ops = t.nxp.ops := by simp [b]
      have kept : Wired s { b.1.transmit b.2 with nxp := { (b.1.transmit b.2).nxp with
          ops := upd (b.1.transmit b.2).nxp.ops i fun _ => ⟨b.2, o.owner, 0, true, (b.1.choosePort die).getD 0, o.stale⟩ } } :=
        moved.sent (by rw [ops]; exact State.freeTag_spec free) (by rw [ops]; exact tagKeys_upd at_ (by simp_all) rfl) rfl
      exact ih kept
    · exact h

theorem endOp (die tag) : Wired s (t.endOp die tag) := (h.someOps ..).sendWaiting ..

theorem sendManagerOver (p dst subcode m) : Wired s (t.sendManagerOver p dst subcode m) := by
  unfold State.sendManagerOver
  dsimp only
  exact ((h.build ..).modPort_lanes fun x => x.send_lanes _).emit ..

theorem sendManager (dst subcode m) : Wired s (t.sendManager dst subcode m) := by
  unfold State.sendManager
  split
  · exact h.sendManagerOver ..
  · exact h

theorem sendJoin (m) : Wired s (t.sendJoin m) := foldl (fun _ _ h => h.sendManagerOver ..) _ h

/-! ## Waymarks -/

theorem modWmk (f) : Wired s (t.modWmk f) := h.set ..
theorem informCtx (x code) : Wired s (t.informCtx x code) := h.set ..
theorem discardReads (c p) : Wired s (t.discardReads c p) := h.eachOp fun o => by grind
theorem freshReads (n g i) : Wired s (t.freshReads n g i) := (h.modCluster ..).eachOp fun o => by grind
theorem syncRamb (c) : Wired s (t.syncRamb c) := (h.setCore ..).discardReads ..

theorem passWait (c) : Wired s (t.passWait c) := by
  unfold State.passWait
  dsimp only
  split
  · exact ((h.setCore ..).syncRamb ..).freshReads ..
  · exact (h.setCore ..).syncRamb ..

theorem releaseWait (w) : Wired s (t.releaseWait w) := by
  unfold State.releaseWait
  split
  · exact (h.modWmk ..).passWait ..
  · exact h.modWmk ..
  · exact h.modWmk ..

theorem releaseMet (key count) : Wired s (t.releaseMet key count) := foldl (fun _ _ h => h.releaseWait ..) _ h

theorem setCount (key count) : Wired s (t.setCount key count) := by
  unfold State.setCount
  split
  · exact h.modWmk ..
  · exact h

theorem applyAdd (key inc) : Wired s (t.applyAdd key inc) := by
  unfold State.applyAdd
  split
  · exact h
  · dsimp only
    refine releaseMet ?_ ..
    split
    · exact ((branch ((h.setCount ..).modCluster ..) (h.setCount ..)).modWmk ..).informCtx ..
    · split
      · exact (h.setCount ..).modCluster ..
      · exact h.setCount ..

theorem handSet (key value) : Wired s (t.handSet key value) := (((h.setCount ..).modWmk ..).informCtx ..).releaseMet ..

theorem sendAdd (src key inc by_) : Wired s (t.sendAdd src key inc by_).1 := by
  unfold State.sendAdd
  split
  · exact h
  · split
    · exact h
    · exact h.request ..
    · dsimp only
      exact h.modWmk ..
    · dsimp only
      exact h.modWmk ..

theorem addWait (key threshold who) : Wired s (t.addWait key threshold who) := by
  unfold State.addWait
  split
  · exact h.modWmk ..
  · exact h.modWmk ..
  · exact h
  · exact h

theorem dropCoreWaits (c) : Wired s (t.dropCoreWaits c) := h.modWmk ..
theorem dropTaskWaits (g t') : Wired s (t.dropTaskWaits g t') := h.modWmk ..
theorem dropEvileWaits (p) : Wired s (t.dropEvileWaits p) := h.modWmk ..
theorem dropGraphWaits (g) : Wired s (t.dropGraphWaits g) := h.modWmk ..

/-! ## Versions, cores and the end of a graph -/

theorem writeG (w owner die a bs) : Wired s (t.writeG w owner die a bs).1 := by
  unfold State.writeG
  split
  · exact h.write ..
  · refine foldl_fst (fun r a h => ?_) _ h
    dsimp only
    split
    · exact h
    · exact h.request ..

theorem poke (x a bs) : Wired s (t.poke x a bs) := h.write ..

theorem countTask (g i) : Wired s (t.countTask g i) := by
  unfold State.countTask
  split
  · exact h
  · dsimp only
    split
    · split
      · exact h
      · split
        · exact (h.poke ..).modTask ..
        · exact h
    · exact h

theorem nameVersion (g i x d) {u} (e : t.nameVersion g i x d = .ok u) : Wired s u := by
  unfold State.nameVersion at e
  split at e
  · cases e
    exact h
  · split at e
    · cases e
    · dsimp only at e
      split at e
      · cases e
        exact h
      · split at e
        · cases e
        · cases e
          exact (h.modTask ..).countTask ..

theorem nameVersion_getD (g i x d) : Wired s ((t.nameVersion g i x d).toOption.getD t) := by
  cases e : t.nameVersion g i x d with
  | error => exact h
  | ok u => exact h.nameVersion _ _ _ _ e

theorem countGraph (g) : Wired s (t.countGraph g) := by
  unfold State.countGraph
  split
  · exact h
  · split
    · exact h
    · refine foldl (fun u i h => ?_) _ h
      split
      · exact h.nameVersion_getD ..
      · exact h

theorem countWaiting (x a) : Wired s (t.countWaiting x a) := by
  unfold State.countWaiting
  refine foldl (fun u a h => ?_) _ h
  split
  · refine foldl (fun u a h => ?_) _ h
    split
    · split
      · exact h.countTask ..
      · exact h
    · exact h
  · exact h

theorem releaseVersion (g i) : Wired s (t.releaseVersion g i) := by
  unfold State.releaseVersion
  split
  · exact h
  · dsimp only
    split
    · exact (h.sendAdd ..).modTask ..
    · exact h

theorem releaseStash (g i) : Wired s (t.releaseStash g i) := by
  unfold State.releaseStash
  split
  · exact h
  · dsimp only
    split
    · exact h
    · split
      · exact h.setGraph ..
      · exact h

theorem orphanOps (c) : Wired s (t.orphanOps c) := h.eachOp fun o => by grind
theorem clearCore (c) : Wired s (t.clearCore c) := (((h.flushStores ..).modCore ..).dropCoreWaits ..).orphanOps ..

theorem clearTask (g i) : Wired s (t.clearTask g i) := by
  unfold State.clearTask
  dsimp only
  exact (foldl (fun _ _ h => h.modCluster ..) _ (foldl (fun _ _ h => h.clearCore ..) _ h)).modTask ..

theorem graphFail (g code i) : Wired s (t.graphFail g code i) := h.modGraph ..

theorem releaseGraph (g) : Wired s (t.releaseGraph g) := by
  unfold State.releaseGraph
  split
  · exact h
  · exact foldl (fun _ _ h => branch h (h.releaseVersion ..)) _ h

theorem replayCause (x step code) : Wired s (t.replayCause x step code) := by
  unfold State.replayCause
  split
  · split
    · exact h
    · split
      · exact h.setCtx ..
      · exact h.event ..
  · exact h

theorem endGraph (g code) : Wired s (t.endGraph g code) := by
  unfold State.endGraph
  split
  · exact h
  · dsimp only
    split
    · exact ((foldl (fun _ _ h => branch h (h.clearTask ..)) _ h).releaseGraph ..).dropGraphWaits ..
    · refine replayCause ?_ ..
      refine post ?_ ..
      exact ((((foldl (fun _ _ h => branch h (h.clearTask ..)) _ h).releaseGraph ..).dropGraphWaits ..).set ..).modCtx ..

theorem settle (g) : Wired s (t.settle g) := by
  unfold State.settle
  split
  · exact h
  · split
    · split
      · exact h
      · exact h.endGraph ..
    · split
      · exact h.endGraph ..
      · split
        · exact (h.graphFail ..).endGraph ..
        · exact h

theorem informTask (g i code) : Wired s (t.informTask g i code) := (h.modTask ..).modGraph ..

theorem suspend (x va store) : Wired s (t.suspend x va store) := by
  unfold State.suspend
  split
  · exact h
  · split
    · exact h
    · dsimp only
      exact ((h.setCtx ..).set ..).event ..

theorem taskFails (g i code) : Wired s (t.taskFails g i code) := by
  unfold State.taskFails
  split
  · exact h
  · dsimp only
    refine settle ?_ ..
    exact ((((((h.clearTask ..).dropTaskWaits ..).releaseVersion ..).modTask ..).set ..).releaseStash ..).graphFail ..

/-! ## Ready tasks and the window -/

theorem loadTask (g i) : Wired s (t.loadTask g i) := by
  unfold State.loadTask
  split
  · exact h
  · split
    · split
      · exact h.suspend ..
      · exact (h.markAcc ..).taskFails ..
      · split
        · exact h.suspend ..
        · exact foldl (fun _ _ h => h.addWait ..) _ ((h.nameVersion_getD ..).modTask ..)
    · exact h

theorem spillTask (g i) : Wired s (t.spillTask g i) := by
  unfold State.spillTask
  split
  · exact h
  · dsimp only
    split
    next e => exact (((h.modTask ..).modGraph ..).writeG ..).of_fst e
    next e => exact ((((h.modTask ..).modGraph ..).writeG ..).of_fst e).suspend ..
    next e => exact (((((h.modTask ..).modGraph ..).writeG ..).of_fst e).markAcc ..).graphFail ..

theorem enterWindow (g i) : Wired s (t.enterWindow g i) := by
  unfold State.enterWindow
  split
  · exact (h.modTask ..).loadTask ..
  · exact h.spillTask ..

theorem unspillSome (n) : Wired s (t.unspillSome n) := by
  induction n generalizing t with
  | zero => exact h
  | succ n ih =>
    unfold State.unspillSome
    split
    · exact h
    · split
      · dsimp only
        exact ih (((h.setGraph ..).modTask ..).loadTask ..)
      · exact h

theorem unspill : Wired s t.unspill := h.unspillSome ..

theorem makeReady (g i) : Wired s (t.makeReady g i) := by
  unfold State.makeReady
  split
  · exact h.enterWindow ..
  · exact h.graphFail ..

theorem loadAgain (x) : Wired s (t.loadAgain x) :=
  (foldl (fun _ _ h => branch (foldl (fun _ _ h => h.loadTask ..) _ h) h) _ h).unspill

theorem failTask (g i code) : Wired s (t.failTask g i code) := (h.taskFails ..).unspill

theorem countSuccessor (g j) : Wired s (t.countSuccessor g j) := by
  unfold State.countSuccessor
  split
  · exact h
  · dsimp only
    split
    · exact (h.markAcc ..).graphFail ..
    · split
      · exact (h.markAcc ..).graphFail ..
      · split
        next e => exact (((h.writeG ..).of_fst e).markAcc ..).graphFail ..
        next e =>
          have h := (h.writeG ..).of_fst e
          refine branch ?_ ?_
          · exact h.graphFail ..
          · refine branch ?_ ?_
            · exact h.makeReady ..
            · exact h

theorem completeTask (g i) : Wired s (t.completeTask g i) := by
  unfold State.completeTask
  dsimp only
  split
  · exact h.failTask ..
  · split
    · exact h
    · refine unspill ?_
      refine settle ?_ ..
      split
      · refine post ?_ ..
        refine releaseStash ?_ ..
        refine foldl (fun _ _ h => h.countSuccessor ..) _ (modGraph (modTask (foldl (fun _ _ h => h.sendAdd ..) _ ?_) ..) ..)
        exact ((h.clearTask ..).dropTaskWaits ..).releaseVersion ..
      · refine releaseStash ?_ ..
        refine foldl (fun _ _ h => h.countSuccessor ..) _ (modGraph (modTask (foldl (fun _ _ h => h.sendAdd ..) _ ?_) ..) ..)
        exact ((h.clearTask ..).dropTaskWaits ..).releaseVersion ..

theorem abortGraph (g) : Wired s (t.abortGraph g) := (h.endGraph ..).unspill

theorem addFailed (key code by_) : Wired s (t.addFailed key code by_) := by
  unfold State.addFailed
  dsimp only
  split
  · split
    · exact h.event ..
    · exact h
  · split
    · split
      · exact h.event ..
      · exact h
    · split
      · split
        · exact h.event ..
        · exact h
      · split
        · exact (((branch (h.event ..) h).graphFail ..).settle ..).unspill
        · exact (branch (h.event ..) h).modTask ..

theorem failCore (c code pc insn) : Wired s (t.failCore c code pc insn) := by
  unfold State.failCore
  dsimp only
  split
  · exact h
  · exact ((h.setCore ..).failTask ..).modCore ..

end

end Wired

end Sys2Proof.Safety
end

section
/-! SUPPORT. Tags and lanes: what retirement and the operand forms of tile instructions keep. -/

namespace Sys2Proof.Safety

open Machine

namespace Wired

section
variable {s t : State} (h : Wired s t)
include h

/-! ## Retirement and repair -/

theorem extend (r new) : Wired s (t.extend r new) := h.set ..
theorem newGeneration : Wired s t.newGeneration := ((h.set ..).extend ..).pfEvent ..

/-- Zeros in the place of what a store range holds. -/
theorem zeroRange (o n) : Wired s (t.zeroRange o n) :=
  h.set ..

theorem failAll (l code) : Wired s (t.failAll l code) := by
  unfold State.failAll
  split
  · exact h
  · exact foldl (fun _ _ h => branch (h.failTask ..) h) _ h

theorem loseStash (n) : Wired s (t.loseStash n) := h.set ..
theorem loseStores (n) : Wired s (t.loseStores n) := (foldl (fun _ _ h => h.zeroRange ..) _ h).zeroRange ..

theorem rehome (n) : Wired s (t.rehome n) := by
  unfold State.rehome
  refine foldl (fun u a h => ?_) _ h
  split
  · dsimp only
    exact (h.modWmk ..).releaseMet ..
  · exact h

theorem retire (n) : Wired s (t.retire n) := by
  unfold State.retire
  split
  · exact h
  · dsimp only
    exact ((((((h.failAll ..).set ..).loseStash ..).loseStores ..).rehome ..).log ..).set ..

theorem retireDoomed : Wired s t.retireDoomed := by
  unfold State.retireDoomed
  split
  · exact h
  · refine foldl (fun u a h => ?_) _ h
    split
    · dsimp only
      exact ((h.retire ..).set ..).newGeneration
    · exact h

theorem decideOn (d) : Wired s (t.decideOn d) := (h.addDecision ..).retireDoomed

theorem noteAcc (w a) : Wired s (t.noteAcc w a) := by
  unfold State.noteAcc
  split
  · exact (h.markAcc ..).retireDoomed
  · exact h.markAcc ..

/-! ## Operands -/

theorem accRes {α : Type} (w a store) : WiredRes (α := α) s (Machine.accRes t w a store) := by
  unfold Machine.accRes
  split
  · exact h
  · exact h.noteAcc ..

theorem setTreg (c t' r) : Wired s (t.setTreg c t' r) := h.modCore ..
theorem setAcc (c n a) : Wired s (t.setAcc c n a) := h.modCore ..
theorem fillAcc (c n a) : Wired s (t.fillAcc c n a) := (h.setAcc ..).modCore ..
theorem modRamb (c f) : Wired s (t.modRamb c f) := h.modCore ..
theorem countServed (n g i pu) : Wired s (t.countServed n g i pu) := h.modCluster ..
theorem hold (n g i pu mask data) : Wired s (t.hold n g i pu mask data) := h.modCluster ..

theorem holdUnit (w n g i pu) : Wired s (t.holdUnit w n g i pu) := by
  unfold State.holdUnit
  split
  · exact h.noteAcc ..
  · exact h.hold ..

theorem coalesce (w n g i pu keep) : Wired s (t.coalesce w n g i pu keep) := by
  unfold State.coalesce
  split
  · split
    · exact h.holdUnit ..
    · exact h
  · exact h.countServed ..

theorem coalesceFar (n g i u mask) : Wired s (t.coalesceFar n g i u mask) := by
  unfold State.coalesceFar
  dsimp only
  split
  · exact h.hold ..
  · exact h.countServed ..

theorem coalesceRange (n g i w p) : Wired s (t.coalesceRange n g i w p) := by
  unfold State.coalesceRange
  split
  · refine foldl (fun u a h => ?_) _ h
    split
    · split
      · exact h.coalesce ..
      · exact h
    · exact h
  · exact foldl (fun _ _ h => h.coalesceFar ..) _ h

theorem issueReq (c i q) : Wired s (t.issueReq c i q) := by
  unfold State.issueReq
  dsimp only
  refine modRamb ?_ ..
  split
  · exact h
  · split
    · dsimp only
      exact h.countServed ..
    · dsimp only
      exact h.countServed ..
    · exact h

theorem issueReqs (c n) : Wired s (t.issueReqs c n) := by
  induction n generalizing t with
  | zero => exact h
  | succ n ih =>
    unfold State.issueReqs
    split
    · exact h
    · exact ih (h.issueReq ..)

theorem issueWindow (c) : Wired s (t.issueWindow c) := (h.issueReqs ..).settleQueues
theorem dropFetch (c) : Wired s (t.dropFetch c) := h.modRamb ..
theorem enterRead (c key pa mask spec) : Wired s (t.enterRead c key pa mask spec) := h.modRamb ..

theorem readRemote (c w p spec) : Wired s (t.readRemote c w p spec).1 := by
  unfold State.readRemote
  dsimp only
  split
  · exact h
  · split
    · dsimp only
      exact (h.countServed ..).modRamb ..
    · dsimp only
      exact (h.countServed ..).modRamb ..
    · exact h.request ..

theorem prefetch (c w p) : Wired s (t.prefetch c w p) := by
  unfold State.prefetch
  dsimp only
  split
  · exact h
  · split
    · split
      · split
        · exact h.dropFetch ..
        · split
          · exact (h.noteAcc ..).dropFetch ..
          · exact h.enterRead ..
      · exact h.dropFetch ..
    · split
      next e => exact (h.readRemote ..).of_fst e
      next e => exact ((h.readRemote ..).of_fst e).dropFetch ..

theorem prefetchAll (c w l) : Wired s (t.prefetchAll c w l).1 := by
  induction l generalizing t with
  | nil => exact h
  | cons a l ih =>
    unfold State.prefetchAll
    dsimp only
    split
    · split
      · dsimp only
        exact h.issueWindow ..
      · dsimp only
        exact ih ((h.issueWindow ..).prefetch ..)
    · split
      · exact h
      · dsimp only
        exact ih (h.prefetch ..)

theorem entryFor (c need) : Wired s (t.entryFor c need) := by
  unfold State.entryFor
  dsimp only
  refine branch ?_ ?_
  · split
    · exact h.issueWindow ..
    · exact h
  · exact (branch (h.issueWindow ..) h).modRamb ..

theorem onDemand (c key) : Wired s (t.onDemand c key) := h.modRamb ..
theorem takeAgain (c key) : Wired s (t.takeAgain c key) := h.modRamb ..

theorem demandUnit (c w need p) : WiredRes s (t.demandUnit c w need p) := by
  unfold State.demandUnit
  dsimp only
  split
  · split
    · split
      · exact h
      · split
        · exact h.noteAcc ..
        · split
          · exact h.onDemand ..
          · exact branch (((h.entryFor ..).takeAgain ..).enterRead ..) (h.entryFor ..)
    · exact h.accRes ..
  · split
    · exact h
    · split
      · exact h.onDemand ..
      · split
        · exact h.entryFor ..
        · split <;>
            next e => exact (((h.entryFor ..).takeAgain ..).readRemote ..).of_fst e

theorem demand (c w l) : WiredRes s (t.demand c w l) := by
  unfold State.demand
  dsimp only
  refine (WiredRes.each (fun _ _ h => h.demandUnit ..) _ h).bind fun u a h => ?_
  split
  · exact h
  · exact h.issueWindow ..

theorem loadUnit (c w p) : WiredRes s (t.loadUnit c w p) := by
  unfold State.loadUnit
  split
  · exact h
  · split
    · exact h
    · split
      · split
        · exact h.noteAcc ..
        · exact h
      · exact h.accRes ..

theorem loadAt (c w p) : WiredRes s (t.loadAt c w p) := by
  unfold State.loadAt
  split
  · exact h
  · exact (WiredRes.each (fun _ _ h => h.loadUnit ..) _ h).bind fun _ _ h => h

theorem consume (c l later) : Wired s (t.consume c l later) := by
  unfold State.consume
  dsimp only
  exact h.modRamb ..

theorem noteStore (c q) : Wired s (t.noteStore c q) := (h.modRamb ..).discardReads ..

theorem storeUnit (c w p o m bs) : WiredRes s (t.storeUnit c w p o m bs) := by
  unfold State.storeUnit
  split
  · dsimp only
    split
    · exact h.noteAcc ..
    · refine WiredRes.branch ?_ ?_
      · exact h
      · exact branch ((h.noteStore ..).issueWindow ..) (h.noteStore ..)
  · exact h.accRes ..

theorem storeRemote (c w p a m bs) : WiredRes s (t.storeRemote c w p a m bs) := by
  unfold State.storeRemote
  split
  · exact h
  · dsimp only
    split
    · exact h.request ..
    · exact (h.request ..).noteStore ..

theorem storeOne (c w p x) : WiredRes s (t.storeOne c w p x) := by
  unfold State.storeOne
  split
  · exact h
  · split
    · dsimp only
      exact h.modCore ..
    · split
      · exact h.storeUnit ..
      · exact h.storeRemote ..

theorem handed (c p n) : Wired s (t.handed c p n) := h.modCore ..

theorem storeList (c w p n l) : WiredRes s (t.storeList c w p n l) := by
  induction l generalizing t c w p n with
  | nil => exact h
  | cons a l ih =>
    unfold State.storeList
    split
    next e => exact ih ((h.storeOne ..).of_ok e) ..
    next e => exact ((h.storeOne ..).of_wait e).handed ..
    next e => exact (h.storeOne ..).of_fail e
    next e => exact (h.storeOne ..).of_miss e

theorem storeAll (c p l) : WiredRes s (t.storeAll c p l) := h.storeList ..

/-! ## Tile instructions -/

theorem withTreg {α : Type} (c i) {f : TReg → Res α} (hf : ∀ r, WiredRes s (f r)) : WiredRes s (t.withTreg c i f) := by
  unfold State.withTreg
  dsimp only
  split
  · exact hf _
  · exact h

theorem setFlags (c f) : Wired s (t.setFlags c f) := h.modCore ..

theorem runTcfg (c t' type blk rows cols) : WiredRes s (Machine.runTcfg t c t' type blk rows cols) := by
  unfold Machine.runTcfg
  split
  · exact h.setTreg ..
  · exact h

theorem runTcfgClear (c t') : WiredRes s (Machine.runTcfgClear t c t') := h.setTreg ..

theorem loadRow (c w x r t' i) : WiredRes s (Machine.loadRow t c w x r t' i) := by
  unfold Machine.loadRow
  split
  · refine (h.demand ..).bind fun u a h => ?_
    refine (h.loadAt ..).bind fun u a h => ?_
    split
    · exact h
    · exact (h.loadAt ..).bind fun _ _ h => h
  · exact h

theorem loadRows (c t' x r q p n l) : WiredRes s (Machine.loadRows t c t' x r q p n l) := by
  induction l generalizing t c t' x r q p n with
  | nil => exact h
  | cons a l ih =>
    unfold Machine.loadRows
    split
    next e => exact ih ((((h.loadRow ..).of_ok e).consume ..).setTreg ..) ..
    next e => exact ((h.loadRow ..).of_wait e).handed ..
    next e => exact (h.loadRow ..).of_fail e
    next e => exact (h.loadRow ..).of_miss e

theorem runTld (c t' x r p) : WiredRes s (Machine.runTld t c t' x r p) := h.withTreg _ _ fun _ => h.loadRows ..
theorem runTst (c t' x r p) : WiredRes s (Machine.runTst t c t' x r p) := h.withTreg _ _ fun _ => h.storeAll ..

theorem runTwl (c t' rb cb tr) : WiredRes s (Machine.runTwl t c t' rb cb tr) := by
  unfold Machine.runTwl
  refine h.withTreg _ _ fun q => ?_
  split
  · dsimp only
    exact h.modCore ..
  · exact h

theorem recordColumn (site col) : Wired s (t.recordColumn site col) := by
  unfold State.recordColumn
  dsimp only
  split
  · exact h
  · refine branch ?_ ?_ <;> exact h.decideOn ..

theorem arrayParity (c e) : Wired s (t.arrayParity c e) := by
  unfold State.arrayParity
  dsimp only
  split
  · exact ((h.log ..).modCore ..).recordColumn ..
  · exact ((h.log ..).modCore ..).decideOn ..
  · exact (h.log ..).modCore ..

theorem noteAccBad (c) : Wired s (t.noteAccBad c) := (h.log ..).decideOn ..

theorem withAccs (c tiles p) {f : Res Unit} (hf : WiredRes s f) : WiredRes s (t.withAccs c tiles p f) := by
  unfold State.withAccs
  split
  · exact h.noteAccBad ..
  · exact hf

theorem runTmm (c form t' rb cb acc) : WiredRes s (Machine.runTmm t c form t' rb cb acc) := by
  unfold Machine.runTmm
  refine h.withTreg _ _ fun q => ?_
  dsimp only
  split
  · split
    · exact h
    · split
      · exact h
      · refine WiredRes.branch ?_ ?_
        · split
          · exact h.arrayParity ..
          · exact h.withAccs _ _ _ (((h.setCore ..).setAcc ..).setFlags ..)
        · exact h
  · exact h

theorem weightsAt (c w p) : WiredRes s (Machine.weightsAt t c w p) := by
  unfold Machine.weightsAt
  split
  · exact h
  · split
    · exact h.noteAcc ..
    · exact h

theorem weightRow (c w x r wtype wblk n k) : WiredRes s (Machine.weightRow t c w x r wtype wblk n k) := by
  unfold Machine.weightRow
  dsimp only
  split
  · refine (h.weightsAt ..).bind fun u a h => ?_
    split
    · exact h
    · exact (h.weightsAt ..).bind fun _ _ h => h
  · exact h

theorem runTmv (c t' pair stride wtype wblk n acc r) : WiredRes s (Machine.runTmv t c t' pair stride wtype wblk n acc r) := by
  unfold Machine.runTmv
  refine h.withTreg _ _ fun q => ?_
  split
  · exact h
  · dsimp only
    split
    · refine (WiredRes.each (fun _ _ h => h.weightRow ..) _ h).bind fun u a h => ?_
      exact h.withAccs _ _ _ (foldl (fun _ _ h => (h.setAcc ..).setFlags ..) _ h)
    · exact h

theorem runTmvRow (c mode t' pair col acc init srcTm r) :
    WiredRes s (Machine.runTmvRow t c mode t' pair col acc init srcTm r) := by
  unfold Machine.runTmvRow
  refine h.withTreg _ _ fun q => ?_
  dsimp only
  split
  · split
    · exact h.withAccs _ _ _ (h.setAcc ..)
    · exact h
  · exact h

theorem runTzr (c acc count) : WiredRes s (Machine.runTzr t c acc count) := foldl (fun _ _ h => h.fillAcc ..) _ h
theorem runTmovReg (c td ts) : WiredRes s (Machine.runTmovReg t c td ts) := h.withTreg _ _ fun _ => h.setTreg ..
theorem runTmovOut (c td acc) : WiredRes s (Machine.runTmovOut t c td acc) := h.withAccs _ _ _ (h.setTreg ..)

theorem runTmovIn (c ts acc orient) : WiredRes s (Machine.runTmovIn t c ts acc orient) := by
  unfold Machine.runTmovIn
  refine h.withTreg _ _ fun q => ?_
  split
  · dsimp only
    exact h.fillAcc ..
  · exact h

theorem coreAdd (c id inc) : WiredRes s (t.coreAdd c id inc) := by
  unfold State.coreAdd
  split
  · exact h
  · dsimp only
    split <;> exact h.sendAdd ..

theorem runHalo (c t' side n dst stride id r p) : WiredRes s (Machine.runHalo t c t' side n dst stride id r p) := by
  unfold Machine.runHalo
  refine h.withTreg _ _ fun q => ?_
  split
  · dsimp only
    refine (h.storeAll ..).bind fun u a h => ?_
    split
    · exact h
    · split
      · exact h
      · split
        · exact h.handed ..
        · split
          · exact h.coreAdd ..
          · exact h.modRamb ..
  · exact h

theorem runBlr (c t' ch) : WiredRes s (Machine.runBlr t c t' ch) := by
  unfold Machine.runBlr
  refine h.withTreg _ _ fun q => ?_
  split
  · exact h
  · dsimp only
    split
    · exact (h.modCore ..).setTreg ..
    · exact h.modCore ..

theorem drain (c acc release t' r p) : WiredRes s (Machine.drain t c acc release t' r p) := by
  unfold Machine.drain
  dsimp only
  refine ((h.modCore ..).storeAll ..).bind fun _ _ h => ?_
  exact branch (((h.setFlags ..).modCore ..).setAcc ..) ((h.setFlags ..).modCore ..)

theorem runTdr (c acc recNo x idx release nrows ncols rowEnd r p) :
    WiredRes s (Machine.runTdr t c acc recNo x idx release nrows ncols rowEnd r p) := by
  unfold Machine.runTdr
  dsimp only
  split
  · exact h
  · refine WiredRes.branch ?_ ?_
    · exact h.withAccs _ _ _ (h.drain ..)
    · exact h

end

end Wired

end Sys2Proof.Safety
end

section
/-! SUPPORT. Tags and lanes: what issuing and running tile instructions keeps. -/

namespace Sys2Proof.Safety

open Machine

namespace Wired

section
variable {s t : State} (h : Wired s t)
include h

/-! ## Issue -/

theorem runInsn (c i p) : WiredRes s (Machine.runInsn t c i p) := by
  unfold Machine.runInsn
  dsimp only
  split
  · split
    · exact h.runTcfgClear ..
    · exact h.runTcfg ..
  · exact h.runTld ..
  · exact h.runTst ..
  · exact h.runTwl ..
  · exact h.runTmm ..
  · split
    · exact h.runTmv ..
    · exact h.runTmvRow ..
  · exact h.runTdr ..
  · exact h.runTzr ..
  · split
    · exact h.runTmovReg ..
    · exact h.runTmovOut ..
    · exact h.runTmovIn ..
  · exact h.runHalo ..
  · exact h.runBlr ..
  · exact h

theorem dropPending (c p) : Wired s (t.dropPending c p) := h.modCore ..

theorem runPendings (c l l') : Wired s (t.runPendings c l l') := by
  induction l generalizing t c l' with
  | nil => exact h
  | cons a l ih =>
    unfold State.runPendings
    dsimp only
    refine branch ?_ ?_
    · exact ih h ..
    · split
      next e => exact ih (((h.runInsn ..).of_ok e).dropPending ..) ..
      next e => exact ih ((h.runInsn ..).of_wait e) ..
      next e => exact ((h.runInsn ..).of_fail e).failCore ..
      next e =>
        have h := (h.runInsn ..).of_miss e
        split
        · exact h.suspend ..
        · exact h

theorem progress (c) : Wired s (t.progress c) := by
  unfold State.progress
  split
  · exact h
  · exact h.runPendings ..

theorem progressAll : Wired s t.progressAll := foldl (fun _ _ h => h.progress ..) _ h

theorem atIssue (row c w) {f : TileInsn → State → State} (hf : ∀ i, Wired s (f i t)) :
    WiredOut s (Machine.atIssue row c w t f) := by
  unfold Machine.atIssue
  split
  · exact h.next
  · split
    · exact (h.failCore ..).next
    · split
      · exact h.next
      · split
        · exact (h.failCore ..).next
        · exact (hf _).next

theorem stepPc (c n) : Wired s (t.stepPc c n) := h.modCore ..

theorem issueUnit (c w i) : Wired s (Machine.issueUnit c w i t) := by
  unfold Machine.issueUnit
  dsimp only
  refine branch ?_ ?_
  · split
    · exact h
    · exact h.progress ..
  · refine progress ?_ ..
    split
    · exact (((branch h (h.progress ..)).modCore ..).stepPc ..).modRamb ..
    · exact ((branch h (h.progress ..)).modCore ..).stepPc ..

theorem execNop (c w) : WiredOut s (Machine.execNop c w t) := h.atIssue _ _ _ fun _ => h.stepPc ..
theorem execTcfg (c w) : WiredOut s (Machine.execTcfg c w t) := h.atIssue _ _ _ fun _ => h.issueUnit ..
theorem execTcfgClear (c w) : WiredOut s (Machine.execTcfgClear c w t) := h.atIssue _ _ _ fun _ => h.issueUnit ..
theorem execTld (c w) : WiredOut s (Machine.execTld c w t) := h.atIssue _ _ _ fun _ => h.issueUnit ..
theorem execTst (c w) : WiredOut s (Machine.execTst c w t) := h.atIssue _ _ _ fun _ => h.issueUnit ..
theorem execTwl (c w) : WiredOut s (Machine.execTwl c w t) := h.atIssue _ _ _ fun _ => h.issueUnit ..

theorem meetErr (c x) : Wired s (t.meetErr c x) := by
  unfold State.meetErr
  split
  · exact h
  · exact h.modCore ..
  · exact h.modCore ..

theorem execTmm (c r) : WiredOut s (Machine.execTmm c r t) := by
  unfold Machine.execTmm
  dsimp only
  exact (branch (h.meetErr ..) h).atIssue _ _ _ fun _ => (branch (h.meetErr ..) h).issueUnit ..

theorem execTmv (c w) : WiredOut s (Machine.execTmv c w t) := h.atIssue _ _ _ fun _ => h.issueUnit ..
theorem execTmvRow (c w) : WiredOut s (Machine.execTmvRow c w t) := h.atIssue _ _ _ fun _ => h.issueUnit ..
theorem execTdr (c w) : WiredOut s (Machine.execTdr c w t) := h.atIssue _ _ _ fun _ => h.issueUnit ..
theorem execTzr (c w) : WiredOut s (Machine.execTzr c w t) := h.atIssue _ _ _ fun _ => h.issueUnit ..
theorem execTmov (c w) : WiredOut s (Machine.execTmov c w t) := h.atIssue _ _ _ fun _ => h.issueUnit ..
theorem execHalo (c w) : WiredOut s (Machine.execHalo c w t) := h.atIssue _ _ _ fun _ => h.issueUnit ..
theorem execBlr (c w) : WiredOut s (Machine.execBlr c w t) := h.atIssue _ _ _ fun _ => h.issueUnit ..

/-! ## The sequencer -/

theorem setA (c n v) : Wired s (t.setA c n v) := h.modCore ..
theorem doMova (c ad src as imm) : Wired s (Machine.doMova c ad src as imm t) := (h.setA ..).stepPc ..
theorem doAdda (c ad src as imm) : Wired s (Machine.doAdda c ad src as imm t) := (h.setA ..).stepPc ..

theorem execMova (c w) : WiredOut s (Machine.execMova c w t) := by
  unfold Machine.execMova
  refine h.atIssue _ _ _ fun i => ?_
  split
  · exact h.doMova ..
  · exact h

theorem execAdda (c w) : WiredOut s (Machine.execAdda c w t) := by
  unfold Machine.execAdda
  refine h.atIssue _ _ _ fun i => ?_
  split
  · exact h.doAdda ..
  · exact h

theorem setFlow (c f) : Wired s (t.setFlow c f) := h.modCore ..

theorem doLoop (c w cnt stop reg a count) : Wired s (Machine.doLoop c w cnt stop reg a count t) := by
  unfold Machine.doLoop
  dsimp only
  split
  · exact h.setFlow ..
  · exact h.failCore ..

theorem doEndl (c w cnt) : Wired s (Machine.doEndl c w cnt t) := by
  unfold Machine.doEndl
  dsimp only
  split
  · split
    · exact h.setFlow ..
    · exact h.failCore ..
  · exact h.failCore ..

theorem execLoop (c w) : WiredOut s (Machine.execLoop c w t) := by
  unfold Machine.execLoop
  refine h.atIssue _ _ _ fun i => ?_
  split
  · exact h.doLoop ..
  · exact h

theorem execEndl (c w) : WiredOut s (Machine.execEndl c w t) := by
  unfold Machine.execEndl
  refine h.atIssue _ _ _ fun i => ?_
  split
  · exact h.doEndl ..
  · exact h

theorem doWait (c w id thr imm) : Wired s (Machine.doWait c w id thr imm t) := by
  unfold Machine.doWait
  dsimp only
  split
  · exact h
  · split
    · exact h.failCore ..
    · split
      · exact h.passWait ..
      · exact (h.addWait ..).modCore ..

theorem execWait (c w) : WiredOut s (Machine.execWait c w t) := by
  unfold Machine.execWait
  refine h.atIssue _ _ _ fun i => ?_
  split
  · exact h.doWait ..
  · exact h

theorem doSig (c w id inc reg a) : Wired s (Machine.doSig c w id inc reg a t) := by
  unfold Machine.doSig
  dsimp only
  split
  · exact h
  · split
    next e => exact ((h.coreAdd ..).of_ok e).stepPc ..
    next e => exact ((h.coreAdd ..).of_fail e).failCore ..
    next e => exact (h.coreAdd ..).of_miss e
    next e => exact (h.coreAdd ..).of_wait e

theorem execSig (c w) : WiredOut s (Machine.execSig c w t) := by
  unfold Machine.execSig
  refine h.atIssue _ _ _ fun i => ?_
  split
  · exact h.doSig ..
  · exact h

theorem passFence (c loads) : Wired s (t.passFence c loads) := by
  unfold State.passFence
  dsimp only
  split
  · exact h.modCore ..
  · split
    · exact (((h.modCore ..).syncRamb ..).freshReads ..).progress ..
    · exact (h.modCore ..).syncRamb ..

theorem sendEntry (c e) : WiredRes s (t.sendEntry c e) := by
  unfold State.sendEntry
  split
  · dsimp only
    split
    · exact h
    · split <;> exact h.request ..
  · exact h.coreAdd ..

theorem sendHeld (c n) : Wired s (t.sendHeld c n) := by
  induction n generalizing t with
  | zero => exact h
  | succ n ih =>
    unfold State.sendHeld
    split
    · split
      · exact h
      · split
        next e => exact ih (((h.modRamb ..).sendEntry ..).of_ok e)
        next e => exact (((h.modRamb ..).sendEntry ..).of_fail e).failCore ..
        next e => exact ((h.modRamb ..).sendEntry ..).of_miss e
        next e => exact ((h.modRamb ..).sendEntry ..).of_wait e
    · exact h

theorem doFence (c w scope loads) : Wired s (Machine.doFence c w scope loads t) := by
  unfold Machine.doFence
  dsimp only
  split
  · exact (((h.modCore ..).stepPc ..).modRamb ..).sendHeld ..
  · split
    · exact h.passFence ..
    · exact h.modCore ..

theorem execFence (c w) : WiredOut s (Machine.execFence c w t) := by
  unfold Machine.execFence
  refine h.atIssue _ _ _ fun i => ?_
  split
  · exact h.doFence ..
  · exact h

theorem fenceCheck (c) : Wired s (t.fenceCheck c) := by
  unfold State.fenceCheck
  dsimp only
  split
  · split
    · split
      · split
        · exact h.doFence ..
        · exact h
      · exact h
    · exact h
  · exact h

theorem refetchOne (c e) : Wired s (t.refetchOne c e) := by
  unfold State.refetchOne
  dsimp only
  split
  · exact h
  · split
    · exact h.modRamb ..
    · split
      · exact h
      · split
        · exact (h.modRamb ..).enterRead ..
        · split
          next e => exact ((h.modRamb ..).readRemote ..).of_fst e
          next e => exact (((h.modRamb ..).readRemote ..).of_fst e).dropFetch ..

theorem refetch (c) : Wired s (t.refetch c) := foldl (fun _ _ h => h.refetchOne ..) _ h
theorem goOn (c) : Wired s (t.goOn c) := ((branch h ((h.refetch ..).issueWindow ..)).progress ..).fenceCheck ..

theorem acked (c i) : Wired s (t.acked c i) := by
  unfold State.acked
  split
  · exact h
  · dsimp only
    exact (((h.modRamb ..).issueWindow ..).sendHeld ..).goOn ..

end

end Wired

end Sys2Proof.Safety
end

section
/-! SUPPORT. Tags and lanes: what the units of mapped tasks, parameter records and update rules keep. -/

namespace Sys2Proof.Safety

open Machine

namespace Wired

section
variable {s t : State} (h : Wired s t)
include h

/-! ## Mapped tasks -/

theorem ownStore (c w a n) : Wired s (t.ownStore c w a n) := by
  unfold State.ownStore
  refine foldl (fun u a h => ?_) _ h
  split
  · dsimp only
    split
    · exact h
    · exact (h.modRamb ..).refetch ..
  · exact h

theorem storeNow (j c w a bs) : WiredRes s (Machine.storeNow t j c w a bs) := by
  unfold Machine.storeNow
  split
  · exact h
  · split
    · exact h
    · split
      next e =>
        have h := (h.writeG ..).of_fst e
        exact branch (h.ownStore ..) h
      next e => exact ((h.writeG ..).of_fst e).accRes ..

theorem storePart (j c w t' r first es scales) : WiredRes s (Machine.storePart t j c w t' r first es scales) := by
  unfold Machine.storePart
  refine WiredRes.bind ?_ fun u a h => ?_
  · refine WiredRes.each (fun u a h => ?_) _ h
    split
    · exact h.storeNow ..
    · exact h
  · exact h.storeNow ..

theorem jobEmit (j c w t' r vs) : WiredRes s (Job.emit j t c w t' r vs) := (h.storePart ..).bind fun _ _ h => h
theorem putReserve (c k bs) : Wired s (t.putReserve c k bs) := h.put ..

theorem jobHandPartials (j v t' c u) : Wired s (Job.handPartials j t v t' c u) := by
  unfold Job.handPartials
  dsimp only
  split
  · exact h
  · split
    · exact h
    · exact foldl (fun _ _ h => foldl (fun _ _ h => h.putReserve ..) _ h) _ h

theorem jobSpillFwd (j v c u) : Wired s (Job.spillFwd j t v c u) := by
  unfold Job.spillFwd
  dsimp only
  split
  · exact h
  · exact foldl (fun _ _ h => h.putReserve ..) _ h

theorem jobSpillBwd (j v c h' k0 rows) : Wired s (Job.spillBwd j t v c h' k0 rows) := by
  unfold Job.spillBwd
  dsimp only
  split
  · exact h
  · exact foldl (fun _ _ h => branch h (h.putReserve ..)) _ h

theorem jobHandSegment (j v t' u) : Wired s (Job.handSegment j t v t' u) := foldl (fun _ _ h => branch h (h.put ..)) _ h
theorem storeSlice (j c w x lo hi) : WiredRes s (Machine.storeSlice t j c w x lo hi) := h.storePart ..

theorem jobRunGroup (j t' c w g) : WiredRes s (Job.runGroup j t t' c w g) := by
  unfold Job.runGroup
  dsimp only
  exact (WiredRes.each (fun _ _ h => h.storeSlice ..) _ (foldl (fun _ _ h => h.jobHandPartials ..) _ h)).bind fun _ _ h => h

theorem jobRunSlice (j c w u) : WiredRes s (Job.runSlice j t c w u) :=
  (WiredRes.each (fun _ _ h => h.storePart ..) _ h).bind fun _ _ h => h

theorem jobUnit (j c w u) : WiredRes s (Job.unit j t c w u) := by
  unfold Job.unit
  dsimp only
  split
  · exact h
  · refine WiredRes.bind ?_ fun u a h => ?_
    · refine WiredRes.each (fun u a h => ?_) _ (branch (h.jobSpillFwd ..) h)
      refine (h.storePart ..).bind fun u a h => ?_
      split
      · exact h.storePart ..
      · exact h
    · exact h

theorem jobRunAll (j t' c w) : WiredRes s (Job.runAll j t t' c w) := by
  unfold Job.runAll
  split
  · exact WiredRes.each (fun _ _ h => h.jobRunSlice ..) _ h
  · split
    · exact WiredRes.each (fun _ _ h => h.jobRunGroup ..) _ h
    · exact WiredRes.each (fun _ _ h => h.jobUnit ..) _ h

theorem jobHandHalo (j t' c) : Wired s (Job.handHalo j t t' c) := by
  unfold Job.handHalo
  split
  · exact h
  · dsimp only
    exact foldl (fun _ _ h => foldl (fun _ _ h => branch (h.put ..) h) _ h) _ h

/-! ## Parameter records -/

theorem setRec (x a r) : Wired s (t.setRec x a r) := h.set ..

theorem modRec (x a f) : Wired s (t.modRec x a f) := by
  unfold State.modRec
  split
  · exact h.setRec ..
  · exact h

theorem putG (x a bs) : Wired s (t.putG x a bs) := by
  unfold State.putG
  refine foldl_fst (fun r a h => ?_) _ h
  dsimp only
  split
  · exact h.put ..
  · exact h

theorem putWords (x a vs) : Wired s (t.putWords x a vs) := h.putG ..

theorem putRow (x t' r es scales) : Wired s (t.putRow x t' r es scales) := by
  unfold State.putRow
  dsimp only
  refine putG ?_ ..
  refine foldl (fun u a h => ?_) _ h
  split
  · exact h.putG ..
  · exact h

theorem setSlot (x a j st tag) : Wired s (t.setSlot x a j st tag) := by
  unfold State.setSlot
  dsimp only
  refine poke ?_ ..
  split
  · exact h.poke ..
  · exact h

theorem armRecord (x a) : Wired s (t.armRecord x a) := by
  unfold State.armRecord
  split
  · exact h
  · dsimp only
    exact foldl (fun _ _ h => branch h (h.addWait ..)) _ (h.modWmk ..)

theorem dieAdd (x r id inc) : Wired s (t.dieAdd x r id inc) := h.sendAdd ..

theorem failRecord (x a code) : Wired s (t.failRecord x a code) := by
  unfold State.failRecord
  split
  · exact h
  · exact ((h.modRec ..).armRecord ..).event ..

theorem dieWork (x a reads writes) {f : State → State} (hf : ∀ u, Wired s u → Wired s (f u)) :
    Wired s (t.dieWork x a reads writes f) := by
  unfold State.dieWork
  split
  · exact hf _ h
  · split
    · exact (h.noteAcc ..).failRecord ..
    · exact hf _ h

theorem publish (x r) : Wired s (t.publish x r) := foldl (fun _ _ h => h.request ..) _ h

/-! ## The update rules -/

theorem updWriteSlot (u r w) : Wired s (Upd.writeSlot u t r w) := h.putRow ..
theorem updWriteBank (u j r l) : Wired s (Upd.writeBank u t j r l) := foldl (fun _ _ h => h.putG ..) _ h

theorem updWriteRow (u k r m v w) : Wired s (Upd.writeRow u t k r m v w) := by
  unfold Upd.writeRow
  dsimp only
  split
  · exact h.putG ..
  · exact h.updWriteBank ..

theorem copyG (x src dst n) : Wired s (t.copyG x src dst n) := h.putG ..

theorem updCopySlot (u) : Wired s (Upd.copySlot u t) := by
  unfold Upd.copySlot
  dsimp only
  split
  · exact h.copyG ..
  · exact (h.copyG ..).copyG ..

theorem updApplyJournal (u) : Wired s (Upd.applyJournal u t) := by
  unfold Upd.applyJournal
  dsimp only
  split
  · exact h
  · refine putG ?_ ..
    refine foldl (fun u a h => ?_) _ h
    refine putG ?_ ..
    refine foldl_fst (fun r a h => ?_) _ h
    dsimp only
    exact h.putG ..

theorem replayJournal (x r) : Wired s (t.replayJournal x r) := by
  unfold State.replayJournal
  dsimp only
  split
  · exact h
  · exact h.updApplyJournal ..

theorem openRecord (x index e) : Wired s (t.openRecord x index e) := by
  unfold State.openRecord
  dsimp only
  split
  · exact (h.setRec ..).armRecord ..
  · split
    · exact ((((h.setRec ..).replayJournal ..).dieAdd ..).publish ..).armRecord ..
    · exact (h.setRec ..).armRecord ..

theorem openUpdates (x) {u} (e : t.openUpdates x = .ok u) : Wired s u := by
  unfold State.openUpdates at e
  split at e
  · cases e
    exact h
  · dsimp only at e
    obtain ⟨_, _, e⟩ := Ld.of_bind e
    obtain ⟨hd, _, e⟩ := Ld.of_bind e
    obtain ⟨_, _, e⟩ := Ld.of_bind e
    obtain ⟨rows, _, e⟩ := Ld.of_bind e
    obtain ⟨_, _, e⟩ := Ld.of_bind e
    cases e
    exact foldl (fun _ _ h => h.openRecord ..) _ h

end

end Wired

end Sys2Proof.Safety
end

section
/-! SUPPORT. Tags and lanes: what the end of a task, the cluster DMA engines and Rambler keep. -/

namespace Sys2Proof.Safety

open Machine

namespace Wired

section
variable {s t : State} (h : Wired s t)
include h

/-! ## The end of a task on a core -/

theorem storeF32 (j c w t' r vs) : WiredRes s (Machine.storeF32 t j c w t' r vs) := h.storePart ..

theorem freeScratch (j c w t') : WiredRes s (Machine.freeScratch t j c w t') := by
  unfold Machine.freeScratch
  split
  · exact h
  · refine WiredRes.bind ?_ fun u a h => ?_
    · refine WiredRes.each (fun u a h => ?_) _ h
      dsimp only
      exact h.advance.storeF32 ..
    · exact h

theorem flagAll (l) : Wired s (t.flagAll l) := foldl (fun _ _ h => h.setFlags ..) _ h

theorem jobFinishReduce (j c w deal) : WiredRes s (Job.finishReduce j t c w deal) := by
  unfold Job.finishReduce
  dsimp only
  exact (WiredRes.each (fun _ _ h => h.jobEmit ..) _ h).bind fun _ _ h => h.flagAll ..

theorem jobReadScratch (j w) : WiredRes s (Job.readScratch j t w) := by
  unfold Job.readScratch
  split
  · exact h.accRes ..
  · exact h

theorem jobFinishNorm (j c w) : WiredRes s (Job.finishNorm j t c w) := by
  unfold Job.finishNorm
  dsimp only
  split
  · exact h
  · refine (h.jobReadScratch ..).bind fun u a h => ?_
    refine WiredRes.bind ?_ fun u a h => ?_
    · split
      · exact h.storeF32 ..
      · exact h
    · refine WiredRes.bind ?_ fun u a h => ?_
      · split
        · exact h.storeF32 ..
        · exact h
      · exact h.freeScratch ..

theorem jobFinishAttn (j c w cores widths) : WiredRes s (Job.finishAttn j t c w cores widths) := by
  unfold Job.finishAttn
  dsimp only
  refine ((foldl (fun _ _ h => foldl (fun _ _ h => h.jobSpillBwd ..) _ h) _ h).jobReadScratch ..).bind fun u _ h => ?_
  refine WiredRes.bind (WiredRes.each (fun u e h => ?_) _ h) fun _ _ h => h.freeScratch ..
  exact (h.jobEmit ..).bind fun _ _ h => h.setFlags ..

theorem jobFinishMuon (j c w deal) : WiredRes s (Job.finishMuon j t c w deal) := by
  unfold Job.finishMuon
  dsimp only
  refine (WiredRes.each (fun _ _ h => h.storeF32 ..) _ h).bind fun _ _ h => ?_
  exact ((h.flagAll ..).freeScratch ..).bind fun _ _ h => h.freeScratch ..

theorem jobFinish (j c w t') : WiredRes s (Job.finish j t c w t') := by
  unfold Job.finish
  split
  · exact h.jobFinishReduce ..
  · exact h.jobFinishNorm ..
  · exact h.jobFinishAttn ..
  · exact h.jobFinishMuon ..
  · exact h

theorem noteClamps (g i n) : Wired s (t.noteClamps g i n) := by
  unfold State.noteClamps
  split
  · exact h
  · split
    · exact h
    · dsimp only
      split
      · exact h.set ..
      · exact (h.set ..).informTask ..

theorem strictRes (g n strict) : WiredRes s (Machine.strictRes t g n strict) := by
  unfold Machine.strictRes
  split
  · exact h
  · split
    · exact h
    · exact h.set ..

theorem clampRes (g i n strict) {f : State → Res Unit} (hf : ∀ u, Wired s u → WiredRes s (f u)) :
    WiredRes s (Machine.clampRes t g i n strict f) :=
  (h.strictRes ..).bind fun u _ h => (hf u h).bind fun _ _ h => h.noteClamps ..

theorem taskRes (c) {r : Res Unit} {f : State → State} (hr : WiredRes s r) (hf : ∀ u, Wired s u → Wired s (f u)) :
    Wired s (t.taskRes c r f) := by
  unfold State.taskRes
  cases r with
  | ok u _ => exact hf u hr
  | fail u code => exact Wired.failCore hr ..
  | miss u va store =>
    dsimp only
    split
    · exact Wired.suspend hr ..
    · exact h
  | wait u => exact h

theorem coreDone (c t') : Wired s (t.coreDone c t') := (((h.modCore ..).discardReads ..).modCluster ..).modTask ..

theorem demandLoads (c t' w l) : WiredRes s (t.demandLoads c t' w l) := by
  unfold State.demandLoads
  dsimp only
  split
  · exact h
  · exact foldl (fun _ _ h => h.coalesceRange ..) _ h

theorem handUnits (c t') : WiredRes s (t.handUnits c t') := by
  unfold State.handUnits
  dsimp only
  split
  · exact h
  · split
    · exact h
    · split
      · exact h.accRes ..
      · exact (foldl (fun _ _ h => h.jobHandSegment ..) _ h).modTask ..

theorem runUnits (c t') : WiredRes s (t.runUnits c t') := by
  unfold State.runUnits
  dsimp only
  split
  · exact h
  · split
    · exact h
    · split
      · exact h.accRes ..
      · exact h.arrayParity ..
      · split
        · exact h.noteAccBad ..
        · refine h.clampRes _ _ _ _ fun u h => ?_
          refine (h.demandLoads ..).bind fun u a h => ?_
          refine (h.jobRunAll ..).bind fun u a h => ?_
          split
          · exact ((h.setFlags ..).jobHandHalo ..).jobFinish ..
          · exact (h.setFlags ..).jobHandHalo ..

theorem execCoreTaskEnd (c) : WiredOut s (Machine.execCoreTaskEnd c t) := by
  unfold Machine.execCoreTaskEnd
  split
  · exact h.next
  · dsimp only
    split
    · exact h.next
    · split
      · split
        · exact h.next
        · split
          · exact (h.goOn ..).next
          · split
            · exact (h.failCore ..).next
            · exact (h.coreDone ..).next
      · split
        · exact h.next
        · refine Wired.next ?_
          refine h.taskRes _ ?_ fun u h => ?_
          · exact h.handUnits ..
          · split
            · refine h.taskRes _ ?_ fun u h => ?_
              · exact h.runUnits ..
              · exact h.coreDone ..
            · exact h

theorem saved (c t') : Wired s (t.saved c t') := by
  unfold State.saved
  dsimp only
  split
  · exact (foldl (fun _ _ h => h.clearCore ..) _ (((h.modTask ..).clearCore ..).modCluster ..)).modTask ..
  · exact ((h.modTask ..).clearCore ..).modCluster ..

theorem execInterrupt (c) : WiredOut s (Machine.execInterrupt c t) := by
  unfold Machine.execInterrupt
  split
  · exact h.next
  · dsimp only
    split
    · exact h.next
    · split
      · exact h.next
      · split
        · exact (h.saved ..).next
        · split
          · exact ((h.noteAccBad ..).failCore ..).next
          · split
            next e => exact (((h.write ..).of_fst e).advance.saved ..).next
            next e => exact (((h.write ..).of_fst e).advance.suspend ..).next
            next e => exact (((((h.write ..).of_fst e).noteAcc ..).advance).failTask ..).next

theorem loadProgram (c t') : Wired s (t.loadProgram c t').1 := by
  unfold State.loadProgram
  dsimp only
  split
  · dsimp only
    exact h.modCore ..
  · exact h

theorem startCore (c t') : Wired s (t.startCore c t') := by
  unfold State.startCore
  split
  · exact h.modCore ..
  · split
    next e => exact ((h.loadProgram ..).of_fst e).modCore ..
    next e => exact ((h.loadProgram ..).of_fst e).suspend ..
    next e => exact (((h.loadProgram ..).of_fst e).noteAcc ..).failCore ..

theorem restoreCore (c t' l) : Wired s (t.restoreCore c t' l) := by
  unfold State.restoreCore
  dsimp only
  exact (h.modCore ..).modTask ..

theorem execCoreResume (c) : WiredOut s (Machine.execCoreResume c t) := by
  unfold Machine.execCoreResume
  split
  · exact h.next
  · dsimp only
    split
    · exact h.next
    · split
      · split
        · exact (((h.restoreCore ..).startCore ..).progress ..).next
        · exact (h.suspend ..).next
        · exact ((h.noteAcc ..).failTask ..).next
      · exact (h.startCore ..).next

/-! ## The cluster DMA engines -/

theorem dmaRes (g i x) {r : Res Unit} {f : State → State} (hr : WiredRes s r) (hf : ∀ u, Wired s u → Wired s (f u)) :
    Wired s (t.dmaRes g i x r f) := by
  unfold State.dmaRes
  cases r with
  | ok u _ => exact hf u hr
  | fail u code => exact Wired.failTask hr ..
  | miss u va store => exact Wired.suspend hr ..
  | wait u => exact h

theorem dmaWrite (j n a bs) : WiredRes s (Machine.dmaWrite t j n a bs) := by
  unfold Machine.dmaWrite
  split
  · exact h
  · split
    next e => exact (h.writeG ..).of_fst e
    next e => exact ((h.writeG ..).of_fst e).accRes ..

theorem dmaRow (j n t' r first es) : WiredRes s (Machine.dmaRow t j n t' r first es) := by
  unfold Machine.dmaRow
  refine WiredRes.bind ?_ fun u a h => ?_
  · refine WiredRes.each (fun u a h => ?_) _ h
    split
    · exact h.dmaWrite ..
    · exact h
  · exact h

theorem dmaScales (j n t' r first bs) : WiredRes s (Machine.dmaScales t j n t' r first bs) := by
  unfold Machine.dmaScales
  split
  · exact h
  · exact h.dmaWrite ..

theorem dmaCheck (j n store l) : WiredRes s (Machine.dmaCheck t j n store l) := by
  unfold Machine.dmaCheck
  split
  · exact h.accRes ..
  · exact h

theorem dmaLoad (j n l) : WiredRes s (Machine.dmaLoad t j n l) := by
  unfold Machine.dmaLoad
  refine (h.dmaCheck ..).bind fun u a h => ?_
  split
  · exact h
  · exact foldl (fun _ _ h => h.coalesceRange ..) _ h

theorem gatherRun (j n blk e q) : WiredRes s (Machine.gatherRun t j n blk e q) := by
  unfold Machine.gatherRun
  dsimp only
  exact (h.dmaLoad ..).bind fun _ _ h => (h.dmaRow ..).bind fun _ _ h => h.dmaScales ..

theorem gatherUnit (j n u) : WiredRes s (Machine.gatherUnit t j n u) := by
  unfold Machine.gatherUnit
  dsimp only
  refine (h.dmaLoad ..).bind fun u a h => ?_
  refine h.clampRes _ _ _ _ fun u h => ?_
  exact (WiredRes.each (fun _ _ h => h.gatherRun ..) _ h).bind fun _ _ h => h

theorem scatterRun (j n es q) : WiredRes s (Machine.scatterRun t j n es q) := by
  unfold Machine.scatterRun
  dsimp only
  split
  · exact h
  · split
    · exact (h.dmaRow ..).bind fun _ _ h => (h.dmaScales ..).bind fun _ _ h => h
    · exact (h.dmaRow ..).bind fun _ _ h => h

theorem scatterUnit (j n core es) : WiredRes s (Machine.scatterUnit t j n core es) := by
  unfold Machine.scatterUnit
  dsimp only
  refine (h.dmaLoad ..).bind fun u a h => ?_
  refine h.clampRes _ _ _ _ fun u h => ?_
  refine (h.dmaLoad ..).bind fun _ _ h => (h.dmaCheck ..).bind fun _ _ h => ?_
  exact (WiredRes.each (fun _ _ h => h.scatterRun ..) _ h).bind fun _ _ h => h.setFlags ..

theorem permuteRow (j n src r) : WiredRes s (Machine.permuteRow t j n src r) := by
  unfold Machine.permuteRow
  dsimp only
  refine WiredRes.bind ?_ fun u a h => ?_
  · split
    · exact h
    · exact h.dmaLoad ..
  · exact (h.dmaRow ..).bind fun _ _ h => h.dmaScales ..

theorem permuteRows (j n src rows) : WiredRes s (Machine.permuteRows t j n src rows) := by
  unfold Machine.permuteRows
  exact (WiredRes.each (fun _ _ h => h.permuteRow ..) _ h).bind fun _ _ h => h

theorem permuteUnit (j n u) : WiredRes s (Machine.permuteUnit t j n u) := by
  unfold Machine.permuteUnit
  dsimp only
  split
  · split
    · exact (h.dmaLoad ..).bind fun _ _ h => h.put ..
    · exact h.permuteRows ..
  · exact h.permuteRows ..

theorem execClusterDmaTransfer (n g i u) : WiredOut s (Machine.execClusterDmaTransfer n g i u t) := by
  unfold Machine.execClusterDmaTransfer
  dsimp only
  split
  · exact h.next
  · refine WiredOut.branch ?_ ?_
    · exact h.next
    · refine Wired.next ?_
      refine h.dmaRes _ _ _ ?_ fun u h => ?_
      · split
        · exact h
        · split
          · exact h.gatherUnit ..
          · exact h.scatterUnit ..
          · exact h.permuteUnit ..
      · exact h.modTask ..

theorem stageChunk (n ch slot x data) : Wired s (t.stageChunk n ch slot x data) := (h.put ..).modCluster ..

theorem execBlanketFetch (n ch) : WiredOut s (Machine.execBlanketFetch n ch t) := by
  unfold Machine.execBlanketFetch
  dsimp only
  split
  · exact h.next
  · split
    · exact h.next
    · split
      · exact h.next
      · refine Wired.next ?_
        refine h.dmaRes _ _ _ ?_ fun u h => ?_
        · exact h.dmaLoad ..
        · exact h.stageChunk ..

theorem stashWrite (j a bs) : WiredRes s (Machine.stashWrite t j a bs) := by
  unfold Machine.stashWrite
  split
  · split
    · exact h.accRes ..
    · exact h.put ..
  · split
    · exact h
    · split
      next e => exact (h.write ..).of_fst e
      next e => exact ((h.write ..).of_fst e).accRes ..

theorem execStashCopy (g i) : WiredOut s (Machine.execStashCopy g i t) := by
  unfold Machine.execStashCopy
  dsimp only
  split
  · split
    · exact h.next
    · refine Wired.next ?_
      refine h.dmaRes _ _ _ ?_ fun u h => ?_
      · split
        · exact h.accRes ..
        · exact (WiredRes.each (fun _ _ h => h.stashWrite ..) _ h).bind fun _ _ h => h
      · exact h.modGraph ..
  · exact h.next

/-! ## Rambler -/

theorem stopRamb (c r) : Wired s (t.stopRamb c r) := h.modRamb ..

theorem rambParts (c w l f) : Wired s (t.rambParts c w l f) := by
  unfold State.rambParts
  dsimp only
  split <;> exact (h.prefetchAll ..).modRamb ..

theorem rambReplay (c w p rest) : Wired s (t.rambReplay c w p rest) := by
  unfold State.rambReplay
  dsimp only
  split
  · exact h.rambParts ..
  · exact h.modRamb ..

theorem rambStep (c w) : Wired s (t.rambStep c w) := by
  unfold State.rambStep
  dsimp only
  split
  · exact h.stopRamb ..
  · split
    · exact h.stopRamb ..
    · exact h.stopRamb ..
    · exact h.modRamb ..
    · exact h.modRamb ..
    · split
      · exact h.modRamb ..
      · exact h.stopRamb ..
    · split
      · split
        · exact h.modRamb ..
        · exact h.stopRamb ..
      · exact h.stopRamb ..
    · split
      · exact h.modRamb ..
      · split
        · exact h.modRamb ..
        · split
          · exact h.stopRamb ..
          · exact h.rambParts ..
    · exact h.modRamb ..
    · exact h.modRamb ..

theorem rambMapped (c t' w) : Wired s (t.rambMapped c t' w) := by
  unfold State.rambMapped
  dsimp only
  split
  · exact h.stopRamb ..
  · split
    · exact h.stopRamb ..
    · exact h.rambParts ..

theorem rambRun (c t' w n) : Wired s (t.rambRun c t' w n) := by
  induction n generalizing t with
  | zero => exact h
  | succ n ih =>
    unfold State.rambRun
    dsimp only
    split
    · refine branch ?_ ?_
      · refine ih ?_
        split
        · exact h.rambReplay ..
        · split
          · exact h.rambStep ..
          · exact h.rambMapped ..
      · split
        · exact h.rambReplay ..
        · split
          · exact h.rambStep ..
          · exact h.rambMapped ..
    · exact h

theorem execRamblerFetch (c steps) : WiredOut s (Machine.execRamblerFetch c steps t) := by
  unfold Machine.execRamblerFetch
  split
  · exact h.next
  · split
    · exact (h.issueWindow ..).next
    · split
      · exact (h.issueWindow ..).next
      · dsimp only
        exact ((((branch h (h.modCluster ..)).rambRun ..).issueWindow ..).goOn ..).next

theorem answerMerged (n g i pu data) : Wired s (t.answerMerged n g i pu data) := by
  unfold State.answerMerged
  refine foldl (fun u a h => ?_) _ h
  dsimp only
  split
  · exact h.modRamb ..
  · exact h

theorem loadReturns (c i q bad) : Wired s (t.loadReturns c i q bad) := by
  unfold State.loadReturns
  dsimp only
  split
  · exact h.modRamb ..
  · split
    · split
      · exact h.modRamb ..
      · exact (h.modRamb ..).modRamb ..
    · refine branch ?_ ?_
      · split
        · refine answerMerged ?_ ..
          split
          · exact (branch ((h.modRamb ..).set ..) (h.modRamb ..)).noteAcc ..
          · split
            · exact (h.modRamb ..).set ..
            · exact h.modRamb ..
        · refine dropFetch ?_ ..
          refine answerMerged ?_ ..
          split
          · exact (branch ((h.modRamb ..).set ..) (h.modRamb ..)).noteAcc ..
          · split
            · exact (h.modRamb ..).set ..
            · exact h.modRamb ..
      · split
        · refine branch ?_ ?_
          · exact ((branch ((h.modRamb ..).set ..) (h.modRamb ..)).answerMerged ..).holdUnit ..
          · exact (branch ((h.modRamb ..).set ..) (h.modRamb ..)).answerMerged ..
        · refine modRamb ?_ ..
          refine branch ?_ ?_
          · exact ((branch ((h.modRamb ..).set ..) (h.modRamb ..)).answerMerged ..).holdUnit ..
          · exact (branch ((h.modRamb ..).set ..) (h.modRamb ..)).answerMerged ..

theorem storeReturns (c i q) : Wired s (t.storeReturns c i q) := by
  unfold State.storeReturns
  split
  · exact ((h.noteAcc ..).acked ..).failCore ..
  · exact (h.landStore ..).acked ..

theorem queuesSettled : Wired s t.queuesSettled := by
  unfold State.queuesSettled
  dsimp only
  split
  · exact h.settleQueues
  · exact h.settleQueues.progressAll

theorem execMemoryResponse (c tag bad) : WiredOut s (Machine.execMemoryResponse c tag bad t) := by
  unfold Machine.execMemoryResponse
  split
  · exact h.next
  · split
    · exact h.next
    · split
      · exact h.next
      · split
        · exact ((((h.loadReturns ..).queuesSettled).issueWindow ..).goOn ..).next
        · split
          · exact h.next
          · exact ((h.storeReturns ..).queuesSettled).next

end

end Wired

end Sys2Proof.Safety
end

section
/-! SUPPORT. Tags and lanes: what Trailhead and the parameter update keep. -/

namespace Sys2Proof.Safety

open Machine

namespace Wired

section
variable {s t : State} (h : Wired s t)
include h

/-! ## Trailhead -/

theorem own (x g) : Wired s (t.own x g) := (foldl (fun _ _ h => branch (h.zeroRange ..) h) _ h).set ..

theorem takeAreas (g x) {u} (e : t.takeAreas g x = .ok (some u)) : Wired s u := by
  unfold State.takeAreas at e
  split at e
  · cases e
    exact h
  · obtain ⟨a, _, e⟩ := Ld.of_bind e
    split at e
    · cases e
      exact h
    · dsimp only at e
      split at e
      · split at e
        · cases e
        · cases e
          exact h.setGraph ..
      · cases e

theorem keepLoaded (g i l) : Wired s (t.keepLoaded g i l) := h.modTask ..

theorem reserve (g i m) : Wired s (t.reserve g i m).1 := by
  unfold State.reserve
  split
  · exact h
  · dsimp only
    split
    · split
      · dsimp only
        exact h.setGraph ..
      · split
        · dsimp only
          exact ((h.setGraph ..).set ..).informTask ..
        · exact h
    · exact h

theorem placeCore (g i x step hand entry c) : Wired s (t.placeCore g i x step hand entry c) := h.modCore ..

theorem startCores (cores) : Wired s (t.startCores cores) := by
  unfold State.startCores
  refine foldl (fun u a h => ?_) _ h
  split
  · split
    · exact h
    · exact h.startCore ..
  · exact h

theorem startTask (g i x cores l staging) : Wired s (t.startTask g i x cores l staging) := by
  unfold State.startTask
  dsimp only
  refine startCores ?_ ..
  refine foldl (fun u a h => ?_) _ ?_
  · exact h.placeCore ..
  · refine modTask ?_ ..
    refine modTask ?_ ..
    refine foldl (fun u a h => ?_) _ ?_
    · exact h.own ..
    · split
      · exact h.modCluster ..
      · exact h

theorem noteDispatch (x g i) : Wired s (t.noteDispatch x g i) := h.set ..

theorem updateChecks (x) {u} (e : t.updateChecks x = .ok u) : Wired s u := by
  unfold State.updateChecks at e
  split at e
  · cases e
    exact h
  · exact h.openUpdates _ e

theorem loadFails (g i x e) : Wired s (t.loadFails g i x e) := by
  unfold State.loadFails
  split
  · exact h.failTask ..
  · exact h.suspend ..
  · exact (h.noteAcc ..).failTask ..

theorem tryComplete (g i) : Wired s (t.tryComplete g i) := by
  unfold State.tryComplete
  dsimp only
  split
  · exact h
  · split
    · exact h
    · split
      · exact h.suspend ..
      · split
        · exact h
        · split
          · exact h.suspend ..
          · exact h.completeTask ..

theorem runNull (g i l) : Wired s (t.runNull g i l) := (h.modTask ..).tryComplete ..

theorem tryStart (g i x l) {v} (e : t.tryStart g i x l = some v) : Wired s v := by
  unfold State.tryStart at e
  split at e
  · cases e
  · split at e
    · cases e
      exact h.loadFails ..
    next u eu =>
      have h := h.updateChecks _ eu
      dsimp only at e
      split at e
      · cases e
        exact (h.reserve ..).failTask ..
      · cases e
        exact branch (((h.reserve ..).noteDispatch ..).runNull ..) (((h.reserve ..).noteDispatch ..).startTask ..)

theorem tryResume (g i x) {v} (e : t.tryResume g i x = some v) : Wired s v := by
  unfold State.tryResume at e
  dsimp only at e
  split at e
  · cases e
  · split at e
    · cases e
      exact (h.noteDispatch ..).failTask ..
    · cases e
      refine foldl (fun _ _ h => ?_) _ ((foldl (fun _ _ h => h.own ..) _ (h.noteDispatch ..)).modTask ..)
      exact branch (h.placeCore ..) ((h.placeCore ..).modCore ..)

theorem trySpared (g i x) : Wired s (t.trySpared g i x).1 := by
  unfold State.trySpared
  split
  · dsimp only
    exact h.loadFails ..
  · dsimp only
    exact h.runNull ..

theorem tryReady (g i x) : Wired s (t.tryReady g i x).1 := by
  unfold State.tryReady
  dsimp only
  split
  · exact h.trySpared ..
  · rcases ea : t.takeAreas g x with a | _ | u
    · dsimp only
      split
      · exact h.loadFails ..
      · exact h.loadFails ..
      next e => cases e
      next e => cases e
    · dsimp only
      split
      · exact h.loadFails ..
      next e => cases e
      · exact h.keepLoaded ..
      next e => cases e
    · dsimp only
      split
      · exact h.loadFails ..
      next e => cases e
      next e => cases e
      next e =>
        cases e
        split
        next e => exact (h.takeAreas _ _ ea).tryStart _ _ _ _ e
        · exact h.keepLoaded ..

theorem tryCand (c) : Wired s (t.tryCand c).1 := by
  unfold State.tryCand
  split
  · split
    · split
      next e => exact h.tryResume _ _ _ e
      · exact h
    · exact h.tryReady ..
  · exact h

theorem tryAll (l) : Wired s (t.tryAll l).1 := by
  induction l generalizing t with
  | nil => exact h
  | cons a l ih =>
    unfold State.tryAll
    split
    next e => exact (h.tryCand ..).of_fst e
    next e => exact ih ((h.tryCand ..).of_fst e)

theorem tryTurns (l) : Wired s (t.tryTurns l).1 := by
  induction l generalizing t with
  | nil => exact h
  | cons a l ih =>
    unfold State.tryTurns
    split
    next e => exact (h.tryAll ..).of_fst e
    next e => exact ih ((h.tryAll ..).of_fst e)

theorem execTaskDispatch : WiredOut s (Machine.execTaskDispatch t) := by
  unfold Machine.execTaskDispatch
  split
  · exact h.next
  · split
    · exact (h.suspend ..).next
    · exact (h.tryTurns ..).next

theorem execTaskCoreReserve (x) : WiredOut s (Machine.execTaskCoreReserve x t) := by
  unfold Machine.execTaskCoreReserve
  split
  · split
    · exact h.next
    · exact (h.set ..).next
  · exact h.next

theorem askInterrupt (g i) : Wired s (t.askInterrupt g i) := h.modTask ..

theorem preempt (want need n l) : Wired s (t.preempt want need n l) := by
  induction l generalizing t want need n with
  | nil => exact h
  | cons a l ih =>
    unfold State.preempt
    split
    · exact h
    · dsimp only
      split
      · exact ih h ..
      · exact ih (h.askInterrupt ..) ..

theorem execPreempt (x) : WiredOut s (Machine.execPreempt x t) := by
  unfold Machine.execPreempt
  dsimp only
  split
  · exact h.next
  · split
    · exact h.next
    · exact (h.preempt ..).next

theorem execTaskComplete (g i) : WiredOut s (Machine.execTaskComplete g i t) := by
  unfold Machine.execTaskComplete
  split
  · exact h.next
  · exact (h.tryComplete ..).next

theorem deliver (a) : Wired s (t.deliver a) := by
  unfold State.deliver
  split
  · exact h.applyAdd ..
  · exact h.addFailed ..
  · exact h.addFailed ..
  · split
    next e => exact (h.sendAdd ..).of_fst e
    next e => exact ((h.sendAdd ..).of_fst e).addFailed ..

theorem execWaymarkCountAdd (n) : WiredOut s (Machine.execWaymarkCountAdd n t) := by
  unfold Machine.execWaymarkCountAdd
  split
  · exact h.next
  · split
    · exact h.next
    · split
      · exact ((h.modWmk ..).deliver ..).next
      · exact h.next

theorem waitRefused (w) : Wired s (t.waitRefused w) := by
  unfold State.waitRefused
  dsimp only
  split
  · exact (h.modWmk ..).failCore ..
  · exact (h.modWmk ..).failTask ..
  · exact h

theorem execWatchPoll (n remote) : WiredOut s (Machine.execWatchPoll n remote t) := by
  unfold Machine.execWatchPoll
  split
  · exact h.next
  · split
    · exact h.next
    · split
      · exact h.next
      · exact (h.waitRefused ..).next
      · exact (h.waitRefused ..).next
      · exact (branch (h.releaseWait ..) h).next
      · exact (branch (h.releaseWait ..) h).next

/-! ## The parameter update -/

theorem sendChunk (x r k bs) : Wired s (t.sendChunk x r k bs) := foldl (fun _ _ h => h.request ..) _ h

theorem execContributionSend (x a) : WiredOut s (Machine.execContributionSend x a t) := by
  unfold Machine.execContributionSend
  split
  · exact h.next
  · dsimp only
    split
    · exact h.next
    · split
      · exact (h.armRecord ..).next
      · refine Wired.next ?_
        refine h.dieWork _ _ _ _ fun u h => ?_
        split
        · exact ((((h.modRec ..).advance).set ..).dieAdd ..).armRecord ..
        · exact (((h.modRec ..).advance).sendChunk ..).armRecord ..

theorem discardRound (x a) : Wired s (t.discardRound x a) := by
  unfold State.discardRound
  split
  · exact h
  · dsimp only
    split
    · exact h.dieAdd ..
    · exact ((h.dieAdd ..).setRec ..).publish ..

theorem execContributionTake (x a) : WiredOut s (Machine.execContributionTake x a t) := by
  unfold Machine.execContributionTake
  split
  · exact h.next
  · dsimp only
    split
    · exact h.next
    · split
      · exact (h.armRecord ..).next
      · split
        · exact (((h.modRec ..).discardRound ..).armRecord ..).next
        · refine Wired.next ?_
          refine h.dieWork _ _ _ _ fun u h => ?_
          exact (((foldl (fun _ _ h => h.putWords ..) _ h).modRec ..).dieAdd ..).armRecord ..

theorem updCompute (u) : Wired s (Upd.compute u t) := by
  unfold Upd.compute
  dsimp only
  split
  · exact h.modRec ..
  · split
    · refine dieAdd ?_ ..
      refine modRec ?_ ..
      split
      · exact (foldl (fun _ _ h => (h.putRow ..).updWriteBank ..) _ (h.updCopySlot ..)).putG ..
      · exact (foldl (fun _ _ h => (h.putRow ..).updWriteBank ..) _ h).putG ..
    · refine modRec ?_ ..
      split
      · exact (foldl (fun _ _ h => (h.updWriteRow ..).updWriteSlot ..) _ (h.updCopySlot ..)).putG ..
      · exact (foldl (fun _ _ h => (h.updWriteRow ..).updWriteSlot ..) _ h).putG ..

theorem execSlotAcquire (x a) : WiredOut s (Machine.execSlotAcquire x a t) := by
  unfold Machine.execSlotAcquire
  split
  · exact h.next
  · dsimp only
    split
    · exact h.next
    · split
      · exact h.next
      · split
        · exact (h.failRecord ..).next
        · split
          · exact (h.armRecord ..).next
          · refine Wired.next ?_
            exact ((h.setSlot ..).modRec ..).dieWork _ _ _ _ fun _ h => (h.updCompute ..).armRecord ..

theorem updFinishC (u) : Wired s (Upd.finishC u t) :=
  ((foldl (fun _ _ h => (h.putWords ..).updWriteSlot ..) _ h).modRec ..).armRecord ..

theorem execPhaseC (x a) : WiredOut s (Machine.execPhaseC x a t) := by
  unfold Machine.execPhaseC
  split
  · exact h.next
  · split
    · exact h.next
    · split
      · exact (h.armRecord ..).next
      · split
        · exact h.next
        · dsimp only
          refine Wired.next ?_
          exact h.dieWork _ _ _ _ fun _ h => h.updFinishC ..

theorem judge (x group v) : Wired s (t.judge x group v) := by
  unfold State.judge
  dsimp only
  split
  · exact (foldl (fun _ _ h => h.modRec ..) _ h).event ..
  · exact foldl (fun _ _ h => h.modRec ..) _ h

theorem thermosRef (x a) : Wired s (t.thermosRef x a) := by
  unfold State.thermosRef
  split
  · split
    · exact h
    · dsimp only
      split
      · exact (h.poke ..).modRec ..
      · exact h
  · exact h

theorem updCommit (u held) : Wired s (Upd.commit u t held) := by
  unfold Upd.commit
  dsimp only
  refine set ?_ ..
  refine armRecord ?_ ..
  refine modRec ?_ ..
  refine publish ?_ ..
  refine branch ?_ ?_
  · refine updApplyJournal ?_ ..
    refine thermosRef ?_ ..
    exact ((branch (branch ((h.updCopySlot ..).putG ..) ((h.updCopySlot ..).copyG ..)) h).setSlot ..).countWaiting ..
  · refine thermosRef ?_ ..
    exact ((branch (branch ((h.updCopySlot ..).putG ..) ((h.updCopySlot ..).copyG ..)) h).setSlot ..).countWaiting ..

theorem applyWaiting (x) : Wired s (t.applyWaiting x) := by
  unfold State.applyWaiting
  refine foldl (fun u a h => ?_) _ h
  dsimp only
  exact h.dieWork _ _ _ _ fun _ h => (h.updApplyJournal ..).modRec ..

theorem execUpdateCommit (x a) : WiredOut s (Machine.execUpdateCommit x a t) := by
  unfold Machine.execUpdateCommit
  split
  · exact h.next
  · dsimp only
    split
    · exact h.next
    · split
      · exact (branch (h.judge ..) h).next
      · refine Wired.next ?_
        exact (branch (h.judge ..) h).dieWork _ _ _ _ fun _ h => h.updCommit ..

theorem startPull (u p) : Wired s (t.startPull u p) := by
  unfold State.startPull
  dsimp only
  refine branch ?_ ?_
  · refine foldl_fst (fun r a h => ?_) _ ((h.setSlot ..).modRec ..)
    split
    · exact h
    · exact h.request ..
  · refine failRecord ?_ ..
    refine foldl_fst (fun r a h => ?_) _ ((h.setSlot ..).modRec ..)
    split
    · exact h
    · exact h.request ..

theorem endPull (x a r) : Wired s (t.endPull x a r) := ((h.modRec ..).dieAdd ..).armRecord ..

theorem execVersionPull (x a p) : WiredOut s (Machine.execVersionPull x a p t) := by
  unfold Machine.execVersionPull
  split
  · exact h.next
  · split
    · exact h.next
    · split
      · split
        · exact h.next
        · exact (((h.setSlot ..).countWaiting ..).endPull ..).next
      · dsimp only
        split
        · exact (h.armRecord ..).next
        · split
          · exact (h.endPull ..).next
          · split
            · exact (h.armRecord ..).next
            · exact (h.startPull ..).next

theorem markStalled (x a) : Wired s (t.markStalled x a).1 := by
  unfold State.markStalled
  refine foldl_fst (fun r a h => ?_) _ h
  split
  · exact h
  · refine foldl_fst (fun r a h => ?_) _ h
    split
    · split
      · dsimp only
        exact h.modTask ..
      · exact h
    · exact h

theorem execVersionStallLimit (x record) : WiredOut s (Machine.execVersionStallLimit x record t) := by
  unfold Machine.execVersionStallLimit
  dsimp only
  refine WiredOut.branch ?_ ?_
  · exact h.next
  · exact ((branch ((h.markStalled ..).modRec ..) (h.markStalled ..)).event ..).next

end

end Wired

end Sys2Proof.Safety
end

section
/-! SUPPORT. Tags and lanes: what the command processor and the Nunex ports keep. -/

namespace Sys2Proof.Safety

open Machine

namespace Wired

section
variable {s t : State} (h : Wired s t)
include h

/-! ## Commands -/

theorem acts (h' op spell) : Wired s (t.acts h' op spell) := h.modCr ..

theorem serve (c op spell) {f : State → State} (hf : ∀ u, Wired s u → Wired s (f u)) : WiredOut s (t.serve c op spell f) := by
  unfold State.serve
  split
  · exact h.next
  · split
    · exact (hf _ h).next
    · exact (h.finish ..).next

theorem command (c op spell) {f : State → State} (hf : ∀ u, Wired s u → Wired s (f u)) : WiredOut s (t.command c op spell f) :=
  h.serve _ _ _ fun _ h => hf _ (h.acts ..)

theorem execCommandDoorbell (f r v) : WiredOut s (Machine.execCommandDoorbell f r v t) := by
  unfold Machine.execCommandDoorbell
  dsimp only
  split
  · exact h.next
  · split
    · exact (h.modCr ..).next
    · exact (h.badAccess ..).next

theorem execCompletionDoorbell (f r v) : WiredOut s (Machine.execCompletionDoorbell f r v t) := by
  unfold Machine.execCompletionDoorbell
  dsimp only
  split
  · exact h.next
  · split
    · exact ((h.modCq ..).drainCq ..).next
    · exact (h.badAccess ..).next

theorem execMsixDelay (f r) : WiredOut s (Machine.execMsixDelay f r t) := by
  unfold Machine.execMsixDelay
  split
  · exact h.next
  · exact (h.signal ..).next

theorem execCommandPacket (f r host) : WiredOut s (Machine.execCommandPacket f r host t) := by
  unfold Machine.execCommandPacket
  dsimp only
  split
  · exact h.next
  · split
    · exact ((h.modCr ..).post ..).next
    · split
      · exact h.next
      · split
        · exact (((h.modCr ..).modCr ..).modCtx ..).next
        · exact ((h.modCr ..).post ..).next

/-! ## Links -/

theorem logPort (p) : Wired s (t.logPort p) := h.log ..
theorem portChange (kind p) : Wired s (t.portChange kind p) := (h.logPort ..).fabricChange ..
theorem takeDown (p) : Wired s (t.takeDown p) := (h.modPort fun r => r.inState 0 (by decide)).portChange ..

theorem movePacket (p v bs) : Wired s (t.movePacket p v bs) := by
  unfold State.movePacket
  split
  · exact (h.modPort_lanes fun x => x.sendBytes_lanes ..).eachOp fun o => by grind
  · exact h.modPort_lanes fun x => x.sendBytes_lanes ..

theorem moveWaiting (p) : Wired s (t.moveWaiting p) := by
  unfold State.moveWaiting
  refine foldl (fun u a h => ?_) _ h
  dsimp only
  exact foldl (fun _ _ h => h.movePacket ..) _ (h.linkOf ..)

theorem execLaneFail (p l) : WiredOut s (Machine.execLaneFail p l t) := by
  unfold Machine.execLaneFail
  dsimp only
  split
  · exact h.next
  next runs =>
    obtain ⟨good, lane⟩ : bit (t.port p).failed l = false ∧ l < 5 := by simp_all
    have failing := h.modPort (p := p) (f := fun _ => { t.port p with failed := (t.port p).failed + 2 ^ l })
      fun r => ⟨failed_add_lane r.1 lane good, r.2⟩
    split
    · exact (failing.takeDown ..).next
    · split
      · exact ((failing.modPort fun r => ⟨r.1, .inr rfl, r.2.2⟩).logPort ..).next
      · split
        · exact (((failing.modPort fun r => ⟨r.1, .inr rfl, (by decide : 3 < 4)⟩).moveWaiting ..).portChange ..).next
        · exact ((failing.modPort fun r => r.inState (if _ then 3 else 2) (by split <;> decide)).portChange ..).next

theorem replayFlits (p) : Wired s (t.replayFlits p) := (h.linkOf ..).emit ..

theorem sendNak (p) : Wired s (t.sendNak p) := by
  unfold State.sendNak
  dsimp only
  split
  · exact h
  · exact h.modPort_lanes fun x => Port.pump_lanes _

theorem execFlitAckTimeout (p) : WiredOut s (Machine.execFlitAckTimeout p t) := by
  unfold Machine.execFlitAckTimeout
  split
  · exact h.next
  · exact (h.replayFlits ..).next

theorem execPortRetrain (p) : WiredOut s (Machine.execPortRetrain p t) := by
  unfold Machine.execPortRetrain
  dsimp only
  split
  · exact h.next
  · split
    · exact (h.linkOf ..).next
    · split
      · exact ((h.modPort fun r => r.inState 3 (by decide)).logPort ..).next
      · exact h.next

theorem execPortDown (p) : WiredOut s (Machine.execPortDown p t) := by
  unfold Machine.execPortDown
  split
  · exact h.next
  · exact (h.takeDown ..).next

theorem execPortRetrained (p lane3) : WiredOut s (Machine.execPortRetrained p lane3 t) := by
  unfold Machine.execPortRetrained
  dsimp only
  split
  · exact h.next
  · have up (k : Bool) := h.modPort (p := p) (f := fun x => { x with state := if k then 2 else 1, retrains := 0, resends := 0 })
      fun r => r.inState (if k then 2 else 1) (by cases k <;> decide)
    refine (modPort_lanes (branch ?_ (linkOf (replayFlits ?_ ..) ..)) fun x => x.pump_lanes).next <;>
      exact branch ((up _).portChange ..) ((up _).logPort ..)

end

end Wired

end Sys2Proof.Safety
end

section
/-! SUPPORT. Tags and lanes: what the fabric keeps. -/

namespace Sys2Proof.Safety

open Machine

namespace Wired

section
variable {s t : State} (h : Wired s t)
include h

theorem setStream' (n x) : Wired s (t.setStream' n x) := by
  unfold State.setStream'
  exact h.modEngine ..

theorem modStream (h' f) : Wired s (t.modStream h' f) := by
  unfold State.modStream
  split
  · exact h.setStream' ..
  · exact h

theorem ingestEvent (x h' code n) : Wired s (t.ingestEvent x h' code n) := h.event ..
theorem orphanReads (h') : Wired s (t.orphanReads h') := h.eachOp fun o => by grind

theorem stopStream (h' code) : Wired s (t.stopStream h' code) := by
  unfold State.stopStream
  split
  · split
    · exact h
    · exact ((h.orphanReads ..).setStream' ..).ingestEvent ..
  · exact h

theorem answerFar (c key mask data) : Wired s (t.answerFar c key mask data) := by
  unfold State.answerFar
  split
  · exact h
  · refine foldl (fun u a h => ?_) _ h
    dsimp only
    split
    · exact (h.modRamb ..).goOn ..
    · exact h

theorem arriveFar (o c key data) : Wired s (t.arriveFar o c key data) := by
  unfold State.arriveFar
  split
  · exact h
  · dsimp only
    exact (((branch h (h.hold ..)).modRamb ..).answerFar ..).goOn ..

theorem coreOpFails (o c key code) : Wired s (t.coreOpFails o c key code) := by
  unfold State.coreOpFails
  split
  · dsimp only
    split
    · exact ((h.answerFar ..).dropFetch ..).goOn ..
    · exact (h.answerFar ..).failCore ..
  · split <;> exact h.failCore ..

theorem answer (p code data) : Wired s (t.answer p code data).1 := h.build ..

theorem respondLate (p code) : Wired s (t.respondLate p code) := by
  unfold State.respondLate
  dsimp only
  exact ((h.answer ..).nunex ..).transmit ..

theorem flightFails (x t') : Wired s (t.flightFails x t') := h.modCtx ..

theorem issuerFails (b code) : Wired s (t.issuerFails b code) := by
  unfold State.issuerFails
  split
  · split
    · exact h.failTask ..
    · exact h
  · exact h.failRecord ..
  · exact h.flightFails ..

theorem copyOver (b code) : Wired s (t.copyOver b code) := by
  unfold State.copyOver
  dsimp only
  split
  · exact h.emit ..
  · exact (h.emit ..).issuerFails ..

theorem copyFailed (i code) : Wired s (t.copyFailed i code) := by
  unfold State.copyFailed
  split
  · exact h.nunex ..
  · exact h

theorem copyEnd (i) : Wired s (t.copyEnd i) := by
  unfold State.copyEnd
  split
  · split
    · exact h
    · exact (h.nunex ..).copyOver ..
  · exact h

theorem opFails (o code) : Wired s (t.opFails o code) := by
  unfold State.opFails
  split
  · exact h.coreOpFails ..
  · exact (h.answerFar ..).goOn ..
  · exact h.goOn ..
  · split
    · exact h.failTask ..
    · exact h
  · exact h.failRecord ..
  · exact h.addFailed ..
  · exact (h.eachOp fun o => by grind).respondLate ..
  · exact h.flightFails ..
  · exact (h.copyFailed ..).copyEnd ..
  · split
    · exact ((h.graphFail ..).settle ..).unspill
    · exact h
  · exact h.stopStream ..
  · exact h

theorem opDone (o data) : Wired s (t.opDone o data) := by
  unfold State.opDone
  split
  · split
    · exact h.arriveFar ..
    · split
      · exact h.acked ..
      · exact h
  · exact (h.answerFar ..).goOn ..
  · exact h.goOn ..
  · split
    · exact h
    · exact h.respondLate ..
  · exact h.copyEnd ..
  · exact h.modStream ..
  · exact h

theorem tryLeave : Wired s t.tryLeave := by
  unfold State.tryLeave
  split
  · exact h
  · split
    · exact h
    · dsimp only
      exact ((h.sendManager ..).nunex ..).finish ..

theorem failOps (sel code) : Wired s (t.failOps sel code) := by
  unfold State.failOps
  dsimp only
  exact (((foldl (fun _ _ h => h.opFails ..) _ (h.someOps ..)).sendWaiting ..).sendWaiting ..).tryLeave

theorem remoteWrite (p data) : Wired s (t.remoteWrite p data).1 := by
  unfold State.remoteWrite
  split
  · exact h
  · split
    · dsimp only
      split
      · dsimp only
        exact h.set ..
      · exact h
    · dsimp only
      split
      next e => exact (h.write ..).of_fst e
      next e =>
        have h := (h.write ..).of_fst e
        dsimp only
        exact h.noteAcc ..

theorem remoteRead' (p n) : Wired s (t.remoteRead' p n).1 := by
  unfold State.remoteRead'
  split
  · exact h
  · dsimp only
    split
    · exact h
    · split
      · exact h
      · dsimp only
        exact h.noteAcc ..
      · dsimp only
        split
        · exact h
        · exact h.noteAcc ..

theorem remoteAdd (ref inc) : Wired s (t.remoteAdd ref inc).1 := by
  unfold State.remoteAdd
  split
  · exact h
  · dsimp only
    split
    · split
      · dsimp only
        split
        · exact h
        · exact h.applyAdd ..
      · exact h
    · exact h

theorem pulled (p) : Wired s (t.pulled p).1 := by
  unfold State.pulled
  dsimp only
  split
  · dsimp only
    exact h.remoteRead' ..
  · split
    · dsimp only
      exact h.remoteRead' ..
    · split
      · dsimp only
        refine foldl_fst (fun r a h => ?_) _ (h.remoteRead' ..)
        split
        · exact h
        · exact h.request ..
      · split
        · dsimp only
          refine foldl_fst (fun r a h => ?_) _ (h.remoteRead' ..)
          split
          · exact h
          · exact h.request ..
        · dsimp only
          refine foldl_fst (fun r a h => ?_) _ (h.remoteRead' ..)
          split
          · exact h
          · exact h.request ..

theorem place (p) : Wired s (t.place p).1 := by
  unfold State.place
  split
  · dsimp only
    exact h.remoteRead' ..
  · dsimp only
    split
    · split
      · split
        · exact h
        · dsimp only
          exact h.remoteAdd ..
      · split
        · exact h
        · dsimp only
          exact h.remoteAdd ..
    · split
      · dsimp only
        exact h.remoteWrite ..
      · dsimp only
        exact (h.remoteWrite ..).remoteAdd ..
  · dsimp only
    exact h.remoteAdd ..
  · exact h.pulled ..
  · dsimp only
    exact h.nunex ..
  · dsimp only
    exact h.remoteWrite ..

theorem placeAnswer (p q) : Wired s (t.placeAnswer p q).1 := by
  unfold State.placeAnswer
  dsimp only
  split
  · dsimp only
    split
    · exact h
    · exact h.place ..
  · dsimp only
    refine transmit ?_ ..
    refine answer ?_ ..
    split
    · exact h
    · exact h.place ..

theorem placeHeld (q n) : Wired s (t.placeHeld q n).1 := by
  induction n generalizing t q with
  | zero => exact h
  | succ n ih =>
    unfold State.placeHeld
    split
    · dsimp only
      exact ih (h.placeAnswer ..) ..
    · exact h

theorem dropPacket (die) : Wired s (t.dropPacket die) := by
  unfold State.dropPacket
  split <;> exact h.nunex ..
theorem setStream (q) : Wired s (t.setStream q) := h.nunex ..

theorem arrive (p) : Wired s (t.arrive p) := by
  unfold State.arrive
  split
  · exact h
  · dsimp only
    split
    · exact (((h.nunex ..).placeAnswer ..).placeHeld ..).setStream ..
    · split
      · split
        · exact (h.nunex ..).transmit ..
        · exact h.nunex ..
      · split
        · exact h.nunex ..
        · refine branch ?_ ?_
          · exact (h.nunex ..).setStream ..
          · exact (((h.nunex ..).dropPacket ..).build ..).transmit ..

theorem receive (op p) {f : State → State} (hf : ∀ u, Wired s u → Wired s (f u)) : WiredOut s (t.receive op p f) := by
  unfold State.receive
  split
  · exact h.next
  · split
    · exact (h.dropPacket ..).next
    · split
      · exact h.next
      · exact (hf _ h).next

theorem takeResponse (p) : Wired s (t.takeResponse p) := by
  unfold State.takeResponse
  split
  · exact h
  · dsimp only
    exact (branch ((h.endOp ..).opDone ..) ((h.endOp ..).opFails ..)).tryLeave

theorem takeNak (p) : Wired s (t.takeNak p) := by
  unfold State.takeNak
  split
  · exact h.transmit ..
  · exact h

theorem execRead (p) : WiredOut s (Machine.execRead p t) := h.receive _ _ fun _ h => h.arrive ..
theorem execWrite (p) : WiredOut s (Machine.execWrite p t) := h.receive _ _ fun _ h => h.arrive ..
theorem execWriteSignal (p) : WiredOut s (Machine.execWriteSignal p t) := h.receive _ _ fun _ h => h.arrive ..
theorem execWaymarkAdd (p) : WiredOut s (Machine.execWaymarkAdd p t) := h.receive _ _ fun _ h => h.arrive ..
theorem execBulkPull (p) : WiredOut s (Machine.execBulkPull p t) := h.receive _ _ fun _ h => h.arrive ..
theorem execBulkWrite (p) : WiredOut s (Machine.execBulkWrite p t) := h.receive _ _ fun _ h => h.arrive ..
theorem execResponse (p) : WiredOut s (Machine.execResponse p t) := h.receive _ _ fun _ h => h.takeResponse ..
theorem execE2eNak (p) : WiredOut s (Machine.execE2eNak p t) := h.receive _ _ fun _ h => h.takeNak ..

theorem packetIn (p) : Wired s (t.packetIn p) := by
  unfold State.packetIn
  split
  · exact h.dropPacket ..
  · split
    · exact h.takeResponse ..
    · exact h.takeNak ..
    · exact h.arrive ..

theorem execResendTimeout (die tag) : WiredOut s (Machine.execResendTimeout die tag t) := by
  unfold Machine.execResendTimeout
  split
  · exact h.next
  · split
    · exact h.next
    · split
      · exact (((h.endOp ..).opFails ..).tryLeave).next
      · dsimp only
        exact ((h.eachOp fun o => by grind).transmitOver ..).next

theorem newCopy (b) : Wired s (t.newCopy b).1 := h.nunex ..

theorem sendCopy (x die i op dst l) : Wired s (t.sendCopy x die i op dst l) := by
  unfold State.sendCopy
  dsimp only
  refine branch ?_ ?_
  · refine foldl_fst (fun r a h => ?_) _ h
    split
    · exact h
    · exact h.request ..
  · refine copyEnd ?_ ..
    refine copyFailed ?_ ..
    refine foldl_fst (fun r a h => ?_) _ h
    split
    · exact h
    · exact h.request ..

theorem copyStops (b w a store) : Wired s (t.copyStops b w a store) := by
  unfold State.copyStops
  split
  · exact h.suspend ..
  · exact (h.noteAcc ..).copyOver ..

theorem execBulkCopy (y die src dst n) : WiredOut s (Machine.execBulkCopy y die src dst n t) := by
  unfold Machine.execBulkCopy
  dsimp only
  split
  · exact h.next
  · split
    · exact h.next
    · split
      · split
        · exact (h.copyStops ..).next
        · split
          · split
            next e => exact (((h.write ..).of_fst e).copyOver ..).next
            next e => exact (((h.write ..).of_fst e).copyStops ..).next
          · exact ((h.newCopy ..).sendCopy ..).next
      · split
        · exact ((h.newCopy ..).sendCopy ..).next
        · exact (h.copyOver ..).next

end

end Wired

end Sys2Proof.Safety
end

section
/-! SUPPORT. Tags and lanes: what the fabric manager keeps. -/

namespace Sys2Proof.Safety

open Machine

namespace Wired

section
variable {s t : State} (h : Wired s t)
include h

theorem toMembers (sub m) : Wired s (t.toMembers sub m) := foldl (fun _ _ h => h.sendManager ..) _ h

theorem restorePorts : Wired s t.restorePorts := by
  refine foldl (fun _ _ h => branch h (branch (logPort (h.modPort fun _ => ?_) ..) h)) _ h
  exact ⟨(by decide : 0 < 2 ^ 5), .inl (by decide : 4 < 5), (by decide : 3 < 4)⟩

theorem execFabricJoin (h' role request) : WiredOut s (Machine.execFabricJoin h' role request t) := by
  unfold Machine.execFabricJoin
  refine h.command _ _ _ fun u h => ?_
  split
  · exact h.finish ..
  · dsimp only
    exact ((branch h.restorePorts h).nunex ..).sendJoin ..

theorem takeId (ident epoch role term mgr) : Wired s (t.takeId ident epoch role term mgr) := h.nunex ..

theorem execJoinTimeout : WiredOut s (Machine.execJoinTimeout t) := by
  unfold Machine.execJoinTimeout
  split
  · exact h.next
  · split
    · exact h.next
    · split
      · dsimp only
        exact (((h.takeId ..).nunex ..).finish ..).next
      · exact ((h.nunex ..).finish ..).next

theorem recordCommit (hall job step) : Wired s (t.recordCommit hall job step) := by
  unfold State.recordCommit
  split
  · exact h
  · exact h.nunex ..

theorem sendCommits : Wired s t.sendCommits := foldl (fun _ _ h => h.toMembers ..) _ (h.nunex ..)

theorem addReady (r) : Wired s (t.addReady r) := by
  unfold State.addReady
  dsimp only
  refine branch ?_ ?_
  · exact h.nunex ..
  · refine sendCommits ?_
    refine nunex ?_ ..
    refine branch ?_ ?_
    · exact (branch (((h.nunex ..).recordCommit ..).sendManager ..) ((h.nunex ..).recordCommit ..)).sendManager ..
    · refine branch ?_ ?_
      · exact ((h.nunex ..).recordCommit ..).sendManager ..
      · exact (h.nunex ..).recordCommit ..

theorem setPair (on) : Wired s (t.setPair on) := (((h.nunex ..).sendCommits).toMembers ..).fabricChange ..

theorem act (c) : Wired s (t.act c) := by
  unfold State.act
  dsimp only
  split
  · refine setPair ?_ ..
    split
    · refine addReady ?_ ..
      split
      · exact (foldl (fun _ _ h => h.sendManager ..) _ h).fabricChange ..
      · exact foldl (fun _ _ h => h.sendManager ..) _ h
    · split
      · exact (foldl (fun _ _ h => h.sendManager ..) _ h).fabricChange ..
      · exact foldl (fun _ _ h => h.sendManager ..) _ h
  · split
    · refine addReady ?_ ..
      split
      · exact (foldl (fun _ _ h => h.sendManager ..) _ h).fabricChange ..
      · exact foldl (fun _ _ h => h.sendManager ..) _ h
    · split
      · exact (foldl (fun _ _ h => h.sendManager ..) _ h).fabricChange ..
      · exact foldl (fun _ _ h => h.sendManager ..) _ h

theorem change (waits c) : Wired s (t.change waits c) := by
  unfold State.change
  split
  · exact (h.nunex ..).sendManager ..
  · exact h.act ..

theorem announce (waits id first event) : Wired s (t.announce waits id first event) := by
  unfold State.announce
  split
  · exact h
  · dsimp only
    exact h.change ..

theorem execJoin (m) : WiredOut s (Machine.execJoin m t) := by
  unfold Machine.execJoin
  split
  · exact h.next
  · split
    · exact (h.sendManager ..).next
    · dsimp only
      exact ((h.nunex ..).announce ..).next

theorem execGrant (m) : WiredOut s (Machine.execGrant m t) := by
  unfold Machine.execGrant
  split
  · exact h.next
  · split
    · split
      · exact ((h.nunex ..).finish ..).next
      · dsimp only
        exact ((h.takeId ..).finish ..).next
    · split
      · exact ((h.takeId ..).fabricChange ..).next
      · exact h.next

theorem execFabricLeave (h') : WiredOut s (Machine.execFabricLeave h' t) := by
  unfold Machine.execFabricLeave
  refine h.command _ _ _ fun u h => ?_
  split
  · exact h.finish ..
  · exact (h.nunex ..).tryLeave

theorem abandonStep (job step) : Wired s (t.abandonStep job step) := (h.nunex ..).change ..
theorem abandonFor (id) : Wired s (t.abandonFor id) := foldl (fun _ _ h => h.abandonStep ..) _ h

theorem execReady (m) : WiredOut s (Machine.execReady m t) := by
  unfold Machine.execReady
  split
  · exact h.next
  · split
    · exact (h.sendManager ..).next
    · dsimp only
      exact (h.change ..).next

theorem endCommit (x code) : Wired s (t.endCommit x code) := by
  unfold State.endCommit
  split
  · exact (h.modCtx ..).finish ..
  · exact h

theorem execCommit (m) : WiredOut s (Machine.execCommit m t) := by
  unfold Machine.execCommit
  split
  · exact h.next
  · exact (foldl (fun _ _ h => branch (h.endCommit ..) h) _ h).next

theorem execAbandon (m) : WiredOut s (Machine.execAbandon m t) := by
  unfold Machine.execAbandon
  split
  · exact h.next
  · split
    · exact (h.abandonStep ..).next
    · split
      · exact h.next
      · dsimp only
        exact (foldl (fun _ _ h => branch ((branch (h.endCommit ..) h).modCtx ..) (branch (h.endCommit ..) h)) _ h).next

theorem takeRecord (m kind) : Wired s (t.takeRecord m kind) := by
  unfold State.takeRecord
  split
  · exact h.nunex ..
  · exact h.nunex ..
  · exact h.nunex ..
  · exact h.nunex ..
  · exact h.nunex ..
  · exact h

theorem mirrorAcked (m) : Wired s (t.mirrorAcked m) := by
  unfold State.mirrorAcked
  dsimp only
  split
  · split
    · exact (h.nunex ..).act ..
    · exact h
  · exact (h.nunex ..).sendCommits

theorem execMirror (m kind) : WiredOut s (Machine.execMirror m kind t) := by
  unfold Machine.execMirror
  dsimp only
  split
  · exact h.next
  · split
    · split
      · exact (h.mirrorAcked ..).next
      · exact h.next
    · exact ((branch ((branch (h.takeRecord ..) h).recordCommit ..) (branch (h.takeRecord ..) h)).sendManager ..).next

theorem changePair (on) : Wired s (t.changePair on) := by
  unfold State.changePair
  split
  · exact h
  · exact h.change ..

theorem execPairBroken : WiredOut s (Machine.execPairBroken t) := by
  unfold Machine.execPairBroken
  split
  · exact h.next
  · exact (h.changePair ..).next

theorem seeTerm (term) : Wired s (t.seeTerm term) := by
  unfold State.seeTerm
  split
  · exact h.nunex ..
  · exact h

theorem newStandby : Wired s t.newStandby := by
  unfold State.newStandby
  dsimp only
  refine foldl (fun _ _ h => h.sendManager ..) _ (foldl (fun _ _ h => branch (h.sendManager ..) h) _ ?_)
  exact (foldl (fun _ _ h => h.sendManager ..) _ (h.nunex ..)).sendManager ..

theorem execHeartbeat (m) : WiredOut s (Machine.execHeartbeat m t) := by
  unfold Machine.execHeartbeat
  split
  · exact h.next
  · split
    · split
      · exact (h.changePair ..).next
      · exact h.next
    · dsimp only
      split
      · split
        · exact h.newStandby.next
        · exact (h.seeTerm ..).next
      · split
        · split
          · exact ((h.nunex ..).announce ..).next
          · exact h.next
        · exact h.next

theorem execHeartbeatTimer : WiredOut s (Machine.execHeartbeatTimer t) := by
  unfold Machine.execHeartbeatTimer
  split
  · exact h.next
  · dsimp only
    split
    · exact ((branch ((h.toMembers ..).sendManager ..) (h.toMembers ..)).sendManager ..).next
    · exact (h.sendManager ..).next

theorem loseStandby : Wired s t.loseStandby := (foldl (fun _ _ h => h.act ..) _ (h.nunex ..)).sendCommits

theorem execMemberFailed (ident) : WiredOut s (Machine.execMemberFailed ident t) := by
  unfold Machine.execMemberFailed
  dsimp only
  split
  · exact h.next
  · split
    · exact h.next
    · split
      · exact ((branch (((h.nunex ..).abandonFor ..).loseStandby) ((h.nunex ..).abandonFor ..)).announce ..).next
      · exact (((((h.nunex ..).abandonFor ..).nunex ..).announce ..).announce ..).next

theorem execManagerSilence : WiredOut s (Machine.execManagerSilence t) := by
  unfold Machine.execManagerSilence
  split
  · exact h.next
  · dsimp only
    exact (((h.nunex ..).toMembers ..).fabricChange ..).next

theorem execTakeover (m) : WiredOut s (Machine.execTakeover m t) := by
  unfold Machine.execTakeover
  split
  · exact h.next
  · exact ((h.seeTerm ..).fabricChange ..).next

theorem execMembership (m) : WiredOut s (Machine.execMembership m t) := by
  unfold Machine.execMembership
  split
  · exact h.next
  · split
    · exact (branch h (h.fabricChange ..)).next
    · split
      · split
        · split
          · exact h.next
          · dsimp only
            exact (((h.nunex ..).abandonFor ..).announce ..).next
        · exact h.next
      · dsimp only
        refine Wired.next ?_
        split
        · split
          · split
            · exact (branch (((h.seeTerm ..).nunex ..).failOps ..) ((h.seeTerm ..).nunex ..)).fabricChange ..
            · split
              · exact (branch (((h.seeTerm ..).nunex ..).failOps ..) ((h.seeTerm ..).nunex ..)).fabricChange ..
              · split
                · exact (branch (((h.seeTerm ..).nunex ..).failOps ..) ((h.seeTerm ..).nunex ..)).fabricChange ..
                · split
                  · exact ((h.seeTerm ..).nunex ..).failOps ..
                  · exact (h.seeTerm ..).nunex ..
          · split
            · exact (branch (((h.seeTerm ..).nunex ..).failOps ..) ((h.seeTerm ..).nunex ..)).fabricChange ..
            · split
              · exact (branch (((h.seeTerm ..).nunex ..).failOps ..) ((h.seeTerm ..).nunex ..)).fabricChange ..
              · split
                · exact (branch (((h.seeTerm ..).nunex ..).failOps ..) ((h.seeTerm ..).nunex ..)).fabricChange ..
                · split
                  · exact ((h.seeTerm ..).nunex ..).failOps ..
                  · exact (h.seeTerm ..).nunex ..
        · split
          · exact (branch (((h.seeTerm ..).nunex ..).failOps ..) ((h.seeTerm ..).nunex ..)).fabricChange ..
          · split
            · exact (branch (((h.seeTerm ..).nunex ..).failOps ..) ((h.seeTerm ..).nunex ..)).fabricChange ..
            · split
              · exact (branch (((h.seeTerm ..).nunex ..).failOps ..) ((h.seeTerm ..).nunex ..)).fabricChange ..
              · split
                · exact ((h.seeTerm ..).nunex ..).failOps ..
                · exact (h.seeTerm ..).nunex ..

theorem manage (e) : WiredOut s (t.manage e) := by
  unfold State.manage
  split
  · exact h.execJoin ..
  · exact h.execGrant ..
  · exact h.execHeartbeat ..
  · exact h.execMembership ..
  · exact h.execReady ..
  · exact h.execCommit ..
  · exact h.execAbandon ..
  · exact h.execMirror ..
  · exact h.execTakeover ..
  · exact h.next

theorem takeInbox : Wired s t.takeInbox := by
  refine foldl (fun u a h => ?_) _ (h.nunex ..)
  split
  next e => exact (h.manage a).of_next e
  · exact h

theorem unpackFlit (p v payload) : Wired s (t.unpackFlit p v payload) :=
  (foldl (fun _ _ h => h.packetIn ..) _ (h.linkOf ..)).takeInbox

theorem execFlitReceive (p f fec) : WiredOut s (Machine.execFlitReceive p f fec t) := by
  unfold Machine.execFlitReceive
  dsimp only
  split
  · exact h.next
  · split
    · exact (h.sendNak ..).next
    · have good := h.advance.modPort_lanes (p := p) (f := fun x => { (x.ackTo (bits (field f 0 8) 23 12)).credit (field f 0 8) with
          fec := satAdd 32 x.fec (Config.fecSymbols t.tick), rxSeq := (x.rxSeq + 1) % 4096, discarding := false, nak := false })
        fun x => x.ackTo_lanes _
      exact (((branch (good.replayFlits ..) good).modPort_lanes fun x => x.pump_lanes).unpackFlit ..).next

end

end Wired

end Sys2Proof.Safety
end

section
/-! SUPPORT. Tags and lanes: what ingest keeps. -/

namespace Sys2Proof.Safety

open Machine

namespace Wired

section
variable {s t : State} (h : Wired s t)
include h

theorem ingestFails (h' x a store) : Wired s (t.ingestFails h' x a store) := by
  unfold State.ingestFails
  split
  · exact h.suspend ..
  · exact (h.noteAcc ..).stopStream ..

theorem execIngestOpen (h' config start engine) : WiredOut s (Machine.execIngestOpen h' config start engine t) := by
  unfold Machine.execIngestOpen
  refine h.serve _ _ _ fun u h => ?_
  split
  · exact h.finish ..
  · split
    · exact h.suspend ..
    · exact (h.noteAcc ..).finish ..
    · split
      · exact h.finish ..
      · split
        · exact h.finish ..
        · split
          · exact h.finish ..
          · dsimp only
            exact ((h.setStream' ..).modCtx ..).finish ..

theorem closeStream (h') : Wired s (t.closeStream h') := by
  unfold State.closeStream
  split
  · exact h
  · dsimp only
    exact foldl (fun _ _ h => h.finish ..) _ ((h.orphanReads ..).modEngine ..)

theorem execIngestClose (h' handle) : WiredOut s (Machine.execIngestClose h' handle t) := by
  unfold Machine.execIngestClose
  refine h.command _ _ _ fun u h => ?_
  split
  · exact h.finish ..
  · split
    · exact h.finish ..
    · exact (h.closeStream ..).finish ..

theorem dropFeed (h' f code) : Wired s (t.dropFeed h' f code) := (h.modStream ..).finish ..

theorem feedStops (h' x f a store) : Wired s (t.feedStops h' x f a store) := by
  unfold State.feedStops
  dsimp only
  split
  · exact h.ingestFails ..
  · exact (h.ingestFails ..).dropFeed ..

theorem checkFeed (h' x f) : Wired s (t.checkFeed h' x f).1 := by
  unfold State.checkFeed
  split
  · exact h
  · split
    · dsimp only
      exact h.feedStops ..
    · split
      · dsimp only
        exact h.modStream ..
      · dsimp only
        exact h.dropFeed ..

theorem putRefs (h' x pos bs) : Wired s (t.putRefs h' x pos bs).1 := by
  unfold State.putRefs
  refine foldl_fst (fun r a h => ?_) _ h
  split
  · exact h
  · exact h.write ..

theorem pump (h' n) : Wired s (t.pump h' n) := by
  induction n generalizing t with
  | zero => exact h
  | succ n ih =>
    unfold State.pump
    split
    · exact h
    · split
      · exact h
      · split
        next e =>
          have h := (h.checkFeed ..).of_fst e
          split
          · exact h
          · exact ih h
        next e =>
          have h := (h.checkFeed ..).of_fst e
          dsimp only
          split
          · exact h
          · split
            · exact h.feedStops ..
            · split
              next e => exact ((h.putRefs ..).of_fst e).feedStops ..
              next e =>
                have h := (h.putRefs ..).of_fst e
                split
                · exact ih (((h.modStream ..).modStream ..).dropFeed ..)
                · exact (h.modStream ..).modStream ..

theorem execIngestFeed (h' handle final segment count) :
    WiredOut s (Machine.execIngestFeed h' handle final segment count t) := by
  unfold Machine.execIngestFeed
  refine h.command _ _ _ fun u h => ?_
  split
  · exact h.finish ..
  · split
    · exact h.finish ..
    · exact (h.modStream ..).pump ..

theorem askSource (h' x f) : Wired s (t.askSource h' x f).1 := by
  unfold State.askSource
  refine foldl_fst (fun r a h => ?_) _ h
  split
  · exact h
  · dsimp only
    exact h.request ..

theorem setFetch (h' f) : Wired s (t.setFetch h' f) := h.modStream ..

theorem sourceOn (h' x pos n x') : Wired s (t.sourceOn h' x pos n x').1 := by
  induction n generalizing t h' x pos x' with
  | zero => exact h
  | succ n ih =>
    unfold State.sourceOn
    split
    · dsimp only
      split
      · dsimp only
        exact (h.askSource ..).ingestFails ..
      · split
        · exact ih h ..
        · dsimp only
          exact (h.askSource ..).setFetch ..
    · split
      · dsimp only
        exact h.ingestFails ..
      · split
        · dsimp only
          exact h.setFetch ..
        · dsimp only
          split
          · exact ih h ..
          · dsimp only
            exact h.ingestFails ..

theorem startClip (h' x pos) : Wired s (t.startClip h' x pos).1 := by
  unfold State.startClip
  split
  · exact h.sourceOn ..
  · split
    · dsimp only
      exact h.ingestFails ..
    · dsimp only
      exact h.sourceOn ..

theorem execDecodeAccessUnit (e) : WiredOut s (Machine.execDecodeAccessUnit e t) := by
  unfold Machine.execDecodeAccessUnit
  split
  · exact h.next
  · split
    · exact h.next
    · dsimp only
      split
      · refine Wired.next ?_
        refine advance ?_
        split
        · dsimp only
          exact h.modEngine ..
        · exact (h.modEngine ..).startClip ..
      · split
        · refine Wired.next ?_
          refine modStream ?_ ..
          split
          · dsimp only
            exact h.modEngine ..
          · exact (h.modEngine ..).startClip ..
        · refine Wired.next ?_
          refine advance ?_
          refine modEngine ?_ ..
          refine modStream ?_ ..
          split
          · dsimp only
            exact h.modEngine ..
          · exact (h.modEngine ..).startClip ..

theorem execClipWrite (e h') : WiredOut s (Machine.execClipWrite e h' t) := by
  unfold Machine.execClipWrite
  split
  · exact h.next
  · split
    · exact h.next
    · split
      · exact h.next
      · dsimp only
        split
        next e => exact (((h.write ..).of_fst e).ingestFails ..).next
        next e =>
          have h := (h.write ..).of_fst e
          split
          next e => exact (((h.write ..).of_fst e).ingestFails ..).next
          next e =>
            have h := (h.write ..).of_fst e
            refine Wired.next (pump (sendAdd ?_ ..) ..)
            refine branch (ingestEvent ?_ ..) ?_ <;> exact branch ((h.modStream ..).modEngine ..) (h.modStream ..)

theorem writeCursors (x step) : Wired s (t.writeCursors x step).1 := by
  unfold State.writeCursors
  refine foldl_fst (fun r a h => ?_) _ h
  split
  · exact h
  · split
    next e => exact (h.write ..).of_fst e
    next e =>
      have h := (h.write ..).of_fst e
      dsimp only
      exact h.suspend ..
    next e =>
      have h := (h.write ..).of_fst e
      dsimp only
      exact h.ingestFails ..

theorem rewind (h' x) : Wired s (t.rewind h' x) := (((h.orphanReads ..).setCount ..).setCount ..).modStream ..

end

end Wired

end Sys2Proof.Safety
end

section
/-! SUPPORT. Tags and lanes: what repair keeps. -/

namespace Sys2Proof.Safety

open Machine

namespace Wired

section
variable {s t : State} (h : Wired s t)
include h

theorem replaceCore (site) : Wired s (t.replaceCore site) := by
  unfold State.replaceCore
  dsimp only
  split
  · exact h.set ..
  · split
    · exact (h.set ..).retire ..
    · exact (h.set ..).modCore ..

theorem decide_ (d) : Wired s (t.decide_ d) := by
  unfold State.decide_
  split
  · dsimp only
    split
    · exact h
    · split
      · exact (h.set ..).replaceCore ..
      · exact h.set ..
  · dsimp only
    split
    · exact h
    · split
      · exact h.set ..
      · split
        · exact (h.set ..).replaceCore ..
        · split
          · exact h.retire ..
          · exact h
  · exact h.replaceCore ..
  · exact (h.set ..).replaceCore ..
  · split
    · exact h.set ..
    · exact h

theorem settleDecisions (sel) : Wired s (t.settleDecisions sel) := by
  unfold State.settleDecisions
  dsimp only
  split
  · exact h
  · exact (foldl (fun _ _ h => h.decide_ ..) _ (h.set ..)).newGeneration

theorem moveMarks (n away) : Wired s (t.moveMarks n away) := h.modWmk ..
theorem saveStores (n) : Wired s (t.saveStores n) := (h.set ..).loseStores ..

theorem restoreStores (n) : Wired s (t.restoreStores n) := by
  unfold State.restoreStores
  split
  · exact h
  next cells bad _ =>
    exact h.set ..

theorem clusterReset (n) : Wired s (t.clusterReset n) := by
  unfold State.clusterReset
  dsimp only
  refine settleDecisions ?_ ..
  exact ((((foldl (fun _ _ h => h.flushStores ..) _ (h.failAll ..)).loseStash ..).loseStores ..).set ..).moveMarks ..

theorem wideShallow (n on) : Wired s (t.wideShallow n on) := foldl (fun _ _ h => h.modCore ..) _ h

theorem endRollCall (r) : Wired s (t.endRollCall r) := by
  unfold State.endRollCall
  split
  · exact (h.set ..).finish ..
  · exact h.set ..

theorem execRollcallRun (h' clusters maxpar) : WiredOut s (Machine.execRollcallRun h' clusters maxpar t) := by
  unfold Machine.execRollcallRun
  refine h.command _ _ _ fun u h => ?_
  split
  · exact h.finish ..
  · split
    · exact h.finish ..
    · dsimp only
      exact h.endRollCall ..

theorem beginTest (n) : Wired s (t.beginTest n) := (((h.moveMarks ..).saveStores ..).modCluster ..).wideShallow ..

theorem endTest (n blocks rows) : Wired s (t.endTest n blocks rows) := by
  unfold State.endTest
  dsimp only
  refine restoreStores ?_ ..
  split
  · refine newGeneration ?_
    refine retire ?_ ..
    exact (foldl (fun _ _ h => h.addDecision ..) _ (((h.modCluster ..).wideShallow ..).moveMarks ..)).settleDecisions ..
  · exact (foldl (fun _ _ h => h.addDecision ..) _ (((h.modCluster ..).wideShallow ..).moveMarks ..)).settleDecisions ..

theorem execRollcallCluster (n misr rows) : WiredOut s (Machine.execRollcallCluster n misr rows t) := by
  unfold Machine.execRollcallCluster
  split
  · exact h.next
  · split
    · exact h.next
    · split
      · exact (h.endRollCall ..).next
      · split
        · dsimp only
          split
          · exact h.next
          · split
            · exact (foldl (fun _ _ h => h.askInterrupt ..) _ h).next
            · exact (h.beginTest ..).next
        · dsimp only
          exact (((foldl (fun _ _ h => h.log ..) _ (h.set ..)).endTest ..).endRollCall ..).next

end

end Wired

end Sys2Proof.Safety
end

section
/-! SUPPORT. Tags and lanes: what submission and Thermos keep. -/

namespace Sys2Proof.Safety

open Machine

namespace Wired

section
variable {s t : State} (h : Wired s t)
include h

/-! ## Submission -/

theorem submitMarks (x a) : Wired s (t.submitMarks x a) := by
  unfold State.submitMarks
  split
  · exact h.noteAcc ..
  · exact h

theorem acceptGraph (x fn cq tag addr dist d b again) : Wired s (t.acceptGraph x fn cq tag addr dist d b again).1 :=
  (h.set ..).modCtx ..

theorem startGraph (g roots) : Wired s (t.startGraph g roots) := by
  unfold State.startGraph
  exact ((foldl (fun _ _ h => h.makeReady ..) _ (h.countGraph ..)).settle ..).unspill

theorem execGraphSubmit (h' addr) : WiredOut s (Machine.execGraphSubmit h' addr t) := by
  unfold Machine.execGraphSubmit
  refine h.command _ _ _ fun u h => ?_
  split
  · exact (h.submitMarks ..).finish ..
  · dsimp only
    exact ((h.acceptGraph ..).finish ..).startGraph ..

theorem execGraphAbort (h' handle) : WiredOut s (Machine.execGraphAbort h' handle t) := by
  unfold Machine.execGraphAbort
  refine h.command _ _ _ fun u h => ?_
  dsimp only
  refine finish ?_ ..
  split
  · split
    · exact h.abortGraph ..
    · exact h
  · exact h

/-! ## Thermos -/

theorem startCkpt (x step targets cmd) : Wired s (t.startCkpt x step targets cmd) := by
  unfold State.startCkpt
  split
  · exact h
  · split
    · exact h.setCtx ..
    · dsimp only
      exact foldl (fun _ _ h => h.thermosRef ..) _ (h.setCtx ..)

theorem writeBoundary (x step clean groups) : Wired s (t.writeBoundary x step clean groups).1 := by
  unfold State.writeBoundary
  dsimp only
  split
  · exact h
  · split
    next e => exact (h.write ..).of_fst e
    · exact h.suspend ..
    · exact (h.noteAcc ..).modCtx ..

theorem latchStep (h' c step groups) : Wired s (t.latchStep h' c step groups) := by
  unfold State.latchStep
  dsimp only
  split
  · exact h.suspend ..
  next e =>
    have k := ((h.setCtx ..).writeCursors ..).of_fst e
    split
    · exact h.suspend ..
    next e =>
      have k := (k.writeBoundary ..).of_fst e
      exact ((branch (k.startCkpt ..) k).modCtx ..).finish ..

theorem execStepBegin (h' step) : WiredOut s (Machine.execStepBegin h' step t) := by
  unfold Machine.execStepBegin
  refine h.serve _ _ _ fun u h => ?_
  split
  · exact h
  · split
    · exact (h.setCtx ..).finish ..
    · split
      · exact h
      · exact h.latchStep ..

theorem tryCommit (x) : Wired s (t.tryCommit x) := by
  unfold State.tryCommit
  split
  · exact h
  · split
    · exact h
    · split
      · exact h
      · split
        · exact h.endCommit ..
        · exact (h.setCtx ..).sendManager ..

theorem execStepCommit (h' step) : WiredOut s (Machine.execStepCommit h' step t) := by
  unfold Machine.execStepCommit
  refine h.serve _ _ _ fun u h => ?_
  split
  · exact h
  · split
    · exact h.finish ..
    · split
      · exact h
      · exact ((h.acts ..).setCtx ..).tryCommit ..

theorem execStepCommitReady (x) : WiredOut s (Machine.execStepCommitReady x t) := by
  unfold Machine.execStepCommitReady
  split
  · exact h.next
  · exact (h.tryCommit ..).next

theorem execCheckpoint (h' step targets) : WiredOut s (Machine.execCheckpoint h' step targets t) := by
  unfold Machine.execCheckpoint
  refine h.command _ _ _ fun u h => ?_
  split
  · exact h.finish ..
  · split
    · exact h.finish ..
    · exact h.startCkpt ..

theorem writePieces (x t' l) : Wired s (t.writePieces x t' l).1 := by
  unfold State.writePieces
  refine foldl_fst (fun r a h => ?_) _ h
  split
  · exact h
  · exact h.writeG ..

theorem spoil (x t') : Wired s (t.spoil x t') := by
  unfold State.spoil
  split
  · exact h
  · exact h.writePieces ..

theorem copySlot (x t' step) : Wired s (t.copySlot x t' step).1 := by
  unfold State.copySlot
  dsimp only
  split
  · exact h
  · exact (h.noteAcc ..).spoil ..
  · split
    · exact h
    · split
      · exact h
      next e => exact ((h.writePieces ..).of_fst e).noteAcc ..
      next e => exact (h.writePieces ..).of_fst e

theorem flyOn (x f) : Wired s (t.flyOn x f).1 := by
  unfold State.flyOn
  split
  · exact h
  · exact h
  · split <;>
      next e => exact (h.writePieces ..).of_fst e

theorem endCkpt (x) : Wired s (t.endCkpt x) := by
  unfold State.endCkpt
  split
  · exact h
  · split
    · exact h
    · split
      · exact h
      · dsimp only
        split
        · refine startCkpt ?_ ..
          split
          · refine finish ?_ ..
            refine modCtx ?_ ..
            refine modCreg ?_ ..
            refine applyWaiting ?_ ..
            refine foldl (fun u a h => ?_) _ h
            split
            · exact (h.sendAdd ..).modRec ..
            · exact h
          · refine modCtx ?_ ..
            refine modCreg ?_ ..
            refine applyWaiting ?_ ..
            refine foldl (fun u a h => ?_) _ h
            split
            · exact (h.sendAdd ..).modRec ..
            · exact h
        · split
          · refine finish ?_ ..
            refine modCtx ?_ ..
            refine modCreg ?_ ..
            refine applyWaiting ?_ ..
            refine foldl (fun u a h => ?_) _ h
            split
            · exact (h.sendAdd ..).modRec ..
            · exact h
          · refine modCtx ?_ ..
            refine modCreg ?_ ..
            refine applyWaiting ?_ ..
            refine foldl (fun u a h => ?_) _ h
            split
            · exact (h.sendAdd ..).modRec ..
            · exact h

theorem endTarget (x t' k ok) : Wired s (t.endTarget x t' k ok) := ((branch (h.modCreg ..) h).modCtx ..).endCkpt ..

theorem execCheckpointCopy (x t' fail) : WiredOut s (Machine.execCheckpointCopy x t' fail t) := by
  unfold Machine.execCheckpointCopy
  split
  · exact h.next
  · split
    · exact h.next
    · split
      · exact ((h.spoil ..).endTarget ..).next
      · split
        · exact h.next
        · dsimp only
          split
          · refine Wired.next ?_
            refine endTarget ?_ ..
            split
            · exact h.flyOn ..
            · exact h.copySlot ..
          · refine Wired.next ?_
            refine modCtx ?_ ..
            split
            · exact h.flyOn ..
            · exact h.copySlot ..
          · exact (h.suspend ..).next

end

end Wired

end Sys2Proof.Safety
end

section
/-! SUPPORT. Tags and lanes: what restoring and replay keep. -/

namespace Sys2Proof.Safety

open Machine

namespace Wired

section
variable {s t : State} (h : Wired s t)
include h

theorem restoreMarks (x b) : Wired s (t.restoreMarks x b) := by
  unfold State.restoreMarks
  dsimp only
  refine foldl (fun u a h => ?_) _ ?_
  · exact (h.setCount ..).setCount ..
  · split
    · exact h.modWmk ..
    · exact h

theorem restored (x f) : Wired s (t.restored x f) := (h.restoreMarks ..).modCtx ..

theorem execRestore (h' step source addr slot) : WiredOut s (Machine.execRestore h' step source addr slot t) := by
  unfold Machine.execRestore
  refine h.serve _ _ _ fun u h => ?_
  dsimp only
  split
  · exact h.finish ..
  · split
    · exact h
    · split
      · exact h.suspend ..
      · exact h.finish ..
      · split
        · exact h.suspend ..
        next e => exact (((h.writePieces ..).of_fst e).noteAcc ..).finish ..
        next e =>
          have h := (h.writePieces ..).of_fst e
          exact (branch ((h.restored ..).modCreg ..) (h.restored ..)).finish ..

theorem refuseReplay (x step) : Wired s (t.refuseReplay x step) := foldl (fun _ _ h => h.event ..) _ (h.modCtx ..)
theorem orphanRecords (x) : Wired s (t.orphanRecords x) := h.eachOp fun o => by grind

theorem landAll (x) : Wired s (t.landAll x) := by
  unfold State.landAll
  dsimp only
  refine foldl (fun u a h => ?_) _ (h.modWmk ..)
  split
  · exact h.applyAdd ..
  · exact h

theorem restartRecord (x step r) : Wired s (t.restartRecord x step r) := by
  unfold State.restartRecord
  dsimp only
  refine branch ?_ ?_
  · refine armRecord ?_ ..
    refine publish ?_ ..
    exact ((foldl (fun _ _ h => branch (h.setSlot ..) h) _ (foldl (fun _ _ h => h.setCount ..) _ h)).setRec ..).dieAdd ..
  · refine armRecord ?_ ..
    exact (foldl (fun _ _ h => branch (h.setSlot ..) h) _ (foldl (fun _ _ h => h.setCount ..) _ h)).setRec ..

theorem restartRecords (x step) : Wired s (t.restartRecords x step) :=
  foldl (fun _ _ h => h.restartRecord ..) _ (h.dropEvileWaits ..)

theorem restoreCounts (x bound own) : Wired s (t.restoreCounts x bound own) :=
  foldl (fun _ _ h => branch h (h.setCount ..)) _ h

theorem resubmit (x r) : Wired s (t.resubmit x r) := by
  unfold State.resubmit
  split
  · exact ((h.submitMarks ..).modCtx ..).post ..
  · dsimp only
    exact ((h.poke ..).acceptGraph ..).startGraph ..

theorem pauseStreams (x) : Wired s (t.pauseStreams x) := h.set ..

theorem replayAborts (x cause step) : Wired s (t.replayAborts x cause step) := by
  unfold State.replayAborts
  dsimp only
  exact (foldl (fun _ _ h => h.abortGraph ..) _ (branch ((h.modCtx ..).sendManager ..) h)).pauseStreams ..

theorem replayAgain (x step cause c own) : Wired s (t.replayAgain x step cause c own) := by
  unfold State.replayAgain
  dsimp only
  exact foldl (fun _ _ h => h.resubmit ..) _ ((((h.restoreCounts ..).event ..).log ..).modCtx ..)

theorem execStepReplay (x) : WiredOut s (Machine.execStepReplay x t) := by
  unfold Machine.execStepReplay
  split
  · exact h.next
  · split
    · split
      · exact h.next
      · split
        · exact (h.refuseReplay ..).next
        · dsimp only
          split
          · exact (((((h.setCtx ..).replayAborts ..).landAll ..).orphanRecords ..).refuseReplay ..).next
          · split
            · refine Wired.next (refuseReplay (foldl (fun _ _ h => h.stopStream ..) _ (restartRecords ?_ ..)) ..)
              exact foldl (fun _ _ h => h.clusterReset ..) _ ((((h.setCtx ..).replayAborts ..).landAll ..).orphanRecords ..)
            · refine Wired.next (replayAgain (foldl (fun _ _ h => h.rewind ..) _ (restartRecords ?_ ..)) ..)
              exact foldl (fun _ _ h => h.clusterReset ..) _ ((((h.setCtx ..).replayAborts ..).landAll ..).orphanRecords ..)
    · exact h.next

end

end Wired

end Sys2Proof.Safety
end

section
/-! SUPPORT. Tags and lanes: what the context commands keep. -/

namespace Sys2Proof.Safety

open Machine

namespace Wired

section
variable {s t : State} (h : Wired s t)
include h

theorem create (x fn seed saveArea prio eventCq) : Wired s (t.create x fn seed saveArea prio eventCq) := by
  unfold State.create
  dsimp only
  exact (((h.setCtx ..).modCreg ..).modWmk ..).set ..

theorem execCtxCreate (h' seed saveArea prio eventCq) : WiredOut s (Machine.execCtxCreate h' seed saveArea prio eventCq t) := by
  unfold Machine.execCtxCreate
  refine h.command _ _ _ fun u h => ?_
  split
  · exact h.finish ..
  · split
    · exact h.finish ..
    · split
      · exact h.finish ..
      · exact (h.create ..).finish ..

theorem closeWindows (x) : Wired s (t.closeWindows x) := h.set ..

theorem endWaiting (x c) : Wired s (t.endWaiting x c) := by
  unfold State.endWaiting
  dsimp only
  refine foldl (fun u a h => ?_) _ ?_
  · exact h.finish ..
  · split
    · refine finish ?_ ..
      refine foldl (fun u a h => ?_) _ ?_
      · exact h.finish ..
      · split
        · exact h.finish ..
        · exact h
    · refine foldl (fun u a h => ?_) _ ?_
      · exact h.finish ..
      · split
        · exact h.finish ..
        · exact h

theorem destroy (x) : Wired s (t.destroy x) := by
  unfold State.destroy
  split
  · exact h
  · dsimp only
    refine closeWindows ?_ ..
    refine set ?_ ..
    refine orphanRecords ?_ ..
    refine dropEvileWaits ?_ ..
    exact (foldl (fun _ _ h => h.closeStream ..) _ (foldl (fun _ _ h => h.abortGraph ..) _ h)).endWaiting ..

theorem execCtxDestroy (h') : WiredOut s (Machine.execCtxDestroy h' t) := by
  unfold Machine.execCtxDestroy
  refine h.serve _ _ _ fun u h => ?_
  split
  · exact h
  · exact (h.destroy ..).finish ..

theorem execMapPages (h' va pa count attr) : WiredOut s (Machine.execMapPages h' va pa count attr t) := by
  unfold Machine.execMapPages
  refine h.command _ _ _ fun u h => ?_
  split
  · exact h.finish ..
  · split
    · exact h.finish ..
    · exact (h.modCtx ..).finish ..

theorem discardFetched (x va n) : Wired s (t.discardFetched x va n) := h.set ..

theorem execUnmapPages (h' va count size) : WiredOut s (Machine.execUnmapPages h' va count size t) := by
  unfold Machine.execUnmapPages
  refine h.serve _ _ _ fun u h => ?_
  dsimp only
  split
  · exact h.finish ..
  · split
    · exact h
    · exact ((h.discardFetched ..).modCtx ..).finish ..

theorem execResume (h') : WiredOut s (Machine.execResume h' t) := by
  unfold Machine.execResume
  refine h.command _ _ _ fun u h => ?_
  split
  · exact h.finish ..
  · dsimp only
    exact (foldl (fun _ _ h => h.pump ..) _ ((h.modCtx ..).loadAgain ..)).finish ..

theorem execGroupWrite (h' group mask words) : WiredOut s (Machine.execGroupWrite h' group mask words t) := by
  unfold Machine.execGroupWrite
  refine h.command _ _ _ fun u h => ?_
  split
  · exact h
  · dsimp only
    split
    · exact h.finish ..
    · exact (h.setCtx ..).finish ..

theorem execWaymarkRead (h' id remote) : WiredOut s (Machine.execWaymarkRead h' id remote t) := by
  unfold Machine.execWaymarkRead
  refine h.command _ _ _ fun u h => ?_
  split
  · exact h.finish ..
  · exact h.finish ..
  · exact h.finish ..
  · split <;> exact h.finish ..

theorem execWaymarkWrite (h' id mode value remote) : WiredOut s (Machine.execWaymarkWrite h' id mode value remote t) := by
  unfold Machine.execWaymarkWrite
  refine h.command _ _ _ fun u h => ?_
  split
  · exact h.finish ..
  · split
    · exact h.finish ..
    · exact h.finish ..
    · exact (h.handSet ..).finish ..
    · exact h.finish ..

theorem execQuery (h' sel) : WiredOut s (Machine.execQuery h' sel t) := by
  unfold Machine.execQuery
  refine h.command _ _ _ fun u h => ?_
  split <;> exact h.finish ..

end

end Wired

end Sys2Proof.Safety
end

section
/-! SUPPORT. Tags and lanes: what package links and power keep. -/

namespace Sys2Proof.Safety

open Machine

namespace Wired

section
variable {s t : State} (h : Wired s t)
include h

/-! ## Crossings and links -/

theorem modLink (l f) : Wired s (t.modLink l f) := h.set ..

theorem issuerFailsWith (b code) : Wired s (t.issuerFailsWith b code) := by
  unfold State.issuerFailsWith
  split
  · split <;> exact h.failCore ..
  · split
    · exact h.failTask ..
    · exact h
  · exact h.failRecord ..
  · split
    · split
      · exact (h.spoil ..).endTarget ..
      · exact h
    · exact h
  · split
    · exact h.stopStream ..
    · exact h
  · exact h.failOps ..
  · exact h.set ..
  · split
    · exact h
    · exact h.failTask ..
  · split
    · exact h.finish ..
    · exact h
  · split
    · exact (h.badAccess ..).unsupported ..
    · exact h

theorem cdcFails (b) : Wired s (t.cdcFails b) := h.issuerFailsWith ..

theorem correctedIn (key kind source detail) {f : State → State} (hf : ∀ u, Wired s u → Wired s (f u)) :
    Wired s (t.correctedIn key kind source detail f) := by
  unfold State.correctedIn
  exact branch (hf _ (h.logCorrected ..)) ((h.logCorrected ..).set ..)

theorem correctedAt (pa) : Wired s (t.correctedAt pa) := h.correctedIn _ _ _ _ fun _ h => (h.recordPa ..).retireDoomed

theorem wordError (pa outcome) : Wired s (t.wordError pa outcome) := by
  unfold State.wordError
  split
  · exact h
  · split
    · exact h.correctedAt ..
    · split
      · dsimp only
        exact (((h.set ..).log ..).recordPa ..).retireDoomed
      · exact h

theorem recordSram (k unit row) : Wired s (t.recordSram k unit row) := by
  unfold State.recordSram
  split
  · exact h.decideOn ..
  · exact h

theorem execScrub (at_ outcome) : WiredOut s (Machine.execScrub at_ outcome t) := by
  unfold Machine.execScrub
  split
  · exact h.next
  · split
    · exact (h.wordError ..).next
    · split
      · refine Wired.next ?_
        exact h.correctedIn _ _ _ _ fun _ h => h.recordSram ..
      · exact (((h.log ..).recordSram ..).issuerFailsWith ..).next
    · split
      · exact (h.logCorrected ..).next
      · split
        · dsimp only
          exact ((h.log ..).nunex ..).next
        · exact h.next
    · split
      · exact h.next
      · exact ((h.log ..).issuerFailsWith ..).next

theorem execCdcTimeout (x b) : WiredOut s (Machine.execCdcTimeout x b t) := by
  unfold Machine.execCdcTimeout
  split
  · exact h.next
  · exact ((h.cdc ..).cdcFails ..).next

theorem execPackageLinkReplay (x) : WiredOut s (Machine.execPackageLinkReplay x t) := by
  unfold Machine.execPackageLinkReplay
  split
  · exact h.next
  · exact ((h.modLink ..).logCorrected ..).next

theorem execPackageLinkRetrain (l) : WiredOut s (Machine.execPackageLinkRetrain l t) := by
  unfold Machine.execPackageLinkRetrain
  dsimp only
  split
  · exact h.next
  · split
    · exact (h.modLink ..).next
    · split
      · exact (h.modLink ..).next
      · exact h.next

theorem execPackageLinkRetrained (l) : WiredOut s (Machine.execPackageLinkRetrained l t) := by
  unfold Machine.execPackageLinkRetrained
  split
  · exact h.next
  · exact (h.modLink ..).next

theorem loseEvile (d) : Wired s (t.loseEvile d) :=
  foldl (fun _ _ h => branch h (branch (h.failRecord ..) (h.modRec ..))) _ (h.set ..)

theorem losePortDie (d) : Wired s (t.losePortDie d) := by
  unfold State.losePortDie
  dsimp only
  refine fabricChange ?_ ..
  refine foldl (fun u a h => ?_) _ (modEngine (failOps (nunex ?ports ..) ..) ..)
  case ports =>
    exact foldl (fun _ _ h => have down := h.modPort fun r => r.inState 0 (by decide); branch down (down.logPort ..)) _ h
  exact (h.stopStream ..).closeStream ..

theorem execLinkDown (l) : WiredOut s (Machine.execLinkDown l t) := by
  unfold Machine.execLinkDown
  dsimp only
  split
  · exact h.next
  · exact (branch (((h.modLink ..).log ..).loseEvile ..) (((h.modLink ..).log ..).losePortDie ..)).next

/-! ## Clock, voltage and temperature -/

theorem setVout (mv) : Wired s (t.setVout mv) := (h.set ..).emit ..

theorem setClock : Wired s t.setClock := by
  unfold State.setClock
  dsimp only
  split
  · exact h.set ..
  · split
    · exact (h.set ..).setVout ..
    · split
      · exact h.set ..
      · exact (h.set ..).setVout ..

theorem modPower (f) : Wired s (t.modPower f) := h.set ..

theorem execPwrBrake : WiredOut s (Machine.execPwrBrake t) := by
  unfold Machine.execPwrBrake
  split
  · exact h.next
  · exact ((h.modPower ..).setClock).next

theorem execPwrBrakeRelease : WiredOut s (Machine.execPwrBrakeRelease t) := by
  unfold Machine.execPwrBrakeRelease
  split
  · exact h.next
  · exact ((h.modPower ..).setClock).next

theorem execPowerGood : WiredOut s (Machine.execPowerGood t) := by
  unfold Machine.execPowerGood
  split
  · exact h.next
  · split
    · exact h.next
    · exact (h.modPower ..).next

theorem execThermalSample (l) : WiredOut s (Machine.execThermalSample l t) := by
  unfold Machine.execThermalSample
  split
  · exact h.next
  · dsimp only
    split
    · exact ((h.modPower ..).modPower ..).next
    · refine (modPower (branch (setClock ?_) (branch (branch (setClock ?_) ?_) ?_)) ..).next <;> exact (h.modPower ..).modPower ..

end

end Wired

end Sys2Proof.Safety
end

section
/-! SUPPORT. Tags and lanes: what boot and the resets keep. -/

namespace Sys2Proof.Safety

open Machine

namespace Wired

section
variable {s t : State} (h : Wired s t)
include h

/-! ## Boot -/

theorem recover (copy code) : Wired s (t.recover copy code) := h.same rfl

theorem addLanes (lanes) : Wired s (t.addLanes lanes) := by
  unfold State.addLanes
  dsimp only
  split
  · exact h
  · exact (h.set ..).newGeneration

theorem measureBoot (b copy) : Wired s (t.measureBoot b copy) := (((h.extend ..).extend ..).extend ..).extend ..

theorem scrambleHbm : Wired s t.scrambleHbm := advance (h.set ..)

theorem loadIlv (mode) : Wired s (t.loadIlv mode) := by
  unfold State.loadIlv
  exact branch (h.scrambleHbm.same rfl) (h.same rfl)

theorem bootFrom (b copy failedStacks lanes) : Wired s (t.bootFrom b copy failedStacks lanes) := by
  unfold State.bootFrom
  dsimp only
  refine setClock (foldl (fun _ _ h => h.modPort fun r => r.inState 1 (by decide)) _ (addLanes (settleDecisions (measureBoot ?_ ..) ..) ..))
  exact (h.loadIlv _).same rfl

theorem runBoot (r) : Wired s (t.runBoot r) := h.set ..

theorem execBoot (i0 i1 failedStacks lanes) : WiredOut s (Machine.execBoot i0 i1 failedStacks lanes t) := by
  unfold Machine.execBoot
  split
  · exact h.next
  · dsimp only
    split
    · exact (h.runBoot ..).next
    · split
      · exact ((h.runBoot ..).bootFrom ..).next
      · exact ((h.runBoot ..).recover ..).next

/-! ## Resets -/

omit h in
theorem execColdReset : WiredOut s (Machine.execColdReset t) := (unused rfl).next

theorem landSome : Wired s t.landSome := foldl (fun _ _ h => branch (h.landStore ..) h) _ h

theorem execWarmReset (perst) : WiredOut s (Machine.execWarmReset perst t) := by
  unfold Machine.execWarmReset
  split
  · exact h.next
  · dsimp only
    refine Wired.next (extend (setClock ?_) ..)
    exact unused rfl

theorem resetCtx (x) : Wired s (t.resetCtx x) := (((h.destroy ..).modCreg ..).modWmk ..).set ..
theorem resetFn (f) : Wired s (t.resetFn f) := (foldl (fun _ _ h => h.resetCtx ..) _ h).set ..

theorem execFunctionLevelReset (f) : WiredOut s (Machine.execFunctionLevelReset f t) := by
  unfold Machine.execFunctionLevelReset
  split
  · exact h.next
  · split
    · dsimp only
      exact ((foldl (fun _ _ h => h.resetFn ..) _ h).set ..).next
    · exact (h.resetFn ..).next

theorem execPerstRelease : WiredOut s (Machine.execPerstRelease t) := ((h.set ..).advance).next
theorem writeVfs (n enable) : Wired s (t.writeVfs n enable) := foldl (fun _ _ h => h.resetFn ..) _ (h.set ..)

theorem writeMsixCap (f enable mask) : Wired s (t.writeMsixCap f enable mask) := by
  unfold State.writeMsixCap
  split
  · exact (h.modFn ..).sendPending ..
  · exact h

theorem execVfEnable (w enable) : WiredOut s (Machine.execVfEnable w enable t) := by
  unfold Machine.execVfEnable
  split
  · exact h.next
  · split
    · exact (h.emit ..).next
    · split
      · exact (h.writeVfs ..).next
      · exact (h.writeMsixCap ..).next
      · exact (h.set ..).next
      · exact (h.modFn ..).next

end

end Wired

end Sys2Proof.Safety
end

section
/-! SUPPORT. Tags and lanes: what register writes keep. -/

namespace Sys2Proof.Safety

open Machine

namespace Wired

section
variable {s t : State} (h : Wired s t)
include h

theorem writeIlv (v) : Wired s (t.writeIlv v) := by
  unfold State.writeIlv
  exact branch h (h.scrambleHbm.same rfl)

theorem writeCr (f r v) : Wired s (t.writeCr f r v) := by
  unfold State.writeCr
  dsimp only
  split
  · split
    · exact h
    · exact h.modCr ..
  · split
    · exact (h.modCr ..).modCr ..
    · exact h.modCr ..

theorem writeCq (f r v) : Wired s (t.writeCq f r v) := by
  unfold State.writeCq
  dsimp only
  split
  · split
    · exact h
    · exact foldl (fun _ _ h => h.discardReply ..) _ (h.modCq ..)
  · split
    · exact (h.modCq ..).modCq ..
    · exact h.modCq ..

theorem writeIntr (f r v) : Wired s (t.writeIntr f r v) := h.modCq ..

theorem writeWin (f v) : Wired s (t.writeWin f v) := by
  unfold State.writeWin
  dsimp only
  exact h.modFn ..

theorem writeMsix (f o v) : Wired s (t.writeMsix f o v) := (h.modFn ..).sendPending ..

theorem writeLimits (vf v) : Wired s (t.writeLimits vf v) := by
  unfold State.writeLimits
  split
  · exact h
  · exact h.set ..

theorem pciWrite (f o v m) : Wired s (t.pciWrite f o v m) := by
  unfold State.pciWrite
  dsimp only
  split
  · split
    · exact h.writeCr ..
    · exact h
  · split
    · split
      · exact h.writeCq ..
      · split
        · exact h.writeIntr ..
        · exact h
    · split
      · exact h.writeWin ..
      · split
        · exact h.writeMsix ..
        · split
          · exact h.writeLimits ..
          · exact h

theorem writeDvfs (v) : Wired s (t.writeDvfs v) := by
  unfold State.writeDvfs
  dsimp only
  split
  · exact (h.modPower ..).setClock
  · exact h

theorem writeJob (n v) : Wired s (t.writeJob n v) := by
  unfold State.writeJob
  split
  · exact h
  · exact h.modCreg ..

theorem writeNxpCtl (v) : Wired s (t.writeNxpCtl v) := h.nunex ..

theorem setReg (b o v m) : Wired s (t.setReg b o v m) := by
  unfold State.setReg
  dsimp only
  split
  · exact h.pciWrite ..
  · split
    · exact h.set ..
    · exact h.set ..
    · exact h.set ..
    · exact h.set ..
    · split
      · exact h
      · exact h.writeDvfs ..
    · exact h
  · split
    · exact h.set ..
    · exact h
  · split
    · exact h.modWmk ..
    · split
      · exact h.modWmk ..
      · exact h
  · split
    · exact h.writeIlv ..
    · exact h
  · split
    · exact h.set ..
    · exact h
  · split
    · exact h.writeNxpCtl ..
    · split
      · exact h.writeJob ..
      · exact h
  · split
    · exact h.set ..
    · exact h.modCreg ..
  · split
    · exact h.set ..
    · exact h
  · split
    · exact h.set ..
    · exact h.set ..
    · exact h.set ..
    · exact h
  · split
    · exact h.modCore ..
    · exact h.modCore ..
    · exact h
  · exact h
  · exact h
  · exact h

theorem bar0Write (o size v) : Wired s (t.bar0Write o size v) := by
  unfold State.bar0Write
  split
  · split
    · exact h
    · exact h.badAccess ..
  · split
    · exact h.badAccess ..
    · split
      · exact h
      · exact h.setReg ..

theorem hostWrite (o size v) : Wired s (t.hostWrite o size v) := by
  unfold State.hostWrite
  split
  · exact (h.cdc ..).badAccess ..
  · exact h.bar0Write ..

theorem vfWrite (f o size v) : Wired s (t.vfWrite f o size v) := by
  unfold State.vfWrite
  split
  · exact h.badAccess ..
  · exact h.pciWrite ..

theorem regWrite (n) {f : State → State} (hf : ∀ u, Wired s u → Wired s (f u)) : WiredOut s (t.regWrite n f) := by
  unfold State.regWrite
  exact WiredOut.branch h.next (hf _ h).next

theorem ifReached (b) {f : State → State} (hf : ∀ u, Wired s u → Wired s (f u)) : Wired s (t.ifReached b f) := by
  unfold State.ifReached
  exact branch (hf _ h) h

theorem execPciCrWrite (f r v) : WiredOut s (Machine.execPciCrWrite f r v t) := h.regWrite _ fun _ h => h.writeCr ..

theorem execPciCqWrite (f r intr v) : WiredOut s (Machine.execPciCqWrite f r intr v t) := by
  unfold Machine.execPciCqWrite
  refine h.regWrite _ fun u h => ?_
  split
  · exact h.writeIntr ..
  · exact h.writeCq ..

theorem execPciWinWrite (f v) : WiredOut s (Machine.execPciWinWrite f v t) := h.regWrite _ fun _ h => h.writeWin ..

theorem execPciVfLimitsWrite (vf v) : WiredOut s (Machine.execPciVfLimitsWrite vf v t) :=
  h.regWrite _ fun _ h => h.writeLimits ..

theorem execHbmIlvWrite (v) : WiredOut s (Machine.execHbmIlvWrite v t) :=
  h.regWrite _ fun _ h => h.ifReached _ fun _ h => h.writeIlv ..

theorem execSysDvfsWrite (v) : WiredOut s (Machine.execSysDvfsWrite v t) := h.regWrite _ fun _ h => h.writeDvfs ..

theorem execNxpJobWrite (x v) : WiredOut s (Machine.execNxpJobWrite x v t) :=
  h.regWrite _ fun _ h => h.ifReached _ fun _ h => h.writeJob ..

theorem noteBad (pa) : Wired s (t.noteBad pa) := ((h.log ..).recordPa ..).retireDoomed

theorem bar0Read (f o n) : Wired s (t.bar0Read f o n) := by
  unfold State.bar0Read
  split
  · exact h.emit ..
  · exact ((h.cdc ..).badAccess ..).unsupported ..
  · exact (h.badAccess ..).unsupported ..

theorem bar4Read (f o n) : Wired s (t.bar4Read f o n) := by
  unfold State.bar4Read
  split
  · exact (h.badAccess ..).unsupported ..
  · split
    · exact (h.noteBad ..).unsupported ..
    · exact h.emit ..

theorem execBar4Read (f p n) : WiredOut s (Machine.execBar4Read f p n t) := by
  unfold Machine.execBar4Read
  split
  · exact h.next
  · split
    · exact (h.unsupported ..).next
    · split
      · exact (h.bar0Read ..).next
      · exact (h.emit ..).next
      · exact (h.bar4Read ..).next

theorem putUnits (l bs) : Wired s (t.putUnits l bs) := by
  induction l generalizing t bs with
  | nil => exact h
  | cons e l ih => exact ih (h.put ..) _

theorem execBar4Write (f o data) : WiredOut s (Machine.execBar4Write f o data t) := by
  unfold Machine.execBar4Write
  split
  · exact h.next
  · split
    · exact (h.badAccess ..).next
    · split
      · exact (h.noteBad ..).next
      · exact (h.putUnits ..).next

end

end Wired

end Sys2Proof.Safety
end

section
/-! SUPPORT. Tags and lanes: what metering keeps. -/

namespace Sys2Proof.Safety

open Machine

namespace Wired

section
variable {s t : State} (h : Wired s t)
include h

theorem hostWrites (a bs) : Wired s { t with hostMem := mwrite memDefault t.hostMem a bs } :=
  h.set ..

theorem tickActive : Wired s t.tickActive := foldl (fun _ _ h => branch (h.modCreg ..) h) _ h

theorem execMeterSample (codes) : WiredOut s (Machine.execMeterSample codes t) := by
  unfold Machine.execMeterSample
  split
  · exact h.next
  · dsimp only
    exact ((h.set ..).tickActive).next

theorem continueSerials (h') : Wired s (t.continueSerials h') := foldl (fun _ _ h => h.modCreg ..) _ h
theorem clearActive : Wired s t.clearActive := foldl (fun _ _ h => h.modCreg ..) _ h

theorem execMeterRecord : WiredOut s (Machine.execMeterRecord t) := by
  unfold Machine.execMeterRecord
  split
  · exact h.next
  · dsimp only
    exact (((branch ((h.set ..).continueSerials ..) h).set ..).clearActive).next

theorem execMeterSilent : WiredOut s (Machine.execMeterSilent t) := by
  unfold Machine.execMeterSilent
  split
  · exact h.next
  · dsimp only
    exact (((h.log ..).set ..).pfEvent ..).next

theorem execMeterRead (h' seq dest flags) : WiredOut s (Machine.execMeterRead h' seq dest flags t) := by
  unfold Machine.execMeterRead
  refine h.command _ _ _ fun u h => ?_
  dsimp only
  split
  · exact h.finish ..
  · split
    · exact h.finish ..
    · split
      · exact (h.hostWrites ..).finish ..
      · split
        · exact h.finish ..
        · split
          · exact (h.noteBad ..).finish ..
          · exact (h.putUnits ..).finish ..

theorem execAttest (h' nonce dest) : WiredOut s (Machine.execAttest h' nonce dest t) :=
  h.command _ _ _ fun _ h => (h.hostWrites ..).finish ..

theorem mctp (answer) : WiredOut s (t.mctp answer) := by
  unfold State.mctp
  split
  · exact h.next
  · split <;> exact (h.emit ..).next

theorem execGetRecord (seq) : WiredOut s (Machine.execGetRecord seq t) := by
  unfold Machine.execGetRecord
  split <;> exact h.mctp ..

theorem execSetChainHead (r) : WiredOut s (Machine.execSetChainHead r t) := by
  unfold Machine.execSetChainHead
  split
  · exact h.next
  · exact (h.set ..).next

theorem execGetAttestation (nonce) : WiredOut s (Machine.execGetAttestation nonce t) := h.mctp ..
theorem execGetTelemetry : WiredOut s (Machine.execGetTelemetry t) := h.mctp ..

end

end Wired

end Sys2Proof.Safety
end

section
/-! SUPPORT. Tags and lanes: what Lantern keeps. -/

namespace Sys2Proof.Safety

open Machine

namespace Wired

section
variable {s t : State} (h : Wired s t)
include h

/-! ## Operations: the state that each answers with -/

theorem lntClosed (x) : Wired s (t.lntClosed x) := h.cdc ..

theorem lntRegRead : Wired s t.lntRegRead.s := by
  unfold State.lntRegRead
  dsimp only
  split
  · exact h
  · exact h.lntClosed ..
  · exact h

theorem lntRegWrite : Wired s t.lntRegWrite.s := by
  unfold State.lntRegWrite
  dsimp only
  split
  · exact h.bar0Write ..
  · exact h.lntClosed ..
  · exact h

theorem lntMem (store) : Wired s (t.lntMem store).s := by
  unfold State.lntMem
  split
  · split
    · split
      · exact h.noteBad ..
      · exact h.put ..
    · split
      · exact h.noteBad ..
      · exact h
  · exact h.lntClosed ..
  · exact h

theorem lntWmkRead : Wired s t.lntWmkRead.s := by
  unfold State.lntWmkRead
  dsimp only
  split
  · exact h
  · split
    · exact h
    · exact h
    · exact h
    · split <;> exact h.advance

theorem lntWmkSet : Wired s t.lntWmkSet.s := by
  unfold State.lntWmkSet
  dsimp only
  split
  · exact h
  · split
    · exact h
    · exact h
    · exact h.handSet ..
    · exact h.advance

theorem lntSite : Wired s t.lntSite.s := by
  unfold State.lntSite
  dsimp only
  split
  · exact h
  · split
    · exact h.lntClosed ..
    · exact h

theorem lntRun (op) : Wired s (t.lntRun op).s := by
  unfold State.lntRun
  split
  · exact h
  · split
    · exact h.lntRegRead
    · exact h.lntRegWrite
    · exact h.lntMem _
    · exact h.lntMem _
    · exact h.lntWmkRead
    · exact h.lntWmkSet
    · exact h.lntSite
    · exact h

/-! ## Commands -/

theorem firstLantern (op) : Wired s (t.firstLantern op) := by
  unfold State.firstLantern
  split
  · exact h
  · exact (h.set ..).extend ..

theorem lantern (op jtag) : Wired s (t.lantern op jtag) := by
  unfold State.lantern
  exact (((h.firstLantern ..).set ..).lntRun ..).set ..

theorem lanternUpdate (r) : Wired s (t.lanternUpdate r) := by
  unfold State.lanternUpdate
  split
  · exact h
  · exact (h.set ..).lantern ..

theorem shiftDr (n tdi) : Wired s (t.shiftDr n tdi) := by
  unfold State.shiftDr
  split
  · exact (h.emit ..).advance
  · dsimp only
    split
    · exact (h.emit ..).lanternUpdate ..
    · exact h.emit ..

theorem lanternVia (op v) : WiredOut s (t.lanternVia op v) := by
  unfold State.lanternVia
  split
  · exact h.next
  · split
    · split
      · exact (h.lantern ..).next
      · exact h.next
    · split
      · exact h.next
      · exact (h.shiftDr ..).next

theorem execRegRead (v) : WiredOut s (Machine.execRegRead v t) := h.lanternVia ..
theorem execRegWrite (v) : WiredOut s (Machine.execRegWrite v t) := h.lanternVia ..
theorem execMemRead (v) : WiredOut s (Machine.execMemRead v t) := h.lanternVia ..
theorem execMemWrite (v) : WiredOut s (Machine.execMemWrite v t) := h.lanternVia ..
theorem execWmkRead (v) : WiredOut s (Machine.execWmkRead v t) := h.lanternVia ..
theorem execWmkSet (v) : WiredOut s (Machine.execWmkSet v t) := h.lanternVia ..
theorem execSiteRead (v) : WiredOut s (Machine.execSiteRead v t) := h.lanternVia ..

theorem execJtagInstruction (code) : WiredOut s (Machine.execJtagInstruction code t) := by
  unfold Machine.execJtagInstruction
  split
  · exact (h.shiftDr ..).next
  · dsimp only
    split
    · exact (h.set ..).next
    · exact ((h.set ..).extend ..).next

theorem execRegisterWrite (f o size v) : WiredOut s (Machine.execRegisterWrite f o size v t) := by
  unfold Machine.execRegisterWrite
  refine h.regWrite _ fun u h => ?_
  split
  · exact h.vfWrite ..
  · dsimp only
    refine branch ?_ ?_
    · exact (h.hostWrite ..).lantern ..
    · exact h.hostWrite ..

end

end Wired

end Sys2Proof.Safety
end

section
/-! SUPPORT. Tags and lanes: what every command and every step keeps. -/

namespace Sys2Proof.Safety

open Machine

namespace Wired

/-- Every command keeps the tags and the lanes in range. -/
theorem exec {s t : State} (h : Wired s t) (c : Instr) : WiredOut s (Machine.exec c t) := by
  cases c with
  | nop => exact h.execNop ..
  | tcfg => exact h.execTcfg ..
  | tcfgClear => exact h.execTcfgClear ..
  | tld => exact h.execTld ..
  | tst => exact h.execTst ..
  | twl => exact h.execTwl ..
  | tmm => exact h.execTmm ..
  | tmv => exact h.execTmv ..
  | tmvRow => exact h.execTmvRow ..
  | tdr => exact h.execTdr ..
  | tzr => exact h.execTzr ..
  | tmov => exact h.execTmov ..
  | halo => exact h.execHalo ..
  | blr => exact h.execBlr ..
  | wait => exact h.execWait ..
  | sig => exact h.execSig ..
  | fence => exact h.execFence ..
  | loop => exact h.execLoop ..
  | endl => exact h.execEndl ..
  | mova => exact h.execMova ..
  | adda => exact h.execAdda ..
  | coreTaskEnd => exact h.execCoreTaskEnd ..
  | interrupt => exact h.execInterrupt ..
  | coreResume => exact h.execCoreResume ..
  | ramblerFetch => exact h.execRamblerFetch ..
  | cdcTimeout => exact h.execCdcTimeout ..
  | packageLinkRetrain => exact h.execPackageLinkRetrain ..
  | linkDown => exact h.execLinkDown ..
  | taskDispatch => exact h.execTaskDispatch
  | taskCoreReserve => exact h.execTaskCoreReserve ..
  | preempt => exact h.execPreempt ..
  | blanketFetch => exact h.execBlanketFetch ..
  | stashCopy => exact h.execStashCopy ..
  | taskComplete => exact h.execTaskComplete ..
  | waymarkCountAdd => exact h.execWaymarkCountAdd ..
  | watchPoll => exact h.execWatchPoll ..
  | versionStallLimit => exact h.execVersionStallLimit ..
  | contributionSend => exact h.execContributionSend ..
  | contributionTake => exact h.execContributionTake ..
  | slotAcquire => exact h.execSlotAcquire ..
  | phaseC => exact h.execPhaseC ..
  | updateCommit => exact h.execUpdateCommit ..
  | versionPull => exact h.execVersionPull ..
  | commandDoorbell => exact h.execCommandDoorbell ..
  | completionDoorbell => exact h.execCompletionDoorbell ..
  | commandPacket => exact h.execCommandPacket ..
  | msixDelay => exact h.execMsixDelay ..
  | ctxCreate => exact h.execCtxCreate ..
  | ctxDestroy => exact h.execCtxDestroy ..
  | mapPages => exact h.execMapPages ..
  | unmapPages => exact h.execUnmapPages ..
  | resume => exact h.execResume ..
  | graphSubmit => exact h.execGraphSubmit ..
  | graphAbort => exact h.execGraphAbort ..
  | stepBegin => exact h.execStepBegin ..
  | stepCommit => exact h.execStepCommit ..
  | stepCommitReady => exact h.execStepCommitReady ..
  | groupWrite => exact h.execGroupWrite ..
  | waymarkRead => exact h.execWaymarkRead ..
  | waymarkWrite => exact h.execWaymarkWrite ..
  | checkpoint => exact h.execCheckpoint ..
  | checkpointCopy => exact h.execCheckpointCopy ..
  | restore => exact h.execRestore ..
  | rollcallRun => exact h.execRollcallRun ..
  | rollcallCluster => exact h.execRollcallCluster ..
  | ingestOpen => exact h.execIngestOpen ..
  | ingestFeed => exact h.execIngestFeed ..
  | ingestClose => exact h.execIngestClose ..
  | decodeAccessUnit => exact h.execDecodeAccessUnit ..
  | clipWrite => exact h.execClipWrite ..
  | fabricJoin => exact h.execFabricJoin ..
  | joinTimeout => exact h.execJoinTimeout
  | fabricLeave => exact h.execFabricLeave ..
  | meterRead => exact h.execMeterRead ..
  | attest => exact h.execAttest ..
  | query => exact h.execQuery ..
  | bar4Read => exact h.execBar4Read ..
  | bar4Write => exact h.execBar4Write ..
  | pciCrWrite => exact h.execPciCrWrite ..
  | pciCqWrite => exact h.execPciCqWrite ..
  | pciWinWrite => exact h.execPciWinWrite ..
  | pciVfLimitsWrite => exact h.execPciVfLimitsWrite ..
  | hbmIlvWrite => exact h.execHbmIlvWrite ..
  | sysDvfsWrite => exact h.execSysDvfsWrite ..
  | nxpJobWrite => exact h.execNxpJobWrite ..
  | registerWrite => exact h.execRegisterWrite ..
  | functionLevelReset => exact h.execFunctionLevelReset ..
  | regRead => exact h.execRegRead ..
  | regWrite => exact h.execRegWrite ..
  | memRead => exact h.execMemRead ..
  | memWrite => exact h.execMemWrite ..
  | wmkRead => exact h.execWmkRead ..
  | wmkSet => exact h.execWmkSet ..
  | siteRead => exact h.execSiteRead ..
  | jtagInstruction => exact h.execJtagInstruction ..
  | laneFail => exact h.execLaneFail ..
  | flitReceive => exact h.execFlitReceive ..
  | flitAckTimeout => exact h.execFlitAckTimeout ..
  | portRetrain => exact h.execPortRetrain ..
  | portDown => exact h.execPortDown ..
  | read => exact h.execRead ..
  | write => exact h.execWrite ..
  | writeSignal => exact h.execWriteSignal ..
  | waymarkAdd => exact h.execWaymarkAdd ..
  | bulkPull => exact h.execBulkPull ..
  | bulkWrite => exact h.execBulkWrite ..
  | bulkCopy => exact h.execBulkCopy ..
  | response => exact h.execResponse ..
  | e2eNak => exact h.execE2eNak ..
  | resendTimeout => exact h.execResendTimeout ..
  | join => exact h.execJoin ..
  | grant => exact h.execGrant ..
  | heartbeat => exact h.execHeartbeat ..
  | heartbeatTimer => exact h.execHeartbeatTimer
  | memberFailed => exact h.execMemberFailed ..
  | managerSilence => exact h.execManagerSilence
  | membership => exact h.execMembership ..
  | ready => exact h.execReady ..
  | commit => exact h.execCommit ..
  | abandon => exact h.execAbandon ..
  | mirror => exact h.execMirror ..
  | takeover => exact h.execTakeover ..
  | pairBroken => exact h.execPairBroken
  | stepReplay => exact h.execStepReplay ..
  | scrub => exact h.execScrub ..
  | boot => exact h.execBoot ..
  | coldReset => exact execColdReset
  | warmReset => exact h.execWarmReset ..
  | pwrBrake => exact h.execPwrBrake
  | thermalSample => exact h.execThermalSample ..
  | meterSample => exact h.execMeterSample ..
  | meterRecord => exact h.execMeterRecord
  | meterSilent => exact h.execMeterSilent
  | getRecord => exact h.execGetRecord ..
  | setChainHead => exact h.execSetChainHead ..
  | getAttestation => exact h.execGetAttestation ..
  | getTelemetry => exact h.execGetTelemetry
  | memoryResponse => exact h.execMemoryResponse ..
  | clusterDmaTransfer => exact h.execClusterDmaTransfer ..
  | packageLinkReplay => exact h.execPackageLinkReplay ..
  | packageLinkRetrained => exact h.execPackageLinkRetrained ..
  | portRetrained => exact h.execPortRetrained ..
  | perstRelease => exact h.execPerstRelease
  | pwrBrakeRelease => exact h.execPwrBrakeRelease
  | powerGood => exact h.execPowerGood
  | vfEnable => exact h.execVfEnable ..

end Wired

/-- A step runs a command, or time passes. -/
theorem step_wired {s t : State} (e : step s = .next t) : Wired s t := by
  unfold step at e
  split at e
  · cases e
    exact (Wired.refl s).passNs
  next c rest _ =>
    exact ((Wired.set (Wired.refl s) (pending := rest) ..).exec c).of_next e

/-- Settles O5: every operation of the model keeps the tags and the lanes in range, so every command does, and time does. -/
theorem stepKeepsTagsAndLanes : Obligations.StepKeepsTagsAndLanes := by
  unfold Obligations.StepKeepsTagsAndLanes
  exact ⟨fun s t m e => (step_wired e).tags m, fun s t m e => (step_wired e).ports m⟩

end Sys2Proof.Safety
end

section
/-! SUPPORT. Packets of a stream (R359, R361, R364, R369, R371): what a port die receives, which streams an epoch ends, and where a packet
stands in its stream. -/

namespace Sys2Proof.Machine

open Safety

/-- A command of Table 12.5 whose packet a stream orders: each opcode under its own row. -/
def Ordered (p : Packet) (c : Instr) : Prop :=
  (p.op = 1 ∧ c = .read p) ∨ (p.op = 2 ∧ c = .write p) ∨ (p.op = 3 ∧ c = .writeSignal p) ∨ (p.op = 4 ∧ c = .waymarkAdd p)
    ∨ (p.op = 5 ∧ c = .bulkPull p) ∨ (p.op = 6 ∧ c = .bulkWrite p)

/-- Every such command receives its packet under the opcode that the packet has, one of Table 12.5. -/
theorem exec_ordered {p : Packet} {c : Instr} (row : Ordered p c) :
    (([1, 2, 3, 4, 5, 6, 8, 9, 0x10] : List Nat).contains p.op = true)
      ∧ ∀ s : State, exec c s = s.receive p.op p (fun s => s.arrive p) := by
  rcases row with ⟨op, rfl⟩ | ⟨op, rfl⟩ | ⟨op, rfl⟩ | ⟨op, rfl⟩ | ⟨op, rfl⟩ | ⟨op, rfl⟩ <;>
    exact ⟨by rw [op]; rfl, fun s => by rw [op]; rfl⟩

/-! ## What a port die receives -/

section
variable {s : State} {p : Packet}

/-- A lost die receives nothing (R371). -/
theorem State.receive_lost (lost : bit s.nxp.diesLost p.die = true) (op : Nat) (f : State → State) : s.receive op p f = .next s := by
  simp [State.receive, lost]

variable (clocked : Clocked s)
include clocked

/-- A packet with a reserved bit set is discarded and counted (R359). -/
theorem State.receive_reserved (here : bit s.nxp.diesLost p.die = false) (reserved : p.rsv = true) (op : Nat) (f : State → State) :
    s.receive op p f = .next (s.dropPacket p.die) := by
  simp [State.receive, show s.power.stopped = false from clocked, here, reserved]

/-- A packet of the row's own opcode has its effect. -/
theorem State.receive_own (here : bit s.nxp.diesLost p.die = false) (clean : p.rsv = false)
    (known : ([1, 2, 3, 4, 5, 6, 8, 9, 0x10] : List Nat).contains p.op = true) (f : State → State) : s.receive p.op p f = .next (f s) := by
  simp only [State.receive, show s.power.stopped = false from clocked, here, clean, known, Bool.or_self, Bool.not_true, Bool.false_eq_true,
    if_false, ne_eq, not_true]

end

/-! ## Epochs -/

theorem epochNewer_self (a : Nat) : epochNewer a a = false := by
  simp only [epochNewer, decide_eq_false_iff_not]
  omega

/-- The streams of a packet's source that are of another epoch end (R364). -/
def State.forgetOld (s : State) (p : Packet) : State :=
  { s with nxp := { s.nxp with rx := s.nxp.rx.filter (fun r => !(decide (r.src = p.src) && decide (r.epoch ≠ p.epoch))) } }

section
variable {s : State} {p : Packet}

/-- A packet of an epoch before the newest of its source is discarded (R364). -/
theorem State.arrive_old (newer : ∃ r ∈ s.nxp.rx, r.src = p.src ∧ epochNewer r.epoch p.epoch = true) : s.arrive p = s := by
  obtain ⟨r, mem, src, after⟩ := newer
  exact if_pos (List.any_eq_true.mpr ⟨r, mem, by simp [src, after]⟩)

theorem State.any_newer_eq_false (newest : ∀ r ∈ s.nxp.rx, r.src = p.src → epochNewer r.epoch p.epoch = false) :
    s.nxp.rx.any (fun q => decide (q.src = p.src) && epochNewer q.epoch p.epoch) = false :=
  List.any_eq_false.mpr fun r mem => by simpa using newest r mem

/-! ## The place of a packet in its stream -/

/-- A stream that no packet has come of (R364). -/
def newStream (p : Packet) : Stream := ⟨p.src, b2n (bit p.flags 1), p.die, vcOf p.op, p.epoch, 0, [], []⟩

/-- A packet arrives in a stream: placed in order, held, answered again, or discarded (R364). -/
def State.arriveIn (s : State) (p : Packet) (q : Stream) : State :=
  let d := (p.sseq + 65536 - q.next) % 65536
  if d = 0 then
    let r := s.placeAnswer p q
    let z := r.1.placeHeld r.2 r.2.held.length
    z.1.setStream z.2
  else if 32768 ≤ d then
    match q.answers.find? (fun a => decide (a.1 = p.sseq)) with
    | some (_, k) => s.transmit k
    | none => s
  else if q.held.any (fun h => decide (h.sseq = p.sseq)) then s
  else
    let vc0 := decide (q.vc = 0)
    if s.reorderBytes p.die vc0 + 24 + p.data.length ≤ (if vc0 then 0x40000 else 0xFC0000) then s.setStream { q with held := q.held ++ [p] }
    else
      let n := (s.dropPacket p.die).build (((s.dropPacket p.die).sendDie p.die).getD p.die) 9 p.src p.tag 0 0 0 false []
      n.1.transmit n.2

/-- The stream that a packet arrives in: the one it continues, or a new one. -/
def State.streamOf (s : State) (p : Packet) : Stream := (s.nxp.rx.find? (fun q => q.of p)).getD (newStream p)

/-- A packet of its source's newest epoch ends the streams of older ones, and arrives in its own (R364). -/
theorem State.arrive_newest (newest : ∀ r ∈ s.nxp.rx, r.src = p.src → epochNewer r.epoch p.epoch = false) :
    s.arrive p = (s.forgetOld p).arriveIn p ((s.forgetOld p).streamOf p) := by
  unfold State.arrive
  rw [State.any_newer_eq_false newest]
  rfl

/-- The streams of older epochs end once. -/
theorem State.arrive_forgetOld (newest : ∀ r ∈ s.nxp.rx, r.src = p.src → epochNewer r.epoch p.epoch = false) :
    s.arrive p = (s.forgetOld p).arrive p := by
  have once : (s.forgetOld p).forgetOld p = s.forgetOld p := by simp [State.forgetOld, List.filter_filter]
  rw [State.arrive_newest newest, State.arrive_newest (s := s.forgetOld p) fun r mem => newest r (List.mem_of_mem_filter mem), once]

/-- A packet arrives in its stream, where no stream of its source is of another epoch. -/
theorem State.arrive_same (same : ∀ r ∈ s.nxp.rx, r.src = p.src → r.epoch = p.epoch) : s.arrive p = s.arriveIn p (s.streamOf p) := by
  have kept : s.forgetOld p = s := by
    unfold State.forgetOld
    rw [List.filter_eq_self.mpr fun r mem => by simpa [imp_iff_not_or] using same r mem]
  rw [State.arrive_newest fun r mem src => by rw [same r mem src, epochNewer_self], kept]

/-- Discarding a packet changes no port. -/
theorem State.dropPacket_sendDie (die d : Nat) : (s.dropPacket die).sendDie d = s.sendDie d := by
  unfold State.dropPacket
  split <;> rfl

/-- The stream of a packet that is placed expects the next number, and holds what it held. -/
theorem State.placeAnswer_stream (q : Stream) :
    (s.placeAnswer p q).2.next = (p.sseq + 1) % 65536 ∧ (s.placeAnswer p q).2.held = q.held := by
  unfold State.placeAnswer
  dsimp only
  split <;> exact ⟨rfl, rfl⟩

variable {q : Stream}

/-- The next packet of a stream is placed, then those held behind it (R364). -/
theorem State.arriveIn_next (next : p.sseq = q.next) :
    let r := s.placeAnswer p q
    let z := r.1.placeHeld r.2 r.2.held.length
    s.arriveIn p q = z.1.setStream z.2 := by
  unfold State.arriveIn
  dsimp only
  rw [if_pos (by omega)]

section
variable (placed : 32768 ≤ (p.sseq + 65536 - q.next) % 65536)
include placed

/-- A packet that is placed already is answered again (R364). -/
theorem State.arriveIn_duplicate {k : Packet} (kept : q.answers.find? (fun a => decide (a.1 = p.sseq)) = some (p.sseq, k)) :
    s.arriveIn p q = s.transmit k := by
  unfold State.arriveIn
  dsimp only
  rw [if_neg (by omega), if_pos placed, kept]

/-- One whose answer is not kept any more is discarded. -/
theorem State.arriveIn_forgotten (forgotten : q.answers.find? (fun a => decide (a.1 = p.sseq)) = none) : s.arriveIn p q = s := by
  unfold State.arriveIn
  dsimp only
  rw [if_neg (by omega), if_pos placed, forgotten]

end

section
variable (some_ : 1 ≤ (p.sseq + 65536 - q.next) % 65536) (ahead : (p.sseq + 65536 - q.next) % 65536 < 32768)
include some_ ahead

/-- A packet ahead of its stream that is held already is held once. -/
theorem State.arriveIn_held (held : q.held.any (fun h => decide (h.sseq = p.sseq)) = true) : s.arriveIn p q = s := by
  unfold State.arriveIn
  dsimp only
  rw [if_neg (by omega), if_neg (by omega), if_pos held]

variable (new : q.held.any (fun h => decide (h.sseq = p.sseq)) = false)
include new

/-- A packet ahead of its stream is held while the reorder buffer has room (R364). -/
theorem State.arriveIn_room
    (room : ¬ (if decide (q.vc = 0) = true then 0x40000 else 0xFC0000) < s.reorderBytes p.die (decide (q.vc = 0)) + 24 + p.data.length) :
    s.arriveIn p q = s.setStream { q with held := q.held ++ [p] } := by
  unfold State.arriveIn
  dsimp only
  rw [if_neg (by omega), if_neg (by omega), if_neg (by simp [new]), if_pos (not_lt.mp room)]

/-- One that finds the reorder buffer full is dropped, and answered with E2E_NAK (R364). -/
theorem State.arriveIn_full
    (full : (if decide (q.vc = 0) = true then 0x40000 else 0xFC0000) < s.reorderBytes p.die (decide (q.vc = 0)) + 24 + p.data.length) :
    let n := (s.dropPacket p.die).build ((s.sendDie p.die).getD p.die) 9 p.src p.tag 0 0 0 false []
    s.arriveIn p q = n.1.transmit n.2 := by
  unfold State.arriveIn
  dsimp only
  rw [if_neg (by omega), if_neg (by omega), if_neg (by simp [new]), if_neg (not_le.mpr full), State.dropPacket_sendDie]

end

end

/-- Settles O47: by what the die receives, by the epochs of the packet's source, and by the packet's place in its stream. -/
theorem packetsPlacedInOrder : Obligations.PacketsPlacedInOrder := by
  unfold Obligations.PacketsPlacedInOrder
  refine ⟨fun s p c clocked row => ?_, fun s q n => ⟨fun p held => ?_, fun none_ => ?_⟩⟩
  · obtain ⟨known, runs⟩ := exec_ordered row
    have arrives (t : State) (clocked : Clocked t) (here : bit t.nxp.diesLost p.die = false) (clean : p.rsv = false) :
        exec c t = .next (t.arrive p) := (runs t).trans (State.receive_own clocked here clean known _)
    refine ⟨fun lost => (runs s).trans (State.receive_lost lost ..),
      fun here reserved => (runs s).trans (State.receive_reserved clocked here reserved ..),
      fun here clean newer => (arrives s clocked here clean).trans (congrArg _ (State.arrive_old newer)), fun newest => ?_,
      fun q here clean same stream => ?_⟩
    · split
      · rfl
      next ends =>
        obtain ⟨here, clean⟩ := not_or.mp ends
        rw [Bool.not_eq_true] at here clean
        rw [arrives s clocked here clean, State.arrive_forgetOld newest]
        exact (arrives (s.forgetOld p) clocked here clean).symm
    · have inStream : exec c s = .next (s.arriveIn p q) := by
        rw [arrives s clocked here clean, State.arrive_same same, State.streamOf]
        rcases stream with found | ⟨none_, rfl⟩
        · rw [found]; rfl
        · rw [none_]; rfl
      rw [inStream]
      obtain ⟨next, holds⟩ := s.placeAnswer_stream (p := p) q
      refine ⟨fun turn _ => ⟨congrArg _ (State.arriveIn_next turn), next, fun empty => ?_⟩,
        fun k placed kept => congrArg _ (State.arriveIn_duplicate placed kept),
        fun placed forgotten => congrArg _ (State.arriveIn_forgotten placed forgotten), fun some_ ahead =>
        ⟨fun held => congrArg _ (State.arriveIn_held some_ ahead held), fun new =>
          ⟨fun room => ⟨congrArg _ (State.arriveIn_room some_ ahead new room), fun _ => rfl⟩,
            fun full => congrArg _ (State.arriveIn_full some_ ahead new full)⟩⟩⟩
      rw [holds, empty]
      rfl
  · simp only [State.placeHeld, held]
  · simp only [State.placeHeld, none_]

end Sys2Proof.Machine
end

section
/-! SUPPORT. The end of operations at their sender (R362, R364, R365, R369): the answer, the NAK and the timeout of a tag, the port that a
packet goes again over, and a bulk copy by where its ends lie. -/

namespace Sys2Proof.Machine

open Safety

/-! ## Answers -/

section
variable {s : State} {p : Packet}

/-- An answer to a tag that is not outstanding is discarded (R362). -/
theorem State.takeResponse_unknown (none_ : s.opAt p.die p.tag = none) : s.takeResponse p = s := by
  simp only [State.takeResponse, none_]

theorem State.takeResponse_known {o : Op} (known : s.opAt p.die p.tag = some o) :
    s.takeResponse p = (if p.addr % 65536 = 0 then (s.endOp p.die p.tag).opDone o p.data
      else (s.endOp p.die p.tag).opFails o (p.addr % 65536)).tryLeave := by
  simp only [State.takeResponse, known]

end

/-! ## The port of a packet that goes again -/

section
variable {s : State} {die : Nat} {ok : Nat → Bool}

/-- Of two ports, the one with fewer flits queued; the first on a tie (R363). -/
def State.fewerQueued (s : State) (best : Option Nat) (p : Nat) : Option Nat :=
  match best with
  | none => some p
  | some q => if (s.port p).queued < (s.port q).queued then some p else some q

theorem State.choosePortIf_eq (s : State) (die : Nat) (ok : Nat → Bool) :
    s.choosePortIf die ok = ((portsOf die).filter (fun p => (s.port p).serves && ok p)).foldl s.fewerQueued none := rfl

theorem State.fewerQueued_eq (s : State) (b : Option Nat) (p : Nat) : s.fewerQueued b p = some p ∨ s.fewerQueued b p = b := by
  unfold State.fewerQueued
  split
  · exact .inl rfl
  · split
    · exact .inl rfl
    · exact .inr rfl

theorem State.fewerQueued_isSome (s : State) (b : Option Nat) (p : Nat) : (s.fewerQueued b p).isSome = true := by
  unfold State.fewerQueued
  split
  · rfl
  · split <;> rfl

theorem State.foldl_fewerQueued {p : Nat} (l : List Nat) : ∀ b, l.foldl s.fewerQueued b = some p → p ∈ l ∨ b = some p := by
  induction l with
  | nil => exact fun b e => .inr e
  | cons q l ih =>
    intro b e
    obtain mem | e := ih _ e
    · exact .inl (List.mem_cons_of_mem _ mem)
    · obtain this | best := s.fewerQueued_eq b q
      · cases this.symm.trans e
        exact .inl List.mem_cons_self
      · exact .inr (best.symm.trans e)

/-- The port chosen is one of the die's that serves and that the test accepts (R363). -/
theorem State.choosePortIf_some {p : Nat} (e : s.choosePortIf die ok = some p) : (s.port p).serves = true ∧ ok p = true := by
  obtain mem | none_ := State.foldl_fewerQueued _ _ (State.choosePortIf_eq s die ok ▸ e)
  · simpa using (List.mem_filter.mp mem).2
  · cases none_

/-- Where no port is chosen, none of the die's that serves is accepted. -/
theorem State.choosePortIf_none (e : s.choosePortIf die ok = none) {p : Nat} (mem : p ∈ portsOf die) (serves : (s.port p).serves = true) :
    ok p = false := by
  have chosen := foldl_isSome s.fewerQueued_isSome ((portsOf die).filter (fun p => (s.port p).serves && ok p)) none
  rw [← State.choosePortIf_eq, e] at chosen
  have empty : (portsOf die).filter (fun p => (s.port p).serves && ok p) = [] := by simpa using chosen.symm
  simpa [serves] using List.filter_eq_nil_iff.mp empty p mem

/-- A packet goes again over a port in service, another one than before if there is one (R365). -/
theorem State.otherPort_some {before p : Nat} (e : s.otherPort die before = some p) :
    (s.port p).serves = true ∧ (p ≠ before ∨ ∀ q ∈ portsOf die, (s.port q).serves = true → q = before) := by
  obtain other | ⟨none_, only⟩ := Option.or_eq_some_iff.mp e
  · obtain ⟨serves, ne⟩ := State.choosePortIf_some other
    exact ⟨serves, .inl (of_decide_eq_true ne)⟩
  · exact ⟨(State.choosePortIf_some only).1, .inr fun q mem serves => by simpa using State.choosePortIf_none none_ mem serves⟩

end

/-! ## Bulk copies -/

section
variable {s : State} {y : CopyBy} {die n : Nat} {src dst : W64}

/-- A copy of no issuer, or of a length that R369 does not allow, does nothing. -/
theorem execBulkCopy_none (absent : s.copyCtx y = none ∨ n = 0 ∨ 2 ^ 32 < n) : execBulkCopy y die src dst n s = .next s := by
  unfold execBulkCopy
  dsimp only
  split
  · rfl
  next x present =>
    have length : n = 0 ∨ 2 ^ 32 < n := absent.resolve_left (by rw [present]; exact Option.some_ne_none _)
    exact if_pos (by rw [decide_eq_true length, Bool.or_true])

/-- A copy of an issuer, of an allowed length, is not held back. -/
theorem bulkCopy_allowed (clocked : Clocked s) (low : 1 ≤ n) (high : n ≤ 2 ^ 32) :
    (s.power.stopped || decide (n = 0 ∨ 2 ^ 32 < n)) = false := by
  simp only [show s.power.stopped = false from clocked, Bool.false_or, decide_eq_false_iff_not]
  omega

end

/-- One packet of a copy, which fails the copy where it cannot be sent (R365, R369). -/
theorem State.sendCopy_one {s u : State} {x die i op dst code : Nat} {e : Nat × List Byte}
    (sent : s.request (.copy i) die x op dst e.2.length e.1 false e.2 = (u, code)) :
    s.sendCopy x die i op dst [e] = if code = 0 then u else (u.copyFailed i code).copyEnd i := by
  simp [State.sendCopy, sent]

section
variable {s : State} {o : Op} {i : Nat} {c : Copy} (owner : o.owner = .copy i) (present : mfind s.nxp.copies i = some c)
  (last : s.nxp.ops.any (fun q => decide (q.owner = OpOwner.copy i)) = false)
include owner present last

/-- The answer to a copy's last packet ends it (R369). -/
theorem State.opDone_copy (data : List Byte) :
    s.opDone o data = ({ s with nxp := { s.nxp with copies := mdel s.nxp.copies i } } : State).copyOver c.by_ c.code := by
  simp only [State.opDone, owner, State.copyEnd, present, last, Bool.false_eq_true, if_false]

/-- The failure of a copy's last packet ends it with the code of the first one that failed (R365, R369). -/
theorem State.opFails_copy (code : Nat) : ∃ v : State, s.opFails o code = v.copyOver c.by_ (if c.code = 0 then code else c.code)
    ∧ v = { s with nxp := v.nxp } := by
  let failed : State := { s with nxp := { s.nxp with copies := mput s.nxp.copies i { c with code := if c.code = 0 then code else c.code } } }
  refine ⟨{ failed with nxp := { failed.nxp with copies := mdel failed.nxp.copies i } }, ?_, rfl⟩
  simp only [State.opFails, owner, State.copyFailed, present, State.copyEnd, mfind_mput_same, last, Bool.false_eq_true, if_false, failed]

end

/-- Settles O49: an answer, a NAK and a timeout by the operation that holds the tag, and a copy by where its ends lie. -/
theorem operationsEndOnce : Obligations.OperationsEndOnce := by
  unfold Obligations.OperationsEndOnce
  refine ⟨fun s p clocked op => ?_, fun s p clocked op => ?_,
    fun s die tag clocked => ⟨fun none_ => ?_, fun o known few => ?_, fun o known many => ?_⟩,
    fun s y die src dst n clocked => ⟨fun absent => execBulkCopy_none absent, fun x issuer low high => ?_⟩,
    fun s u x die i op dst code e sent => State.sendCopy_one sent, fun s y code => ⟨rfl, fun fails => if_neg fails⟩,
    fun s o i code c data owner present last => ⟨State.opDone_copy owner present last data, State.opFails_copy owner present last code⟩⟩
  · have runs : exec (.response p) s = s.receive p.op p (fun s => s.takeResponse p) := by rw [op]; rfl
    rw [runs]
    have own (here : bit s.nxp.diesLost p.die = false) (clean : p.rsv = false) :=
      State.receive_own clocked here clean (by rw [op]; rfl) (fun s => s.takeResponse p)
    refine ⟨fun lost => State.receive_lost lost .., fun here reserved => State.receive_reserved clocked here reserved ..,
      fun here clean none_ => (own here clean).trans (congrArg _ (State.takeResponse_unknown none_)),
      fun o here clean known => ⟨fun well => ?_, fun fails => ?_⟩⟩
    · rw [own here clean, State.takeResponse_known known, if_pos well]
    · rw [own here clean, State.takeResponse_known known, if_neg fails]
  · have runs : exec (.e2eNak p) s = s.receive p.op p (fun s => s.takeNak p) := by rw [op]; rfl
    rw [runs]
    have own (here : bit s.nxp.diesLost p.die = false) (clean : p.rsv = false) :=
      State.receive_own clocked here clean (by rw [op]; rfl) (fun s => s.takeNak p)
    refine ⟨fun lost => State.receive_lost lost .., fun here reserved => State.receive_reserved clocked here reserved ..,
      fun here clean none_ => ?_, fun o here clean known => ?_⟩
    · rw [own here clean, State.takeNak, none_]
    · rw [own here clean, State.takeNak, known]
  · simp only [exec, execResendTimeout, none_]
  · refine ⟨fun p again => State.otherPort_some again, ?_⟩
    simp only [exec, execResendTimeout, known, show s.power.stopped = false from clocked, Bool.false_eq_true, if_false, if_neg (not_le.mpr few)]
  · simp only [exec, execResendTimeout, known, show s.power.stopped = false from clocked, Bool.false_eq_true, if_false, if_pos many]
  · have allowed := bulkCopy_allowed clocked low high
    refine ⟨fun c here stops => ?_, fun bs u here there data => ⟨fun done => ?_, fun c stops => ?_⟩, fun bs here far data => ?_,
      fun far there => ?_, fun far off => ?_⟩ <;> simp only [exec, execBulkCopy, issuer, allowed, Bool.false_eq_true, if_false]
    · simp only [here, if_true, stops]
    · simp only [here, there, if_true, data, done]
    · simp only [here, there, if_true, data, stops]
    · simp only [here, far, if_true, data, Bool.false_eq_true, if_false]
    · simp only [far, there, if_true, Bool.false_eq_true, if_false]
    · simp only [far, off, Bool.false_eq_true, if_false]

end Sys2Proof.Machine
end

section
/-! SUPPORT. Messages of the managers (R360, R375): what sending them leaves as it was, and that each one leaves the device; and what of
Nunex the manager's own operations leave alone. -/

namespace Sys2Proof.Machine

open Safety

/-! ## Messages -/

/-- `t` is `s` with messages sent: ports and stream numbers move on, what has left stays sent, and the ports serve as they did. -/
structure Told (s t : State) : Prop where
  rest : t = { s with nxp := { s.nxp with ports := t.nxp.ports, txSeqs := t.nxp.txSeqs }, out := t.out }
  out : ∀ e ∈ s.out, e ∈ t.out
  serves : CanSend s → CanSend t

/-- A message that has left the device. -/
def Left (d sub : Nat) (m : MgrMsg) (s : State) : Prop := ∃ p, Emit.manager p d sub m ∈ s.out

namespace Told

theorem refl (s : State) : Told s s := ⟨rfl, fun _ h => h, id⟩

variable {s t u : State}

theorem trans (h : Told s t) (k : Told t u) : Told s u where
  rest := by rw [k.rest, h.rest]
  out := fun e mem => k.out e (h.out e mem)
  serves := k.serves ∘ h.serves

/-- What Nunex holds beside ports and stream numbers stays. -/
theorem keeps {α : Type} (h : Told s t) (f : Fabric → α) (hf : ∀ n ports seqs, f { n with ports := ports, txSeqs := seqs } = f n := by
    exact fun _ _ _ => rfl) : f t.nxp = f s.nxp := by
  rw [h.rest]
  exact hf ..

theorem msg (h : Told s t) : t.msg = s.msg := by rw [h.rest]; rfl
theorem current (h : Told s t) : t.current = s.current := by rw [h.rest]; rfl
theorem other (h : Told s t) : t.other = s.other := by rw [h.rest]; rfl
theorem across (h : Told s t) : t.across = s.across := by rw [h.rest]; rfl
theorem left (h : Told s t) {d sub : Nat} {m : MgrMsg} (sent : Left d sub m s) : Left d sub m t := sent.imp fun _ => h.out _

theorem foldl {α : Type} {f : State → α → State} (hf : ∀ t a, Told t (f t a)) (l : List α) : ∀ s, Told s (l.foldl f s) := by
  induction l with
  | nil => exact refl
  | cons a l ih => exact fun s => (hf s a).trans (ih _)

theorem branch {c : Prop} {_ : Decidable c} (ht : Told s t) (hu : Told s u) : Told s (if c then t else u) := by
  split
  · exact ht
  · exact hu

/-- A message that one of many steps sends has left at the end. -/
theorem foldl_left {α : Type} {f : State → α → State} (hf : ∀ t a, Told t (f t a)) {a : α} {d sub : Nat} {m : MgrMsg} {l : List α}
    (mem : a ∈ l) (can : CanSend s) (sends : ∀ t, Told s t → CanSend t → Left d sub m (f t a)) : Left d sub m (l.foldl f s) := by
  obtain ⟨before, after, rfl⟩ := List.append_of_mem mem
  rw [List.foldl_append, List.foldl_cons]
  have sofar := foldl hf before s
  exact (foldl hf after _).left (sends _ sofar (sofar.serves can))

end Told

theorem State.sendManager_told (s : State) (d sub : Nat) (m : MgrMsg) : Told s (s.sendManager d sub m) := by
  unfold State.sendManager
  split
  next p _ =>
    refine ⟨?_, fun e mem => ?_, fun can => ?_⟩
    · unfold State.sendManagerOver State.build State.nextSseq
      dsimp only
      split <;> rfl
    · rw [State.sendManagerOver_eq]
      exact List.mem_cons_of_mem _ mem
    · simpa [CanSend, State.choosePort_isSome, State.sendManagerOver_serves] using can
  · exact .refl s

theorem State.sendManager_left {s : State} (can : CanSend s) (d sub : Nat) (m : MgrMsg) : Left d sub m (s.sendManager d sub m) := by
  obtain ⟨⟨p, e⟩, _⟩ := State.sendManager_sent d sub m can
  exact ⟨p, by rw [e]; exact List.mem_cons_self⟩

theorem State.toMembers_told (s : State) (sub : Nat) (m : MgrMsg) : Told s (s.toMembers sub m) :=
  Told.foldl (fun t d => t.sendManager_told d sub m) _ s

/-- A message to the members leaves for each current one. -/
theorem State.toMembers_left {s : State} (can : CanSend s) (sub : Nat) (m : MgrMsg) : ∀ d ∈ s.current, Left d sub m (s.toMembers sub m) :=
  (State.toMembers_sent sub m can).2.2

/-! ## Barriers -/

section
variable (s : State)

/-- The commits that both acknowledgements cover. -/
def CommitRec.acked (c : CommitRec) : Bool := c.standbyAck && c.pairAck

/-- The commits that both acknowledgements cover end, with their barriers. -/
def State.dropAcked (s : State) : State :=
  { s with nxp := { s.nxp with
    commits := s.nxp.commits.filter (fun c => !c.acked)
    ready := s.nxp.ready.filter (fun r => !(s.nxp.commits.filter CommitRec.acked).any (fun c => decide (c.job = r.job ∧ c.step = r.step))) } }

theorem State.sendCommits_eq : s.sendCommits = (s.nxp.commits.filter CommitRec.acked).foldl
    (fun s c => s.toMembers 6 { s.msg with job := c.job, step := c.step }) s.dropAcked := rfl

theorem State.sendCommits_told : Told s.dropAcked s.sendCommits := Told.foldl (fun t _ => t.toMembers_told ..) _ _

/-- Nothing is sent while no commit has both acknowledgements. -/
theorem State.sendCommits_none {s : State} (none_ : ∀ c ∈ s.nxp.commits, c.acked = false) : s.sendCommits = s := by
  have empty : s.nxp.commits.filter CommitRec.acked = [] := List.filter_eq_nil_iff.mpr fun c mem => by simp [none_ c mem]
  have all : s.nxp.commits.filter (fun c => !c.acked) = s.nxp.commits := List.filter_eq_self.mpr fun c mem => by simp [none_ c mem]
  rw [State.sendCommits_eq, empty]
  simp only [State.dropAcked, empty, all, List.any_nil, Bool.not_false, List.filter_true, List.foldl_nil]

/-- COMMIT of a record that both acknowledgements cover goes to every member (R377). -/
theorem State.sendCommits_left {s : State} (can : CanSend s) {c : CommitRec} (mem : c ∈ s.nxp.commits) (acked : c.acked = true) :
    ∀ d ∈ s.current, Left d 6 { s.msg with job := c.job, step := c.step } s.sendCommits := by
  intro d member
  rw [State.sendCommits_eq]
  refine Told.foldl_left (fun t _ => t.toMembers_told ..) (List.mem_filter.mpr ⟨mem, acked⟩) can fun t told can => ?_
  have sent := State.toMembers_left can 6 { t.msg with job := c.job, step := c.step } d (by rw [told.current]; exact member)
  rwa [told.msg] at sent ⊢

end

/-! ## What the manager's operations leave alone -/

/-- `t` is reached from `s` by the manager's operations on barriers, on changes and on the pairing, whose messages and events leave every
other part of Nunex. -/
structure Managed (s t : State) : Prop where
  nxp : t.nxp = { s.nxp with
    ports := t.nxp.ports, txSeqs := t.nxp.txSeqs, ready := t.nxp.ready, jobs := t.nxp.jobs, recorded := t.nxp.recorded
    commits := t.nxp.commits, pair := t.nxp.pair, changes := t.nxp.changes }

theorem Told.managed {s t : State} (h : Told s t) : Managed s t := ⟨by rw [h.rest]⟩

namespace Managed

variable {s t u : State}

theorem refl (s : State) : Managed s s := ⟨rfl⟩
theorem trans (h : Managed s t) (k : Managed t u) : Managed s u := ⟨by rw [k.nxp, h.nxp]⟩
theorem replied (h : Managed s t) (r : Replied t u) : Managed s u := ⟨by rw [r.nxp, h.nxp]⟩

theorem keeps {α : Type} (h : Managed s t) (f : Fabric → α)
    (hf : ∀ n ports seqs ready jobs recorded commits pair changes, f { n with
      ports := ports, txSeqs := seqs, ready := ready, jobs := jobs, recorded := recorded, commits := commits, pair := pair
      changes := changes } = f n := by exact fun _ _ _ _ _ _ _ _ _ => rfl) : f t.nxp = f s.nxp := by
  rw [h.nxp]
  exact hf ..

theorem foldl {α : Type} {f : State → α → State} (hf : ∀ t a, Managed t (f t a)) (l : List α) : ∀ s, Managed s (l.foldl f s) := by
  induction l with
  | nil => exact refl
  | cons a l ih => exact fun s => (hf s a).trans (ih _)

end Managed

theorem State.sendCommits_managed (s : State) : Managed s s.sendCommits := (⟨rfl⟩ : Managed s s.dropAcked).trans s.sendCommits_told.managed

theorem State.recordCommit_managed (s : State) (hall job step : Nat) : Managed s (s.recordCommit hall job step) := by
  unfold State.recordCommit
  split <;> exact ⟨rfl⟩

section
variable (s : State) (r : ReadyRec)

/-- A READY is held, and its member counted to the job (R377). -/
def State.holdReady : State :=
  { s with nxp := { s.nxp with
    ready := if s.nxp.ready.contains r then s.nxp.ready else s.nxp.ready ++ [r]
    jobs := if s.nxp.jobs.contains (r.job, r.from_) then s.nxp.jobs else s.nxp.jobs ++ [(r.job, r.from_)] } }

/-- A commit is recorded, and its record goes to the standby and, while the pair is intact, across the halls (R377, R378). -/
def State.tellCommit : State :=
  let k : MgrMsg := { s.msg with job := r.job, step := r.step }
  let s := s.recordCommit s.nxp.hall r.job r.step
  let s := if s.nxp.standby then s.sendManager s.other 8 { k with role := 6 } else s
  if s.nxp.pair then s.sendManager s.across 8 { k with role := 6 } else s

/-- The commit waits for the acknowledgements that its record has been sent for. -/
def State.queueCommit : State :=
  { s with nxp := { s.nxp with commits := s.nxp.commits ++ [⟨r.job, r.step, !s.nxp.standby, !s.nxp.pair⟩] } }

/-- A READY is held; with the last one of its step, a commit begins (R377). -/
theorem State.addReady_eq : s.addReady r =
    if ((s.holdReady r).nxp.ready.filter (fun q => decide (q.job = r.job ∧ q.step = r.step))).length < r.members
      ∨ s.nxp.commits.any (fun c => decide (c.job = r.job ∧ c.step = r.step)) then s.holdReady r
    else (((s.holdReady r).tellCommit r).queueCommit r).sendCommits := rfl

theorem State.tellCommit_told : Told (s.recordCommit s.nxp.hall r.job r.step) (s.tellCommit r) :=
  (Told.branch (State.sendManager_told ..) (.refl _)).trans (Told.branch (State.sendManager_told ..) (.refl _))

theorem State.addReady_managed : Managed s (s.addReady r) := by
  rw [State.addReady_eq]
  split
  · exact ⟨rfl⟩
  · have told := ((s.holdReady r).recordCommit_managed _ r.job r.step).trans ((s.holdReady r).tellCommit_told r).managed
    exact ((⟨rfl⟩ : Managed s (s.holdReady r)).trans told).trans
      ((⟨rfl⟩ : Managed _ (((s.holdReady r).tellCommit r).queueCommit r)).trans (State.sendCommits_managed _))

end

section
variable (s : State) (on : Bool)

/-- The pairing as a change leaves it: a broken pair's commits wait for the other hall no more (R378). -/
def State.paired : State :=
  { s with nxp := { s.nxp with
    pair := on, commits := if on then s.nxp.commits else s.nxp.commits.map (fun (c : CommitRec) => { c with pairAck := true }) } }

theorem State.setPair_eq : s.setPair on = ((s.paired on).sendCommits.toMembers 4
    { (s.paired on).msg with ident := (s.paired on).across, state := b2n (!on) }).fabricChange (if on then 8 else 7) 0 (s.paired on).across :=
  rfl

/-- The pairing is as the change leaves it, and its commits are those that are not covered yet. -/
theorem State.setPair_keeps {α : Type} (f : Fabric → α) (hf : ∀ n ports seqs, f { n with ports := ports, txSeqs := seqs } = f n := by
    exact fun _ _ _ => rfl) : f (s.setPair on).nxp = f (s.paired on).dropAcked.nxp := by
  rw [State.setPair_eq, (State.fabricChange_replied ..).nxp, (State.toMembers_told ..).keeps f hf, (State.sendCommits_told _).keeps f hf]

theorem State.setPair_managed : Managed s (s.setPair on) := by
  rw [State.setPair_eq]
  exact (((⟨rfl⟩ : Managed s (s.paired on)).trans (State.sendCommits_managed _)).trans (State.toMembers_told ..).managed).replied
    (State.fabricChange_replied ..)

end

/-- One of the messages of a change. -/
def State.sendTo (s : State) (e : Nat × Nat × MgrMsg) : State := s.sendManager e.1 e.2.1 e.2.2

theorem State.sendTo_told (s : State) (e : Nat × Nat × MgrMsg) : Told s (s.sendTo e) := s.sendManager_told ..

/-- The event of a change. -/
def State.postChange (s : State) : Option (Nat × Nat × Nat) → State
  | some (kind, port, id) => s.fabricChange kind port id
  | none => s

/-- The READY of a change. -/
def State.holdChange (s : State) : Option ReadyRec → State
  | some r => s.addReady r
  | none => s

/-- The pairing of a change. -/
def State.pairChange (s : State) : Option Bool → State
  | some on => s.setPair on
  | none => s

section
variable (s : State) (c : Change)

theorem State.act_eq : s.act c = (((c.send.foldl State.sendTo s).postChange c.event).holdChange c.ready).pairChange c.pair := rfl

theorem State.postChange_replied (e : Option (Nat × Nat × Nat)) : Replied s (s.postChange e) := by
  unfold State.postChange
  split
  · exact State.fabricChange_replied ..
  · exact .refl s

theorem State.act_managed : Managed s (s.act c) := by
  have posted := (Told.foldl State.sendTo_told c.send s).managed.replied (State.postChange_replied _ c.event)
  rw [State.act_eq]
  cases c.ready with
  | none =>
    cases c.pair with
    | none => exact posted
    | some on => exact posted.trans (State.setPair_managed ..)
  | some r =>
    cases c.pair with
    | none => exact posted.trans (State.addReady_managed ..)
    | some on => exact (posted.trans (State.addReady_managed ..)).trans (State.setPair_managed ..)

/-- A change that the standby records first is sent to it, and waits (R375). -/
theorem State.change_waits : s.change true c =
    ({ s with nxp := { s.nxp with changes := s.nxp.changes ++ [c] } } : State).sendManager s.other 8 c.msg := rfl

theorem State.change_managed (waits : Bool) : Managed s (s.change waits c) := by
  cases waits with
  | false => exact s.act_managed c
  | true => exact (⟨rfl⟩ : Managed s { s with nxp := { s.nxp with changes := s.nxp.changes ++ [c] } }).trans (State.sendManager_told ..).managed

theorem State.announce_managed (waits : Bool) (id : Nat) (first : List (Nat × Nat × MgrMsg)) (event : Option (Nat × Nat × Nat)) :
    Managed s (s.announce waits id first event) := by
  unfold State.announce
  split
  · exact .refl s
  · exact s.change_managed ..

/-- A barrier step that is abandoned is forgotten (R377). -/
def State.dropBarrier (s : State) (job step : Nat) : State :=
  { s with nxp := { s.nxp with
    ready := s.nxp.ready.filter (fun r => !decide (r.job = job ∧ r.step = step))
    commits := s.nxp.commits.filter (fun c => !decide (c.job = job ∧ c.step = step)) } }

theorem State.abandonStep_eq (job step : Nat) : s.abandonStep job step = (s.dropBarrier job step).change s.nxp.standby
    ⟨{ s.msg with job := job, step := step, role := 7 },
      s.current.map (fun d => (d, 7, { s.msg with job := job, step := step })), none, none, none⟩ := rfl

theorem State.abandonStep_managed (job step : Nat) : Managed s (s.abandonStep job step) := by
  rw [State.abandonStep_eq]
  have forgotten : Managed s (s.dropBarrier job step) := ⟨rfl⟩
  exact forgotten.trans ((s.dropBarrier job step).change_managed ..)

theorem State.abandonFor_managed (id : Nat) : Managed s (s.abandonFor id) := by
  unfold State.abandonFor
  exact Managed.foldl (fun t (e : Nat × Nat) => t.abandonStep_managed e.1 e.2) _ s

end

end Sys2Proof.Machine
end

section
/-! SUPPORT. Barriers (R375, R377, R378, R410): READY until the last member's, the commit that follows, what COMMIT and ABANDON do to a member's
step, and the records that the two managers and the two halls keep. -/

namespace Sys2Proof.Machine

open Safety

/-! ## READY -/

section
variable {s : State}

theorem State.active_of_mgr (active : s.nxp.mgr = 2) : s.active = true := decide_eq_true active

theorem State.recordCommit_recorded (hall job step : Nat) : (hall, job, step) ∈ (s.recordCommit hall job step).nxp.recorded := by
  unfold State.recordCommit
  split
  next known => exact List.contains_iff_mem.mp known
  · exact List.mem_append_right _ List.mem_cons_self

/-- Recording a commit changes what is recorded, and nothing else. -/
theorem State.recordCommit_eq (hall job step : Nat) : s.recordCommit hall job step =
    { s with nxp := { s.nxp with recorded := (s.recordCommit hall job step).nxp.recorded } } := by
  unfold State.recordCommit
  split <;> rfl

variable (s) (r : ReadyRec)

/-- The commit that follows a step's last READY: recorded, told and queued (R377). -/
def State.beginCommit : State := ((s.holdReady r).tellCommit r).queueCommit r

theorem State.beginCommit_recorded : (s.nxp.hall, r.job, r.step) ∈ (s.beginCommit r).nxp.recorded := by
  have kept : (s.beginCommit r).nxp.recorded = _ := ((s.holdReady r).tellCommit_told r).keeps Fabric.recorded
  rw [kept]
  exact State.recordCommit_recorded ..

/-- Nunex as a commit that begins leaves it, but for what is recorded, queued and sent. -/
theorem State.beginCommit_keeps {α : Type} (f : Fabric → α)
    (hf : ∀ n ports seqs recorded commits, f { n with ports := ports, txSeqs := seqs, recorded := recorded, commits := commits } = f n := by
      exact fun _ _ _ _ _ => rfl) : f (s.beginCommit r).nxp = f (s.holdReady r).nxp := by
  unfold State.beginCommit State.queueCommit
  rw [((s.holdReady r).tellCommit_told r).rest, State.recordCommit_eq]
  exact hf (s.holdReady r).nxp ..

theorem State.beginCommit_msg : (s.beginCommit r).msg = s.msg := s.beginCommit_keeps r fun n => State.msg { s with nxp := n }
theorem State.beginCommit_current : (s.beginCommit r).current = s.current := s.beginCommit_keeps r fun n => State.current { s with nxp := n }

theorem State.beginCommit_commits : (s.beginCommit r).nxp.commits = s.nxp.commits ++ [⟨r.job, r.step, !s.nxp.standby, !s.nxp.pair⟩] := by
  unfold State.beginCommit State.queueCommit
  rw [((s.holdReady r).tellCommit_told r).rest, State.recordCommit_eq]
  rfl

theorem State.beginCommit_canSend (can : CanSend s) : CanSend (s.beginCommit r) := by
  refine ((s.holdReady r).tellCommit_told r).serves ?_
  rw [State.recordCommit_eq]
  exact can

/-- Until a step's last READY nothing more happens (R377). -/
theorem State.addReady_few
    (few : ((s.holdReady r).nxp.ready.filter (fun q => decide (q.job = r.job ∧ q.step = r.step))).length < r.members) :
    s.addReady r = s.holdReady r := (s.addReady_eq r).trans (if_pos (.inl few))

/-- With the last READY of a step its commit begins (R377). -/
theorem State.addReady_last (open_ : s.nxp.commits = [])
    (last : r.members ≤ ((s.holdReady r).nxp.ready.filter (fun q => decide (q.job = r.job ∧ q.step = r.step))).length) :
    s.addReady r = (s.beginCommit r).sendCommits := by
  refine (s.addReady_eq r).trans (if_neg ?_)
  rw [open_]
  simpa using last

end

/-- A member's READY, at the active manager (R375, R377). -/
theorem execReady_active {s : State} {m : MgrMsg} (clocked : Clocked s) (active : s.nxp.mgr = 2)
    (agrees : ∀ q ∈ s.nxp.ready, q.job = m.job → q.members = m.members) :
    execReady m s = .next (s.change (s.nxp.standby && !s.nxp.ready.contains ⟨m.job, m.step, m.members, m.src⟩)
      ⟨{ s.msg with job := m.job, step := m.step, members := m.members, ident := m.src, role := 5 }, [], none,
        some ⟨m.job, m.step, m.members, m.src⟩, none⟩) := by
  have held : s.nxp.ready.any (fun r => decide (r.job = m.job ∧ r.members ≠ m.members)) = false :=
    List.any_eq_false.mpr fun q mem => by simpa using agrees q mem
  simp only [execReady, show s.power.stopped = false from clocked, State.active_of_mgr active, held, Bool.not_true, Bool.or_self,
    Bool.false_eq_true, if_false]

/-- A READY that names another number of members is refused (log 49). -/
theorem execReady_refused {s : State} {m : MgrMsg} (clocked : Clocked s) (active : s.nxp.mgr = 2)
    (differs : ∃ q ∈ s.nxp.ready, q.job = m.job ∧ q.members ≠ m.members) :
    execReady m s = .next (s.sendManager m.src 7 { s.msg with job := m.job, step := m.step, state := 0x504 }) := by
  have other : s.nxp.ready.any (fun r => decide (r.job = m.job ∧ r.members ≠ m.members)) = true :=
    let ⟨q, mem, ne⟩ := differs
    List.any_eq_true.mpr ⟨q, mem, decide_eq_true ne⟩
  simp only [execReady, show s.power.stopped = false from clocked, State.active_of_mgr active, other, Bool.not_true, Bool.or_self,
    Bool.false_eq_true, if_false, if_true]

/-! ## COMMIT and ABANDON at a member -/

section
variable {s : State} {m : MgrMsg} {x : Nat} {c : Ctx}

/-- The end of a context's STEP_COMMIT (R377). -/
theorem State.endCommit_eq (present : s.ctx x = some c) {w : CommitWait} (waits : c.commit = some w) (code : Nat) :
    s.endCommit x code =
      (s.setCtx x { c with commit := none, committed := c.committed || decide (code = 0) }).finish w.cmd 0x0B code [] := by
  simp only [State.endCommit, present, Option.bind_some, waits, State.modCtx]

variable (clocked : Clocked s) (current : s.nxp.term ≤ m.term) (only : s.ofJob m.job = [(x, c)])
include clocked current only

theorem execCommit_only : execCommit m s = .next (if c.commit.map CommitWait.step = some m.step then s.endCommit x 0 else s) := by
  simp only [execCommit, show s.power.stopped = false from clocked, decide_eq_false (not_lt.mpr current), Bool.or_self, Bool.false_eq_true,
    if_false, only, List.foldl_cons, List.foldl_nil]

theorem execAbandon_only (member : s.nxp.mgr ≠ 2) : execAbandon m s = .next (
    let code := if m.state = 0x504 then 0x504 else 0x503
    let t := if c.commit.map CommitWait.step = some m.step then s.endCommit x code else s
    if code = 0x503 ∧ c.step = some m.step ∧ c.committed = false then t.modCtx x Ctx.abandoned else t) := by
  simp only [execAbandon, show s.power.stopped = false from clocked, show s.active = false from decide_eq_false member,
    if_neg (not_lt.mpr current), Bool.false_eq_true, if_false, only, List.foldl_cons, List.foldl_nil]

end

/-! ## Records and their acknowledgements -/

/-- The record of a MIRROR as a manager takes it: the standby of its hall each kind, every manager a commit's (R375, R377). -/
def State.takeMirror (s : State) (m : MgrMsg) (kind : Nat) : State :=
  let u := if decide (m.src / 32768 = s.nxp.hall) && decide (s.nxp.mgr = 1) then s.takeRecord m kind else s
  if kind = 6 then u.recordCommit (m.src / 32768) m.job m.step else u

/-- The record of a commit is kept, and at the standby its barrier ends (R377). -/
theorem State.takeMirror_commit (s : State) (m : MgrMsg) : (m.src / 32768, m.job, m.step) ∈ (s.takeMirror m 6).nxp.recorded
    ∧ s.takeMirror m 6 = { s with nxp := { s.nxp with
      ready := (s.takeMirror m 6).nxp.ready, recorded := (s.takeMirror m 6).nxp.recorded } } := by
  refine ⟨State.recordCommit_recorded .., ?_⟩
  unfold State.takeMirror
  rw [if_pos rfl, State.recordCommit_eq]
  split <;> rfl

section
variable {s : State} {m : MgrMsg}

/-- A manager takes no record of its hall with a lower term than it has seen (R375). -/
theorem execMirror_stale (mine : m.src / 32768 = s.nxp.hall) (stale : m.term < s.nxp.term) (kind : Nat) : execMirror m kind s = .next s := by
  simp [execMirror, mine, stale]

variable (clocked : Clocked s) (manages : s.nxp.mgr ≠ 0) (current : m.src / 32768 ≠ s.nxp.hall ∨ s.nxp.term ≤ m.term)
include clocked manages current

/-- A manager is free to take a record that is not of a lower term of its hall. -/
theorem mirror_taken :
    (s.power.stopped || decide (s.nxp.mgr = 0) || (decide (m.src / 32768 = s.nxp.hall) && decide (m.term < s.nxp.term))) = false := by
  rw [show s.power.stopped = false from clocked, decide_eq_false manages]
  rcases current with across | current
  · rw [decide_eq_false across]; rfl
  · rw [decide_eq_false (not_lt.mpr current), Bool.and_false]; rfl

/-- A record is taken and acknowledged (R375, R377). -/
theorem execMirror_record {kind : Nat} (record : kind ≠ 0) : execMirror m kind s = .next ((s.takeMirror m kind).sendManager m.src 8
    { (s.takeMirror m kind).msg with job := m.job, step := m.step, ident := m.ident, request := kind }) := by
  simp only [execMirror, mirror_taken clocked manages current, if_neg record, Bool.false_eq_true, if_false]
  rfl

/-- An acknowledgement, at the active manager. -/
theorem execMirror_ack (active : s.nxp.mgr = 2) : execMirror m 0 s = .next (s.mirrorAcked m) := by
  simp only [execMirror, mirror_taken clocked manages current, State.active_of_mgr active, Bool.false_eq_true, if_false, if_true]

end

section
variable {s : State} {m : MgrMsg}

/-- The acknowledgement of the change that waits longest: the active manager acts on it (R375). -/
theorem State.mirrorAcked_change {c : Change} {l : List Change} (mine : m.src / 32768 = s.nxp.hall) (waits : s.nxp.changes = c :: l)
    (role : c.msg.role = m.request) (kind : m.request ≠ 6) (ident : c.msg.ident = m.ident) (job : c.msg.job = m.job)
    (step : c.msg.step = m.step) : s.mirrorAcked m = ({ s with nxp := { s.nxp with changes := l } } : State).act c := by
  have found : findIdx (fun (c : Change) => decide (m.src / 32768 = s.nxp.hall) && decide (c.msg.role = m.request ∧ c.msg.ident = m.ident
      ∧ c.msg.job = m.job ∧ c.msg.step = m.step)) (c :: l) = some (0, c) := by
    simp [findIdx, mine, role, ident, job, step]
  simp only [State.mirrorAcked, if_pos kind, waits, found, List.eraseIdx_cons_zero]

/-- The standby's acknowledgement of the only commit that is open. -/
theorem State.mirrorAcked_commit {c : CommitRec} (mine : m.src / 32768 = s.nxp.hall) (kind : m.request = 6) (open_ : s.nxp.commits = [c])
    (job : c.job = m.job) (step : c.step = m.step) :
    s.mirrorAcked m = ({ s with nxp := { s.nxp with commits := [{ c with standbyAck := true }] } } : State).sendCommits := by
  simp only [State.mirrorAcked, kind, open_, mine, job, step, ne_eq, not_true, if_false, List.map_cons, List.map_nil, and_self, if_true,
    decide_true]

end

/-! ## The pairing -/

/-- A change of the pairing that nothing waits before (R378). -/
theorem State.changePair_first {s : State} (none_ : s.nxp.changes = []) (on : Bool) : s.changePair on =
    s.change s.nxp.standby ⟨{ s.msg with role := 3, ident := s.across, state := b2n (!on) }, [], none, none, some on⟩ := by
  simp only [State.changePair, none_, List.any_nil, Bool.false_eq_true, if_false]

/-- The change that breaks the pairing. -/
def State.pairBreak (s : State) : Change := ⟨{ s.msg with role := 3, ident := s.across, state := b2n (!false) }, [], none, none, some false⟩

/-- PAIR_BROKEN, where a commit record waits for the other hall. -/
theorem execPairBroken_waiting {s : State} (clocked : Clocked s) (active : s.nxp.mgr = 2) (pair : s.nxp.pair = true)
    (waits : ∃ c ∈ s.nxp.commits, c.pairAck = false) : execPairBroken s = .next (s.changePair false) := by
  have some_ : s.nxp.commits.any (fun c => !c.pairAck) = true :=
    let ⟨c, mem, unacked⟩ := waits
    List.any_eq_true.mpr ⟨c, mem, by rw [unacked]; rfl⟩
  simp only [execPairBroken, show s.power.stopped = false from clocked, State.active_of_mgr active, pair, some_, Bool.not_true, Bool.or_self,
    Bool.false_eq_true, if_false]

/-- Settles O52: READY by how many are held, COMMIT and ABANDON by the step of the one context that they reach, records by their kind. -/
theorem barriersCommitOrAbandon : Obligations.BarriersCommitOrAbandon := by
  unfold Obligations.BarriersCommitOrAbandon
  refine ⟨fun s m clocked active => ⟨execReady_refused clocked active, fun agrees => ?_⟩, fun s r open_ => ⟨s.addReady_few r, fun last => ?_⟩,
    fun s m x c clocked member current present only => ?_, fun c => ?_, fun s m clocked active => ?_, fun s m kind clocked => ?_,
    fun s m c l clocked active mine current waits role kind ident job step => ?_,
    fun s m c clocked active mine current kind open_ job step => ?_, fun s clocked active pair waits none_ => ?_⟩
  · refine ⟨fun standby new => (execReady_active clocked active agrees).trans ?_,
      fun at_once => (execReady_active clocked active agrees).trans ?_⟩
    · rw [standby, List.contains_eq_mem, decide_eq_false new]
      rfl
    · rw [show (s.nxp.standby && !s.nxp.ready.contains ⟨m.job, m.step, m.members, m.src⟩) = false by
        rcases at_once with none_ | known
        · rw [none_]; rfl
        · rw [List.contains_iff_mem.mpr known, Bool.not_true, Bool.and_false]]
      rfl
  · have commits := s.beginCommit_commits r
    rw [open_, List.nil_append] at commits
    have sent := (s.beginCommit r).sendCommits_told
    rw [s.addReady_last r open_ last]
    refine ⟨?_, fun alone single => ⟨?_, fun q mem => ?_, fun can d member => ?_⟩, fun told => ?_⟩
    · rw [sent.keeps Fabric.recorded]
      exact s.beginCommit_recorded r
    · rw [sent.keeps Fabric.commits, State.dropAcked, commits, alone, single]
      rfl
    · rw [sent.keeps Fabric.ready, State.dropAcked, commits, alone, single] at mem
      intro same
      simpa [CommitRec.acked, same] using (List.mem_filter.mp mem).2
    · have left := State.sendCommits_left (s.beginCommit_canSend r can) (c := ⟨r.job, r.step, true, true⟩)
        (by rw [commits, alone, single]; exact List.mem_cons_self) rfl d (by rwa [s.beginCommit_current])
      rwa [s.beginCommit_msg] at left
    · rw [State.sendCommits_none]
      · exact ⟨commits, s.beginCommit_keeps r Fabric.ready⟩
      · rw [commits]
        rcases told with standby | pair
        · simp [CommitRec.acked, standby]
        · simp [CommitRec.acked, pair]
  · have commits : exec (.commit m) s = _ := execCommit_only clocked current only
    have abandons : exec (.abandon m) s = _ := execAbandon_only clocked current only member
    refine ⟨fun w waits step => ?_, fun other => ?_, fun none_ reason begun open_ => ?_,
      fun w waits step open_ begun => ⟨fun reason => ?_, fun reason => ?_⟩⟩
    · rw [commits, if_pos (by rw [waits, ← step]; rfl), State.endCommit_eq present waits]
      simp
    · rw [commits, if_neg]
      cases waits : c.commit with
      | none => exact Option.some_ne_none _ ∘ Eq.symm
      | some w => exact fun same => other w waits (Option.some.inj same)
    · rw [abandons]
      simp [none_, reason, begun, open_, State.modCtx, present]
    · rw [abandons]
      simp [waits, step, reason, begun, open_, State.endCommit_eq present waits]
    · rw [abandons]
      simp [waits, step, reason, open_, State.endCommit_eq present waits]
  · refine ⟨fun told => ?_, fun untold none_ => ?_, fun untold some_ => ?_⟩
    · rw [Ctx.abandoned, if_pos told]
    · rw [Ctx.abandoned, if_neg (by rw [untold]; exact Bool.false_ne_true), if_pos none_]
    · rw [Ctx.abandoned, if_neg (by rw [untold]; exact Bool.false_ne_true), if_neg some_]
  · simp only [exec, execAbandon, show s.power.stopped = false from clocked, State.active_of_mgr active, Bool.false_eq_true, if_false, if_true]
  · refine ⟨fun mine stale => execMirror_stale mine stale kind, fun standby mine current => ?_, fun manages current => ?_⟩
    · refine (execMirror_record clocked (by rw [standby]; decide) (.inr current) (by decide)).trans ?_
      have taken : s.takeMirror m 5 = s.takeRecord m 5 := by
        rw [State.takeMirror, decide_eq_true mine, decide_eq_true standby]
        rfl
      rw [taken]
      rfl
    · obtain ⟨recorded, taken⟩ := s.takeMirror_commit m
      refine ⟨_, execMirror_record clocked manages current (by decide), ?_, fun can => ?_⟩
      · rwa [(State.sendManager_told ..).keeps Fabric.recorded]
      · have left := State.sendManager_left (s := s.takeMirror m 6) (by rw [taken]; exact can) m.src 8
          { (s.takeMirror m 6).msg with job := m.job, step := m.step, ident := m.ident, request := 6 }
        rwa [show (s.takeMirror m 6).msg = s.msg by rw [taken]; rfl] at left ⊢
  · rw [show exec (.mirror m 0) s = _ from execMirror_ack clocked (by rw [active]; decide) (.inr current) active,
      State.mirrorAcked_change mine waits role kind ident job step]
  · have runs : exec (.mirror m 0) s = _ := execMirror_ack clocked (by rw [active]; decide) (.inr current) active
    rw [State.mirrorAcked_commit mine kind open_ job step] at runs
    refine ⟨fun unacked => ?_, fun acked => ⟨_, runs, ?_, fun can d member => ?_⟩⟩
    · rw [runs, State.sendCommits_none]
      simp [CommitRec.acked, unacked]
    · rw [(State.sendCommits_told _).keeps Fabric.commits]
      simp [State.dropAcked, CommitRec.acked, acked]
    · have left := State.sendCommits_left (s := { s with nxp := { s.nxp with commits := [{ c with standbyAck := true }] } }) can
        List.mem_cons_self (by simp [CommitRec.acked, acked]) d member
      rw [← job, ← step]
      exact left
  · have runs : exec .pairBroken s = _ := execPairBroken_waiting clocked active pair waits
    rw [State.changePair_first none_] at runs
    refine ⟨fun alone => ?_, fun standby => ?_⟩
    · rw [alone] at runs
      refine ⟨_, runs, ?_, ?_⟩
      · exact s.setPair_keeps false Fabric.pair
      · intro c (mem : c ∈ (s.setPair false).nxp.commits)
        rw [s.setPair_keeps false Fabric.commits] at mem
        obtain ⟨kept, open_⟩ := List.mem_filter.mp mem
        obtain ⟨d, _, rfl⟩ := List.mem_map.mp kept
        simpa [CommitRec.acked] using open_
    · rw [standby, State.change_waits] at runs
      have told := State.sendManager_told
        { s with nxp := { s.nxp with changes := s.nxp.changes ++ [s.pairBreak] } } s.other 8 s.pairBreak.msg
      refine ⟨_, s.pairBreak, runs, (told.keeps Fabric.pair).trans pair, (told.keeps Fabric.changes).trans ?_, rfl⟩
      rw [none_]
      rfl

end Sys2Proof.Machine
end

section
/-! SUPPORT. Heartbeats and terms (R375, R376, R378): who hears one, what a manager and a member take from one, and the copy that a new standby
is sent. -/

namespace Sys2Proof.Machine

open Safety

/-! ## The copy for a new standby -/

section
variable (s : State)

/-- The record of a member, for the standby. -/
def State.tellMember (s : State) (e : Nat × Member) : State :=
  s.sendManager s.other 8 { s.msg with ident := e.1, epoch := e.2.epoch, state := e.2.state, dies := e.2.dies, role := 4 }

/-- The record of a commit of this hall, for the standby. -/
def State.tellRecorded (s : State) (c : Nat × Nat × Nat) : State :=
  if c.1 = s.nxp.hall then s.sendManager s.other 8 { s.msg with job := c.2.1, step := c.2.2, role := 6 } else s

/-- The record of a READY, for the standby. -/
def State.tellReady (s : State) (r : ReadyRec) : State :=
  s.sendManager s.other 8 { s.msg with job := r.job, step := r.step, members := r.members, ident := r.from_, role := 5 }

/-- The standby hears of the members and then of the pairing. -/
def State.tellMembers : State :=
  let t := s.nxp.members.foldl State.tellMember s
  t.sendManager t.other 8 { t.msg with role := 3, ident := t.across, state := b2n (!t.nxp.pair) }

/-- The standby hears of the commits. -/
def State.tellCommits : State := s.nxp.recorded.foldl State.tellRecorded s

/-- The standby hears of the open barrier steps. -/
def State.tellBarriers : State := s.nxp.ready.foldl State.tellReady s

/-- The other manager is the standby. -/
def State.withStandby : State := { s with nxp := { s.nxp with standby := true } }

theorem State.newStandby_eq : s.newStandby = s.withStandby.tellMembers.tellCommits.tellBarriers := rfl

theorem State.tellMember_told (s : State) (e : Nat × Member) : Told s (s.tellMember e) := s.sendManager_told ..
theorem State.tellRecorded_told (s : State) (c : Nat × Nat × Nat) : Told s (s.tellRecorded c) :=
  Told.branch (s.sendManager_told ..) (.refl s)
theorem State.tellReady_told (s : State) (r : ReadyRec) : Told s (s.tellReady r) := s.sendManager_told ..

theorem State.tellMembers_told : Told s s.tellMembers := (Told.foldl State.tellMember_told _ s).trans (State.sendManager_told ..)
theorem State.tellCommits_told : Told s s.tellCommits := Told.foldl State.tellRecorded_told _ s
theorem State.tellBarriers_told : Told s s.tellBarriers := Told.foldl State.tellReady_told _ s

theorem State.newStandby_told : Told s.withStandby s.newStandby :=
  (s.withStandby.tellMembers_told.trans (State.tellCommits_told _)).trans (State.tellBarriers_told _)

variable {s} (can : CanSend s)
include can

theorem State.tellMembers_left {e : Nat × Member} (mem : e ∈ s.nxp.members) : Left s.other 8
    { s.msg with ident := e.1, epoch := e.2.epoch, state := e.2.state, dies := e.2.dies, role := 4 } s.tellMembers := by
  refine (State.sendManager_told ..).left (Told.foldl_left State.tellMember_told mem can fun t told can => ?_)
  rw [← told.other, ← told.msg]
  exact State.sendManager_left can ..

theorem State.tellCommits_left {c : Nat × Nat × Nat} (mem : c ∈ s.nxp.recorded) (mine : c.1 = s.nxp.hall) : Left s.other 8
    { s.msg with job := c.2.1, step := c.2.2, role := 6 } s.tellCommits := by
  refine Told.foldl_left State.tellRecorded_told mem can fun t told can => ?_
  rw [← told.other, ← told.msg, State.tellRecorded, if_pos (mine.trans (told.keeps Fabric.hall).symm)]
  exact State.sendManager_left can ..

theorem State.tellBarriers_left {r : ReadyRec} (mem : r ∈ s.nxp.ready) : Left s.other 8
    { s.msg with job := r.job, step := r.step, members := r.members, ident := r.from_, role := 5 } s.tellBarriers := by
  refine Told.foldl_left State.tellReady_told mem can fun t told can => ?_
  rw [← told.other, ← told.msg]
  exact State.sendManager_left can ..

/-- A new standby is sent the members, the commits of its hall and the open barrier steps (R375). -/
theorem State.newStandby_left :
    (∀ e ∈ s.nxp.members, Left s.other 8
      { s.msg with ident := e.1, epoch := e.2.epoch, state := e.2.state, dies := e.2.dies, role := 4 } s.newStandby)
    ∧ (∀ r ∈ s.nxp.ready, Left s.other 8
      { s.msg with job := r.job, step := r.step, members := r.members, ident := r.from_, role := 5 } s.newStandby)
    ∧ (∀ c ∈ s.nxp.recorded, c.1 = s.nxp.hall → Left s.other 8 { s.msg with job := c.2.1, step := c.2.2, role := 6 } s.newStandby) := by
  have members := s.withStandby.tellMembers_told
  have commits := members.trans (State.tellCommits_told _)
  rw [State.newStandby_eq]
  refine ⟨fun e mem => ?_, fun r mem => ?_, fun c mem mine => ?_⟩
  · exact ((State.tellCommits_told _).trans (State.tellBarriers_told _)).left (State.tellMembers_left (s := s.withStandby) can mem)
  · have left := State.tellBarriers_left (commits.serves can) (r := r) (by rw [commits.keeps Fabric.ready]; exact mem)
    rwa [commits.other, commits.msg] at left
  · have left := State.tellCommits_left (members.serves can) (c := c) (by rw [members.keeps Fabric.recorded]; exact mem)
      (by rw [members.keeps Fabric.hall]; exact mine)
    rw [members.other, members.msg] at left
    exact (State.tellBarriers_told _).left left

end

/-! ## Terms -/

section
variable {s : State} {term : Nat}

theorem State.seeTerm_higher (higher : s.nxp.term < term) : s.seeTerm term = { s with nxp := { s.nxp with
    term := term, mgr := if s.nxp.mgr = 2 then 1 else s.nxp.mgr, changes := if s.nxp.mgr = 2 then [] else s.nxp.changes } } := if_pos higher

/-- A term leaves operations and members as they are. -/
theorem State.seeTerm_keeps : (s.seeTerm term).nxp.ops = s.nxp.ops ∧ (s.seeTerm term).nxp.members = s.nxp.members := by
  unfold State.seeTerm
  split <;> exact ⟨rfl, rfl⟩

end

/-! ## Heartbeats -/

section
variable {s : State}

/-- What the active manager's heartbeat timer sends: to every member, to the standby and across the halls (R375). -/
def State.beat (s : State) (k : MgrMsg) : State :=
  let t := s.toMembers 3 k
  let u := if t.nxp.standby then t.sendManager t.other 3 k else t
  u.sendManager u.across 3 k

theorem State.beat_told (s : State) (k : MgrMsg) : Told s (s.beat k) :=
  ((s.toMembers_told 3 k).trans (Told.branch (State.sendManager_told ..) (.refl _))).trans (State.sendManager_told ..)

theorem State.beat_left (can : CanSend s) (k : MgrMsg) :
    (∀ d ∈ s.current, Left d 3 k (s.beat k)) ∧ Left s.across 3 k (s.beat k) ∧ (s.nxp.standby = true → Left s.other 3 k (s.beat k)) := by
  have members := s.toMembers_told 3 k
  have standby : Told (s.toMembers 3 k) (if (s.toMembers 3 k).nxp.standby then
      (s.toMembers 3 k).sendManager (s.toMembers 3 k).other 3 k else s.toMembers 3 k) := Told.branch (State.sendManager_told ..) (.refl _)
  refine ⟨fun d member => ?_, ?_, fun on => ?_⟩
  · exact (standby.trans (State.sendManager_told ..)).left (State.toMembers_left can 3 k d member)
  · rw [← members.across, ← standby.across]
    exact State.sendManager_left (standby.serves (members.serves can)) ..
  · refine (State.sendManager_told ..).left ?_
    rw [if_pos ((members.keeps Fabric.standby).trans on), ← members.other]
    exact State.sendManager_left (members.serves can) ..

variable (clocked : Clocked s) (joined : s.nxp.device ≠ 0x7FFF)
include clocked joined

/-- A device that has joined, with clocks that run, acts on heartbeats. -/
theorem heartbeat_taken : (s.power.stopped || decide (s.nxp.device = 0x7FFF)) = false := by
  rw [show s.power.stopped = false from clocked, decide_eq_false joined]
  rfl

theorem execHeartbeatTimer_active (active : s.nxp.mgr = 2) :
    execHeartbeatTimer s = .next (s.beat { s.msg with dies := s.nxp.diesLost }) := by
  simp only [execHeartbeatTimer, heartbeat_taken clocked joined, State.active_of_mgr active, Bool.false_eq_true, if_false, if_true]
  rfl

theorem execHeartbeatTimer_member (member : s.nxp.mgr ≠ 2) :
    execHeartbeatTimer s = .next (s.sendManager s.manager 3 { s.msg with dies := s.nxp.diesLost }) := by
  simp only [execHeartbeatTimer, heartbeat_taken clocked joined, show s.active = false from decide_eq_false member, Bool.false_eq_true,
    if_false]

variable {m : MgrMsg}

theorem execHeartbeat_across (across : m.src / 32768 ≠ s.nxp.hall) :
    execHeartbeat m s = .next (if s.active ∧ s.nxp.pair = false then s.changePair true else s) := by
  simp only [execHeartbeat, heartbeat_taken clocked joined, if_pos across, Bool.false_eq_true, if_false]
  split <;> rfl

variable (mine : m.src / 32768 = s.nxp.hall)
include mine

theorem execHeartbeat_manager (low : 0x7FFC ≤ m.src % 32768) (high : m.src % 32768 < 0x7FFF) : execHeartbeat m s = .next
    (if s.active && !s.nxp.standby && decide (m.src = s.other ∧ m.term = s.nxp.term) then s.newStandby else s.seeTerm m.term) := by
  simp only [execHeartbeat, heartbeat_taken clocked joined, mine, ne_eq, not_true, decide_eq_true (And.intro low high), Bool.false_eq_true,
    if_false, if_true]
  split <;> rfl

theorem execHeartbeat_dies {r : Member} (member : m.src % 32768 < 0x7FFC) (active : s.nxp.mgr = 2)
    (known : mfind s.nxp.members m.src = some r) (differ : r.dies ≠ m.dies) : execHeartbeat m s = .next
    (({ s with nxp := { s.nxp with members := mput s.nxp.members m.src { r with dies := m.dies } } } : State).announce
      s.nxp.standby m.src [] none) := by
  simp only [execHeartbeat, heartbeat_taken clocked joined, mine, known, State.active_of_mgr active, ne_eq, differ, not_true, not_false_eq_true,
    decide_eq_false (fun (h : 0x7FFC ≤ m.src % 32768 ∧ m.src % 32768 < 0x7FFF) => absurd h.1 (not_le.mpr member)), and_self,
    Bool.false_eq_true, if_false, if_true]

end

/-! ## MEMBERSHIP -/

section
variable {s : State} {m : MgrMsg}

/-- The member that a MEMBERSHIP tells of (R376). -/
def toldMember (m : MgrMsg) : Member := ⟨m.epoch, m.dies, m.state, decide (0x4000 ≤ m.ident % 32768 ∧ m.ident % 32768 < 0x7FFC)⟩

/-- What a member's host is told of a record, beside the epoch and the port-die states that were known (R376). -/
def State.postMember (s : State) (m : MgrMsg) (epoch dies : Nat) : State :=
  if m.state = 1 then s.fabricChange 5 0 m.ident
  else if m.state = 0 ∧ epoch ≠ m.epoch then s.fabricChange 4 0 m.ident
  else if dies ≠ m.dies then s.fabricChange 3 (if bit m.dies 0 then 0 else 1) m.ident
  else s

theorem State.postMember_replied (s : State) (m : MgrMsg) (epoch dies : Nat) : Replied s (s.postMember m epoch dies) := by
  unfold State.postMember
  split
  · exact State.fabricChange_replied ..
  · split
    · exact State.fabricChange_replied ..
    · split
      · exact State.fabricChange_replied ..
      · exact .refl s

/-- The record of a MEMBERSHIP, as a member keeps it (R376). -/
def State.keepMember (s : State) (m : MgrMsg) : State :=
  { s.seeTerm m.term with nxp := { (s.seeTerm m.term).nxp with members := mput (s.seeTerm m.term).nxp.members m.ident (toldMember m) } }

theorem execMembership_stale (stale : m.term < s.nxp.term) : execMembership m s = .next s := by
  simp only [execMembership, decide_eq_true stale, Bool.or_true, if_true]

variable (clocked : Clocked s) (current : s.nxp.term ≤ m.term)
include clocked current

theorem membership_taken : (s.power.stopped || decide (m.term < s.nxp.term)) = false := by
  rw [show s.power.stopped = false from clocked, decide_eq_false (not_lt.mpr current)]
  rfl

theorem execMembership_pairing (pairAlias : m.ident % 32768 = 0x7FFE) (member : s.nxp.mgr ≠ 2) :
    execMembership m s = .next (s.fabricChange (if m.state = 0 then 8 else 7) 0 m.ident) := by
  simp only [execMembership, membership_taken clocked current, pairAlias, show s.active = false from decide_eq_false member, Bool.false_eq_true,
    if_false, if_true]

variable (named : m.ident % 32768 ≠ 0x7FFE)
include named

theorem execMembership_leave {r : Member} (active : s.nxp.mgr = 2) (known : mfind s.nxp.members m.ident = some r) (left_ : m.state = 2) :
    execMembership m s = .next ((({ s with nxp := { s.nxp with
      members := mput s.nxp.members m.ident { r with state := 2 } } } : State).abandonFor m.ident).announce s.nxp.standby m.ident [] none) := by
  simp only [execMembership, membership_taken clocked current, if_neg named, State.active_of_mgr active, known, left_, ne_eq, not_true,
    Bool.false_eq_true, if_false, if_true]

/-- A member that takes the record of a current member of the epoch that it knows keeps its operations (R376). -/
theorem execMembership_record (member : s.nxp.mgr ≠ 2) (present : m.state = 0)
    (same : ∀ r, mfind s.nxp.members m.ident = some r → r.epoch = m.epoch) : execMembership m s = .next
      (match mfind s.nxp.members m.ident with
      | some r => if r.state = 2 then (s.keepMember m).postMember m m.epoch m.dies else (s.keepMember m).postMember m r.epoch r.dies
      | none => (s.keepMember m).postMember m 1 0) := by
  have keeps : (decide (m.state ≠ 0) || ((mfind s.nxp.members m.ident).map (fun r => decide (r.epoch ≠ m.epoch))).getD false) = false := by
    cases known : mfind s.nxp.members m.ident with
    | none => simp [present]
    | some r => simp [present, same r known]
  simp only [execMembership, membership_taken clocked current, if_neg named, show s.active = false from decide_eq_false member, keeps,
    Bool.false_eq_true, if_false]
  rfl

theorem execMembership_kept (member : s.nxp.mgr ≠ 2) (present : m.state = 0)
    (same : ∀ r, mfind s.nxp.members m.ident = some r → r.epoch = m.epoch) :
    ∃ t, execMembership m s = .next t ∧ t.nxp = (s.keepMember m).nxp := by
  refine ⟨_, execMembership_record clocked current named member present same, ?_⟩
  split
  · split <;> exact (State.postMember_replied ..).nxp
  · exact (State.postMember_replied ..).nxp

end

/-- Settles O51: heartbeats by who sends them, terms by whether they are higher, membership records by who takes them. -/
theorem heartbeatsAndTerms : Obligations.HeartbeatsAndTerms := by
  unfold Obligations.HeartbeatsAndTerms
  refine ⟨fun s clocked joined => ⟨execHeartbeatTimer_member clocked joined, fun active => ?_⟩, fun s m clocked => ⟨?_, ?_, ?_, ?_, ?_, ?_,
    execMembership_stale, execMembership_pairing clocked, fun current named => ⟨?_, ?_⟩⟩⟩
  · have told := s.beat_told { s.msg with dies := s.nxp.diesLost }
    refine ⟨_, execHeartbeatTimer_active clocked joined active, ?_, fun can => State.beat_left can _⟩
    rw [told.rest]
  · intro joined mine low high higher
    refine (execHeartbeat_manager clocked joined mine low high).trans ?_
    rw [State.seeTerm_higher higher, decide_eq_false (fun h => absurd h.2 (Nat.ne_of_gt higher)), Bool.and_false]
    rfl
  · intro joined mine low high active alone other same
    have told := s.newStandby_told
    refine ⟨s.newStandby, ?_, told.keeps Fabric.standby, told.keeps Fabric.members, told.keeps Fabric.ready, State.newStandby_left⟩
    refine (execHeartbeat_manager clocked joined mine low high).trans ?_
    rw [State.active_of_mgr active, alone, decide_eq_true ⟨other, same⟩]
    rfl
  · intro joined across
    have runs : exec (.heartbeat m) s = _ := execHeartbeat_across clocked joined across
    refine ⟨fun paired => ?_, fun active broken alone none_ => ?_⟩
    · rw [runs, if_neg (by simp [paired])]
    · rw [if_pos ⟨State.active_of_mgr active, broken⟩, State.changePair_first none_, alone] at runs
      exact ⟨_, runs, s.setPair_keeps true Fabric.pair⟩
  · intro r joined mine member active known differ
    refine ⟨_, execHeartbeat_dies clocked joined mine member active known differ, ?_⟩
    rw [(State.announce_managed ..).keeps Fabric.members]
    exact mfind_mput_same ..
  · intro stale
    simp only [exec, execTakeover, decide_eq_true stale, Bool.or_true, if_true]
  · intro higher
    have runs : exec (.takeover m) s = .next ((s.seeTerm m.term).fabricChange 6 0 m.src) := by
      simp only [exec, execTakeover, show s.power.stopped = false from clocked, decide_eq_false (not_le.mpr higher), Bool.or_self,
        Bool.false_eq_true, if_false]
    refine ⟨_, runs, ?_⟩
    rw [(State.fabricChange_replied ..).nxp, State.seeTerm_higher higher]
    exact ⟨rfl, rfl⟩
  · intro member present same
    obtain ⟨t, runs, nxp⟩ := execMembership_kept clocked current named member present same
    refine ⟨t, runs, ?_⟩
    rw [nxp]
    refine ⟨State.seeTerm_keeps.1, ?_⟩
    rw [← present]
    exact mfind_mput_same ..
  · intro r active known left_
    refine ⟨_, execMembership_leave clocked current named active known left_, ?_⟩
    rw [(State.announce_managed ..).keeps Fabric.members, (State.abandonFor_managed ..).keeps Fabric.members]
    exact mfind_mput_same ..

end Sys2Proof.Machine
end

section
/-! SUPPORT. Membership (R353, R373 to R376): what a joining, a granted and a leaving device becomes, and what the active manager records. -/

namespace Sys2Proof.Machine

open Safety

/-! ## Ports restored at a join -/

section
variable (s : State) (p : Nat)

/-- A port as a join restores it (R349, R353). -/
def Port.restored (x : Port) : Port := { x with state := 3, spare := 4, failed := 0, retrains := 0, resends := 0 }

/-- The restoring of one port. -/
def State.restorePort : State :=
  if bit s.nxp.diesLost (p / 9) then s
  else if (s.port p).state = 0 ∨ (s.port p).failed ≠ 0 then (s.modPort p Port.restored).logPort p
  else s

theorem State.restorePorts_eq : s.restorePorts = (range 18).foldl State.restorePort s := rfl

theorem State.modPort_other {p q : Nat} (f : Port → Port) (other : p ≠ q) : (s.modPort p f).port q = s.port q :=
  mget_mset_other _ _ _ other

/-- Restoring a port leaves all of Nunex but the ports, and the other ports. -/
theorem State.restorePort_keeps : (s.restorePort p).nxp = { s.nxp with ports := (s.restorePort p).nxp.ports }
    ∧ ∀ q, p ≠ q → (s.restorePort p).port q = s.port q := by
  unfold State.restorePort
  split
  · exact ⟨rfl, fun _ _ => rfl⟩
  · split
    · exact ⟨rfl, fun q other => s.modPort_other _ other⟩
    · exact ⟨rfl, fun _ _ => rfl⟩

theorem State.restoreAll_keeps (l : List Nat) : ∀ s : State,
    (l.foldl State.restorePort s).nxp = { s.nxp with ports := (l.foldl State.restorePort s).nxp.ports }
    ∧ ∀ q ∉ l, (l.foldl State.restorePort s).port q = s.port q := by
  induction l with
  | nil => exact fun s => ⟨rfl, fun _ _ => rfl⟩
  | cons p l ih =>
    intro s
    obtain ⟨restNxp, restPort⟩ := ih (s.restorePort p)
    obtain ⟨nxp, port⟩ := s.restorePort_keeps p
    refine ⟨?_, fun q out => ?_⟩
    · rw [List.foldl_cons, restNxp, nxp]
    · rw [List.foldl_cons, restPort q (List.not_mem_of_not_mem_cons out), port q (List.ne_of_not_mem_cons out).symm]

/-- A failed lane or a port that is down, of a die that is not lost, comes back to training (R353). -/
theorem State.restorePorts_port {s : State} {p : Nat} (inRange : p < 18) (lives : bit s.nxp.diesLost (p / 9) = false)
    (down : (s.port p).state = 0 ∨ (s.port p).failed ≠ 0) : s.restorePorts.port p = (s.port p).restored := by
  obtain ⟨before, after, split_⟩ := List.append_of_mem (List.mem_range.mpr inRange)
  have distinct : (before ++ p :: after).Nodup := split_ ▸ List.nodup_range
  obtain ⟨_, tail, apart⟩ := List.nodup_append.mp distinct
  obtain ⟨keptNxp, keptPort⟩ := State.restoreAll_keeps before s
  have port := keptPort p fun mem => apart p mem p List.mem_cons_self rfl
  rw [State.restorePorts_eq, show range 18 = before ++ p :: after from split_, List.foldl_append, List.foldl_cons,
    (State.restoreAll_keeps after _).2 p (List.nodup_cons.mp tail).1, State.restorePort, keptNxp, port, lives, if_neg Bool.false_ne_true,
    if_pos down]
  exact (State.modPort_port ..).trans (congrArg Port.restored port)

theorem State.restorePorts_nxp : s.restorePorts.nxp = { s.nxp with ports := s.restorePorts.nxp.ports } :=
  (State.restoreAll_keeps (range 18) s).1

end

/-! ## Joining and leaving -/

section
variable {s : State} {h : Cmd} {role request : Nat} (a : Accepted s h 0x28 (fun p => decide (field p 8 1 = role ∧ field p 0xA 2 = request)))
include a

/-- FABRIC_JOIN of a device that has not joined and does not join, of a role and an identifier in range (R373). -/
theorem execFabricJoin_right (alone : s.nxp.device = 0x7FFF) (idle : s.nxp.joining = none) (known : role < 3) (inRange : request < 32768)
    (mode : decide (role = 2) = s.managerMode) :
    let u := s.acts h 0x28 (fun p => decide (field p 8 1 = role ∧ field p 0xA 2 = request))
    let v := if s.nxp.left_ then u.restorePorts else u
    execFabricJoin h role request s = .next (({ v with nxp := { v.nxp with joining := some (h, role, request), left_ := false } } : State).sendJoin
      { s.msg with src := 0x7FFF, role := role, request := request }) := by
  intro u v
  have term : v.nxp.term = s.nxp.term := by
    show (if s.nxp.left_ then u.restorePorts else u).nxp.term = s.nxp.term
    split
    · rw [u.restorePorts_nxp]; rfl
    · rfl
  have free : ¬ (u.nxp.device ≠ 0x7FFF ∨ u.nxp.joining.isSome ∨ 3 ≤ role ∨ 32768 ≤ request ∨ decide (role = 2) ≠ u.managerMode) := by
    rw [show u.nxp = s.nxp from rfl, show u.managerMode = s.managerMode from rfl]
    simp [alone, idle, known, inRange, mode]
  refine (State.command_accepted a _).trans ?_
  rw [if_neg free]
  show Host.Outcome.next (({ v with nxp := { v.nxp with joining := some (h, role, request), left_ := false } } : State).sendJoin
    ⟨0x7FFF, v.nxp.term, 0, 0, role, request, 0, 0, 0, 0, 0⟩) = _
  rw [term]
  rfl

theorem execFabricJoin_wrong (wrong : ¬ (s.nxp.device = 0x7FFF ∧ s.nxp.joining = none ∧ role < 3 ∧ request < 32768
    ∧ decide (role = 2) = s.managerMode)) :
    execFabricJoin h role request s =
      .next ((s.acts h 0x28 (fun p => decide (field p 8 1 = role ∧ field p 0xA 2 = request))).finish h 0x28 0x102 []) := by
  refine (State.command_accepted a _).trans (congrArg Host.Outcome.next (if_pos ?_))
  show s.nxp.device ≠ 0x7FFF ∨ s.nxp.joining.isSome ∨ 3 ≤ role ∨ 32768 ≤ request ∨ decide (role = 2) ≠ s.managerMode
  by_contra none_
  obtain ⟨device, joining, known, inRange, mode⟩ := by simpa only [not_or] using none_
  exact wrong ⟨not_not.mp device, Option.not_isSome_iff_eq_none.mp joining, not_le.mp known, not_le.mp inRange, not_not.mp mode⟩

end

/-- The identifier that the first manager of a hall takes (R373). -/
def firstId (request : Nat) : Nat := (if request = 0x7FFD then 0x7FFD else 0x7FFC) + 32768 * (Config.hall % 2)

theorem firstId_device (request : Nat) : firstId request % 32768 = if request = 0x7FFD then 0x7FFD else 0x7FFC := by
  unfold firstId
  split <;> omega

section
variable {s : State} {h : Cmd} {role request : Nat} (clocked : Clocked s) (joins : s.nxp.joining = some (h, role, request))
include clocked joins

/-- A member or a spare that no manager answers has not joined (R373). -/
theorem execJoinTimeout_member (member : role ≠ 2) :
    execJoinTimeout s = .next (({ s with nxp := { s.nxp with joining := none } } : State).finish h 0x28 0x501 []) := by
  simp only [execJoinTimeout, joins, show s.power.stopped = false from clocked, if_neg member, Bool.false_eq_true, if_false]

theorem execJoinTimeout_first (manager : role = 2) : ∃ t, execJoinTimeout s = .next t ∧ t.nxp =
    { (s.takeId (firstId request) 1 3 1 2).nxp with epochs := mput s.nxp.epochs (firstId request) 1 } := by
  simp only [execJoinTimeout, joins, show s.power.stopped = false from clocked, if_pos manager, Bool.false_eq_true, if_false]
  exact ⟨_, rfl, (State.finish_replied ..).nxp⟩

variable {m : MgrMsg}

/-- A joining device takes the identifier that it is granted (R373). -/
theorem execGrant_taken (granted : m.ident % 32768 ≠ 0x7FFF) : ∃ t, execGrant m s = .next t
    ∧ t.nxp = (s.takeId m.ident m.epoch (role + 1) m.term (if role = 2 then 1 else 0)).nxp := by
  simp only [execGrant, joins, show s.power.stopped = false from clocked, if_neg granted, Bool.false_eq_true, if_false]
  exact ⟨_, rfl, (State.finish_replied ..).nxp⟩

theorem execGrant_full (full : m.ident % 32768 = 0x7FFF) :
    execGrant m s = .next (({ s with nxp := { s.nxp with joining := none } } : State).finish h 0x28 0x504 []) := by
  simp only [execGrant, joins, show s.power.stopped = false from clocked, if_pos full, Bool.false_eq_true, if_false]

end

section
variable {s : State} {h : Cmd}

/-- A device that begins to leave. -/
def State.startLeave (s : State) (h : Cmd) : State := { s with nxp := { s.nxp with leaving := true, leaveCmd := some h } }

/-- A device with operations under way has not left yet (R374). -/
theorem State.tryLeave_waits (busy : s.nxp.ops ≠ []) : s.tryLeave = s := by
  unfold State.tryLeave
  split
  · rfl
  · rw [if_pos busy]

/-- A device whose operations have ended has left (R374). -/
theorem State.tryLeave_left (leaves : s.nxp.leaveCmd = some h) (idle : s.nxp.ops = []) :
    let n := s.tryLeave.nxp
    n.device = 0x7FFF ∧ n.epoch = 0 ∧ n.role = 0 ∧ n.members = [] ∧ n.left_ = true := by
  simp only [State.tryLeave, leaves, idle, ne_eq, not_true, if_false, (State.finish_replied ..).nxp, and_self]

end

/-! ## Granting and failing members, at the active manager -/

section
variable {s : State}

/-- The change that tells of a member. -/
def State.memberChange (s : State) (id : Nat) (m : Member) (first : List (Nat × Nat × MgrMsg)) (event : Option (Nat × Nat × Nat)) : Change :=
  let k : MgrMsg := { s.msg with ident := id, epoch := m.epoch, state := m.state, dies := m.dies }
  ⟨{ k with role := 4 }, first ++ s.current.map (fun d => (d, 4, k)), event, none, none⟩

theorem State.announce_known {id : Nat} {m : Member} (known : mfind s.nxp.members id = some m) (waits : Bool)
    (first : List (Nat × Nat × MgrMsg)) (event : Option (Nat × Nat × Nat)) :
    s.announce waits id first event = s.change waits (s.memberChange id m first event) := by
  simp only [State.announce, known]
  rfl

/-- A change without an event that goes at once sends its messages. -/
theorem State.change_left {c : Change} {d sub : Nat} {m : MgrMsg} (can : CanSend s) (mem : (d, sub, m) ∈ c.send) (quiet : c.event = none)
    (holds : c.ready = none) (pairs : c.pair = none) : Left d sub m (s.change false c) := by
  have sends : s.change false c = c.send.foldl State.sendTo s := by
    show s.act c = _
    rw [State.act_eq, quiet, holds, pairs]
    rfl
  rw [sends]
  exact Told.foldl_left State.sendTo_told mem can fun t _ can => State.sendManager_left can ..

variable {m : MgrMsg} {id : Nat}

/-- The epoch that a grant gives an identifier (R373). -/
def State.nextEpoch (s : State) (id : Nat) : Nat := (mget 0 s.nxp.epochs id + 1) % 65536

/-- The grant of an identifier. -/
def State.grantMsg (s : State) (m : MgrMsg) (id : Nat) : MgrMsg := { s.msg with ident := id, epoch := s.nextEpoch id, role := m.role }

/-- The record of a grant. -/
def State.granted (s : State) (m : MgrMsg) (id : Nat) : State :=
  { s with nxp := { s.nxp with
    epochs := mput s.nxp.epochs id (s.nextEpoch id)
    members := mput s.nxp.members id ⟨s.nextEpoch id, 0, 0, decide (m.role = 1)⟩
    standby := s.nxp.standby || decide (m.role = 2) } }

/-- The change that a grant announces. -/
def State.grantChange (s : State) (m : MgrMsg) (id : Nat) : Change :=
  (s.granted m id).memberChange id ⟨s.nextEpoch id, 0, 0, decide (m.role = 1)⟩ [(m.src, 2, s.grantMsg m id)] none

theorem execJoin_granted (clocked : Clocked s) (active : s.nxp.mgr = 2) (grants : s.grantId m.role m.request = some id) :
    execJoin m s = .next ((s.granted m id).change s.nxp.standby (s.grantChange m id)) := by
  simp only [execJoin, show s.power.stopped = false from clocked, State.active_of_mgr active, grants, Bool.not_true, Bool.or_self,
    Bool.false_eq_true, if_false]
  exact congrArg Host.Outcome.next ((s.granted m id).announce_known (mfind_mput_same ..) _ _ none)

theorem execJoin_full (clocked : Clocked s) (active : s.nxp.mgr = 2) (full : s.grantId m.role m.request = none) :
    execJoin m s = .next (s.sendManager m.src 2 { s.msg with ident := 0x7FFF }) := by
  simp only [execJoin, show s.power.stopped = false from clocked, State.active_of_mgr active, full, Bool.not_true, Bool.or_self,
    Bool.false_eq_true, if_false]

/-- A grant waits for the standby, or goes to the joining device first (R373, R375). -/
theorem State.grant_told : let t := (s.granted m id).change s.nxp.standby (s.grantChange m id)
    (s.nxp.standby = true → ∃ c ∈ t.nxp.changes, (m.src, 2, s.grantMsg m id) ∈ c.send)
    ∧ (CanSend s → ∃ p, (if s.nxp.standby then Emit.manager p s.other 8 { s.grantMsg m id with role := 4 }
        else Emit.manager p m.src 2 (s.grantMsg m id)) ∈ t.out) := by
  intro t
  have first : (m.src, 2, s.grantMsg m id) ∈ (s.grantChange m id).send := List.mem_cons_self
  cases on : s.nxp.standby with
  | true =>
    have waits : t = ({ s.granted m id with nxp := { (s.granted m id).nxp with
        changes := (s.granted m id).nxp.changes ++ [s.grantChange m id] } } : State).sendManager s.other 8 (s.grantChange m id).msg := by
      show (s.granted m id).change s.nxp.standby (s.grantChange m id) = _
      rw [on]
      rfl
    rw [waits]
    refine ⟨fun _ => ⟨s.grantChange m id, ?_, first⟩, fun can => ?_⟩
    · rw [(State.sendManager_told ..).keeps Fabric.changes]
      exact List.mem_append_right _ List.mem_cons_self
    · exact State.sendManager_left (s := { s.granted m id with nxp := { (s.granted m id).nxp with
        changes := (s.granted m id).nxp.changes ++ [s.grantChange m id] } }) can s.other 8 (s.grantChange m id).msg
  | false =>
    refine ⟨nofun, fun can => ?_⟩
    show Left m.src 2 (s.grantMsg m id) ((s.granted m id).change s.nxp.standby (s.grantChange m id))
    rw [on]
    exact State.change_left (s := s.granted m id) can first rfl rfl rfl

/-- A member of the hall that has failed, recorded so, its barriers abandoned (R376). -/
def State.failMember (s : State) (id : Nat) (m : Member) : State :=
  ({ s with nxp := { s.nxp with members := mput s.nxp.members id { m with state := 1 } } } : State).abandonFor id

theorem State.failMember_members (s : State) (id : Nat) (m : Member) :
    (s.failMember id m).nxp.members = mput s.nxp.members id { m with state := 1 } := (State.abandonFor_managed ..).keeps Fabric.members

/-- A spare takes the place of a failed worker under a new epoch, and its own identifier is withdrawn (R376). -/
def State.replaceMember (s : State) (id : Nat) (m : Member) (p : Nat × Member) : State :=
  { s with nxp := { s.nxp with
    members := mput (mput s.nxp.members p.1 { p.2 with state := 2 }) id ⟨(m.epoch + 1) % 65536, p.2.dies, 0, false⟩
    epochs := mput s.nxp.epochs id ((m.epoch + 1) % 65536) } }

/-- What the active manager does with a current member that has failed (R375, R376, Table 12.9). -/
def State.memberLost (s : State) (ident id : Nat) (m : Member) : State :=
  let u := s.failMember id m
  match if m.spare ∨ 0x7FFC ≤ ident then none else u.nxp.members.find? (fun e => e.2.spare && decide (e.2.state = 0)) with
  | none =>
    let v := if 0x7FFC ≤ ident then u.loseStandby else u
    v.announce v.nxp.standby id [] (some (5, 0, id))
  | some p =>
    let v := u.replaceMember id m p
    (v.announce v.nxp.standby p.1 [] none).announce v.nxp.standby id
      [(p.1, 2, { v.msg with ident := id, epoch := (m.epoch + 1) % 65536 })] (some (4, 0, id))

theorem execMemberFailed_current {ident : Nat} {m : Member} (clocked : Clocked s) (active : s.nxp.mgr = 2) (current : m.state = 0)
    (known : mfind s.nxp.members (ident + 32768 * s.nxp.hall) = some m) :
    execMemberFailed ident s = .next (s.memberLost ident (ident + 32768 * s.nxp.hall) m) := by
  simp only [execMemberFailed, known, show s.power.stopped = false from clocked, State.active_of_mgr active, current, ne_eq, not_true,
    decide_false, Bool.not_true, Bool.or_self, Bool.false_eq_true, if_false]
  unfold State.memberLost State.failMember
  dsimp only
  split
  · next none_ => rw [none_]
  · next some_ => rw [some_]; rfl

variable {ident : Nat} {m : Member} (worker : ident < 0x7FFC) (notSpare : m.spare = false)
include worker notSpare

/-- A failed worker is replaced where there is a spare. -/
theorem State.memberLost_worker : s.memberLost ident id m =
    match (mput s.nxp.members id { m with state := 1 }).find? (fun e => e.2.spare && decide (e.2.state = 0)) with
    | none => (s.failMember id m).announce (s.failMember id m).nxp.standby id [] (some (5, 0, id))
    | some p =>
      let v := (s.failMember id m).replaceMember id m p
      (v.announce v.nxp.standby p.1 [] none).announce v.nxp.standby id
        [(p.1, 2, { v.msg with ident := id, epoch := (m.epoch + 1) % 65536 })] (some (4, 0, id)) := by
  have notManager : ¬ 0x7FFC ≤ ident := not_le.mpr worker
  have replaceable : ¬ (m.spare = true ∨ 0x7FFC ≤ ident) := by simp [notSpare, notManager]
  simp only [State.memberLost, if_neg notManager, if_neg replaceable, State.failMember_members]

/-- A failed worker that no spare replaces stays recorded as failed. -/
theorem State.memberLost_alone (alone : (mput s.nxp.members id { m with state := 1 }).find?
    (fun e => e.2.spare && decide (e.2.state = 0)) = none) :
    mfind (s.memberLost ident id m).nxp.members id = some { m with state := 1 } := by
  rw [State.memberLost_worker worker notSpare, alone]
  dsimp only
  rw [(State.announce_managed ..).keeps Fabric.members, State.failMember_members]
  exact mfind_mput_same ..

/-- A spare that replaces a failed worker has its identifier, and its own is withdrawn (R376). -/
theorem State.memberLost_replaced {p : Nat × Member} (spare : (mput s.nxp.members id { m with state := 1 }).find?
    (fun e => e.2.spare && decide (e.2.state = 0)) = some p) :
    mfind (s.memberLost ident id m).nxp.members id = some ⟨(m.epoch + 1) % 65536, p.2.dies, 0, false⟩
      ∧ (p.1 ≠ id → mfind (s.memberLost ident id m).nxp.members p.1 = some { p.2 with state := 2 }) := by
  rw [State.memberLost_worker worker notSpare, spare]
  dsimp only
  rw [(State.announce_managed ..).keeps Fabric.members, (State.announce_managed ..).keeps Fabric.members, State.replaceMember]
  refine ⟨mfind_mput_same .., fun other => ?_⟩
  rw [mfind_mput, if_neg (Ne.symm other)]
  exact mfind_mput_same ..

end

/-- MANAGER_SILENCE at the standby: it acts, with the next term (R375). -/
theorem execManagerSilence_standby {s : State} (clocked : Clocked s) (standby : s.nxp.mgr = 1) : ∃ t, execManagerSilence s = .next t
    ∧ t.nxp.mgr = 2 ∧ t.nxp.term = (s.nxp.term + 1) % 2 ^ 32 ∧ t.nxp.standby = false ∧ t.nxp.members = s.nxp.members := by
  simp only [execManagerSilence, show s.power.stopped = false from clocked, standby, ne_eq, not_true, decide_false, Bool.or_self,
    Bool.false_eq_true, if_false]
  refine ⟨_, rfl, ?_⟩
  have told := State.toMembers_told { s with nxp := { s.nxp with mgr := 2, term := wrapAdd 32 s.nxp.term 1, standby := false } }
  rw [(State.fabricChange_replied ..).nxp]
  exact ⟨(told ..).keeps Fabric.mgr, (told ..).keeps Fabric.term, (told ..).keeps Fabric.standby, (told ..).keeps Fabric.members⟩

/-- Settles O50: joins by whether the device may join, leaves by its operations, failures by the spares of the hall. -/
theorem membershipOfTheFabric : Obligations.MembershipOfTheFabric := by
  unfold Obligations.MembershipOfTheFabric
  refine ⟨fun s h role request => ?_, fun s h role request clocked joins => ⟨execJoinTimeout_member clocked joins, fun manager => ?_,
      fun m granted => ?_, fun m => execGrant_full clocked joins⟩, fun s h => ?_, fun s m id clocked active grants => ?_,
    fun s m => execJoin_full, fun s r m known present => ?_, fun s ident m clocked active worker current notSpare => ?_,
    fun s => execManagerSilence_standby⟩
  · intro spell u a right v
    refine ⟨fun ⟨alone, idle, known, inRange, mode⟩ => execFabricJoin_right a alone idle known inRange mode, fun p inRange lives down => ?_,
      execFabricJoin_wrong a⟩
    rw [State.restorePorts_port (s := u) inRange lives down]
    exact ⟨rfl, rfl, rfl⟩
  · obtain ⟨t, runs, nxp⟩ := execJoinTimeout_first clocked joins manager
    refine ⟨t, runs, ?_⟩
    rw [nxp]
    exact ⟨rfl, rfl, rfl, firstId_device _⟩
  · obtain ⟨t, runs, nxp⟩ := execGrant_taken clocked joins granted
    refine ⟨t, runs, ?_⟩
    rw [nxp]
    exact ⟨rfl, rfl, rfl, rfl, rfl⟩
  · intro u a
    have runs := State.command_accepted a (fun s => if s.nxp.device = 0x7FFF ∨ s.nxp.leaving then s.finish h 0x29 0 []
      else (s.startLeave h).tryLeave)
    have stays : s.nxp.device ≠ 0x7FFF → s.nxp.leaving = false → ¬ (u.nxp.device = 0x7FFF ∨ u.nxp.leaving = true) := by
      intro joined staying
      rw [show u.nxp = s.nxp from rfl]
      simp [joined, staying]
    refine ⟨fun idle => runs.trans (congrArg Host.Outcome.next (if_pos idle)), fun joined staying busy => ?_, fun joined staying idle => ?_⟩
    · refine runs.trans ((congrArg Host.Outcome.next (if_neg (stays joined staying))).trans ?_)
      exact congrArg Host.Outcome.next (State.tryLeave_waits (s := u.startLeave h) busy)
    · exact ⟨_, runs.trans (congrArg Host.Outcome.next (if_neg (stays joined staying))), State.tryLeave_left (s := u.startLeave h) rfl idle⟩
  · refine ⟨_, execJoin_granted clocked active grants, ?_, State.grant_told⟩
    rw [(State.change_managed ..).keeps Fabric.members]
    exact mfind_mput_same ..
  · simp [State.idFree, known, present]
  · intro id known spare
    have runs : exec (.memberFailed ident) s = _ := execMemberFailed_current clocked active current known
    exact ⟨fun none_ => ⟨_, runs, State.memberLost_alone worker notSpare none_⟩,
      fun p some_ => ⟨_, runs, State.memberLost_replaced worker notSpare some_⟩⟩

end Sys2Proof.Machine
end

section
/-! SUPPORT. Ports (R349 to R353, R360): what sending leaves of a port, lanes that fail, training, flits that come, and the bytes of a packet
read back. -/

namespace Sys2Proof.Machine

open Safety

/-! ## What sending leaves of a port -/

/-- `y` is `x` after some of what waits has been sent: its lanes and its state stay, and the flits that it held are still the oldest. -/
structure Port.Sent (x y : Port) : Prop where
  state : y.state = x.state
  spare : y.spare = x.spare
  failed : y.failed = x.failed
  retrains : y.retrains = x.retrains
  resends : y.resends = x.resends
  unacked : x.unacked <+: y.unacked

namespace Port

theorem Sent.refl (x : Port) : Sent x x := ⟨rfl, rfl, rfl, rfl, rfl, List.prefix_rfl⟩

theorem Sent.trans {x y z : Port} (h : Sent x y) (k : Sent y z) : Sent x z where
  state := k.state.trans h.state
  spare := k.spare.trans h.spare
  failed := k.failed.trans h.failed
  retrains := k.retrains.trans h.retrains
  resends := k.resends.trans h.resends
  unacked := h.unacked.trans k.unacked

theorem sendFlit_sent (x : Port) (v : Nat) : Sent x (x.sendFlit v) := ⟨rfl, rfl, rfl, rfl, rfl, List.prefix_append ..⟩

theorem sendFlits_sent : ∀ (n : Nat) (x : Port), Sent x (x.sendFlits n)
  | 0, x => .refl x
  | n + 1, x => by
    unfold sendFlits
    split
    · exact .refl x
    · exact (x.sendFlit_sent _).trans (sendFlits_sent n _)

theorem pump_sent (x : Port) : Sent x x.pump := sendFlits_sent ..

theorem sendBytes_sent (x : Port) (v : Nat) (bs : List Byte) : Sent x (x.sendBytes v bs) :=
  (⟨rfl, rfl, rfl, rfl, rfl, List.prefix_rfl⟩ : Sent x { x with
    tx := mset [] x.tx v (mget [] x.tx v ++ bs), starts := mset [] x.starts v (mget [] x.starts v ++ [(mget [] x.tx v).length]) }).trans
    (pump_sent _)

end Port

section
variable {p : Nat}

/-- Steps that only send from a port, one after the other. -/
theorem State.foldl_port_sent {α : Type} {f : State → α → State} (hf : ∀ t a, Port.Sent (t.port p) ((f t a).port p)) (l : List α) :
    ∀ s : State, Port.Sent (s.port p) ((l.foldl f s).port p) := by
  induction l with
  | nil => exact fun s => .refl _
  | cons a l ih => exact fun s => (hf s a).trans (ih _)

/-- A packet goes to another port, or stays with its own where no other serves (R349). -/
theorem State.movePacket_sent (s : State) (v : Nat) (bs : List Byte) : Port.Sent (s.port p) ((s.movePacket p v bs).port p) := by
  unfold State.movePacket
  split
  next q chosen =>
    have other : q ≠ p := of_decide_eq_true (State.choosePortIf_some chosen).2
    have same : (s.modPort q (fun x => x.sendBytes v bs)).port p = s.port p := s.modPort_other _ other
    exact same ▸ .refl _
  next => exact s.modPort_port p _ ▸ (s.port p).sendBytes_sent v bs

/-- What waits for a port goes; the port's lanes and the flits that it holds stay (R349). -/
theorem State.moveWaiting_sent (s : State) : Port.Sent (s.port p) ((s.moveWaiting p).port p) := by
  unfold State.moveWaiting
  refine State.foldl_port_sent (fun t v => ?_) _ s
  refine .trans ?_ (State.foldl_port_sent (fun u bs => u.movePacket_sent v bs) _ _)
  exact t.modPort_port p _ ▸ ⟨rfl, rfl, rfl, rfl, rfl, List.prefix_rfl⟩

theorem State.logPort_port (s : State) (q : Nat) : (s.logPort q).port p = s.port p := rfl

/-- A change of a port's lanes is told, and leaves the ports. -/
theorem State.portChange_port (s : State) (kind q : Nat) : (s.portChange kind q).port p = s.port p := by
  rw [State.port, State.portChange, (State.fabricChange_replied ..).nxp]
  rfl

theorem State.takeDown_port (s : State) :
    (s.takeDown p).port p = { (s.port p).emptied with state := 0, retrains := 0, resends := 0 } :=
  (State.portChange_port ..).trans (State.modPort_port ..)

end

/-! ## Lanes that fail -/

section
variable {s : State} {p l : Nat}

/-- A port with one more failed lane. -/
def Port.failLane (x : Port) (l : Nat) : Port := { x with failed := x.failed + 2 ^ l }

/-- A port whose lane has just failed. -/
def State.failLane (s : State) (p l : Nat) : State := s.modPort p (fun _ => (s.port p).failLane l)

theorem State.failLane_port : (s.failLane p l).port p = (s.port p).failLane l := State.modPort_port ..

/-- What follows from the failure of a lane (R349). -/
def State.afterLane (s : State) (p l : Nat) (y : Port) : State :=
  if 3 ≤ y.failedLanes then s.takeDown p
  else if y.spare = l then (s.modPort p (fun z => { z with spare := 7 })).logPort p
  else if y.spare ≠ 7 then ((s.modPort p (fun z => { z with spare := 7, state := 3 })).moveWaiting p).portChange 0 p
  else (s.modPort p (fun z => { z with state := if z.state = 3 then 3 else 2 })).portChange 1 p

theorem execLaneFail_serving (clocked : Clocked s) (inRange : l < 5) (up : (s.port p).state ≠ 0) (sound : bit (s.port p).failed l = false) :
    execLaneFail p l s = .next ((s.failLane p l).afterLane p l ((s.port p).failLane l)) := by
  simp only [execLaneFail, show s.power.stopped = false from clocked, decide_eq_false up, sound, decide_eq_false (not_le.mpr inRange),
    Bool.or_self, Bool.false_eq_true, if_false]
  simp only [State.afterLane, apply_ite Host.Outcome.next]
  rfl

variable {y : Port} (is : s.port p = y)
include is

theorem State.afterLane_down (failed : 3 ≤ y.failedLanes) :
    (s.afterLane p l y).port p = { y.emptied with state := 0, retrains := 0, resends := 0 } := by
  rw [State.afterLane, if_pos failed, State.takeDown_port, is]

variable (enough : y.failedLanes < 3)
include enough

/-- The spare lane itself has failed. -/
theorem State.afterLane_spare (spare : y.spare = l) : (s.afterLane p l y).port p = { y with spare := 7 } := by
  rw [State.afterLane, if_neg (not_le.mpr enough), if_pos spare]
  rw [State.logPort_port, State.modPort_port, is]

/-- The spare takes the lane's place, and the port trains again. -/
theorem State.afterLane_replaced (other : y.spare ≠ l) (left_ : y.spare ≠ 7) :
    Port.Sent { y with spare := 7, state := 3 } ((s.afterLane p l y).port p) := by
  have trains := (s.modPort p (fun z => { z with spare := 7, state := 3 })).moveWaiting_sent (p := p)
  rw [State.modPort_port, is] at trains
  rw [State.afterLane, if_neg (not_le.mpr enough), if_neg other, if_pos left_, State.portChange_port]
  exact trains

/-- The port goes on with three lanes. -/
theorem State.afterLane_three (other : y.spare ≠ l) (used : y.spare = 7) :
    (s.afterLane p l y).port p = { y with state := if y.state = 3 then 3 else 2 } := by
  rw [State.afterLane, if_neg (not_le.mpr enough), if_neg other, if_neg (not_not.mpr used), State.portChange_port, State.modPort_port, is]

end

/-! ## Training and retraining -/

section
variable {s : State} {p : Nat}

/-- A port that training has brought up, before it sends again. -/
def Port.trained (x : Port) (three : Bool) : Port := { x with state := if three then 2 else 1, retrains := 0, resends := 0 }

theorem State.replayFlits_port : (s.replayFlits p).port p =
    { s.port p with replays := min ((s.port p).replays + 1) (2 ^ 16 - 1), resends := (s.port p).resends + 1 } :=
  State.modPort_port s p (fun x => { x with replays := satAdd 16 x.replays 1, resends := x.resends + 1 })

/-- A port that training has brought up, told and logged. -/
def State.bringUp (s : State) (p : Nat) (three : Bool) : State :=
  let t := s.modPort p (fun x => x.trained three)
  if three then t.portChange 1 p else t.logPort p

theorem State.bringUp_port (three : Bool) : (s.bringUp p three).port p = (s.port p).trained three := by
  unfold State.bringUp
  dsimp only
  split
  · rw [State.portChange_port, State.modPort_port]
  · rw [State.logPort_port, State.modPort_port]

/-- A port sends its flits again, which count as sent once. -/
def State.sendAgain (s : State) (p : Nat) : State := (s.replayFlits p).modPort p (fun x => { x with resends := 0 })

theorem State.sendAgain_sent (fresh : (s.port p).resends = 0) : Port.Sent (s.port p) ((s.sendAgain p).port p) := by
  rw [State.sendAgain, State.modPort_port, State.replayFlits_port]
  exact ⟨rfl, rfl, rfl, rfl, fresh.symm, List.prefix_rfl⟩

variable (clocked : Clocked s)
include clocked

theorem execPortRetrain_training (trains : (s.port p).state = 3) :
    execPortRetrain p s = .next (s.modPort p (fun x => { x with retrains := x.retrains + 1 })) := by
  simp only [execPortRetrain, show s.power.stopped = false from clocked, if_pos trains, Bool.false_eq_true, if_false]

/-- A port whose flit has gone 8 times trains again (R353). -/
theorem execPortRetrain_resent (serves : (s.port p).serves = true) (resent : 8 ≤ (s.port p).resends) :
    execPortRetrain p s = .next ((s.modPort p (fun x => { x with state := 3, retrains := 0 })).logPort p) := by
  have notTraining : (s.port p).state ≠ 3 := by
    rcases of_decide_eq_true serves with full | three
    · rw [full]; decide
    · rw [three]; decide
  simp only [execPortRetrain, show s.power.stopped = false from clocked, if_neg notTraining, if_pos (And.intro serves resent),
    Bool.false_eq_true, if_false]

theorem execPortDown_training (trains : (s.port p).state = 3) (failed : 3 ≤ (s.port p).retrains) :
    execPortDown p s = .next (s.takeDown p) := by
  simp only [execPortDown, show s.power.stopped = false from clocked, trains, decide_eq_false (not_lt.mpr failed), ne_eq, not_true,
    decide_false, Bool.or_self, Bool.false_eq_true, if_false]

theorem execFlitAckTimeout_held (serves : (s.port p).serves = true) (held : (s.port p).unacked ≠ []) :
    execFlitAckTimeout p s = .next (s.replayFlits p) := by
  simp only [execFlitAckTimeout, show s.power.stopped = false from clocked, serves, decide_eq_false held, Bool.not_true, Bool.or_self,
    Bool.false_eq_true, if_false]

/-- A trained port is in service, and its flits that are not acknowledged are still the oldest (R353). -/
theorem execPortRetrained_training (lane3 : Bool) (trains : (s.port p).state = 3) : ∃ t, execPortRetrained p lane3 s = .next t
    ∧ Port.Sent ((s.port p).trained (lane3 || decide (2 ≤ (s.port p).failedLanes))) (t.port p) := by
  simp only [execPortRetrained, show s.power.stopped = false from clocked, trains, ne_eq, not_true, decide_false, Bool.or_self,
    Bool.false_eq_true, if_false]
  refine ⟨_, rfl, ?_⟩
  have up := State.bringUp_port (s := s) (p := p) (lane3 || decide (2 ≤ (s.port p).failedLanes))
  rw [State.modPort_port]
  refine .trans ?_ (Port.pump_sent _)
  rw [← up]
  split
  · exact .refl _
  · exact State.sendAgain_sent (by rw [up]; rfl)

end

/-! ## Flits -/

section
variable {s : State} {p : Nat} {f : List Byte}

/-- What a port takes from a good flit (R350 to R354). -/
def Port.accept (x : Port) (w fixed : Nat) : Port :=
  { (x.ackTo (bits w 23 12)).credit w with
    fec := min (x.fec + fixed) (2 ^ 32 - 1), rxSeq := (x.rxSeq + 1) % 4096, discarding := false, nak := false }

/-- A good flit's acknowledgement and credits taken, and the flits sent again that a NAK in it asks for. -/
def State.acceptFlit (s : State) (p w : Nat) : State :=
  let z := s.advance.modPort p (fun _ => (s.port p).accept w (Config.fecSymbols s.tick))
  if bit w 24 then z.replayFlits p else z

theorem State.acceptFlit_rest (w : Nat) : ((s.acceptFlit p w).modPort p Port.pump) =
    { s with tick := ((s.acceptFlit p w).modPort p Port.pump).tick, nxp := ((s.acceptFlit p w).modPort p Port.pump).nxp
             out := ((s.acceptFlit p w).modPort p Port.pump).out } := by
  unfold State.acceptFlit
  split <;> rfl

theorem State.acceptFlit_port (w : Nat) : (s.acceptFlit p w).port p =
    let y := (s.port p).accept w (Config.fecSymbols s.tick)
    if bit w 24 then { y with replays := min (y.replays + 1) (2 ^ 16 - 1), resends := y.resends + 1 } else y := by
  unfold State.acceptFlit
  dsimp only
  split
  · rw [State.replayFlits_port, State.modPort_port]
  · rw [State.modPort_port]

variable (clocked : Clocked s) (serves : (s.port p).serves = true)
include clocked serves

/-- A good flit in sequence is accepted. -/
theorem execFlitReceive_good (whole : f.length = 256) (sound : crc32 (f.take 252) = field f 252 4)
    (next_ : field f 0 8 % 2 ^ 12 = (s.port p).rxSeq) : execFlitReceive p f true s = .next
      (((s.acceptFlit p (field f 0 8)).modPort p Port.pump).unpackFlit p (bits (field f 0 8) 26 25) (slice f 8 244)) := by
  have inOrder : bits (field f 0 8) 11 0 = (s.port p).rxSeq := next_
  simp only [execFlitReceive, show s.power.stopped = false from clocked, serves, whole, sound, inOrder, ne_eq, not_true, decide_false,
    Bool.not_true, Bool.or_self, Bool.false_eq_true, if_false]
  rfl

/-- Another flit is discarded. -/
theorem execFlitReceive_bad {fec : Bool} (bad : fec = false ∨ f.length ≠ 256 ∨ crc32 (f.take 252) ≠ field f 252 4
    ∨ field f 0 8 % 2 ^ 12 ≠ (s.port p).rxSeq) : execFlitReceive p f fec s = .next (s.sendNak p) := by
  have fails : (!fec || decide (f.length ≠ 256) || decide (crc32 (f.take 252) ≠ field f 252 4)
      || decide (bits (field f 0 8) 11 0 ≠ (s.port p).rxSeq)) = true := by
    simp only [Bool.or_eq_true, Bool.not_eq_true', decide_eq_true_eq, or_assoc]
    exact bad
  simp only [execFlitReceive, show s.power.stopped = false from clocked, serves, fails, Bool.not_true, Bool.or_self, Bool.false_eq_true,
    if_false, if_true]

end

/-! ## The bytes of a packet -/

section
variable (k : Packet) (rest : List Byte)

/-- A field past the first bytes lies as far into the others. -/
theorem field_toBytes_skip (n v o m : Nat) (l : List Byte) (past : n ≤ o) : field (toBytes n v ++ l) o m = field l (o - n) m := by
  rw [field, slice, List.drop_append, toBytes_length, List.drop_of_length_le (by rw [toBytes_length]; exact past), List.nil_append]
  rfl

/-- The 24 bytes before a packet's data (Table 12.6). -/
def packetHead (k : Packet) : List Byte :=
  toBytes 1 k.op ++ toBytes 1 k.flags ++ toBytes 2 k.src ++ toBytes 2 k.dst ++ toBytes 2 k.epoch ++ toBytes 2 k.sseq
    ++ toBytes 2 k.tag ++ toBytes 2 k.job ++ toBytes 2 k.length ++ toBytes 8 k.addr

theorem packetHead_length : (packetHead k).length = 24 := by simp [packetHead]

theorem packetBytes_append : packetBytes k ++ rest = packetHead k ++ (k.data ++ rest) := List.append_assoc ..

/-- The fields of a packet's head are read back. -/
theorem packetHead_fields (l : List Byte) :
    let b := packetHead k ++ l
    field b 0 1 = k.op % 256 ∧ field b 1 1 = k.flags % 256 ∧ field b 2 2 = k.src % 2 ^ 16 ∧ field b 4 2 = k.dst % 2 ^ 16
      ∧ field b 6 2 = k.epoch % 2 ^ 16 ∧ field b 8 2 = k.sseq % 2 ^ 16 ∧ field b 0xA 2 = k.tag % 2 ^ 16
      ∧ field b 0xC 2 = k.job % 2 ^ 16 ∧ field b 0xE 2 = k.length % 2 ^ 16 ∧ field b 0x10 8 = k.addr % 2 ^ 64 := by
  simp [packetHead, List.append_assoc, field_toBytes_skip, field_toBytes_append]

/-- The fields of a packet fit where they stand, and its length names its data (Table 12.6). -/
structure PacketFits (k : Packet) : Prop where
  op : k.op < 256
  flags : k.flags < 8
  src : k.src < 2 ^ 16
  dst : k.dst < 2 ^ 16
  epoch : k.epoch < 2 ^ 16
  sseq : k.sseq < 2 ^ 16
  tag : k.tag < 8192
  job : k.job < 2 ^ 16
  length : k.length < 8192
  addr : k.addr < 2 ^ 64
  rsv : k.rsv = false
  data : k.data.length = dataAfter k.op k.length

/-- A packet whose fields fit is read back. -/
theorem packetAt_packetBytes (fits : PacketFits k) : packetAt k.die (packetBytes k ++ rest) = k := by
  obtain ⟨op, flags, src, dst, epoch, sseq, tag, job, length, addr, rsv, data⟩ := fits
  obtain ⟨fOp, fFlags, fSrc, fDst, fEpoch, fSseq, fTag, fJob, fLength, fAddr⟩ := packetHead_fields k (k.data ++ rest)
  rw [Nat.mod_eq_of_lt op] at fOp
  rw [Nat.mod_eq_of_lt (flags.trans (by decide))] at fFlags
  rw [Nat.mod_eq_of_lt src] at fSrc
  rw [Nat.mod_eq_of_lt dst] at fDst
  rw [Nat.mod_eq_of_lt epoch] at fEpoch
  rw [Nat.mod_eq_of_lt sseq] at fSseq
  rw [Nat.mod_eq_of_lt (tag.trans (by decide))] at fTag
  rw [Nat.mod_eq_of_lt job] at fJob
  rw [Nat.mod_eq_of_lt (length.trans (by decide))] at fLength
  rw [Nat.mod_eq_of_lt addr] at fAddr
  have clear : decide (k.flags / 8 ≠ 0 ∨ k.tag / 8192 ≠ 0 ∨ k.length / 8192 ≠ 0) = k.rsv := by
    simp only [Nat.div_eq_of_lt flags, Nat.div_eq_of_lt tag, Nat.div_eq_of_lt length, rsv, ne_eq, not_true, or_self, decide_false]
  rw [packetBytes_append]
  simp only [packetAt, fOp, fFlags, fSrc, fDst, fEpoch, fSseq, fTag, fJob, fLength, fAddr, clear, Nat.mod_eq_of_lt flags,
    Nat.mod_eq_of_lt tag, Nat.mod_eq_of_lt length, List.drop_left' (packetHead_length k), List.take_left' data]

/-- A packet at the head of a channel's bytes is taken first (R350). -/
theorem unpack_packetBytes (fits : PacketFits k) (n : Nat) :
    unpack k.die (n + 1) (packetBytes k ++ rest) = (k :: (unpack k.die n rest).1, (unpack k.die n rest).2) := by
  have size : (packetBytes k).length = 24 + dataAfter k.op k.length := by
    rw [← fits.data, ← packetHead_length k]
    exact List.length_append
  have long : ¬ ((packetBytes k ++ rest).length < 24 ∨ (packetBytes k ++ rest).length < 24 + dataAfter k.op k.length) := by
    rw [List.length_append, size]
    omega
  simp only [unpack, packetAt_packetBytes k rest fits, if_neg long, List.drop_left' size]

end

/-- Settles O46: lanes by how many have failed, training by the port's state, flits by their checks, packets by their layout. -/
theorem portsFlitsAndLanes : Obligations.PortsFlitsAndLanes := by
  unfold Obligations.PortsFlitsAndLanes
  refine ⟨fun s p clocked => ⟨fun l inRange up sound => ?_, execFlitAckTimeout_held clocked, execPortRetrain_training clocked,
      fun serves resent => ⟨_, execPortRetrain_resent clocked serves resent, (State.logPort_port ..).trans (State.modPort_port ..)⟩,
      fun trains failed => ⟨_, execPortDown_training clocked trains failed, State.takeDown_port ..⟩, fun three trains => ?_⟩,
    fun s p f clocked serves => ⟨fun whole sound next_ => ⟨execFlitReceive_good clocked serves whole sound next_, State.acceptFlit_rest _, ?_⟩,
      fun bad => ⟨fun told => ?_, fun untold => ?_⟩, ?_⟩,
    fun s p v payload => rfl,
    fun k n rest op flags src dst epoch sseq tag job length addr rsv data =>
      unpack_packetBytes k rest ⟨op, flags, src, dst, epoch, sseq, tag, job, length, addr, rsv, data⟩ n⟩
  · have is := State.failLane_port (s := s) (p := p) (l := l)
    refine ⟨_, execLaneFail_serving clocked inRange up sound, State.afterLane_down is, State.afterLane_spare is,
      fun enough other left_ => ?_, State.afterLane_three is⟩
    have trains := State.afterLane_replaced is enough other left_
    exact ⟨trains.spare, trains.state, trains.failed, trains.unacked⟩
  · obtain ⟨t, runs, sent⟩ := execPortRetrained_training clocked three trains
    refine ⟨t, runs, sent.state.trans ?_, sent.retrains, sent.resends, sent.unacked⟩
    simp [Port.trained]
  · exact (State.modPort_port ..).trans (congrArg Port.pump (State.acceptFlit_port _))
  · refine (execFlitReceive_bad clocked serves (.inr bad)).trans (congrArg Host.Outcome.next ?_)
    rw [State.sendNak, if_pos told]
  · refine (execFlitReceive_bad clocked serves (.inr bad)).trans (congrArg Host.Outcome.next ?_)
    rw [State.sendNak, if_neg (by rw [untold]; exact Bool.false_ne_true)]
  · exact (execFlitReceive_bad clocked serves (.inl rfl)).trans (execFlitReceive_bad clocked serves (.inr (.inl (by decide)))).symm

end Sys2Proof.Machine
end

section
/-! SUPPORT. The machine as a whole (log 1, log 2, log 26): a step by the queue's front, a nanosecond on an empty queue, and that every
command completes. -/

namespace Sys2Proof.Machine

open Safety

/-! ## Steps -/

theorem step_of_front {s : State} {c : Instr} {rest : List Instr} (front : s.pending = c :: rest) :
    step s = exec c { s with pending := rest } := by
  simp only [step, front]

theorem step_of_empty {s : State} (empty : s.pending = []) : step s = .next s.passNs := by
  simp only [step, empty]

/-- Every command of every queue answers a next state, and so does an empty queue. -/
theorem step_runs (s : State) : Runs s := by
  unfold Runs
  cases queue : s.pending with
  | nil => exact ⟨_, step_of_empty queue⟩
  | cons c rest =>
    rw [step_of_front queue]
    obtain ⟨t, answers, -⟩ := (Kept.refl { s with pending := rest }).exec c
    exact ⟨t, answers⟩

/-! ## A nanosecond -/

/-- Keys of a total map counted up one after another: each counts once, every other key stays. -/
theorem mget_foldl_mset {α : Type} [DecidableEq α] (d : α) (p : Nat → Bool) (f : α → α) (k : Nat) : ∀ (l : List Nat) (m : Map α), l.Nodup →
    mget d (l.foldl (fun m n => if p n = true then mset d m n (f (mget d m n)) else m) m) k =
      if k ∈ l ∧ p k = true then f (mget d m k) else mget d m k := by
  intro l
  induction l with
  | nil => exact fun _ _ => by simp
  | cons n l ih =>
    intro m distinct
    obtain ⟨absent, distinct⟩ := List.nodup_cons.mp distinct
    rw [List.foldl_cons, ih _ distinct]
    by_cases same : n = k
    · subst same
      by_cases counts : p n = true <;> simp [absent, counts]
    · have other : mget d (if p n = true then mset d m n (f (mget d m n)) else m) k = mget d m k := by
        split
        · exact mget_mset_other d m _ same
        · rfl
      rw [other]
      simp [Ne.symm same]

/-- Nothing passes while the clocks stand (R448). -/
theorem State.passNs_stopped {s : State} (stopped : s.power.stopped = true) : s.passNs = s := by
  simp only [State.passNs, stopped, if_true]

theorem State.passNs_clocked {s : State} (clocked : Clocked s) : s.passNs = { s with
    sys := { s.sys with time := wrapAdd 64 s.sys.time 1 }
    hbm := { s.hbm with stopNs := (range 8).foldl (fun m n =>
      if bit s.hbm.stopped n then mset 0 m n (wrapAdd 48 (mget 0 m n) 1) else m) s.hbm.stopNs } } := by
  simp only [State.passNs, show s.power.stopped = false from clocked, Bool.false_eq_true, if_false]

/-- HBM_STOP_NS of each controller that has sent stop counts (Table 6.14). -/
theorem State.passNs_stopNs {s : State} (clocked : Clocked s) {n : Nat} (controller : n < 8) : mget 0 s.passNs.hbm.stopNs n =
    if bit s.hbm.stopped n = true then wrapAdd 48 (mget 0 s.hbm.stopNs n) 1 else mget 0 s.hbm.stopNs n := by
  rw [State.passNs_clocked clocked]
  refine (mget_foldl_mset 0 (bit s.hbm.stopped) (fun v => wrapAdd 48 v 1) n (range 8) _ List.nodup_range).trans ?_
  simp [range, controller]

end Sys2Proof.Machine

namespace Sys2Proof.Safety

open Machine

/-- Settles O1, by the front of the queue. -/
theorem stepRunsFrontCommand : Obligations.StepRunsFrontCommand := by
  unfold Obligations.StepRunsFrontCommand
  exact fun _ _ _ => step_of_front

/-- Settles O2, by whether the clocks run: if they stand nothing changes, else SYS_TIME and the stopped controllers count. -/
theorem emptyQueueCountsTime : Obligations.EmptyQueueCountsTime := by
  unfold Obligations.EmptyQueueCountsTime
  intro s empty
  refine ⟨_, step_of_empty empty, ?_⟩
  cases clocks : s.power.stopped with
  | true =>
    rw [State.passNs_stopped clocks]
    exact ⟨rfl, rfl, fun _ _ => by simp, fun _ => rfl, fun _ => rfl⟩
  | false =>
    have counts (n : Nat) (controller : n < 8) := State.passNs_stopNs clocks controller
    refine ⟨?_, ?_, fun n controller => ?_, fun a => ?_, fun stopped => by simp at stopped⟩
    · rw [State.passNs_clocked clocks]
      simp [wrapAdd]
    · rw [State.passNs_clocked clocks]
    · simpa [wrapAdd] using counts n controller
    · rw [State.passNs_clocked clocks]
      rfl

/-- Settles O3, by what every command keeps. -/
theorem everyStepAnswersNextState : Obligations.EveryStepAnswersNextState := by
  unfold Obligations.EveryStepAnswersNextState
  refine ⟨step_runs, fun c s => ?_⟩
  obtain ⟨t, answers, kept⟩ := (Kept.refl s).exec c
  exact ⟨t, answers, kept.pending⟩

end Sys2Proof.Safety
end

section
/-! SUPPORT. Clock, voltage and temperature (R430, R448, R450): the core clock goes to what the limits allow, a lowering at once and a raise
when POWER_GOOD comes. -/

namespace Sys2Proof.Machine

open Safety

/-! ## The clock that the limits allow -/

theorem Power.wanted_braked {p : Power} (braked : p.brakeN = false) : p.wanted ≤ 900 := by
  simp only [Power.wanted, braked, Bool.false_eq_true, if_false]
  exact Nat.min_le_right ..

theorem Power.wanted_le_target (p : Power) : p.wanted ≤ min p.target p.thermal := Nat.min_le_left ..

theorem Power.wanted_le_thermal (p : Power) : p.wanted ≤ p.thermal := p.wanted_le_target.trans (Nat.min_le_right ..)

/-- The clock's limits at reset are the brake's alone (R450). -/
theorem Power.wanted_pins (p : Power) : p.pins.wanted = if p.brakeN then 1750 else 900 := by
  cases brake : p.brakeN <;> simp [Power.wanted, Power.pins, brake]

/-! ## Moving the clock -/

/-- Moving the clock changes the clock, the raise that waits, the voltage, and what leaves the device. -/
theorem State.setClock_eq (s : State) : s.setClock = { s with
    power := { s.power with current := s.setClock.power.current, waiting := s.setClock.power.waiting, vout := s.setClock.power.vout }
    out := s.setClock.out } := by
  unfold State.setClock
  dsimp only
  split
  · rfl
  · split
    · rfl
    · split <;> rfl

/-- The clock is lowered at once, and a raise waits (R430). -/
theorem State.setClock_current (s : State) : s.setClock.power.current = min s.power.current s.power.wanted := by
  unfold State.setClock
  dsimp only
  split
  · rfl
  · split
    next raise => exact (Nat.min_eq_left raise.le).symm
    next lower =>
      have : s.power.wanted = min s.power.current s.power.wanted := (Nat.min_eq_right (Nat.not_lt.mp lower)).symm
      split <;> exact this

theorem State.setClock_within (s : State) : s.setClock.power.current ≤ s.power.wanted :=
  s.setClock_current.le.trans (Nat.min_le_right ..)

section
variable {s : State} (clocked : Clocked s)
include clocked

theorem execPwrBrake_clocked : execPwrBrake s = .next (s.modPower (fun p => { p with brakeN := false })).setClock := by
  simp only [execPwrBrake, show s.power.stopped = false from clocked, Bool.false_eq_true, if_false]

theorem execPwrBrakeRelease_clocked : execPwrBrakeRelease s = .next (s.modPower (fun p => { p with brakeN := true })).setClock := by
  simp only [execPwrBrakeRelease, show s.power.stopped = false from clocked, Bool.false_eq_true, if_false]

theorem execPowerGood_waiting {w : Nat} (waits : s.power.waiting = some w) :
    execPowerGood s = .next (s.modPower (fun p => { p with current := w, waiting := none })) := by
  simp only [execPowerGood, waits, show s.power.stopped = false from clocked, Bool.false_eq_true, if_false]

/-! ## Thermal readings (Table 15.8) -/

/-- A reading of 105 °C stops every clock and pulls THERMTRIP. -/
theorem execThermalSample_trip {l : List Nat} (hot : 105 ≤ (hottestOf l).1) :
    ∃ t, execThermalSample l s = .next t ∧ t.power.stopped = true ∧ t.power.tripN = false := by
  simp only [execThermalSample, show s.power.stopped = false from clocked, Bool.false_eq_true, if_false, if_pos hot]
  exact ⟨_, rfl, rfl, rfl⟩

/-- From 100 °C on the thermal limit falls, and the clock with it. -/
theorem execThermalSample_throttle {l : List Nat} (hot : 100 ≤ (hottestOf l).1) (below : (hottestOf l).1 < 105) :
    ∃ t, execThermalSample l s = .next t ∧ t.power.stopped = false
      ∧ t.power.thermal = max 900 (min s.power.target s.power.thermal - 50) ∧ t.power.current ≤ t.power.thermal := by
  simp only [execThermalSample, show s.power.stopped = false from clocked, Bool.false_eq_true, if_false, if_neg (Nat.not_le.mpr below),
    if_pos hot]
  refine ⟨_, rfl, ?_, ?_, ?_⟩
  · rw [State.modPower_power, State.setClock_eq]
    exact clocked
  · rw [State.modPower_power, State.setClock_eq]
    rfl
  · rw [State.modPower_power, State.setClock_eq]
    exact (State.setClock_within _).trans (Power.wanted_le_thermal _)

end

end Sys2Proof.Machine

namespace Sys2Proof.Safety

open Machine

/-- Settles O58: the brake, its release and a raise by their equations, a thermal reading by its threshold. -/
theorem clocksFollowTheirLimits : Obligations.ClocksFollowTheirLimits := by
  unfold Obligations.ClocksFollowTheirLimits
  refine ⟨fun s clocked => ⟨_, execPwrBrake_clocked clocked, ?_, ?_⟩, fun s clocked => ⟨_, execPwrBrakeRelease_clocked clocked, ?_, ?_⟩,
    fun s w clocked waits => execPowerGood_waiting clocked waits,
    fun s l clocked => ⟨execThermalSample_trip clocked, execThermalSample_throttle clocked⟩⟩
  · rw [State.setClock_eq]
    rfl
  · exact (State.setClock_within _).trans (Power.wanted_braked rfl)
  · rw [State.setClock_eq]
    rfl
  · exact (State.setClock_within _).trans (Power.wanted_le_target _)

end Sys2Proof.Safety
end

section
/-! SUPPORT. How the device stands: what it has booted and what it runs on. Retiring a cluster (R19) and what it ends leave both as they are,
and a new generation of the repair map (R417) too; each operation in the order of the model. -/

namespace Sys2Proof.Machine

/-- What the device has booted (R441), and its clocks, straps and pins. -/
def State.standing (s : State) : (BootState × Nat × Nat) × Power := ((s.boot.state, s.boot.copy, s.boot.gen), s.power)

theorem State.standing_of_same {s t : State} (boot : t.boot = s.boot) (power : t.power = s.power) : t.standing = s.standing := by
  rw [State.standing, State.standing, boot, power]

theorem State.foldl_standing {α : Type} {f : State → α → State} (hf : ∀ t a, (f t a).standing = t.standing) (l : List α) (s : State) :
    (l.foldl f s).standing = s.standing :=
  List.foldlRecOn (motive := fun t : State => t.standing = s.standing) l f rfl fun t ht a _ => (hf t a).trans ht

section
variable (s : State)

/-! ## Updates and replies -/

@[simp] theorem State.modCtx_standing (x : Nat) (f : Ctx → Ctx) : (s.modCtx x f).standing = s.standing :=
  State.standing_of_same (State.modCtx_boot ..) (State.modCtx_power ..)
@[simp] theorem State.setGraph_standing (g : Nat) (x : Graph) : (s.setGraph g x).standing = s.standing := rfl
@[simp] theorem State.modGraph_standing (g : Nat) (f : Graph → Graph) : (s.modGraph g f).standing = s.standing :=
  State.standing_of_same (State.modGraph_boot ..) (State.modGraph_power ..)
@[simp] theorem State.modTask_standing (g i : Nat) (f : Task → Task) : (s.modTask g i f).standing = s.standing := s.modGraph_standing ..
@[simp] theorem State.log_standing (code kind : Nat) (x : Option Nat) (closed : Bool) (source detail : Nat) :
    (s.log code kind x closed source detail).standing = s.standing := rfl
@[simp] theorem State.post_standing (f q : Nat) (r : Reply) : (s.post f q r).standing = s.standing :=
  State.standing_of_same (s.post_replied f q r).boot (s.post_replied f q r).power
@[simp] theorem State.pfEvent_standing (code : Nat) (bs : List Byte) : (s.pfEvent code bs).standing = s.standing := s.post_standing ..
@[simp] theorem State.event_standing (x code : Nat) (bs : List Byte) : (s.event x code bs).standing = s.standing :=
  State.standing_of_same (s.event_replied x code bs).boot (s.event_replied x code bs).power

/-! ## The end of a task's work -/

@[simp] theorem State.dropTaskWaits_standing (g i : Nat) : (s.dropTaskWaits g i).standing = s.standing := rfl

@[simp] theorem State.clearCore_standing (c : Nat) : (s.clearCore c).standing = s.standing :=
  State.foldl_standing (f := State.landStore) (fun _ _ => rfl) _ s

@[simp] theorem State.clearTask_standing (g i : Nat) : (s.clearTask g i).standing = s.standing := by
  unfold State.clearTask
  rw [State.modTask_standing]
  refine (State.foldl_standing (fun _ _ => ?_) ..).trans (State.foldl_standing State.clearCore_standing ..)
  rfl

@[simp] theorem State.sendAdd_standing (src : Agent) (key inc : Nat) (by_ : Option (Nat × Nat)) :
    (s.sendAdd src key inc by_).1.standing = s.standing := by
  rw [State.sendAdd_eq]
  rfl

@[simp] theorem State.releaseVersion_standing (g i : Nat) : (s.releaseVersion g i).standing = s.standing := by
  unfold State.releaseVersion
  split
  · rfl
  · dsimp only
    split <;> simp

@[simp] theorem State.releaseGraph_standing (g : Nat) : (s.releaseGraph g).standing = s.standing := by
  unfold State.releaseGraph
  split
  · rfl
  · refine State.foldl_standing (fun t e => ?_) _ s
    split <;> simp

@[simp] theorem State.releaseStash_standing (g i : Nat) : (s.releaseStash g i).standing = s.standing := by
  unfold State.releaseStash
  split
  · rfl
  · dsimp only
    split
    · rfl
    · split <;> rfl

/-! ## The end of a graph -/

@[simp] theorem State.replayCause_standing (x : Nat) (step : Option Nat) (code : Nat) :
    (s.replayCause x step code).standing = s.standing := by
  unfold State.replayCause
  split
  · split
    · rfl
    · split
      · rfl
      · simp
  · rfl

@[simp] theorem State.graphFail_standing (g code i : Nat) : (s.graphFail g code i).standing = s.standing := s.modGraph_standing ..

theorem State.clearTasks_standing (g : Nat) (l : Map Task) :
    (l.foldl (fun (s : State) e => if e.2.cores = [] then s else s.clearTask g e.1) s).standing = s.standing := by
  refine State.foldl_standing (fun t e => ?_) l s
  split <;> simp

@[simp] theorem State.endGraph_standing (g code : Nat) : (s.endGraph g code).standing = s.standing := by
  unfold State.endGraph
  split
  · rfl
  · dsimp only
    have released (l : Map Task) := (State.releaseGraph_standing _ g).trans (s.clearTasks_standing g l)
    split
    · exact released _
    · rw [State.replayCause_standing, State.post_standing, State.modCtx_standing]
      exact released _

@[simp] theorem State.settle_standing (g : Nat) : (s.settle g).standing = s.standing := by
  unfold State.settle
  split
  · rfl
  · split
    · split <;> simp
    · split
      · simp
      · split <;> simp

@[simp] theorem State.suspend_standing (x va : Nat) (store : Bool) : (s.suspend x va store).standing = s.standing := by
  unfold State.suspend
  split
  · rfl
  · split
    · rfl
    · exact State.event_standing ..

@[simp] theorem State.taskFails_standing (g i code : Nat) : (s.taskFails g i code).standing = s.standing := by
  unfold State.taskFails
  split
  · rfl
  · rw [State.settle_standing, State.graphFail_standing, State.releaseStash_standing]
    refine (State.standing_of_same (s := (((s.clearTask g i).dropTaskWaits g i).releaseVersion g i).modTask g i _) rfl rfl).trans ?_
    rw [State.modTask_standing, State.releaseVersion_standing, State.dropTaskWaits_standing, State.clearTask_standing]

/-! ## Tasks that come into the window -/

@[simp] theorem State.addDecision_standing (d : Decision) : (s.addDecision d).standing = s.standing := by
  unfold State.addDecision
  split <;> rfl

@[simp] theorem State.recordPa_standing (pa : Nat) : (s.recordPa pa).standing = s.standing := by
  unfold State.recordPa
  split <;> simp

@[simp] theorem State.markAcc_standing (w : Who) (a : Acc) : (s.markAcc w a).standing = s.standing := by
  unfold State.markAcc
  split
  · rfl
  · simp
  · rfl

@[simp] theorem State.poke_standing (x a : Nat) (bs : List Byte) : (s.poke x a bs).standing = s.standing := by
  rw [State.poke, State.write_eq]
  rfl

@[simp] theorem State.countTask_standing (g i : Nat) : (s.countTask g i).standing = s.standing := by
  unfold State.countTask
  split
  · rfl
  · dsimp only
    split
    · split
      · rfl
      · split <;> simp
    · rfl

@[simp] theorem State.nameVersion_standing (g i : Nat) (x : Graph) (d : List Byte) :
    ((s.nameVersion g i x d).toOption.getD s).standing = s.standing := by
  unfold State.nameVersion
  split
  · rfl
  · split
    · rfl
    · dsimp only
      split
      · rfl
      · split
        · rfl
        · exact (State.countTask_standing ..).trans (State.modTask_standing ..)

@[simp] theorem State.addWait_standing (key threshold : Nat) (who : Waiter) : (s.addWait key threshold who).standing = s.standing := by
  rw [State.addWait_eq]
  rfl

@[simp] theorem State.loadTask_standing (g i : Nat) : (s.loadTask g i).standing = s.standing := by
  unfold State.loadTask
  split
  · rfl
  · split
    · split
      · simp
      · simp
      · split
        · simp
        · rw [State.foldl_standing fun t _ => t.addWait_standing ..]
          simp
    · rfl

@[simp] theorem State.unspillSome_standing (n : Nat) : (s.unspillSome n).standing = s.standing := by
  induction n generalizing s with
  | zero => rfl
  | succ n ih =>
    rw [State.unspillSome]
    split
    · rfl
    · split
      · simp [ih]
      · rfl

@[simp] theorem State.failTask_standing (g i code : Nat) : (s.failTask g i code).standing = s.standing := by
  simp [State.failTask, State.unspill]

/-! ## Retirement -/

theorem State.failAll_standing (l : List (Nat × Nat)) (code : Nat) : (s.failAll l code).standing = s.standing := by
  unfold State.failAll
  split
  · rfl
  · refine State.foldl_standing (fun t e => ?_) l s
    split <;> simp

@[simp] theorem State.zeroRange_standing (o n : Nat) : (s.zeroRange o n).standing = s.standing := rfl

theorem State.loseStores_standing (n : Nat) : (s.loseStores n).standing = s.standing := by
  unfold State.loseStores
  rw [State.zeroRange_standing, State.foldl_standing fun t _ => t.zeroRange_standing ..]

theorem State.releaseMet_standing (key count : Nat) : (s.releaseMet key count).standing = s.standing := by
  refine State.foldl_standing (fun t w => ?_) _ s
  unfold State.releaseWait
  split
  · rw [State.passWait_eq]
    rfl
  · rfl
  · rfl

theorem State.rehome_standing (n : Nat) : (s.rehome n).standing = s.standing := by
  refine State.foldl_standing (fun t e => ?_) _ s
  split
  · exact State.releaseMet_standing ..
  · rfl

@[simp] theorem State.retire_standing (n : Nat) : (s.retire n).standing = s.standing := by
  unfold State.retire
  split
  · rfl
  · exact (State.rehome_standing ..).trans ((State.loseStores_standing ..).trans (s.failAll_standing ..))

/-! ## The repair map -/

@[simp] theorem State.extend_standing (r : Nat) (new : BitVec 512) : (s.extend r new).standing = s.standing := rfl

@[simp] theorem State.newGeneration_standing : s.newGeneration.standing = s.standing := State.pfEvent_standing ..

theorem State.replaceCore_standing (site : Nat) : (s.replaceCore site).standing = s.standing := by
  unfold State.replaceCore
  dsimp only
  split
  · rfl
  · split
    · exact State.retire_standing ..
    · rfl

theorem State.decide_standing (d : Decision) : (s.decide_ d).standing = s.standing := by
  cases d with
  | column site column =>
    simp only [State.decide_]
    split
    · rfl
    · split
      · exact State.replaceCore_standing ..
      · rfl
  | row memory n slot row =>
    simp only [State.decide_]
    split
    · rfl
    · split
      · rfl
      · split
        · exact State.replaceCore_standing ..
        · split
          · exact State.retire_standing ..
          · rfl
  | core site => exact State.replaceCore_standing ..
  | arrayRow site => exact State.replaceCore_standing ..
  | hbmRow e =>
    simp only [State.decide_]
    split <;> rfl

/-- Decisions that come into effect leave how the device stands (R416, R417). -/
@[simp] theorem State.settleDecisions_standing (sel : Decision → Bool) : (s.settleDecisions sel).standing = s.standing := by
  unfold State.settleDecisions
  dsimp only
  split
  · rfl
  · exact (State.newGeneration_standing _).trans (State.foldl_standing State.decide_standing ..)

@[simp] theorem State.addLanes_standing (lanes : List (Nat × Nat)) : (s.addLanes lanes).standing = s.standing := by
  unfold State.addLanes
  dsimp only
  split
  · rfl
  · exact State.newGeneration_standing _

end

end Sys2Proof.Machine
end

section
/-! SUPPORT. Boot and the resets (R431, R433, R441 to R446): which copy runs, what the straps show, and what a reset leaves of memory and of
the clock. -/

namespace Sys2Proof.Machine

open Safety

/-! ## The straps -/

/-- Whether power is good, and the straps as they have been sampled (R431). -/
def Power.straps (p : Power) : Bool × Bool × Bool := (p.good, p.mgrSel, p.smbAddr)

/-- The straps are sampled once after PWR_GOOD has risen. -/
theorem State.runBoot_straps (s : State) (r : BootRun) : (s.runBoot r).power.straps =
    (true, if s.power.sampled then (s.power.mgrSel, s.power.smbAddr) else (r.mgrSel, r.smbAddr)) := by
  cases sampled : s.power.sampled <;> simp [State.runBoot, Power.straps, sampled]

/-- What straps sampled at the first run after PWR_GOOD rose, and only then, say of each of them. -/
theorem Power.straps_sampled {p q : Power} {r : BootRun}
    (h : p.straps = (true, if q.sampled then (q.mgrSel, q.smbAddr) else (r.mgrSel, r.smbAddr))) :
    p.good = true ∧ (q.sampled = false → p.mgrSel = r.mgrSel ∧ p.smbAddr = r.smbAddr)
      ∧ (q.sampled = true → p.mgrSel = q.mgrSel ∧ p.smbAddr = q.smbAddr) := by
  cases sampled : q.sampled <;> simpa [Power.straps, sampled] using h

/-! ## The copy that boots -/

/-- The copy of the higher GENERATION is tried first, and runs where it is good (R441). -/
theorem chooseCopy_first {i0 i1 : List Byte} (good : imageCode (if firstCopy i0 i1 = 0 then i0 else i1) = 0) :
    chooseCopy i0 i1 = (some (firstCopy i0 i1), 0) := if_pos good

theorem chooseCopy_second {i0 i1 : List Byte} (bad : imageCode (if firstCopy i0 i1 = 0 then i0 else i1) ≠ 0)
    (good : imageCode (if 1 - firstCopy i0 i1 = 0 then i0 else i1) = 0) :
    chooseCopy i0 i1 = (some (1 - firstCopy i0 i1), imageCode (if firstCopy i0 i1 = 0 then i0 else i1)) :=
  (if_neg bad).trans (if_pos good)

theorem chooseCopy_neither {i0 i1 : List Byte} (bad : imageCode (if firstCopy i0 i1 = 0 then i0 else i1) ≠ 0)
    (worse : imageCode (if 1 - firstCopy i0 i1 = 0 then i0 else i1) ≠ 0) :
    chooseCopy i0 i1 = (none, imageCode (if firstCopy i0 i1 = 0 then i0 else i1)) := (if_neg bad).trans (if_neg worse)

theorem State.modPort_standing (s : State) (p : Nat) (f : Port → Port) : (s.modPort p f).standing = s.standing := rfl

theorem State.loadIlv_standing (s : State) (mode : Nat) : (s.loadIlv mode).standing = s.standing := by
  unfold State.loadIlv
  split <;> rfl

/-- A copy that boots: the device is ready, with that copy and its GENERATION (R441). -/
theorem State.bootFrom_standing (s : State) (b : List Byte) (copy failed : Nat) (lanes : List (Nat × Nat)) :
    ∃ t : State, s.bootFrom b copy failed lanes = t.setClock ∧ t.standing = ((.ready, copy, field b 8 4), s.power) := by
  unfold State.bootFrom
  dsimp only
  refine ⟨_, rfl, ?_⟩
  rw [State.foldl_standing fun t p => t.modPort_standing p _, State.addLanes_standing, State.settleDecisions_standing]
  exact congrArg (Prod.mk _) (congrArg Prod.snd (s.loadIlv_standing _))

/-- What a copy that boots leaves: the boot registers, and the straps as they were sampled. -/
theorem State.bootFrom_boot (s : State) (b : List Byte) (copy failed : Nat) (lanes : List (Nat × Nat)) :
    let t := s.bootFrom b copy failed lanes
    t.power.straps = s.power.straps ∧ t.boot.state = .ready ∧ t.boot.copy = copy ∧ t.boot.gen = field b 8 4 := by
  obtain ⟨t, is, stands⟩ := s.bootFrom_standing b copy failed lanes
  simp only [State.standing, Prod.mk.injEq] at stands
  obtain ⟨⟨state, copy_, gen⟩, power⟩ := stands
  rw [is, State.setClock_eq, ← power]
  exact ⟨rfl, state, copy_, gen⟩

section
variable {s : State} {i0 i1 : List Byte} {r : BootRun} {lanes : List (Nat × Nat)}
variable (starts : Clocked s ∨ s.power.good = false) (booting : s.boot.state = .booting)
include starts booting

/-- BOOT runs while the sequencer has not ended and nothing holds the clocks. -/
theorem execBoot_booting : execBoot i0 i1 r lanes s =
    if r.step < 8 then .next (s.runBoot r)
    else match chooseCopy i0 i1 with
      | (some k, _) => .next ((s.runBoot r).bootFrom (if k = 0 then i0 else i1) k r.failed lanes)
      | (none, code) => .next ((s.runBoot r).recover (firstCopy i0 i1) code) := by
  have runs : (s.power.stopped && s.power.good) = false := by
    rcases starts with clocked | low
    · rw [clocked.stopped, Bool.false_and]
    · rw [low, Bool.and_false]
  simp only [execBoot, runs, booting, ne_eq, not_true, decide_false, Bool.or_self, Bool.false_eq_true, if_false] <;> rfl

theorem execBoot_part (part : r.step < 8) : execBoot i0 i1 r lanes s = .next (s.runBoot r) := by
  rw [execBoot_booting starts booting, if_pos part]

theorem execBoot_copy (whole : 8 ≤ r.step) {k c : Nat} (choice : chooseCopy i0 i1 = (some k, c)) :
    execBoot i0 i1 r lanes s = .next ((s.runBoot r).bootFrom (if k = 0 then i0 else i1) k r.failed lanes) := by
  rw [execBoot_booting starts booting, if_neg (Nat.not_lt.mpr whole), choice]

theorem execBoot_recovery (whole : 8 ≤ r.step) {c : Nat} (choice : chooseCopy i0 i1 = (none, c)) :
    execBoot i0 i1 r lanes s = .next ((s.runBoot r).recover (firstCopy i0 i1) c) := by
  rw [execBoot_booting starts booting, if_neg (Nat.not_lt.mpr whole), choice]

end

/-- A part of the sequence shows its last step, and changes nothing else but the straps (R431, R444). -/
theorem State.runBoot_part {s : State} {r : BootRun} (part : r.step < 8) : s.runBoot r =
    { s with power := (s.runBoot r).power, boot := { s.boot with step := max s.boot.step (max 1 r.step) } } := by
  rw [State.runBoot, Nat.min_eq_right part.le]

/-! ## Stores in flight at a warm reset -/

@[simp] theorem mergeLast_length (m : Nat) (old : Byte) (bs : List Byte) : (mergeLast m old bs).length = bs.length := by
  unfold mergeLast
  split
  · rfl
  · simp [upd]

theorem State.landStore_byteAt_outside (s : State) {q : Req} {a : Nat} (outside : ¬ (q.pa ≤ a ∧ a < q.pa + q.data.length)) :
    (s.landStore q).byteAt a = s.byteAt a :=
  State.byteAt_put_outside s _ _ (by rw [mergeLast_length]; omega)

/-- A unit of a store lies within the store. -/
theorem Req.blocks_within {q b : Req} (unit : b ∈ q.blocks) : q.pa ≤ b.pa ∧ b.pa + b.data.length ≤ q.pa + q.data.length := by
  obtain ⟨k, -, is⟩ := List.mem_filterMap.mp unit
  dsimp only at is
  split at is
  · cases is
    simp only [slice_length]
    omega
  · cases is

/-- A byte that no store was on its way to is as it was, whichever of them land (Table 15.7). -/
theorem State.landSome_byteAt {s : State} {a : Nat} (apart : ∀ e ∈ s.cores, ∀ q ∈ e.2.ramb.reqs, q.localStore = true →
    ¬ (q.pa ≤ a ∧ a < q.pa + q.data.length)) : s.landSome.byteAt a = s.byteAt a := by
  refine List.foldlRecOn (motive := fun t : State => t.byteAt a = s.byteAt a) _ _ rfl fun t same b unit => ?_
  obtain ⟨e, core, unit⟩ := List.mem_flatMap.mp unit
  obtain ⟨q, store, unit⟩ := List.mem_flatMap.mp unit
  obtain ⟨queued, here⟩ := List.mem_filter.mp store
  have outside : ¬ (b.pa ≤ a ∧ a < b.pa + b.data.length) := by
    have within := Req.blocks_within unit
    have := apart e core q queued here
    omega
  split
  · rw [State.landStore_byteAt_outside t outside, same]
  · exact same

theorem State.landSome_eq (s : State) :
    s.landSome = { s with mem := s.landSome.mem, bad := s.landSome.bad, clusters := s.landSome.clusters } := by
  refine List.foldlRecOn (motive := fun t : State => t = { s with mem := t.mem, bad := t.bad, clusters := t.clusters }) _ _ rfl
    fun t is b _ => ?_
  split
  · rw [is]
    rfl
  · exact is

/-- A warm reset once the stores in flight have landed or not. -/
def State.landed (s : State) : State :=
  if s.cores.any (fun (e : Nat × Core) => e.2.ramb.reqs.any Req.localStore) then s.landSome.advance else s

theorem State.landed_eq (s : State) : s.landed =
    { s with tick := s.landed.tick, mem := s.landed.mem, bad := s.landed.bad, clusters := s.landed.clusters } := by
  unfold State.landed
  split
  · rw [State.landSome_eq]
    rfl
  · rfl

theorem State.landed_rest (s : State) :
    s.landed.sys.time = s.sys.time ∧ s.landed.repair = s.repair ∧ s.landed.mtr = s.mtr ∧ s.landed.power = s.power := by
  rw [State.landed_eq]
  exact ⟨rfl, rfl, rfl, rfl⟩

theorem State.landed_byteAt {s : State} {a : Nat} (apart : ∀ e ∈ s.cores, ∀ q ∈ e.2.ramb.reqs, q.localStore = true →
    ¬ (q.pa ≤ a ∧ a < q.pa + q.data.length)) : s.landed.byteAt a = s.byteAt a := by
  unfold State.landed
  split
  · exact State.landSome_byteAt apart
  · rfl

/-! ## What a warm reset leaves -/

/-- The state that a warm reset leaves before its clock moves and its cause is measured (Table 15.7). -/
def State.warmed (s : State) (perst : Bool) : State :=
  { s.afterReset with
    hbm := { ilv := s.hbm.ilv, undef := s.hbm.undef }
    pci := if perst then {} else { width := s.pci.width, rate := s.pci.rate }
    mem := s.mem.filter (fun e => keptAddr e.1)
    bad := s.bad.filter keptAddr
    sys := { time := s.sys.time }
    repair := s.repair
    mtr := s.mtr
    ctxRegs := (s.ctxRegs.map (fun (e : Nat × CtxRegs) =>
      (e.1, ({ serial := e.2.serial, active := e.2.active } : CtxRegs)))).filter (fun e => decide (e.2 ≠ {}))
    power := { s.power.pins with
      perst := s.power.perst && !perst, vout := s.power.vout, tripN := s.power.tripN, current := s.power.current
      mgrSel := s.power.mgrSel, smbAddr := s.power.smbAddr, sampled := s.power.sampled }
    boot := { cause := if perst then 2 else 1, image := s.boot.image, measure := s.boot.measure, debugUsed := s.boot.debugUsed
              lanternUsed := s.boot.lanternUsed } }

theorem execWarmReset_eq {s : State} (clocked : Clocked s) (good : s.power.good = true) (perst : Bool) : execWarmReset perst s =
    .next ((s.landed.warmed perst).setClock.extend 4 (Config.measured 4 [if perst then 2 else 1])) := by
  simp only [execWarmReset, clocked.stopped, good, Bool.not_true, Bool.or_self, Bool.false_eq_true, if_false]
  rfl

/-- Removing the entries of keys leaves them unlisted. -/
theorem mget_filter_removed {α : Type} (d : α) (p : Nat → Bool) (m : Map α) {k : Nat} (removed : p k = false) :
    mget d (m.filter (fun e => p e.1)) k = d := by
  induction m with
  | nil => rfl
  | cons e m ih =>
    rw [List.filter_cons]
    split
    next kept =>
      have other : e.1 ≠ k := fun same => by rw [same, removed] at kept; cases kept
      simp only [mget, other, if_false, ih]
    next => exact ih

/-- Memory reads by its entries and by what an unlisted byte of HBM reads as. -/
theorem State.byteAt_congr {s t : State} (mem : t.mem = s.mem) (undef : t.hbm.undef = s.hbm.undef) (a : Nat) : t.byteAt a = s.byteAt a := by
  rw [State.byteAt, State.byteAt, Hbm.unlisted, Hbm.unlisted, mem, undef]

theorem State.warmed_byteAt_kept {s : State} {perst : Bool} {a : Nat} (kept : keptAddr a = true) :
    (s.warmed perst).byteAt a = s.byteAt a := mget_filter_key _ keptAddr s.mem kept

theorem State.warmed_byteAt_cleared {s : State} {perst : Bool} {a : Nat} (hbm : regionOf a ≠ .hbm) (slow : regionOf a ≠ .slow) :
    (s.warmed perst).byteAt a = memDefault := by
  rw [State.byteAt, Hbm.unlisted_outside (hbmBytes_le_of_region hbm)]
  exact mget_filter_removed _ keptAddr s.mem (by simp [keptAddr, hbm, slow])

theorem State.warmed_wanted (s : State) (perst : Bool) : (s.warmed perst).power.wanted = if s.power.brakeN then 1750 else 900 :=
  s.power.wanted_pins

theorem execColdReset_eq (s : State) : execColdReset s = .next { s.afterReset with
    power := { s.power.pins with good := false, stopped := true, current := s.power.pins.wanted } } := rfl

end Sys2Proof.Machine

namespace Sys2Proof.Safety

open Machine

/-- Settles O57: BOOT by how far it runs and which copies are good; a cold reset by its equation; a warm reset by what it keeps of memory. -/
theorem bootAndResets : Obligations.BootAndResets := by
  unfold Obligations.BootAndResets
  refine ⟨fun s i0 i1 r lanes starts booting => ?_, fun s => ?_, fun s perst clocked good => ?_⟩
  · dsimp only
    change ∃ t, _ ∧ _ ∧ _ ∧ _ ∧ _ ∧ (8 ≤ r.step → (imageCode (if firstCopy i0 i1 = 0 then i0 else i1) = 0 → _) ∧ _)
    have sampled := s.runBoot_straps r
    rcases Nat.lt_or_ge r.step 8 with part | whole
    · obtain ⟨high, first, later⟩ := Power.straps_sampled sampled
      exact ⟨_, execBoot_part starts booting part, high, first, later, fun _ => State.runBoot_part part,
        fun whole => absurd part (Nat.not_lt.mpr whole)⟩
    · by_cases bad : imageCode (if firstCopy i0 i1 = 0 then i0 else i1) = 0
      · obtain ⟨straps, ready, copy, gen⟩ := (s.runBoot r).bootFrom_boot _ (firstCopy i0 i1) r.failed lanes
        obtain ⟨high, first, later⟩ := Power.straps_sampled (straps.trans sampled)
        exact ⟨_, execBoot_copy starts booting whole (chooseCopy_first bad), high, first, later, fun part => absurd part (Nat.not_lt.mpr whole),
          fun _ => ⟨fun _ => ⟨ready, copy, gen⟩, fun fails => absurd bad fails, fun fails => absurd bad fails⟩⟩
      · by_cases worse : imageCode (if 1 - firstCopy i0 i1 = 0 then i0 else i1) = 0
        · obtain ⟨straps, ready, copy, gen⟩ := (s.runBoot r).bootFrom_boot _ (1 - firstCopy i0 i1) r.failed lanes
          obtain ⟨high, first, later⟩ := Power.straps_sampled (straps.trans sampled)
          exact ⟨_, execBoot_copy starts booting whole (chooseCopy_second bad worse), high, first, later,
            fun part => absurd part (Nat.not_lt.mpr whole),
            fun _ => ⟨fun good => absurd good bad, fun _ _ => ⟨ready, copy, gen⟩, fun _ fails => absurd worse fails⟩⟩
        · obtain ⟨high, first, later⟩ := Power.straps_sampled sampled
          exact ⟨_, execBoot_recovery starts booting whole (chooseCopy_neither bad worse), high, first, later,
            fun part => absurd part (Nat.not_lt.mpr whole),
            fun _ => ⟨fun good => absurd good bad, fun _ good => absurd good worse, fun _ _ => ⟨rfl, rfl, rfl, rfl, rfl⟩⟩⟩
  · exact ⟨_, execColdReset_eq s, rfl, rfl, s.power.wanted_pins, rfl, rfl⟩
  · have bytes (a : Nat) : ((s.landed.warmed perst).setClock.extend 4 (Config.measured 4 [if perst then 2 else 1])).byteAt a =
        (s.landed.warmed perst).byteAt a := by
      rw [State.setClock_eq]
      rfl
    refine ⟨_, execWarmReset_eq clocked good perst, fun a kept apart => ?_, fun a hbm slow => ?_, ?_⟩
    · rw [bytes, State.warmed_byteAt_kept (by simpa [keptAddr] using kept), State.landed_byteAt apart]
    · rw [bytes, State.warmed_byteAt_cleared hbm slow]
    · obtain ⟨time, repair, mtr, power⟩ := s.landed_rest
      have current : (s.landed.warmed perst).power.current = s.power.current := by rw [← power]; rfl
      have lowered := (s.landed.warmed perst).setClock_current
      rw [State.warmed_wanted, current, power] at lowered
      rw [State.setClock_eq]
      exact ⟨rfl, rfl, rfl, rfl, rfl, time, repair, mtr, lowered⟩

end Sys2Proof.Safety
end

section
/-! SUPPORT. What stands after reset (Tables 12.12, 12.13, 12.15 and 15.16): the registers by their values, and the invariants of the steps, which
speak of lists that are empty and of fields at their defaults. -/

namespace Sys2Proof.Safety

open Machine

/-! ## Registers -/

theorem reset_ports : ∀ n < 9, State.reset.bar0 (0x70100 + 8 * n) = some 0x10 ∧ State.reset.bar0 (0x80100 + 8 * n) = some 0x10 := by
  decide

theorem reset_zeros : ∀ o ∈ [0x120, 0x200, 0x208, 0x400, 0x408, 0x500, 0x608, 0x618, 0x20000, 0x20018, 0x70010, 0x70300, 0xB0000, 0xE0020],
    State.reset.bar0 o = some 0 := by
  decide

/-! ## Invariants -/

theorem reset_memoryOk : MemoryOk State.reset := ⟨rfl, rfl⟩

theorem reset_tagsInRange : TagsInRange State.reset := ⟨fun _ h => absurd h List.not_mem_nil, List.nodup_nil⟩

theorem reset_portsInRange : PortsInRange State.reset :=
  fun _ => ⟨Nat.two_pow_pos 5, .inl (by decide : 4 < 5), (by decide : 0 < 4)⟩

theorem reset_countersInRange : CountersInRange State.reset := by
  refine ⟨by decide, ⟨by decide, fun _ h => absurd h List.not_mem_nil⟩, ⟨by decide, by decide, fun _ => ⟨Nat.two_pow_pos 16, Nat.two_pow_pos 32⟩⟩,
    fun e => ?_, fun f => ⟨Nat.two_pow_pos 32, Nat.two_pow_pos 16, fun q => Nat.two_pow_pos 32⟩, by decide, fun d => Nat.two_pow_pos 32,
    fun _ h => absurd h List.not_mem_nil⟩
  unfold State.engine
  split <;> decide

theorem reset_marksInRange : MarksInRange State.reset := ⟨fun _ h => absurd h List.not_mem_nil, fun _ h => absurd h List.not_mem_nil⟩

theorem reset_graphsInRange : GraphsInRange State.reset :=
  ⟨fun _ h => absurd h List.not_mem_nil, List.nodup_nil, fun _ => Nat.two_pow_pos 24⟩

theorem reset_coresInRange : CoresInRange State.reset :=
  ⟨fun _ => ⟨Nat.zero_le _, fun _ => Nat.zero_le _⟩, fun _ h => absurd h List.not_mem_nil⟩

theorem reset_ringsInRange : RingsInRange State.reset := fun _ _ => Nat.zero_le _

/-- Settles O60, register by register and invariant by invariant. -/
theorem resetValues : Obligations.ResetValues := by
  unfold Obligations.ResetValues
  exact ⟨by decide, by decide, by decide, reset_ports, reset_zeros, rfl, rfl, rfl, rfl, fun _ => rfl, reset_memoryOk, reset_tagsInRange,
    reset_portsInRange, reset_countersInRange, reset_marksInRange, reset_graphsInRange, reset_coresInRange, reset_ringsInRange⟩

end Sys2Proof.Safety
end

section
/-! SUPPORT. The meter (R453, R459 to R463): samples, records, METER_READ and ATTEST by what they ask for, and the answers over MCTP. -/

namespace Sys2Proof.Machine

open Safety

/-! ## Samples and records -/

/-- Changes of context registers alone, one after another. -/
theorem State.foldl_ctxRegs {f : State → Nat → State} (hf : ∀ t x, f t x = { t with ctxRegs := (f t x).ctxRegs }) (l : List Nat) (s : State) :
    l.foldl f s = { s with ctxRegs := (l.foldl f s).ctxRegs } :=
  List.foldlRecOn (motive := fun t : State => t = { s with ctxRegs := t.ctxRegs }) l f rfl fun t is x _ => by
    rw [hf t x, is]

theorem State.tickActive_eq (s : State) : s.tickActive = { s with ctxRegs := s.tickActive.ctxRegs } :=
  State.foldl_ctxRegs (fun t x => by split <;> rfl) (range 64) s

theorem State.tickActive_mtr (s : State) : s.tickActive.mtr = s.mtr := by rw [State.tickActive_eq]

/-- The active times are counted beside the meter (R461). -/
theorem State.tickActive_metered (s : State) (m : Meter) : let t := State.tickActive { s with mtr := m }
    t = { s with mtr := t.mtr, ctxRegs := t.ctxRegs } := by
  dsimp only
  rw [State.tickActive_eq]

theorem State.clearActive_eq (s : State) : s.clearActive = { s with ctxRegs := s.clearActive.ctxRegs } :=
  State.foldl_ctxRegs (fun _ _ => rfl) (range 64) s

theorem State.clearActive_mtr (s : State) : s.clearActive.mtr = s.mtr := by rw [State.clearActive_eq]

section
variable {s : State} (clocked : Clocked s) (good : s.power.good = true)
include clocked good

/-- A sample counts 1 µs, and changes the meter and the contexts' active times alone (R459). -/
theorem execMeterSample_eq (codes : List (Int × Int)) : ∃ t, execMeterSample codes s = .next t
    ∧ t.mtr.elapsed = (s.mtr.elapsed + 1) % 2 ^ 64 ∧ t.mtr.interval = s.mtr.interval + 1 ∧ t.mtr.records = s.mtr.records
    ∧ t = { s with mtr := t.mtr, ctxRegs := t.ctxRegs } := by
  simp only [execMeterSample, clocked.stopped, good, Bool.not_true, Bool.or_self, Bool.false_eq_true, if_false]
  refine ⟨_, rfl, ?_, ?_, ?_, s.tickActive_metered _⟩
  · rw [State.tickActive_mtr]
    rfl
  · rw [State.tickActive_mtr]
  · rw [State.tickActive_mtr]

/-- A record begins a new interval, and its sequence number follows that of the one before it (R460). -/
theorem execMeterRecord_eq (due : 60000000 ≤ s.mtr.interval) : ∃ t, execMeterRecord s = .next t
    ∧ t.mtr.interval = 0 ∧ t.mtr.flags = 0 ∧ t.mtr.emitted = true ∧ t.mtr.silent = false
    ∧ t.mtr.records = (t.mtr.seq, t.mtr.prev) :: s.mtr.records.take 15
    ∧ (s.mtr.emitted = true → t.mtr.seq = (s.mtr.seq + 1) % 2 ^ 64) := by
  simp only [execMeterRecord, clocked.stopped, good, decide_eq_false (Nat.not_lt.mpr due), Bool.not_true, Bool.or_self, Bool.false_eq_true,
    if_false]
  refine ⟨_, rfl, ?_⟩
  rw [State.clearActive_mtr]
  refine ⟨rfl, rfl, rfl, rfl, rfl, fun emitted => ?_⟩
  simp only [emitted, Bool.not_true, Bool.false_eq_true, if_false, wrapAdd]

theorem execMeterSilent_untold (untold : s.mtr.silent = false) : execMeterSilent s =
    let t := s.log 0x805 (Config.silentKind % 10) none false 0 (Config.eventDetail 10 s.tick)
    .next (({ t with mtr := { t.mtr with silent := true } } : State).pfEvent 0x805 []) := by
  simp only [execMeterSilent, clocked.stopped, good, untold, Bool.not_true, Bool.or_self, Bool.false_eq_true, if_false]

end

theorem execMeterSilent_told {s : State} (told : s.mtr.silent = true) : execMeterSilent s = .next s := by
  simp only [execMeterSilent, told, Bool.or_true, if_true]

/-! ## METER_READ and ATTEST -/

/-- Whether a packet spells a METER_READ of these operands (R462). -/
def spellsMeterRead (seq dest flags : Nat) (p : List Byte) : Bool :=
  decide (field p 8 8 = seq ∧ field p 0x10 8 = dest ∧ field p 0x18 4 = flags)

section
variable {s : State} {h : Cmd} {seq dest flags : Nat} (accepted : Accepted s h 0x30 (spellsMeterRead seq dest flags))
include accepted

/-- A destination that METER_READ does not take (R462). -/
theorem execMeterRead_refused (bad : 2 ≤ flags ∨ (flags = 0 ∧ (h.fn ≠ 0 ∨ hbmBytes < dest + 5395))) :
    execMeterRead h seq dest flags s = .next ((s.acts h 0x30 (spellsMeterRead seq dest flags)).finish h 0x30 0x102 []) := by
  refine (State.command_accepted accepted _).trans (congrArg Host.Outcome.next (if_pos ?_))
  rcases bad with many | ⟨rfl, there⟩
  · exact .inl many
  · exact .inr ⟨rfl, there⟩

/-- A destination that METER_READ takes, by the record that SEQ selects. -/
theorem execMeterRead_taken (takes : flags = 1 ∨ (flags = 0 ∧ h.fn = 0 ∧ dest + 5395 ≤ hbmBytes)) :
    let u := s.acts h 0x30 (spellsMeterRead seq dest flags)
    execMeterRead h seq dest flags s = .next (match s.mtr.find seq with
      | none => u.finish h 0x30 0x804 []
      | some r =>
        if bit flags 0 then ({ u with hostMem := mwrite memDefault u.hostMem dest r.2 } : State).finish h 0x30 0 (toBytes 8 r.1)
        else
          let us := units dest r.2.length
          if us.any (fun q => s.lostTarget q.1) then u.finish h 0x30 0x405 []
          else
            match us.find? (fun q => s.mergesBad q.1 q.2) with
            | some q => (u.noteBad q.1).finish h 0x30 0x701 []
            | none => (u.putUnits us r.2).finish h 0x30 0 (toBytes 8 r.1)) := by
  refine (State.command_accepted accepted _).trans (congrArg Host.Outcome.next ((if_neg ?_).trans ?_))
  · rcases takes with rfl | ⟨rfl, pf, within⟩
    · simp [bit]
    · simp [pf, Nat.not_lt.mpr within]
  · rfl

theorem execMeterRead_none (takes : flags = 1 ∨ (flags = 0 ∧ h.fn = 0 ∧ dest + 5395 ≤ hbmBytes)) (absent : s.mtr.find seq = none) :
    execMeterRead h seq dest flags s = .next ((s.acts h 0x30 (spellsMeterRead seq dest flags)).finish h 0x30 0x804 []) := by
  rw [execMeterRead_taken accepted takes, absent]

/-- A record goes to host memory. -/
theorem execMeterRead_host {r : Nat × List Byte} (host : flags = 1) (found : s.mtr.find seq = some r) :
    let u := s.acts h 0x30 (spellsMeterRead seq dest flags)
    execMeterRead h seq dest flags s =
      .next (({ u with hostMem := mwrite memDefault u.hostMem dest r.2 } : State).finish h 0x30 0 (toBytes 8 r.1)) := by
  rw [execMeterRead_taken accepted (.inl host), found, host]
  rfl

/-- A record goes to HBM where the stacks serve and no word is merged into that is uncorrectable. -/
theorem execMeterRead_hbm {r : Nat × List Byte} (hbm : flags = 0) (pf : h.fn = 0) (within : dest + 5395 ≤ hbmBytes)
    (found : s.mtr.find seq = some r) (sound : ∀ q ∈ units dest r.2.length, s.lostTarget q.1 = false ∧ s.mergesBad q.1 q.2 = false) :
    execMeterRead h seq dest flags s = .next (((s.acts h 0x30 (spellsMeterRead seq dest flags)).putUnits (units dest r.2.length) r.2).finish
      h 0x30 0 (toBytes 8 r.1)) := by
  have serve : (units dest r.2.length).any (fun q => s.lostTarget q.1) = false :=
    List.any_eq_false.mpr fun q unit => by simp [(sound q unit).1]
  have good : (units dest r.2.length).find? (fun q => s.mergesBad q.1 q.2) = none :=
    List.find?_eq_none.mpr fun q unit => by simp [(sound q unit).2]
  rw [execMeterRead_taken accepted (.inr ⟨hbm, pf, within⟩), found, hbm]
  simp only [show bit 0 0 = false from rfl, Bool.false_eq_true, if_false, serve, good]

end

/-- The report goes to host memory (R453). -/
theorem execAttest_accepted {s : State} {h : Cmd} {nonce : List Byte} {dest : Nat}
    (accepted : Accepted s h 0x31 (fun p => decide (slice p 8 32 = nonce ∧ field p 0x28 8 = dest))) :
    let u := s.acts h 0x31 (fun p => decide (slice p 8 32 = nonce ∧ field p 0x28 8 = dest))
    execAttest h nonce dest s =
      .next (({ u with hostMem := mwrite memDefault u.hostMem dest (s.report nonce) } : State).finish h 0x31 0 []) :=
  State.command_accepted accepted _

/-! ## MCTP -/

theorem State.mctp_clocked {s : State} (clocked : Clocked s) (answer : Option (List Byte)) : s.mctp answer = .next (s.emit
    (match answer with
    | some d => .mctp s.smbAddress d
    | none => .mctpError s.smbAddress)) := by
  simp only [State.mctp, clocked.stopped, Bool.false_eq_true, if_false]
  cases answer <;> rfl

/-- A chain goes on behind a record that verifies under this device's identity key (R460). -/
theorem execSetChainHead_first {s : State} {r : List Byte} (clocked : Clocked s) (first : s.mtr.emitted = false) (whole : r.length = 5395) :
    execSetChainHead r s = .next (if Config.verify Config.identityKey (r.take 0x300) (r.drop 0x300) = true
      then { s with mtr := { s.mtr with handedBack := r } } else s) := by
  simp only [execSetChainHead, clocked.stopped, first, whole, ne_eq, not_true, decide_false, Bool.or_self, Bool.false_or]
  cases Config.verify Config.identityKey (r.take 0x300) (r.drop 0x300) <;> rfl

theorem execGetTelemetry_clocked {s : State} (clocked : Clocked s) : ∃ rest, execGetTelemetry s = .next (s.emit (.mctp s.smbAddress
    (toBytes 8 s.boot.value ++ toBytes 4 s.power.dvfs ++ toBytes 8 s.power.thermalReg ++ rest))) :=
  ⟨_, State.mctp_clocked clocked (some _)⟩

end Sys2Proof.Machine

namespace Sys2Proof.Safety

open Machine

/-- Settles O59, command by command: METER_READ by its destination and the record that SEQ selects, the requests over MCTP by their
kind. -/
theorem meterRecordsAndReports : Obligations.MeterRecordsAndReports := by
  unfold Obligations.MeterRecordsAndReports
  refine ⟨fun s codes clocked good => execMeterSample_eq clocked good codes, fun s clocked good due => ?_,
    fun s clocked good => ⟨execMeterSilent_told, execMeterSilent_untold clocked good⟩,
    fun s h seq dest flags => ?_, fun s h nonce dest => ?_, fun s clocked => ?_⟩
  · obtain ⟨t, is, rest⟩ := execMeterRecord_eq clocked good due
    exact ⟨t, _, is, rest⟩
  · exact fun accepted => ⟨fun r => execMeterRead_host accepted, fun r => execMeterRead_hbm accepted, execMeterRead_none accepted,
      execMeterRead_refused accepted⟩
  · exact execAttest_accepted
  · have answer := State.mctp_clocked clocked
    refine ⟨fun seq r found => ?_, fun seq absent => ?_, fun k => answer none, fun r first whole => execSetChainHead_first clocked first whole,
      fun nonce => answer (some (s.report nonce)), execGetTelemetry_clocked clocked⟩
    · exact (answer _).trans (by rw [found]; rfl)
    · exact (answer _).trans (by rw [absent]; rfl)

end Sys2Proof.Safety
end

section
/-! SUPPORT. Checkpoints (R418 to R423): a checkpoint that begins, one target's copy by how it fares, and what a RESTORE takes and leaves. -/

namespace Sys2Proof.Machine

open Safety

/-! ## CHECKPOINT -/

/-- Thermos takes its reference in memory and in the record (R250, R419). -/
theorem State.thermosRef_eq (s : State) (x a : Nat) : s.thermosRef x a = { s with
    mem := (s.thermosRef x a).mem, bad := (s.thermosRef x a).bad, clusters := (s.thermosRef x a).clusters, evl := (s.thermosRef x a).evl } := by
  unfold State.thermosRef
  split
  · split
    · rfl
    · dsimp only
      split
      · unfold State.modRec State.poke
        rw [State.write_eq]
        split <;> rfl
      · rfl
  · rfl

/-- A checkpoint that begins is the context's, and no core sees it begin (R419). -/
theorem State.startCkpt_begins {s : State} {x step targets : Nat} {cmd : Option Cmd} {c : Ctx} (exists_ : s.ctx x = some c)
    (idle : c.ckpt = none) : let t := s.startCkpt x step targets cmd
    t.ctx x = some { c with ckpt := some ⟨step, targets, 0, cmd, false, []⟩ } ∧ t.cores = s.cores := by
  simp only [State.startCkpt, exists_, idle, Option.isSome_none, Bool.false_eq_true, if_false]
  refine List.foldlRecOn (motive := fun t : State =>
    t.ctx x = some { c with ckpt := some ⟨step, targets, 0, cmd, false, []⟩ } ∧ t.cores = s.cores) _ _ ⟨State.setCtx_ctx .., rfl⟩
    fun t same e _ => ?_
  rw [State.thermosRef_eq]
  exact same

/-- A checkpoint behind another waits for it. -/
theorem State.startCkpt_waits {s : State} {x step targets : Nat} {cmd : Option Cmd} {c : Ctx} (exists_ : s.ctx x = some c)
    (busy : c.ckpt.isSome = true) :
    s.startCkpt x step targets cmd = s.setCtx x { c with ckptQueue := c.ckptQueue ++ [(cmd, step, targets)] } := by
  simp only [State.startCkpt, exists_, busy, if_true]

/-- Whether a packet spells a CHECKPOINT of a step to a set of targets (R419). -/
def spellsCheckpoint (step targets : Nat) (p : List Byte) : Bool := decide (field p 8 4 = step ∧ field p 0xC 4 = targets)

section
variable {s : State} {h : Cmd} {step targets : Nat} {c : Ctx}
variable (accepted : Accepted s h 0x18 (spellsCheckpoint step targets)) (exists_ : s.ctx h.ctx = some c)
include accepted exists_

theorem execCheckpoint_refused (other : c.step ≠ some step) :
    execCheckpoint h step targets s = .next ((s.acts h 0x18 (spellsCheckpoint step targets)).finish h 0x18 0x102 []) := by
  refine (State.command_accepted accepted _).trans (congrArg Host.Outcome.next (if_pos (.inr ?_)))
  change (s.ctx h.ctx).bind Ctx.step ≠ some step
  rw [exists_]
  exact other

variable (few : targets < 8) (latched : c.step = some step)
include few latched

theorem execCheckpoint_latched : execCheckpoint h step targets s =
    let u := s.acts h 0x18 (spellsCheckpoint step targets)
    .next (if targets = 0 then u.finish h 0x18 0 [] else u.startCkpt h.ctx step targets (some h)) := by
  refine (State.command_accepted accepted _).trans (congrArg Host.Outcome.next (if_neg ?_))
  change ¬ (8 ≤ targets ∨ (s.ctx h.ctx).bind Ctx.step ≠ some step)
  rw [exists_, Option.bind_some, latched]
  exact fun bad => bad.elim (Nat.not_le.mpr few) (fun other => other rfl)

end

/-! ## CHECKPOINT_COPY -/

/-- How the copy of one target goes on: its packets on their way, or its slot (R420). -/
def State.copyOn (s : State) (x t : Nat) (k : Ckpt) : State × CopyStep :=
  match k.flights.find? (fun f => decide (f.target = t)) with
  | some f => s.flyOn x f
  | none => s.copySlot x t k.step

/-- The checkpoint has a target that is not done yet, its step is committed, and the context runs (R419, R420). -/
structure Copying (s : State) (x t : Nat) (c : Ctx) (k : Ckpt) : Prop where
  clocked : Clocked s
  ctx : s.ctx x = some c
  ckpt : c.ckpt = some k
  left : bit k.left t = true
  committed : s.committedAll x k.step = true
  running : c.suspended = false

section
variable {s : State} {x t : Nat} {c : Ctx} {k : Ckpt} (copying : Copying s x t c k)
include copying

theorem execCheckpointCopy_eq (fail : Bool) : execCheckpointCopy x t fail s =
    if fail then .next ((s.spoil x t).endTarget x t k false)
    else if s.nxp.ops.any (fun o => decide (o.owner = OpOwner.thermos x t)) then .next s
    else match (s.copyOn x t k).2 with
      | .ended ok => .next ((s.copyOn x t k).1.endTarget x t k ok)
      | .going f => .next ((s.copyOn x t k).1.modCtx x (fun c => { c with ckpt := some { k with
          flights := k.flights.filter (fun g => decide (g.target ≠ t)) ++ [f] } }))
      | .miss va store => .next (s.suspend x va store) := by
  obtain ⟨clocked, ctx, ckpt, left, committed, running⟩ := copying
  have suspended : s.ctxSuspended x = false := by
    rw [State.ctxSuspended, ctx]
    exact running
  have mine : (s.ctx x).bind Ctx.ckpt = some k := by rw [ctx, Option.bind_some, ckpt]
  simp only [execCheckpointCopy, mine, clocked.stopped, left, committed, suspended, Bool.not_true, Bool.or_self, Bool.false_eq_true, if_false]
  rfl

/-- A target that its hardware fails ends as failed, its slot left invalid (R421). -/
theorem execCheckpointCopy_fails : execCheckpointCopy x t true s = .next ((s.spoil x t).endTarget x t k false) :=
  execCheckpointCopy_eq copying true

theorem execCheckpointCopy_busy (busy : s.nxp.ops.any (fun o => decide (o.owner = OpOwner.thermos x t)) = true) :
    execCheckpointCopy x t false s = .next s :=
  (execCheckpointCopy_eq copying false).trans (if_pos busy)

variable (free : s.nxp.ops.any (fun o => decide (o.owner = OpOwner.thermos x t)) = false)
include free

theorem execCheckpointCopy_free : execCheckpointCopy x t false s = match (s.copyOn x t k).2 with
    | .ended ok => .next ((s.copyOn x t k).1.endTarget x t k ok)
    | .going f => .next ((s.copyOn x t k).1.modCtx x (fun c => { c with ckpt := some { k with
        flights := k.flights.filter (fun g => decide (g.target ≠ t)) ++ [f] } }))
    | .miss va store => .next (s.suspend x va store) := by
  rw [execCheckpointCopy_eq copying, free]
  rfl

theorem execCheckpointCopy_ended {ok : Bool} (ends : (s.copyOn x t k).2 = .ended ok) :
    execCheckpointCopy x t false s = .next ((s.copyOn x t k).1.endTarget x t k ok) := by
  rw [execCheckpointCopy_free copying free, ends]

theorem execCheckpointCopy_going {f : Flight} (goes : (s.copyOn x t k).2 = .going f) :
    execCheckpointCopy x t false s = .next ((s.copyOn x t k).1.modCtx x (fun c => { c with ckpt := some { k with
      flights := k.flights.filter (fun g => decide (g.target ≠ t)) ++ [f] } })) := by
  rw [execCheckpointCopy_free copying free, goes]

theorem execCheckpointCopy_miss {va : Nat} {store : Bool} (misses : (s.copyOn x t k).2 = .miss va store) :
    execCheckpointCopy x t false s = .next (s.suspend x va store) := by
  rw [execCheckpointCopy_free copying free, misses]

end

/-- A target that is committed (R420, Table 14.18). -/
theorem State.endTarget_committed (s : State) (x t : Nat) (k : Ckpt) : s.endTarget x t k true =
    ((s.modCreg x (fun r => { r with valid := if bit r.valid t then r.valid else r.valid + 2 ^ t, last := k.step })).modCtx x
      (fun c => { c with ckpt := some { k with
        left := k.left - 2 ^ t, done := k.done + 2 ^ t, flights := k.flights.filter (fun f => decide (f.target ≠ t)) } })).endCkpt x := by
  simp only [State.endTarget, Bool.not_true, Bool.or_false, if_true]

/-- A target that has failed (R421). -/
theorem State.endTarget_failed (s : State) (x t : Nat) (k : Ckpt) : s.endTarget x t k false =
    (s.modCtx x (fun c => { c with ckpt := some { k with
      left := k.left - 2 ^ t, bad := true, flights := k.flights.filter (fun f => decide (f.target ≠ t)) } })).endCkpt x := by
  simp only [State.endTarget, Bool.not_false, Bool.or_true, Bool.false_eq_true, if_false]

/-! ## RESTORE -/

theorem State.setCount_ctx (s : State) (key count x : Nat) : (s.setCount key count).ctx x = s.ctx x := by
  unfold State.setCount
  split <;> rfl

/-- Bindings and counts are no part of a context. -/
theorem State.restoreMarks_ctx (s : State) (x : Nat) (b : Boundary) (y : Nat) : (s.restoreMarks x b).ctx y = s.ctx y := by
  unfold State.restoreMarks
  refine List.foldlRecOn (motive := fun t : State => t.ctx y = s.ctx y) _ _ ?_ fun t same e _ => ?_
  · split <;> rfl
  · rw [State.setCount_ctx, State.setCount_ctx, same]

/-- A context that is restored: the found group entries, the saved SEED, and no step (R423). -/
theorem State.restored_ctx {s : State} {x : Nat} {f : Found} {d : Ctx} (exists_ : s.ctx x = some d) :
    (s.restored x f).ctx x = some { d with groups := f.groups, seed := f.seed.getD d.seed, step := none } := by
  rw [State.restored, State.modCtx_ctx, State.restoreMarks_ctx, exists_]
  rfl

section
variable {s : State} {h : Cmd} {step source addr : Nat} {slot : List Byte} {c : Ctx}
variable (accepted : Accepted s h 0x19 (fun p => decide (field p 8 4 = step ∧ field p 0xC 4 = source ∧ field p 0x10 8 = addr)))
variable (exists_ : s.ctx h.ctx = some c) (running : c.suspended = false) (fits : s.restoreBad h.ctx source addr = false)
include accepted exists_ running fits

theorem execRestore_eq : execRestore h step source addr slot s = .next (match s.findRestore h.ctx step source addr slot with
    | .error va => s.suspend h.ctx va false
    | .ok none => s.finish h 0x19 0x707 []
    | .ok (some f) =>
      match s.writePieces h.ctx 0 (f.bound.streams ++ f.pieces) with
      | (_, some (.miss va)) => s.suspend h.ctx va true
      | (t, some a) => (t.noteAcc (agentOf h.ctx) a).finish h 0x19 a.code []
      | (t, none) =>
        let t := t.restored h.ctx f
        (if source = 3 then t.modCreg h.ctx (fun r => { r with boundary := addr }) else t).finish h 0x19 0 []) := by
  have suspended : s.ctxSuspended h.ctx = false := by
    rw [State.ctxSuspended, exists_]
    exact running
  refine (State.serve_accepted accepted _).trans ?_
  simp only [fits, suspended, Bool.false_eq_true, if_false] <;> rfl

/-- Nothing valid holds the step (R422). -/
theorem execRestore_nothing (nothing : s.findRestore h.ctx step source addr slot = .ok none) :
    execRestore h step source addr slot s = .next (s.finish h 0x19 0x707 []) := by
  rw [execRestore_eq accepted exists_ running fits, nothing]

/-- What was found is written, and the command ends well. -/
theorem execRestore_written {f : Found} {t : State} (found : s.findRestore h.ctx step source addr slot = .ok (some f))
    (written : s.writePieces h.ctx 0 (f.bound.streams ++ f.pieces) = (t, none)) :
    let v := t.restored h.ctx f
    execRestore h step source addr slot s =
      .next ((if source = 3 then v.modCreg h.ctx (fun r => { r with boundary := addr }) else v).finish h 0x19 0 []) := by
  rw [execRestore_eq accepted exists_ running fits, found]
  dsimp only
  rw [written]

end

/-- From the boundary area a RESTORE takes the best of both halves (R422). -/
theorem State.findRestore_boundary {s : State} {x step source addr : Nat} {given : List Byte} {l m : List Boundary} (area : source = 3)
    (first : s.readHalf x addr 0 = .ok l) (second : s.readHalf x addr 1 = .ok m) : s.findRestore x step source addr given =
      .ok ((bestHalf step (l ++ m)).map (fun b => ⟨b, [], b.groups, none⟩)) := by
  have both : (range 2).mapM (s.readHalf x addr) = .ok [l, m] := by
    rw [show range 2 = [0, 1] from rfl, List.mapM_cons, first, List.mapM_cons, second]
    rfl
  rw [State.findRestore, if_pos area, both]
  simp only [bind, Except.bind, List.flatten_cons, List.flatten_nil, List.append_nil]
  rfl

/-- A fold that keeps what it has chosen or takes the next one chooses one of the list. -/
theorem mem_of_foldl_choice {α : Type} {f : Option α → α → Option α} (hf : ∀ best b, f best b = some b ∨ f best b = best) (l : List α)
    (init : Option α) {b : α} (chosen : l.foldl f init = some b) : init = some b ∨ b ∈ l := by
  induction l generalizing init with
  | nil => exact .inl chosen
  | cons e l ih =>
    rcases ih _ chosen with here | later
    · rcases hf init e with takes | keeps
      · rw [takes] at here
        cases here
        exact .inr List.mem_cons_self
      · exact .inl (keeps ▸ here)
    · exact .inr (List.mem_cons_of_mem _ later)

/-- The boundary record that is taken is one of the list, and of the step, if one is named. -/
theorem bestHalf_mem {step : Nat} {l : List Boundary} {b : Boundary} (best : bestHalf step l = some b) :
    b ∈ l ∧ (step = 0 ∨ b.step = step) := by
  unfold bestHalf at best
  refine (mem_of_foldl_choice (fun taken e => ?_) _ none best).elim (fun none_ => nomatch none_) fun found => ?_
  · cases taken with
    | none => exact .inl rfl
    | some c =>
      dsimp only
      split
      · exact .inl rfl
      · exact .inr rfl
  · obtain ⟨mem, fits⟩ := List.mem_filter.mp found
    exact ⟨mem, of_decide_eq_true fits⟩

end Sys2Proof.Machine

namespace Sys2Proof.Safety

open Machine

/-- Settles O40: CHECKPOINT by its step and targets, CHECKPOINT_COPY by how the copy fares, RESTORE by what it finds. -/
theorem checkpointsCopyAndRestore : Obligations.CheckpointsCopyAndRestore := by
  unfold Obligations.CheckpointsCopyAndRestore
  refine ⟨fun s h step targets c => ?_, fun s x t c k clocked ctx ckpt left committed running => ?_,
    fun s h step source addr slot c accepted exists_ running fits => ?_, fun step l b => bestHalf_mem⟩
  · intro spell u accepted exists_ few
    have latched := execCheckpoint_latched (h := h) accepted exists_ few
    refine ⟨fun step_ none_ => ?_, fun step_ some_ idle => ?_, fun step_ some_ busy => ?_, execCheckpoint_refused accepted exists_⟩
    · exact (latched step_).trans (congrArg Host.Outcome.next (if_pos none_))
    · exact ⟨_, (latched step_).trans (congrArg Host.Outcome.next (if_neg some_)), State.startCkpt_begins (s := u) exists_ idle⟩
    · exact (latched step_).trans (congrArg Host.Outcome.next ((if_neg some_).trans (State.startCkpt_waits (s := u) exists_ busy)))
  · have copying : Copying s x t c k := ⟨clocked, ctx, ckpt, left, committed, running⟩
    refine ⟨fun free => ⟨fun ends => ?_, fun ends => ?_, fun f => execCheckpointCopy_going copying free,
      fun va store => execCheckpointCopy_miss copying free⟩, execCheckpointCopy_busy copying, ?_⟩
    · exact (execCheckpointCopy_ended copying free ends).trans (congrArg Host.Outcome.next (State.endTarget_committed ..))
    · exact (execCheckpointCopy_ended copying free ends).trans (congrArg Host.Outcome.next (State.endTarget_failed ..))
    · exact (execCheckpointCopy_fails copying).trans (congrArg Host.Outcome.next (State.endTarget_failed ..))
  · exact ⟨execRestore_nothing accepted exists_ running fits,
      fun f t found written => ⟨execRestore_written accepted exists_ running fits found written, fun d => State.restored_ctx⟩,
      fun l m => State.findRestore_boundary⟩

end Sys2Proof.Safety
end

section
/-! SUPPORT. Video ingest (R381 to R401): a stream's block, its feeds as they are checked and copied, the clip whose turn it is, and the output
ring. -/

namespace Sys2Proof.Machine

open Safety

/-! ## Streams -/

@[simp] theorem State.modEngine_engine (s : State) (e : Nat) (f : Engine → Engine) : (s.modEngine e f).engine e = f (s.engine e) := by
  unfold State.modEngine State.engine
  split <;> rfl

@[simp] theorem State.setStream_stream (s : State) (h : Nat) (x : IStream) : (s.setStream' h x).stream h = some x := by
  rw [State.stream, State.setStream', State.modEngine_engine, mfind_mput_same]

theorem State.modStream_of_open {s : State} {h : Nat} {x : IStream} (open_ : s.stream h = some x) (f : IStream → IStream) :
    s.modStream h f = s.setStream' h (f x) := by
  simp only [State.modStream, open_]

theorem State.modStream_stream {s : State} {h : Nat} {x : IStream} (open_ : s.stream h = some x) (f : IStream → IStream) :
    (s.modStream h f).stream h = some (f x) := by
  rw [State.modStream_of_open open_, State.setStream_stream]

/-- Replies leave the engines as they are. -/
theorem State.finish_stream (s : State) (c : Cmd) (op code : Nat) (bs : List Byte) (h : Nat) :
    (s.finish c op code bs).stream h = s.stream h := by
  have same := s.finish_replied c op code bs
  rw [State.stream, State.stream, State.engine, State.engine, same.ing0, same.ing1]

/-- A stream that is closed is open no more (R398). -/
theorem State.closeStream_stream (s : State) (h : Nat) : (s.closeStream h).stream h = none := by
  unfold State.closeStream
  split
  next none_ => exact none_
  next x _ =>
    refine List.foldlRecOn (motive := fun t : State => t.stream h = none) _ _ ?_ fun t gone f _ => ?_
    · rw [State.stream, State.modEngine_engine, mfind_mdel, if_pos rfl]
    · rw [State.finish_stream, gone]

/-! ## INGEST_OPEN and INGEST_CLOSE -/

/-- A configuration block that can be read and keeps its layout opens a stream of the lowest free number of its engine (R391, R392). -/
theorem execIngestOpen_opens {s : State} {h : Cmd} {config start engine n e : Nat} {bs : List Byte}
    (accepted : Accepted s h 0x20 (fun p => decide (field p 8 8 = config ∧ field p 0x10 8 = start ∧ field p 0x18 1 = engine)))
    (known : engine < 3) (aligned : config % 256 = 0) (here : s.isHere config = true)
    (reads : s.read (agentOf h.ctx) (localOf config) 256 = .data bs) (block : streamCfgOk bs = true) (marks : s.marksOk h.ctx bs start = true)
    (picks : s.pickEngine engine = some e)
    (free : ((range 256).map (fun k => 256 * e + k)).find? (fun n => (s.stream n).isNone) = some n) :
    execIngestOpen h config start engine s = .next (((s.setStream' n
      { ctx := h.ctx, cfg := bs, cfgAddr := config, start := start, next := start }).modCtx h.ctx
        (fun x => { x with used := true })).finish h 0x20 0 (toBytes 2 n ++ toBytes 1 e)) := by
  refine (State.serve_accepted accepted _).trans (congrArg Host.Outcome.next ((if_neg ?_).trans ?_))
  · rw [here]
    simp only [aligned, ne_eq, not_true, Bool.true_eq_false, or_false, not_le]
    exact known
  · simp only [reads, block, marks, picks, free, Bool.not_true, Bool.or_self, Bool.false_eq_true, if_false]

section
variable {s : State} {h : Cmd} {handle : Nat} (accepted : Accepted s h 0x22 (fun p => decide (field p 8 2 = handle)))
include accepted

theorem execIngestClose_eq : execIngestClose h handle s =
    let u := s.acts h 0x22 (fun p => decide (field p 8 2 = handle))
    .next (match s.stream handle with
      | none => u.finish h 0x22 0x102 []
      | some x =>
        if x.ctx ≠ h.ctx then u.finish h 0x22 0x102 []
        else (u.closeStream handle).finish h 0x22 0 (toBytes 8 x.next ++ toBytes 8 (s.cursor x))) :=
  State.command_accepted accepted _

theorem execIngestClose_own {x : IStream} (open_ : s.stream handle = some x) (own : x.ctx = h.ctx) : execIngestClose h handle s =
    .next (((s.acts h 0x22 (fun p => decide (field p 8 2 = handle))).closeStream handle).finish h 0x22 0
      (toBytes 8 x.next ++ toBytes 8 (s.cursor x))) := by
  rw [execIngestClose_eq accepted, open_]
  exact congrArg Host.Outcome.next (if_neg (fun other => other own))

/-- A stream of another context, or none, cannot be closed. -/
theorem execIngestClose_other (other : ∀ x, s.stream handle = some x → x.ctx ≠ h.ctx) : execIngestClose h handle s =
    .next ((s.acts h 0x22 (fun p => decide (field p 8 2 = handle))).finish h 0x22 0x102 []) := by
  rw [execIngestClose_eq accepted]
  cases open_ : s.stream handle with
  | none => rfl
  | some x => exact congrArg Host.Outcome.next (if_pos (other x open_))

end

/-! ## Feeds -/

section
variable {s : State} {h : Nat} {x : IStream} {f : Feed} {bs : List Byte} (open_ : s.stream h = some x) (only : x.feeds = [f])
variable (unchecked : f.checked = false) (reads : s.readG (x.who h) f.segment (32 * f.count) = .data bs)
include open_ only unchecked reads

/-- A segment with a reference that breaks its layout is refused whole (R387). -/
theorem State.pump_refused (breaks : (chunks 32 bs).all (clipRefOk (bit (cgControl x.cfg) 3)) = false) :
    s.pump h 1 = s.dropFeed h f 0x102 := by
  have check : s.checkFeed h x f = (s.dropFeed h f 0x102, false) := by
    simp only [State.checkFeed, unchecked, reads, breaks, Bool.false_eq_true, if_false]
  simp only [State.pump, open_, only, check, ite_self]

/-- The stream's list once the only feed has been checked. -/
def State.feedChecked (s : State) (h : Nat) (f : Feed) : State :=
  s.modStream h (fun x => { x with feeds := { f with checked := true } :: x.feeds.drop 1 })

/-- A segment that fits whole is copied into the list area, and its command replies (R387). -/
theorem State.pump_copied {w : State} (keeps : (chunks 32 bs).all (clipRefOk (bit (cgControl x.cfg) 3)) = true) (some_ : f.count ≠ 0)
    (fits : f.count ≤ cgCap x.cfg - x.inList) (again : (s.feedChecked h f).readG (x.who h) f.segment (32 * f.count) = .data bs)
    (put : (s.feedChecked h f).putRefs h x (x.origin + x.fed) bs = (w, none)) :
    s.pump h 1 = ((w.modStream h (fun x => { x with fed := x.fed + f.count })).modStream h
      (fun x => { x with final := x.final || f.final })).dropFeed h { f with checked := true } 0 := by
  have check : s.checkFeed h x f = (s.feedChecked h f, true) := by
    simp only [State.checkFeed, unchecked, reads, keeps, Bool.false_eq_true, if_false, if_true]
    rfl
  simp only [State.pump, open_, only, check, Nat.min_eq_left fits, some_, again, put, if_false, if_true]

end

section
variable {s : State} {h : Cmd} {handle segment count : Nat} {final : Bool} {x : IStream}

/-- Whether a packet spells an INGEST_FEED of these operands (R387). -/
def spellsFeed (handle : Nat) (final : Bool) (segment count : Nat) (p : List Byte) : Bool :=
  decide (field p 8 2 = handle ∧ bit (field p 0xA 1) 0 = final ∧ field p 0x10 8 = segment ∧ field p 0x18 4 = count)

/-- A stream takes a segment of 1 to 2²⁰ references while its last one has not come (R387). -/
def IStream.takesFeed (x : IStream) (count : Nat) : Prop :=
  1 ≤ count ∧ count ≤ 2 ^ 20 ∧ x.final = false ∧ x.feeds.any Feed.final = false

theorem IStream.takesFeed_iff {c count : Nat} (own : x.ctx = c) :
    x.takesFeed count ↔ ¬ (x.ctx ≠ c ∨ count = 0 ∨ 2 ^ 20 < count ∨ x.final = true ∨ x.feeds.any Feed.final = true) := by
  simp only [IStream.takesFeed, own, ne_eq, not_true, false_or, not_or, not_lt, Bool.not_eq_true, Nat.one_le_iff_ne_zero]

variable (accepted : Accepted s h 0x21 (spellsFeed handle final segment count)) (open_ : s.stream handle = some x) (own : x.ctx = h.ctx)
include accepted open_ own

theorem execIngestFeed_refused (wrong : ¬ x.takesFeed count) : execIngestFeed h handle final segment count s =
    .next ((s.acts h 0x21 (spellsFeed handle final segment count)).finish h 0x21 0x102 []) := by
  refine (State.command_accepted accepted _).trans (congrArg Host.Outcome.next ?_)
  rw [show (s.acts h 0x21 (spellsFeed handle final segment count)).stream handle = some x from open_]
  exact if_pos (not_not.mp fun right => wrong ((IStream.takesFeed_iff own).mpr right))

theorem execIngestFeed_taken (right : x.takesFeed count) : execIngestFeed h handle final segment count s =
    .next (((s.acts h 0x21 (spellsFeed handle final segment count)).modStream handle
      (fun x => { x with feeds := x.feeds ++ [⟨h, final, segment, count, false⟩] })).pump handle (x.feeds.length + 1)) := by
  refine (State.command_accepted accepted _).trans (congrArg Host.Outcome.next ?_)
  rw [show (s.acts h 0x21 (spellsFeed handle final segment count)).stream handle = some x from open_]
  exact if_neg ((IStream.takesFeed_iff own).mp right)

end

/-! ## DECODE_ACCESS_UNIT -/

/-- An access unit of a clip is decoded and counted by its engine (R381, R386, R399). -/
def State.decodeUnit (s : State) (e h : Nat) (x : IStream) (k : Clip) : State :=
  let r := Config.decodeAu (bits (cgControl x.cfg) 2 0) k.source k.au
  let d := k.decode x.cfg r
  ((s.modStream h (fun x => { x with clip := some d.1 })).modEngine e (fun g => { g with
    samples := (g.samples + r.samples) % 2 ^ 48, gops := min (g.gops + d.2) (2 ^ 32 - 1) })).advance

section
variable {s : State} {e h : Nat} {x : IStream}

theorem execDecodeAccessUnit_idle (idle : s.turnOf e = none) : execDecodeAccessUnit e s = .next s := by
  simp only [execDecodeAccessUnit, idle, ite_self]

variable (clocked : Clocked s) (up : s.engineUp e = true) (turn : s.turnOf e = some (h, x))
include clocked up turn

/-- The stream whose turn it is goes on with its clip, or starts its next one. -/
theorem execDecodeAccessUnit_turn : execDecodeAccessUnit e s =
    let v := s.modEngine e (fun g => { g with rr := h })
    let r := match x.clip with
      | some k => (v, some k)
      | none => v.startClip h x ((x.position x.next).getD 0)
    match r.2 with
    | none => .next r.1.advance
    | some k => if k.finished then .next (r.1.modStream h (fun x => { x with clip := some k })) else .next (r.1.decodeUnit e h x k) := by
  simp only [execDecodeAccessUnit, clocked.stopped, up, turn, Bool.not_true, Bool.or_self, Bool.false_eq_true, if_false]
  rfl

theorem execDecodeAccessUnit_goesOn {k : Clip} (clip : x.clip = some k) (unfinished : k.finished = false) :
    execDecodeAccessUnit e s = .next ((s.modEngine e (fun g => { g with rr := h })).decodeUnit e h x k) := by
  simp only [execDecodeAccessUnit_turn clocked up turn, clip, unfinished, Bool.false_eq_true, if_false]

variable (none_ : x.clip = none) {u : State}
include none_

theorem execDecodeAccessUnit_starts {k : Clip}
    (starts : (s.modEngine e (fun g => { g with rr := h })).startClip h x ((x.position x.next).getD 0) = (u, some k)) :
    execDecodeAccessUnit e s =
      if k.finished then .next (u.modStream h (fun x => { x with clip := some k })) else .next (u.decodeUnit e h x k) := by
  simp only [execDecodeAccessUnit_turn clocked up turn, none_, starts]

theorem execDecodeAccessUnit_waits
    (waits : (s.modEngine e (fun g => { g with rr := h })).startClip h x ((x.position x.next).getD 0) = (u, none)) :
    execDecodeAccessUnit e s = .next u.advance := by
  simp only [execDecodeAccessUnit_turn clocked up turn, none_, waits]

end

/-! ## CLIP_WRITE -/

/-- A clip's status tells of dropped groups where the clip is not unsupported (R396). -/
theorem Clip.status_dropped (k : Clip) : k.status = 0x901 ↔ k.unsupported = false ∧ k.dropped ≠ 0 := by
  unfold Clip.status
  cases k.unsupported
  · by_cases clean : k.dropped = 0 <;> simp [clean]
  · simp

/-- A stream that may write a finished clip: it produces, its slot is free, and its engine and its context run (R395). -/
structure Writing (s : State) (e h : Nat) (x : IStream) (k : Clip) : Prop where
  clocked : Clocked s
  up : s.engineUp e = true
  stream : s.stream h = some x
  engine : h / 256 = e
  runs : x.stopped = false
  producing : x.paused = false
  clip : x.clip = some k
  finished : k.finished = true
  ready : s.slotReady x = true
  running : s.ctxSuspended x.ctx = false

/-- The clip is in its slot, P rises, and the stream goes on to its next clip (R394 to R396). -/
theorem execClipWrite_written {s u v : State} {e h : Nat} {x : IStream} {k : Clip} (writing : Writing s e h x k)
    (head : s.write (x.who h) (field x.cfg 0x18 8 + k.n % cgB x.cfg * field x.cfg 0x20 8) (k.record (k.filled (cgF x.cfg)).2) = (u, none))
    (tensor : u.write (x.who h) (field x.cfg 0x18 8 + k.n % cgB x.cfg * field x.cfg 0x20 8 + 4096)
      (packBits (typeBits (cgType x.cfg)) (clipTensor x.cfg (k.filled (cgF x.cfg)).1)) = (v, none)) :
    let next := v.modStream h (fun x => { x with next := x.next + 1, clip := none })
    let counted := if k.unsupported then
      next.modEngine e (fun g => { g with unsupported := min (g.unsupported + 1) (2 ^ 32 - 1) }) else next
    let told := if k.unsupported = false ∧ k.dropped ≠ 0 then counted.event x.ctx 0x901 (toBytes 4 h ++ toBytes 8 k.n) else counted
    execClipWrite e h s = .next (((told.sendAdd (.ingest e) x.produced 1 none).1).pump h (x.feeds.length + 1)) := by
  obtain ⟨clocked, up, stream, engine, runs, producing, clip, finished, ready, running⟩ := writing
  simp only [execClipWrite, stream, clip, clocked.stopped, up, engineOf, engine, runs, producing, finished, ready, running, ne_eq, not_true,
    decide_false, Bool.not_true, Bool.or_self, Bool.false_eq_true, if_false, head, tensor, Clip.status_dropped]
  rfl

end Sys2Proof.Machine

namespace Sys2Proof.Safety

open Machine

/-- Settles O44: INGEST_OPEN by its equation, INGEST_FEED by what the stream takes and what the segment holds, INGEST_CLOSE by whose stream
it is. -/
theorem streamsOpenFeedAndClose : Obligations.StreamsOpenFeedAndClose := by
  unfold Obligations.StreamsOpenFeedAndClose
  refine ⟨fun s h config start engine n e bs => execIngestOpen_opens, fun s h handle segment count final x => ?_, fun s h handle => ?_⟩
  · intro spell u v accepted open_ own right
    have taken (r : right) := execIngestFeed_taken accepted open_ own r
    have fed (none_ : x.feeds = []) : v.stream handle = some { x with feeds := [⟨h, final, segment, count, false⟩] } := by
      have := State.modStream_stream (s := u) open_ (fun x => { x with feeds := x.feeds ++ [⟨h, final, segment, count, false⟩] })
      rwa [none_] at this
    have first (none_ : x.feeds = []) (r : right) : execIngestFeed h handle final segment count s = .next (v.pump handle 1) := by
      have := taken r
      rwa [none_] at this
    refine ⟨taken, execIngestFeed_refused accepted open_ own, fun bs r none_ reads breaks => ?_, ?_⟩
    · exact (first none_ r).trans (congrArg Host.Outcome.next (State.pump_refused (fed none_) rfl rfl reads breaks))
    · intro bs w r none_ reads keeps fits v' again put
      exact (first none_ r).trans (congrArg Host.Outcome.next
        (State.pump_copied (fed none_) rfl rfl reads keeps (Nat.one_le_iff_ne_zero.mp r.1) fits again put))
  · exact fun accepted => ⟨fun x open_ own => ⟨execIngestClose_own accepted open_ own, State.closeStream_stream _ handle⟩,
      execIngestClose_other accepted⟩

/-- Settles O45: DECODE_ACCESS_UNIT by whether the stream in turn has a clip, CLIP_WRITE by its equation. -/
theorem clipsDecodedAndWritten : Obligations.ClipsDecodedAndWritten := by
  unfold Obligations.ClipsDecodedAndWritten
  refine ⟨fun s e h x clocked up turn => ⟨fun k => execDecodeAccessUnit_goesOn clocked up turn, fun u k none_ starts unfinished => ?_,
      fun u k none_ starts finished => ?_, fun u none_ => execDecodeAccessUnit_waits clocked up turn none_⟩,
    fun s e => execDecodeAccessUnit_idle, fun s u v e h x k clocked up stream engine runs producing clip finished ready live => ?_⟩
  · exact (execDecodeAccessUnit_starts clocked up turn none_ starts).trans (if_neg (by rw [unfinished]; exact Bool.false_ne_true))
  · exact (execDecodeAccessUnit_starts clocked up turn none_ starts).trans (if_pos finished)
  · obtain ⟨c, exists_, unsuspended⟩ := live
    have running : s.ctxSuspended x.ctx = false := by
      rw [State.ctxSuspended, exists_]
      exact unsuspended
    exact execClipWrite_written ⟨clocked, up, stream, engine, runs, producing, clip, finished, ready, running⟩

end Sys2Proof.Safety
end

section
/-! SUPPORT. The error log (R406), SCRUB (R404, R405, R415), and STEP_REPLAY (R409 to R413, Table 14.3). -/

namespace Sys2Proof.Machine

open Safety

/-! ## The error log -/

/-- The entry that an event makes in the error log now (Table 14.2). -/
def State.entryNow (s : State) (code kind : Nat) (ctx : Option Nat) (closed : Bool) (source detail : Nat) : ErrEntry :=
  ⟨s.sys.time, code, kind, (ctx.map (· + 64)).getD 0 + 128 * b2n closed, source, detail, 1⟩

theorem State.log_eq (s : State) (code kind : Nat) (ctx : Option Nat) (closed : Bool) (source detail : Nat) :
    s.log code kind ctx closed source detail =
      { s with sys := { s.sys with log := s.sys.log.push (s.entryNow code kind ctx closed source detail) } } := by
  cases ctx <;> rfl

section
variable (l : ErrLog) (e : ErrEntry)

theorem ErrLog.push_at : mget {} (l.push e).entries l.wr = e := mget_mset_same ..

theorem ErrLog.push_other {k : Nat} (other : k ≠ l.wr) : mget {} (l.push e).entries k = mget {} l.entries k :=
  mget_mset_other _ _ _ other.symm

/-- A log with room keeps its unread entries, and is full when the next index is one of them. -/
theorem ErrLog.push_room (room : l.full = false) : (l.push e).rd = l.rd ∧ (l.push e).ovf = l.ovf
    ∧ ((l.push e).full = true ↔ (l.wr + 1) % 4096 = l.rd) := by
  simp [ErrLog.push, room]

/-- A full log loses the entry that RD names, and stays full. -/
theorem ErrLog.push_full (full : l.full = true) : (l.push e).rd = (l.rd + 1) % 4096 ∧ (l.push e).ovf = min (l.ovf + 1) (2 ^ 32 - 1)
    ∧ (l.wr = l.rd → (l.push e).full = true) := by
  simp only [ErrLog.push, full, satAdd, if_true, decide_eq_true_eq, true_and]
  exact fun same => by rw [same]

end

/-! ## SCRUB -/

/-- A cluster that need not be retired is not. -/
theorem State.retireDoomed_of_none {s : State} (none : ∀ n < 36, s.doomed n = false) : s.retireDoomed = s := by
  unfold State.retireDoomed
  split
  · rfl
  · refine List.foldlRecOn (motive := fun t : State => t = s) _ _ rfl fun t same n mem => ?_
    subst same
    simp [none n (List.mem_range.mp mem)]

/-- A repair decision changes the log and the decisions that wait. -/
theorem State.addDecision_eq (t : State) (d : Decision) :
    t.addDecision d = { t with sys := (t.addDecision d).sys, repair := (t.addDecision d).repair } := by
  unfold State.addDecision
  split <;> rfl

theorem State.recordPa_eq (t : State) (pa : Nat) :
    t.recordPa pa = { t with sys := (t.recordPa pa).sys, repair := (t.recordPa pa).repair } := by
  unfold State.recordPa
  split
  · exact t.addDecision_eq _
  · exact t.addDecision_eq _
  · exact t.addDecision_eq _
  · rfl

theorem State.logCorrected_sys (s : State) (kind source detail : Nat) :
    s.logCorrected kind source detail = { s with sys := (s.logCorrected kind source detail).sys } := by
  rw [State.logCorrected_frame]

/-- The state in which the word at a physical offset is known to be uncorrectable (R405). -/
def State.markWord (s : State) (pa : Nat) : State :=
  { s with bad := if s.bad.contains (wordStart pa) then s.bad else wordStart pa :: s.bad }

theorem State.mem_markWord (s : State) (pa b : Nat) : b ∈ (s.markWord pa).bad ↔ b ∈ s.bad ∨ b = wordStart pa := by
  unfold State.markWord
  by_cases known : wordStart pa ∈ s.bad
  · simp only [List.contains_iff_mem, known, if_true]
    exact ⟨.inl, fun h => h.elim id fun e => e ▸ known⟩
  · simp [known, or_comm]

theorem State.wordError_lost {s : State} {pa : Nat} (lost : s.lostTarget pa = true) (outcome : Nat) : s.wordError pa outcome = s := by
  simp [State.wordError, lost]

section
variable {s : State} {pa : Nat} (mapped : (regionOf pa).mapped = true) (kept : s.lostTarget pa = false)
include mapped kept

theorem State.wordError_corrected : s.wordError pa 1 = s.correctedAt pa := by
  simp [State.wordError, mapped, kept]

theorem State.wordError_uncorrectable : s.wordError pa 2 =
    ((((s.markWord pa).log 0x701 (s.placeOf pa).1 none false (s.placeOf pa).2 pa).recordPa pa).retireDoomed) := by
  simp [State.wordError, mapped, kept, State.markWord] <;> rfl

end

theorem execScrub_harmless (s : State) (place : ErrAt) {outcome : Nat} (none : ¬(outcome = 1 ∨ outcome = 2)) :
    execScrub place outcome s = .next s := by
  simp [execScrub, none]

section
variable {s : State} (clocked : Clocked s)
include clocked

theorem execScrub_word (pa : Nat) {outcome : Nat} (error : outcome = 1 ∨ outcome = 2) :
    execScrub (.word pa) outcome s = .next (s.wordError pa outcome) := by
  have runs : s.power.stopped = false := clocked
  rcases error with rfl | rfl <;> simp [execScrub, runs]

theorem execScrub_sram (k : SramKind) (unit row : Nat) (b : CdcBy) : execScrub (.sram k unit row b) 2 s =
    .next (((s.log 0x701 0 (s.ctxOf b) false unit row).recordSram k unit row).issuerFailsWith b 0x701) := by
  have runs : s.power.stopped = false := clocked
  simp [execScrub, runs]

theorem execScrub_path (unit : Nat) (b : CdcBy) : execScrub (.path unit b) 2 s =
    .next ((s.log 0x705 3 (s.ctxOf b) false unit (Config.eventDetail 3 s.tick)).issuerFailsWith b 0x705) := by
  have runs : s.power.stopped = false := clocked
  simp [execScrub, runs]

end

/-! ## STEP_REPLAY: which way it goes -/

/-- Steps 1 to 3 of Table 14.3: what runs of the step ends, and what is on its way arrives. -/
def State.replayHalts (s : State) (x cause step : Nat) (c : Ctx) : State :=
  (((s.setCtx x { c with replaying := true, stashReplay := c.stashReplay || decide (cause = 0x206) }).replayAborts x cause step).landAll
    x).orphanRecords x

/-- Step 4 of Table 14.3: the clusters that the replay resets. -/
def State.replayResets (s : State) (older : List Decision) : State := (s.resetSet older).foldl State.clusterReset s

/-- Whether a quarantined crossing has both ends where no cluster reset can reach. -/
def State.beyondReset (s : State) : Bool :=
  s.sys.quarantine.any (fun q => decide (36 ≤ (crossingEnds q).1 ∧ 36 ≤ (crossingEnds q).2))

theorem execStepReplay_idle {s : State} {x : Nat} (idle : ∀ c, s.ctx x = some c → c.cause = none ∨ c.step = none) :
    execStepReplay x s = .next s := by
  unfold execStepReplay
  split
  · rfl
  · next c known =>
    split
    · next cause step failed latched => rcases idle c known with none | none <;> simp [none] at failed latched
    · rfl

theorem State.refuseReplay_eq {s : State} {x : Nat} {c : Ctx} (known : s.ctx x = some c) (step : Nat) : s.refuseReplay x step =
    (range (max 1 c.causes)).foldl (fun (s : State) _ => s.event x 0x709 (toBytes 4 step))
      (s.setCtx x { c with cause := none, causes := 0, replaying := false }) := by
  simp only [State.refuseReplay, State.modCtx, known, Option.map_some, Option.getD_some]

section
variable {s : State} {x cause step : Nat} {c : Ctx}
variable (clocked : Clocked s) (known : s.ctx x = some c) (failed : c.cause = some cause) (latched : c.step = some step)
include clocked known failed latched

/-- A replay that is due: refused where R410 does not allow it, where a crossing is out of every reset's reach, or where a stream cannot go
back; else the step runs again. -/
theorem execStepReplay_due : let u := s.replayHalts x cause step c
    let v := u.replayResets c.older
    let w := v.restartRecords x step
    let bad := (w.streamsOf x).filter (fun e => !w.rewinds e.2)
    execStepReplay x s =
      if (!s.mayReplay x c cause) = true then .next (s.refuseReplay x step)
      else if u.beyondReset = true then .next (u.refuseReplay x step)
      else if bad ≠ [] then .next ((bad.foldl (fun (s : State) e => s.stopStream e.1 0x904) w).refuseReplay x step)
      else .next (((w.streamsOf x).foldl (fun (s : State) e => s.rewind e.1 e.2) w).replayAgain x step cause c (v.ownMarks x)) := by
  unfold execStepReplay
  split
  next none => simp [known] at none
  next c' known' =>
    obtain rfl : c = c' := Option.some.inj (known.symm.trans known')
    split
    next cause' step' failed' latched' =>
      obtain rfl : cause = cause' := Option.some.inj (failed.symm.trans failed')
      obtain rfl : step = step' := Option.some.inj (latched.symm.trans latched')
      exact if_neg (ne_true_of_eq_false clocked)
    next not => exact (not _ _ failed latched).elim

theorem execStepReplay_refused (no : s.mayReplay x c cause = false) : execStepReplay x s = .next (s.refuseReplay x step) :=
  (execStepReplay_due clocked known failed latched).trans (if_pos (by simp [no]))

variable (allowed : s.mayReplay x c cause = true)
include allowed

theorem execStepReplay_beyondReset (beyond : (s.replayHalts x cause step c).beyondReset = true) :
    execStepReplay x s = .next ((s.replayHalts x cause step c).refuseReplay x step) :=
  (execStepReplay_due clocked known failed latched).trans ((if_neg (by simp [allowed])).trans (if_pos beyond))

variable (reach : (s.replayHalts x cause step c).beyondReset = false)
include reach

/-- Every stream goes back to its cursor, and the step runs again (Table 14.3 steps 6 to 8). -/
theorem execStepReplay_again : let v := (s.replayHalts x cause step c).replayResets c.older
    let w := v.restartRecords x step
    (∀ e ∈ w.streamsOf x, w.rewinds e.2 = true) → execStepReplay x s =
      .next (((w.streamsOf x).foldl (fun (s : State) e => s.rewind e.1 e.2) w).replayAgain x step cause c (v.ownMarks x)) := by
  intro v w all
  refine (execStepReplay_due clocked known failed latched).trans
    ((if_neg (by simp [allowed])).trans ((if_neg (by simp [reach])).trans (if_neg (not_not.mpr ?_))))
  exact List.filter_eq_nil_iff.mpr fun e mem => by simpa using all e mem

/-- A stream that cannot go back stops, and the replay is refused (R413). -/
theorem execStepReplay_cannotRewind : let w := ((s.replayHalts x cause step c).replayResets c.older).restartRecords x step
    (∃ e ∈ w.streamsOf x, w.rewinds e.2 = false) → execStepReplay x s =
      .next ((((w.streamsOf x).filter (fun e => !w.rewinds e.2)).foldl (fun (s : State) e => s.stopStream e.1 0x904) w).refuseReplay
        x step) := by
  intro w ⟨e, mem, cannot⟩
  refine (execStepReplay_due clocked known failed latched).trans
    ((if_neg (by simp [allowed])).trans ((if_neg (by simp [reach])).trans (if_pos ?_)))
  exact List.ne_nil_of_mem (List.mem_filter.mpr ⟨mem, by simpa using cannot⟩)

end

/-! ## STEP_REPLAY: what is left where nothing of the context runs -/

/-- A binding but for its count. -/
def Binding.uncounted (b : Binding) : Binding := { b with count := 0 }

theorem Binding.counted_of_uncounted {a b : Binding} (same : a.uncounted = b.uncounted) (n : Nat) :
    ({ a with count := n } : Binding) = { b with count := n } :=
  congrArg (fun d : Binding => { d with count := n }) same

theorem Binding.kind_of_uncounted {a b : Binding} (same : a.uncounted = b.uncounted) : a.kind = b.kind := by
  change a.uncounted.kind = b.uncounted.kind
  rw [same]

theorem State.setCount_binding (s : State) (key n k : Nat) : (s.setCount key n).binding k =
    if key = k then (s.binding k).map (fun b => { b with count := n }) else s.binding k := by
  unfold State.setCount
  cases bound : s.binding key with
  | none =>
    change s.binding k = _
    split
    next same => rw [← same, bound, Option.map_none]
    next => rfl
  | some b =>
    change mfind (mput s.wmk.binds key { b with count := n }) k = _
    rw [mfind_mput]
    split
    next same => rw [← same, bound, Option.map_some]
    next => rfl

/-- A count changes nothing but the bindings. -/
theorem State.setCount_eq (s : State) (key n : Nat) :
    s.setCount key n = s.modWmk (fun m => { m with binds := (s.setCount key n).wmk.binds }) := by
  unfold State.setCount
  split <;> rfl

/-- `t` is `s` for a replay: of the same contexts, records and streams, with the same crossings and repairs to do, and bindings that differ
in their counts alone. -/
structure SameToReplay (s t : State) : Prop where
  ctxs : t.ctxs = s.ctxs
  evl : t.evl = s.evl
  ing0 : t.ing0 = s.ing0
  ing1 : t.ing1 = s.ing1
  sys : t.sys = s.sys
  repair : t.repair = s.repair
  bindings : ∀ k, (t.binding k).map Binding.uncounted = (s.binding k).map Binding.uncounted

namespace SameToReplay

theorem refl (s : State) : SameToReplay s s := ⟨rfl, rfl, rfl, rfl, rfl, rfl, fun _ => rfl⟩

variable {s t u : State}

theorem trans (h : SameToReplay s t) (k : SameToReplay t u) : SameToReplay s u :=
  ⟨k.ctxs.trans h.ctxs, k.evl.trans h.evl, k.ing0.trans h.ing0, k.ing1.trans h.ing1, k.sys.trans h.sys, k.repair.trans h.repair,
    fun i => (k.bindings i).trans (h.bindings i)⟩

/-- Steps that change none of it. -/
theorem of_binds (ctxs : t.ctxs = s.ctxs) (evl : t.evl = s.evl) (ing0 : t.ing0 = s.ing0) (ing1 : t.ing1 = s.ing1) (sys : t.sys = s.sys)
    (repair : t.repair = s.repair) (binds : t.wmk.binds = s.wmk.binds) : SameToReplay s t :=
  ⟨ctxs, evl, ing0, ing1, sys, repair, fun k => by rw [State.binding, State.binding, binds]⟩

theorem setCount (s : State) (key n : Nat) : SameToReplay s (s.setCount key n) := by
  refine ⟨?_, ?_, ?_, ?_, ?_, ?_, fun k => ?_⟩
  case refine_7 =>
    rw [State.setCount_binding]
    split
    · rw [Option.map_map]
      rfl
    · rfl
  all_goals rw [State.setCount_eq]; rfl

theorem releaseWait (s : State) (w : Wait) : SameToReplay s (s.releaseWait w) := by
  cases who : w.who with
  | core c => rw [s.releaseWait_of_core who, State.passWait_eq]; exact of_binds rfl rfl rfl rfl rfl rfl rfl
  | task _ _ _ | evile _ _ _ => rw [State.releaseWait, who]; exact of_binds rfl rfl rfl rfl rfl rfl rfl

theorem foldl {α : Type} {f : State → α → State} (hf : ∀ t a, SameToReplay t (f t a)) (l : List α) (s : State) :
    SameToReplay s (l.foldl f s) :=
  List.foldlRecOn (motive := SameToReplay s) l f (refl s) fun t h a _ => h.trans (hf t a)

theorem applyAdd (s : State) (key inc : Nat) : SameToReplay s (s.applyAdd key inc) := by
  unfold State.applyAdd
  split
  · exact refl s
  · next b _ =>
    dsimp only
    refine trans (trans (setCount s key (satAdd 64 b.count inc)) ?_) (foldl releaseWait ..)
    split <;> split <;> exact of_binds rfl rfl rfl rfl rfl rfl rfl

theorem landAll (s : State) (x : Nat) : SameToReplay s (s.landAll x) := by
  unfold State.landAll
  refine trans (t := s.modWmk _) (of_binds rfl rfl rfl rfl rfl rfl rfl) (foldl (fun t a => ?_) ..)
  split
  · exact applyAdd ..
  · exact refl t

end SameToReplay

/-- Where nothing of a context is on its way, nothing arrives. -/
theorem State.landAll_of_none {s : State} {x : Nat} (none : ∀ a ∈ s.wmk.adds, keyCtx a.key ≠ x) :
    s.landAll x = s.modWmk (fun m => { m with adds := m.adds.filter (fun a => decide (keyCtx a.key ≠ x)) }) := by
  have mine : s.wmk.adds.filter (fun a => decide (keyCtx a.key = x)) = [] := List.filter_eq_nil_iff.mpr (by simpa using none)
  simp only [State.landAll, mine, List.foldl_nil]

section
variable {s : State} {x cause step : Nat}

theorem mem_stopped {l : Map IStream} {f : Nat × IStream → Nat × IStream} (ctx : ∀ q, (f q).2.ctx = q.2.ctx)
    (none : ∀ e ∈ l, e.2.ctx ≠ x) : ∀ e ∈ l.map f, e.2.ctx ≠ x := by
  intro e mem
  obtain ⟨q, there, rfl⟩ := List.mem_map.mp mem
  exact fun its => none q there ((ctx q).symm.trans its)

theorem State.streamsOf_eq_nil : s.streamsOf x = [] ↔ (∀ e ∈ s.ing0.streams, e.2.ctx ≠ x) ∧ ∀ e ∈ s.ing1.streams, e.2.ctx ≠ x := by
  simp only [State.streamsOf, List.filter_eq_nil_iff, List.mem_append, or_imp, forall_and, decide_eq_true_eq, ne_eq]

theorem State.pauseStreams_streamsOf (none : s.streamsOf x = []) : (s.pauseStreams x).streamsOf x = [] := by
  rw [State.streamsOf_eq_nil] at none ⊢
  have ctx (q : Nat × IStream) : (if q.2.ctx = x then (q.1, { q.2 with paused := true }) else q).2.ctx = q.2.ctx := by split <;> rfl
  exact ⟨mem_stopped ctx none.1, mem_stopped ctx none.2⟩

theorem State.modCtx_eq (s : State) (x : Nat) (f : Ctx → Ctx) : s.modCtx x f = { s with ctxs := (s.modCtx x f).ctxs } := by
  unfold State.modCtx
  split <;> rfl

/-- Where no graph of a context runs, its streams stop once the manager has been told (Table 14.3 steps 1 and 2). -/
theorem State.replayAborts_of_none (none : ∀ e ∈ s.trh.graphs, e.2.ctx ≠ x) : ∃ u : State,
    s.replayAborts x cause step = u.pauseStreams x ∧ u = { s with ctxs := u.ctxs, nxp := u.nxp, out := u.out }
      ∧ ((s.ctx x).isSome = true → (u.ctx x).isSome = true) := by
  have nothing {t : State} (same : t.trh = s.trh) : t.trh.graphs.filter (fun e => decide (e.2.ctx = x)) = [] :=
    List.filter_eq_nil_iff.mpr (by simpa [same] using none)
  unfold State.replayAborts
  dsimp only
  split
  · generalize sent : State.sendManager _ _ _ _ = u
    have told : Told (s.modCtx x fun c => { c with told := true }) u := sent ▸ State.sendManager_told ..
    refine ⟨u, by rw [nothing ((congrArg State.trh told.rest).trans (s.modCtx_trh ..)), List.foldl_nil], ?_, fun there => ?_⟩
    · rw [told.rest, State.modCtx_eq]
    · rw [told.rest]
      change ((s.modCtx x _).ctx x).isSome = true
      rwa [State.modCtx_ctx, Option.isSome_map]
  · exact ⟨s, by rw [nothing rfl]; rfl, rfl, id⟩

end

/-- A context of which no record and no stream is left, on a device with no crossing and no decision that asks for a reset. -/
structure Quiesced (x : Nat) (s : State) : Prop where
  known : (s.ctx x).isSome = true
  crossings : s.sys.quarantine = []
  decisions : s.repair.waiting = []
  records : ∀ e ∈ s.evl.recs, e.2.ctx ≠ x
  streams : s.streamsOf x = []

theorem SameToReplay.quiesced {s t : State} {x : Nat} (same : SameToReplay s t) (q : Quiesced x s) : Quiesced x t where
  known := by rw [State.ctx, same.ctxs]; exact q.known
  crossings := by rw [same.sys]; exact q.crossings
  decisions := by rw [same.repair]; exact q.decisions
  records := by rw [same.evl]; exact q.records
  streams := by rw [State.streamsOf, same.ing0, same.ing1]; exact q.streams

namespace Quiesced

variable {s : State} {x : Nat} (q : Quiesced x s)
include q

theorem setCtx (c : Ctx) : Quiesced x (s.setCtx x c) :=
  ⟨by rw [State.setCtx_ctx]; rfl, q.crossings, q.decisions, q.records, q.streams⟩

theorem beyondReset : s.beyondReset = false := by simp [State.beyondReset, q.crossings]

theorem replayResets (older : List Decision) : s.replayResets older = s := by
  have none : s.resetSet older = [] := by simp [State.resetSet, q.crossings, q.decisions]
  rw [State.replayResets, none, List.foldl_nil]

theorem noRecords : s.evl.recs.filter (fun e => decide (e.2.ctx = x)) = [] :=
  List.filter_eq_nil_iff.mpr (by simpa using q.records)

theorem ownMarks : s.ownMarks x = [] := by simp [State.ownMarks, q.noRecords, q.streams]

theorem restartRecords (step : Nat) : s.restartRecords x step = s.dropEvileWaits (fun y _ => decide (y = x)) := by
  rw [State.restartRecords, q.noRecords, List.foldl_nil]

/-- Steps 1 to 3 of Table 14.3 change counts alone of what a replay goes by, and no core where no add of the context is on its way. -/
theorem replayHalts {cause step : Nat} {c : Ctx} (idle : ∀ e ∈ s.trh.graphs, e.2.ctx ≠ x) :
    let u := s.replayHalts x cause step c
    Quiesced x u ∧ (∀ k, (u.binding k).map Binding.uncounted = (s.binding k).map Binding.uncounted)
      ∧ ((∀ a ∈ s.wmk.adds, keyCtx a.key ≠ x) → u.cores = s.cores) := by
  generalize begins : s.setCtx x { c with replaying := true, stashReplay := c.stashReplay || decide (cause = 0x206) } = b
  have start : Quiesced x b := begins ▸ q.setCtx _
  have wmk : b.wmk = s.wmk := by rw [← begins, State.setCtx_wmk]
  obtain ⟨u, aborts, told, there⟩ := State.replayAborts_of_none (s := b) (x := x) (cause := cause) (step := step)
    (by rw [← begins, State.setCtx_trh]; exact idle)
  have paused : Quiesced x (u.pauseStreams x) := by
    refine ⟨there start.known, ?_, ?_, ?_, State.pauseStreams_streamsOf ?_⟩
    · exact (congrArg (fun t : State => t.sys.quarantine) told).trans start.crossings
    · exact (congrArg (fun t : State => t.repair.waiting) told).trans start.decisions
    · exact (congrArg (fun t : State => t.evl) told) ▸ start.records
    · exact (congrArg (fun t : State => t.streamsOf x) told).trans start.streams
  have same : SameToReplay (u.pauseStreams x) (((u.pauseStreams x).landAll x).orphanRecords x) :=
    (SameToReplay.landAll ..).trans (.of_binds rfl rfl rfl rfl rfl rfl rfl)
  have pausedWmk : (u.pauseStreams x).wmk = s.wmk := (congrArg State.wmk told).trans wmk
  simp only [State.replayHalts, begins, aborts]
  refine ⟨same.quiesced paused, fun k => ?_, fun none => ?_⟩
  · rw [same.bindings, State.binding, State.binding, pausedWmk]
  · rw [State.landAll_of_none (by rw [pausedWmk]; exact none)]
    exact (congrArg State.cores told).trans (by rw [← begins, State.setCtx_cores])

end Quiesced

/-! ## The Waymarks return to their recorded counts -/

/-- The count that step 6 of Table 14.3 gives a Waymark: the recorded one, INIT where it has been bound since. -/
def returnCount (bound : List (Nat × Nat)) (e : Nat × Binding) : Nat :=
  ((bound.find? (fun b => decide (b.1 = keyId e.1))).map Prod.snd).getD e.2.init

theorem State.restoreCounts_nil (s : State) (x : Nat) (bound : List (Nat × Nat)) : s.restoreCounts x bound [] =
    (s.bindsOf x).foldl (fun (s : State) e => if e.2.kind = 3 then s else s.setCount e.1 (returnCount bound e)) s := by
  simp [State.restoreCounts, returnCount]

section
variable (s : State) (x : Nat) (bound : List (Nat × Nat))

theorem State.restoreCounts_eq :
    s.restoreCounts x bound [] = s.modWmk (fun m => { m with binds := (s.restoreCounts x bound []).wmk.binds }) := by
  rw [State.restoreCounts_nil]
  refine List.foldlRecOn (motive := fun t : State => t = s.modWmk (fun m => { m with binds := t.wmk.binds })) _ _ rfl
    fun t same e _ => ?_
  split
  · exact same
  · rw [State.setCount_eq, same]
    rfl

/-- A recorded Waymark has its recorded count once one of the bindings gone through is its own, or where it has it already. -/
theorem State.foldl_returnCount {k : Nat} {v : Nat × Nat} (recorded : bound.find? (fun e => decide (e.1 = keyId k)) = some v)
    (l : List (Nat × Binding)) : ∀ (t : State) (b : Binding), t.binding k = some b →
      ((∃ d, (k, d) ∈ l ∧ d.kind ≠ 3) ∨ b.count = v.2) →
      (l.foldl (fun (s : State) e => if e.2.kind = 3 then s else s.setCount e.1 (returnCount bound e)) t).binding k =
        some { b with count := v.2 } := by
  induction l with
  | nil =>
    intro t b here reaches
    obtain ⟨_, mem, _⟩ | counted := reaches
    · exact absurd mem List.not_mem_nil
    · rw [List.foldl_nil, here, ← counted]
  | cons e l ih =>
    intro t b here reaches
    rw [List.foldl_cons]
    by_cases sets : e.1 = k ∧ e.2.kind ≠ 3
    · obtain ⟨key, local_⟩ := sets
      have count : returnCount bound e = v.2 := by rw [returnCount, key, recorded]; rfl
      rw [if_neg local_, count]
      refine ih _ { b with count := v.2 } ?_ (.inr rfl)
      rw [State.setCount_binding, if_pos key, here, Option.map_some]
    · refine ih _ b ?_ (reaches.imp_left fun ⟨d, mem, local_⟩ => ?_)
      · split
        · exact here
        next local_ => rw [State.setCount_binding, if_neg fun key => sets ⟨key, local_⟩, here]
      · obtain rfl | later := List.mem_cons.mp mem
        · exact absurd ⟨rfl, local_⟩ sets
        · exact ⟨d, later, local_⟩

theorem mem_of_mfind {α : Type} {m : Map α} {k : Nat} {a : α} (found : mfind m k = some a) : (k, a) ∈ m := by
  induction m with
  | nil => cases found
  | cons e r ih =>
    rw [mfind] at found
    split at found
    next key =>
      cases found
      cases key
      exact List.mem_cons_self
    next => exact List.mem_cons_of_mem _ (ih found)

theorem State.restoreCounts_binding {k : Nat} {v : Nat × Nat} {b : Binding} (here : s.binding k = some b) (own : keyCtx k = x)
    (local_ : b.kind ≠ 3) (recorded : bound.find? (fun e => decide (e.1 = keyId k)) = some v) :
    (s.restoreCounts x bound []).binding k = some { b with count := v.2 } := by
  rw [State.restoreCounts_nil]
  exact State.foldl_returnCount bound recorded _ s b here
    (.inl ⟨b, List.mem_filter.mpr ⟨mem_of_mfind here, by simp [own]⟩, local_⟩)

end

/-- Where no graph of the step was recorded, the replay is counted once the Waymarks have returned (Table 14.3 steps 6 and 7). -/
theorem State.replayAgain_counted {s : State} {x step cause : Nat} {c : Ctx} (known : (s.ctx x).isSome = true) (unrecorded : c.recorded = []) :
    let t := s.replayAgain x step cause c []
    t.wmk = (s.restoreCounts x c.bound []).wmk ∧ t.cores = s.cores
      ∧ ∃ y, t.ctx x = some y ∧ y.replays = c.replays + 1 ∧ y.cause = none ∧ y.replaying = false := by
  generalize restored : s.restoreCounts x c.bound [] = r
  have ctxs : r.ctxs = s.ctxs := by rw [← restored, State.restoreCounts_eq]; rfl
  have cores : r.cores = s.cores := by rw [← restored, State.restoreCounts_eq]; rfl
  have told := r.event_replied x 0x704 (toBytes 4 step ++ toBytes 2 (c.replays + 1) ++ toBytes 2 cause)
  simp only [State.replayAgain, unrecorded, List.map_nil, List.foldl_nil, restored]
  refine ⟨?_, ?_, ?_⟩
  · rw [State.modCtx_wmk, State.log_wmk, told.wmk]
  · rw [State.modCtx_cores, State.log_cores, told.cores, cores]
  · obtain ⟨z, there⟩ := Option.isSome_iff_exists.mp known
    rw [State.modCtx_ctx, State.ctx, State.log_ctxs, told.ctxs, ctxs, ← State.ctx, there]
    exact ⟨_, rfl, rfl, rfl, rfl⟩

/-- A replay of a context with nothing left running: it is counted, the recorded Waymarks are back at their counts, and no core changes
where no add of the context was on its way (R411, R412). -/
theorem execStepReplay_quiesced {s : State} {x cause step : Nat} {c : Ctx} (clocked : Clocked s) (known : s.ctx x = some c)
    (failed : c.cause = some cause) (latched : c.step = some step) (allowed : s.mayReplay x c cause = true)
    (idle : ∀ e ∈ s.trh.graphs, e.2.ctx ≠ x) (q : Quiesced x s) (unrecorded : c.recorded = []) :
    ∃ t y, execStepReplay x s = .next t ∧ t.ctx x = some y ∧ y.replays = c.replays + 1 ∧ y.cause = none ∧ y.replaying = false
      ∧ ((∀ a ∈ s.wmk.adds, keyCtx a.key ≠ x) → t.cores = s.cores)
      ∧ ∀ k b v, s.binding k = some b → keyCtx k = x → b.kind ≠ 3 → c.bound.find? (fun e => decide (e.1 = keyId k)) = some v →
          t.binding k = some { b with count := v.2 } := by
  obtain ⟨halted, bindings, cores⟩ := q.replayHalts (cause := cause) (step := step) (c := c) idle
  have again := execStepReplay_again clocked known failed latched allowed halted.beyondReset
  simp only [halted.replayResets, halted.ownMarks, halted.restartRecords] at again
  generalize s.replayHalts x cause step c = u at halted bindings cores again
  have streams : (u.dropEvileWaits (fun y _ => decide (y = x))).streamsOf x = [] := halted.streams
  simp only [streams, List.not_mem_nil, false_implies, implies_true, List.foldl_nil, forall_const] at again
  obtain ⟨wmk, sameCores, y, there, replays, cause_, replaying⟩ :=
    State.replayAgain_counted (s := u.dropEvileWaits (fun y _ => decide (y = x))) (step := step) (cause := cause) halted.known unrecorded
  refine ⟨_, y, again, there, replays, cause_, replaying, fun still => sameCores.trans (cores still),
    fun k b v bound own local_ recorded => ?_⟩
  have same : (u.binding k).map Binding.uncounted = some b.uncounted := by rw [bindings, bound, Option.map_some]
  obtain ⟨d, here, uncounted⟩ := Option.map_eq_some_iff.mp same
  have kind : d.kind ≠ 3 := (Binding.kind_of_uncounted uncounted).symm ▸ local_
  rw [State.binding, wmk, ← Binding.counted_of_uncounted uncounted]
  exact State.restoreCounts_binding _ x c.bound here own kind recorded

end Sys2Proof.Machine

namespace Sys2Proof.Safety

open Machine

/-- Settles O43. The log and SCRUB by their cases; STEP_REPLAY by the ways that it can go, and where nothing of the context runs by what its
halt leaves and by going through the context's bindings. -/
theorem scrubbingAndReplay : Obligations.ScrubbingAndReplay := by
  unfold Obligations.ScrubbingAndReplay
  refine ⟨fun s code kind source detail ctx closed => ?_, fun s pa clocked => ?_, fun s none => State.retireDoomed_of_none none,
    fun s x _ idle => execStepReplay_idle idle, fun s x cause step c clocked known failed latched => ⟨fun no => ?_, fun allowed => ?_⟩⟩
  · exact ⟨s.log_eq .., ErrLog.push_at .., rfl, fun k => ErrLog.push_other _ _, ErrLog.push_room _ _, ErrLog.push_full _ _, rfl⟩
  · refine ⟨fun place => execScrub_harmless s place (by decide), fun mapped kept => ⟨fun first => ?_, fun again => ?_, ?_,
      s.mem_markWord pa, s.logCorrected_sys .., fun t => t.recordPa_eq pa⟩, fun outcome lost => ?_, execScrub_sram clocked, execScrub_path clocked⟩
    · refine (execScrub_word clocked pa (.inl rfl)).trans (congrArg Host.Outcome.next ?_)
      rw [State.wordError_corrected mapped kept]
      exact if_neg (ne_true_of_eq_false first)
    · refine (execScrub_word clocked pa (.inl rfl)).trans (congrArg Host.Outcome.next ?_)
      rw [State.wordError_corrected mapped kept]
      exact if_pos again
    · refine (execScrub_word clocked pa (.inr rfl)).trans (congrArg Host.Outcome.next ?_)
      exact State.wordError_uncorrectable mapped kept
    · by_cases error : outcome = 1 ∨ outcome = 2
      · rw [exec, execScrub_word clocked pa error, State.wordError_lost lost]
      · exact execScrub_harmless s (.word pa) error
  · exact (execStepReplay_refused clocked known failed latched no).trans (congrArg Host.Outcome.next (State.refuseReplay_eq known step))
  · refine ⟨execStepReplay_beyondReset clocked known failed latched allowed, execStepReplay_again clocked known failed latched allowed,
      execStepReplay_cannotRewind clocked known failed latched allowed, fun idle crossings decisions records streams unrecorded => ?_⟩
    have there : (s.ctx x).isSome = true := by rw [known]; rfl
    exact execStepReplay_quiesced clocked known failed latched allowed idle ⟨there, crossings, decisions, records, streams⟩ unrecorded

end Sys2Proof.Safety
end
